-- ==== Sys2Proof/Word.lean ====
section
/-! DEFINITION. The word types of the machine (R3, R75): bytes, 32-bit and 64-bit words. -/

namespace Sys2Proof

/-- One byte of memory. -/
abbrev Byte := BitVec 8

/-- An instruction word (R75) or a 32-bit lane (R9). -/
abbrev W32 := BitVec 32

/-- The contents of a scalar register (R16). -/
abbrev W64 := BitVec 64

/-- A 5-bit register field (R76). -/
abbrev R5 := BitVec 5

end Sys2Proof
end

