-- ==== Sys2Proof/Config.lean ====
section
/-! DEFINITION. What the build fixes (R1, R13, R14) and the values that the manual leaves open. -/

namespace Sys2Proof.Config

/-! ## Free values: constants without a body, so nothing can be proved of their values. -/

/-- Which of some equally allowed things the hardware takes, by the count of free choices made so far: the way that a home-line
data cache or a slice evicts to make room (R293, R298). DESIGN CHOICE (log 5): the manual names no order. -/
opaque pick : Nat → Nat

/-- The id that `tnew` gives a new tile, by the count of free choices so far; its use keeps it nonzero, below 2^40 and
unused (R261). DESIGN CHOICE (log 5). -/
opaque tileId : Nat → Nat

/-- SHAKE256 of some bytes with 64 bytes of output (R380, R383). The manual names the function and does not define it (log 6). -/
opaque shake256 : List Byte → List Byte

/-- Does an ML-DSA-65 signature (last argument) verify over a digest under vendor key 0..3 (R380)? Not defined by the manual (log 6). -/
opaque verifies : Nat → List Byte → List Byte → Bool

/-- The identity key's ML-DSA-65 signature over a digest (R382, R383). Not defined by the manual (log 6). -/
opaque sign : List Byte → List Byte

/-- The certificate chain in DER (R382). Not given by the manual (log 6). -/
opaque certificates : List Byte

/-- SHAKE256 of the boot ROM (R383). Not given by the manual (log 6). -/
opaque romDigest : List Byte

/-- The firmware image version that `INFO` returns, of the image that runs, by its `DIGEST` (R364). Not given by the manual (log 6). -/
opaque imageVersion : List Byte → Nat

/-- The silicon stepping, `DEVPART.STEP` (R360). Not given by the manual (log 6). -/
opaque stepping : Nat

/-- What a load of a peer line reads when its owner cannot be reached, by the count of free choices made so far (R354: the manual
gives no value; log 27). -/
opaque lostRead : Nat → Nat

/-- Does `mchk` fail a residue, given with its checksum and the tolerances, whose limit τ + ρ · |ck| is ∞ · 0 or ∞ − ∞ (R182: the
manual states no outcome; DESIGN CHOICE, log 32)? -/
opaque unbounded : Nat → Nat → Nat → Bool

/-- Have the tile tables no room for a `tnew` (R261), or tile storage none for a seal (R333), by the count of free choices made so far?
The manual gives neither capacity: DESIGN CHOICE (log 37). -/
opaque tilesFull : Nat → Bool

/-- The set of its home slice that line `i` of a tile's sealed data takes in transit, by tile and `i` (R298: the manual gives no place; DESIGN CHOICE,
log 19). -/
opaque transitSet : Nat → Nat → Nat

/-- Does the scan of a fenced cluster pass (R378), by the count of free choices made so far? DESIGN CHOICE (log 5): it is a fact of the part. -/
opaque scanPasses : Nat → Bool

/-- The bytes of the answer to `INFO` after response word 0, for the three registers of `DEVID` (part and stepping, interface versions,
leadership) and the image version (R364: the manual gives no layout; log 51). -/
opaque infoPage : Nat → Nat → Nat → Nat → List Byte

/-- The bytes of the answer to `LOGRD` after response word 0, for the log from an index on (R364, R370: no layout; log 51). -/
opaque logPage : List (Nat × Nat × Nat) → List Byte

/-- `DIGEST` of the image that runs when none has been activated yet (R381, R383; log 6). -/
opaque bootDigest : List Byte

/-! ## Figures of the build (R1, R13, R14). -/

/-- Cycles per mesh hop (R14). -/
def hop : Nat := 1

/-- Cycles per crossing between the layers of a chiplet (R14). -/
def layerX : Nat := 2

/-- Cycles per crossing between a lower layer and the base die (R14). -/
def cBase : Nat := 14

/-- Cycles per crossing between the base dies (R14). -/
def retX : Nat := 40

/-- Matrix clusters in the package (R14). -/
def clusters : Nat := 336

/-- Cores in the package (R1). -/
def cores : Nat := 2688

/-- The rows of R13: FENCE, ACQ, REL, TMIN, TTYP, TMAX of each scope code. -/
def discoveryCosts : List (List Nat) :=
  [[0, 0, 0, 0, 0, 0], [2, 2, 2, 0, 1, 2], [40, 36, 44, 1, 9, 24], [70, 64, 76, 2, 11, 26], [180, 170, 190, 28, 39, 56],
   [400, 380, 420, 68, 79, 96], [20000, 18000, 20000, 300, 4000, 16500]]

/-- `MEMBERS` of the scopes `.lg` to `.pkg` (R13); that of `.pod` follows the relay bank. -/
def discoveryMembers : List Nat := [16, 1, 168, 336, 1344, 2688]

/-- Units of reference time in one nominal cycle: a unit is a third of a nanosecond, so 600 MHz is 5 units (R2). -/
def cycleUnits : Nat := 5

/-- First byte past local memory (R132). -/
def localBytes : Nat := 0x80000

/-- First byte of the completion ring in local memory (R232). -/
def ringBase : Nat := 0x7E000

end Sys2Proof.Config
end

