-- ==== Sys2Proof/Machine/Maps.lean ====
section
/-! DEFINITION. Maps from numbers as lists of pairs with rising keys, and sets of numbers as rising lists. -/

namespace Sys2Proof.Machine

/-- A map with number keys. -/
abbrev Map (α : Type) := List (Nat × α)

/-- The entry of a key. -/
def Map.find {α : Type} : Map α → Nat → Option α
  | [], _ => none
  | (j, v) :: t, k => if j = k then some v else Map.find t k

/-- The entry of a key, or a default. -/
def Map.getD {α : Type} (m : Map α) (k : Nat) (d : α) : α := (m.find k).getD d

/-- Writes the entry of a key, keeping the keys rising. -/
def Map.put {α : Type} : Map α → Nat → α → Map α
  | [], k, v => [(k, v)]
  | (j, u) :: t, k, v => if j = k then (k, v) :: t else if k < j then (k, v) :: (j, u) :: t else (j, u) :: Map.put t k v

/-- Removes the entries of a key. -/
def Map.del {α : Type} (m : Map α) (k : Nat) : Map α := m.filter fun p => p.1 != k

/-- A set of numbers as a rising list. -/
abbrev NatSet := List Nat

/-- Adds a member. -/
def NatSet.add : NatSet → Nat → NatSet
  | [], k => [k]
  | j :: t, k => if j = k then j :: t else if k < j then k :: j :: t else j :: NatSet.add t k

/-- Removes a member. -/
def NatSet.del (m : NatSet) (k : Nat) : NatSet := m.filter fun j => j != k

/-- The pair whose number is least, the first of equals. -/
def leastBy {α : Type} (f : α → Nat) : List α → Option α
  | [] => none
  | a :: l => some (l.foldl (fun b c => if f c < f b then c else b) a)

/-- The pair whose number is greatest, the first of equals. -/
def greatestBy {α : Type} (f : α → Nat) : List α → Option α
  | [] => none
  | a :: l => some (l.foldl (fun b c => if f b < f c then c else b) a)

/-- Replaces the first element that satisfies `p`. -/
def replaceFirst {α : Type} (p : α → Bool) (a : α) : List α → List α
  | [] => []
  | b :: l => if p b then a :: l else b :: replaceFirst p a l

/-- Removes the first element that satisfies `p`. -/
def removeFirst {α : Type} (p : α → Bool) : List α → List α
  | [] => []
  | b :: l => if p b then l else b :: removeFirst p l

end Sys2Proof.Machine
end

