-- ==== Sys2Proof/Syntax.lean ====
section
/-! DEFINITION. The instruction type: one constructor per row of the opcode table (R75 to R97 and the device steps). -/

namespace Sys2Proof

/-- One `ext` word of a group (R90): its kind and its payload. The fields keep every bit that a legal word can hold;
the bits that R90 to R95 reserve are zero in every legal word and have no field here. -/
inductive Ext where
  /-- Kind 0, IMM: 22 immediate bits (R92). -/
  | imm (p : BitVec 22)
  /-- Kind 1, MEM: ordering, scope, policy (R93). -/
  | mem (ord : BitVec 2) (scope : BitVec 3) (pol : BitVec 2)
  /-- Kind 2, MASK: mask register (R94). -/
  | mask (k : BitVec 3)
  /-- Kind 3, HINT: code and argument (R95). -/
  | hint (code : BitVec 4) (arg : BitVec 18)
deriving DecidableEq, Repr

/-- The three masters of R365. -/
inductive Master where
  | host | mc | pod
deriving DecidableEq, Repr

/-- Who writes a device register: a master (R365) or a supervisor-level context of a core, which ownership does not govern. -/
inductive Writer where
  | master (m : Master)
  | core (cid : Nat)
deriving DecidableEq, Repr

/-- What a fabric packet carries, by kind (R345). Addresses are physical; bytes are listed lowest first. -/
inductive Body where
  /-- `MSG`: a 32-byte message of `chsend` for a channel of a core, with the source context (R257, R346). -/
  | msg (chan cid net srcCtx : Nat) (bytes : List Byte)
  /-- `LREQ`: read of a peer line (the line number is the physical address divided by 128). -/
  | lreq (line : Nat)
  /-- `LDATA`: a line of 128 bytes with a poison bit per 8-byte word (R372); `answer` marks the answer to a `RECALL`. -/
  | ldata (line : Nat) (bytes : List Byte) (poison : Nat) (answer : Bool)
  /-- `LWB`: a line, its dirty mask (bit b for byte b) and poison bits. -/
  | lwb (line : Nat) (mask : Nat) (bytes : List Byte) (poison : Nat)
  /-- `INV`: invalidation of a slice copy. -/
  | inv (line : Nat)
  /-- `RECALL`: recall of a slice copy. -/
  | recallLine (line : Nat)
  /-- `WREQ`: a `.pod`-ordered word store at the owner's slice. -/
  | wreq (pa size val : Nat)
  /-- `AREQ`: an atomic or reduction: op code of R203, or 16 for `amoc` with its compare value. -/
  | areq (pa op size val cmp : Nat) (red : Bool)
  /-- `ARSP`: an atomic reply or the completion of a `WREQ`; `bad` tells that the object word is poisoned (R373). -/
  | arsp (val : Nat) (bad : Bool)
  /-- `CPYDATA`: bytes of a remote `cpyx` for local addresses of a core, with the numbers of its poisoned words (R372), counted on a barrier
  word when given; `copy` names the copy. -/
  | cpydata (cid : Nat) (bytes : List (Nat × Byte)) (bad : List Nat) (bar : Option Nat) (copy : Nat) (last : Bool)
  /-- `CPYDONE`: status, fault code, delivered bytes and first failing address of a remote copy. -/
  | cpydone (copy status fault bytes faddr : Nat)
  /-- `QREP`: the work that the messages with these end-to-end numbers started has quiesced (R326). -/
  | qrep (lid : Nat) (seqs : List Nat)
  /-- `CTRL`: a pod-manager write of a device register; `none` reads it (R365). -/
  | ctrl (off : Nat) (val : Option (BitVec 64))
  /-- `ACK`: acknowledges the given end-to-end number and returns relay credits (R347, R349). -/
  | ack (eseq credits : Nat)
  /-- A payload of no assigned kind (R345). -/
  | other
deriving DecidableEq, Repr

/-- A fabric packet: the header of R344 and its payload. -/
structure Packet where
  dst : Nat
  src : Nat
  bank : Bool
  relayed : Bool
  len : Nat
  kind : Nat
  tenant : Nat
  reserved : Nat
  eseq : Nat
  tag : Nat
  body : Body
deriving DecidableEq, Repr

/-- One constructor per row of the opcode table. A row with an instruction word carries the `ext` words of its group (`e`,
R91) and the fields of its word under the table's names; the group's value, its mask and its ordering are read from `e`
by the operand forms. A row without a word is an indivisible step of the device. Where it acts on one unit or one item (a core, a
context, a cluster, an access in flight), the number of that unit or item is plain data of the state (`State.item`), which
the choice of the step sets; other operands (who writes, which value, the packet) are fields. -/
inductive Instr where
  /-- ADD (R114). Writes the 64-bit wrapping sum of sa and sb to sd. -/
  | add (e : List Ext) (d : BitVec 5) (a : BitVec 5) (b : BitVec 5)
  /-- SUB (R114). Writes the 64-bit wrapping difference sa minus sb to sd. -/
  | sub (e : List Ext) (d : BitVec 5) (a : BitVec 5) (b : BitVec 5)
  /-- MUL (R114). Writes the low 64 bits of the product of sa and sb to sd. -/
  | mul (e : List Ext) (d : BitVec 5) (a : BitVec 5) (b : BitVec 5)
  /-- MULH (R114). Writes the high 64 bits of the signed 128-bit product to sd. -/
  | mulh (e : List Ext) (d : BitVec 5) (a : BitVec 5) (b : BitVec 5)
  /-- MULHZ (R114). Writes the high 64 bits of the unsigned 128-bit product to sd. -/
  | mulhz (e : List Ext) (d : BitVec 5) (a : BitVec 5) (b : BitVec 5)
  /-- DIV (R115). Writes the signed quotient truncated towards zero; division by zero sets DZ and does not fault. -/
  | div (e : List Ext) (d : BitVec 5) (a : BitVec 5) (b : BitVec 5)
  /-- DIVZ (R115). Writes the unsigned quotient; division by zero sets DZ and does not fault. -/
  | divz (e : List Ext) (d : BitVec 5) (a : BitVec 5) (b : BitVec 5)
  /-- REM (R115). Writes the signed remainder, which takes the sign of the dividend. -/
  | rem (e : List Ext) (d : BitVec 5) (a : BitVec 5) (b : BitVec 5)
  /-- REMZ (R115). Writes the unsigned remainder. -/
  | remz (e : List Ext) (d : BitVec 5) (a : BitVec 5) (b : BitVec 5)
  /-- AND (R114). Writes the bitwise AND of sa and sb to sd. -/
  | and (e : List Ext) (d : BitVec 5) (a : BitVec 5) (b : BitVec 5)
  /-- OR (R114). Writes the bitwise OR of sa and sb to sd. -/
  | or (e : List Ext) (d : BitVec 5) (a : BitVec 5) (b : BitVec 5)
  /-- XOR (R114). Writes the bitwise exclusive OR of sa and sb to sd. -/
  | xor (e : List Ext) (d : BitVec 5) (a : BitVec 5) (b : BitVec 5)
  /-- SHL (R114). Shifts sa left by sb[5:0], filling with zeros. -/
  | shl (e : List Ext) (d : BitVec 5) (a : BitVec 5) (b : BitVec 5)
  /-- SHR (R114). Shifts sa right logically by sb[5:0]. -/
  | shr (e : List Ext) (d : BitVec 5) (a : BitVec 5) (b : BitVec 5)
  /-- SRA (R114). Shifts sa right arithmetically by sb[5:0]. -/
  | sra (e : List Ext) (d : BitVec 5) (a : BitVec 5) (b : BitVec 5)
  /-- MIN (R114). Writes the signed minimum of sa and sb. -/
  | min (e : List Ext) (d : BitVec 5) (a : BitVec 5) (b : BitVec 5)
  /-- MAX (R114). Writes the signed maximum of sa and sb. -/
  | max (e : List Ext) (d : BitVec 5) (a : BitVec 5) (b : BitVec 5)
  /-- MINZ (R114). Writes the unsigned minimum of sa and sb. -/
  | minz (e : List Ext) (d : BitVec 5) (a : BitVec 5) (b : BitVec 5)
  /-- MAXZ (R114). Writes the unsigned maximum of sa and sb. -/
  | maxz (e : List Ext) (d : BitVec 5) (a : BitVec 5) (b : BitVec 5)
  /-- SEQ (R114). Writes 1 if sa equals sb, else 0. -/
  | seq (e : List Ext) (d : BitVec 5) (a : BitVec 5) (b : BitVec 5)
  /-- SNE (R114). Writes 1 if sa differs from sb, else 0. -/
  | sne (e : List Ext) (d : BitVec 5) (a : BitVec 5) (b : BitVec 5)
  /-- SLT (R114). Writes 1 if sa is less than sb as signed values, else 0. -/
  | slt (e : List Ext) (d : BitVec 5) (a : BitVec 5) (b : BitVec 5)
  /-- SLTZ (R114). Writes 1 if sa is less than sb as unsigned values, else 0. -/
  | sltz (e : List Ext) (d : BitVec 5) (a : BitVec 5) (b : BitVec 5)
  /-- CLZ (R114). Writes the number of leading zeros of sa, 0 to 64. -/
  | clz (e : List Ext) (d : BitVec 5) (a : BitVec 5)
  /-- CTZ (R114). Writes the number of trailing zeros of sa, 0 to 64. -/
  | ctz (e : List Ext) (d : BitVec 5) (a : BitVec 5)
  /-- POPC (R114). Writes the number of 1 bits in sa. -/
  | popc (e : List Ext) (d : BitVec 5) (a : BitVec 5)
  /-- ADDI (R116). Writes sa plus the sign-extended or widened immediate. -/
  | addi (e : List Ext) (d : BitVec 5) (a : BitVec 5) (i : BitVec 15)
  /-- ANDI (R116). Writes the bitwise AND of sa and the immediate. -/
  | andi (e : List Ext) (d : BitVec 5) (a : BitVec 5) (i : BitVec 15)
  /-- ORI (R116). Writes the bitwise OR of sa and the immediate. -/
  | ori (e : List Ext) (d : BitVec 5) (a : BitVec 5) (i : BitVec 15)
  /-- XORI (R116). Writes the bitwise exclusive OR of sa and the immediate. -/
  | xori (e : List Ext) (d : BitVec 5) (a : BitVec 5) (i : BitVec 15)
  /-- SLTI (R116). Writes 1 if sa is less than the immediate as signed values, else 0. -/
  | slti (e : List Ext) (d : BitVec 5) (a : BitVec 5) (i : BitVec 15)
  /-- SHLI (R117). Shifts sa left by an immediate count. -/
  | shli (e : List Ext) (d : BitVec 5) (a : BitVec 5) (n : BitVec 6)
  /-- SHRI (R117). Shifts sa right logically by an immediate count. -/
  | shri (e : List Ext) (d : BitVec 5) (a : BitVec 5) (n : BitVec 6)
  /-- SRAI (R117). Shifts sa right arithmetically by an immediate count. -/
  | srai (e : List Ext) (d : BitVec 5) (a : BitVec 5) (n : BitVec 6)
  /-- LIH (R118). Writes the sign-extended or widened imm20 shifted left by 15. -/
  | lih (e : List Ext) (d : BitVec 5) (i : BitVec 20)
  /-- ADDPC (R118). Writes the address of the word plus four times the word offset, modulo 2^57. -/
  | addpc (e : List Ext) (d : BitVec 5) (i : BitVec 20)
  /-- SEL (R119). Writes sa when sc is nonzero, and sb otherwise. -/
  | sel (e : List Ext) (d : BitVec 5) (a : BitVec 5) (b : BitVec 5) (c : BitVec 5)
  /-- FADD (R121). Adds two FP32 values with one rounding. -/
  | fadd (e : List Ext) (d : BitVec 5) (a : BitVec 5) (b : BitVec 5) (r : BitVec 2)
  /-- FSUB (R121). Subtracts two FP32 values with one rounding. -/
  | fsub (e : List Ext) (d : BitVec 5) (a : BitVec 5) (b : BitVec 5) (r : BitVec 2)
  /-- FMUL (R121). Multiplies two FP32 values with one rounding. -/
  | fmul (e : List Ext) (d : BitVec 5) (a : BitVec 5) (b : BitVec 5) (r : BitVec 2)
  /-- FMIN (R121). Returns the smaller FP32 operand, with -0 below +0. -/
  | fmin (e : List Ext) (d : BitVec 5) (a : BitVec 5) (b : BitVec 5)
  /-- FMAX (R121). Returns the larger FP32 operand, with -0 below +0. -/
  | fmax (e : List Ext) (d : BitVec 5) (a : BitVec 5) (b : BitVec 5)
  /-- FCMP (R122). Writes 1 when the FP32 condition holds and 0 otherwise. -/
  | fcmp (e : List Ext) (d : BitVec 5) (a : BitVec 5) (b : BitVec 5) (c : BitVec 3)
  /-- FCVT (R123). Converts a scalar between FP32 and another type, per the table of pairs. -/
  | fcvt (e : List Ext) (d : BitVec 5) (a : BitVec 5) (s : BitVec 4) (t : BitVec 4) (r : BitVec 2)
  /-- FFMA (R121). Computes sa·sb+sc in FP32 with one rounding and an unrounded product. -/
  | ffma (e : List Ext) (d : BitVec 5) (a : BitVec 5) (b : BitVec 5) (c : BitVec 5) (r : BitVec 2)
  /-- BEQ (R124). Branches when sx equals sy. -/
  | beq (e : List Ext) (x : BitVec 5) (y : BitVec 5) (o : BitVec 15)
  /-- BNE (R124). Branches when sx differs from sy. -/
  | bne (e : List Ext) (x : BitVec 5) (y : BitVec 5) (o : BitVec 15)
  /-- BLT (R124). Branches when sx is less than sy as signed values. -/
  | blt (e : List Ext) (x : BitVec 5) (y : BitVec 5) (o : BitVec 15)
  /-- BGE (R124). Branches when sx is at least sy as signed values. -/
  | bge (e : List Ext) (x : BitVec 5) (y : BitVec 5) (o : BitVec 15)
  /-- BLTZ (R124). Branches when sx is less than sy as unsigned values. -/
  | bltz (e : List Ext) (x : BitVec 5) (y : BitVec 5) (o : BitVec 15)
  /-- BGEZ (R124). Branches when sx is at least sy as unsigned values. -/
  | bgez (e : List Ext) (x : BitVec 5) (y : BitVec 5) (o : BitVec 15)
  /-- JMP (R125). Jumps by the sign-extended 25-bit word offset. -/
  | jmp (e : List Ext) (o : BitVec 25)
  /-- JAL (R125). Jumps by the word offset and writes the link to s31. -/
  | jal (e : List Ext) (o : BitVec 25)
  /-- JR (R126). Jumps to the address in sa, faulting ALIGN or XLATE on a bad target. -/
  | jr (e : List Ext) (a : BitVec 5)
  /-- JALR (R126). Jumps to the address in sa and writes the link to sd. -/
  | jalr (e : List Ext) (d : BitVec 5) (a : BitVec 5)
  /-- CSRR (R128). Reads a CSR into sd. -/
  | csrr (e : List Ext) (d : BitVec 5) (c : BitVec 12)
  /-- CSRW (R128). Writes sa to a CSR, with reserved bits ignored and clamps applied. -/
  | csrw (e : List Ext) (a : BitVec 5) (c : BitVec 12)
  /-- CSRS (R128). Sets in a CSR the bits that are set in sa. -/
  | csrs (e : List Ext) (a : BitVec 5) (c : BitVec 12)
  /-- CSRC (R128). Clears in a CSR the bits that are set in sa. -/
  | csrc (e : List Ext) (a : BitVec 5) (c : BitVec 12)
  /-- LDL (R132). Loads from local memory; the .fe and .fec modes park on an empty granule, and .fec empties it. -/
  | ldl (e : List Ext) (d : BitVec 5) (a : BitVec 5) (s : BitVec 2) (m : BitVec 2) (o : BitVec 11)
  /-- STL (R132). Stores to local memory; the .fee mode parks on a full granule and then sets it full. -/
  | stl (e : List Ext) (d : BitVec 5) (a : BitVec 5) (s : BitVec 2) (m : BitVec 2) (o : BitVec 11)
  /-- LDG (R135). Loads from global virtual memory under the ordering, scope and policy of a MEM word. -/
  | ldg (e : List Ext) (d : BitVec 5) (a : BitVec 5) (s : BitVec 2) (m : BitVec 2) (o : BitVec 11)
  /-- STG (R135). Stores to global virtual memory. -/
  | stg (e : List Ext) (d : BitVec 5) (a : BitVec 5) (s : BitVec 2) (o : BitVec 11)
  /-- LDX (R136). Loads from another core's local memory and pins the context until the reply arrives. -/
  | ldx (e : List Ext) (d : BitVec 5) (a : BitVec 5) (b : BitVec 5) (m : BitVec 2) (s : BitVec 2)
  /-- STX (R136). Stores to another core's local memory, after the target core has checked it. -/
  | stx (e : List Ext) (d : BitVec 5) (a : BitVec 5) (b : BitVec 5) (s : BitVec 2)
  /-- VADD (R142). Adds vector elements in the active lanes. -/
  | vadd (e : List Ext) (d : BitVec 5) (a : BitVec 5) (b : BitVec 5) (k : BitVec 3) (r : BitVec 2)
  /-- VSUB (R142). Subtracts vector elements in the active lanes. -/
  | vsub (e : List Ext) (d : BitVec 5) (a : BitVec 5) (b : BitVec 5) (k : BitVec 3) (r : BitVec 2)
  /-- VMUL (R142). Multiplies vector elements in the active lanes. -/
  | vmul (e : List Ext) (d : BitVec 5) (a : BitVec 5) (b : BitVec 5) (k : BitVec 3) (r : BitVec 2)
  /-- VMIN (R144). Writes the smaller element of each pair. -/
  | vmin (e : List Ext) (d : BitVec 5) (a : BitVec 5) (b : BitVec 5) (k : BitVec 3)
  /-- VMAX (R144). Writes the larger element of each pair. -/
  | vmax (e : List Ext) (d : BitVec 5) (a : BitVec 5) (b : BitVec 5) (k : BitVec 3)
  /-- VFMA (R143). Computes a·b+c per element with one rounding. -/
  | vfma (e : List Ext) (d : BitVec 5) (a : BitVec 5) (b : BitVec 5) (c : BitVec 5) (k : BitVec 3) (r : BitVec 2)
  /-- VFMS (R143). Computes a·b−c per element with one rounding. -/
  | vfms (e : List Ext) (d : BitVec 5) (a : BitVec 5) (b : BitVec 5) (c : BitVec 5) (k : BitVec 3) (r : BitVec 2)
  /-- VFNMA (R143). Computes c−a·b per element with one rounding. -/
  | vfnma (e : List Ext) (d : BitVec 5) (a : BitVec 5) (b : BitVec 5) (c : BitVec 5) (k : BitVec 3) (r : BitVec 2)
  /-- VABS (R145). Clears the sign of each element. -/
  | vabs (e : List Ext) (d : BitVec 5) (a : BitVec 5) (k : BitVec 3)
  /-- VNEG (R145). Inverts the sign of each element. -/
  | vneg (e : List Ext) (d : BitVec 5) (a : BitVec 5) (k : BitVec 3)
  /-- VEXP2 (R146). Computes a correctly rounded 2^x per F32 element. -/
  | vexp2 (e : List Ext) (d : BitVec 5) (a : BitVec 5) (k : BitVec 3) (r : BitVec 2)
  /-- VLOG2 (R146). Computes a correctly rounded log2 per F32 element. -/
  | vlog2 (e : List Ext) (d : BitVec 5) (a : BitVec 5) (k : BitVec 3) (r : BitVec 2)
  /-- VRCP (R146). Computes a correctly rounded reciprocal per F32 element. -/
  | vrcp (e : List Ext) (d : BitVec 5) (a : BitVec 5) (k : BitVec 3) (r : BitVec 2)
  /-- VRSQRT (R146). Computes a correctly rounded reciprocal square root per F32 element. -/
  | vrsqrt (e : List Ext) (d : BitVec 5) (a : BitVec 5) (k : BitVec 3) (r : BitVec 2)
  /-- VAND (R147). Bitwise AND of active lanes. -/
  | vand (e : List Ext) (d : BitVec 5) (a : BitVec 5) (b : BitVec 5) (k : BitVec 3)
  /-- VOR (R147). Bitwise OR of active lanes. -/
  | vor (e : List Ext) (d : BitVec 5) (a : BitVec 5) (b : BitVec 5) (k : BitVec 3)
  /-- VXOR (R147). Bitwise exclusive OR of active lanes. -/
  | vxor (e : List Ext) (d : BitVec 5) (a : BitVec 5) (b : BitVec 5) (k : BitVec 3)
  /-- VSHL (R147). Shifts each element left by the count in b. -/
  | vshl (e : List Ext) (d : BitVec 5) (a : BitVec 5) (b : BitVec 5) (k : BitVec 3)
  /-- VSHR (R147). Shifts each element right logically. -/
  | vshr (e : List Ext) (d : BitVec 5) (a : BitVec 5) (b : BitVec 5) (k : BitVec 3)
  /-- VSRA (R147). Shifts each element right arithmetically. -/
  | vsra (e : List Ext) (d : BitVec 5) (a : BitVec 5) (b : BitVec 5) (k : BitVec 3)
  /-- VCMP (R148). Writes a mask of the lanes where the condition holds for every element. -/
  | vcmp (e : List Ext) (d : BitVec 5) (a : BitVec 5) (b : BitVec 5) (c : BitVec 3) (k : BitVec 3)
  /-- VSEL (R149). Selects each lane from va or vb by the mask. -/
  | vsel (e : List Ext) (d : BitVec 5) (a : BitVec 5) (b : BitVec 5) (k : BitVec 3)
  /-- VCVT (R150). Converts elements index for index to the destination type. -/
  | vcvt (e : List Ext) (d : BitVec 5) (a : BitVec 5) (t : BitVec 4) (k : BitVec 3) (r : BitVec 2)
  /-- VTAG (R151). Copies a register and sets its tag without conversion. -/
  | vtag (e : List Ext) (d : BitVec 5) (a : BitVec 5) (t : BitVec 4)
  /-- VMOV (R152). Copies active lanes; the destination takes the source's tag. -/
  | vmov (e : List Ext) (d : BitVec 5) (a : BitVec 5) (k : BitVec 3)
  /-- VBCAST (R152). Broadcasts the low bits of a scalar to every element of the active lanes. -/
  | vbcast (e : List Ext) (d : BitVec 5) (a : BitVec 5) (t : BitVec 4) (k : BitVec 3)
  /-- VEXT (R153). Extracts one element into a scalar register. -/
  | vext (e : List Ext) (d : BitVec 5) (a : BitVec 5) (b : BitVec 5)
  /-- VINS (R153). Inserts a scalar into one element of a vector register. -/
  | vins (e : List Ext) (d : BitVec 5) (a : BitVec 5) (b : BitVec 5)
  /-- VPERM (R154). Permutes whole 32-bit lanes by indices in vb. -/
  | vperm (e : List Ext) (d : BitVec 5) (a : BitVec 5) (b : BitVec 5) (k : BitVec 3)
  /-- VREDSUM (R155). Sums the active elements into element 0 over a fixed tree. -/
  | vredsum (e : List Ext) (d : BitVec 5) (a : BitVec 5) (k : BitVec 3) (r : BitVec 2)
  /-- VREDMAX (R155). Writes the largest active element into element 0. -/
  | vredmax (e : List Ext) (d : BitVec 5) (a : BitVec 5) (k : BitVec 3)
  /-- VREDMIN (R155). Writes the smallest active element into element 0. -/
  | vredmin (e : List Ext) (d : BitVec 5) (a : BitVec 5) (k : BitVec 3)
  /-- VDOT_BF16 (R156). Adds the BF16 pair products of each lane to an FP32 accumulator with one rounding. -/
  | vdotBf16 (e : List Ext) (d : BitVec 5) (a : BitVec 5) (b : BitVec 5) (c : BitVec 5) (k : BitVec 3) (r : BitVec 2)
  /-- VDOT_TD8 (R156). Adds the four TD8 products of each lane to an FP32 accumulator with one rounding. -/
  | vdotTd8 (e : List Ext) (d : BitVec 5) (a : BitVec 5) (b : BitVec 5) (c : BitVec 5) (k : BitVec 3) (r : BitVec 2)
  /-- KSET (R157). Writes a mask register from a scalar. -/
  | kset (e : List Ext) (d : BitVec 5) (a : BitVec 5)
  /-- KAND (R157). ANDs two mask registers. -/
  | kand (e : List Ext) (d : BitVec 5) (a : BitVec 5) (b : BitVec 5)
  /-- KOR (R157). ORs two mask registers. -/
  | kor (e : List Ext) (d : BitVec 5) (a : BitVec 5) (b : BitVec 5)
  /-- KNOT (R157). Inverts a mask register. -/
  | knot (e : List Ext) (d : BitVec 5) (a : BitVec 5)
  /-- KPOP (R157). Writes the number of set mask bits to a scalar. -/
  | kpop (e : List Ext) (d : BitVec 5) (a : BitVec 5)
  /-- SBIND_POP (R159). Binds a vector register to a shape as a pop stream. -/
  | sbindPop (e : List Ext) (d : BitVec 5) (a : BitVec 5)
  /-- SBIND_PUSH (R159). Binds a vector register to a shape as a push stream. -/
  | sbindPush (e : List Ext) (d : BitVec 5) (a : BitVec 5)
  /-- SFREE (R164). Unbinds a stream slot, draining push strips or discarding staged pop strips. -/
  | sfree (e : List Ext) (d : BitVec 5)
  /-- CKACC_MOD (R166). Folds the raw bits of the active elements into an invariant register modulo 2^64. -/
  | ckaccMod (e : List Ext) (d : BitVec 5) (a : BitVec 5) (k : BitVec 3)
  /-- CKACC_FSUM (R166). Folds the exact values of the active elements into a binary64 sum. -/
  | ckaccFsum (e : List Ext) (d : BitVec 5) (a : BitVec 5) (k : BitVec 3)
  /-- CKCLR (R167). Empties an invariant register. -/
  | ckclr (e : List Ext) (d : BitVec 5)
  /-- CKRD_LO (R167). Reads bits [63:0] of an invariant register. -/
  | ckrdLo (e : List Ext) (d : BitVec 5) (a : BitVec 5)
  /-- CKRD_HI (R167). Reads bits [127:64] of an invariant register. -/
  | ckrdHi (e : List Ext) (d : BitVec 5) (a : BitVec 5)
  /-- CHECK (R168). Compares two invariant registers under a tolerance and traps CHECK on a failure. -/
  | check (e : List Ext) (d : BitVec 5) (a : BitVec 5) (b : BitVec 5)
  /-- VLD (R198). Loads 256 bytes of local memory into a vector register, with optional full/empty modes. -/
  | vld (e : List Ext) (d : BitVec 5) (a : BitVec 5) (t : BitVec 4) (m : BitVec 2) (o : BitVec 9)
  /-- VST (R198). Stores a vector register to local memory, with an optional .fee mode. -/
  | vst (e : List Ext) (d : BitVec 5) (a : BitVec 5) (m : BitVec 2) (o : BitVec 9)
  /-- VLDG (R199). Loads 256 bytes of global memory into a vector register. -/
  | vldg (e : List Ext) (d : BitVec 5) (a : BitVec 5) (t : BitVec 4) (o : BitVec 9)
  /-- VSTG (R199). Stores a vector register to global memory, lane by lane. -/
  | vstg (e : List Ext) (d : BitVec 5) (a : BitVec 5) (o : BitVec 9)
  /-- VGATH (R202). Gathers 4-byte lanes from local or global addresses at per-lane offsets. -/
  | vgath (e : List Ext) (d : BitVec 5) (a : BitVec 5) (b : BitVec 5) (s : BitVec 1) (t : BitVec 4) (k : BitVec 3)
  /-- VSCAT (R202). Scatters 4-byte lanes to local or global addresses in ascending lane order. -/
  | vscat (e : List Ext) (d : BitVec 5) (a : BitVec 5) (b : BitVec 5) (s : BitVec 1) (k : BitVec 3)
  /-- MMA (R175). Checks a matrix product at issue, captures its indices and descriptors, and queues it. -/
  | mma (e : List Ext) (m : BitVec 4) (a : BitVec 3) (b : BitVec 3) (v : BitVec 5) (c : BitVec 1)
  /-- ODSET (R173). Writes an operand descriptor after checking its format, alignment and range. -/
  | odset (e : List Ext) (d : BitVec 5) (a : BitVec 5) (b : BitVec 5)
  /-- MWIN (R173). Writes a window descriptor, claims its block and queues the side-entry reset. -/
  | mwin (e : List Ext) (d : BitVec 5) (a : BitVec 5)
  /-- MZERO (R177). Queues the zeroing of a window and its checksums. -/
  | mzero (e : List Ext) (d : BitVec 5)
  /-- MLD (R178). Queues a load of window elements from local memory, re-forming the checksums. -/
  | mld (e : List Ext) (d : BitVec 5) (a : BitVec 5)
  /-- MST (R179). Queues a store of the window's 32-bit elements to local memory. -/
  | mst (e : List Ext) (d : BitVec 5) (a : BitVec 5)
  /-- MST_BF16 (R179). Queues a store of the window narrowed to BF16. -/
  | mstBf16 (e : List Ext) (d : BitVec 5) (a : BitVec 5)
  /-- MST_TD8 (R179). Queues a store of the window encoded as TD8. -/
  | mstTd8 (e : List Ext) (d : BitVec 5) (a : BitVec 5)
  /-- MCHK (R182). Tests the window residues against a tolerance, writes two masks and traps CHECK on a failure. -/
  | mchk (e : List Ext) (d : BitVec 5) (a : BitVec 5) (b : BitVec 5)
  /-- MRES (R181). Writes the row and column residues of a window into a vector register. -/
  | mres (e : List Ext) (d : BitVec 5) (a : BitVec 5)
  /-- MSCALE (R180). Scales window elements by row and column scales. -/
  | mscale (e : List Ext) (d : BitVec 5) (a : BitVec 5) (b : BitVec 5)
  /-- AMO_ADD (R203). Atomically adds to a global word and returns the old value. -/
  | amoAdd (e : List Ext) (d : BitVec 5) (a : BitVec 5) (b : BitVec 5) (s : BitVec 2)
  /-- AMO_AND (R203). Atomic AND, returning the old value. -/
  | amoAnd (e : List Ext) (d : BitVec 5) (a : BitVec 5) (b : BitVec 5) (s : BitVec 2)
  /-- AMO_OR (R203). Atomic OR, returning the old value. -/
  | amoOr (e : List Ext) (d : BitVec 5) (a : BitVec 5) (b : BitVec 5) (s : BitVec 2)
  /-- AMO_XOR (R203). Atomic exclusive OR, returning the old value. -/
  | amoXor (e : List Ext) (d : BitVec 5) (a : BitVec 5) (b : BitVec 5) (s : BitVec 2)
  /-- AMO_MIN (R203). Atomic signed minimum, returning the old value. -/
  | amoMin (e : List Ext) (d : BitVec 5) (a : BitVec 5) (b : BitVec 5) (s : BitVec 2)
  /-- AMO_MAX (R203). Atomic signed maximum, returning the old value. -/
  | amoMax (e : List Ext) (d : BitVec 5) (a : BitVec 5) (b : BitVec 5) (s : BitVec 2)
  /-- AMO_MINZ (R203). Atomic unsigned minimum, returning the old value. -/
  | amoMinz (e : List Ext) (d : BitVec 5) (a : BitVec 5) (b : BitVec 5) (s : BitVec 2)
  /-- AMO_MAXZ (R203). Atomic unsigned maximum, returning the old value. -/
  | amoMaxz (e : List Ext) (d : BitVec 5) (a : BitVec 5) (b : BitVec 5) (s : BitVec 2)
  /-- AMO_SWAP (R203). Atomic swap, returning the old value. -/
  | amoSwap (e : List Ext) (d : BitVec 5) (a : BitVec 5) (b : BitVec 5) (s : BitVec 2)
  /-- AMO_FADD (R203). Atomic FP32 add with RNE rounding, returning the old value. -/
  | amoFadd (e : List Ext) (d : BitVec 5) (a : BitVec 5) (b : BitVec 5)
  /-- RED_ADD (R203). Queues an atomic add that returns nothing. -/
  | redAdd (e : List Ext) (a : BitVec 5) (b : BitVec 5) (s : BitVec 2)
  /-- RED_AND (R203). Queues an atomic AND that returns nothing. -/
  | redAnd (e : List Ext) (a : BitVec 5) (b : BitVec 5) (s : BitVec 2)
  /-- RED_OR (R203). Queues an atomic OR that returns nothing. -/
  | redOr (e : List Ext) (a : BitVec 5) (b : BitVec 5) (s : BitVec 2)
  /-- RED_XOR (R203). Queues an atomic exclusive OR that returns nothing. -/
  | redXor (e : List Ext) (a : BitVec 5) (b : BitVec 5) (s : BitVec 2)
  /-- RED_MIN (R203). Queues an atomic signed minimum. -/
  | redMin (e : List Ext) (a : BitVec 5) (b : BitVec 5) (s : BitVec 2)
  /-- RED_MAX (R203). Queues an atomic signed maximum. -/
  | redMax (e : List Ext) (a : BitVec 5) (b : BitVec 5) (s : BitVec 2)
  /-- RED_MINZ (R203). Queues an atomic unsigned minimum. -/
  | redMinz (e : List Ext) (a : BitVec 5) (b : BitVec 5) (s : BitVec 2)
  /-- RED_MAXZ (R203). Queues an atomic unsigned maximum. -/
  | redMaxz (e : List Ext) (a : BitVec 5) (b : BitVec 5) (s : BitVec 2)
  /-- RED_FADD (R203). Queues an atomic FP32 add. -/
  | redFadd (e : List Ext) (a : BitVec 5) (b : BitVec 5)
  /-- AMOC (R204). Atomic compare and swap of 4, 8 or 16 bytes, returning the old value. -/
  | amoc (e : List Ext) (d : BitVec 5) (a : BitVec 5) (b : BitVec 5) (c : BitVec 5) (s : BitVec 2)
  /-- FENCE (R209). Holds the context until its earlier accesses are performed at the scope, optionally returning and clearing the peer bitmap. -/
  | fence (e : List Ext) (d : BitVec 5) (p : BitVec 1) (s : BitVec 3)
  /-- QFENCE (R210). Holds the context until the named engine queues' commands have completed at the scope. -/
  | qfence (e : List Ext) (q : BitVec 5) (s : BitVec 3)
  /-- ACQ (R212). Reads a sync object at its home slice and invalidates the copies of bound lines. -/
  | acq (e : List Ext) (a : BitVec 5) (s : BitVec 3)
  /-- REL (R212). Fences, writes back the dirty bound lines and increments a sync object. -/
  | rel (e : List Ext) (a : BitVec 5) (s : BitVec 3)
  /-- RBIND (R211). Adds, replaces or removes a binding of a region to a sync object. -/
  | rbind (e : List Ext) (d : BitVec 5) (a : BitVec 5) (b : BitVec 5)
  /-- ICINV (R213). Invalidates the instruction caches of every core in the scope instance. -/
  | icinv (e : List Ext) (s : BitVec 3)
  /-- FESET (R214). Makes a granule full and wakes its waiters. -/
  | feset (e : List Ext) (a : BitVec 5)
  /-- FECLR (R214). Makes a granule empty and wakes its waiters. -/
  | feclr (e : List Ext) (a : BitVec 5)
  /-- FEWAIT (R214). Yields until a granule is full. -/
  | fewait (e : List Ext) (a : BitVec 5)
  /-- BINIT (R218). Initialises a delivery barrier or retires it. -/
  | binit (e : List Ext) (a : BitVec 5) (b : BitVec 5)
  /-- BENROL (R219). Records a barrier in an obligation slot of the context. -/
  | benrol (e : List Ext) (a : BitVec 5) (n : BitVec 2)
  /-- BARRIVE (R220). Performs one releasing arrival on a local or remote barrier. -/
  | barrive (e : List Ext) (a : BitVec 5) (b : BitVec 5) (s : BitVec 3)
  /-- BEXPECT (R221). Adds expected bytes to a barrier's balance, poisoning it on overflow. -/
  | bexpect (e : List Ext) (a : BitVec 5) (b : BitVec 5)
  /-- BWAIT (R222). Yields until the awaited barrier phase completes or the barrier is broken. -/
  | bwait (e : List Ext) (d : BitVec 5) (a : BitVec 5) (s : BitVec 3)
  /-- BTEST (R223). Reads a barrier word without waiting, with acquire semantics. -/
  | btest (e : List Ext) (d : BitVec 5) (a : BitVec 5) (s : BitVec 3)
  /-- CPY (R227). Checks two shape records and queues a bulk copy. -/
  | cpy (e : List Ext) (d : BitVec 5) (a : BitVec 5) (b : BitVec 5)
  /-- CPYX (R227). Checks and queues a copy into another core's or package's local memory. -/
  | cpyx (e : List Ext) (d : BitVec 5) (a : BitVec 5) (b : BitVec 5)
  /-- CPWAIT (R234). Yields until a completion record is available, then returns it and frees its slot. -/
  | cpwait (e : List Ext) (d : BitVec 5)
  /-- NALLOC (R245). Takes and initialises a node from the free-node cache. -/
  | nalloc (e : List Ext) (d : BitVec 5) (a : BitVec 5)
  /-- NFREE (R247). Frees a node to the cache or the arena. -/
  | nfree (e : List Ext) (a : BitVec 5)
  /-- NLD (R248). Reads one word of a node. -/
  | nld (e : List Ext) (d : BitVec 5) (a : BitVec 5) (n : BitVec 3)
  /-- NST (R248). Writes a header or payload word of a node. -/
  | nst (e : List Ext) (d : BitVec 5) (a : BitVec 5) (n : BitVec 3)
  /-- PLINK (R240). Joins the wires ending at two ports, linearizably, and reports LOOP and ACTIVE. -/
  | plink (e : List Ext) (d : BitVec 5) (a : BitVec 5) (b : BitVec 5)
  /-- PGET (R249). Reads the settled value of a port. -/
  | pget (e : List Ext) (d : BitVec 5) (a : BitVec 5)
  /-- PPUSH (R250). Pushes a pair of nodes to a pair bag unless it is already active. -/
  | ppush (e : List Ext) (a : BitVec 5) (b : BitVec 5)
  /-- TEND (R256). Ends the task after its matrix commands and push slots have drained. -/
  | tend (e : List Ext)
  /-- COMMIT (R260). Ends a heavy task and sends its result and rewrite to the tile's weir. -/
  | commit (e : List Ext) (d : BitVec 5) (a : BitVec 5) (b : BitVec 5)
  /-- HSPAWN (R258). Pins versions and asks the distributor to start a heavy task. -/
  | hspawn (e : List Ext) (d : BitVec 5) (a : BitVec 5) (b : BitVec 5)
  /-- CHSEND (R257). Sends a 32-byte message to a channel. -/
  | chsend (e : List Ext) (a : BitVec 5) (b : BitVec 5)
  /-- RTSET (R252). Checks and loads the rule table and trap-handler address of the launch's net. -/
  | rtset (e : List Ext) (d : BitVec 5) (a : BitVec 5) (b : BitVec 5)
  /-- YIELD (R255). Explicit yield point that sets the next yield interval's limit. -/
  | yield (e : List Ext) (n : BitVec 12)
  /-- WORKQ (R263). Sends an asynchronous request to one of the launch's work counters. -/
  | workq (e : List Ext) (a : BitVec 5) (b : BitVec 5)
  /-- TVER (R262). Reads a tile's current version and size at its home slice. -/
  | tver (e : List Ext) (d : BitVec 5) (a : BitVec 5)
  /-- TNEW (R261). Creates a tile and seals its version 0. -/
  | tnew (e : List Ext) (d : BitVec 5) (a : BitVec 5)
  /-- TRAP (R264). Takes the handled trap TRAP. -/
  | trap (e : List Ext) (a : BitVec 5) (n : BitVec 5)
  /-- ERET (R264). Returns from a trap handler to XPC. -/
  | eret (e : List Ext)
  /-- TSTAMP (R265). Reads the 1 GHz reference count. -/
  | tstamp (e : List Ext) (d : BitVec 5)
  /-- DSCR (R266). Reads a discovery-table entry. -/
  | dscr (e : List Ext) (d : BitVec 5) (a : BitVec 5)
  /-- PWREQ (R267). Asks the power arbiter for a matrix power token with a reservation. -/
  | pwreq (e : List Ext) (d : BitVec 5) (a : BitVec 5)
  /-- PWREL (R267). Lowers the context's power reservation. -/
  | pwrel (e : List Ext) (a : BitVec 5)
  /-- STRIP_REFILL (R307). The copy unit stages a strip of a pop stream. -/
  | stripRefill (k : Nat) (slot : Nat)
  /-- STRIP_PUSH_WRITE (R163). The copy unit writes a pushed strip to its target. -/
  | stripPushWrite (k : Nat) (slot : Nat)
  /-- BLOCK_CLEAR (R172). Clears and frees an ended context's blocks once its queued commands are done. -/
  | blockClear (g : Nat) (k : Nat)
  /-- POWER_TOKEN_RETURN (R385). A cluster idle for a launch for 256 cycles leaves its set and may return its token. -/
  | powerTokenReturn (lid : Nat) (g : Nat)
  /-- CAP_CHANGE (R384). Firmware lowers or raises a layer's token cap. -/
  | capChange (layer : Nat) (cap : Nat)
  /-- CQDOOR (R311). A doorbell write wakes the command processor for the stream. -/
  | cqdoor (w : Writer) (q : Nat)
  /-- CQ_ENABLE (R309). Writing EN 1 resets CQSEQ and starts the stream. -/
  | cqEnable (w : Writer) (q : Nat) (v : BitVec 64)
  /-- CQ_DISABLE (R309). Writing EN 0 stops acceptance on the stream. -/
  | cqDisable (w : Writer) (q : Nat) (v : BitVec 64)
  /-- XLINV (R306). Drops station entries, restarts walks and optionally wakes NOTPRESENT waiters. -/
  | xlinv (w : Writer) (v : BitVec 64)
  /-- MXPART (R171). Applies a new partition or rejects it, setting REJ. -/
  | mxpart (w : Writer) (g : Nat) (v : BitVec 64)
  /-- PREEMPT (R194). Writing PREEMPT 1 stops and spills the cluster's matrix state. -/
  | preempt (w : Writer) (g : Nat)
  /-- RESUME (R194). Writing PREEMPT 0 restores the cluster and resumes the stopped mma. -/
  | resume (w : Writer) (g : Nat)
  /-- LMPOOL (R289). Applies a new lease-pool base or rejects it, setting REJ. -/
  | lmpool (w : Writer) (cid : Nat) (v : BitVec 64)
  /-- INJ_ARM (R375). Arms the error injector when the address and kind are valid. -/
  | injArm (v : BitVec 64)
  /-- TWBANK_ARM (R353). Arms a switch to the next relay bank at a given cycle. -/
  | twbankArm (w : Writer) (v : BitVec 64)
  /-- RETIRE (R353). Retires the old relay bank when its count is zero, else sets REJ. -/
  | retire (w : Writer)
  /-- RELAY_BANK_WRITE (R353). Writes a relay-bank entry, ignored for the current or a live bank. -/
  | relayBankWrite (w : Writer) (bank : Bool) (n : Nat) (v : BitVec 64)
  /-- OWNCLAIM (R366). Makes the writing master the owner when there is none. -/
  | ownclaim (m : Master)
  /-- OWNGIVE (R366). The owner releases ownership or offers it to another master. -/
  | owngive (m : Master) (target : BitVec 2)
  /-- OWNTAKE (R366). The pending target accepts ownership. -/
  | owntake (m : Master)
  /-- REGISTER_WRITE (R4). A write to a device register without its own behaviour. -/
  | registerWrite (w : Writer) (off : Nat) (v : BitVec 64)
  /-- INFO (R364). Mailbox command returning identity and versions. -/
  | info (m : Master)
  /-- OWNQ (R364). Mailbox command returning OWNSTAT. -/
  | ownq (m : Master)
  /-- ATTEST (R383). Mailbox command writing signed evidence. -/
  | attest (m : Master)
  /-- FWSTAGE (R381). Mailbox command staging and checking a firmware image. -/
  | fwstage (m : Master)
  /-- FWACT (R381). Mailbox command marking the staged image for the next reset. -/
  | fwact (m : Master)
  /-- UNITRST (R364). Mailbox command resetting a core, cluster or port. -/
  | unitrst (m : Master)
  /-- TESTST (R379). Mailbox command returning a page of a taint record. -/
  | testst (m : Master)
  /-- LOGRD (R364). Mailbox command returning firmware log entries. -/
  | logrd (m : Master)
  /-- ABORT (R314). Mailbox command ending a launch before it completes. -/
  | abort (m : Master)
  /-- MSG (R346). A message packet arrives and is started in TAG order. -/
  | msg (p : Packet)
  /-- LREQ (R345). A peer line read arrives at its owner. -/
  | lreq (p : Packet)
  /-- LDATA (R345). A line of data arrives for a slice copy or recall. -/
  | ldata (p : Packet)
  /-- LWB (R299). A write-back arrives and is merged at the owner, which invalidates other holders. -/
  | lwb (p : Packet)
  /-- INV (R345). A directory invalidation of a slice copy arrives. -/
  | inv (p : Packet)
  /-- RECALL (R299). A directory recall arrives and the holder writes back. -/
  | recallPkt (p : Packet)
  /-- WREQ (R345). A pod-ordered word store arrives at the owner's slice. -/
  | wreq (p : Packet)
  /-- AREQ (R345). An atomic or reduction request arrives at the owner. -/
  | areq (p : Packet)
  /-- ARSP (R345). An atomic reply or store completion arrives. -/
  | arsp (p : Packet)
  /-- CPYDATA (R346). Remote copy data arrives and is applied in TAG order. -/
  | cpydata (p : Packet)
  /-- CPYDONE (R345). A remote copy's completion status arrives. -/
  | cpydone (p : Packet)
  /-- QREP (R326). A report that a guest launch has quiesced arrives. -/
  | qrep (p : Packet)
  /-- CTRL (R365). A pod-manager register, ownership or mailbox access arrives. -/
  | ctrl (p : Packet)
  /-- ACK (R347). An end-to-end acknowledgement releases a held packet. -/
  | ack (p : Packet)
  /-- PORT_TRAINING (R367). A returning port negotiates its version and sets UP on success. -/
  | portTraining (p : Nat) (ver : Nat)
  /-- HOST_READ (R358). A host read of device memory through a BAR. -/
  | hostRead (bar : Nat) (off : Nat) (n : Nat)
  /-- HOST_WRITE (R358). A host write to device memory, performed as an .llc store. -/
  | hostWrite (bar : Nat) (off : Nat) (data : List Byte)
  /-- UNASSIGNED_MAJOR_OPCODE (R81). A context issues a word whose major opcode is unassigned, such as the all-zero word, and it faults
  ILLEGAL with DETAIL 1. -/
  | unassignedMajorOpcode (e : List Ext) (w : BitVec 32)
  /-- RELAY_RECEIVE (R349). A relayed packet arrives at an intermediate package, which holds it in the basin share of its source or refuses it
  when its stamped bank is not valid there. -/
  | relayReceive (p : Packet)
  /-- FAILURE_PACKET (R354). A failure packet from a relay or a target package arrives, and the sender's error bit for that peer is set. -/
  | failurePacket (p : Packet)
  /-- SIDEBAND_HEARTBEAT (R366). A management-controller heartbeat arrives on the sideband port, or stops arriving, which clears or starts
  that owner's loss. -/
  | sidebandHeartbeat (present : Bool)
  /-- WATCHDOG (R36). An instruction that would exceed the yield-interval limit faults WATCHDOG instead of executing. Acts on the context that
  `State.item` names. -/
  | watchdog
  /-- WAITTIME (R30). A parked wait longer than WAITLIM faults WAITTIME, resident or spilled. Acts on the context that `State.item` names. -/
  | waittime
  /-- KILL (R45). A kill takes effect at the next instruction boundary and discards the context, its lease and its engine work. Acts on the
  context that `State.item` names. -/
  | kill
  /-- CURRENT_CONTEXT_SELECT (R399). When the core has no current context, it makes the longest-READY context current. Acts on the core that
  `State.item` names. -/
  | currentContextSelect
  /-- MIGRATION (R296). A context marked for migration is retested when READY and moved to its predicted home. Acts on the context that
  `State.item` names. -/
  | migration
  /-- START_TASK (R319). The start unit selects a source and starts a task from it. Acts on the core that `State.item` names. -/
  | startTask
  /-- FILL (R323). The start unit restores a fill-ready spilled context. Acts on the core that `State.item` names. -/
  | fill
  /-- RESULT_WRITE (R111). The awaited answer of a load, atomic or request arrives and is written to its register. Acts on the item that
  `State.item` names. -/
  | resultWrite
  /-- REMOTE_ACCESS (R294). A remote word or line access is performed at its home core and answered. Acts on the item that `State.item` names. -/
  | remoteAccess
  /-- REMOTE_TARGET_CHECK (R136). The target core checks and performs an ldx, stx or remote barrier step at its bank. Acts on the item that
  `State.item` names. -/
  | remoteTargetCheck
  /-- ATOMIC_PERFORM (R206). The home slice's arithmetic unit performs an atomic after invalidating the home core's copy. Acts on the item
  that `State.item` names. -/
  | atomicPerform
  /-- REDUCTION_PERFORM (R207). The reduction queue performs its oldest entry at the home slice. Acts on the core that `State.item` names. -/
  | reductionPerform
  /-- TRANSLATION_WALK (R304). A station's page-table walk completes with a translation or a fault. Acts on the item that `State.item` names. -/
  | translationWalk
  /-- COPY_DELIVERY (R228). The copy unit delivers one granule of a copy. Acts on the item that `State.item` names. -/
  | copyDelivery
  /-- COMPLETION_RECORD (R232). A copy's completion record is written once a ring slot is free. Acts on the item that `State.item` names. -/
  | completionRecord
  /-- NEXT_CORE (R189). At each acceptance the matrix arbiter chooses a core by weighted round robin. Acts on the cluster that `State.item` names. -/
  | nextCore
  /-- K_STEP (R175). The matrix unit applies one K-step of an mma to the whole window. Acts on the cluster that `State.item` names. -/
  | kStep
  /-- MATRIX_COMMAND_PERFORM (R185). The matrix unit performs an accepted command other than mma. Acts on the cluster that `State.item` names. -/
  | matrixCommandPerform
  /-- POWER_TOKEN_ADMIT (R385). The power arbiter admits a waiting cluster request under the plan and the cap. Acts on the layer that
  `State.item` names. -/
  | powerTokenAdmit
  /-- NODE_REFILL (R246). The copy unit refills a free-node cache from the arena, or ends the launch with ARENA. Acts on the core that
  `State.item` names. -/
  | nodeRefill
  /-- RING_TO_BAG (R324). Moves up to 64 pairs from the overflow ring into the bag. Acts on the core that `State.item` names. -/
  | ringToBag
  /-- LAYER_REPORT (R318). Every 256 cycles a layer reports its cores' state to the distributor. Acts on the layer that `State.item` names. -/
  | layerReport
  /-- BARGE_ARRIVAL (R325). A barge's pairs are entered at the receiver's bag tail. Acts on the item that `State.item` names. -/
  | bargeArrival
  /-- TASK_PLACEMENT (R317). The distributor places an entry, hspawn or backup task at a core with room. Acts on the item that `State.item` names. -/
  | taskPlacement
  /-- WORKQ_TAKE (R263). The distributor hands out the next index or the end token. Acts on the item that `State.item` names. -/
  | workqTake
  /-- WORKQ_SET (R263). The distributor sets a counter's limit and resets its next index. Acts on the item that `State.item` names. -/
  | workqSet
  /-- WORKQ_READ (R263). The distributor answers with the count remaining. Acts on the item that `State.item` names. -/
  | workqRead
  /-- MESSAGE_ARRIVAL (R257). A message is entered into its destination channel's queue. Acts on the item that `State.item` names. -/
  | messageArrival
  /-- QUIESCENCE_SWEEP (R327). The distributor reads every layer's counters and declares quiescence after two matching sweeps. Acts on the
  launch that `State.item` names. -/
  | quiescenceSweep
  /-- LAUNCH_PLACEMENT (R312). A launch is placed once every dependency has written its record. Acts on the launch that `State.item` names. -/
  | launchPlacement
  /-- HEDGE_SAMPLE (R330). Every 2,048 ticks the monitor tests running heavy copies for lag. -/
  | hedgeSample
  /-- WEIR_COMMIT (R333). The weir answers or holds an arriving commit by tile, base and epoch. Acts on the item that `State.item` names. -/
  | weirCommit
  /-- PULL_COMPLETE (R333). The weir seals the new version, applies the rewrite, accepts and kills other copies. Acts on the tile that
  `State.item` names. -/
  | pullComplete
  /-- PULL_FAILED (R333). A failed or tainted pull is cancelled and the next held commit pulled. Acts on the tile that `State.item` names. -/
  | pullFailed
  /-- CORE_FAILURE (R339). A failed core ends its light launches and re-runs its heavy work. Acts on the core that `State.item` names. -/
  | coreFailure
  /-- MATRIX_CLUSTER_FAILURE (R339). A failed cluster's tile entries move to the next cluster, rebuilt from the journal. Acts on the cluster
  that `State.item` names. -/
  | matrixClusterFailure
  /-- LAYER_FAILURE (R339). A failed layer is handled as for its clusters and launches with items there end. Acts on the layer that
  `State.item` names. -/
  | layerFailure
  /-- PORT_FAILURE (R355). A failed Twidar port is marked down and its traffic rerouted. Acts on the port that `State.item` names. -/
  | portFailure
  /-- FIRMWARE_CORE_FAILURE (R339). A new leader rebuilds the command processor and distributor from the journal. Acts on the firmware core
  that `State.item` names. -/
  | firmwareCoreFailure
  /-- SCAN_TEST (R376). Firmware pre-empts a cluster and scan-tests it. Acts on the cluster that `State.item` names. -/
  | scanTest
  /-- SCAN_PASS (R376). A passed scan increments the epoch and clears the commit log. Acts on the cluster that `State.item` names. -/
  | scanPass
  /-- SCAN_FAIL (R378). A failed scan taints the epoch, fences the cluster and builds a taint record. Acts on the cluster that `State.item` names. -/
  | scanFail
  /-- LEASE_RENEWAL (R363). Every 250 µs the leader renews its leadership lease. -/
  | leaseRenewal
  /-- LEADER_STOP (R363). A leader that has not renewed within 1 ms stops every leader action. -/
  | leaderStop
  /-- LEADER_TAKEOVER (R363). After 3 ms without renewal a follower takes over by compare-and-swap. Acts on the firmware core that
  `State.item` names. -/
  | leaderTakeover
  /-- LAUNCH (R311). Accepts a launch packet from a stream and gives it a sequence number. Acts on the stream that `State.item` names. -/
  | launch
  /-- NET_SET (R315). Installs or replaces a net record. Acts on the stream that `State.item` names. -/
  | netSet
  /-- NET_DROP (R315). Removes a net record and frees its channels. Acts on the stream that `State.item` names. -/
  | netDrop
  /-- STREAM_POLL (R311). An idle stream tests its next slot again after 1 µs. Acts on the stream that `State.item` names. -/
  | streamPoll
  /-- XLINV_COMPLETE (R306). BUSY clears once the invalidation is done in all stations. -/
  | xlinvComplete
  /-- BANK_SWITCH (R353). At the armed cycle the next bank becomes current. -/
  | bankSwitch
  /-- HANDOVER_TIMEOUT (R366). A handover not taken within 100 ms clears PEND. -/
  | handoverTimeout
  /-- OWNER_LOSS (R366). An owner lost for OWNTO leaves the device with no owner. -/
  | ownerLoss
  /-- ICOAL_HOLDOFF (R362). The holdoff elapses and the stream's MSI-X message is sent. Acts on the stream that `State.item` names. -/
  | icoalHoldoff
  /-- MSIX_UNMASK (R362). Unmasking a vector sends its message if records are unsignalled. Acts on the vector that `State.item` names. -/
  | msixUnmask
  /-- ATTEMPT_TIMEOUT (R347). An unacknowledged packet is routed again or dropped after TWRETRY attempts. Acts on the item that `State.item` names. -/
  | attemptTimeout
  /-- REPLY_TIMEOUT (R354). An awaited reply missing for TWTO sets the peer's error bit. Acts on the item that `State.item` names. -/
  | replyTimeout
  /-- RELAY_FORWARD (R348). A relay forwards a held packet directly at its next fitting light. Acts on the item that `State.item` names. -/
  | relayForward
  /-- ROUTE_RETRY (R348). A packet with no route is routed again at the next slot boundary. Acts on the item that `State.item` names. -/
  | routeRetry
  /-- SCRUB (R370). The scrubber reads and corrects or poisons memory words. Acts on the address that `State.item` names. -/
  | scrub
  /-- STRONG_CODE_SWITCH (R369). A bank with 16 corrections in an hour is re-encoded under the strong code. Acts on the bank that `State.item`
  names. -/
  | strongCodeSwitch
  /-- DROOP_ALARM (R388). A supply droop starts the stretch phase. Acts on the layer that `State.item` names. -/
  | droopAlarm
  /-- STRETCH_END (R388). After DRSTRETCH cycles, halved issue begins. Acts on the layer that `State.item` names. -/
  | stretchEnd
  /-- HALVED_ISSUE_END (R388). After DRHALVE cycles, full issue resumes. Acts on the layer that `State.item` names. -/
  | halvedIssueEnd
  /-- CORE_GATE (R387). Firmware power-gates a core idle for 10 µs. Acts on the core that `State.item` names. -/
  | coreGate
  /-- CORE_WAKE (R387). An arrival wakes a gated core. Acts on the core that `State.item` names. -/
  | coreWake
  /-- CORE_RESET (R288). Core reset zeroes local memory, empties granules and clears tags. Acts on the core that `State.item` names. -/
  | coreReset
  /-- PACKAGE_RESET (R381). The boot ROMs check and start the firmware image. -/
  | packageReset
  /-- RELAY_REFUSAL (R352). The source receives a relay's refusal with the returned credit and sends the packet directly, keeping its stamp.
  Acts on the item that `State.item` names. -/
  | relayRefusal
  /-- HOST_LINK_DOWN (R366). The host link goes down or memory-space access is disabled, which starts the OWNTO loss of a host owner. -/
  | hostLinkDown
  /-- HOST_LINK_TRAINING (R357). The PCIe host port trains, or trains again, at the highest common rate and width, which ends a host owner's loss. -/
  | hostLinkTraining
deriving DecidableEq, Repr

end Sys2Proof
end

