-- ==== Sys2Proof/Machine/Bits.lean ====
section
/-! DEFINITION. Bit fields, sign extension, byte order and the widened immediates of R79 and R92. -/

namespace Sys2Proof.Machine

/-- Bits [lo + n − 1 : lo] of a number. -/
def bits (x lo n : Nat) : Nat := x / 2 ^ lo % 2 ^ n

/-- One bit of a number. -/
def bit (x n : Nat) : Bool := x / 2 ^ n % 2 == 1

/-- A Bool as 0 or 1. -/
def b2n (b : Bool) : Nat := if b then 1 else 0

/-- The number `x` with bits [lo + n − 1 : lo] replaced by the low `n` bits of `v`. -/
def putBits (x lo n v : Nat) : Nat := x - bits x lo n * 2 ^ lo + v % 2 ^ n * 2 ^ lo

/-- An `n`-bit pattern read as signed. -/
def signed (n x : Nat) : Int := if x % 2 ^ n < 2 ^ (n - 1) then (x % 2 ^ n : Nat) else ((x % 2 ^ n : Nat) : Int) - (2 ^ n : Nat)

/-- The `n`-bit pattern of an integer, wrapped modulo 2^n (R49). -/
def wrap (n : Nat) (z : Int) : Nat := (z % (2 ^ n : Nat)).toNat

/-- The little-endian bytes of a number (R3). -/
def bytesOf : Nat → Nat → List Byte
  | 0, _ => []
  | n + 1, x => BitVec.ofNat 8 x :: bytesOf n (x / 256)

/-- The number of some little-endian bytes (R3). -/
def ofBytes : List Byte → Nat
  | [] => 0
  | b :: l => b.toNat + 256 * ofBytes l

/-- The payloads of the IMM words of a group, in memory order (R92). -/
def immWords (e : List Ext) : List (BitVec 22) :=
  e.filterMap fun x => match x with
    | .imm p => some p
    | _ => none

/-- The immediate of a field `f` after the group's IMM words (R79, R92): sign-extended, or the concatenation whose top bit is
the sign, cut to 64 bits. -/
def wideImm {n : Nat} (f : BitVec n) (e : List Ext) : W64 :=
  match immWords e with
  | [] => f.signExtend 64
  | [p] => (p ++ f).signExtend 64
  | p :: q :: _ => (p ++ q ++ f).signExtend 64

/-- The mask register of a vector memory form: that of its MASK word, else `k0` (R94). -/
def maskReg (e : List Ext) : Nat :=
  match e.findSome? fun x => match x with
    | .mask k => some k.toNat
    | _ => none with
  | some k => k
  | none => 0

/-- The ordering, scope and policy of a MEM word (R93); plain and `.home` without one. -/
structure MemOrd where
  ord : Nat
  scope : Nat
  pol : Nat
deriving DecidableEq, Repr

/-- The ordering of a group (R93). -/
def memOrd (e : List Ext) : MemOrd :=
  match e.findSome? fun x => match x with
    | .mem o s p => some (MemOrd.mk o.toNat s.toNat p.toNat)
    | _ => none with
  | some m => m
  | none => ⟨0, 0, 0⟩

/-- Words of a group: its `ext` words and its target (R96). -/
def groupWords (e : List Ext) : Nat := e.length + 1

/-- An access size code in bytes (R88). -/
def sizeBytes (s : BitVec 2) : Nat := 2 ^ s.toNat

end Sys2Proof.Machine
end

