-- ==== Sys2Proof/Machine/Mem.lean ====
section
/-! DEFINITION. Memory: a list of address and byte pairs in one canonical form, and its reads and writes. -/

namespace Sys2Proof.Machine

/-- Bytes by address: addresses strictly rising, and no entry equal to `Mem.rest`. -/
abbrev Mem := List Host.Cell

/-- What an unlisted address reads as: zero. Local memory is zero at core reset (R288). For DRAM and host memory the manual
gives no contents: DESIGN CHOICE (log 3). -/
def Mem.rest : Byte := 0

/-- The byte at an address. -/
def Mem.read : Mem → Nat → Byte
  | [], _ => Mem.rest
  | (x, b) :: m, a => if x = a then b else if a < x then Mem.rest else Mem.read m a

/-- Writes one byte, keeping the canonical form. -/
def Mem.write : Mem → Nat → Byte → Mem
  | [], a, b => if b = Mem.rest then [] else [(a, b)]
  | (x, c) :: m, a, b =>
    if x = a then (if b = Mem.rest then m else (a, b) :: m)
    else if a < x then (if b = Mem.rest then (x, c) :: m else (a, b) :: (x, c) :: m)
    else (x, c) :: Mem.write m a b

/-- Are all addresses above `lo` strictly rising, with no byte equal to `Mem.rest`? -/
def Mem.wfFrom : Option Nat → Mem → Bool
  | _, [] => true
  | lo, (x, b) :: m => (match lo with | none => true | some l => decide (l < x)) && b != Mem.rest && Mem.wfFrom (some x) m

/-- The canonical form of a memory. -/
def Mem.wf (m : Mem) : Bool := Mem.wfFrom none m

/-- The `n` bytes from an address upwards. -/
def Mem.readBytes (m : Mem) : Nat → Nat → List Byte
  | _, 0 => []
  | a, n + 1 => Mem.read m a :: Mem.readBytes m (a + 1) n

/-- Writes some bytes from an address upwards. -/
def Mem.writeBytes : Mem → Nat → List Byte → Mem
  | m, _, [] => m
  | m, a, b :: l => Mem.writeBytes (Mem.write m a b) (a + 1) l

/-- The little-endian number in `n` bytes (R3). -/
def Mem.readN (m : Mem) (a n : Nat) : Nat := ofBytes (Mem.readBytes m a n)

/-- Writes the low `n` bytes of a number, little-endian (R131). -/
def Mem.writeN (m : Mem) (a n v : Nat) : Mem := Mem.writeBytes m a (bytesOf n v)

end Sys2Proof.Machine
end

