-- ==== Sys2Proof/Machine/State.lean ====
section
/-! DEFINITION. The state of the package as plain data: everything the manual gives the machine, and its reset. -/

namespace Sys2Proof.Machine

/-! ## Why a step stops -/

/-- A stop of the machine. No fault of the manual is one: program faults, traps, recoverable faults and kills are next
states (R40 to R45). -/
inductive Fault where
  /-- Raised by every instruction word that is executed while `State.focus` names no context. Safe: `step` never does so. -/
  | noIssuer
deriving DecidableEq, Repr

/-- No meaning in this state. -/
inductive Refusal where
  /-- Raised by an arm of `exec` whose instruction has no meaning yet. Safe. -/
  | notModelled (mnemonic : String)
  /-- Raised by a device step whose own condition does not hold: the manual has no such step in this state. Safe. -/
  | notEnabled (mnemonic : String)
deriving DecidableEq, Repr

/-! ## Contexts -/

/-- A vector register: 2,048 bits and a format tag (R16 to R18). -/
structure VReg where
  bits : BitVec 2048
  tag : Nat
deriving DecidableEq, Repr

/-- A shape record that has been read (R225): dimensions as counts and strides, dimension 0 first. -/
structure Shape where
  base : Nat
  fmt : Nat
  space : Nat
  ver : Nat
  dims : List (Nat × Int)
  toff : Nat
deriving DecidableEq, Repr

/-- A strip of a stream (R160) with the fault its source met: the virtual address and whether the page is awaited (R308);
`poison` is the address of poisoned data in it (R373). -/
structure Strip where
  bits : BitVec 2048
  fault : Option (Nat × Bool)
  poison : Option Nat
  id : Nat               -- stamp of its push (R187)
deriving DecidableEq, Repr

/-- A stream slot (R21): the bound register, its direction, its shape, the next strip to pop or push, the strips staged for it
(pop) or pushed and not yet written (push), the next strip to request, and the translations taken for pushed strips: strip, page and
physical page address (R162, R307). -/
structure Slot where
  reg : Nat
  push : Bool
  shape : Shape
  pos : Nat
  staged : List (Nat × Strip)
  req : Nat
  id : Nat               -- stamp of the binding (R187)
  xl : List (Nat × Nat × Nat)
deriving DecidableEq, Repr

/-- The states of a context that are not within one step (R28): `RUNNING` is the step that issues, `FREE` is no context. -/
inductive CState where
  | ready | parked | spilled
deriving DecidableEq, Repr

/-- What a parked context waits for (R35, R44). -/
inductive Wait where
  /-- Granules of the start core to be full (`true`) or empty before the instruction is executed again (R133, R198). -/
  | granules (g : List Nat) (full : Bool)
  /-- `fewait` on a granule (R214). -/
  | fewait (g : Nat)
  /-- `bwait` on a barrier word: address, awaited phase, destination, scope (R222). -/
  | barrier (a : Nat) (phase : Bool) (d : Nat) (scope : Nat)
  /-- `cpwait`: destination (R234). -/
  | copyRec (d : Nat)
  /-- A page that is not present: process identifier and virtual address (R305). -/
  | page (pid va : Nat)
  /-- A free node of a net (R246). -/
  | node (net : Nat)
deriving DecidableEq, Repr

/-- An undischarged barrier obligation (R219): the local address of the word. -/
abbrev Obligation := Option Nat

/-- What a context takes before it issues again: the fault of an instruction that would exceed the yield interval (R36: the
instruction's word), or the trap of a `bwait` that ended broken (R222: the barrier's address). -/
inductive Due where
  | watchdog (w : W32)
  | broken (a : W64)
deriving DecidableEq, Repr

/-- A context (R16, R24 to R30). `uid` is unique over all contexts ever started; `key` of a context is 64 · start core + slot. -/
structure Ctx where
  uid : Nat
  start : Nat            -- start core (R297)
  slot : Nat
  cur : Nat              -- core now running it (R129)
  foot : Nat
  heavy : Bool
  sup : Bool
  backup : Bool
  migr : Bool
  chan : Nat
  prio : Nat
  pairClass : Bool
  mseq : Nat
  tclass : Nat
  leaseBase : Nat
  leaseSize : Nat
  leaseV : Bool
  launch : Nat
  net : Nat
  tenant : Nat
  firing : Option Nat
  startVals : List W64   -- s1..s4 at task start
  startTime : Nat        -- units of reference time
  port : Bool            -- started through the launch port (R319)
  -- registers
  pc : BitVec 57
  s : Vector W64 32
  v : Vector VReg 32
  k : Vector W64 8
  o : Vector (BitVec 128) 8
  m : Vector W64 16
  q : Vector (BitVec 128) 4
  slots : List Slot
  -- CSRs
  xpc : W64
  xcause : W64
  xval : W64
  intrap : Bool
  psup : Bool
  xhand : W64
  rwc : Nat
  limit : Nat
  used : Nat
  waitlim : Nat
  fpflags : BitVec 6
  fmttrap : Nat
  -- other context state
  binds : List (Nat × Nat × Nat)
  obls : Vector Obligation 4
  reserved : Nat         -- power reservation (R267)
  predC : Nat            -- migration predictor (R295)
  predH : Option Nat
  migMark : Bool
  acqStamp : Nat         -- stamp of the last acquire at chip or wider (R278)
  acqPod : Nat           -- the same at pod
  -- scheduling
  st : CState
  wait : Option Wait
  parkCycle : Nat
  place : Option Nat     -- place among the waiters of a granule (R133)
  woken : List Nat       -- what woke it to execute its instruction again: granules (R133), or 65,536 + a net whose nodes came (R246)
  readyAt : Nat
  issuedAt : Nat
  held : Bool            -- the last attempt to issue was held (R111)
  pend : Option Nat      -- instruction awaiting acceptance of this request (R112)
  due : Option Due       -- taken before the next instruction (R36, R222)
  parkPc : BitVec 57     -- address and word of the instruction at which it parked (R30, R43)
  parkWord : W32
  csrOld : Option W64    -- what a `csrs` or `csrc` of a layer's register has read and not yet written back (R130)
deriving DecidableEq, Repr

/-! ## Cores -/

/-- A line of a home-line data cache (R293): line number (address / 128), bytes, dirty mask, poison per word, the words whose mark goes with a
write-back (R374), fill stamp. -/
structure CLine where
  line : Nat
  data : BitVec 1024
  dirty : BitVec 128
  poison : BitVec 16
  carried : BitVec 16
  filled : Nat
deriving DecidableEq, Repr

/-- A message queued on a channel or in transit to it (R257): its number in the order of sending, the core it left, its destination. -/
structure Msg where
  id : Nat
  launch : Nat
  net : Nat
  tenant : Nat
  src : Nat
  cid : Nat
  chan : Nat
  bytes : List Byte
  entered : Nat
  mseq : Nat
  uid : Nat
  guest : Option (Nat × Nat)    -- origin package and launch of a message from another package
  pkg : Option Nat              -- destination package, if it is another one
deriving DecidableEq, Repr

/-- A pair in a bag, ring or barge (R324): the virtual addresses of its two nodes, its launch and net. -/
structure Pair where
  lo : Nat
  hi : Nat
  net : Nat
  launch : Nat
  entered : Nat
deriving DecidableEq, Repr

/-- What kind of task waits for placement or at a launch port (R319). -/
inductive TaskKind where
  | entry | hspawn | backup | rerun
deriving DecidableEq, Repr

/-- A task placed at a launch port, or waiting at the distributor (R317, R319). -/
structure Task where
  id : Nat
  kind : TaskKind
  launch : Nat
  net : Nat
  tenant : Nat
  prio : Nat
  handler : Nat
  vals : List W64
  foot : Nat
  heavy : Bool
  tclass : Nat
  lease : Nat
  firing : Option Nat
  dataAddr : Nat
  apart : Option (Nat × Nat)      -- separation: scope code and core to stay away from (R332, R337)
  entered : Nat
deriving DecidableEq, Repr

/-- A matrix command (R185), with what is captured at issue. -/
inductive MOp where
  | mma (md : W64) (oa ob : BitVec 128) (idx : List Nat) (ck : Bool)
  | mwin (md : W64)
  | mzero (md : W64)
  | mld (md : W64) (sa : Nat)
  | mst (md : W64) (sa : Nat) (form : Nat)
  | mres (ma : W64) (vd : Nat)
  | mchk (ma : W64) (man : Nat) (kd : Nat) (sb : W64)
  | mscale (md : W64) (rs cs : List W32)
deriving DecidableEq, Repr

/-- A command in a core's matrix queue: its context and its place in the core's issue order (R185, R187). -/
structure MCmd where
  id : Nat
  uid : Nat
  key : Nat
  launch : Nat
  heavy : Bool
  op : MOp
deriving DecidableEq, Repr

/-- A copy in flight (R227 to R235): what is left to deliver and how it ended. -/
structure Copy where
  id : Nat
  cid : Nat              -- issuing (start) core
  uid : Nat
  key : Nat
  slot : Nat
  launch : Nat
  tenant : Nat
  pid : Nat
  sup : Bool
  heavy : Bool
  lease : Nat × Nat
  src : Shape
  dst : Shape
  total : Nat
  next : Nat
  tag : Nat
  bar : Option Nat
  norec : Bool
  xcid : Option Nat      -- `cpyx`: destination core
  xpkg : Option Nat      -- destination package
  got : Nat              -- bytes delivered (R233)
  own : Option (Nat × Nat × Nat)     -- the first failure met so far: STATUS, FAULT, FADDR
  status : Option (Nat × Nat × Nat)  -- the same once the data phase has ended
  stalled : Option Nat   -- virtual address of an absent page (R233)
  orphan : Bool          -- its context has ended: no record (R256)
  credited : Nat         -- units of RWC credited so far (R228)
  sent : Bool            -- all data of a remote copy sent
  legs : List (Nat × Nat × Nat)  -- packets of a remote copy in order: `TAG`, bytes, first destination address (R233)
deriving DecidableEq, Repr

/-- A slot of the completion ring in use (R232): slot number, context uid, consumed or not. -/
structure RingRec where
  n : Nat
  uid : Nat
deriving DecidableEq, Repr

/-- An entry of the reduction queue (R207). -/
structure Red where
  id : Nat
  uid : Nat
  launch : Nat
  pa : Nat
  op : Nat
  size : Nat
  val : Nat
  ord : MemOrd
  cid : Nat
  sent : Bool
deriving DecidableEq, Repr

/-- A held lease (R39): base, size, and the context that owns it, or none while the weir holds its commit. -/
structure Lease where
  base : Nat
  size : Nat
  uid : Nat
  launch : Nat
deriving DecidableEq, Repr

/-- What the distributor last heard of a core (R318): free granules, largest free extent of the lease pool, bag and ring occupancy. -/
structure Report where
  free : Nat
  extent : Nat
  bag : Nat
  ring : Nat
deriving DecidableEq, Repr

/-- A core (R7, R288 to R290, R319). -/
structure Core where
  lm : Mem
  full : NatSet          -- full granules
  tags : Map Nat         -- barrier tags: word number (address / 8) to launch
  lpoison : NatSet       -- poisoned words (address / 8)
  dcache : List CLine
  icache : List (Nat × BitVec 1024 × BitVec 16)   -- line number, bytes, poison per word
  current : Option Nat   -- key of the current context
  chans : Map (List Msg) -- oldest first
  mseqs : Map Nat
  lport : List Task
  bag : List Pair        -- oldest first
  ring : List Pair
  rr : Vector Nat 8
  lastTenant : Option Nat
  unitAt : Nat           -- cycle at which the start unit is free again (R290, R319)
  clearing : Option Nat  -- the source whose start follows the region clear that runs (R290)
  mq : List MCmd
  freeNodes : Option (Nat × List Nat)  -- net and nodes of the free-node cache
  refill : List Nat      -- nets that the copy unit is asked to refill the free-node cache for, oldest first (R246)
  recs : List RingRec
  reds : List Red
  poolBase : Nat         -- LMPOOL.BASE, in 256-byte units
  poolRej : Bool
  leases : List Lease
  thresh : Nat
  onlyY : Bool
  gated : Bool
  failed : Bool
  born : Nat             -- cycles of the layer at the core's last reset (R25)
  report : Option Report -- the last one (R318); without one, the core is as after reset
  busy : Nat             -- words of the group that it issued last that have yet to issue, one in a cycle (R388, R399)
  idleSince : Option Nat -- reference time since which it has been idle, as far as noticed (R387)
deriving DecidableEq, Repr

/-! ## Clusters and layers -/

/-- A command in the matrix unit (R189, R194): the core's index, the next K-step of an `mma`, and the operand messages of its K-pair that have been
read and not used up: the bytes of local memory that they hold (R191, R193). -/
structure Running where
  c : Nat
  cmd : MCmd
  n : Nat
  ops : Option Mem
deriving DecidableEq, Repr

/-- An entry of a commit log (R377). -/
structure LogEntry where
  tile : Nat
  ver : Nat
  tenant : Nat
  seq : Nat
  time : Nat
deriving DecidableEq, Repr

/-- A matrix cluster (R169 to R172, R189, R340, R376 to R378, R385). Accumulator elements are keyed row · 128 + column, side
entries block · 32 + index; an element that is not listed is zero. -/
structure Cluster where
  acc : Map W32
  cc : Map W32
  cr : Map W32
  sat : NatSet
  claims : Map Nat       -- block to context uid
  wgt : Vector Nat 8
  part : Vector Nat 8
  rej : Bool
  preempt : Bool
  preempted : Bool
  credit : Vector Nat 8
  last : Nat
  running : Option Running
  epoch : Nat
  tainted : List Nat
  log : List LogEntry
  overflow : Bool
  fenced : Bool
  testing : Option Bool  -- under test, and whether it was pre-empted before (R376)
  testAt : Nat           -- reference time at which the test began
  passAt : Nat           -- reference time of the last pass
  quiet : Option Nat     -- reference time since which it has had no claim, command or token (R376)
  stepped : Bool         -- its unit has performed a K-step in this cycle (R191, R388)
  admitted : Map Nat     -- launch to the layer cycle since which it has been idle here, plus 1; 0 while busy
  users : List Nat       -- uids of the live copies that used it since the last pass
  failed : Bool
deriving DecidableEq, Repr

/-- The response to a droop alarm (R388): remaining stretched cycles, whether half of one has passed, and the cycles of halved issue that
follow; or the cycles of halved issue run and remaining. -/
inductive Droop where
  | normal
  | stretch (left : Nat) (half : Bool) (halve : Nat)
  | halved (run left : Nat)
deriving DecidableEq, Repr

/-- A cached translation (R301): process identifier, page bits, virtual page, physical page, permissions. -/
structure XEntry where
  pid : Nat
  pbits : Nat
  vpage : Nat
  ppage : Nat
  w : Bool
  x : Bool
  sup : Bool
deriving DecidableEq, Repr

/-- Kinds of access for translation (R304). -/
inductive XKind where
  | read | write | fetch | atomic
deriving DecidableEq, Repr

/-- Who waits for a walk (R301): a context at an instruction, known by when the one before it retired, with the address it faults on. -/
structure Waiter where
  uid : Nat
  since : Nat
  va : Nat
  kind : XKind
  sup : Bool
deriving DecidableEq, Repr

/-- An access of a core's engines that needs a page (R301): core, process identifier, page of 64 KiB, kind and level. -/
structure EngAsk where
  cid : Nat
  pid : Nat
  page : Nat
  kind : XKind
  sup : Bool
deriving DecidableEq, Repr

/-- A page-table walk in flight (R301): process identifier, virtual page of 64 KiB, station, tenant, the contexts and the engine accesses that
wait for it. -/
structure Walk where
  id : Nat
  pid : Nat
  vpage : Nat
  station : Nat
  tenant : Nat
  waiters : List Waiter
  engines : List EngAsk
deriving DecidableEq, Repr

/-- A layer (R26, R301, R326, R384, R388). Stations are keyed 0..7. -/
structure Layer where
  droopTh : Nat
  drStretch : Nat
  drHalve : Nat
  droop : Droop
  alarm : Option (Nat × Nat) -- an alarm of this cycle: the lengths of the stretch and of the halved issue to come (R388)
  cycles : Nat
  cap : Nat
  sent : Map Nat         -- launch to SENT
  recv : Map Nat
  stations : Map (List XEntry)
  reports : Nat          -- reports sent (R318)
  failed : Bool
deriving DecidableEq, Repr

/-! ## Global memory traffic -/

/-- One element of an access: physical address, bytes, data, lane (R199). -/
structure Elem where
  pa : Nat
  va : Nat
  size : Nat
  val : Nat
  lane : Nat
deriving DecidableEq, Repr

/-- What an access in flight does when it is performed (R269, R244, R261, R262, R267). -/
inductive AccOp where
  | load | store
  | amo (op : Nat)
  | cas (cmp : Nat)
  | nld
  | nst (n : Nat)
  | node (words : List Nat)
  | nfree
  | plink (q qpa : Nat)
  | pget
  | ppush (b bpa : Nat)
  | tver (tile : Nat)
  | tnew (size : Nat) (bytes : List Byte) (bad : List Nat)
  | pwreq (amount : Nat)
deriving DecidableEq, Repr

/-- The register that an access writes when it is answered (R111). -/
inductive Dest where
  | none
  | sreg (r : Nat)
  | pair (r : Nat)
  | vreg (r tag : Nat)
deriving DecidableEq, Repr

/-- The answer of an access (R111): a register value, a pair, lanes of a vector, or poisoned data (R373). -/
inductive Answer where
  | val (v : W64)
  | pair (lo hi : W64)
  | lanes (l : List (Nat × W32))
  | poisoned (va : Nat)
deriving DecidableEq, Repr

/-- An accepted access of a context that has not ended (R112): its context, the core it issued on, its kind, its elements (all
in one line), its ordering and its register; `sx` sign-extends a loaded value. -/
structure Access where
  id : Nat
  grp : Nat              -- the accesses of one instruction share it
  uid : Nat
  key : Nat
  launch : Nat
  net : Nat
  tenant : Nat
  cid : Nat
  op : AccOp
  elems : List Elem
  ord : MemOrd
  dest : Dest
  sx : Bool
  answer : Option Answer
  sent : Bool            -- a request to another package is on its way
deriving DecidableEq, Repr

/-- A request to another core's local memory that its target has not yet checked (R136, R220). -/
structure Remote where
  id : Nat
  uid : Nat
  key : Nat
  cid : Nat              -- target core
  addr : Nat
  size : Nat
  kind : Nat             -- 0 `ldx`, 1 `stx`, 2 `barrive`
  val : Nat
  sx : Bool
  d : Nat
  words : Nat            -- words of the instruction's group
  xval : W32
deriving DecidableEq, Repr

/-- A slice copy of a peer line (R283, R299), with the words whose mark goes with a write-back and the stamp at which it was asked for. After an
acquire at `.pod` only its dirty bytes are held (`valid` false): the others are read again from the owner (R278, R299). -/
structure PeerLine where
  line : Nat
  data : BitVec 1024
  dirty : BitVec 128
  poison : BitVec 16
  carried : BitVec 16
  filled : Nat
  valid : Bool
deriving DecidableEq, Repr

/-- A line of own memory in its home slice (R298): what differs from the array, and the marks of its words. Its bytes stand in `State.mem`, the
one point that slice and memory form (R269; log 19). -/
structure SliceLine where
  line : Nat
  dirty : BitVec 128
  poison : BitVec 16
  carried : BitVec 16
deriving DecidableEq, Repr

/-- A directory entry (R299): holders, or broadcast. -/
structure DirEntry where
  holders : List Nat
  broadcast : Bool
deriving DecidableEq, Repr

/-! ## Nets, launches, tiles -/

/-- A channel of a net record (R315). -/
structure ChanAttr where
  handler : Nat
  prio : Nat
  budget : Nat
  limit : Nat
  foot : Nat
  sup : Bool
deriving DecidableEq, Repr

/-- A rule-table entry (R251). -/
structure Rule where
  handler : Nat
  typeA : Nat
  typeB : Nat
  heavy : Bool
  tclass : Nat
  cost : Nat
  foot : Nat
  lease : Nat
deriving DecidableEq, Repr

/-- A completion in a class history (R329): age in reference ticks and work. -/
structure Done where
  age : Nat
  work : Nat
deriving DecidableEq, Repr

/-- An installed net (R315) with its rule table (R252), its arena's free nodes and its class histories. -/
structure Net where
  tenant : Nat
  chans : List ChanAttr
  classes : List (Nat × Nat)   -- QUANT and SEP of class 0..63
  power : Nat
  efoot : Nat
  arenaBase : Nat
  arenaSize : Nat
  fresh : Nat                  -- nodes of the arena never handed out begin at this one
  free : List Nat              -- nodes returned to the arena, oldest first
  held : Map Nat               -- nodes handed out, with the launch that they were handed to (R239, R247)
  table : Option (List Rule)
  xhand : Nat
  defLease : Nat
  history : Map (List Done)    -- newest last
deriving DecidableEq, Repr

/-- A fault record (R43, R313). -/
structure FaultRec where
  status : Nat
  cause : Nat
  detail : Nat
  xpc : Nat
  xval : Nat
  unit : Nat
deriving DecidableEq, Repr

/-- How far a launch is (R46, R47, R311, R312). -/
inductive Phase where
  | accepted | live | ending | ended
deriving DecidableEq, Repr

/-- A launch, or another accepted packet that awaits its record (R46, R311, R313). -/
structure Launch where
  stream : Nat
  seq : Nat
  isLaunch : Bool
  net : Nat
  tenant : Nat
  pid : Nat                    -- process identifier (R302)
  prio : Nat
  deps : List Nat              -- launch numbers of the dependencies that had no record at acceptance
  dependent : Bool             -- it names a dependency (R282)
  slot : Nat                   -- address of its packet's slot (R311)
  handler : Nat
  payload : List Byte
  phase : Phase
  fault : Option FaultRec
  tplace : Option Nat          -- reference time at placement (R313)
  tend : Nat
  counters : List (Nat × Nat)  -- next and limit of the 16 work counters (R263)
  layers : NatSet              -- layers its tasks ran on (R328)
  sweep : Option (List (Nat × Nat))  -- SENT and RECV of every layer at a first clean sweep (R327)
  aborting : Bool
  guest : Option (Nat × Nat)   -- origin package and launch of a guest launch (R326)
  taken : List Nat             -- end-to-end numbers of the messages of a guest launch, to be reported (R326)
deriving DecidableEq, Repr

/-- A firing (R336): its pair, its copies by context uid, commits not yet answered, its kept fault and its pins. -/
structure Firing where
  launch : Nat
  net : Nat
  tenant : Nat
  pair : Option (Nat × Nat)    -- left and right node, physical
  tclass : Nat
  foot : Nat
  lease : Nat
  handler : Nat
  prio : Nat
  vals : List W64
  live : List Nat
  commits : Nat
  accepted : Bool
  kept : Option FaultRec
  pins : List (Nat × Nat)
  backedUp : Bool
  poisoned : Bool
  waiting : Nat                -- originals placed or queued that have not started
deriving DecidableEq, Repr

/-- A commit at a weir or on its way there (R260, R333). -/
structure Commit where
  id : Nat
  launch : Nat
  net : Nat
  tenant : Nat
  firing : Nat
  uid : Nat
  cid : Nat
  tile : Nat
  base : Nat
  rbase : Nat
  rlen : Nat
  norw : Bool
  hdr : Nat
  sealed : Bool
  pay : List Byte
  joins : List (Nat × Nat)
  epoch : Nat
  age : Nat
  work : Nat
  leaseBase : Nat
  tclass : Nat
  backup : Bool
deriving DecidableEq, Repr

/-- A tile (R261, R333, R335): current version and its size, retained versions, pins, and the weir's state for it: the commit whose region is
pulled and those held behind it. -/
structure Tile where
  tenant : Nat
  cur : Nat
  size : Nat
  vers : Map (List Byte)
  bad : List (Nat × Nat)       -- poisoned words of a version: version and word number (R372)
  pins : List (Nat × Nat)      -- version and holder
  pulling : Option Commit
  heldC : List Commit
  cluster : Nat                -- home cluster, by R292 unless moved (R339)
  tainted : NatSet             -- versions before those of a taint record, which stay (R340)
deriving DecidableEq, Repr

/-- A tenant (R316, R331). Buckets: bucket number to work and backup work. -/
structure Tenant where
  pid : Nat
  en : Bool
  supok : Bool
  hbudget : Nat
  retain : Nat
  lmiso : Bool
  buckets : Map (Nat × Nat)
deriving DecidableEq, Repr

/-- A command stream (R309). `awake` is false while it waits for a doorbell or 1 µs (R311). -/
structure Stream where
  cqbase : Nat
  log : Nat
  en : Bool
  tenant : Nat
  vmax : Nat
  next : Nat
  crbase : Nat
  crlog : Nat
  head : Nat
  tail : Nat
  awake : Bool
  tested : Nat                 -- reference time of the last test of its slot
  icCount : Nat                -- ICOAL of the stream (R362)
  icHold : Nat
  unsig : Nat
  icSince : Nat                -- reference time of the oldest unsignalled record
  icDue : Nat                  -- reference time at which the holdoff ends
deriving DecidableEq, Repr

/-- A request to the distributor's work counters (R263). -/
structure WorkReq where
  id : Nat
  uid : Nat
  heavy : Bool
  launch : Nat
  cid : Nat
  counter : Nat
  op : Nat
  arg : Nat
  low : Nat                    -- sa[5:0]
  addr : Nat
deriving DecidableEq, Repr

/-- A barge under way (R325). -/
structure Barge where
  id : Nat
  pairs : List Pair
  dst : Nat
  srcLayer : Nat
deriving DecidableEq, Repr

/-- A page request's identity (R305) is its record in memory; a waiting `mma` or `pwreq` at the power arbiter (R385). -/
structure PowerReq where
  launch : Nat
  g : Nat
  acc : Option Nat             -- access id of a `pwreq`
deriving DecidableEq, Repr

/-! ## Fabric, firmware, host -/

/-- Where a packet that awaits its acknowledgement stands (R347, R348). -/
inductive Route where
  | waiting                    -- no window or no route: retry at the next slot boundary
  | direct (t : Nat)           -- leaves directly at this schedule time
  | relay (m p t : Nat)        -- leaves for relay `m` on plane `p`
deriving DecidableEq, Repr

/-- A packet kept by its source until it is acknowledged (R347), and what fails when it is dropped (R354). -/
structure Kept where
  id : Nat
  pkt : Packet
  tries : Nat
  since : Nat                  -- schedule time at which the attempt began
  routed : Nat                 -- schedule time of the last decision on its route
  directly : Bool              -- a relay has refused it: it goes directly (R352)
  route : Route
  launch : Option Nat
deriving DecidableEq, Repr

/-- A packet held in the basin (R349), in the share of its source. -/
structure Held where
  id : Nat
  pkt : Packet
deriving DecidableEq, Repr

/-- A reply awaited from a peer (R354): the tag, when the request was made, and the access, reduction, copy or line it serves. -/
structure Await where
  id : Nat
  peer : Nat
  since : Nat
  acc : Option Nat
  red : Option Nat
  copy : Option Nat
  line : Option Nat
deriving DecidableEq, Repr

/-- What has been received from a source (R347): all numbers below `base`, and some above it. -/
structure RxWin where
  base : Nat
  above : NatSet
deriving DecidableEq, Repr

/-- Messages and copy data restored to order at a destination (R346): the next sequence number of a flow, and what waits. -/
structure Flow where
  src : Nat
  srcCtx : Nat
  chan : Nat
  next : Nat
  waiting : List Packet
deriving DecidableEq, Repr

/-- A remote copy as its target sees it (R231, R233): source package, the source's number for it, bytes delivered and first failure. -/
structure RxCopy where
  src : Nat
  copy : Nat
  got : Nat
  fail : Option (Nat × Nat × Nat)
deriving DecidableEq, Repr

/-- The fabric unit (R341 to R356). -/
structure Fabric where
  up : NatSet
  portFail : NatSet
  bad : Nat
  rej : Bool
  win : Nat
  retry : Nat
  ato : Nat
  rto : Nat
  partner : Nat
  partnerV : Bool
  cur : Bool
  next : Bool
  arm : Bool
  oldLive : Bool
  armCycle : Nat
  armSlot : Nat                -- slot number of the arming write
  validA : Bool
  validB : Bool
  bankA : Map (BitVec 64)
  bankB : Map (BitVec 64)
  neg : Nat
  portVer : Map Nat
  peers : NatSet               -- peer error bitmap
  kept : List Kept
  eseq : Map Nat               -- next ESEQ per destination
  txTag : Map Nat              -- next ordering TAG per flow
  flows : List Flow
  rxCopies : List RxCopy
  rx : Map RxWin
  basin : List Held
  credit : Map Nat             -- credits used per relay
  owed : Map Nat               -- credits to be returned per source
  awaits : List Await
  failures : List (Nat × Nat)  -- failure packets sent: to which package, and about which (R257, R354)
  acks : List (Nat × Nat × Nat)  -- acknowledgements sent: to which package, of which end-to-end number, with which credits (R347, R349)
  settled : List (Nat × Nat)   -- messages to other packages, by package and end-to-end number, whose end has been counted once (R326, R347)
  refusals : List (Nat × Nat × Nat × Nat)  -- relays refused: to which source, its packet's `DST` and `ESEQ`, and the credit returned (R352)
deriving DecidableEq, Repr

/-- A mailbox command in progress: an `ABORT` of a stream's packet (R314), or an `ATTEST` (R383). -/
inductive MboxWork where
  | aborting (q seq : Nat)
  | attesting
deriving DecidableEq, Repr

/-- A mailbox (R364). -/
structure Mailbox where
  go : Bool
  done : Bool
  working : Option MboxWork    -- a command in progress
  req : Mem
  resp : Mem
deriving DecidableEq, Repr

/-- A staged or running firmware image (R380, R381): its header bytes and security version. -/
structure Image where
  digest : List Byte
  svn : Nat
  key : Nat
  body : List Byte
  sig : List Byte
deriving DecidableEq, Repr

/-- A taint record (R379). -/
structure Taint where
  cluster : Nat
  epoch : Nat
  tfence : Nat
  entries : List LogEntry
  overflow : Bool
deriving DecidableEq, Repr

/-- An entry of the journal (R338): the acceptance of a packet of stream `q` as launch `n`, with the slot it came in; a record; the seal of a tile's
version, with the cluster whose slice stores it and the firing, if a commit made it. -/
inductive JEntry where
  | accept (q seq n slot : Nat) (packet : List Byte)
  | record (q seq n : Nat) (bytes : List Byte)
  | tileSeal (tile ver storage : Nat) (firing : Option Nat)
deriving DecidableEq, Repr

/-- Firmware leadership, images, logs (R363, R376 to R381). -/
structure Firmware where
  leader : Nat
  vacant : Bool          -- FWLEAD.NONE
  term : Nat
  renewed : Nat                -- reference time of the last renewal
  stopped : Bool               -- the leader has stopped acting
  failedFw : NatSet
  running : Option Image
  staged : Option Image
  activate : Bool
  minSvn : Nat
  revoked : NatSet
  log : List (Nat × Nat × Nat) -- kind (1 correction, 2 poisoning, 3 discarded reduction), bank, physical address
  taints : List Taint
  corrections : Map (List Nat) -- bank to reference times of its corrections
  strong : Map Nat             -- bank to the lines of it that the scrubber has re-encoded (R369)
  scrubPos : Nat               -- the next word of the scrubber's pass, and the reference time at which the pass began (R370)
  scrubFrom : Nat
  journal : List JEntry        -- the journal of reticle 0 and that of reticle 1 (R338)
  mirror : List JEntry
deriving DecidableEq, Repr

/-- Ownership (R366): 0 none, 1 host, 2 management controller, 3 pod manager. -/
structure Owner where
  owner : Nat
  pend : Nat
  denied : Nat
  gen : Nat
  timeout : Nat
  pendSince : Nat
  lostSince : Option Nat
  hostUp : Bool
  heartbeat : Bool
  podPkg : Nat                 -- package of the pod manager, from its last claim (R366)
deriving DecidableEq, Repr

/-- The memory configuration block, the injector and the translation state of the package (R287, R306, R375). -/
structure MemCfg where
  nearFree : Nat
  farSize : Nat
  farKind : Nat
  ptBase : Nat
  ptEn : Bool
  prqBase : Nat
  prqLog : Nat
  prqHead : Nat
  prqTail : Nat
  xlva : Nat
  busy : Option Nat            -- the invalidation in progress: the value written to XLINV
  prqFull : Bool
  injAddr : Nat
  injKind : Nat
  injArm : Bool
  injFired : Bool
deriving DecidableEq, Repr

/-- The host side of the package (R357 to R362): MSI-X table and pending bits, messages sent, and the answer of the last read. -/
structure HostPort where
  msix : Mem
  pending : NatSet
  sent : List Nat              -- vectors signalled, newest first
  read : List Byte             -- data of the last HOST_READ or register read
  readPoison : Bool
deriving DecidableEq, Repr

/-! ## The package -/

/-- What a soft error strikes (R369, R371, R374). -/
inductive Upset where
  /-- A word of memory at the array, with so many of its bits in error and so many symbols of its 32-byte group, found by the read that meets
  it. -/
  | array (word bits symbols : Nat)
  /-- A word in a home slice. -/
  | slice (word : Nat)
  /-- A word of a line in a home-line data cache. -/
  | cache (cid line word : Nat)
  /-- A word of a local memory. -/
  | lmem (cid word : Nat)
  /-- A context in the context store. -/
  | context (key : Nat)
  /-- A bit of an accumulator element. -/
  | element (g key n : Nat)
  /-- A bit of a checksum of a side entry: of a row (`CC`) or of a column (`CR`). -/
  | checksum (g : Nat) (row : Bool) (key n : Nat)
  /-- The saturation flag of a side entry. -/
  | sat (g blk : Nat)
  /-- A bit of a register of a context. -/
  | scalar (key r n : Nat)
  | vector (key r n : Nat)
  | mask (key r n : Nat)
  | descriptor (key r n : Nat)
  | window (key r n : Nat)
  | invariant (key r n : Nat)
deriving DecidableEq, Repr

/-- What happens next, as the environment and the arbiters of the package decide it. -/
inductive Choice where
  /-- A device step or host action, on the unit or item `n`. -/
  | event (i : Instr) (n : Nat)
  /-- A core issues (R399). -/
  | issue (cid : Nat)
  /-- A nominal cycle passes on every layer (R2, R388). -/
  | tick
  /-- A data cache evicts a line (R293). -/
  | evictData (cid line : Nat)
  /-- An instruction cache or a station loses what it held of a line or a page (R301, R374). -/
  | evictCode (cid line : Nat)
  /-- A slice evicts its copy of a peer line (R299). -/
  | evictPeer (line : Nat)
  | dropEntry (layer station n : Nat)
  /-- A free-node cache in which 16 or fewer nodes remain asks for nodes (R246). -/
  | askNodes (cid : Nat)
  /-- A relay returns credits in a meeting with this package (R349). -/
  | credits (relay n : Nat)
  /-- A soft error (R374). -/
  | upset (u : Upset)
deriving DecidableEq, Repr

/-- The state of one package. Collections keyed by number hold only the units that differ from their reset value. -/
structure State where
  -- the model's own bookkeeping (log 1, log 2)
  schedule : List Choice
  turn : Nat                   -- core that the default policy lets issue next
  focus : Option Nat           -- key of the context that issues in this step
  item : Nat                   -- unit or item that a device step acts on
  stamp : Nat                  -- counts events in their order
  frees : Nat                  -- free choices made so far
  -- the package
  pkg : Nat
  time : Nat                   -- reference time in thirds of a nanosecond
  podTime : Nat                -- schedule time TWTIME in ns (R342)
  mem : Mem                    -- spaces 0, 1 and 2 by physical address
  poison : NatSet              -- poisoned words of the arrays and of host memory (physical address / 8)
  cfg : MemCfg
  ctxs : Map Ctx
  cores : Map Core
  clusters : Map Cluster
  layers : Map Layer
  accs : List Access           -- oldest first
  remotes : List Remote
  stored : Map NatSet          -- context uid to lines stored and not written back since (R278)
  walks : List Walk
  engFaults : List (EngAsk × Bool)   -- walks that have failed and whose engine has yet to be told: is the page only absent (R301, R305)?
  peerLines : List PeerLine
  slices : List SliceLine      -- lines of own memory in the home slices (R298)
  dir : Map DirEntry
  copies : List Copy           -- oldest first
  nets : Map Net
  launches : Map Launch        -- by launch number, oldest first
  nextLaunch : Nat
  samples : Nat                -- hedging samples taken (R330)
  firings : Map Firing
  tiles : Map Tile
  commits : List Commit        -- on their way to a weir, oldest first
  tenants : Map Tenant
  streams : Map Stream
  kills : NatSet               -- uids of contexts that a kill is on its way to
  toPlace : List Task          -- at the distributor, oldest first
  msgs : List Msg              -- in transit
  workReqs : List WorkReq
  barges : List Barge
  pushes : List (Nat × Pair)   -- pushes that wait at a core's network interface (R324)
  powerReqs : List PowerReq
  fab : Fabric
  mbox : Vector Mailbox 3
  fw : Firmware
  own : Owner
  host : HostPort
deriving DecidableEq, Repr

/-! ## Reset -/

/-- A core at reset (R288, R289, R319). -/
def Core.reset : Core :=
  { lm := [], full := [], tags := [], lpoison := [], dcache := [], icache := [], current := none, chans := [], mseqs := [],
    lport := [], bag := [], ring := [], rr := Vector.replicate 8 16, lastTenant := none, unitAt := 0, clearing := none, mq := [],
    freeNodes := none, refill := [], recs := [], reds := [], poolBase := 0x400, poolRej := false, leases := [],
    thresh := 8, onlyY := false, gated := false, failed := false, born := 0, report := none, busy := 0, idleSince := none }

/-- A cluster at reset (R171, R189). The accumulator store, the side entries and the epoch have no stated reset value: zero,
DESIGN CHOICE (log 10). -/
def Cluster.reset : Cluster :=
  { acc := [], cc := [], cr := [], sat := [], claims := [], wgt := Vector.replicate 8 1, part := Vector.replicate 8 8,
    rej := false, preempt := false, preempted := false, credit := Vector.replicate 8 1, last := 7, running := none, epoch := 0,
    tainted := [], log := [], overflow := false, fenced := false, testing := none, testAt := 0, passAt := 0, quiet := some 0, stepped := false, admitted := [], users := [],
    failed := false }

/-- A layer at reset (R26, R384). -/
def Layer.reset : Layer :=
  { droopTh := 40, drStretch := 6, drHalve := 64, droop := .normal, alarm := none, cycles := 0, cap := 21, sent := [], recv := [],
    stations := [], reports := 0, failed := false }

/-- A tenant entry at reset (R316). -/
def Tenant.reset : Tenant :=
  { pid := 0, en := false, supok := false, hbudget := 64, retain := 2, lmiso := false, buckets := [] }

/-- A command stream at reset (R309, R362). -/
def Stream.reset : Stream :=
  { cqbase := 0, log := 0, en := false, tenant := 0, vmax := 1, next := 0, crbase := 0, crlog := 0, head := 0, tail := 0,
    awake := false, tested := 0, icCount := 16, icHold := 20, unsig := 0, icSince := 0, icDue := 0 }

/-- The fabric unit at reset (R356). -/
def Fabric.reset : Fabric :=
  { up := [], portFail := [], bad := 0, rej := false, win := 1000, retry := 4, ato := 20000, rto := 100, partner := 0,
    partnerV := false, cur := false, next := false, arm := false, oldLive := false, armCycle := 0, armSlot := 0, validA := false,
    validB := false, bankA := [], bankB := [], neg := 0, portVer := [], peers := [], kept := [], eseq := [], txTag := [],
    flows := [], rxCopies := [], rx := [], basin := [], credit := [], owed := [], awaits := [], failures := [], acks := [], settled := [], refusals := [] }

/-- A mailbox at reset (R364). -/
def Mailbox.reset : Mailbox := { go := false, done := false, working := none, req := [], resp := [] }

/-- Firmware state at reset: no leader (R360). What the manual does not state is a DESIGN CHOICE (log 12). -/
def Firmware.reset : Firmware :=
  { leader := 0, vacant := true, term := 0, renewed := 0, stopped := true, failedFw := [], running := none, staged := none,
    activate := false, minSvn := 0, revoked := [], log := [], taints := [], corrections := [], strong := [], scrubPos := 0, scrubFrom := 0, journal := [], mirror := [] }

/-- No owner at reset (R366); the link and the heartbeat are down until an event brings them up (log 12). -/
def Owner.reset : Owner :=
  { owner := 0, pend := 0, denied := 0, gen := 0, timeout := 1000, pendSince := 0, lostSince := none, hostUp := false,
    heartbeat := false, podPkg := 0 }

/-- The memory configuration at reset (R26, R287). `nearFree`, `farSize` and `farKind` are set by firmware: the far tier is that of R1, and the
rest is a DESIGN CHOICE (log 12). -/
def MemCfg.reset : MemCfg :=
  { nearFree := 0xC00000000, farSize := 2048000000000, farKind := 1, ptBase := 0, ptEn := false, prqBase := 0, prqLog := 0, prqHead := 0,
    prqTail := 0, xlva := 0, busy := none, prqFull := false, injAddr := 0, injKind := 0, injArm := false, injFired := false }

/-- The machine right after package reset: every register at the manual's reset value, no launch, no context and nothing under
way. The package number is a DESIGN CHOICE (log 11); that every MSI-X vector is masked is PRESUMED, from PCIe (log 13). -/
def State.reset : State :=
  { schedule := [], turn := 0, focus := none, item := 0, stamp := 0, frees := 0, pkg := 0, time := 0, podTime := 0, mem := [],
    poison := [], cfg := MemCfg.reset, ctxs := [], cores := [], clusters := [], layers := [], accs := [], remotes := [],
    stored := [], walks := [], engFaults := [], peerLines := [], slices := [], dir := [], copies := [], nets := [], launches := [], nextLaunch := 0, samples := 0,
    firings := [], tiles := [], commits := [], tenants := [], streams := [], kills := [], toPlace := [], msgs := [],
    workReqs := [], barges := [], pushes := [], powerReqs := [], fab := Fabric.reset, mbox := Vector.replicate 3 Mailbox.reset,
    fw := Firmware.reset, own := Owner.reset, host := { msix := (List.range 64).map fun i => (16 * i + 12, 1#8), pending := [], sent := [], read := [], readPoison := false } }

end Sys2Proof.Machine
end

