-- ==== Sys2Proof/Machine/Places.lean ====
section
/-! DEFINITION. Units and places: core identifiers, travel, homes, owners, stations, the discovery table (R7 to R15, R291, R292,
R317, R400). -/

namespace Sys2Proof.Machine

/-- `ret` of a CID (R7). -/
def cidRet (c : Nat) : Nat := bits c 11 1

/-- `chip` of a CID (R7). -/
def cidChip (c : Nat) : Nat := bits c 9 2

/-- `layer` of a CID (R7). -/
def cidLayer (c : Nat) : Nat := bits c 8 1

/-- `y` of a CID (R7). -/
def cidY (c : Nat) : Nat := bits c 4 4

/-- `x` of a CID (R7). -/
def cidX (c : Nat) : Nat := bits c 0 4

/-- Does a number name a core (R7)? -/
def validCid (c : Nat) : Bool := c < 4096 && cidY c ≤ 11 && cidX c ≤ 13

/-- The CID of its parts (R7). -/
def mkCid (ret chip layer y x : Nat) : Nat := ret * 2048 + chip * 512 + layer * 256 + y * 16 + x

/-- The layer of a core, 0..15: `ret`, `chip` and `layer` together. -/
def layerOf (c : Nat) : Nat := bits c 8 4

/-- The cluster of a core within its layer (R8). -/
def clusterInLayer (c : Nat) : Nat := cidY c / 4 * 7 + cidX c / 2

/-- The cluster of a core, 0..335 (R8), numbered as R292 numbers tile homes. -/
def clusterOf (c : Nat) : Nat := layerOf c * 21 + clusterInLayer c

/-- Index of a core within its cluster, 0..7, in rising CID order (R171). -/
def coreInCluster (c : Nat) : Nat := cidY c % 4 * 2 + cidX c % 2

/-- The core with an index in a cluster. -/
def coreOf (g c : Nat) : Nat := g / 21 * 256 + (g % 21 / 7 * 4 + c / 2) * 16 + (g % 21 % 7 * 2 + c % 2)

/-- The first core of a cluster (R268). -/
def firstCore (g : Nat) : Nat := coreOf g 0

/-- The core with number `n` of 0..167 in a layer, in rising CID order. -/
def coreOfLayer (l n : Nat) : Nat := l * 256 + n / 14 * 16 + n % 14

/-- The cores of a layer, in rising CID order. -/
def layerCores (l : Nat) : List Nat := (List.range 168).map (coreOfLayer l)

/-- All cores of the package, in rising CID order. -/
def allCores : List Nat := (List.range 16).flatMap layerCores

/-- The number of a core among all cores in rising order. -/
def coreIndex (c : Nat) : Nat := layerOf c * 168 + cidY c * 14 + cidX c

/-- The core with a number of 0..2687. -/
def coreAt (n : Nat) : Nat := coreOfLayer (n / 168 % 16) (n % 168)

/-- Is core `b` in the instance of scope `s` of core `a` (R10)? Both are of this package. -/
def inScope (s a b : Nat) : Bool :=
  match s with
  | 0 => a == b
  | 1 => a == b
  | 2 => layerOf a == layerOf b
  | 3 => a / 512 == b / 512
  | 4 => cidRet a == cidRet b
  | _ => true

/-- The difference of two numbers. -/
def absDiff (a b : Nat) : Nat := (a - b) + (b - a)

/-- Uncontended one-way travel time in cycles between two cores (R15). -/
def travel (a b : Nat) : Nat :=
  let t := Config.hop * (absDiff (cidX a) (cidX b) + absDiff (cidY a) (cidY b))
  if a / 512 == b / 512 then t + Config.layerX * absDiff (cidLayer a) (cidLayer b)
  else
    t + Config.layerX * (cidLayer a + cidLayer b) + 2 * Config.cBase + (if cidRet a == cidRet b then 0 else Config.retX)

/-- Travel between the master distributor and a core (R400). -/
def distTravel (b : Nat) : Nat :=
  Config.hop * (cidX b + cidY b) + Config.layerX * cidLayer b + Config.cBase + (if cidRet b == 1 then Config.retX else 0)

/-! ## Physical addresses (R286) -/

/-- `PKG` of a physical address. -/
def paPkg (pa : Nat) : Nat := bits pa 47 9

/-- `SPACE` of a physical address. -/
def paSpace (pa : Nat) : Nat := bits pa 45 2

/-- `OFFSET` of a physical address. -/
def paOff (pa : Nat) : Nat := bits pa 0 45

/-- A physical address without the `PKG` bits that host memory and device registers ignore (R286). -/
def canonPa (pa : Nat) : Nat := if paSpace pa < 2 then pa else pa % 2 ^ 47

/-- Is the byte owned by another package? `PKG` is ignored for host memory and device registers (R286). -/
def State.isPeer (st : State) (pa : Nat) : Bool := paSpace pa < 2 && paPkg pa != st.pkg

/-- Does no byte exist at an address (R286)? Host addresses all exist; another package's far-tier size is not known here, so
any peer address of spaces 0 and 1 within 2^39 or 2^45 exists for the issuer (DEDUCED, log 21). -/
def State.nonexistent (st : State) (pa : Nat) : Bool :=
  match paSpace pa with
  | 0 => decide (2 ^ 39 ≤ paOff pa)
  | 1 => paPkg pa == st.pkg && decide (st.cfg.farSize ≤ paOff pa)
  | _ => false

/-- Is an address in a reserved device area of its chiplet (R287)? -/
def State.reservedArea (st : State) (pa : Nat) : Bool :=
  paSpace pa == 0 && paPkg pa == st.pkg && decide (st.cfg.nearFree ≤ paOff pa % 2 ^ 36)

/-- The home core of an address (R291). -/
def State.home (st : State) (pa : Nat) : Nat :=
  if paSpace pa == 0 && paPkg pa == st.pkg then
    let c8 := bits pa 36 3
    let l := bits pa 7 29
    let n := (l % 2 ^ 15 ^^^ l / 2 ^ 15) % 336
    mkCid (c8 / 4) (c8 % 4) (n / 168) (n % 168 / 14) (n % 168 % 14)
  else
    let l := bits pa 7 49
    let n := (bits l 0 16 ^^^ bits l 16 16 ^^^ bits l 32 17) % 2688
    let q := n % 1344 % 336
    mkCid (n / 1344) (n % 1344 / 336) (q / 168) (q % 168 / 14) (q % 168 % 14)

/-- The owner of a data address (R317). -/
def ownerOf (a : Nat) : Nat :=
  let l := bits a 7 50
  let n := (bits l 0 16 ^^^ bits l 16 16 ^^^ bits l 32 18) % 2688
  let q := n % 1344 % 336
  mkCid (n / 1344) (n % 1344 / 336) (q / 168) (q % 168 / 14) (q % 168 % 14)

/-- The home cluster of a tile id (R292). -/
def tileHome (t : Nat) : Nat := (bits t 0 16 ^^^ bits t 16 16 ^^^ bits t 32 8) % 336

/-- The translation station of a core within its layer (R301). -/
def stationOf (c : Nat) : Nat := cidY c / 3 * 2 + cidX c / 7

/-! ## The discovery table (R12 to R14) -/

/-- Packages of the pod: the entries with `PRESENT` in the current relay bank; a package's own entry counts always, since it
must read 1 there (R12, R351; DEDUCED, log 22). -/
def State.podMembers (st : State) : Nat :=
  let bank := if st.fab.cur then st.fab.bankB else st.fab.bankA
  ((bank.filter fun p => bit p.2.toNat 0 && p.1 != st.pkg).length) + 1

/-- An entry of the discovery table (R12, R13, R14). -/
def State.discovery (st : State) (i : Nat) : Nat :=
  if i < 56 then
    match i % 8 with
    | 6 => if i / 8 == 6 then st.podMembers else (Config.discoveryMembers[i / 8]?).getD 0
    | 7 => b2n (i / 8 == 6)
    | f => ((Config.discoveryCosts[i / 8]?).getD [])[f]?.getD 0
  else match i with
    | 64 => Config.hop
    | 65 => Config.layerX
    | 66 => Config.cBase
    | 67 => Config.retX
    | 68 => 1
    | 69 => st.pkg
    | 70 => st.podMembers
    | 71 => Config.clusters
    | _ => 0

end Sys2Proof.Machine
end

