-- ==== Sys2Proof/WellFormed.lean ====
section
/-! DEFINITION. Which instructions are legal (R77 to R97): the defects of an instruction as `ILLEGAL` details, lowest first. -/

namespace Sys2Proof

/-- The detail `n` when the condition fails (R97). -/
def Instr.need (n : Nat) (ok : Bool) : List Nat := if ok then [] else [n]

/-- The `ext` words of a group (R91); an event has none. -/
def Instr.exts : Instr → List Ext
  | .add e _ _ _ => e
  | .sub e _ _ _ => e
  | .mul e _ _ _ => e
  | .mulh e _ _ _ => e
  | .mulhz e _ _ _ => e
  | .div e _ _ _ => e
  | .divz e _ _ _ => e
  | .rem e _ _ _ => e
  | .remz e _ _ _ => e
  | .and e _ _ _ => e
  | .or e _ _ _ => e
  | .xor e _ _ _ => e
  | .shl e _ _ _ => e
  | .shr e _ _ _ => e
  | .sra e _ _ _ => e
  | .min e _ _ _ => e
  | .max e _ _ _ => e
  | .minz e _ _ _ => e
  | .maxz e _ _ _ => e
  | .seq e _ _ _ => e
  | .sne e _ _ _ => e
  | .slt e _ _ _ => e
  | .sltz e _ _ _ => e
  | .clz e _ _ => e
  | .ctz e _ _ => e
  | .popc e _ _ => e
  | .addi e _ _ _ => e
  | .andi e _ _ _ => e
  | .ori e _ _ _ => e
  | .xori e _ _ _ => e
  | .slti e _ _ _ => e
  | .shli e _ _ _ => e
  | .shri e _ _ _ => e
  | .srai e _ _ _ => e
  | .lih e _ _ => e
  | .addpc e _ _ => e
  | .sel e _ _ _ _ => e
  | .fadd e _ _ _ _ => e
  | .fsub e _ _ _ _ => e
  | .fmul e _ _ _ _ => e
  | .fmin e _ _ _ => e
  | .fmax e _ _ _ => e
  | .fcmp e _ _ _ _ => e
  | .fcvt e _ _ _ _ _ => e
  | .ffma e _ _ _ _ _ => e
  | .beq e _ _ _ => e
  | .bne e _ _ _ => e
  | .blt e _ _ _ => e
  | .bge e _ _ _ => e
  | .bltz e _ _ _ => e
  | .bgez e _ _ _ => e
  | .jmp e _ => e
  | .jal e _ => e
  | .jr e _ => e
  | .jalr e _ _ => e
  | .csrr e _ _ => e
  | .csrw e _ _ => e
  | .csrs e _ _ => e
  | .csrc e _ _ => e
  | .ldl e _ _ _ _ _ => e
  | .stl e _ _ _ _ _ => e
  | .ldg e _ _ _ _ _ => e
  | .stg e _ _ _ _ => e
  | .ldx e _ _ _ _ _ => e
  | .stx e _ _ _ _ => e
  | .vadd e _ _ _ _ _ => e
  | .vsub e _ _ _ _ _ => e
  | .vmul e _ _ _ _ _ => e
  | .vmin e _ _ _ _ => e
  | .vmax e _ _ _ _ => e
  | .vfma e _ _ _ _ _ _ => e
  | .vfms e _ _ _ _ _ _ => e
  | .vfnma e _ _ _ _ _ _ => e
  | .vabs e _ _ _ => e
  | .vneg e _ _ _ => e
  | .vexp2 e _ _ _ _ => e
  | .vlog2 e _ _ _ _ => e
  | .vrcp e _ _ _ _ => e
  | .vrsqrt e _ _ _ _ => e
  | .vand e _ _ _ _ => e
  | .vor e _ _ _ _ => e
  | .vxor e _ _ _ _ => e
  | .vshl e _ _ _ _ => e
  | .vshr e _ _ _ _ => e
  | .vsra e _ _ _ _ => e
  | .vcmp e _ _ _ _ _ => e
  | .vsel e _ _ _ _ => e
  | .vcvt e _ _ _ _ _ => e
  | .vtag e _ _ _ => e
  | .vmov e _ _ _ => e
  | .vbcast e _ _ _ _ => e
  | .vext e _ _ _ => e
  | .vins e _ _ _ => e
  | .vperm e _ _ _ _ => e
  | .vredsum e _ _ _ _ => e
  | .vredmax e _ _ _ => e
  | .vredmin e _ _ _ => e
  | .vdotBf16 e _ _ _ _ _ _ => e
  | .vdotTd8 e _ _ _ _ _ _ => e
  | .kset e _ _ => e
  | .kand e _ _ _ => e
  | .kor e _ _ _ => e
  | .knot e _ _ => e
  | .kpop e _ _ => e
  | .sbindPop e _ _ => e
  | .sbindPush e _ _ => e
  | .sfree e _ => e
  | .ckaccMod e _ _ _ => e
  | .ckaccFsum e _ _ _ => e
  | .ckclr e _ => e
  | .ckrdLo e _ _ => e
  | .ckrdHi e _ _ => e
  | .check e _ _ _ => e
  | .vld e _ _ _ _ _ => e
  | .vst e _ _ _ _ => e
  | .vldg e _ _ _ _ => e
  | .vstg e _ _ _ => e
  | .vgath e _ _ _ _ _ _ => e
  | .vscat e _ _ _ _ _ => e
  | .mma e _ _ _ _ _ => e
  | .odset e _ _ _ => e
  | .mwin e _ _ => e
  | .mzero e _ => e
  | .mld e _ _ => e
  | .mst e _ _ => e
  | .mstBf16 e _ _ => e
  | .mstTd8 e _ _ => e
  | .mchk e _ _ _ => e
  | .mres e _ _ => e
  | .mscale e _ _ _ => e
  | .amoAdd e _ _ _ _ => e
  | .amoAnd e _ _ _ _ => e
  | .amoOr e _ _ _ _ => e
  | .amoXor e _ _ _ _ => e
  | .amoMin e _ _ _ _ => e
  | .amoMax e _ _ _ _ => e
  | .amoMinz e _ _ _ _ => e
  | .amoMaxz e _ _ _ _ => e
  | .amoSwap e _ _ _ _ => e
  | .amoFadd e _ _ _ => e
  | .redAdd e _ _ _ => e
  | .redAnd e _ _ _ => e
  | .redOr e _ _ _ => e
  | .redXor e _ _ _ => e
  | .redMin e _ _ _ => e
  | .redMax e _ _ _ => e
  | .redMinz e _ _ _ => e
  | .redMaxz e _ _ _ => e
  | .redFadd e _ _ => e
  | .amoc e _ _ _ _ _ => e
  | .fence e _ _ _ => e
  | .qfence e _ _ => e
  | .acq e _ _ => e
  | .rel e _ _ => e
  | .rbind e _ _ _ => e
  | .icinv e _ => e
  | .feset e _ => e
  | .feclr e _ => e
  | .fewait e _ => e
  | .binit e _ _ => e
  | .benrol e _ _ => e
  | .barrive e _ _ _ => e
  | .bexpect e _ _ => e
  | .bwait e _ _ _ => e
  | .btest e _ _ _ => e
  | .cpy e _ _ _ => e
  | .cpyx e _ _ _ => e
  | .cpwait e _ => e
  | .nalloc e _ _ => e
  | .nfree e _ => e
  | .nld e _ _ _ => e
  | .nst e _ _ _ => e
  | .plink e _ _ _ => e
  | .pget e _ _ => e
  | .ppush e _ _ => e
  | .tend e => e
  | .commit e _ _ _ => e
  | .hspawn e _ _ _ => e
  | .chsend e _ _ => e
  | .rtset e _ _ _ => e
  | .yield e _ => e
  | .workq e _ _ => e
  | .tver e _ _ => e
  | .tnew e _ _ => e
  | .trap e _ _ => e
  | .eret e => e
  | .tstamp e _ => e
  | .dscr e _ _ => e
  | .pwreq e _ _ => e
  | .pwrel e _ => e
  | .unassignedMajorOpcode e _ => e
  | _ => []

/-- Is it a row with an instruction word? -/
def Instr.isWord : Instr → Bool
  | .add _ _ _ _ => true
  | .sub _ _ _ _ => true
  | .mul _ _ _ _ => true
  | .mulh _ _ _ _ => true
  | .mulhz _ _ _ _ => true
  | .div _ _ _ _ => true
  | .divz _ _ _ _ => true
  | .rem _ _ _ _ => true
  | .remz _ _ _ _ => true
  | .and _ _ _ _ => true
  | .or _ _ _ _ => true
  | .xor _ _ _ _ => true
  | .shl _ _ _ _ => true
  | .shr _ _ _ _ => true
  | .sra _ _ _ _ => true
  | .min _ _ _ _ => true
  | .max _ _ _ _ => true
  | .minz _ _ _ _ => true
  | .maxz _ _ _ _ => true
  | .seq _ _ _ _ => true
  | .sne _ _ _ _ => true
  | .slt _ _ _ _ => true
  | .sltz _ _ _ _ => true
  | .clz _ _ _ => true
  | .ctz _ _ _ => true
  | .popc _ _ _ => true
  | .addi _ _ _ _ => true
  | .andi _ _ _ _ => true
  | .ori _ _ _ _ => true
  | .xori _ _ _ _ => true
  | .slti _ _ _ _ => true
  | .shli _ _ _ _ => true
  | .shri _ _ _ _ => true
  | .srai _ _ _ _ => true
  | .lih _ _ _ => true
  | .addpc _ _ _ => true
  | .sel _ _ _ _ _ => true
  | .fadd _ _ _ _ _ => true
  | .fsub _ _ _ _ _ => true
  | .fmul _ _ _ _ _ => true
  | .fmin _ _ _ _ => true
  | .fmax _ _ _ _ => true
  | .fcmp _ _ _ _ _ => true
  | .fcvt _ _ _ _ _ _ => true
  | .ffma _ _ _ _ _ _ => true
  | .beq _ _ _ _ => true
  | .bne _ _ _ _ => true
  | .blt _ _ _ _ => true
  | .bge _ _ _ _ => true
  | .bltz _ _ _ _ => true
  | .bgez _ _ _ _ => true
  | .jmp _ _ => true
  | .jal _ _ => true
  | .jr _ _ => true
  | .jalr _ _ _ => true
  | .csrr _ _ _ => true
  | .csrw _ _ _ => true
  | .csrs _ _ _ => true
  | .csrc _ _ _ => true
  | .ldl _ _ _ _ _ _ => true
  | .stl _ _ _ _ _ _ => true
  | .ldg _ _ _ _ _ _ => true
  | .stg _ _ _ _ _ => true
  | .ldx _ _ _ _ _ _ => true
  | .stx _ _ _ _ _ => true
  | .vadd _ _ _ _ _ _ => true
  | .vsub _ _ _ _ _ _ => true
  | .vmul _ _ _ _ _ _ => true
  | .vmin _ _ _ _ _ => true
  | .vmax _ _ _ _ _ => true
  | .vfma _ _ _ _ _ _ _ => true
  | .vfms _ _ _ _ _ _ _ => true
  | .vfnma _ _ _ _ _ _ _ => true
  | .vabs _ _ _ _ => true
  | .vneg _ _ _ _ => true
  | .vexp2 _ _ _ _ _ => true
  | .vlog2 _ _ _ _ _ => true
  | .vrcp _ _ _ _ _ => true
  | .vrsqrt _ _ _ _ _ => true
  | .vand _ _ _ _ _ => true
  | .vor _ _ _ _ _ => true
  | .vxor _ _ _ _ _ => true
  | .vshl _ _ _ _ _ => true
  | .vshr _ _ _ _ _ => true
  | .vsra _ _ _ _ _ => true
  | .vcmp _ _ _ _ _ _ => true
  | .vsel _ _ _ _ _ => true
  | .vcvt _ _ _ _ _ _ => true
  | .vtag _ _ _ _ => true
  | .vmov _ _ _ _ => true
  | .vbcast _ _ _ _ _ => true
  | .vext _ _ _ _ => true
  | .vins _ _ _ _ => true
  | .vperm _ _ _ _ _ => true
  | .vredsum _ _ _ _ _ => true
  | .vredmax _ _ _ _ => true
  | .vredmin _ _ _ _ => true
  | .vdotBf16 _ _ _ _ _ _ _ => true
  | .vdotTd8 _ _ _ _ _ _ _ => true
  | .kset _ _ _ => true
  | .kand _ _ _ _ => true
  | .kor _ _ _ _ => true
  | .knot _ _ _ => true
  | .kpop _ _ _ => true
  | .sbindPop _ _ _ => true
  | .sbindPush _ _ _ => true
  | .sfree _ _ => true
  | .ckaccMod _ _ _ _ => true
  | .ckaccFsum _ _ _ _ => true
  | .ckclr _ _ => true
  | .ckrdLo _ _ _ => true
  | .ckrdHi _ _ _ => true
  | .check _ _ _ _ => true
  | .vld _ _ _ _ _ _ => true
  | .vst _ _ _ _ _ => true
  | .vldg _ _ _ _ _ => true
  | .vstg _ _ _ _ => true
  | .vgath _ _ _ _ _ _ _ => true
  | .vscat _ _ _ _ _ _ => true
  | .mma _ _ _ _ _ _ => true
  | .odset _ _ _ _ => true
  | .mwin _ _ _ => true
  | .mzero _ _ => true
  | .mld _ _ _ => true
  | .mst _ _ _ => true
  | .mstBf16 _ _ _ => true
  | .mstTd8 _ _ _ => true
  | .mchk _ _ _ _ => true
  | .mres _ _ _ => true
  | .mscale _ _ _ _ => true
  | .amoAdd _ _ _ _ _ => true
  | .amoAnd _ _ _ _ _ => true
  | .amoOr _ _ _ _ _ => true
  | .amoXor _ _ _ _ _ => true
  | .amoMin _ _ _ _ _ => true
  | .amoMax _ _ _ _ _ => true
  | .amoMinz _ _ _ _ _ => true
  | .amoMaxz _ _ _ _ _ => true
  | .amoSwap _ _ _ _ _ => true
  | .amoFadd _ _ _ _ => true
  | .redAdd _ _ _ _ => true
  | .redAnd _ _ _ _ => true
  | .redOr _ _ _ _ => true
  | .redXor _ _ _ _ => true
  | .redMin _ _ _ _ => true
  | .redMax _ _ _ _ => true
  | .redMinz _ _ _ _ => true
  | .redMaxz _ _ _ _ => true
  | .redFadd _ _ _ => true
  | .amoc _ _ _ _ _ _ => true
  | .fence _ _ _ _ => true
  | .qfence _ _ _ => true
  | .acq _ _ _ => true
  | .rel _ _ _ => true
  | .rbind _ _ _ _ => true
  | .icinv _ _ => true
  | .feset _ _ => true
  | .feclr _ _ => true
  | .fewait _ _ => true
  | .binit _ _ _ => true
  | .benrol _ _ _ => true
  | .barrive _ _ _ _ => true
  | .bexpect _ _ _ => true
  | .bwait _ _ _ _ => true
  | .btest _ _ _ _ => true
  | .cpy _ _ _ _ => true
  | .cpyx _ _ _ _ => true
  | .cpwait _ _ => true
  | .nalloc _ _ _ => true
  | .nfree _ _ => true
  | .nld _ _ _ _ => true
  | .nst _ _ _ _ => true
  | .plink _ _ _ _ => true
  | .pget _ _ _ => true
  | .ppush _ _ _ => true
  | .tend _ => true
  | .commit _ _ _ _ => true
  | .hspawn _ _ _ _ => true
  | .chsend _ _ _ => true
  | .rtset _ _ _ _ => true
  | .yield _ _ => true
  | .workq _ _ _ => true
  | .tver _ _ _ => true
  | .tnew _ _ _ => true
  | .trap _ _ _ => true
  | .eret _ => true
  | .tstamp _ _ => true
  | .dscr _ _ _ => true
  | .pwreq _ _ _ => true
  | .pwrel _ _ => true
  | .unassignedMajorOpcode _ _ => true
  | _ => false

/-- Targets that accept an IMM word (R90). -/
def Instr.acceptsImm : Instr → Bool
  | .addi _ _ _ _ => true
  | .andi _ _ _ _ => true
  | .ori _ _ _ _ => true
  | .xori _ _ _ _ => true
  | .slti _ _ _ _ => true
  | .lih _ _ _ => true
  | .addpc _ _ _ => true
  | .beq _ _ _ _ => true
  | .bne _ _ _ _ => true
  | .blt _ _ _ _ => true
  | .bge _ _ _ _ => true
  | .bltz _ _ _ _ => true
  | .bgez _ _ _ _ => true
  | .ldl _ _ _ _ _ _ => true
  | .stl _ _ _ _ _ _ => true
  | .ldg _ _ _ _ _ _ => true
  | .stg _ _ _ _ _ => true
  | .vld _ _ _ _ _ _ => true
  | .vst _ _ _ _ _ => true
  | .vldg _ _ _ _ _ => true
  | .vstg _ _ _ _ => true
  | _ => false

/-- The orderings that a target accepts in a MEM word: empty where it accepts no MEM word (R90, R93). -/
def Instr.memOrders : Instr → List (BitVec 2)
  | .ldg _ _ _ _ _ _ => [0, 1, 2]
  | .vldg _ _ _ _ _ => [0, 1, 2]
  | .vgath _ _ _ _ s _ _ => if s = 1 then [0, 1, 2] else []
  | .stg _ _ _ _ _ => [0, 1, 3]
  | .vstg _ _ _ _ => [0, 1, 3]
  | .vscat _ _ _ _ s _ => if s = 1 then [0, 1, 3] else []
  | .redAdd _ _ _ _ => [0, 1, 3]
  | .redAnd _ _ _ _ => [0, 1, 3]
  | .redOr _ _ _ _ => [0, 1, 3]
  | .redXor _ _ _ _ => [0, 1, 3]
  | .redMin _ _ _ _ => [0, 1, 3]
  | .redMax _ _ _ _ => [0, 1, 3]
  | .redMinz _ _ _ _ => [0, 1, 3]
  | .redMaxz _ _ _ _ => [0, 1, 3]
  | .redFadd _ _ _ => [0, 1, 3]
  | .amoAdd _ _ _ _ _ => [0, 1, 2, 3]
  | .amoAnd _ _ _ _ _ => [0, 1, 2, 3]
  | .amoOr _ _ _ _ _ => [0, 1, 2, 3]
  | .amoXor _ _ _ _ _ => [0, 1, 2, 3]
  | .amoMin _ _ _ _ _ => [0, 1, 2, 3]
  | .amoMax _ _ _ _ _ => [0, 1, 2, 3]
  | .amoMinz _ _ _ _ _ => [0, 1, 2, 3]
  | .amoMaxz _ _ _ _ _ => [0, 1, 2, 3]
  | .amoSwap _ _ _ _ _ => [0, 1, 2, 3]
  | .amoFadd _ _ _ _ => [0, 1, 2, 3]
  | .amoc _ _ _ _ _ _ => [0, 1, 2, 3]
  | _ => []

/-- Targets whose MEM word must carry policy 0 (R93). -/
def Instr.homeOnly : Instr → Bool
  | .amoAdd _ _ _ _ _ => true
  | .amoAnd _ _ _ _ _ => true
  | .amoOr _ _ _ _ _ => true
  | .amoXor _ _ _ _ _ => true
  | .amoMin _ _ _ _ _ => true
  | .amoMax _ _ _ _ _ => true
  | .amoMinz _ _ _ _ _ => true
  | .amoMaxz _ _ _ _ _ => true
  | .amoSwap _ _ _ _ _ => true
  | .amoFadd _ _ _ _ => true
  | .amoc _ _ _ _ _ _ => true
  | .redAdd _ _ _ _ => true
  | .redAnd _ _ _ _ => true
  | .redOr _ _ _ _ => true
  | .redXor _ _ _ _ => true
  | .redMin _ _ _ _ => true
  | .redMax _ _ _ _ => true
  | .redMinz _ _ _ _ => true
  | .redMaxz _ _ _ _ => true
  | .redFadd _ _ _ => true
  | _ => false

/-- Targets that accept a MASK word (R90). -/
def Instr.acceptsMask : Instr → Bool
  | .vld _ _ _ _ _ _ => true
  | .vst _ _ _ _ _ => true
  | .vldg _ _ _ _ _ => true
  | .vstg _ _ _ _ => true
  | _ => false

/-- Number of words of one `ext` kind among those before a word. -/
def Ext.count (p : Ext → Bool) (l : List Ext) : Nat := (l.filter p).length

/-- Is it an IMM word? -/
def Ext.isImm : Ext → Bool
  | .imm _ => true
  | _ => false

/-- Is it a MEM word? -/
def Ext.isMem : Ext → Bool
  | .mem _ _ _ => true
  | _ => false

/-- Is it a MASK word? -/
def Ext.isMask : Ext → Bool
  | .mask _ => true
  | _ => false

/-- Is it a HINT word? -/
def Ext.isHint : Ext → Bool
  | .hint _ _ => true
  | _ => false

/-- Defects of one `ext` word of a group before target `t`, given the `ext` words before it (R91, R93, R95, R97). -/
def Ext.defects (before : List Ext) (t : Instr) : Ext → List Nat
  | .imm _ =>
    Instr.need 6 (decide (Ext.count Ext.isImm before < 2)) ++ Instr.need 6 t.acceptsImm
  | .mem ord scope pol =>
    Instr.need 6 (decide (Ext.count Ext.isMem before = 0)) ++ Instr.need 6 (scope != 7 && pol != 3)
      ++ Instr.need 6 (ord != 0 || scope == 0) ++ Instr.need 6 (t.memOrders.contains ord)
      ++ Instr.need 6 (pol == 0 || !t.homeOnly)
  | .mask _ =>
    Instr.need 6 (decide (Ext.count Ext.isMask before = 0)) ++ Instr.need 6 t.acceptsMask
  | .hint code arg =>
    Instr.need 2 (decide (code.toNat ≤ 4)) ++ Instr.need 3 (decide (4 ≤ code.toNat) || arg == 0)
      ++ Instr.need 5 (code != 4 || arg != 0) ++ Instr.need 6 (decide (Ext.count Ext.isHint before = 0))

/-- The types that `fcvt` converts to or from FP32 (R83): codes of `.s32`, `.bf16`, `.f16`, `.td8`, `.z32`, `.s64`. -/
def Instr.fcvtOther (t : BitVec 4) : Bool := t == 1 || t == 3 || t == 4 || t == 5 || t == 7 || t == 9

/-- The pairs of `fcvt` (R83, R123): exactly one type is FP32. -/
def Instr.fcvtPair (dst src : BitVec 4) : Bool :=
  (dst == 2 && Instr.fcvtOther src) || (src == 2 && Instr.fcvtOther dst)

/-- The `fcvt` pairs that take rounding code 0 only (R123). -/
def Instr.fcvtExact (dst src : BitVec 4) : Bool := dst == 5 || src == 3 || src == 4 || src == 5

/-- A type code 1..8 (R87). -/
def Instr.typ18 (t : BitVec 4) : Bool := decide (1 ≤ t.toNat) && decide (t.toNat ≤ 8)

/-- A register number within a file of `n` registers (R77). -/
def Instr.below (n : Nat) (r : BitVec 5) : Bool := decide (r.toNat < n)

/-- The majors of R81, and `0x7F` for `ext` words. -/
def Instr.assignedMajors : List Nat :=
  [0x01, 0x02, 0x03, 0x04, 0x05, 0x06, 0x07, 0x08, 0x09, 0x0A, 0x0B, 0x0C, 0x10, 0x11, 0x12, 0x13, 0x14, 0x15, 0x16, 0x17,
   0x18, 0x19, 0x1A, 0x1B, 0x1C, 0x1D, 0x1E, 0x20, 0x21, 0x22, 0x23, 0x24, 0x25, 0x26, 0x27, 0x28, 0x29, 0x2A, 0x2B, 0x2C,
   0x2D, 0x2E, 0x2F, 0x30, 0x31, 0x32, 0x34, 0x35, 0x36] ++
  [0x38, 0x39, 0x3A, 0x3B, 0x3C, 0x40, 0x41, 0x48, 0x49, 0x4A, 0x4B, 0x4C, 0x4D, 0x4E, 0x50, 0x51, 0x52, 0x53, 0x54, 0x58,
   0x7F]

/-- Defects of the target word itself that its fields decide (R77, R83 to R88, R97). For a `fence` with b[0] = 1 and a scope 0..5 other than `.pod`
R86, R97 and R209 name no detail: it is 5, as for an undefined scope, a DESIGN CHOICE (log 88). For the assigned type code 0 in `vcvt`, `vbcast`
and `vgath` R87 names no detail: it is 2, as for an unassigned one, a DESIGN CHOICE (log 111). For the size codes 2 and 3 of `amo` and `red` it is 5,
as for a size code that the form forbids, a DESIGN CHOICE beside R85 (log 101). -/
def Instr.targetDefects : Instr → List Nat
  | .fcvt _ _ _ s t r => need 2 (fcvtPair t s) ++ need 5 (r == 0 || !fcvtExact t s)
  | .ldl _ _ _ s m _ => need 5 (!(m == 1 && s == 3))
  | .stl _ _ _ _ m _ => need 5 (decide (m.toNat < 2))
  | .ldg _ _ _ s m _ => need 5 (decide (m.toNat < 2) && !(m == 1 && s == 3))
  | .ldx _ _ _ _ m s => need 5 (decide (m.toNat < 2) && !(m == 1 && s == 3))
  | .vcmp _ d _ _ _ _ => need 4 (below 8 d)
  | .vcvt _ _ _ t _ r => need 2 (typ18 t) ++ need 5 (t != 5 || r == 0)
  | .vtag _ _ _ t => need 2 (decide (t.toNat ≤ 8))
  | .vbcast _ _ _ t _ => need 2 (typ18 t)
  | .kset _ d _ => need 4 (below 8 d)
  | .kand _ d a b => need 4 (below 8 d && below 8 a && below 8 b)
  | .kor _ d a b => need 4 (below 8 d && below 8 a && below 8 b)
  | .knot _ d a => need 4 (below 8 d && below 8 a)
  | .kpop _ _ a => need 4 (below 8 a)
  | .ckaccMod _ d _ _ => need 4 (below 4 d)
  | .ckaccFsum _ d _ _ => need 4 (below 4 d)
  | .ckclr _ d => need 4 (below 4 d)
  | .ckrdLo _ _ a => need 4 (below 4 a)
  | .ckrdHi _ _ a => need 4 (below 4 a)
  | .check _ _ a b => need 4 (below 4 a && below 4 b)
  | .vld _ _ _ t m _ => need 2 (decide (t.toNat ≤ 8)) ++ need 5 (m != 3)
  | .vst _ _ _ m _ => need 5 (decide (m.toNat < 2))
  | .vldg _ _ _ t _ => need 2 (decide (t.toNat ≤ 8))
  | .vgath _ _ _ _ _ t _ => need 2 (typ18 t)
  | .odset _ d _ _ => need 4 (below 8 d)
  | .mwin _ d _ => need 4 (below 16 d)
  | .mzero _ d => need 4 (below 16 d)
  | .mld _ d _ => need 4 (below 16 d)
  | .mst _ d _ => need 4 (below 16 d)
  | .mstBf16 _ d _ => need 4 (below 16 d)
  | .mstTd8 _ d _ => need 4 (below 16 d)
  | .mscale _ d _ _ => need 4 (below 16 d)
  | .mchk _ d a _ => need 4 ((d == 2 || d == 4 || d == 6) && below 16 a)
  | .mres _ _ a => need 4 (below 16 a)
  | .amoAdd _ _ _ _ s => need 5 (decide (s.toNat < 2))
  | .amoAnd _ _ _ _ s => need 5 (decide (s.toNat < 2))
  | .amoOr _ _ _ _ s => need 5 (decide (s.toNat < 2))
  | .amoXor _ _ _ _ s => need 5 (decide (s.toNat < 2))
  | .amoMin _ _ _ _ s => need 5 (decide (s.toNat < 2))
  | .amoMax _ _ _ _ s => need 5 (decide (s.toNat < 2))
  | .amoMinz _ _ _ _ s => need 5 (decide (s.toNat < 2))
  | .amoMaxz _ _ _ _ s => need 5 (decide (s.toNat < 2))
  | .amoSwap _ _ _ _ s => need 5 (decide (s.toNat < 2))
  | .redAdd _ _ _ s => need 5 (decide (s.toNat < 2))
  | .redAnd _ _ _ s => need 5 (decide (s.toNat < 2))
  | .redOr _ _ _ s => need 5 (decide (s.toNat < 2))
  | .redXor _ _ _ s => need 5 (decide (s.toNat < 2))
  | .redMin _ _ _ s => need 5 (decide (s.toNat < 2))
  | .redMax _ _ _ s => need 5 (decide (s.toNat < 2))
  | .redMinz _ _ _ s => need 5 (decide (s.toNat < 2))
  | .redMaxz _ _ _ s => need 5 (decide (s.toNat < 2))
  | .amoc _ d _ b c s => need 4 (s != 2 || (d.toNat % 2 == 0 && b.toNat % 2 == 0 && c.toNat % 2 == 0)) ++ need 5 (s != 3)
  | .fence _ d p s => need 3 (p == 1 || d == 0) ++ need 5 (s != 7 && (p == 0 || s == 6))
  | .qfence _ q s => need 5 (s != 7 && q != 0)
  | .acq _ _ s => need 5 (s != 7)
  | .rel _ _ s => need 5 (s != 7)
  | .icinv _ s => need 5 (s != 7)
  | .barrive _ _ _ s => need 5 (s != 7)
  | .bwait _ _ _ s => need 5 (s != 7)
  | .btest _ _ _ s => need 5 (s != 7)
  | .unassignedMajorOpcode _ w => need 2 (!(assignedMajors.contains (w.toNat / 2 ^ 25)))
  | _ => []

/-- Defects of the `ext` words of a group, in memory order (R91). -/
def Ext.listDefects (t : Instr) : List Ext → List Ext → List Nat
  | _, [] => []
  | before, e :: rest => Ext.defects before t e ++ Ext.listDefects t (before ++ [e]) rest

/-- An instruction is legal when no statement of the encoding chapter makes its group illegal (R97). A word of an
unassigned major is kept with whatever `ext` words stand before it, since its own detail 1 is the lowest. -/
def WellFormed : Instr → Bool
  | .unassignedMajorOpcode e w => (Instr.unassignedMajorOpcode e w).targetDefects.isEmpty && decide (e.length ≤ 3)
  | i => i.targetDefects.isEmpty && (Ext.listDefects i [] i.exts).isEmpty && decide (i.exts.length ≤ 3)

end Sys2Proof
end

