-- ==== Sys2Proof/Decode.lean ====
section
/-! DEFINITION. The decoder, total on any bytes and rejecting by name (R75 to R97), and after it the encoder. -/

namespace Sys2Proof

/-- Why a group is not an instruction (R97), with the word that `XVAL` holds. -/
inductive Reject where
  /-- DETAIL 2: an unassigned function, op, condition, kind, hint or type code. -/
  | unassignedFunction (w : W32)
  /-- DETAIL 3: a nonzero unused field or reserved bit. -/
  | nonzeroUnused (w : W32)
  /-- DETAIL 4: a register number beyond its file, an odd pair, or a bad `mchk` mask register. -/
  | badRegister (w : W32)
  /-- DETAIL 5: a scope, mode, size or rounding code, a queue mask or a hint argument that the form forbids. -/
  | badMode (w : W32)
  /-- DETAIL 6: an `ext` word that its target or its group does not accept. -/
  | badGroup (w : W32)
  /-- The bytes end before the group's target: not a whole group. -/
  | truncated
  /-- A word of an unassigned major behind an `ext` word of an unassigned kind. -/
  | unassignedMajor (w : W32)
deriving DecidableEq, Repr

/-- The named rejection of a detail of R97. -/
def Reject.ofDetail (d : Nat) (w : W32) : Reject :=
  match d with
  | 2 => .unassignedFunction w
  | 3 => .nonzeroUnused w
  | 4 => .badRegister w
  | 5 => .badMode w
  | _ => .badGroup w

/-- The `DETAIL` and `XVAL` of a rejection (R97); a truncated group has none. -/
def Reject.report : Reject → Nat × W32
  | .unassignedFunction w => (2, w)
  | .nonzeroUnused w => (3, w)
  | .badRegister w => (4, w)
  | .badMode w => (5, w)
  | .badGroup w => (6, w)
  | .truncated => (0, 0)
  | .unassignedMajor w => (1, w)

/-- Are all the bit ranges `(lo, n)` of the word zero? -/
def zeroAt (w : W32) (l : List (Nat × Nat)) : Bool := l.all fun r => w.extractLsb' r.1 r.2 == 0

/-- The lowest of some details (R97: the lowest value is reported). -/
def lowest : List Nat → Option Nat
  | [] => none
  | a :: l => some (l.foldl Nat.min a)

/-- A decoded target, or its lowest detail: the ranges of `u2` nonzero give detail 2, those of `u3` (unused fields) 3, those
of `u5` (codes the form fixes at zero) 5, beside the defects that the fields themselves show. R97 does not say whether a code field that the form
fixes at zero is an unused field or a forbidden code: where its table names the field for the form (the rounding of `0x0B`, the mode of `0x1A` to
`0x1E`) it is 5, and where it says only that `fn2` or a scope is zero it is 3 (DESIGN CHOICE, log 101). -/
def finish (w : W32) (u2 u3 u5 : List (Nat × Nat)) (i : Instr) : Except Nat Instr :=
  match lowest (Instr.need 2 (zeroAt w u2) ++ Instr.need 3 (zeroAt w u3) ++ Instr.need 5 (zeroAt w u5) ++ i.targetDefects) with
  | none => .ok i
  | some d => .error d

/-- Major `0x01`: add, sub, mul, mulh, mulhz, div, divz, rem, remz, and, or, xor, shl, shr, sra, min, max, m. -/
def decodeMajor01 (e : List Ext) (w : W32) : Except Nat Instr :=
  match (w.extractLsb' 0 10).toNat with
  | 0 => finish w [] [] [] (.add e (w.extractLsb' 20 5) (w.extractLsb' 15 5) (w.extractLsb' 10 5))
  | 1 => finish w [] [] [] (.sub e (w.extractLsb' 20 5) (w.extractLsb' 15 5) (w.extractLsb' 10 5))
  | 2 => finish w [] [] [] (.mul e (w.extractLsb' 20 5) (w.extractLsb' 15 5) (w.extractLsb' 10 5))
  | 3 => finish w [] [] [] (.mulh e (w.extractLsb' 20 5) (w.extractLsb' 15 5) (w.extractLsb' 10 5))
  | 4 => finish w [] [] [] (.mulhz e (w.extractLsb' 20 5) (w.extractLsb' 15 5) (w.extractLsb' 10 5))
  | 5 => finish w [] [] [] (.div e (w.extractLsb' 20 5) (w.extractLsb' 15 5) (w.extractLsb' 10 5))
  | 6 => finish w [] [] [] (.divz e (w.extractLsb' 20 5) (w.extractLsb' 15 5) (w.extractLsb' 10 5))
  | 7 => finish w [] [] [] (.rem e (w.extractLsb' 20 5) (w.extractLsb' 15 5) (w.extractLsb' 10 5))
  | 8 => finish w [] [] [] (.remz e (w.extractLsb' 20 5) (w.extractLsb' 15 5) (w.extractLsb' 10 5))
  | 9 => finish w [] [] [] (.and e (w.extractLsb' 20 5) (w.extractLsb' 15 5) (w.extractLsb' 10 5))
  | 10 => finish w [] [] [] (.or e (w.extractLsb' 20 5) (w.extractLsb' 15 5) (w.extractLsb' 10 5))
  | 11 => finish w [] [] [] (.xor e (w.extractLsb' 20 5) (w.extractLsb' 15 5) (w.extractLsb' 10 5))
  | 12 => finish w [] [] [] (.shl e (w.extractLsb' 20 5) (w.extractLsb' 15 5) (w.extractLsb' 10 5))
  | 13 => finish w [] [] [] (.shr e (w.extractLsb' 20 5) (w.extractLsb' 15 5) (w.extractLsb' 10 5))
  | 14 => finish w [] [] [] (.sra e (w.extractLsb' 20 5) (w.extractLsb' 15 5) (w.extractLsb' 10 5))
  | 15 => finish w [] [] [] (.min e (w.extractLsb' 20 5) (w.extractLsb' 15 5) (w.extractLsb' 10 5))
  | 16 => finish w [] [] [] (.max e (w.extractLsb' 20 5) (w.extractLsb' 15 5) (w.extractLsb' 10 5))
  | 17 => finish w [] [] [] (.minz e (w.extractLsb' 20 5) (w.extractLsb' 15 5) (w.extractLsb' 10 5))
  | 18 => finish w [] [] [] (.maxz e (w.extractLsb' 20 5) (w.extractLsb' 15 5) (w.extractLsb' 10 5))
  | 19 => finish w [] [] [] (.seq e (w.extractLsb' 20 5) (w.extractLsb' 15 5) (w.extractLsb' 10 5))
  | 20 => finish w [] [] [] (.sne e (w.extractLsb' 20 5) (w.extractLsb' 15 5) (w.extractLsb' 10 5))
  | 21 => finish w [] [] [] (.slt e (w.extractLsb' 20 5) (w.extractLsb' 15 5) (w.extractLsb' 10 5))
  | 22 => finish w [] [] [] (.sltz e (w.extractLsb' 20 5) (w.extractLsb' 15 5) (w.extractLsb' 10 5))
  | 24 => finish w [] [(10, 5)] [] (.clz e (w.extractLsb' 20 5) (w.extractLsb' 15 5))
  | 25 => finish w [] [(10, 5)] [] (.ctz e (w.extractLsb' 20 5) (w.extractLsb' 15 5))
  | 26 => finish w [] [(10, 5)] [] (.popc e (w.extractLsb' 20 5) (w.extractLsb' 15 5))
  | _ => .error 2

/-- Major `0x02`: addi. -/
def decodeMajor02 (e : List Ext) (w : W32) : Except Nat Instr :=
  finish w [] [] [] (.addi e (w.extractLsb' 20 5) (w.extractLsb' 15 5) (w.extractLsb' 0 15))

/-- Major `0x03`: andi. -/
def decodeMajor03 (e : List Ext) (w : W32) : Except Nat Instr :=
  finish w [] [] [] (.andi e (w.extractLsb' 20 5) (w.extractLsb' 15 5) (w.extractLsb' 0 15))

/-- Major `0x04`: ori. -/
def decodeMajor04 (e : List Ext) (w : W32) : Except Nat Instr :=
  finish w [] [] [] (.ori e (w.extractLsb' 20 5) (w.extractLsb' 15 5) (w.extractLsb' 0 15))

/-- Major `0x05`: xori. -/
def decodeMajor05 (e : List Ext) (w : W32) : Except Nat Instr :=
  finish w [] [] [] (.xori e (w.extractLsb' 20 5) (w.extractLsb' 15 5) (w.extractLsb' 0 15))

/-- Major `0x06`: slti. -/
def decodeMajor06 (e : List Ext) (w : W32) : Except Nat Instr :=
  finish w [] [] [] (.slti e (w.extractLsb' 20 5) (w.extractLsb' 15 5) (w.extractLsb' 0 15))

/-- Major `0x07`: shli, shri, srai. -/
def decodeMajor07 (e : List Ext) (w : W32) : Except Nat Instr :=
  match (w.extractLsb' 6 2).toNat with
  | 0 => finish w [] [(8, 7)] [] (.shli e (w.extractLsb' 20 5) (w.extractLsb' 15 5) (w.extractLsb' 0 6))
  | 1 => finish w [] [(8, 7)] [] (.shri e (w.extractLsb' 20 5) (w.extractLsb' 15 5) (w.extractLsb' 0 6))
  | 2 => finish w [] [(8, 7)] [] (.srai e (w.extractLsb' 20 5) (w.extractLsb' 15 5) (w.extractLsb' 0 6))
  | _ => .error 2

/-- Major `0x08`: lih. -/
def decodeMajor08 (e : List Ext) (w : W32) : Except Nat Instr :=
  finish w [] [] [] (.lih e (w.extractLsb' 20 5) (w.extractLsb' 0 20))

/-- Major `0x09`: addpc. -/
def decodeMajor09 (e : List Ext) (w : W32) : Except Nat Instr :=
  finish w [] [] [] (.addpc e (w.extractLsb' 20 5) (w.extractLsb' 0 20))

/-- Major `0x0A`: sel. -/
def decodeMajor0A (e : List Ext) (w : W32) : Except Nat Instr :=
  finish w [] [(0, 5)] [] (.sel e (w.extractLsb' 20 5) (w.extractLsb' 15 5) (w.extractLsb' 10 5) (w.extractLsb' 5 5))

/-- Major `0x0B`: fadd, fsub, fmul, fmin, fmax, fcmp, fcvt. A rounding where there is none gives 5 (log 101). -/
def decodeMajor0B (e : List Ext) (w : W32) : Except Nat Instr :=
  let op := (w.extractLsb' 2 8).toNat
  if op = 0 then finish w [] [] [] (.fadd e (w.extractLsb' 20 5) (w.extractLsb' 15 5) (w.extractLsb' 10 5) (w.extractLsb' 0 2))
  else
  if op = 1 then finish w [] [] [] (.fsub e (w.extractLsb' 20 5) (w.extractLsb' 15 5) (w.extractLsb' 10 5) (w.extractLsb' 0 2))
  else
  if op = 2 then finish w [] [] [] (.fmul e (w.extractLsb' 20 5) (w.extractLsb' 15 5) (w.extractLsb' 10 5) (w.extractLsb' 0 2))
  else
  if op = 3 then finish w [] [] [(0, 2)] (.fmin e (w.extractLsb' 20 5) (w.extractLsb' 15 5) (w.extractLsb' 10 5))
  else
  if op = 4 then finish w [] [] [(0, 2)] (.fmax e (w.extractLsb' 20 5) (w.extractLsb' 15 5) (w.extractLsb' 10 5))
  else
  if 8 ≤ op ∧ op < 16 then finish w [] [] [(0, 2)] (.fcmp e (w.extractLsb' 20 5) (w.extractLsb' 15 5) (w.extractLsb' 10 5) (w.extractLsb' 2 3))
  else
  if 16 ≤ op ∧ op < 32 then finish w [] [(14, 1)] [] (.fcvt e (w.extractLsb' 20 5) (w.extractLsb' 15 5) (w.extractLsb' 10 4) (w.extractLsb' 2 4) (w.extractLsb' 0 2))
  else .error 2

/-- Major `0x0C`: ffma. -/
def decodeMajor0C (e : List Ext) (w : W32) : Except Nat Instr :=
  finish w [] [(2, 3)] [] (.ffma e (w.extractLsb' 20 5) (w.extractLsb' 15 5) (w.extractLsb' 10 5) (w.extractLsb' 5 5) (w.extractLsb' 0 2))

/-- Major `0x10`: beq. -/
def decodeMajor10 (e : List Ext) (w : W32) : Except Nat Instr :=
  finish w [] [] [] (.beq e (w.extractLsb' 20 5) (w.extractLsb' 15 5) (w.extractLsb' 0 15))

/-- Major `0x11`: bne. -/
def decodeMajor11 (e : List Ext) (w : W32) : Except Nat Instr :=
  finish w [] [] [] (.bne e (w.extractLsb' 20 5) (w.extractLsb' 15 5) (w.extractLsb' 0 15))

/-- Major `0x12`: blt. -/
def decodeMajor12 (e : List Ext) (w : W32) : Except Nat Instr :=
  finish w [] [] [] (.blt e (w.extractLsb' 20 5) (w.extractLsb' 15 5) (w.extractLsb' 0 15))

/-- Major `0x13`: bge. -/
def decodeMajor13 (e : List Ext) (w : W32) : Except Nat Instr :=
  finish w [] [] [] (.bge e (w.extractLsb' 20 5) (w.extractLsb' 15 5) (w.extractLsb' 0 15))

/-- Major `0x14`: bltz. -/
def decodeMajor14 (e : List Ext) (w : W32) : Except Nat Instr :=
  finish w [] [] [] (.bltz e (w.extractLsb' 20 5) (w.extractLsb' 15 5) (w.extractLsb' 0 15))

/-- Major `0x15`: bgez. -/
def decodeMajor15 (e : List Ext) (w : W32) : Except Nat Instr :=
  finish w [] [] [] (.bgez e (w.extractLsb' 20 5) (w.extractLsb' 15 5) (w.extractLsb' 0 15))

/-- Major `0x16`: jmp. -/
def decodeMajor16 (e : List Ext) (w : W32) : Except Nat Instr :=
  finish w [] [] [] (.jmp e (w.extractLsb' 0 25))

/-- Major `0x17`: jal. -/
def decodeMajor17 (e : List Ext) (w : W32) : Except Nat Instr :=
  finish w [] [] [] (.jal e (w.extractLsb' 0 25))

/-- Major `0x18`: jr, jalr. -/
def decodeMajor18 (e : List Ext) (w : W32) : Except Nat Instr :=
  match (w.extractLsb' 0 10).toNat with
  | 0 => finish w [] [(10, 5), (20, 5)] [] (.jr e (w.extractLsb' 15 5))
  | 1 => finish w [] [(10, 5)] [] (.jalr e (w.extractLsb' 20 5) (w.extractLsb' 15 5))
  | _ => .error 2

/-- Major `0x19`: csrr, csrw, csrs, csrc. -/
def decodeMajor19 (e : List Ext) (w : W32) : Except Nat Instr :=
  match (w.extractLsb' 12 3).toNat with
  | 0 => finish w [] [(15, 5)] [] (.csrr e (w.extractLsb' 20 5) (w.extractLsb' 0 12))
  | 1 => finish w [] [(20, 5)] [] (.csrw e (w.extractLsb' 15 5) (w.extractLsb' 0 12))
  | 2 => finish w [] [(20, 5)] [] (.csrs e (w.extractLsb' 15 5) (w.extractLsb' 0 12))
  | 3 => finish w [] [(20, 5)] [] (.csrc e (w.extractLsb' 15 5) (w.extractLsb' 0 12))
  | _ => .error 2

/-- Major `0x1A`: ldl. -/
def decodeMajor1A (e : List Ext) (w : W32) : Except Nat Instr :=
  finish w [] [] [] (.ldl e (w.extractLsb' 20 5) (w.extractLsb' 15 5) (w.extractLsb' 13 2) (w.extractLsb' 11 2) (w.extractLsb' 0 11))

/-- Major `0x1B`: stl. -/
def decodeMajor1B (e : List Ext) (w : W32) : Except Nat Instr :=
  finish w [] [] [] (.stl e (w.extractLsb' 20 5) (w.extractLsb' 15 5) (w.extractLsb' 13 2) (w.extractLsb' 11 2) (w.extractLsb' 0 11))

/-- Major `0x1C`: ldg. -/
def decodeMajor1C (e : List Ext) (w : W32) : Except Nat Instr :=
  finish w [] [] [] (.ldg e (w.extractLsb' 20 5) (w.extractLsb' 15 5) (w.extractLsb' 13 2) (w.extractLsb' 11 2) (w.extractLsb' 0 11))

/-- Major `0x1D`: stg. -/
def decodeMajor1D (e : List Ext) (w : W32) : Except Nat Instr :=
  finish w [] [] [(11, 2)] (.stg e (w.extractLsb' 20 5) (w.extractLsb' 15 5) (w.extractLsb' 13 2) (w.extractLsb' 0 11))

/-- Major `0x1E`: ldx, stx. A mode of `stx` gives 5 (log 101). -/
def decodeMajor1E (e : List Ext) (w : W32) : Except Nat Instr :=
  match (w.extractLsb' 0 1).toNat with
  | 0 => finish w [] [(5, 5)] [] (.ldx e (w.extractLsb' 20 5) (w.extractLsb' 15 5) (w.extractLsb' 10 5) (w.extractLsb' 3 2) (w.extractLsb' 1 2))
  | 1 => finish w [] [(5, 5)] [(3, 2)] (.stx e (w.extractLsb' 20 5) (w.extractLsb' 15 5) (w.extractLsb' 10 5) (w.extractLsb' 1 2))
  | _ => .error 2

/-- Major `0x20`: vadd. -/
def decodeMajor20 (e : List Ext) (w : W32) : Except Nat Instr :=
  finish w [] [(5, 5)] [] (.vadd e (w.extractLsb' 20 5) (w.extractLsb' 15 5) (w.extractLsb' 10 5) (w.extractLsb' 2 3) (w.extractLsb' 0 2))

/-- Major `0x21`: vsub. -/
def decodeMajor21 (e : List Ext) (w : W32) : Except Nat Instr :=
  finish w [] [(5, 5)] [] (.vsub e (w.extractLsb' 20 5) (w.extractLsb' 15 5) (w.extractLsb' 10 5) (w.extractLsb' 2 3) (w.extractLsb' 0 2))

/-- Major `0x22`: vmul. -/
def decodeMajor22 (e : List Ext) (w : W32) : Except Nat Instr :=
  finish w [] [(5, 5)] [] (.vmul e (w.extractLsb' 20 5) (w.extractLsb' 15 5) (w.extractLsb' 10 5) (w.extractLsb' 2 3) (w.extractLsb' 0 2))

/-- Major `0x23`: vmin. A nonzero `fn2` gives 3 (log 101). -/
def decodeMajor23 (e : List Ext) (w : W32) : Except Nat Instr :=
  finish w [] [(0, 2), (5, 5)] [] (.vmin e (w.extractLsb' 20 5) (w.extractLsb' 15 5) (w.extractLsb' 10 5) (w.extractLsb' 2 3))

/-- Major `0x24`: vmax. A nonzero `fn2` gives 3 (log 101). -/
def decodeMajor24 (e : List Ext) (w : W32) : Except Nat Instr :=
  finish w [] [(0, 2), (5, 5)] [] (.vmax e (w.extractLsb' 20 5) (w.extractLsb' 15 5) (w.extractLsb' 10 5) (w.extractLsb' 2 3))

/-- Major `0x25`: vfma. -/
def decodeMajor25 (e : List Ext) (w : W32) : Except Nat Instr :=
  finish w [] [] [] (.vfma e (w.extractLsb' 20 5) (w.extractLsb' 15 5) (w.extractLsb' 10 5) (w.extractLsb' 5 5) (w.extractLsb' 2 3) (w.extractLsb' 0 2))

/-- Major `0x26`: vfms. -/
def decodeMajor26 (e : List Ext) (w : W32) : Except Nat Instr :=
  finish w [] [] [] (.vfms e (w.extractLsb' 20 5) (w.extractLsb' 15 5) (w.extractLsb' 10 5) (w.extractLsb' 5 5) (w.extractLsb' 2 3) (w.extractLsb' 0 2))

/-- Major `0x27`: vfnma. -/
def decodeMajor27 (e : List Ext) (w : W32) : Except Nat Instr :=
  finish w [] [] [] (.vfnma e (w.extractLsb' 20 5) (w.extractLsb' 15 5) (w.extractLsb' 10 5) (w.extractLsb' 5 5) (w.extractLsb' 2 3) (w.extractLsb' 0 2))

/-- Major `0x28`: vabs, vneg, vexp2, vlog2, vrcp, vrsqrt. A nonzero `fn2` of `vabs` and `vneg` gives 3 (log 101). -/
def decodeMajor28 (e : List Ext) (w : W32) : Except Nat Instr :=
  match (w.extractLsb' 5 5).toNat with
  | 0 => finish w [] [(0, 2), (10, 5)] [] (.vabs e (w.extractLsb' 20 5) (w.extractLsb' 15 5) (w.extractLsb' 2 3))
  | 1 => finish w [] [(0, 2), (10, 5)] [] (.vneg e (w.extractLsb' 20 5) (w.extractLsb' 15 5) (w.extractLsb' 2 3))
  | 2 => finish w [] [(10, 5)] [] (.vexp2 e (w.extractLsb' 20 5) (w.extractLsb' 15 5) (w.extractLsb' 2 3) (w.extractLsb' 0 2))
  | 3 => finish w [] [(10, 5)] [] (.vlog2 e (w.extractLsb' 20 5) (w.extractLsb' 15 5) (w.extractLsb' 2 3) (w.extractLsb' 0 2))
  | 4 => finish w [] [(10, 5)] [] (.vrcp e (w.extractLsb' 20 5) (w.extractLsb' 15 5) (w.extractLsb' 2 3) (w.extractLsb' 0 2))
  | 5 => finish w [] [(10, 5)] [] (.vrsqrt e (w.extractLsb' 20 5) (w.extractLsb' 15 5) (w.extractLsb' 2 3) (w.extractLsb' 0 2))
  | _ => .error 2

/-- Major `0x29`: vand, vor, vxor. -/
def decodeMajor29 (e : List Ext) (w : W32) : Except Nat Instr :=
  match (w.extractLsb' 0 2).toNat with
  | 0 => finish w [] [(5, 5)] [] (.vand e (w.extractLsb' 20 5) (w.extractLsb' 15 5) (w.extractLsb' 10 5) (w.extractLsb' 2 3))
  | 1 => finish w [] [(5, 5)] [] (.vor e (w.extractLsb' 20 5) (w.extractLsb' 15 5) (w.extractLsb' 10 5) (w.extractLsb' 2 3))
  | 2 => finish w [] [(5, 5)] [] (.vxor e (w.extractLsb' 20 5) (w.extractLsb' 15 5) (w.extractLsb' 10 5) (w.extractLsb' 2 3))
  | _ => .error 2

/-- Major `0x2A`: vshl, vshr, vsra. -/
def decodeMajor2A (e : List Ext) (w : W32) : Except Nat Instr :=
  match (w.extractLsb' 0 2).toNat with
  | 0 => finish w [] [(5, 5)] [] (.vshl e (w.extractLsb' 20 5) (w.extractLsb' 15 5) (w.extractLsb' 10 5) (w.extractLsb' 2 3))
  | 1 => finish w [] [(5, 5)] [] (.vshr e (w.extractLsb' 20 5) (w.extractLsb' 15 5) (w.extractLsb' 10 5) (w.extractLsb' 2 3))
  | 2 => finish w [] [(5, 5)] [] (.vsra e (w.extractLsb' 20 5) (w.extractLsb' 15 5) (w.extractLsb' 10 5) (w.extractLsb' 2 3))
  | _ => .error 2

/-- Major `0x2B`: vcmp. -/
def decodeMajor2B (e : List Ext) (w : W32) : Except Nat Instr :=
  finish w [(8, 2)] [(0, 2)] [] (.vcmp e (w.extractLsb' 20 5) (w.extractLsb' 15 5) (w.extractLsb' 10 5) (w.extractLsb' 5 3) (w.extractLsb' 2 3))

/-- Major `0x2C`: vsel. -/
def decodeMajor2C (e : List Ext) (w : W32) : Except Nat Instr :=
  finish w [] [(0, 2), (5, 5)] [] (.vsel e (w.extractLsb' 20 5) (w.extractLsb' 15 5) (w.extractLsb' 10 5) (w.extractLsb' 2 3))

/-- Major `0x2D`: vcvt. -/
def decodeMajor2D (e : List Ext) (w : W32) : Except Nat Instr :=
  finish w [] [(9, 6)] [] (.vcvt e (w.extractLsb' 20 5) (w.extractLsb' 15 5) (w.extractLsb' 5 4) (w.extractLsb' 2 3) (w.extractLsb' 0 2))

/-- Major `0x2E`: vtag. -/
def decodeMajor2E (e : List Ext) (w : W32) : Except Nat Instr :=
  finish w [] [(0, 5), (9, 6)] [] (.vtag e (w.extractLsb' 20 5) (w.extractLsb' 15 5) (w.extractLsb' 5 4))

/-- Major `0x2F`: vmov, vbcast, vext, vins, vperm. The type code of `vbcast` is its whole b field: b[4] gives 2, as the codes 9 to 15 do (DESIGN
CHOICE, log 102). -/
def decodeMajor2F (e : List Ext) (w : W32) : Except Nat Instr :=
  match (w.extractLsb' 5 5).toNat with
  | 0 => finish w [] [(0, 2), (10, 5)] [] (.vmov e (w.extractLsb' 20 5) (w.extractLsb' 15 5) (w.extractLsb' 2 3))
  | 1 => finish w [(14, 1)] [(0, 2)] [] (.vbcast e (w.extractLsb' 20 5) (w.extractLsb' 15 5) (w.extractLsb' 10 4) (w.extractLsb' 2 3))
  | 2 => finish w [] [(0, 5)] [] (.vext e (w.extractLsb' 20 5) (w.extractLsb' 15 5) (w.extractLsb' 10 5))
  | 3 => finish w [] [(0, 5)] [] (.vins e (w.extractLsb' 20 5) (w.extractLsb' 15 5) (w.extractLsb' 10 5))
  | 4 => finish w [] [(0, 2)] [] (.vperm e (w.extractLsb' 20 5) (w.extractLsb' 15 5) (w.extractLsb' 10 5) (w.extractLsb' 2 3))
  | _ => .error 2

/-- Major `0x30`: vredsum, vredmax, vredmin. A nonzero `fn2` of the last two gives 3 (log 101). -/
def decodeMajor30 (e : List Ext) (w : W32) : Except Nat Instr :=
  match (w.extractLsb' 5 5).toNat with
  | 0 => finish w [] [(10, 5)] [] (.vredsum e (w.extractLsb' 20 5) (w.extractLsb' 15 5) (w.extractLsb' 2 3) (w.extractLsb' 0 2))
  | 1 => finish w [] [(0, 2), (10, 5)] [] (.vredmax e (w.extractLsb' 20 5) (w.extractLsb' 15 5) (w.extractLsb' 2 3))
  | 2 => finish w [] [(0, 2), (10, 5)] [] (.vredmin e (w.extractLsb' 20 5) (w.extractLsb' 15 5) (w.extractLsb' 2 3))
  | _ => .error 2

/-- Major `0x31`: vdot.bf16. -/
def decodeMajor31 (e : List Ext) (w : W32) : Except Nat Instr :=
  finish w [] [] [] (.vdotBf16 e (w.extractLsb' 20 5) (w.extractLsb' 15 5) (w.extractLsb' 10 5) (w.extractLsb' 5 5) (w.extractLsb' 2 3) (w.extractLsb' 0 2))

/-- Major `0x32`: vdot.td8. -/
def decodeMajor32 (e : List Ext) (w : W32) : Except Nat Instr :=
  finish w [] [] [] (.vdotTd8 e (w.extractLsb' 20 5) (w.extractLsb' 15 5) (w.extractLsb' 10 5) (w.extractLsb' 5 5) (w.extractLsb' 2 3) (w.extractLsb' 0 2))

/-- Major `0x34`: kset, kand, kor, knot, kpop. -/
def decodeMajor34 (e : List Ext) (w : W32) : Except Nat Instr :=
  match (w.extractLsb' 0 10).toNat with
  | 0 => finish w [] [(10, 5)] [] (.kset e (w.extractLsb' 20 5) (w.extractLsb' 15 5))
  | 1 => finish w [] [] [] (.kand e (w.extractLsb' 20 5) (w.extractLsb' 15 5) (w.extractLsb' 10 5))
  | 2 => finish w [] [] [] (.kor e (w.extractLsb' 20 5) (w.extractLsb' 15 5) (w.extractLsb' 10 5))
  | 3 => finish w [] [(10, 5)] [] (.knot e (w.extractLsb' 20 5) (w.extractLsb' 15 5))
  | 4 => finish w [] [(10, 5)] [] (.kpop e (w.extractLsb' 20 5) (w.extractLsb' 15 5))
  | _ => .error 2

/-- Major `0x35`: sbind.pop, sbind.push, sfree. -/
def decodeMajor35 (e : List Ext) (w : W32) : Except Nat Instr :=
  match (w.extractLsb' 0 10).toNat with
  | 0 => finish w [] [(10, 5)] [] (.sbindPop e (w.extractLsb' 20 5) (w.extractLsb' 15 5))
  | 1 => finish w [] [(10, 5)] [] (.sbindPush e (w.extractLsb' 20 5) (w.extractLsb' 15 5))
  | 2 => finish w [] [(10, 10)] [] (.sfree e (w.extractLsb' 20 5))
  | _ => .error 2

/-- Major `0x36`: ckacc.mod, ckacc.fsum, ckclr, ckrd.lo, ckrd.hi, check. -/
def decodeMajor36 (e : List Ext) (w : W32) : Except Nat Instr :=
  match (w.extractLsb' 5 5).toNat with
  | 0 => finish w [] [(0, 2), (10, 5)] [] (.ckaccMod e (w.extractLsb' 20 5) (w.extractLsb' 15 5) (w.extractLsb' 2 3))
  | 1 => finish w [] [(0, 2), (10, 5)] [] (.ckaccFsum e (w.extractLsb' 20 5) (w.extractLsb' 15 5) (w.extractLsb' 2 3))
  | 2 => finish w [] [(0, 5), (10, 10)] [] (.ckclr e (w.extractLsb' 20 5))
  | 3 => finish w [] [(0, 5), (10, 5)] [] (.ckrdLo e (w.extractLsb' 20 5) (w.extractLsb' 15 5))
  | 4 => finish w [] [(0, 5), (10, 5)] [] (.ckrdHi e (w.extractLsb' 20 5) (w.extractLsb' 15 5))
  | 5 => finish w [] [(0, 5)] [] (.check e (w.extractLsb' 20 5) (w.extractLsb' 15 5) (w.extractLsb' 10 5))
  | _ => .error 2

/-- Major `0x38`: vld. -/
def decodeMajor38 (e : List Ext) (w : W32) : Except Nat Instr :=
  finish w [] [] [] (.vld e (w.extractLsb' 20 5) (w.extractLsb' 15 5) (w.extractLsb' 11 4) (w.extractLsb' 9 2) (w.extractLsb' 0 9))

/-- Major `0x39`: vst. Its tag field is unused: any nonzero value gives 3, also 9 to 15 (DESIGN CHOICE, log 102). -/
def decodeMajor39 (e : List Ext) (w : W32) : Except Nat Instr :=
  finish w [] [(11, 4)] [] (.vst e (w.extractLsb' 20 5) (w.extractLsb' 15 5) (w.extractLsb' 9 2) (w.extractLsb' 0 9))

/-- Major `0x3A`: vldg. -/
def decodeMajor3A (e : List Ext) (w : W32) : Except Nat Instr :=
  finish w [] [] [(9, 2)] (.vldg e (w.extractLsb' 20 5) (w.extractLsb' 15 5) (w.extractLsb' 11 4) (w.extractLsb' 0 9))

/-- Major `0x3B`: vstg. Its tag field is unused: any nonzero value gives 3, also 9 to 15 (DESIGN CHOICE, log 102). -/
def decodeMajor3B (e : List Ext) (w : W32) : Except Nat Instr :=
  finish w [] [(11, 4)] [(9, 2)] (.vstg e (w.extractLsb' 20 5) (w.extractLsb' 15 5) (w.extractLsb' 0 9))

/-- Major `0x3C`: vgath, vscat. The type of `vscat` is unused: any nonzero value gives 3, also 9 to 15 (DESIGN CHOICE, log 102). -/
def decodeMajor3C (e : List Ext) (w : W32) : Except Nat Instr :=
  match (w.extractLsb' 0 2).toNat with
  | 0 => finish w [] [] [] (.vgath e (w.extractLsb' 20 5) (w.extractLsb' 15 5) (w.extractLsb' 10 5) (w.extractLsb' 9 1) (w.extractLsb' 5 4) (w.extractLsb' 2 3))
  | 1 => finish w [] [(5, 4)] [] (.vscat e (w.extractLsb' 20 5) (w.extractLsb' 15 5) (w.extractLsb' 10 5) (w.extractLsb' 9 1) (w.extractLsb' 2 3))
  | _ => .error 2

/-- Major `0x40`: mma. -/
def decodeMajor40 (e : List Ext) (w : W32) : Except Nat Instr :=
  finish w [] [(1, 9)] [] (.mma e (w.extractLsb' 21 4) (w.extractLsb' 18 3) (w.extractLsb' 15 3) (w.extractLsb' 10 5) (w.extractLsb' 0 1))

/-- Major `0x41`: odset, mwin, mzero, mld, mst, mst.bf16, mst.td8, mchk, mres, mscale. -/
def decodeMajor41 (e : List Ext) (w : W32) : Except Nat Instr :=
  match (w.extractLsb' 0 10).toNat with
  | 0 => finish w [] [] [] (.odset e (w.extractLsb' 20 5) (w.extractLsb' 15 5) (w.extractLsb' 10 5))
  | 1 => finish w [] [(10, 5)] [] (.mwin e (w.extractLsb' 20 5) (w.extractLsb' 15 5))
  | 2 => finish w [] [(10, 10)] [] (.mzero e (w.extractLsb' 20 5))
  | 3 => finish w [] [(10, 5)] [] (.mld e (w.extractLsb' 20 5) (w.extractLsb' 15 5))
  | 4 => finish w [] [(10, 5)] [] (.mst e (w.extractLsb' 20 5) (w.extractLsb' 15 5))
  | 5 => finish w [] [(10, 5)] [] (.mstBf16 e (w.extractLsb' 20 5) (w.extractLsb' 15 5))
  | 6 => finish w [] [(10, 5)] [] (.mstTd8 e (w.extractLsb' 20 5) (w.extractLsb' 15 5))
  | 7 => finish w [] [] [] (.mchk e (w.extractLsb' 20 5) (w.extractLsb' 15 5) (w.extractLsb' 10 5))
  | 8 => finish w [] [(10, 5)] [] (.mres e (w.extractLsb' 20 5) (w.extractLsb' 15 5))
  | 9 => finish w [] [] [] (.mscale e (w.extractLsb' 20 5) (w.extractLsb' 15 5) (w.extractLsb' 10 5))
  | _ => .error 2

/-- Major `0x48`: amo.add, amo.and, amo.or, amo.xor, amo.min, amo.max, amo.minz, amo.maxz, amo.swap, amo.fad. -/
def decodeMajor48 (e : List Ext) (w : W32) : Except Nat Instr :=
  match (w.extractLsb' 0 4).toNat with
  | 0 => finish w [] [(6, 4)] [] (.amoAdd e (w.extractLsb' 20 5) (w.extractLsb' 15 5) (w.extractLsb' 10 5) (w.extractLsb' 4 2))
  | 1 => finish w [] [(6, 4)] [] (.amoAnd e (w.extractLsb' 20 5) (w.extractLsb' 15 5) (w.extractLsb' 10 5) (w.extractLsb' 4 2))
  | 2 => finish w [] [(6, 4)] [] (.amoOr e (w.extractLsb' 20 5) (w.extractLsb' 15 5) (w.extractLsb' 10 5) (w.extractLsb' 4 2))
  | 3 => finish w [] [(6, 4)] [] (.amoXor e (w.extractLsb' 20 5) (w.extractLsb' 15 5) (w.extractLsb' 10 5) (w.extractLsb' 4 2))
  | 4 => finish w [] [(6, 4)] [] (.amoMin e (w.extractLsb' 20 5) (w.extractLsb' 15 5) (w.extractLsb' 10 5) (w.extractLsb' 4 2))
  | 5 => finish w [] [(6, 4)] [] (.amoMax e (w.extractLsb' 20 5) (w.extractLsb' 15 5) (w.extractLsb' 10 5) (w.extractLsb' 4 2))
  | 6 => finish w [] [(6, 4)] [] (.amoMinz e (w.extractLsb' 20 5) (w.extractLsb' 15 5) (w.extractLsb' 10 5) (w.extractLsb' 4 2))
  | 7 => finish w [] [(6, 4)] [] (.amoMaxz e (w.extractLsb' 20 5) (w.extractLsb' 15 5) (w.extractLsb' 10 5) (w.extractLsb' 4 2))
  | 8 => finish w [] [(6, 4)] [] (.amoSwap e (w.extractLsb' 20 5) (w.extractLsb' 15 5) (w.extractLsb' 10 5) (w.extractLsb' 4 2))
  | 9 => finish w [] [(6, 4)] [(4, 2)] (.amoFadd e (w.extractLsb' 20 5) (w.extractLsb' 15 5) (w.extractLsb' 10 5))
  | _ => .error 2

/-- Major `0x49`: red.add, red.and, red.or, red.xor, red.min, red.max, red.minz, red.maxz, red.fadd. -/
def decodeMajor49 (e : List Ext) (w : W32) : Except Nat Instr :=
  match (w.extractLsb' 0 4).toNat with
  | 0 => finish w [] [(6, 4), (20, 5)] [] (.redAdd e (w.extractLsb' 15 5) (w.extractLsb' 10 5) (w.extractLsb' 4 2))
  | 1 => finish w [] [(6, 4), (20, 5)] [] (.redAnd e (w.extractLsb' 15 5) (w.extractLsb' 10 5) (w.extractLsb' 4 2))
  | 2 => finish w [] [(6, 4), (20, 5)] [] (.redOr e (w.extractLsb' 15 5) (w.extractLsb' 10 5) (w.extractLsb' 4 2))
  | 3 => finish w [] [(6, 4), (20, 5)] [] (.redXor e (w.extractLsb' 15 5) (w.extractLsb' 10 5) (w.extractLsb' 4 2))
  | 4 => finish w [] [(6, 4), (20, 5)] [] (.redMin e (w.extractLsb' 15 5) (w.extractLsb' 10 5) (w.extractLsb' 4 2))
  | 5 => finish w [] [(6, 4), (20, 5)] [] (.redMax e (w.extractLsb' 15 5) (w.extractLsb' 10 5) (w.extractLsb' 4 2))
  | 6 => finish w [] [(6, 4), (20, 5)] [] (.redMinz e (w.extractLsb' 15 5) (w.extractLsb' 10 5) (w.extractLsb' 4 2))
  | 7 => finish w [] [(6, 4), (20, 5)] [] (.redMaxz e (w.extractLsb' 15 5) (w.extractLsb' 10 5) (w.extractLsb' 4 2))
  | 9 => finish w [] [(6, 4), (20, 5)] [(4, 2)] (.redFadd e (w.extractLsb' 15 5) (w.extractLsb' 10 5))
  | _ => .error 2

/-- Major `0x4A`: amoc. -/
def decodeMajor4A (e : List Ext) (w : W32) : Except Nat Instr :=
  finish w [] [(2, 3)] [] (.amoc e (w.extractLsb' 20 5) (w.extractLsb' 15 5) (w.extractLsb' 10 5) (w.extractLsb' 5 5) (w.extractLsb' 0 2))

/-- Major `0x4B`: fence, qfence, acq, rel, rbind, icinv. -/
def decodeMajor4B (e : List Ext) (w : W32) : Except Nat Instr :=
  match (w.extractLsb' 0 7).toNat with
  | 0 => finish w [] [(11, 9)] [] (.fence e (w.extractLsb' 20 5) (w.extractLsb' 10 1) (w.extractLsb' 7 3))
  | 1 => finish w [] [(15, 10)] [] (.qfence e (w.extractLsb' 10 5) (w.extractLsb' 7 3))
  | 2 => finish w [] [(10, 5), (20, 5)] [] (.acq e (w.extractLsb' 15 5) (w.extractLsb' 7 3))
  | 3 => finish w [] [(10, 5), (20, 5)] [] (.rel e (w.extractLsb' 15 5) (w.extractLsb' 7 3))
  | 4 => finish w [] [(7, 3)] [] (.rbind e (w.extractLsb' 20 5) (w.extractLsb' 15 5) (w.extractLsb' 10 5))
  | 5 => finish w [] [(10, 15)] [] (.icinv e (w.extractLsb' 7 3))
  | _ => .error 2

/-- Major `0x4C`: feset, feclr, fewait. -/
def decodeMajor4C (e : List Ext) (w : W32) : Except Nat Instr :=
  match (w.extractLsb' 0 10).toNat with
  | 0 => finish w [] [(10, 5), (20, 5)] [] (.feset e (w.extractLsb' 15 5))
  | 1 => finish w [] [(10, 5), (20, 5)] [] (.feclr e (w.extractLsb' 15 5))
  | 2 => finish w [] [(10, 5), (20, 5)] [] (.fewait e (w.extractLsb' 15 5))
  | _ => .error 2

/-- Major `0x4D`: binit, benrol, barrive, bexpect, bwait, btest. -/
def decodeMajor4D (e : List Ext) (w : W32) : Except Nat Instr :=
  match (w.extractLsb' 0 3).toNat with
  | 0 => finish w [] [(3, 7), (20, 5)] [] (.binit e (w.extractLsb' 15 5) (w.extractLsb' 10 5))
  | 1 => finish w [] [(3, 7), (12, 3), (20, 5)] [] (.benrol e (w.extractLsb' 15 5) (w.extractLsb' 10 2))
  | 2 => finish w [] [(6, 4), (20, 5)] [] (.barrive e (w.extractLsb' 15 5) (w.extractLsb' 10 5) (w.extractLsb' 3 3))
  | 3 => finish w [] [(3, 7), (20, 5)] [] (.bexpect e (w.extractLsb' 15 5) (w.extractLsb' 10 5))
  | 4 => finish w [] [(6, 9)] [] (.bwait e (w.extractLsb' 20 5) (w.extractLsb' 15 5) (w.extractLsb' 3 3))
  | 5 => finish w [] [(6, 9)] [] (.btest e (w.extractLsb' 20 5) (w.extractLsb' 15 5) (w.extractLsb' 3 3))
  | _ => .error 2

/-- Major `0x4E`: cpy, cpyx, cpwait. -/
def decodeMajor4E (e : List Ext) (w : W32) : Except Nat Instr :=
  match (w.extractLsb' 0 10).toNat with
  | 0 => finish w [] [] [] (.cpy e (w.extractLsb' 20 5) (w.extractLsb' 15 5) (w.extractLsb' 10 5))
  | 1 => finish w [] [] [] (.cpyx e (w.extractLsb' 20 5) (w.extractLsb' 15 5) (w.extractLsb' 10 5))
  | 2 => finish w [] [(10, 10)] [] (.cpwait e (w.extractLsb' 20 5))
  | _ => .error 2

/-- Major `0x50`: nalloc, nfree, nld, nst. -/
def decodeMajor50 (e : List Ext) (w : W32) : Except Nat Instr :=
  match (w.extractLsb' 0 10).toNat with
  | 0 => finish w [] [(10, 5)] [] (.nalloc e (w.extractLsb' 20 5) (w.extractLsb' 15 5))
  | 1 => finish w [] [(10, 5), (20, 5)] [] (.nfree e (w.extractLsb' 15 5))
  | 2 => finish w [] [(13, 2)] [] (.nld e (w.extractLsb' 20 5) (w.extractLsb' 15 5) (w.extractLsb' 10 3))
  | 3 => finish w [] [(13, 2)] [] (.nst e (w.extractLsb' 20 5) (w.extractLsb' 15 5) (w.extractLsb' 10 3))
  | _ => .error 2

/-- Major `0x51`: plink, pget, ppush. -/
def decodeMajor51 (e : List Ext) (w : W32) : Except Nat Instr :=
  match (w.extractLsb' 0 10).toNat with
  | 0 => finish w [] [] [] (.plink e (w.extractLsb' 20 5) (w.extractLsb' 15 5) (w.extractLsb' 10 5))
  | 1 => finish w [] [(10, 5)] [] (.pget e (w.extractLsb' 20 5) (w.extractLsb' 15 5))
  | 2 => finish w [] [(20, 5)] [] (.ppush e (w.extractLsb' 15 5) (w.extractLsb' 10 5))
  | _ => .error 2

/-- Major `0x52`: tend, commit, hspawn, chsend, rtset. -/
def decodeMajor52 (e : List Ext) (w : W32) : Except Nat Instr :=
  match (w.extractLsb' 0 10).toNat with
  | 0 => finish w [] [(10, 15)] [] (.tend e)
  | 1 => finish w [] [] [] (.commit e (w.extractLsb' 20 5) (w.extractLsb' 15 5) (w.extractLsb' 10 5))
  | 2 => finish w [] [] [] (.hspawn e (w.extractLsb' 20 5) (w.extractLsb' 15 5) (w.extractLsb' 10 5))
  | 3 => finish w [] [(20, 5)] [] (.chsend e (w.extractLsb' 15 5) (w.extractLsb' 10 5))
  | 4 => finish w [] [] [] (.rtset e (w.extractLsb' 20 5) (w.extractLsb' 15 5) (w.extractLsb' 10 5))
  | _ => .error 2

/-- Major `0x53`: yield. -/
def decodeMajor53 (e : List Ext) (w : W32) : Except Nat Instr :=
  finish w [] [(12, 13)] [] (.yield e (w.extractLsb' 0 12))

/-- Major `0x54`: workq, tver, tnew. -/
def decodeMajor54 (e : List Ext) (w : W32) : Except Nat Instr :=
  match (w.extractLsb' 0 10).toNat with
  | 0 => finish w [] [(20, 5)] [] (.workq e (w.extractLsb' 15 5) (w.extractLsb' 10 5))
  | 1 => finish w [] [(10, 5)] [] (.tver e (w.extractLsb' 20 5) (w.extractLsb' 15 5))
  | 2 => finish w [] [(10, 5)] [] (.tnew e (w.extractLsb' 20 5) (w.extractLsb' 15 5))
  | _ => .error 2

/-- Major `0x58`: trap, eret, tstamp, dscr, pwreq, pwrel. -/
def decodeMajor58 (e : List Ext) (w : W32) : Except Nat Instr :=
  match (w.extractLsb' 0 10).toNat with
  | 0 => finish w [] [(20, 5)] [] (.trap e (w.extractLsb' 15 5) (w.extractLsb' 10 5))
  | 1 => finish w [] [(10, 15)] [] (.eret e)
  | 2 => finish w [] [(10, 10)] [] (.tstamp e (w.extractLsb' 20 5))
  | 3 => finish w [] [(10, 5)] [] (.dscr e (w.extractLsb' 20 5) (w.extractLsb' 15 5))
  | 4 => finish w [] [(10, 5)] [] (.pwreq e (w.extractLsb' 20 5) (w.extractLsb' 15 5))
  | 5 => finish w [] [(10, 5), (20, 5)] [] (.pwrel e (w.extractLsb' 15 5))
  | _ => .error 2

/-- The target word of a group after its `ext` words (R81): the instruction, or the lowest detail of R97. A word of an
unassigned major is an instruction of its own, which faults `ILLEGAL` with DETAIL 1. -/
def decodeTarget (e : List Ext) (w : W32) : Except Nat Instr :=
  match (w.extractLsb' 25 7).toNat with
  | 0x01 => decodeMajor01 e w
  | 0x02 => decodeMajor02 e w
  | 0x03 => decodeMajor03 e w
  | 0x04 => decodeMajor04 e w
  | 0x05 => decodeMajor05 e w
  | 0x06 => decodeMajor06 e w
  | 0x07 => decodeMajor07 e w
  | 0x08 => decodeMajor08 e w
  | 0x09 => decodeMajor09 e w
  | 0x0A => decodeMajor0A e w
  | 0x0B => decodeMajor0B e w
  | 0x0C => decodeMajor0C e w
  | 0x10 => decodeMajor10 e w
  | 0x11 => decodeMajor11 e w
  | 0x12 => decodeMajor12 e w
  | 0x13 => decodeMajor13 e w
  | 0x14 => decodeMajor14 e w
  | 0x15 => decodeMajor15 e w
  | 0x16 => decodeMajor16 e w
  | 0x17 => decodeMajor17 e w
  | 0x18 => decodeMajor18 e w
  | 0x19 => decodeMajor19 e w
  | 0x1A => decodeMajor1A e w
  | 0x1B => decodeMajor1B e w
  | 0x1C => decodeMajor1C e w
  | 0x1D => decodeMajor1D e w
  | 0x1E => decodeMajor1E e w
  | 0x20 => decodeMajor20 e w
  | 0x21 => decodeMajor21 e w
  | 0x22 => decodeMajor22 e w
  | 0x23 => decodeMajor23 e w
  | 0x24 => decodeMajor24 e w
  | 0x25 => decodeMajor25 e w
  | 0x26 => decodeMajor26 e w
  | 0x27 => decodeMajor27 e w
  | 0x28 => decodeMajor28 e w
  | 0x29 => decodeMajor29 e w
  | 0x2A => decodeMajor2A e w
  | 0x2B => decodeMajor2B e w
  | 0x2C => decodeMajor2C e w
  | 0x2D => decodeMajor2D e w
  | 0x2E => decodeMajor2E e w
  | 0x2F => decodeMajor2F e w
  | 0x30 => decodeMajor30 e w
  | 0x31 => decodeMajor31 e w
  | 0x32 => decodeMajor32 e w
  | 0x34 => decodeMajor34 e w
  | 0x35 => decodeMajor35 e w
  | 0x36 => decodeMajor36 e w
  | 0x38 => decodeMajor38 e w
  | 0x39 => decodeMajor39 e w
  | 0x3A => decodeMajor3A e w
  | 0x3B => decodeMajor3B e w
  | 0x3C => decodeMajor3C e w
  | 0x40 => decodeMajor40 e w
  | 0x41 => decodeMajor41 e w
  | 0x48 => decodeMajor48 e w
  | 0x49 => decodeMajor49 e w
  | 0x4A => decodeMajor4A e w
  | 0x4B => decodeMajor4B e w
  | 0x4C => decodeMajor4C e w
  | 0x4D => decodeMajor4D e w
  | 0x4E => decodeMajor4E e w
  | 0x50 => decodeMajor50 e w
  | 0x51 => decodeMajor51 e w
  | 0x52 => decodeMajor52 e w
  | 0x53 => decodeMajor53 e w
  | 0x54 => decodeMajor54 e w
  | 0x58 => decodeMajor58 e w
  | _ => .ok (.unassignedMajorOpcode e w)

/-- Is it an `ext` word (R75)? -/
def isExtWord (w : W32) : Bool := w.extractLsb' 25 7 == 0x7F

/-- One `ext` word (R90): what it says, if its kind is assigned, and the details that its own bits give. -/
def parseExt (w : W32) : Option Ext × List Nat :=
  match (w.extractLsb' 22 3).toNat with
  | 0 => (some (.imm (w.extractLsb' 0 22)), [])
  | 1 => (some (.mem (w.extractLsb' 0 2) (w.extractLsb' 2 3) (w.extractLsb' 5 2)), Instr.need 3 (zeroAt w [(7, 15)]))
  | 2 => (some (.mask (w.extractLsb' 0 3)), Instr.need 3 (zeroAt w [(3, 19)]))
  | 3 => (some (.hint (w.extractLsb' 18 4) (w.extractLsb' 0 18)), [])
  | _ => (none, [2])

/-- A target that accepts an `ext` word as far as the word itself allows: the target taken for a group that has none (R91). -/
def Ext.friend : Ext → Instr
  | .mem 3 _ _ => .vstg [] 0 0 0
  | _ => .vldg [] 0 0 0 0

/-- The details of each `ext` word of a group, in memory order, each with its word (R97): those of its own bits, and those
of its place in the group before the target that `t` gives for it. -/
def extFaults (t : Ext → Instr) : List Ext → List W32 → List (Nat × W32)
  | _, [] => []
  | before, w :: rest =>
    match parseExt w with
    | (none, l) => l.map (fun d => (d, w)) ++ extFaults t before rest
    | (some x, l) => (l ++ Ext.defects before (t x) x).map (fun d => (d, w)) ++ extFaults t (before ++ [x]) rest

/-- The first entry of least detail: the lowest detail, and for it the first word in memory order (R97). -/
def firstLowest : List (Nat × W32) → Option (Nat × W32)
  | [] => none
  | a :: l => some (l.foldl (fun b c => if c.1 < b.1 then c else b) a)

/-- A group from its `ext` words and the word after them (R91). The word after three `ext` words must not be one. -/
def decodeGroup (ws : List W32) (w : W32) : Except Reject Instr :=
  let e := ws.filterMap (fun x => (parseExt x).1)
  if isExtWord w then
    match firstLowest (extFaults Ext.friend [] ws ++ extFaults Ext.friend [] [w] ++ [(6, w)]) with
    | some (d, x) => .error (Reject.ofDetail d x)
    | none => .error (.badGroup w)
  else match decodeTarget e w with
    | .error d =>
      -- every composition detail is 6, so only the details that the ext words' own bits give can be as low
      match firstLowest (extFaults Ext.friend [] ws ++ [(d, w)]) with
      | some (f, x) => .error (Reject.ofDetail f x)
      | none => .error (Reject.ofDetail d w)
    | .ok (.unassignedMajorOpcode e' w') =>
      -- its own detail is the lowest; an `ext` word that says nothing still counts among the group's words (R96)
      if e'.length == ws.length then .ok (.unassignedMajorOpcode e' w') else .error (.unassignedMajor w')
    | .ok i =>
      match firstLowest (extFaults (fun _ => i) [] ws) with
      | some (d, x) => .error (Reject.ofDetail d x)
      | none => .ok i

/-- Splits off the `ext` words of a group: at most `n` of them. -/
def splitExts : Nat → List W32 → List W32 × List W32
  | 0, l => ([], l)
  | _, [] => ([], [])
  | n + 1, w :: l => if isExtWord w then ((w :: (splitExts n l).1), (splitExts n l).2) else ([], w :: l)

/-- The first group of a list of words, and the words after it. -/
def decodeWords (ws : List W32) : Except Reject (Instr × List W32) :=
  match splitExts 3 ws with
  | (_, []) => .error .truncated
  | (es, w :: rest) =>
    match decodeGroup es w with
    | .ok i => .ok (i, rest)
    | .error r => .error r

/-- Words from bytes, little-endian (R3, R75); bytes after the last whole word are dropped. -/
def wordsOf : List Byte → List W32
  | a :: b :: c :: d :: rest => (d ++ c ++ b ++ a) :: wordsOf rest
  | _ => []

/-- The bytes of a word, lowest address first (R75). -/
def bytesOfWord (w : W32) : List Byte := [w.extractLsb' 0 8, w.extractLsb' 8 8, w.extractLsb' 16 8, w.extractLsb' 24 8]

/-- The decoder on bytes: the first group and the words after it. Total; a rejection has a name. -/
def decode (bs : List Byte) : Except Reject (Instr × List W32) := decodeWords (wordsOf bs)

/-- The instruction that the decoder reads from an instruction of `nbits` bits `w`, laid out as the hardware stores it. -/
def decodeTableWord (nbits w : Nat) : Option Instr :=
  let bytes := (List.range (nbits / 8)).map fun n => BitVec.ofNat 8 (w / 2 ^ (8 * n))
  match decode bytes with
  | .ok (i, _) => some i
  | .error _ => none

/-! The encoder, from the encoding tables R76, R80 to R86 and R141, R184, R236. -/

/-- One `ext` word (R90). -/
def encodeExt : Ext → W32
  | .imm p => 0x7F#7 ++ 0#3 ++ p
  | .mem ord scope pol => 0x7F#7 ++ 1#3 ++ 0#15 ++ pol ++ scope ++ ord
  | .mask k => 0x7F#7 ++ 2#3 ++ 0#19 ++ k
  | .hint code arg => 0x7F#7 ++ 3#3 ++ code ++ arg

/-- The target word of an instruction; an event has none. -/
def encodeTarget : Instr → Option W32
  | .add _ d a b => some (0x1#7 ++ d ++ a ++ b ++ 0x0#10)
  | .sub _ d a b => some (0x1#7 ++ d ++ a ++ b ++ 0x1#10)
  | .mul _ d a b => some (0x1#7 ++ d ++ a ++ b ++ 0x2#10)
  | .mulh _ d a b => some (0x1#7 ++ d ++ a ++ b ++ 0x3#10)
  | .mulhz _ d a b => some (0x1#7 ++ d ++ a ++ b ++ 0x4#10)
  | .div _ d a b => some (0x1#7 ++ d ++ a ++ b ++ 0x5#10)
  | .divz _ d a b => some (0x1#7 ++ d ++ a ++ b ++ 0x6#10)
  | .rem _ d a b => some (0x1#7 ++ d ++ a ++ b ++ 0x7#10)
  | .remz _ d a b => some (0x1#7 ++ d ++ a ++ b ++ 0x8#10)
  | .and _ d a b => some (0x1#7 ++ d ++ a ++ b ++ 0x9#10)
  | .or _ d a b => some (0x1#7 ++ d ++ a ++ b ++ 0xA#10)
  | .xor _ d a b => some (0x1#7 ++ d ++ a ++ b ++ 0xB#10)
  | .shl _ d a b => some (0x1#7 ++ d ++ a ++ b ++ 0xC#10)
  | .shr _ d a b => some (0x1#7 ++ d ++ a ++ b ++ 0xD#10)
  | .sra _ d a b => some (0x1#7 ++ d ++ a ++ b ++ 0xE#10)
  | .min _ d a b => some (0x1#7 ++ d ++ a ++ b ++ 0xF#10)
  | .max _ d a b => some (0x1#7 ++ d ++ a ++ b ++ 0x10#10)
  | .minz _ d a b => some (0x1#7 ++ d ++ a ++ b ++ 0x11#10)
  | .maxz _ d a b => some (0x1#7 ++ d ++ a ++ b ++ 0x12#10)
  | .seq _ d a b => some (0x1#7 ++ d ++ a ++ b ++ 0x13#10)
  | .sne _ d a b => some (0x1#7 ++ d ++ a ++ b ++ 0x14#10)
  | .slt _ d a b => some (0x1#7 ++ d ++ a ++ b ++ 0x15#10)
  | .sltz _ d a b => some (0x1#7 ++ d ++ a ++ b ++ 0x16#10)
  | .clz _ d a => some (0x1#7 ++ d ++ a ++ 0x18#15)
  | .ctz _ d a => some (0x1#7 ++ d ++ a ++ 0x19#15)
  | .popc _ d a => some (0x1#7 ++ d ++ a ++ 0x1A#15)
  | .addi _ d a i => some (0x2#7 ++ d ++ a ++ i)
  | .andi _ d a i => some (0x3#7 ++ d ++ a ++ i)
  | .ori _ d a i => some (0x4#7 ++ d ++ a ++ i)
  | .xori _ d a i => some (0x5#7 ++ d ++ a ++ i)
  | .slti _ d a i => some (0x6#7 ++ d ++ a ++ i)
  | .shli _ d a n => some (0x7#7 ++ d ++ a ++ 0x0#9 ++ n)
  | .shri _ d a n => some (0x7#7 ++ d ++ a ++ 0x1#9 ++ n)
  | .srai _ d a n => some (0x7#7 ++ d ++ a ++ 0x2#9 ++ n)
  | .lih _ d i => some (0x8#7 ++ d ++ i)
  | .addpc _ d i => some (0x9#7 ++ d ++ i)
  | .sel _ d a b c => some (0xA#7 ++ d ++ a ++ b ++ c ++ 0x0#5)
  | .fadd _ d a b r => some (0xB#7 ++ d ++ a ++ b ++ 0x0#8 ++ r)
  | .fsub _ d a b r => some (0xB#7 ++ d ++ a ++ b ++ 0x1#8 ++ r)
  | .fmul _ d a b r => some (0xB#7 ++ d ++ a ++ b ++ 0x2#8 ++ r)
  | .fmin _ d a b => some (0xB#7 ++ d ++ a ++ b ++ 0xC#10)
  | .fmax _ d a b => some (0xB#7 ++ d ++ a ++ b ++ 0x10#10)
  | .fcmp _ d a b c => some (0xB#7 ++ d ++ a ++ b ++ 0x1#5 ++ c ++ 0x0#2)
  | .fcvt _ d a s t r => some (0xB#7 ++ d ++ a ++ 0x0#1 ++ s ++ 0x1#4 ++ t ++ r)
  | .ffma _ d a b c r => some (0xC#7 ++ d ++ a ++ b ++ c ++ 0x0#3 ++ r)
  | .beq _ x y o => some (0x10#7 ++ x ++ y ++ o)
  | .bne _ x y o => some (0x11#7 ++ x ++ y ++ o)
  | .blt _ x y o => some (0x12#7 ++ x ++ y ++ o)
  | .bge _ x y o => some (0x13#7 ++ x ++ y ++ o)
  | .bltz _ x y o => some (0x14#7 ++ x ++ y ++ o)
  | .bgez _ x y o => some (0x15#7 ++ x ++ y ++ o)
  | .jmp _ o => some (0x16#7 ++ o)
  | .jal _ o => some (0x17#7 ++ o)
  | .jr _ a => some (0x18#7 ++ 0x0#5 ++ a ++ 0x0#15)
  | .jalr _ d a => some (0x18#7 ++ d ++ a ++ 0x1#15)
  | .csrr _ d c => some (0x19#7 ++ d ++ 0x0#8 ++ c)
  | .csrw _ a c => some (0x19#7 ++ 0x0#5 ++ a ++ 0x1#3 ++ c)
  | .csrs _ a c => some (0x19#7 ++ 0x0#5 ++ a ++ 0x2#3 ++ c)
  | .csrc _ a c => some (0x19#7 ++ 0x0#5 ++ a ++ 0x3#3 ++ c)
  | .ldl _ d a s m o => some (0x1A#7 ++ d ++ a ++ s ++ m ++ o)
  | .stl _ d a s m o => some (0x1B#7 ++ d ++ a ++ s ++ m ++ o)
  | .ldg _ d a s m o => some (0x1C#7 ++ d ++ a ++ s ++ m ++ o)
  | .stg _ d a s o => some (0x1D#7 ++ d ++ a ++ s ++ 0x0#2 ++ o)
  | .ldx _ d a b m s => some (0x1E#7 ++ d ++ a ++ b ++ 0x0#5 ++ m ++ s ++ 0x0#1)
  | .stx _ d a b s => some (0x1E#7 ++ d ++ a ++ b ++ 0x0#7 ++ s ++ 0x1#1)
  | .vadd _ d a b k r => some (0x20#7 ++ d ++ a ++ b ++ 0x0#5 ++ k ++ r)
  | .vsub _ d a b k r => some (0x21#7 ++ d ++ a ++ b ++ 0x0#5 ++ k ++ r)
  | .vmul _ d a b k r => some (0x22#7 ++ d ++ a ++ b ++ 0x0#5 ++ k ++ r)
  | .vmin _ d a b k => some (0x23#7 ++ d ++ a ++ b ++ 0x0#5 ++ k ++ 0x0#2)
  | .vmax _ d a b k => some (0x24#7 ++ d ++ a ++ b ++ 0x0#5 ++ k ++ 0x0#2)
  | .vfma _ d a b c k r => some (0x25#7 ++ d ++ a ++ b ++ c ++ k ++ r)
  | .vfms _ d a b c k r => some (0x26#7 ++ d ++ a ++ b ++ c ++ k ++ r)
  | .vfnma _ d a b c k r => some (0x27#7 ++ d ++ a ++ b ++ c ++ k ++ r)
  | .vabs _ d a k => some (0x28#7 ++ d ++ a ++ 0x0#10 ++ k ++ 0x0#2)
  | .vneg _ d a k => some (0x28#7 ++ d ++ a ++ 0x1#10 ++ k ++ 0x0#2)
  | .vexp2 _ d a k r => some (0x28#7 ++ d ++ a ++ 0x2#10 ++ k ++ r)
  | .vlog2 _ d a k r => some (0x28#7 ++ d ++ a ++ 0x3#10 ++ k ++ r)
  | .vrcp _ d a k r => some (0x28#7 ++ d ++ a ++ 0x4#10 ++ k ++ r)
  | .vrsqrt _ d a k r => some (0x28#7 ++ d ++ a ++ 0x5#10 ++ k ++ r)
  | .vand _ d a b k => some (0x29#7 ++ d ++ a ++ b ++ 0x0#5 ++ k ++ 0x0#2)
  | .vor _ d a b k => some (0x29#7 ++ d ++ a ++ b ++ 0x0#5 ++ k ++ 0x1#2)
  | .vxor _ d a b k => some (0x29#7 ++ d ++ a ++ b ++ 0x0#5 ++ k ++ 0x2#2)
  | .vshl _ d a b k => some (0x2A#7 ++ d ++ a ++ b ++ 0x0#5 ++ k ++ 0x0#2)
  | .vshr _ d a b k => some (0x2A#7 ++ d ++ a ++ b ++ 0x0#5 ++ k ++ 0x1#2)
  | .vsra _ d a b k => some (0x2A#7 ++ d ++ a ++ b ++ 0x0#5 ++ k ++ 0x2#2)
  | .vcmp _ d a b c k => some (0x2B#7 ++ d ++ a ++ b ++ 0x0#2 ++ c ++ k ++ 0x0#2)
  | .vsel _ d a b k => some (0x2C#7 ++ d ++ a ++ b ++ 0x0#5 ++ k ++ 0x0#2)
  | .vcvt _ d a t k r => some (0x2D#7 ++ d ++ a ++ 0x0#6 ++ t ++ k ++ r)
  | .vtag _ d a t => some (0x2E#7 ++ d ++ a ++ 0x0#6 ++ t ++ 0x0#5)
  | .vmov _ d a k => some (0x2F#7 ++ d ++ a ++ 0x0#10 ++ k ++ 0x0#2)
  | .vbcast _ d a t k => some (0x2F#7 ++ d ++ a ++ 0x0#1 ++ t ++ 0x1#5 ++ k ++ 0x0#2)
  | .vext _ d a b => some (0x2F#7 ++ d ++ a ++ b ++ 0x40#10)
  | .vins _ d a b => some (0x2F#7 ++ d ++ a ++ b ++ 0x60#10)
  | .vperm _ d a b k => some (0x2F#7 ++ d ++ a ++ b ++ 0x4#5 ++ k ++ 0x0#2)
  | .vredsum _ d a k r => some (0x30#7 ++ d ++ a ++ 0x0#10 ++ k ++ r)
  | .vredmax _ d a k => some (0x30#7 ++ d ++ a ++ 0x1#10 ++ k ++ 0x0#2)
  | .vredmin _ d a k => some (0x30#7 ++ d ++ a ++ 0x2#10 ++ k ++ 0x0#2)
  | .vdotBf16 _ d a b c k r => some (0x31#7 ++ d ++ a ++ b ++ c ++ k ++ r)
  | .vdotTd8 _ d a b c k r => some (0x32#7 ++ d ++ a ++ b ++ c ++ k ++ r)
  | .kset _ d a => some (0x34#7 ++ d ++ a ++ 0x0#15)
  | .kand _ d a b => some (0x34#7 ++ d ++ a ++ b ++ 0x1#10)
  | .kor _ d a b => some (0x34#7 ++ d ++ a ++ b ++ 0x2#10)
  | .knot _ d a => some (0x34#7 ++ d ++ a ++ 0x3#15)
  | .kpop _ d a => some (0x34#7 ++ d ++ a ++ 0x4#15)
  | .sbindPop _ d a => some (0x35#7 ++ d ++ a ++ 0x0#15)
  | .sbindPush _ d a => some (0x35#7 ++ d ++ a ++ 0x1#15)
  | .sfree _ d => some (0x35#7 ++ d ++ 0x2#20)
  | .ckaccMod _ d a k => some (0x36#7 ++ d ++ a ++ 0x0#10 ++ k ++ 0x0#2)
  | .ckaccFsum _ d a k => some (0x36#7 ++ d ++ a ++ 0x1#10 ++ k ++ 0x0#2)
  | .ckclr _ d => some (0x36#7 ++ d ++ 0x40#20)
  | .ckrdLo _ d a => some (0x36#7 ++ d ++ a ++ 0x60#15)
  | .ckrdHi _ d a => some (0x36#7 ++ d ++ a ++ 0x80#15)
  | .check _ d a b => some (0x36#7 ++ d ++ a ++ b ++ 0xA0#10)
  | .vld _ d a t m o => some (0x38#7 ++ d ++ a ++ t ++ m ++ o)
  | .vst _ d a m o => some (0x39#7 ++ d ++ a ++ 0x0#4 ++ m ++ o)
  | .vldg _ d a t o => some (0x3A#7 ++ d ++ a ++ t ++ 0x0#2 ++ o)
  | .vstg _ d a o => some (0x3B#7 ++ d ++ a ++ 0x0#6 ++ o)
  | .vgath _ d a b s t k => some (0x3C#7 ++ d ++ a ++ b ++ s ++ t ++ k ++ 0x0#2)
  | .vscat _ d a b s k => some (0x3C#7 ++ d ++ a ++ b ++ s ++ 0x0#4 ++ k ++ 0x1#2)
  | .mma _ m a b v c => some (0x40#7 ++ m ++ a ++ b ++ v ++ 0x0#9 ++ c)
  | .odset _ d a b => some (0x41#7 ++ d ++ a ++ b ++ 0x0#10)
  | .mwin _ d a => some (0x41#7 ++ d ++ a ++ 0x1#15)
  | .mzero _ d => some (0x41#7 ++ d ++ 0x2#20)
  | .mld _ d a => some (0x41#7 ++ d ++ a ++ 0x3#15)
  | .mst _ d a => some (0x41#7 ++ d ++ a ++ 0x4#15)
  | .mstBf16 _ d a => some (0x41#7 ++ d ++ a ++ 0x5#15)
  | .mstTd8 _ d a => some (0x41#7 ++ d ++ a ++ 0x6#15)
  | .mchk _ d a b => some (0x41#7 ++ d ++ a ++ b ++ 0x7#10)
  | .mres _ d a => some (0x41#7 ++ d ++ a ++ 0x8#15)
  | .mscale _ d a b => some (0x41#7 ++ d ++ a ++ b ++ 0x9#10)
  | .amoAdd _ d a b s => some (0x48#7 ++ d ++ a ++ b ++ 0x0#4 ++ s ++ 0x0#4)
  | .amoAnd _ d a b s => some (0x48#7 ++ d ++ a ++ b ++ 0x0#4 ++ s ++ 0x1#4)
  | .amoOr _ d a b s => some (0x48#7 ++ d ++ a ++ b ++ 0x0#4 ++ s ++ 0x2#4)
  | .amoXor _ d a b s => some (0x48#7 ++ d ++ a ++ b ++ 0x0#4 ++ s ++ 0x3#4)
  | .amoMin _ d a b s => some (0x48#7 ++ d ++ a ++ b ++ 0x0#4 ++ s ++ 0x4#4)
  | .amoMax _ d a b s => some (0x48#7 ++ d ++ a ++ b ++ 0x0#4 ++ s ++ 0x5#4)
  | .amoMinz _ d a b s => some (0x48#7 ++ d ++ a ++ b ++ 0x0#4 ++ s ++ 0x6#4)
  | .amoMaxz _ d a b s => some (0x48#7 ++ d ++ a ++ b ++ 0x0#4 ++ s ++ 0x7#4)
  | .amoSwap _ d a b s => some (0x48#7 ++ d ++ a ++ b ++ 0x0#4 ++ s ++ 0x8#4)
  | .amoFadd _ d a b => some (0x48#7 ++ d ++ a ++ b ++ 0x9#10)
  | .redAdd _ a b s => some (0x49#7 ++ 0x0#5 ++ a ++ b ++ 0x0#4 ++ s ++ 0x0#4)
  | .redAnd _ a b s => some (0x49#7 ++ 0x0#5 ++ a ++ b ++ 0x0#4 ++ s ++ 0x1#4)
  | .redOr _ a b s => some (0x49#7 ++ 0x0#5 ++ a ++ b ++ 0x0#4 ++ s ++ 0x2#4)
  | .redXor _ a b s => some (0x49#7 ++ 0x0#5 ++ a ++ b ++ 0x0#4 ++ s ++ 0x3#4)
  | .redMin _ a b s => some (0x49#7 ++ 0x0#5 ++ a ++ b ++ 0x0#4 ++ s ++ 0x4#4)
  | .redMax _ a b s => some (0x49#7 ++ 0x0#5 ++ a ++ b ++ 0x0#4 ++ s ++ 0x5#4)
  | .redMinz _ a b s => some (0x49#7 ++ 0x0#5 ++ a ++ b ++ 0x0#4 ++ s ++ 0x6#4)
  | .redMaxz _ a b s => some (0x49#7 ++ 0x0#5 ++ a ++ b ++ 0x0#4 ++ s ++ 0x7#4)
  | .redFadd _ a b => some (0x49#7 ++ 0x0#5 ++ a ++ b ++ 0x9#10)
  | .amoc _ d a b c s => some (0x4A#7 ++ d ++ a ++ b ++ c ++ 0x0#3 ++ s)
  | .fence _ d p s => some (0x4B#7 ++ d ++ 0x0#9 ++ p ++ s ++ 0x0#7)
  | .qfence _ q s => some (0x4B#7 ++ 0x0#10 ++ q ++ s ++ 0x1#7)
  | .acq _ a s => some (0x4B#7 ++ 0x0#5 ++ a ++ 0x0#5 ++ s ++ 0x2#7)
  | .rel _ a s => some (0x4B#7 ++ 0x0#5 ++ a ++ 0x0#5 ++ s ++ 0x3#7)
  | .rbind _ d a b => some (0x4B#7 ++ d ++ a ++ b ++ 0x4#10)
  | .icinv _ s => some (0x4B#7 ++ 0x0#15 ++ s ++ 0x5#7)
  | .feset _ a => some (0x4C#7 ++ 0x0#5 ++ a ++ 0x0#15)
  | .feclr _ a => some (0x4C#7 ++ 0x0#5 ++ a ++ 0x1#15)
  | .fewait _ a => some (0x4C#7 ++ 0x0#5 ++ a ++ 0x2#15)
  | .binit _ a b => some (0x4D#7 ++ 0x0#5 ++ a ++ b ++ 0x0#10)
  | .benrol _ a n => some (0x4D#7 ++ 0x0#5 ++ a ++ 0x0#3 ++ n ++ 0x1#10)
  | .barrive _ a b s => some (0x4D#7 ++ 0x0#5 ++ a ++ b ++ 0x0#4 ++ s ++ 0x2#3)
  | .bexpect _ a b => some (0x4D#7 ++ 0x0#5 ++ a ++ b ++ 0x3#10)
  | .bwait _ d a s => some (0x4D#7 ++ d ++ a ++ 0x0#9 ++ s ++ 0x4#3)
  | .btest _ d a s => some (0x4D#7 ++ d ++ a ++ 0x0#9 ++ s ++ 0x5#3)
  | .cpy _ d a b => some (0x4E#7 ++ d ++ a ++ b ++ 0x0#10)
  | .cpyx _ d a b => some (0x4E#7 ++ d ++ a ++ b ++ 0x1#10)
  | .cpwait _ d => some (0x4E#7 ++ d ++ 0x2#20)
  | .nalloc _ d a => some (0x50#7 ++ d ++ a ++ 0x0#15)
  | .nfree _ a => some (0x50#7 ++ 0x0#5 ++ a ++ 0x1#15)
  | .nld _ d a n => some (0x50#7 ++ d ++ a ++ 0x0#2 ++ n ++ 0x2#10)
  | .nst _ d a n => some (0x50#7 ++ d ++ a ++ 0x0#2 ++ n ++ 0x3#10)
  | .plink _ d a b => some (0x51#7 ++ d ++ a ++ b ++ 0x0#10)
  | .pget _ d a => some (0x51#7 ++ d ++ a ++ 0x1#15)
  | .ppush _ a b => some (0x51#7 ++ 0x0#5 ++ a ++ b ++ 0x2#10)
  | .tend _ => some (0x52#7 ++ 0x0#25)
  | .commit _ d a b => some (0x52#7 ++ d ++ a ++ b ++ 0x1#10)
  | .hspawn _ d a b => some (0x52#7 ++ d ++ a ++ b ++ 0x2#10)
  | .chsend _ a b => some (0x52#7 ++ 0x0#5 ++ a ++ b ++ 0x3#10)
  | .rtset _ d a b => some (0x52#7 ++ d ++ a ++ b ++ 0x4#10)
  | .yield _ n => some (0x53#7 ++ 0x0#13 ++ n)
  | .workq _ a b => some (0x54#7 ++ 0x0#5 ++ a ++ b ++ 0x0#10)
  | .tver _ d a => some (0x54#7 ++ d ++ a ++ 0x1#15)
  | .tnew _ d a => some (0x54#7 ++ d ++ a ++ 0x2#15)
  | .trap _ a n => some (0x58#7 ++ 0x0#5 ++ a ++ n ++ 0x0#10)
  | .eret _ => some (0x58#7 ++ 0x1#25)
  | .tstamp _ d => some (0x58#7 ++ d ++ 0x2#20)
  | .dscr _ d a => some (0x58#7 ++ d ++ a ++ 0x3#15)
  | .pwreq _ d a => some (0x58#7 ++ d ++ a ++ 0x4#15)
  | .pwrel _ a => some (0x58#7 ++ 0x0#5 ++ a ++ 0x5#15)
  | .unassignedMajorOpcode _ w => some w
  | _ => none

/-- The words of an instruction's group: its `ext` words, then its target (R91). An event has no words. -/
def encode (i : Instr) : List W32 :=
  match encodeTarget i with
  | some w => i.exts.map encodeExt ++ [w]
  | none => []

end Sys2Proof
end

