-- ==== Sys2Proof/Machine/Numbers.lean ====
section
/-! DEFINITION. Number formats and exact arithmetic (R48 to R62, R72 to R74): binary formats, TD8, rounding with flags, the
correctly rounded functions. -/

namespace Sys2Proof.Machine

/-! ## Flags as bits of `FPFLAGS` (R25) -/

/-- Invalid operation. -/
def flagNV : Nat := 1
/-- Division by zero. -/
def flagDZ : Nat := 2
/-- Overflow. -/
def flagOF : Nat := 4
/-- Underflow. -/
def flagUF : Nat := 8
/-- Inexact. -/
def flagNX : Nat := 16
/-- Integer saturation. -/
def flagSAT : Nat := 32

/-- A result pattern with the flags it raises. -/
structure Res where
  val : Nat
  flags : Nat
deriving DecidableEq, Repr

/-! ## Binary formats (R48) -/

/-- A binary floating-point format: exponent and fraction widths. -/
structure Fmt where
  ew : Nat
  fw : Nat
deriving DecidableEq, Repr

/-- FP32. -/
def f32 : Fmt := ⟨8, 23⟩
/-- BF16. -/
def bf16 : Fmt := ⟨8, 7⟩
/-- FP16. -/
def f16 : Fmt := ⟨5, 10⟩

/-- The exponent bias. -/
def Fmt.bias (f : Fmt) : Nat := 2 ^ (f.ew - 1) - 1

/-- The pattern of +∞, also the exponent mask. -/
def Fmt.inf (f : Fmt) : Nat := (2 ^ f.ew - 1) * 2 ^ f.fw

/-- The sign bit. -/
def Fmt.signBit (f : Fmt) : Nat := 2 ^ (f.ew + f.fw)

/-- The canonical NaN (R48). -/
def Fmt.nan (f : Fmt) : Nat := f.inf + 2 ^ (f.fw - 1)

/-- The bits of a pattern below its sign. -/
def Fmt.mag (f : Fmt) (x : Nat) : Nat := x % f.signBit

/-- Is a pattern negative? -/
def Fmt.neg (f : Fmt) (x : Nat) : Bool := bit x (f.ew + f.fw)

/-- Is a pattern a NaN? -/
def Fmt.isNaN (f : Fmt) (x : Nat) : Bool := decide (f.inf < f.mag x)

/-- Is a pattern a signalling NaN? -/
def Fmt.isSNaN (f : Fmt) (x : Nat) : Bool := f.isNaN x && !bit x (f.fw - 1)

/-- A pattern with a sign. -/
def Fmt.withSign (f : Fmt) (neg : Bool) (m : Nat) : Nat := if neg then m + f.signBit else m

/-- A NaN pattern quieted and carried to another format (R52, R56): sign and top payload bits kept. -/
def nanTo (src dst : Fmt) (x : Nat) : Nat :=
  let p := x % 2 ^ src.fw
  let q := if src.fw ≤ dst.fw then p * 2 ^ (dst.fw - src.fw) else p / 2 ^ (src.fw - dst.fw)
  dst.withSign (src.neg x) (dst.inf + (if bit q (dst.fw - 1) then q else q + 2 ^ (dst.fw - 1)))

/-- An exact value: (−1)^neg · num / den, where zero keeps its sign, or an infinity, or a NaN. -/
inductive FVal where
  | nan
  | inf (neg : Bool)
  | fin (neg : Bool) (num den : Nat)
deriving DecidableEq, Repr

/-- The exact value of a pattern (R48). -/
def Fmt.value (f : Fmt) (x : Nat) : FVal :=
  let m := f.mag x
  if f.inf < m then .nan
  else if m == f.inf then .inf (f.neg x)
  else
    let e := m / 2 ^ f.fw
    let p := m % 2 ^ f.fw
    if e == 0 then .fin (f.neg x) p (2 ^ (f.bias + f.fw - 1))
    else
      let s := 2 ^ f.fw + p
      if f.bias + f.fw ≤ e then .fin (f.neg x) (s * 2 ^ (e - f.bias - f.fw)) 1
      else .fin (f.neg x) s (2 ^ (f.bias + f.fw - e))

/-- Is a value zero? -/
def FVal.isZero : FVal → Bool
  | .fin _ n _ => n == 0
  | _ => false

/-- The sign of a value. -/
def FVal.sign : FVal → Bool
  | .nan => false
  | .inf s => s
  | .fin s _ _ => s

/-- The value with the opposite sign. -/
def FVal.negate : FVal → FVal
  | .nan => .nan
  | .inf s => .inf !s
  | .fin s n d => .fin (!s) n d

/-- The exact product; none is 0 × ∞. NaN operands are the caller's. -/
def FVal.mul : FVal → FVal → Option FVal
  | .fin s n d, .fin t m e => some (.fin (s != t) (n * m) (d * e))
  | .inf s, .inf t => some (.inf (s != t))
  | .inf s, .fin t m _ => if m == 0 then none else some (.inf (s != t))
  | .fin s n _, .inf t => if n == 0 then none else some (.inf (s != t))
  | _, _ => some .nan

/-- The exact sum of two finite values as a signed numerator over a denominator. -/
def addFrac (a b : Int × Nat) : Int × Nat := (a.1 * b.2 + b.1 * a.2, a.2 * b.2)

/-- A finite value as a signed numerator over a denominator. -/
def FVal.frac : FVal → Int × Nat
  | .fin s n d => (if s then -(n : Int) else (n : Int), d)
  | _ => (0, 1)

/-- Compares two finite or infinite values, −0 equal to +0: is `a` below `b`? -/
def FVal.lt (a b : FVal) : Bool :=
  match a, b with
  | .inf s, .inf t => s && !t
  | .inf s, _ => s
  | _, .inf t => !t
  | _, _ => decide (a.frac.1 * b.frac.2 < b.frac.1 * a.frac.2)

/-! ## Rounding (R50, R51) -/

/-- The exponent E of num / den: 2^E ≤ num / den < 2^(E + 1), for positive num and den. -/
def exponentOf (num den : Nat) : Int :=
  let k : Int := (Nat.log2 num : Int) - (Nat.log2 den : Int)
  let below := if 0 ≤ k then decide (num < den * 2 ^ k.toNat) else decide (num * 2 ^ (-k).toNat < den)
  if below then k - 1 else k

/-- num / den / 2^q rounded to an integer by a mode (R50), with whether it was inexact. -/
def roundInt (rm : Nat) (neg : Bool) (num den : Nat) (q : Int) : Nat × Bool :=
  let n := if 0 ≤ q then num else num * 2 ^ (-q).toNat
  let d := if 0 ≤ q then den * 2 ^ q.toNat else den
  let m := n / d
  let r := n % d
  let up := match rm with
    | 0 => decide (d < 2 * r) || (2 * r == d && bit m 0)
    | 1 => false
    | 2 => r != 0 && !neg
    | _ => r != 0 && neg
  (if up then m + 1 else m, r != 0)

/-- Rounds a finite value to a format, with the flags of R51: tininess is detected after rounding. -/
def Fmt.round (f : Fmt) (rm : Nat) (neg : Bool) (num den : Nat) : Res :=
  if num == 0 then ⟨f.withSign neg 0, 0⟩
  else
    let e := exponentOf num den
    let emin : Int := 1 - (f.bias : Int)
    let top := max e emin
    let mi := roundInt rm neg num den (top - f.fw)
    let p := (top - emin).toNat * 2 ^ f.fw + mi.1
    if f.inf ≤ p then
      let toInf := match rm with
        | 0 => true
        | 1 => false
        | 2 => !neg
        | _ => neg
      ⟨f.withSign neg (if toInf then f.inf else f.inf - 1), flagOF ||| flagNX⟩
    else
      let free := (roundInt rm neg num den (e - f.fw)).1
      let tiny := decide (e < emin) && !(e == emin - 1 && free == 2 ^ (f.fw + 1))
      ⟨f.withSign neg p, (if mi.2 then flagNX else 0) ||| (if mi.2 && tiny then flagUF else 0)⟩

/-- Rounds any value; a NaN gives the canonical NaN. -/
def Fmt.roundVal (f : Fmt) (rm : Nat) : FVal → Res
  | .nan => ⟨f.nan, 0⟩
  | .inf s => ⟨f.withSign s f.inf, 0⟩
  | .fin s n d => f.round rm s n d

/-! ## NaN choice (R52) -/

/-- The first NaN of some operands in order, quieted and carried to the result format, with `NV` for any signalling NaN among
them; none when no operand is a NaN (R52). -/
def pickNaN (dst : Fmt) (ops : List (Fmt × Nat)) : Option Res :=
  let nv := if ops.any fun o => o.1.isSNaN o.2 then flagNV else 0
  match ops.find? fun o => o.1.isNaN o.2 with
  | some o => some ⟨nanTo o.1 dst o.2, nv⟩
  | none => none

/-! ## Sums and the operations on one format -/

/-- The exact sum of addends that are no NaN, rounded once: opposite infinities are invalid (R53), and an exact zero takes its
sign by R54. -/
def Fmt.sum (f : Fmt) (rm : Nat) (l : List FVal) : Res :=
  let pos := l.any fun v => v == .inf false
  let negi := l.any fun v => v == .inf true
  if pos && negi then ⟨f.nan, flagNV⟩
  else if pos then ⟨f.inf, 0⟩
  else if negi then ⟨f.withSign true f.inf, 0⟩
  else
    let t := l.foldl (fun a v => addFrac a v.frac) (0, 1)
    if t.1 == 0 then
      let allNeg := l.all fun v => v.isZero && v.sign
      let allPos := l.all fun v => v.isZero && !v.sign
      ⟨f.withSign (allNeg || (rm == 3 && !allPos)) 0, 0⟩
    else f.round rm (decide (t.1 < 0)) t.1.natAbs t.2

/-- a + b (R51 to R54). -/
def Fmt.add (f : Fmt) (rm a b : Nat) : Res :=
  match pickNaN f [(f, a), (f, b)] with
  | some r => r
  | none => f.sum rm [f.value a, f.value b]

/-- a − b. -/
def Fmt.sub (f : Fmt) (rm a b : Nat) : Res :=
  match pickNaN f [(f, a), (f, b)] with
  | some r => r
  | none => f.sum rm [f.value a, (f.value b).negate]

/-- a · b. -/
def Fmt.mul (f : Fmt) (rm a b : Nat) : Res :=
  match pickNaN f [(f, a), (f, b)] with
  | some r => r
  | none =>
    match (f.value a).mul (f.value b) with
    | none => ⟨f.nan, flagNV⟩
    | some v => f.roundVal rm v

/-- (−1)^np · a · b + (−1)^nc · c with one rounding; a product 0 × ∞ also sets `NV` when c is a NaN (R53). -/
def Fmt.fma (f : Fmt) (rm : Nat) (np nc : Bool) (a b c : Nat) : Res :=
  let p := if f.isNaN a || f.isNaN b then some FVal.nan else (f.value a).mul (f.value b)
  match pickNaN f [(f, a), (f, b), (f, c)] with
  | some r => ⟨r.val, r.flags ||| (if p == none then flagNV else 0)⟩
  | none =>
    match p with
    | none => ⟨f.nan, flagNV⟩
    | some v => f.sum rm [if np then v.negate else v, if nc then (f.value c).negate else f.value c]

/-- Is value `a` before `b` in the order in which −0 lies below +0 (R54)? -/
def FVal.before (a b : FVal) : Bool := a.lt b || (a.isZero && b.isZero && a.sign && !b.sign)

/-- The smaller (or larger) operand (R52, R54). -/
def Fmt.minmax (f : Fmt) (larger : Bool) (a b : Nat) : Res :=
  match pickNaN f [(f, a), (f, b)] with
  | some r => r
  | none =>
    let aFirst := (f.value a).before (f.value b)
    let bFirst := (f.value b).before (f.value a)
    ⟨if larger then (if aFirst then b else a) else (if bFirst then b else a), 0⟩

/-- A comparison by its condition code (R122, R148), 1 when it holds, with `NV` for a signalling NaN and, in the four ordering
forms, for any NaN. -/
def Fmt.cmp (f : Fmt) (cc a b : Nat) : Res :=
  let un := f.isNaN a || f.isNaN b
  let sn := f.isSNaN a || f.isSNaN b
  let va := f.value a
  let vb := f.value b
  let lt := va.lt vb
  let gt := vb.lt va
  let holds := match cc with
    | 0 => !un && !lt && !gt
    | 1 => un || lt || gt
    | 2 => !un && lt
    | 3 => !un && !gt
    | 4 => !un && gt
    | 5 => !un && !lt
    | 6 => un
    | _ => !un
  ⟨b2n holds, if sn || (un && (cc == 2 || cc == 3 || cc == 4 || cc == 5)) then flagNV else 0⟩

/-- |a| and −a change the sign bit only and raise no flag (R145). -/
def Fmt.abs (f : Fmt) (a : Nat) : Nat := f.mag a

/-- −a. -/
def Fmt.negate (f : Fmt) (a : Nat) : Nat := if f.neg a then f.mag a else f.mag a + f.signBit

/-! ## Conversions (R56, R57) -/

/-- Between binary formats, with one rounding; a NaN is carried and quieted, and a signalling NaN sets `NV` (R56). -/
def convFmt (src dst : Fmt) (rm x : Nat) : Res :=
  match pickNaN dst [(src, x)] with
  | some r => r
  | none => dst.roundVal rm (src.value x)

/-- An integer to a binary format (R57). -/
def Fmt.ofInt (f : Fmt) (rm : Nat) (z : Int) : Res := f.round rm (decide (z < 0)) z.natAbs 1

/-- A value to an integer between two bounds (R57): saturating with `NV`, NaN gives 0 with `NV`. -/
def intOf (rm : Nat) (lo hi : Int) (v : FVal) : Int × Nat :=
  match v with
  | .nan => (0, flagNV)
  | .inf s => (if s then lo else hi, flagNV)
  | .fin s n d =>
    let mi := roundInt rm s n d 0
    let z : Int := if s then -(mi.1 : Int) else (mi.1 : Int)
    if z < lo then (lo, flagNV) else if hi < z then (hi, flagNV) else (z, if mi.2 then flagNX else 0)

/-! ## TD8 (R58 to R62) -/

/-- Sign, significand M, fraction width F and exponent E of a TD8 code other than 0x00 and 0x80 (R58). -/
def td8Fields (c : Nat) : Bool × Nat × Nat × Int :=
  let x := c % 128
  let p := Nat.log2 x
  if p == 0 then (bit c 7, 1, 0, -7)
  else
    let f := x % 2 ^ (p - 1)
    (bit c 7, 2 ^ (p - 1) + 9 * f, p - 1, if bit x (p - 1) then -((6 - p : Nat) + 1 : Int) else ((6 - p : Nat) : Int))

/-- The exact value of a TD8 code (R58). -/
def td8Value (c : Nat) : FVal :=
  if c % 128 == 0 then (if bit c 7 then .nan else .fin false 0 1)
  else
    let t := td8Fields c
    if 0 ≤ t.2.2.2 then .fin t.1 (t.2.1 * 10 ^ t.2.2.2.toNat) (2 ^ t.2.2.1)
    else .fin t.1 t.2.1 (2 ^ t.2.2.1 * 10 ^ (-t.2.2.2).toNat)

/-- The codes of the TD8 magnitudes in rising order, zero first (R59). -/
def td8Rising : List Nat :=
  [0, 1, 3] ++ (List.range 2).map (6 + ·) ++ (List.range 4).map (12 + ·) ++ (List.range 8).map (24 + ·) ++
  (List.range 16).map (48 + ·) ++ (List.range 32).map (96 + ·) ++ (List.range 32).map (64 + ·) ++
  (List.range 16).map (32 + ·) ++ (List.range 8).map (16 + ·) ++ (List.range 4).map (8 + ·) ++ [4, 5, 2]

/-- The code nearest to num / den, which is at most 100,000, by the tie rule of R61; `lo` is the greatest magnitude seen. -/
def td8Nearest (num den lo : Nat) : List Nat → Nat
  | [] => lo
  | c :: l =>
    let v := (td8Value c).frac
    let n := v.1.toNat
    if n * den < num * v.2 then td8Nearest num den c l
    else if n * den == num * v.2 then c
    else
      let w := (td8Value lo).frac
      -- below: num/den − lo; above: c − num/den, over the common denominator den · dlo · dc
      let below := (num * w.2 - w.1.toNat * den) * v.2
      let above := (n * den - num * v.2) * w.2
      if below < above then lo
      else if above < below then c
      else if !bit lo 0 then lo
      else c

/-- Conversion into TD8 (R61, R62). `sn` tells that the operand was a signalling NaN. -/
def td8Of (v : FVal) (sn : Bool) : Res :=
  match v with
  | .nan => ⟨0x80, if sn then flagNV else 0⟩
  | .inf s => ⟨b2n s * 128 + 2, flagOF ||| flagNX⟩
  | .fin s n d =>
    if n == 0 then ⟨0, 0⟩
    else if 100000 * d < n then ⟨b2n s * 128 + 2, flagOF ||| flagNX⟩
    else
      let c := td8Nearest n d 0 td8Rising
      let w := (td8Value c).frac
      let exact := w.1.toNat * d == n * w.2
      ⟨if c == 0 then 0 else b2n s * 128 + c,
        if exact then 0 else flagNX ||| (if n * 10 ^ 7 < d then flagUF else 0)⟩

/-- Decoding TD8 to a binary format: one RNE rounding without flags; 0x80 gives the canonical NaN (R60). -/
def td8To (f : Fmt) (c : Nat) : Nat := (f.roundVal 0 (td8Value c)).val

/-! ## Correctly rounded functions (R73) -/

/-- Some more bits of ⌊√n⌋, from the top one down, below the bits found in `r`. -/
def isqrtGo (n : Nat) : Nat → Nat → Nat
  | 0, r => r
  | k + 1, r => isqrtGo n k (if (r + 2 ^ k) * (r + 2 ^ k) ≤ n then r + 2 ^ k else r)

/-- ⌊√n⌋. -/
def isqrt (n : Nat) : Nat := isqrtGo n (Nat.log2 n / 2 + 1) 0

/-- Working precision of the functions in bits. -/
def funcBits : Nat := 320

/-- Reciprocal (R73). -/
def frcp (rm x : Nat) : Res :=
  match pickNaN f32 [(f32, x)] with
  | some r => r
  | none =>
    match f32.value x with
    | .nan => ⟨f32.nan, 0⟩
    | .inf s => ⟨f32.withSign s 0, 0⟩
    | .fin s n d => if n == 0 then ⟨f32.withSign s f32.inf, flagDZ⟩ else f32.round rm s d n

/-- Reciprocal square root (R73): an irrational result is rounded as the midpoint of the interval of width 2^−320 that holds it. -/
def frsqrt (rm x : Nat) : Res :=
  match pickNaN f32 [(f32, x)] with
  | some r => r
  | none =>
    match f32.value x with
    | .nan => ⟨f32.nan, 0⟩
    | .inf s => if s then ⟨f32.nan, flagNV⟩ else ⟨0, 0⟩
    | .fin s n d =>
      if n == 0 then ⟨f32.withSign s f32.inf, flagDZ⟩
      else if s then ⟨f32.nan, flagNV⟩
      else
        let t := d * 2 ^ (2 * funcBits)
        let r := isqrt (t / n)
        if r * r * n == t then f32.round rm false r (2 ^ funcBits)
        else f32.round rm false (2 * r + 1) (2 ^ (funcBits + 1))

/-- Multiplies into `acc` the roots 2^(2^−i) of the one bits of a fraction, from its top bit on; all scaled by 2^320. -/
def exp2Go (frac : Nat) : Nat → Nat → Nat → Nat
  | 0, _, acc => acc
  | k + 1, root, acc =>
    let r := isqrt (root * 2 ^ funcBits)
    exp2Go frac k r (if bit frac k then acc * r / 2 ^ funcBits else acc)

/-- 2^x (R73). Results far outside the format are rounded as 2^200 or 2^−400. -/
def fexp2 (rm x : Nat) : Res :=
  match pickNaN f32 [(f32, x)] with
  | some r => r
  | none =>
    match f32.value x with
    | .nan => ⟨f32.nan, 0⟩
    | .inf s => if s then ⟨0, 0⟩ else ⟨f32.inf, 0⟩
    | .fin s n d =>
      if !s && decide (200 * d ≤ n) then f32.round rm false (2 ^ 200) 1
      else if s && decide (400 * d ≤ n) then f32.round rm false 1 (2 ^ 400)
      else
        let z : Int := if s then -(n : Int) else n
        let i := z / (d : Int)
        let fr := (z % (d : Int)).toNat
        let w := Nat.log2 d
        if fr == 0 then (if 0 ≤ i then f32.round rm false (2 ^ i.toNat) 1 else f32.round rm false 1 (2 ^ (-i).toNat))
        else
          let m := 2 * exp2Go fr w (2 * 2 ^ funcBits) (2 ^ funcBits) + 1
          if 0 ≤ i then f32.round rm false (m * 2 ^ i.toNat) (2 ^ (funcBits + 1))
          else f32.round rm false m (2 ^ (funcBits + 1 + (-i).toNat))

/-- The next bits of log2 of a number in [1, 2) that is scaled by 2^512, by repeated squaring. -/
def log2Go : Nat → Nat → Nat → Nat
  | 0, _, acc => acc
  | k + 1, y, acc =>
    let z := y * y / 2 ^ 512
    if 2 ^ 513 ≤ z then log2Go k (z / 2) (2 * acc + 1) else log2Go k z (2 * acc)

/-- log2 x (R73), from 220 bits of the fraction of the logarithm. -/
def flog2 (rm x : Nat) : Res :=
  match pickNaN f32 [(f32, x)] with
  | some r => r
  | none =>
    match f32.value x with
    | .nan => ⟨f32.nan, 0⟩
    | .inf s => if s then ⟨f32.nan, flagNV⟩ else ⟨f32.inf, 0⟩
    | .fin s n d =>
      if n == 0 then ⟨f32.withSign true f32.inf, flagDZ⟩
      else if s then ⟨f32.nan, flagNV⟩
      else
        let e := exponentOf n d
        let m := if 0 ≤ e then n * 2 ^ 512 / (d * 2 ^ e.toNat) else n * 2 ^ (-e).toNat * 2 ^ 512 / d
        if m == 2 ^ 512 then f32.ofInt rm e
        else
          let z : Int := e * (2 ^ 221 : Nat) + (2 * log2Go 220 m 0 + 1 : Nat)
          f32.round rm (decide (z < 0)) z.natAbs (2 ^ 221)

end Sys2Proof.Machine
end

