-- ==== Sys2Proof/Machine/Flags.lean ====
section
/-! DEFINITION. The arithmetic flags of a context (R25, R55, R113, R115). -/

namespace Sys2Proof.Machine

/-- Raises flags in `FPFLAGS`, which are sticky (R25): they are ORed in when the instruction retires (R113). -/
def Ctx.raise (c : Ctx) (f : Nat) : Ctx := { c with fpflags := c.fpflags ||| BitVec.ofNat 6 f }

/-- The flags of a division: `DZ` when the divisor is zero, and no flag on signed overflow (R115). -/
def divFlags (b : W64) : Nat := if b == 0 then flagDZ else 0

/-- Is a signed division the overflow case, −2^63 by −1 (R115)? -/
def divOverflows (a b : W64) : Bool := a == 0x8000000000000000#64 && b == 0xFFFFFFFFFFFFFFFF#64

/-- Clamps an integer to a range: the value and `SAT` when it lay outside (R49). -/
def saturate (lo hi z : Int) : Int × Nat := if z < lo then (lo, flagSAT) else if hi < z then (hi, flagSAT) else (z, 0)

end Sys2Proof.Machine
end

