-- ==== Sys2Proof/Machine/Ops.lean ====
section
/-! DEFINITION. The shared operations over units, local memory, barriers, contexts and launches; taking a fault, a trap, a kill;
and the one wrapper through which every instruction word issues and retires. -/

namespace Sys2Proof.Machine

/-- What a step answers. -/
abbrev Out := Host.Outcome State Fault Refusal

/-! ## Units -/

/-- A core; a core that is not listed is at reset. -/
def State.core (st : State) (c : Nat) : Core := st.cores.getD c Core.reset

/-- Replaces a core. -/
def State.setCore (st : State) (c : Nat) (k : Core) : State := { st with cores := st.cores.put c k }

/-- Changes a core. -/
def State.modCore (st : State) (c : Nat) (f : Core → Core) : State := st.setCore c (f (st.core c))

/-- A cluster. -/
def State.cluster (st : State) (g : Nat) : Cluster := st.clusters.getD g Cluster.reset

/-- Changes a cluster. -/
def State.modCluster (st : State) (g : Nat) (f : Cluster → Cluster) : State :=
  { st with clusters := st.clusters.put g (f (st.cluster g)) }

/-- A layer. -/
def State.layer (st : State) (l : Nat) : Layer := st.layers.getD l Layer.reset

/-- Changes a layer. -/
def State.modLayer (st : State) (l : Nat) (f : Layer → Layer) : State := { st with layers := st.layers.put l (f (st.layer l)) }

/-- A tenant. -/
def State.tenant (st : State) (t : Nat) : Tenant := st.tenants.getD t Tenant.reset

/-- Changes a tenant. -/
def State.modTenant (st : State) (t : Nat) (f : Tenant → Tenant) : State :=
  { st with tenants := st.tenants.put t (f (st.tenant t)) }

/-- A command stream. -/
def State.stream (st : State) (q : Nat) : Stream := st.streams.getD q Stream.reset

/-- Changes a command stream. -/
def State.modStream (st : State) (q : Nat) (f : Stream → Stream) : State :=
  { st with streams := st.streams.put q (f (st.stream q)) }

/-- Changes a launch that exists. -/
def State.modLaunch (st : State) (l : Nat) (f : Launch → Launch) : State :=
  match st.launches.find l with
  | some x => { st with launches := st.launches.put l (f x) }
  | none => st

/-- Changes a firing that exists. -/
def State.modFiring (st : State) (l : Nat) (f : Firing → Firing) : State :=
  match st.firings.find l with
  | some x => { st with firings := st.firings.put l (f x) }
  | none => st

/-- Changes a tile that exists. -/
def State.modTile (st : State) (t : Nat) (f : Tile → Tile) : State :=
  match st.tiles.find t with
  | some x => { st with tiles := st.tiles.put t (f x) }
  | none => st

/-- Does a version stay: one of the last retained ones, a pinned one (R335), or one before a version of a taint record (R340)? -/
def Tile.stays (t : Tile) (retain v : Nat) : Bool := decide (t.cur < v + retain) || (t.pins.any fun p => p.1 == v) || t.tainted.contains v

/-- Frees the versions that do not stay (R335, R340). -/
def Tile.trim (t : Tile) (retain : Nat) : Tile :=
  { t with
    vers := t.vers.filter fun v => t.stays retain v.1
    bad := t.bad.filter fun b => t.stays retain b.1 }

/-- Ends the pins of the firings and copies that `held` names (R335). -/
def Tile.endPins (t : Tile) (held : Nat → Bool) (retain : Nat) : Tile :=
  if t.pins.any fun q => held q.2 then ({ t with pins := t.pins.filter fun q => !held q.2 } : Tile).trim retain else t

/-- Ends the pins of a holder: a firing or a copy (R335). -/
def State.dropPins (st : State) (holder : Nat) : State :=
  { st with tiles := st.tiles.map fun p => (p.1, p.2.endPins (fun n => n == holder) (st.tenant p.2.tenant).retain) }

/-- Discards some copies, whose pins end with them (R228, R335). -/
def State.dropCopies (st : State) (gone : Copy → Bool) : State :=
  { st with
    copies := st.copies.filter fun x => !gone x
    tiles := st.tiles.map fun p =>
      (p.1, p.2.endPins (fun n => st.copies.any fun x => gone x && x.id == n) (st.tenant p.2.tenant).retain) }

/-- Changes a net that exists. -/
def State.modNet (st : State) (n : Nat) (f : Net → Net) : State :=
  match st.nets.find n with
  | some x => { st with nets := st.nets.put n (f x) }
  | none => st

/-- Advances the event counter. -/
def State.tickStamp (st : State) : State := { st with stamp := st.stamp + 1 }

/-- The cycle count of a core (R25). -/
def State.cyclesOf (st : State) (cid : Nat) : Nat := (st.layer (layerOf cid)).cycles

/-- Reference time in nanoseconds (R265). -/
def State.ns (st : State) : Nat := st.time / 3

/-- The global unit identifier of a core of this package (R8). -/
def State.gid (st : State) (cid : Nat) : Nat := st.pkg * 4096 + cid

/-! ## Contexts -/

/-- The key of a context: its start core and slot. -/
def Ctx.key (c : Ctx) : Nat := 64 * c.start + c.slot

/-- The context of a key. -/
def State.ctx (st : State) (k : Nat) : Option Ctx := st.ctxs.find k

/-- Writes a context under its key. -/
def State.setCtx (st : State) (c : Ctx) : State := { st with ctxs := st.ctxs.put c.key c }

/-- Changes the context of a key, if there is one. -/
def State.modCtx (st : State) (k : Nat) (f : Ctx → Ctx) : State :=
  match st.ctx k with
  | some c => { st with ctxs := st.ctxs.put k (f c) }
  | none => st

/-- The context with an identifier. -/
def State.byUid (st : State) (u : Nat) : Option Ctx := (st.ctxs.find? fun p => p.2.uid == u).map Prod.snd

/-- Granules of the context store that a footprint class takes (R27). -/
def footGranules (f : Nat) : Nat :=
  match f with
  | 0 => 8
  | 1 => 13
  | _ => 21

/-- The contexts that occupy granules on a core (R27, R297). -/
def State.resident (st : State) (cid : Nat) : List Ctx :=
  (st.ctxs.map Prod.snd).filter fun c => c.cur == cid && c.st != .spilled

/-- Free context-store granules of a core (R27). -/
def State.freeGranules (st : State) (cid : Nat) : Nat :=
  512 - ((st.resident cid).map fun c => footGranules c.foot).sum

/-- Writes a scalar register; `s0` ignores writes (R16). -/
def Ctx.setS (c : Ctx) (r : Nat) (v : W64) : Ctx := if r == 0 then c else { c with s := c.s.setIfInBounds r v }

/-- Reads a scalar register; `s0` reads 0 (R16). -/
def Ctx.getS (c : Ctx) (r : Nat) : W64 := if r == 0 then 0 else (c.s[r]?).getD 0

/-! ## Local memory (R131 to R134, R288, R372) -/

/-- The 8-byte words that `n` bytes at `a` touch. -/
def wordsTouched (a n : Nat) : List Nat := if n == 0 then [] else (List.range ((a + n - 1) / 8 - a / 8 + 1)).map (a / 8 + ·)

/-- The 8-byte words that `n` bytes at `a` cover whole. -/
def wordsCovered (a n : Nat) : List Nat := (wordsTouched a n).filter fun w => a ≤ 8 * w && 8 * w + 8 ≤ a + n

/-- The 16-byte granules that `n` bytes at `a` touch. -/
def granulesOf (a n : Nat) : List Nat := if n == 0 then [] else (List.range ((a + n - 1) / 16 - a / 16 + 1)).map (a / 16 + ·)

/-- Does a range overlap another? -/
def overlaps (a n b m : Nat) : Bool := decide (a < b + m) && decide (b < a + n) && n != 0 && m != 0

/-- Does the range of `n` bytes at `a` lie inside another? -/
def inside (a n b m : Nat) : Bool := decide (b ≤ a) && decide (a + n ≤ b + m)

/-- Writes local bytes; a word that is covered whole loses its poison (R372). -/
def Core.write (k : Core) (a : Nat) (l : List Byte) : Core :=
  { k with
    lm := k.lm.writeBytes a l
    lpoison := if k.lpoison.isEmpty then [] else k.lpoison.filter fun w => !(wordsCovered a l.length).contains w }

/-- Is one of the words of a local range poisoned? -/
def Core.poisoned (k : Core) (a n : Nat) : Bool := !k.lpoison.isEmpty && (wordsTouched a n).any k.lpoison.contains

/-- The nodes of a net in the free-node cache of a core, oldest first (R246). -/
def Core.nodesOf (k : Core) (net : Nat) : List Nat :=
  match k.freeNodes with
  | some (n, l) => if n == net then l else []
  | none => []

/-- Makes granules full or empty. -/
def Core.setFull (k : Core) (g : List Nat) (full : Bool) : Core :=
  { k with full := g.foldl (fun f x => if full then NatSet.add f x else NatSet.del f x) k.full }

/-- Are all granules of a list full (or all empty)? -/
def Core.granulesAre (k : Core) (g : List Nat) (full : Bool) : Bool := g.all fun x => k.full.contains x == full

/-- Does a range overlap a tagged barrier word (R132)? -/
def Core.tagged (k : Core) (a n : Nat) : Bool := k.tags.any fun t => overlaps a n (8 * t.1) 8

/-- Does a range overlap a lease held for another context (R39)? -/
def Core.leased (k : Core) (uid a n : Nat) : Bool := k.leases.any fun l => l.uid != uid && overlaps a n l.base l.size

/-- Clears a local range: bytes zero, granules empty, tags clear (R39, R290). -/
def Core.clear (k : Core) (a n : Nat) : Core :=
  { k with
    lm := k.lm.filter fun x => !inside x.1 1 a n
    full := k.full.filter fun g => !inside (16 * g) 16 a n
    tags := k.tags.filter fun t => !inside (8 * t.1) 8 a n
    lpoison := k.lpoison.filter fun w => !inside (8 * w) 8 a n }

/-- Is a context's own lease around a range (R38)? -/
def Ctx.owns (c : Ctx) (a n : Nat) : Bool := inside a n c.leaseBase c.leaseSize

/-! ## Waking (R28, R133, R323) -/

/-- Inserts by a number, after equals. -/
def insertBy {α : Type} (f : α → Nat) (a : α) : List α → List α
  | [] => [a]
  | b :: l => if f a < f b then a :: b :: l else b :: insertBy f a l

/-- Sorts by a number, keeping the order of equals. -/
def sortBy {α : Type} (f : α → Nat) (l : List α) : List α := l.foldl (fun acc a => insertBy f a acc) []

/-- What a wait is for, whose waiters execute their instruction again in turn: granules (R133), or 65,536 + the net of a free node (R246). -/
def Wait.turn : Wait → List Nat
  | .granules g _ => g
  | .node n => [65536 + n]
  | _ => []

/-- A context whose wait is satisfied: `READY`, or fill-ready when it is spilled (R323). One that executes its instruction again in turn stays
parked until its turn comes (R133; DEDUCED, log 97). -/
def Ctx.wake (c : Ctx) (stamp : Nat) : Ctx :=
  let turn := (c.wait.map Wait.turn).getD []
  { c with st := (if c.st == .parked && turn.isEmpty then .ready else c.st), wait := none, readyAt := stamp, woken := turn }

/-- Has the wait of a context lasted more than `WAITLIM` cycles: then nothing but its fault `WAITTIME` or a kill ends it (R30)? -/
def State.waitedOut (st : State) (c : Ctx) : Bool := decide (c.parkCycle + c.waitlim < st.cyclesOf c.start)

/-- Wakes at one moment every waiting context that satisfies `p`, after `f` has changed it, but for those that have waited too long (R30, R399). -/
def State.wakeWhere (st : State) (p : Ctx → Bool) (f : Ctx → Ctx) : State :=
  (((st.ctxs.map Prod.snd).filter fun c => c.wait != none && !st.waitedOut c && p c).foldl
    (fun s c => s.setCtx ((f c).wake st.stamp)) st).tickStamp

/-- Must a context that a granule woke wait for its turn: has an older one that the same granule woke, which may have been spilled and keeps its
place, still to execute its instruction again (R133, R323; log 97)? -/
def State.outOfTurn (st : State) (c : Ctx) : Bool :=
  !c.woken.isEmpty && st.ctxs.any fun p =>
    p.2.uid != c.uid && p.2.start == c.start && p.2.place.getD 0 < c.place.getD 0 && p.2.woken.any c.woken.contains

/-- Has the turn of a woken context come, which is thereby `READY` (R28, R133)? -/
def State.inTurn (st : State) (c : Ctx) : Bool := c.st == .parked && c.wait.isNone && !st.outOfTurn c

/-- Is a context `READY` (R28)? -/
def State.isReady (st : State) (c : Ctx) : Bool := c.st == .ready || st.inTurn c

/-- Is a context in a parked wait (R30, R323): parked, or spilled and not yet filled? -/
def State.inWait (st : State) (c : Ctx) : Bool := c.st == .spilled || (c.st == .parked && !st.inTurn c)

/-- Is a wait for granules satisfied on a core? -/
def Wait.granulesMet (k : Core) : Wait → Bool
  | .granules g full => k.granulesAre g full
  | .fewait g => k.full.contains g
  | _ => false

/-- Wakes the contexts whose granules on a core have become as they wait for (R133, R214). -/
def State.wakeGranules (st : State) (cid : Nat) : State :=
  st.wakeWhere (fun c => c.start == cid && (match c.wait with | some w => w.granulesMet (st.core cid) | none => false)) id

/-- Makes granules of a core full or empty and wakes their waiters. -/
def State.setGranules (st : State) (cid : Nat) (g : List Nat) (full : Bool) : State :=
  if (st.core cid).granulesAre g full then st
  else (st.modCore cid fun k => k.setFull g full).wakeGranules cid

/-- An engine's write of local bytes: whole granules that become full (R134, R228). -/
def State.deliver (st : State) (cid a : Nat) (l : List Byte) : State :=
  (st.modCore cid fun k => k.write a l).setGranules cid (granulesOf a l.length) true

/-! ## Barriers (R215 to R224) -/

/-- `PEND` of a barrier word, signed (R215). -/
def barPend (w : Nat) : Int := signed 25 (bits w 35 25)

/-- The word with another `PEND`. -/
def barSetPend (w : Nat) (p : Int) : Nat := putBits w 35 25 (wrap 25 p)

/-- The flip of R216, evaluated after `COUNT` or `PEND` changed. -/
def barFlip (w : Nat) : Nat :=
  if bits w 3 16 == 0 && bits w 35 25 == 0 && !bit w 2 then putBits (putBits w 0 1 (1 - bits w 0 1)) 3 16 (bits w 19 16) else w

/-- One arrival (R220); `broken` is that of a lost participant (R219). -/
def barArrive (w : Nat) (broken : Bool) : Nat :=
  if bits w 3 16 == 0 then putBits w 1 1 1
  else barFlip (putBits (if broken then putBits w 1 1 1 else w) 3 16 (bits w 3 16 - 1))

/-- Is the wait of a `bwait` for a phase over (R222)? -/
def barMet (w : Nat) (phase : Bool) : Bool := bit w 0 != phase || bit w 1

/-- Writes a barrier word after a barrier step and wakes the contexts whose `bwait` is over: each gets the phase and `BROKEN` in
its register, and takes the trap before it issues again when the barrier is broken (R216, R222). -/
def State.barWrite (st : State) (cid a w : Nat) : State :=
  (st.modCore cid fun k => { k with lm := k.lm.writeN a 8 w }).wakeWhere
    (fun c => c.start == cid && (match c.wait with | some (.barrier b ph _ _) => b == a && barMet w ph | _ => false))
    (fun c => match c.wait with
      | some (.barrier _ _ d sc) =>
        let c := c.setS d (BitVec.ofNat 64 (w % 4))
        let c := if 3 ≤ sc then { c with acqStamp := st.stamp + 1, acqPod := if sc == 6 then st.stamp + 1 else c.acqPod } else c
        if bit w 1 then { c with due := some (.broken (BitVec.ofNat 64 a)) } else c
      | _ => c)

/-- The barrier word at a local address. -/
def State.barWord (st : State) (cid a : Nat) : Nat := (st.core cid).lm.readN a 8

/-! ## Work (R25, R331) -/

/-- Adds retired work to a tenant's bucket of 125 µs; eight buckets are kept (R331). -/
def Tenant.addWork (t : Tenant) (now n : Nat) (backup : Bool) : Tenant :=
  let b := now / 375000
  let old := t.buckets.getD b (0, 0)
  { t with buckets := Map.put (t.buckets.filter fun p => b ≤ p.1 + 7) b (old.1 + n, old.2 + if backup then n else 0) }

/-- Credits work to a context and its tenant (R25, R331). -/
def State.credit (st : State) (k n : Nat) : State :=
  match st.ctx k with
  | some c =>
    (st.setCtx { c with rwc := c.rwc + n }).modTenant c.tenant fun t => t.addWork st.time n c.backup
  | none => st

/-! ## The end of a context (R45, R219, R256) -/

/-- Returns the lease of a task to its core's pool, cleared (R39); it is gone already when the core has been reset. -/
def State.returnLease (st : State) (cid uid : Nat) : State :=
  match (st.core cid).leases.find? fun l => l.uid == uid with
  | some l =>
    (st.modCore cid fun k => { k.clear l.base l.size with leases := k.leases.filter fun x => x.uid != uid }).wakeGranules cid
  | none => st

/-- Completes a context's undischarged obligations as arrivals that set `BROKEN` (R219). -/
def State.breakObligations (st : State) (c : Ctx) : State :=
  c.obls.toList.foldl (fun s o => match o with
    | some a => if ((s.core c.start).tags.find (a / 8)).isSome then s.barWrite c.start a (barArrive (s.barWord c.start a) true) else s
    | none => s) st

/-- Is a command an `mma`? -/
def MOp.isMma : MOp → Bool
  | .mma .. => true
  | _ => false

/-- The matrix commands of a core that are queued or in the unit (R185). -/
def State.matrixCmds (st : State) (cid : Nat) : List MCmd :=
  (match (st.cluster (clusterOf cid)).running with
    | some r => if coreInCluster cid == r.c then [r.cmd] else []
    | none => []) ++ (st.core cid).mq

/-- Has a launch an `mma` queued or running on a cluster (R385)? -/
def State.mmasOn (st : State) (l g : Nat) : Bool :=
  (List.range 8).any fun i => (st.matrixCmds (coreOf g i)).any fun (m : MCmd) => m.launch == l && m.op.isMma

/-- Takes out the request of a launch for a token of a cluster on which none of its `mma` waits any more (R385). -/
def State.dropTokenAsks (st : State) (l g : Nat) : State :=
  if st.mmasOn l g then st
  else { st with powerReqs := st.powerReqs.filter fun (r : PowerReq) => r.acc.isSome || r.launch != l || r.g != g }

/-- Is a launch being aborted: its copies stop, also those of a context that its kill has yet to reach (R235, R314)? -/
def State.aborts (st : State) (l : Nat) : Bool := (st.launches.find l).any fun (x : Launch) => x.aborting

/-- How a context ends: whether its engine work is performed (`tend`, `commit`) or discarded (fault, kill), and whether its lease
goes back at once (all but `commit`). -/
structure Ending where
  perform : Bool
  keepLease : Bool
  stopArray : Bool       -- a kill stops an `mma` in the array (R196)
deriving DecidableEq, Repr

/-- `tend` (R256). -/
def endTend : Ending := ⟨true, false, false⟩
/-- `commit` (R259). -/
def endCommit : Ending := ⟨true, true, false⟩
/-- A program fault (R43, R186). -/
def endFault : Ending := ⟨false, false, false⟩
/-- A kill (R45, R196). -/
def endKill : Ending := ⟨false, false, true⟩

/-- Takes a context out of the machine: its obligations are completed, its slot, granules and ring slots freed, its engine work
discarded or left to be performed, its lease returned (R45, R164, R186, R196, R219, R232, R235, R256, R385). -/
def State.endCtx (st : State) (c : Ctx) (how : Ending) : State :=
  let st := st.breakObligations c
  let st := { st with ctxs := st.ctxs.del c.key, kills := NatSet.del st.kills c.uid }
  let st := st.modCore c.cur fun k => { k with current := if k.current == some c.key then none else k.current }
  let st := st.modCore c.start fun k =>
    { k with
      recs := k.recs.filter fun r => r.uid != c.uid
      mq := if how.perform then k.mq else k.mq.filter fun m => m.uid != c.uid }
  let st := if how.perform && !st.aborts c.launch then
      { st with copies := st.copies.map fun x => if x.uid == c.uid then { x with orphan := true } else x }
    else st.dropCopies fun x => x.uid == c.uid
  -- a release that was accepted still writes back what the context stored (R278, R285)
  let st := if st.accs.any (fun a => a.uid == c.uid) || st.cores.any (fun k => k.2.reds.any fun r => r.uid == c.uid) then st
    else { st with stored := st.stored.del c.uid }
  let st := if how.stopArray then st.modCluster (clusterOf c.start) fun g =>
      { g with running := match g.running with
        | some r => if r.cmd.uid == c.uid && r.cmd.op.isMma then none else some r
        | none => none }
    else st
  let st := if how.perform then st else st.dropTokenAsks c.launch (clusterOf c.start)
  if c.leaseV && !how.keepLease then st.returnLease c.start c.uid else st

/-! ## Launches and firings (R43, R314, R336) -/

/-- Is a launch running: accepted or live, and not ending? Work that reaches a queue of the package for a launch that is not is discarded (R43,
R47, R314). -/
def State.running (st : State) (l : Nat) : Bool :=
  match st.launches.find l with
  | some (x : Launch) => x.phase == .accepted || x.phase == .live
  | none => false

/-- Sends a kill to every context of a launch (R45). -/
def State.killLaunch (st : State) (l : Nat) : State :=
  { st with kills := (st.ctxs.filter fun p => p.2.launch == l).foldl (fun s p => NatSet.add s p.2.uid) st.kills }

/-- Does a cluster's unit run an `mma` of a launch? Once begun, it is performed to its end. -/
def Cluster.steps (g : Cluster) (l : Nat) : Bool := g.running.any fun r => r.cmd.launch == l && r.cmd.op.isMma

/-- Discards what a launch that is ending holds outside contexts: waiting tasks, pairs, queued messages (R43, R314; DEDUCED for a
launch that ends with a fault, log 23). Messages in transit arrive first (R285). -/
def State.purge (st : State) (l : Nat) : State :=
  { st with
    toPlace := st.toPlace.filter fun t => t.launch != l
    pushes := st.pushes.filter fun p => p.2.launch != l
    barges := st.barges.map fun b => { b with pairs := b.pairs.filter fun p => p.launch != l }
    powerReqs := st.powerReqs.filter fun r => r.launch != l || r.acc != none || (st.cluster r.g).steps l
    cores := st.cores.map fun p => (p.1, { p.2 with
      lport := p.2.lport.filter fun t => t.launch != l
      chans := p.2.chans.map fun q => (q.1, q.2.filter fun m => m.launch != l)
      bag := p.2.bag.filter fun x => x.launch != l
      ring := p.2.ring.filter fun x => x.launch != l }) }

/-- Ends a launch with its first fault (R43, R339): its tasks are killed and what waits for them is discarded. Later faults leave
no trace (R313). -/
def State.failLaunch (st : State) (l : Nat) (r : FaultRec) : State :=
  match st.launches.find l with
  | some x =>
    if x.phase == .live || x.phase == .accepted then
      ({ st with launches := st.launches.put l { x with phase := .ending, fault := some r } }.killLaunch l).purge l
    else st
  | none => st

/-- Queues a fresh original of a firing at the distributor (R337), outside the failed unit's instance of a scope. -/
def State.rerun (st : State) (f : Nat) (apart : Option (Nat × Nat)) : State :=
  match (st.firings.find f).filter fun x => st.running x.launch with
  | some x =>
    let t : Task :=
      { id := st.stamp, kind := .rerun, launch := x.launch, net := x.net, tenant := x.tenant, prio := x.prio,
        handler := x.handler, vals := x.vals, foot := x.foot, heavy := true, tclass := x.tclass, lease := x.lease,
        firing := some f, dataAddr := ((x.vals[0]?).getD 0).toNat, apart := apart, entered := st.stamp }
    ({ st with toPlace := st.toPlace ++ [t] }.modFiring f fun x => { x with waiting := x.waiting + 1, backedUp := false }).tickStamp
  | none => st

/-- Takes a copy out of its firing. -/
def State.copyGone (st : State) (f uid : Nat) : State := st.modFiring f fun x => { x with live := x.live.filter fun u => u != uid }

/-- How a copy of a firing ended, for what becomes of the firing (R336). -/
inductive CopyEnd where
  | fault                                     -- a program fault, kept
  | answered                                  -- a `CANCEL`
  | failedPull (apart : Option (Nat × Nat))   -- a `CANCEL` after which the firing is run again (R333, R340)
  | lost (apart : Option (Nat × Nat))         -- lost to a failed unit
  | quiet                                     -- `tend` or a kill
deriving DecidableEq, Repr

/-- Settles a firing after one of its copies has ended (R336): when none is live, no commit is unanswered and nothing is accepted, a fault
or a `CANCEL`, and so a `tend` or a kill, lets a kept fault end the launch (R43); a copy lost to a failure, or whose pull failed, lets the firing
run again unless an original of it waits for its start; after a `tend` or a kill without a kept fault the pair stays claimed and unfired. -/
def State.settleFiring (st : State) (f : Nat) (how : CopyEnd) : State :=
  match st.firings.find f with
  | some x =>
    if x.accepted || !x.live.isEmpty || x.commits != 0 then st
    else
      let again := fun apart => if x.waiting == 0 then st.rerun f apart else st
      match how, x.kept with
      | .lost apart, _ => again apart
      | _, some r => st.failLaunch x.launch r
      | .failedPull apart, none => again apart
      | _, none => st
  | none => st

/-- A program fault of a context (R43): it ends, and its launch ends with the fault record; for a heavy copy the fault is kept
while another copy is live, and treated as a kill when the weir has accepted for the firing (R336). Its unit is the start core, also of a
context that has migrated (R297; log 94). -/
def State.programFault (st : State) (c : Ctx) (code detail : Nat) (xpc : BitVec 57) (xval : W64) : State :=
  let r : FaultRec := ⟨1, code, detail, xpc.toNat, xval.toNat, st.gid c.start⟩
  let st := st.endCtx c endFault
  match c.firing with
  | none => st.failLaunch c.launch r
  | some f =>
    let st := (st.copyGone f c.uid).modFiring f fun x =>
      if x.accepted then x else { x with kept := match x.kept with | some k => some k | none => some r }
    st.settleFiring f .fault

/-- Kills a context (R45). -/
def State.killCtx (st : State) (c : Ctx) : State :=
  let st := st.endCtx c endKill
  match c.firing with
  | none => st
  | some f => (st.copyGone f c.uid).settleFiring f .quiet

/-- The loss of a context to a failed unit (R336, R339): a light task's launch ends with `HWFAULT`; a heavy copy ends, and its
firing is run again outside the failed instance. -/
def State.loseCtx (st : State) (c : Ctx) (unit : Nat) (xval : Nat) (apart : Option (Nat × Nat)) : State :=
  let st := st.endCtx c endKill
  match c.firing with
  | none => st.failLaunch c.launch ⟨2, 0x28, 0, 0, xval, unit⟩
  | some f => (st.copyGone f c.uid).settleFiring f (.lost apart)

/-- Consumption of poisoned data by a context (R373); the consuming core is its start core (R297; log 94). -/
def State.consumePoison (st : State) (c : Ctx) (va : Nat) : State :=
  match c.firing with
  | none => (st.endCtx c endKill).failLaunch c.launch ⟨2, 0x28, 0, 0, va, st.gid c.start⟩
  | some f =>
    match st.firings.find f with
    | some x =>
      if x.poisoned then (st.endCtx c endKill).failLaunch c.launch ⟨2, 0x28, 0, 0, va, st.gid c.start⟩
      else (st.modFiring f fun x => { x with poisoned := true }).loseCtx c (st.gid c.start) va none
    | none => st.endCtx c endKill

/-! ## Handled traps (R42) -/

/-- Takes a handled trap of a context that has retired the raising instruction: a second trap inside a handler and a trap without a
handler are program faults at `xpc`. -/
def State.takeTrap (st : State) (c : Ctx) (code detail : Nat) (val : W64) (xpc next : BitVec 57) : State :=
  if c.intrap then st.programFault c 0x12 code xpc val
  else if c.xhand == 0 then st.programFault c code detail xpc val
  else st.setCtx { c with
    xpc := next.zeroExtend 64, xcause := BitVec.ofNat 64 (code + 2 * 2 ^ 8 + detail * 2 ^ 16), xval := val, psup := c.sup,
    intrap := true, pc := c.xhand.setWidth 57 }

/-- Return from a handled trap (R264): where it resumes; none outside a handler. -/
def Ctx.returnFromTrap (c : Ctx) : Option (BitVec 57 × Ctx) :=
  if c.intrap then some (c.xpc.setWidth 57, { c with intrap := false }) else none

/-! ## Pins and migration (R29, R295, R296) -/

/-- Does an ordering leave an access of the home layer in the data cache of its home core (R269)? -/
def MemOrd.atHomeCore (o : MemOrd) : Bool := o.pol == 0 && (o.ord == 0 || o.scope ≤ 2)

/-- The other core of its layer that an access travels to: the home core of its line (R294). -/
def State.remoteTo (st : State) (cid pa : Nat) : Option Nat :=
  let h := st.home pa
  if paSpace pa < 2 && layerOf h == layerOf cid && h != cid then some h else none

/-- Is an access an atomic's request, which a slice performs (R206)? -/
def AccOp.isAtomic : AccOp → Bool
  | .amo _ => true
  | .cas _ => true
  | _ => false

/-- The other core of its layer to which an access travels as a remote access: where it is performed in that core's cache, and, by the words
of R294, with the request of an atomic (DEDUCED, log 78). An access that a slice, memory or the host performs is none (R29, R295). -/
def State.travels (st : State) (a : Access) (pa : Nat) : Option Nat :=
  if a.ord.atHomeCore || a.op.isAtomic then st.remoteTo a.cid pa else none

/-- Is an access performed in the cache of the core that it issued on (R269, R294)? -/
def State.ownCache (st : State) (a : Access) : Bool :=
  !a.op.isAtomic && !a.elems.isEmpty && a.ord.atHomeCore && a.elems.all fun e => paSpace e.pa < 2 && st.home e.pa == a.cid

/-- Does an access pin its context (R29, R207, R294)? Every remote access does, stores included; a load does unless its own core's cache
serves it, and the answer of an `ldx`, which names no global element, does; a posted store does not. -/
def State.pins (st : State) (a : Access) : Bool :=
  a.elems.any (fun e => (st.travels a e.pa).isSome) ||
    (match a.op with
      | .store => false
      | .nst _ => false
      | .node _ => false
      | .nfree => false
      | .ppush .. => false
      | .load => !st.ownCache a
      | .nld => !st.ownCache a
      | _ => true)

/-- Has a context an outstanding reply (R29)? -/
def State.pinned (st : State) (c : Ctx) : Bool :=
  st.accs.any (fun a => a.uid == c.uid && st.pins a) || st.remotes.any (fun r => r.uid == c.uid && r.kind == 0)

/-- Has a context a claimed block or a matrix command queued or in the unit (R172)? -/
def State.usesMatrix (st : State) (c : Ctx) : Bool :=
  (st.cluster (clusterOf c.start)).claims.any (fun p => p.2 == c.uid) || (st.matrixCmds c.start).any fun m => m.uid == c.uid

/-- The reserve of a core for budgeted channels (R321), over the installed nets. -/
def State.reserve (st : State) : Nat :=
  (st.nets.map fun p => ((p.2.chans.take 15).map fun a => if a.budget != 0 then a.limit * footGranules a.foot else 0).sum).sum +
    (let l := st.nets.filterMap fun p => p.2.chans[15]?
     if l.any fun a => a.budget != 0 then (l.map fun a => a.limit).foldl max 0 * 21 else 0)

/-- Does a channel carry a budget on every core (R315)? -/
def State.budgeted (st : State) (ch : Nat) : Bool :=
  st.nets.any fun p => ((p.2.chans[ch]?).map fun a => a.limit != 0 && a.budget != 0).getD false

/-- Granules of a core held by live tasks of budgeted channels (R321). -/
def State.budgetHeld (st : State) (cid : Nat) : Nat :=
  ((st.resident cid).map fun c => if !c.port && st.budgeted c.chan then footGranules c.foot else 0).sum

/-- May an unbudgeted start, fill or migration take `n` granules of a core without a spill (R321)? -/
def State.granulesAdmit (st : State) (cid n : Nat) : Bool :=
  decide (n ≤ st.freeGranules cid) && decide (st.reserve ≤ st.freeGranules cid - n + st.budgetHeld cid)

/-- The conditions of R296 but for the granules of the remembered home; the threshold is that of the start core (R297). -/
def State.mayMigrate (st : State) (c : Ctx) : Bool :=
  let k := st.core c.start
  k.thresh != 0 && decide (k.thresh ≤ c.predC) && c.predH != none && !c.heavy && c.foot == 0 && c.slots.isEmpty &&
    !st.usesMatrix c && !st.pinned c && c.obls.toList.all (· == none) && !c.intrap

/-- Does a context meet every condition of R296? -/
def State.migrates (st : State) (c : Ctx) : Bool :=
  st.mayMigrate c && (match c.predH with | some h => st.granulesAdmit h 8 | none => false)

/-! ## Issue and retirement (R35, R36, R96, R111 to R113) -/

/-- What an instruction does when it issues. A context beside a state is the issuing context as the instruction leaves it. -/
inductive Eff where
  /-- Completes; the context goes on after the group. -/
  | done (st : State) (c : Ctx)
  /-- Completes; the context goes on at the target. -/
  | jump (st : State) (c : Ctx) (target : BitVec 57)
  /-- A program fault before any effect; without a value, `XVAL` is the instruction word (R43). -/
  | fault (code detail : Nat) (xval : Option W64)
  /-- A program fault beside an effect (R221). -/
  | faulted (st : State) (code detail : Nat) (xval : Option W64)
  /-- A `FORMAT` fault with its record for `FMTTRAP` (R18, R139). -/
  | format (rec : Nat)
  /-- The context is held: the instruction has not been executed (R111, R112). -/
  | held (st : State) (c : Ctx)
  /-- The same of an instruction that no check can stop or park any more: held while what it has begun comes about. It begins nothing where
  the yield interval refuses it (R36). -/
  | waits (st : State) (c : Ctx)
  /-- Parks at the instruction, which is executed again (R35, R44). -/
  | park (st : State) (c : Ctx) (w : Wait)
  /-- Completes and takes a handled trap (R42). -/
  | trap (st : State) (c : Ctx) (code detail : Nat) (val : W64)
  /-- An explicit yield point: the next limit, what is waited for, and whether it is `yield` itself (R35, R36). -/
  | yielded (st : State) (c : Ctx) (limit : Nat) (w : Option Wait) (plain : Bool)
  /-- The context has ended (`tend`, `commit`); the state no longer holds it. -/
  | ended (st : State)
  /-- Poisoned data consumed at an address (R373). -/
  | poison (st : State) (va : Nat)

/-- Can a context issue (R28, R112)? -/
def Ctx.canIssue (c : Ctx) : Bool := c.st == .ready && c.pend == none && c.due == none

/-- Retires `n` words: work, yield interval, issue order (R25, R36). -/
def State.retire (st : State) (c : Ctx) (n : Nat) (pc : BitVec 57) : State :=
  ((st.setCtx { c with pc := pc, rwc := c.rwc + n, used := c.used + n, held := false, place := none, woken := [], issuedAt := st.stamp }).modTenant
    c.tenant fun t => t.addWork st.time n c.backup).tickStamp

/-- Takes a context out of its core's place as current (R399). -/
def State.uncurrent (st : State) (c : Ctx) : State :=
  st.modCore c.cur fun k => { k with current := if k.current == some c.key then none else k.current }

/-- Ends the yield interval of a context and marks it for migration where R296 holds. -/
def State.atYield (st : State) (c : Ctx) (limit : Nat) (plain : Bool) : Ctx :=
  { c with used := 0, limit := limit, held := false,
           migMark := st.migrates c && (!(st.core c.start).onlyY || plain) }

/-- Parks a context (R28, R30); a context that parks again keeps its place (R133). -/
def State.parkCtx (st : State) (c : Ctx) (w : Wait) (word : W32) (pc : BitVec 57) : State :=
  (st.setCtx { c with
    st := .parked, wait := some w, parkCycle := st.cyclesOf c.start, place := some (c.place.getD st.stamp), woken := [],
    parkPc := pc, parkWord := word }).uncurrent c |>.tickStamp

/-- Carries out what an instruction of `n` words does. `late` tells that it may not retire in its yield interval (R36): then it parks
if it parks, and otherwise waits for the fault `WATCHDOG`. -/
def settle (st : State) (c : Ctx) (n : Nat) (w : W32) (late : Bool) : Eff → State
  | .held st' c' => st'.setCtx { c' with held := true }
  | .park st' c' wt => st'.parkCtx (st'.atYield c' 4096 false) wt w c.pc
  | x =>
    if late then st.setCtx { c with due := some (.watchdog w) }
    else match x with
      | .waits st' c' => st'.setCtx { c' with held := true }
      | .done st' c' => st'.retire c' n (c.pc + BitVec.ofNat 57 (4 * n))
      | .jump st' c' t => st'.retire c' n t
      | .fault code detail xval => st.programFault c code detail c.pc (xval.getD (w.zeroExtend 64))
      | .faulted st' code detail xval => st'.programFault c code detail c.pc (xval.getD (w.zeroExtend 64))
      | .format rec => st.programFault { c with fmttrap := rec } 0x04 0 c.pc (w.zeroExtend 64)
      | .trap st' c' code detail val =>
        let next := c.pc + BitVec.ofNat 57 (4 * n)
        let st' := st'.retire c' n next
        match st'.ctx c.key with
        | some c'' => st'.takeTrap c'' code detail val c.pc next
        | none => st'
      | .yielded st' c' limit wt plain =>
        let next := c.pc + BitVec.ofNat 57 (4 * n)
        let st' := st'.retire c' n next
        match st'.ctx c.key with
        | some c'' =>
          let c'' := st'.atYield c'' limit plain
          (match wt with
            | some wt => st'.parkCtx c'' wt w c.pc
            | none => ((st'.setCtx { c'' with readyAt := st'.stamp }).uncurrent c'').tickStamp)
        | none => st'
      | .ended st' => st'
      | .poison st' va => st'.consumePoison c va
      | _ => st


/-- The context that issues: the one that the state's focus names, if it can issue. -/
def State.issuer (st : State) : Option Ctx :=
  match st.focus with
  | none => none
  | some k =>
    match st.ctx k with
    | none => none
    | some c => if c.canIssue then some c else none

/-- Issues a group of `n` words with target word `w`: held while a register that it names awaits a result (R111), and otherwise what
`body` says. `free` targets are not refused by the watchdog (R36). -/
def issueWords (free : Bool) (n : Nat) (w : W32) (blocked : State → Ctx → Bool) (body : State → Ctx → Eff) (st : State) : Out :=
  match st.issuer with
  | none => .fault .noIssuer
  | some c =>
    if blocked st c then .next (st.setCtx { c with held := true })
    else .next (settle st c n w (!free && decide (c.limit < c.used + n)) (body st c))

/-- Issues a group by its `ext` words. -/
def issueWith (free : Bool) (e : List Ext) := issueWords free (groupWords e)

/-- Issues an instruction that the watchdog may refuse. -/
def issue := issueWith false

/-- Issues an explicit yield point, `tend` or `commit` (R36). -/
def issueFree := issueWith true

/-! ## Registers that await results (R111) -/

/-- Does an access in flight of a context write scalar register `r`? -/
def Dest.scalar (r : Nat) : Dest → Bool
  | .sreg d => d == r && r != 0
  | .pair d => (d == r || d + 1 == r) && r != 0
  | _ => false

/-- Does it write vector register `r`? -/
def Dest.vector (r : Nat) : Dest → Bool
  | .vreg d _ => d == r
  | _ => false

/-- Does one of some scalar registers await a result? -/
def awaitS (rs : List Nat) (st : State) (c : Ctx) : Bool := st.accs.any fun a => a.uid == c.uid && rs.any fun r => a.dest.scalar r

/-- The registers that a queued matrix command of a context still writes: `mres` a vector register, `mchk` two masks (R111, R186). -/
def MOp.writesV (r : Nat) : MOp → Bool
  | .mres _ d => d == r
  | _ => false

/-- Does one of some vector registers await a result? -/
def awaitV (rs : List Nat) (st : State) (c : Ctx) : Bool :=
  (st.accs.any fun a => a.uid == c.uid && rs.any fun r => a.dest.vector r) ||
    ((st.matrixCmds c.start).any fun m => m.uid == c.uid && rs.any fun r => m.op.writesV r)

/-- Has a context a `mchk` in the queue: then it issues nothing further (R186). -/
def awaitCheck (st : State) (c : Ctx) : Bool :=
  (st.matrixCmds c.start).any fun m => m.uid == c.uid && (match m.op with | .mchk .. => true | _ => false)

/-- What holds an instruction back: scalar and vector registers that it names, and a `mchk`. -/
def blocks (s v : List Nat) (st : State) (c : Ctx) : Bool := awaitCheck st c || awaitS s st c || awaitV v st c

/-! ## Acquires and releases of a context under way (R273, R274) -/

/-- Is an access an acquire (R274), or the read of a tile's version, which acquires at the tile's home scope (R262, R281)? -/
def Access.acquires (a : Access) : Bool :=
  a.ord.ord == 2 || (match a.op with
    | .tver _ => true
    | _ => false)

/-- Does it follow every earlier access of its context: a release, a join or a push (R244, R274)? -/
def Access.releases (a : Access) : Bool :=
  a.ord.ord == 3 || (match a.op with
    | .plink .. => true
    | .ppush .. => true
    | _ => false)

/-- Is an acquire of a context still to be performed? It comes before every later access of the context, those of local memory
included (R135, R273). -/
def State.acquirePending (st : State) (uid : Nat) : Bool :=
  st.accs.any fun a => a.uid == uid && a.answer.isNone && a.acquires

/-- Must an acquire of a context wait for an earlier acquire or release of it that is under way (R273)? -/
def State.mustFollow (st : State) (uid : Nat) : Bool :=
  st.accs.any (fun a => a.uid == uid && a.answer.isNone && (a.acquires || a.releases)) ||
    st.cores.any fun k => k.2.reds.any fun r => r.uid == uid && r.ord.ord == 3

/-- An operation that may not come before an acquire of its context: held while one is under way (R272, R273). -/
def afterAcquires (st : State) (c : Ctx) (go : Eff) : Eff := if st.acquirePending c.uid then .held st c else go

/-- The answer that a migrated context awaits from its start core's bank, which has performed an operation for it: it pins the context until it
arrives (R29, R297). -/
def State.awaitBank (st : State) (c : Ctx) : State :=
  if c.cur == c.start then st
  else
    let a : Access :=
      { id := st.stamp, grp := st.stamp, uid := c.uid, key := c.key, launch := c.launch, net := c.net, tenant := c.tenant, cid := c.cur,
        op := .load, elems := [], ord := ⟨0, 0, 0⟩, dest := .none, sx := false, answer := some (.val 0), sent := false }
    { st with accs := st.accs ++ [a] }.tickStamp

/-- An operation on local memory as its context's start core performs it, in one step (R297): one that completes leaves its answer awaited. A
wait that begins, and a yield point, which is reached with the answer, do not (DEDUCED, log 94). -/
def atBank : Eff → Eff
  | .done st c => .done (st.awaitBank c) c
  | x => x

/-- A local-memory access of a context: behind its acquires, at its start core (R272, R273, R297). -/
def localAccess (st : State) (c : Ctx) (go : Eff) : Eff := afterAcquires st c (atBank go)

/-! ## Interrupts (R361, R362) -/

/-- Is an MSI-X vector masked: bit 0 of its vector-control word? -/
def HostPort.masked (h : HostPort) (v : Nat) : Bool := bit (h.msix.readN (16 * v + 12) 4) 0

/-- Signals a vector: a message, or its pending bit while it is masked (R362). -/
def State.signal (st : State) (v : Nat) : State :=
  if st.host.masked v then { st with host := { st.host with pending := NatSet.add st.host.pending v } }
  else { st with host := { st.host with sent := v :: st.host.sent } }

/-- A device step whose condition does not hold. -/
def idle (mnemonic : String) : Out := .refused (.notEnabled mnemonic)

end Sys2Proof.Machine
end

