-- ==== Sys2Proof/Machine/Fabric.lean ====
section
/-! DEFINITION. The Twidar fabric as a source of packets: schedule time, sluices, routes, the packets kept until they are
acknowledged (R341 to R354). -/

namespace Sys2Proof.Machine

/-- The cycle of a schedule time (R342). -/
def twCycle (t : Nat) : Nat := t / 8000

/-- The slot of a schedule time (R342). -/
def twSlot (t : Nat) : Nat := t % 8000 / 250

/-- Is the armed cycle of a bank switch ahead of the current one, modulo 2^32 (R353)? -/
def State.cycleAhead (st : State) : Bool :=
  let d := (st.fab.armCycle + 2 ^ 32 - twCycle st.podTime % 2 ^ 32) % 2 ^ 32
  d != 0 && decide (d < 2 ^ 31)

/-- Is an armed switch to be made now: at the start of the armed cycle, or at the slot boundary after an arming write that found it come
(R353)? -/
def State.switchDue (st : State) : Bool := st.fab.arm && !st.cycleAhead && decide (st.fab.armSlot < st.podTime / 250)

/-- The bank that a packet injected now is stamped with (R352, R353). -/
def State.bankNow (st : State) : Bool := if st.switchDue then st.fab.next else st.fab.cur

/-- Is a schedule time in light (R342)? -/
def twLight (t : Nat) : Bool := decide (t % 250 < 240)

/-- The start of the next slot. -/
def nextSlot (t : Nat) : Nat := (t / 250 + 1) * 250

/-- The start of the first light at or after a time: every packet takes less than 1 ns of light (R341, R344). -/
def firstLight (t : Nat) : Nat := if twLight t then t else nextSlot t

/-- The plane on which two packages meet (R343). -/
def meetPlane (a b : Nat) : Nat := (a ^^^ b) / 32

/-- The slot in which two packages meet (R343). -/
def meetSlot (a b : Nat) : Nat := (a ^^^ b) % 32

/-- The earliest time at or after `x` at which two packages meet in light (R343, R348). -/
def meetTime (a b x : Nat) : Nat :=
  let k := meetSlot a b
  if twSlot x == k && twLight x then x
  else
    let here := x / 8000 * 8000 + 250 * k
    if x ≤ here then here else here + 8000

/-- The relay bank of a stamp (R351). -/
def Fabric.bankOf (f : Fabric) (b : Bool) : Map (BitVec 64) := if b then f.bankB else f.bankA

/-- Does the bank of a stamp hold a table: its bit of `TWVALID` (R352, R356)? -/
def Fabric.valid (f : Fabric) (b : Bool) : Bool := if b then f.validB else f.validA

/-- `PRESENT` of a package in a bank. -/
def bankPresent (b : Map (BitVec 64)) (p : Nat) : Bool := bit (b.getD p 0).toNat 0

/-- `PLANES` of a package in a bank, one plane. -/
def bankPlane (b : Map (BitVec 64)) (p plane : Nat) : Bool := bit (b.getD p 0).toNat (16 + plane)

/-- `Fits` from this package to `d` (R348): none when the plane is down at either end. -/
def State.fitsHere (st : State) (b : Map (BitVec 64)) (d x : Nat) : Option Nat :=
  let p := meetPlane st.pkg d
  if st.fab.up.contains p && bankPlane b d p then some (meetTime st.pkg d x) else none

/-- `Fits` between two other packages (R348). -/
def fitsThere (b : Map (BitVec 64)) (m d x : Nat) : Option Nat :=
  let p := meetPlane m d
  if bankPlane b m p && bankPlane b d p then some (meetTime m d x) else none

/-- Credits left for a relay (R349). -/
def Fabric.creditOf (f : Fabric) (m : Nat) : Nat := 2048 - f.credit.getD m 0

/-- A candidate relay: package, plane, time of its meeting with the destination, credits. -/
structure Relay where
  m : Nat
  p : Nat
  t : Nat
  c : Nat
deriving DecidableEq, Repr

/-- The better of the best relay so far and a later candidate (R348). -/
def betterRelay (b : Option Relay) (r : Relay) : Option Relay :=
  match b with
  | none => some r
  | some x => if r.t < x.t || (r.t == x.t && x.c < r.c) then some r else some x

/-- The relay decision of R348, after the direct meeting `tdir` was found too far or not at all. -/
def State.viaRelay (st : State) (b : Map (BitVec 64)) (pkt : Packet) (tdir : Option Nat) : Route :=
  let t1 := firstLight st.podTime
  let k1 := twSlot t1
  let best := (List.range 16).foldl (fun (acc : Option Relay) p =>
    let m := st.pkg ^^^ (32 * p + k1)
    if !st.fab.up.contains p || m == st.pkg || m == pkt.dst || !bankPresent b m || !bankPlane b m p ||
        decide (st.fab.creditOf m < pkt.len + 1) then acc
    else match fitsThere b m pkt.dst (t1 + 300) with
      | some tm => betterRelay acc ⟨m, p, tm, st.fab.creditOf m⟩
      | none => acc) none
  match best, tdir with
  | some r, some x => if r.t < x then .relay r.m r.p t1 else .direct x
  | some r, none => .relay r.m r.p t1
  | none, some x => .direct x
  | none, none => .waiting

/-- Where a packet goes; none drops it (R348). `CTRL` packets are routed directly and need no bank (R356); under a bank that holds no table no
package is a member, and no other packet leaves (R356; DEDUCED, log 98). -/
def State.routeOf (st : State) (pkt : Packet) : Option Route :=
  let b := st.fab.bankOf pkt.bank
  if pkt.kind == 12 then
    some (if st.fab.up.contains (meetPlane st.pkg pkt.dst) then .direct (meetTime st.pkg pkt.dst st.podTime) else .waiting)
  else if !st.fab.valid pkt.bank || !bankPresent b pkt.dst then none
  else match st.fitsHere b pkt.dst st.podTime with
    | some x => if x - st.podTime ≤ st.fab.win then some (.direct x) else some (st.viaRelay b pkt (some x))
    | none => some (st.viaRelay b pkt none)

/-- Packets to a destination that await acknowledgement and have been injected (R347). -/
def Fabric.unacked (f : Fabric) (d : Nat) : Nat := (f.kept.filter fun k => k.pkt.dst == d && k.tries != 0).length

/-- Sets the sticky error bit of a peer; never this package's own (R354). The first in an empty bitmap signals vector 19 (R361). -/
def State.flagPeer (st : State) (q : Nat) : State :=
  if q == st.pkg then st
  else
    let st := if st.fab.peers.isEmpty then st.signal 19 else st
    { st with fab := { st.fab with peers := NatSet.add st.fab.peers q } }

/-- Gives back the credit of a route on which a packet has not been sent, or was refused (R349, R352). -/
def Fabric.refund (f : Fabric) (r : Route) (len : Nat) : Fabric :=
  match r with
  | .relay m _ _ => { f with credit := f.credit.put m (f.credit.getD m 0 - (len + 1)) }
  | _ => f

/-- Charges the credit of a route (R349). -/
def Fabric.charge (f : Fabric) (r : Route) (len : Nat) : Fabric :=
  match r with
  | .relay m _ _ => { f with credit := f.credit.put m (f.credit.getD m 0 + len + 1) }
  | _ => f

/-- Is a packet a write-back of a peer line of which an earlier write-back is not acknowledged yet? The fabric keeps no order (R346), and the two
are serialised in the order of their writes (R270): it waits (DEDUCED, log 109). -/
def Fabric.behindWriteBack (f : Fabric) (id : Nat) (pkt : Packet) : Bool :=
  match pkt.body with
  | .lwb l _ _ _ => f.kept.any fun k => decide (k.id < id) && (match k.pkt.body with
    | .lwb m _ _ _ => m == l
    | _ => false)
  | _ => false

/-- Must a packet wait in its queue before it is injected: 4,096 packets to its destination are unacknowledged (R347), or a write-back of its line? -/
def Fabric.mustQueue (f : Fabric) (id : Nat) (pkt : Packet) : Bool := decide (4096 ≤ f.unacked pkt.dst) || f.behindWriteBack id pkt

/-- Queues a packet to another package under the current bank: it gets the next `ESEQ` of its destination and is routed at once,
or waits where it must (R347, R352). A packet that R348 drops at injection is kept with
no tries left, so that `ATTEMPT_TIMEOUT` fails its operation. -/
def State.send (st : State) (dst kind len tenant tag : Nat) (body : Body) (launch : Option Nat) : State :=
  let e := st.fab.eseq.getD dst 0
  let pkt : Packet :=
    { dst := dst, src := st.pkg, bank := st.bankNow, relayed := false, len := len, kind := kind, tenant := tenant, reserved := 0,
      eseq := e, tag := tag, body := body }
  let queued := st.fab.mustQueue st.stamp pkt
  let route := if queued then some .waiting else st.routeOf pkt
  let fab := { st.fab with eseq := st.fab.eseq.put dst ((e + 1) % 2 ^ 32) }
  let k : Kept :=
    match route with
    | some r => { id := st.stamp, pkt := pkt, tries := (if queued then 0 else 1), since := st.podTime, routed := st.podTime,
                  directly := false, route := r, launch := launch }
    | none => { id := st.stamp, pkt := pkt, tries := 16, since := st.podTime, routed := st.podTime, directly := false, route := .waiting,
                launch := launch }
  { st with fab := { (fab.charge k.route len) with kept := fab.kept ++ [k] }, stamp := st.stamp + 1 }

/-- Sends an acknowledgement, which is never kept (R347): it leaves with the credits owed to its destination (R349). -/
def State.acknowledge (st : State) (src eseq : Nat) : State :=
  { st with fab := { st.fab with acks := st.fab.acks ++ [(src, eseq, st.fab.owed.getD src 0)], owed := st.fab.owed.put src 0 } }

/-- Does this package meet another now, in light and with the plane in service (R341, R343)? -/
def State.meets (st : State) (m : Nat) : Bool :=
  m != st.pkg && twLight st.podTime && twSlot st.podTime == meetSlot st.pkg m && st.fab.up.contains (meetPlane st.pkg m)

/-- A meeting carries back the credits that are owed to the package that is met (R349). -/
def State.returnCredits (st : State) : State :=
  { st with fab := { st.fab with owed := st.fab.owed.filter fun p => !st.meets p.1 } }

/-- Sends a failure packet to a package about one that a packet of it could not reach; it is not kept (R257, R354; log 49). -/
def State.sendFailure (st : State) (dst about : Nat) : State := { st with fab := { st.fab with failures := st.fab.failures ++ [(dst, about)] } }

/-- Refuses a packet that was to be relayed: its source is told, with the credit that comes back (R349, R352; log 98). -/
def State.refuseRelay (st : State) (p : Packet) : State :=
  { st with fab := { st.fab with refusals := st.fab.refusals ++ [(p.src, p.dst, p.eseq, p.len + 1)] } }

/-- The ports in service and their versions: `NEG` is the lowest version over the ports in service (R355, R356, R367). -/
def Fabric.setPorts (f : Fabric) (up : NatSet) (vers : Map Nat) : Fabric :=
  { f with up := up, portVer := vers, neg := ((up.map fun q => vers.getD q 0).min?).getD 0 }

/-- The next ordering `TAG` of a flow (R346). -/
def State.nextTag (st : State) (flow : Nat) : State × Nat :=
  let n := st.fab.txTag.getD flow 0
  ({ st with fab := { st.fab with txTag := st.fab.txTag.put flow ((n + 1) % 2 ^ 32) } }, n)

end Sys2Proof.Machine
end

