-- ==== Sys2Proof/Machine/Memory.lean ====
section
/-! DEFINITION. Global memory at its points (R269 to R271, R278, R293, R298, R299, R372, R375): memory and slices, slice copies of
peer lines, the home cores' data caches. -/

namespace Sys2Proof.Machine

/-! ## The array: correction, poison, injection (R369, R370, R372, R375) -/

/-- The bank of an address of near DRAM, 0..2047 (R368): the lines of a chiplet go round its 256 banks, so that the last eighths of its banks
are its last eighth of addresses; a DESIGN CHOICE (log 24). The far tier has no bank: 2,048. -/
def bankOf (pa : Nat) : Nat := if paSpace pa == 0 then bits pa 36 3 * 256 + bits pa 7 8 else 2048

/-- The place of a line within its bank. -/
def bankLine (pa : Nat) : Nat := bits pa 15 21

/-- Is a word read under the strong code: a word of near DRAM below the scrubber's boundary in a bank that is re-encoded (R369)? -/
def State.strongAt (st : State) (pa : Nat) : Bool := paSpace pa == 0 && decide (bankLine pa < st.fw.strong.getD (bankOf pa) 0)

/-- Enters an event in the firmware log (R370): 1 correction, 2 poisoning, 3 discarded reduction. -/
def State.logEvent (st : State) (kind pa : Nat) : State := { st with fw := { st.fw with log := st.fw.log ++ [(kind, bankOf pa, pa)] } }

/-- A correction: logged, and counted at its bank of near DRAM (R369, R370). -/
def State.correct (st : State) (pa : Nat) : State :=
  let st := st.logEvent 1 pa
  if paSpace pa != 0 then st
  else
    let times := st.fw.corrections.getD (bankOf pa) []
    { st with fw := { st.fw with corrections := st.fw.corrections.put (bankOf pa) (times ++ [st.time]) } }

/-- Is the armed injector about to act on a read of these bytes at the array (R375)? -/
def State.injHits (st : State) (pa n : Nat) : Bool :=
  st.cfg.injArm && n != 0 && (wordsTouched pa n).contains (st.cfg.injAddr / 8)

/-- A read of some bytes at the array: the armed injector acts first (R375). -/
def State.arrayRead (st : State) (pa n : Nat) : State :=
  if st.injHits pa n then
    let w := st.cfg.injAddr / 8
    let st := { st with cfg := { st.cfg with injArm := false, injFired := true } }
    match st.cfg.injKind with
    | 1 => st.correct (8 * w)
    | 2 => if st.strongAt (8 * w) then st.correct (8 * w) else { st.logEvent 2 (8 * w) with poison := NatSet.add st.poison w }
    | 3 => { st with poison := NatSet.add st.poison w }
    | _ => st
  else st

/-- Is one of the words of a range marked at the array, or in host memory? -/
def State.memPoisoned (st : State) (pa n : Nat) : Bool := !st.poison.isEmpty && (wordsTouched pa n).any st.poison.contains

/-- The marks of a line's words at the array. -/
def State.arrayMarks (st : State) (line : Nat) : BitVec 16 :=
  if st.poison.isEmpty then 0
  else (List.range 16).foldl (fun (q : BitVec 16) w => if st.poison.contains (16 * line + w) then q ||| (1#16 <<< w) else q) 0

/-! ## The directory (R299) -/

/-- The packages that hold slice copies of an owned line (R299). -/
def State.holdersOf (st : State) (line : Nat) : List Nat :=
  match st.dir.find line with
  | some d =>
    if d.broadcast then (((st.fab.bankOf st.fab.cur).filter fun e => bit e.2.toNat 0 && e.1 != st.pkg).map Prod.fst) else d.holders
  | none => []

/-- Sends an invalidation of an owned line to every holder but one, and forgets the others (R299). It carries the tenant of the write that causes it
where a packet or an instruction tells it (R344), and otherwise 0 (DESIGN CHOICE, log 93). -/
def State.invalidateHolders (st : State) (line : Nat) (keep : Option Nat) (tenant : Nat) : State :=
  let h := st.holdersOf line
  if h.isEmpty then st
  else
    let st := (h.filter fun p => some p != keep).foldl (fun s p => s.send p 4 0 tenant 0 (.inv line) none) st
    match keep with
    | some k => if h.contains k then { st with dir := st.dir.put line ⟨[k], false⟩ } else { st with dir := st.dir.del line }
    | none => { st with dir := st.dir.del line }

/-! ## The slice and the memory behind it, one point (R269) -/

/-- The slice copy of a peer line. -/
def State.peerLine (st : State) (line : Nat) : Option PeerLine := st.peerLines.find? fun p => p.line == line

/-- Writes bytes into a 128-byte line held as a number. -/
def linePut (data : BitVec 1024) (off : Nat) (l : List Byte) : BitVec 1024 :=
  BitVec.ofNat 1024 (putBits data.toNat (8 * off) (8 * l.length) (ofBytes l))

/-- Bytes of a line. -/
def lineGet (data : BitVec 1024) (off n : Nat) : Nat := bits data.toNat (8 * off) (8 * n)

/-- A mask of `n` ones from bit `lo`. -/
def onesAt (lo n : Nat) : Nat := (2 ^ n - 1) * 2 ^ lo

/-- Poison bits of a line after a write of `n` bytes at `off` (R372). -/
def linePoison (p : BitVec 16) (off n : Nat) : BitVec 16 :=
  if p == 0 then p else (wordsCovered off n).foldl (fun q w => q &&& ~~~(1#16 <<< w)) p

/-- Is a word of a line poisoned among `n` bytes at `off`? -/
def lineBad (p : BitVec 16) (off n : Nat) : Bool := p != 0 && (wordsTouched off n).any fun w => p.getLsbD w

/-- Sets the marks of some words of a line. -/
def markWords (p : BitVec 16) (l : List Nat) : BitVec 16 := l.foldl (fun q w => q ||| (1#16 <<< w)) p

/-- The line of own memory in its home slice (R298). -/
def State.sliceLine (st : State) (line : Nat) : Option SliceLine := st.slices.find? fun (x : SliceLine) => x.line == line

/-- Writes bytes of one line at S: into the slice when it holds the line, and into memory otherwise (R269, R298). Other packages' copies of an
owned line are invalidated (R283, R299). A word that is covered whole loses its mark (R372). -/
def State.sWrite (st : State) (pa : Nat) (l : List Byte) : State :=
  let mask := BitVec.ofNat 128 (onesAt (pa % 128) l.length)
  let clean := fun (p : BitVec 16) => linePoison p (pa % 128) l.length
  if st.isPeer pa then
    { st with peerLines := st.peerLines.map fun (p : PeerLine) =>
        if p.line == pa / 128 then
          { p with data := linePut p.data (pa % 128) l, dirty := p.dirty ||| mask, poison := clean p.poison, carried := clean p.carried }
        else p }
  else if (st.sliceLine (pa / 128)).isSome && paSpace pa < 2 then
    ({ st with
      mem := st.mem.writeBytes (canonPa pa) l
      slices := st.slices.map fun (p : SliceLine) =>
        if p.line == pa / 128 then { p with dirty := p.dirty ||| mask, poison := clean p.poison, carried := clean p.carried } else p
      }).invalidateHolders (pa / 128) none 0
  else
    ({ st with
      mem := st.mem.writeBytes (canonPa pa) l
      poison := if st.poison.isEmpty then [] else st.poison.filter fun w => !(wordsCovered (canonPa pa) l.length).contains w
      }).invalidateHolders (pa / 128) none 0

/-- Marks the words of a range at S (R372). -/
def State.sPoison (st : State) (pa n : Nat) : State :=
  let mark := fun (p : BitVec 16) => markWords p (wordsTouched (pa % 128) n)
  if st.isPeer pa then
    { st with peerLines := st.peerLines.map fun (p : PeerLine) =>
        if p.line == pa / 128 then { p with poison := mark p.poison, carried := mark p.carried } else p }
  else if (st.sliceLine (pa / 128)).isSome && paSpace pa < 2 then
    { st with slices := st.slices.map fun (p : SliceLine) =>
        if p.line == pa / 128 then { p with poison := mark p.poison, carried := mark p.carried } else p }
  else { st with poison := (wordsTouched (canonPa pa) n).foldl NatSet.add st.poison }

/-- Writes the bytes of a line that a mask names, with the marks that go with the words that hold them (R270, R372, R374). -/
def State.sWriteMasked (st : State) (line : Nat) (data : BitVec 1024) (mask : BitVec 128) (carried : BitVec 16) : State :=
  let st := (List.range 16).foldl (fun (s : State) w =>
    let m := bits mask.toNat (8 * w) 8
    if m == 0 then s
    else
      let a := 128 * line + 8 * w
      let s := if m == 255 then s.sWrite a (bytesOf 8 (lineGet data (8 * w) 8))
        else (List.range 8).foldl (fun (s : State) i =>
          if bit m i then s.sWrite (a + i) (bytesOf 1 (lineGet data (8 * w + i) 1)) else s) s
      if carried.getLsbD w then s.sPoison a 8 else s) st
  st

/-- Is a write-back of a peer line on its way (R347)? -/
def State.writeBackUnderWay (st : State) (line : Option Nat) : Bool :=
  st.fab.kept.any fun k => match k.pkt.body with
    | .lwb l _ _ _ => (match line with | some x => x == l | none => true)
    | _ => false

/-- Is the answer for a peer line awaited? -/
def State.lineAwaited (st : State) (line : Nat) : Bool := st.fab.awaits.any fun a => a.line == some line

/-- Asks the owner of a peer line for it, unless its answer is awaited or a write-back of the line has yet to reach the owner (R270,
R283, R345). -/
def State.requestLine (st : State) (line tenant : Nat) : State :=
  if st.lineAwaited line || st.writeBackUnderWay (some line) then st
  else
    let a : Await := { id := st.stamp, peer := paPkg (128 * line), since := st.podTime, acc := none, red := none, copy := none,
                       line := some line }
    let st := st.send (paPkg (128 * line)) 1 0 tenant (st.stamp % 2 ^ 32) (.lreq line) none
    { st with fab := { st.fab with awaits := st.fab.awaits ++ [a] } }

/-! ## Home cores' data caches (R293) -/

/-- The line of a data cache. -/
def Core.cached (k : Core) (line : Nat) : Option CLine := k.dcache.find? fun c => c.line == line

/-- Replaces or adds a line of a data cache. -/
def Core.putLine (k : Core) (c : CLine) : Core := { k with dcache := c :: k.dcache.filter fun x => x.line != c.line }

/-- Removes a line of a data cache. -/
def Core.dropLine (k : Core) (line : Nat) : Core := { k with dcache := k.dcache.filter fun x => x.line != line }

/-- Writes the dirty bytes of a home core's line back to S; the line stays, clean (R270). -/
def State.writeBack (st : State) (h line : Nat) : State :=
  match (st.core h).cached line with
  | some c =>
    if c.dirty == 0 then st
    else (st.sWriteMasked line c.data c.dirty c.carried).modCore h fun k => k.putLine { c with dirty := 0, carried := 0 }
  | none => st

/-- Writes a home core's line back if it is dirty and invalidates it (R269, R293). -/
def State.flushLine (st : State) (h line : Nat) : State :=
  if ((st.core h).cached line).isSome then (st.writeBack h line).modCore h fun k => k.dropLine line else st

/-! ## The lines of a slice (R298, R299) -/

/-- Sends the dirty bytes of a peer line's slice copy to its owner under a tenant and a tag; the copy stays, clean (R299, R344). It goes
behind an earlier write-back of the line (`Fabric.behindWriteBack`), and the answer to a request for the line that the owner may serve before
it is not taken any more: no party reads bytes that are older than those it wrote (R270; DEDUCED, log 109). -/
def State.writeBackAs (st : State) (p : PeerLine) (tenant tag : Nat) : State :=
  if p.dirty == 0 then st
  else
    let st : State := { st with
      peerLines := st.peerLines.map fun (x : PeerLine) => if x.line == p.line then { x with dirty := 0, carried := 0 } else x
      fab := { st.fab with awaits := st.fab.awaits.filter fun (a : Await) => a.line != some p.line } }
    st.send (paPkg (128 * p.line)) 3 3 tenant tag (.lwb p.line p.dirty.toNat (bytesOf 128 p.data.toNat) p.carried.toNat) none

/-- A write-back that answers no request: a slice copy does not tell whose bytes it holds (R278), so that its `TENANT` and `TAG` are 0 (DESIGN
CHOICE, log 93). -/
def State.sendWriteBack (st : State) (p : PeerLine) : State := st.writeBackAs p 0 0

/-- Forgets the slice copy of a line. -/
def State.forgetPeer (st : State) (line : Nat) : State := { st with peerLines := st.peerLines.filter fun (x : PeerLine) => x.line != line }

/-- Gives up a slice copy: the home core's dirty bytes join it, its dirty bytes go to the owner, and it is dropped (R278, R298, R299). -/
def State.dropPeerLine (st : State) (line : Nat) : State :=
  let st := st.flushLine (st.home (128 * line)) line
  match st.peerLine line with
  | some l => (st.sendWriteBack l).forgetPeer line
  | none => st

/-- Writes a line of own memory back to the array, marks included: a word that the slice has written whole takes the slice's mark, one that it
has written in part is marked when it is marked there, and any other keeps the array's mark (R372, R374). -/
def State.arrayTake (st : State) (l : SliceLine) : State :=
  let p := (List.range 16).foldl (fun (q : NatSet) w =>
    let q := if bits l.dirty.toNat (8 * w) 8 == 255 then NatSet.del q (16 * l.line + w) else q
    if l.carried.getLsbD w && bits l.dirty.toNat (8 * w) 8 != 0 then NatSet.add q (16 * l.line + w) else q) st.poison
  { st with poison := p }

/-- Evicts a line of own memory from its slice: the home core's copy is invalidated, and its dirty bytes absorbed, first (R298). -/
def State.dropSliceLine (st : State) (line : Nat) : State :=
  let st := st.flushLine (st.home (128 * line)) line
  match st.sliceLine line with
  | some l => { st.arrayTake l with slices := st.slices.filter fun (x : SliceLine) => x.line != line }
  | none => st

/-- The own lines and the slice copies of peer lines in a set of a cluster's slice, which has 1,024 sets of 16 ways (R298). -/
def State.sliceSet (st : State) (g set : Nat) : List Nat :=
  (st.slices.map SliceLine.line ++ st.peerLines.map PeerLine.line).filter fun x => x % 1024 == set && clusterOf (st.home (128 * x)) == g

/-- The lines of 128 bytes that a tile's data takes in its home slice while a commit's region is pulled (R298, R333). -/
def Tile.transit (t : Tile) : Nat := ((t.pulling.map fun c => c.rlen).getD 0 + 127) / 128

/-- The ways of a set that the tiles' sealed data in transit takes; which sets it falls into is open, and it leaves a way to other lines (R298;
DESIGN CHOICE, log 19). -/
def State.transitWays (st : State) (g set : Nat) : Nat :=
  min 15 ((st.tiles.filter fun p => p.2.cluster == g).map fun p =>
    (List.range p.2.transit).countP fun i => Config.transitSet p.1 i % 1024 == set).sum

/-- Evicts a line of a set of a slice where more than `ways` ways would be taken; which line goes is open (R298; log 5). -/
def State.fitSet (st : State) (g set ways : Nat) : State :=
  let l := st.sliceSet g set
  if l.isEmpty || l.length + st.transitWays g set ≤ ways then st
  else match l[Config.pick st.frees % l.length]? with
    | some x => { (if st.isPeer (128 * x) then st.dropPeerLine x else st.dropSliceLine x) with frees := st.frees + 1 }
    | none => st

/-- Makes room in its home slice for a line that it does not hold (R298). -/
def State.sliceRoom (st : State) (line : Nat) : State := st.fitSet (clusterOf (st.home (128 * line))) (line % 1024) 15

/-- Makes room in a tile's home slice for the data that a pull brings (R298). -/
def State.takeTransit (st : State) (tile : Nat) : State :=
  match st.tiles.find tile with
  | some t => (List.range t.transit).foldl (fun (s : State) i => s.fitSet t.cluster (Config.transitSet tile i % 1024) 16) st
  | none => st

/-- Fills a line of own memory into its home slice from the array, unless it is there (R298, R375). -/
def State.sFill (st : State) (line : Nat) : State :=
  if (st.sliceLine line).isSome then st
  else
    let st := (st.arrayRead (128 * line) 128).sliceRoom line
    { st with slices := st.slices ++ [⟨line, 0, st.arrayMarks line, 0⟩] }

/-- The marks of a line's words at S. -/
def State.sMarks (st : State) (line : Nat) : BitVec 16 :=
  if st.isPeer (128 * line) then ((st.peerLine line).map fun p => p.poison).getD 0
  else match st.sliceLine line with
    | some l => l.poison
    | none => st.arrayMarks line

/-- Reads `n` bytes of one line at S: the value, and whether it is marked. A peer line is read in its slice copy (R283), an own line in its
slice, which is filled from the array first (R298), and host memory at the host. -/
def State.sRead (st : State) (pa n : Nat) : State × Nat × Bool :=
  if st.isPeer pa then
    match st.peerLine (pa / 128) with
    | some p => (st, lineGet p.data (pa % 128) n, lineBad p.poison (pa % 128) n)
    | none => (st, 0, false)
  else if paSpace pa < 2 then
    let st := st.sFill (pa / 128)
    (st, st.mem.readN pa n, lineBad (st.sMarks (pa / 128)) (pa % 128) n)
  else (st, st.mem.readN (canonPa pa) n, st.memPoisoned (canonPa pa) n)

/-- Is a line at hand at S: an own one, or a peer's whose slice copy is whole and was asked for at or after stamp `since` (R278, R283)? -/
def State.lineHere (st : State) (pa since : Nat) : Bool :=
  !st.isPeer pa || (st.peerLine (pa / 128)).any fun p => p.valid && decide (since ≤ p.filled)

/-- The stamp at which the bytes that S gives for a line are at least as new: for a peer line that at which its slice copy was asked for, so that a
home core's copy filled from it is no newer (R278, R283). -/
def State.sFilled (st : State) (line : Nat) : Nat :=
  if st.isPeer (128 * line) then ((st.peerLine line).map fun p => p.filled).getD 0 else st.stamp

/-- Reads `n` bytes of one line in the memory behind S, without an allocation: where the slice holds the line, it is read there (R269). -/
def State.behindRead (st : State) (pa n : Nat) : State × Nat × Bool :=
  if st.isPeer pa || 2 ≤ paSpace pa || (st.sliceLine (pa / 128)).isSome then st.sRead pa n
  else
    let st := st.arrayRead pa n
    (st, st.mem.readN pa n, st.memPoisoned pa n)

/-! ## Home cores' data caches: filling (R278, R293) -/

/-- Makes room for a line: a cache has 64 sets of 8 ways, and the victim is any line of the set (R293; which one is open, log 5). -/
def State.makeRoom (st : State) (h line : Nat) : State :=
  let set := (st.core h).dcache.filter fun c => c.line % 64 == line % 64
  if set.length < 8 then st
  else match set[Config.pick st.frees % set.length]? with
    | some v => { st.flushLine h v.line with frees := st.frees + 1 }
    | none => st

/-- The line of a data cache for an access whose context acquired at stamp `since`: filled from S when it is absent, refilled from S
with its dirty bytes kept when it was filled before that acquire (R278, R293). A word that is written whole keeps its own mark, and a mark that
goes with dirty bytes stays (R374). -/
def State.lineAt (st : State) (h line since : Nat) : State × CLine :=
  let fill (st : State) : State × CLine :=
    let r := st.sRead (128 * line) 128
    let st := r.1
    ({ st with stamp := st.stamp + 1 }, ⟨line, BitVec.ofNat 1024 r.2.1, 0, st.sMarks line, 0, st.sFilled line⟩)
  match (st.core h).cached line with
  | some c =>
    if since ≤ c.filled then (st, c)
    else
      let (st, f) := fill st
      let data := (List.range 128).foldl (fun (d : BitVec 1024) i =>
        if c.dirty.getLsbD i then linePut d i (bytesOf 1 (lineGet c.data i 1)) else d) f.data
      let poison := (List.range 16).foldl (fun (q : BitVec 16) w =>
        let q := if bits c.dirty.toNat (8 * w) 8 == 255 then q &&& ~~~(1#16 <<< w) else q
        if c.carried.getLsbD w && bits c.dirty.toNat (8 * w) 8 != 0 then q ||| (1#16 <<< w) else q) f.poison
      let c := { c with data := data, poison := poison, filled := f.filled,
                        carried := (List.range 16).foldl (fun (q : BitVec 16) w =>
                          if bits c.dirty.toNat (8 * w) 8 == 0 then q &&& ~~~(1#16 <<< w) else q) c.carried }
      (st.modCore h fun k => k.putLine c, c)
  | none =>
    let st := st.makeRoom h line
    let (st, f) := fill st
    (st.modCore h fun k => k.putLine f, f)

/-- Reads bytes of a line in its home core's cache. -/
def State.hRead (st : State) (h pa n since : Nat) : State × Nat × Bool :=
  let (st, c) := st.lineAt h (pa / 128) since
  (st, lineGet c.data (pa % 128) n, lineBad c.poison (pa % 128) n)

/-- Writes bytes of a line in its home core's cache: write-allocate, dirty by byte (R293). -/
def State.hWrite (st : State) (h pa : Nat) (l : List Byte) : State :=
  let (st, c) := st.lineAt h (pa / 128) 0
  st.modCore h fun k => k.putLine
    { c with data := linePut c.data (pa % 128) l, dirty := c.dirty ||| BitVec.ofNat 128 (onesAt (pa % 128) l.length),
             poison := linePoison c.poison (pa % 128) l.length, carried := linePoison c.carried (pa % 128) l.length }

/-! ## Having a line at hand (R278, R283) -/

/-- Something that must come first: nothing more, a step that is taken now, or a wait. -/
inductive Ready where
  | go (st : State)
  | act (st : State)
  | wait

/-- Goes on when ready. -/
def Ready.andThen (r : Ready) (f : State → Ready) : Ready :=
  match r with
  | .go st => f st
  | x => x

/-- The slice copy of a peer line, whole and asked for at or after stamp `since` (R278, R283). -/
def State.readyLine (st : State) (pa since tenant : Nat) : Ready :=
  if st.lineHere pa since then .go st
  else if st.lineAwaited (pa / 128) || st.writeBackUnderWay (some (pa / 128)) then .wait
  else .act (st.requestLine (pa / 128) tenant)

/-- The slice copies of the peer lines of some addresses. -/
def State.readyLines (since tenant : Nat) : List Nat → State → Ready
  | [], st => .go st
  | pa :: l, st => (st.readyLine pa since tenant).andThen (State.readyLines since tenant l)

/-- The bytes of this package for a peer line have been performed at its owner, no earlier request for it is to be answered, and no copy of it is
left here: what an operation at the owner's slice begins with (R270, R283). -/
def State.readyOwner (st : State) (pa : Nat) : Ready :=
  let line := pa / 128
  let st := st.flushLine (st.home pa) line
  match (st.peerLine line).filter fun p => p.dirty != 0 with
  | some p => .act (st.sendWriteBack p)
  | none => if st.writeBackUnderWay (some line) || st.lineAwaited line then .wait else .go (st.forgetPeer line)

/-! ## Points (R269) -/

/-- Where an access is performed (R269, R283, R284): the home core's cache; S, or the memory behind it, after the home core's copy has gone, or
without regard to it; the host; a register; the owner's slice in another package. -/
inductive Point where
  | homeCore (h : Nat)
  | slice (flush : Option Nat)
  | memory (flush : Option Nat)
  | host
  | register
  | owner
deriving DecidableEq, Repr

/-- The point of a context's access (R269). -/
def State.pointOf (st : State) (cid pa : Nat) (o : MemOrd) : Point :=
  if paSpace pa == 3 then .register
  else if paSpace pa == 2 then .host
  else
    let h := st.home pa
    let onLayer := layerOf cid == layerOf h
    if st.isPeer pa && o.ord != 0 && o.scope == 6 then .owner
    else if onLayer && o.atHomeCore then .homeCore h
    else if o.pol == 2 then .memory (if onLayer then some h else none)
    else .slice (if onLayer then some h else none)

/-- Writes back the dirty bytes of the lines that a context stored into and that have not been written back since (R278). -/
def State.writeBackStored (st : State) (uid : Nat) : State :=
  let lines := st.stored.getD uid []
  { lines.foldl (fun (s : State) l => s.writeBack (s.home (128 * l)) l) st with stored := st.stored.del uid }

/-- Carries every dirty peer line to its owner: what a release at `.pod` adds (R278, R283). -/
def State.writeBackPeers (st : State) : State := st.peerLines.foldl (fun s p => s.sendWriteBack p) st

/-- Writes back and removes every line of the data caches of a layer's cores (R328): the dirty bytes only; lines stay, clean. -/
def State.flushLayer (st : State) (l : Nat) : State :=
  (st.cores.filter fun p => layerOf p.1 == l).foldl (fun (s : State) p =>
    p.2.dcache.foldl (fun (s : State) c => s.writeBack p.1 c.line) s) st

/-! ## Reads and writes of engines, the weir, stations and the host (R269) -/

/-- Reads bytes at S in pieces that stay within a line. -/
def State.sReadBytes : Nat → State → Nat → Nat → State × List Byte × Option Nat
  | 0, st, _, _ => (st, [], none)
  | k + 1, st, pa, n =>
    if n == 0 then (st, [], none)
    else
      let m := min n (128 - pa % 128)
      let (st, v, bad) := st.sRead pa m
      let (st, l, b) := State.sReadBytes k st (pa + m) (n - m)
      (st, bytesOf m v ++ l, if bad then some pa else b)

/-- Writes bytes at S in pieces that stay within a line. -/
def State.sWriteBytes : Nat → State → Nat → List Byte → State
  | 0, st, _, _ => st
  | k + 1, st, pa, l =>
    if l.isEmpty then st
    else
      let m := min l.length (128 - pa % 128)
      State.sWriteBytes k (st.sWrite pa (l.take m)) (pa + m) (l.drop m)

end Sys2Proof.Machine
end

