-- ==== Sys2Proof/Machine/Xlate.lean ====
section
/-! DEFINITION. Address translation (R301 to R306): walks, station entries, page requests. -/

namespace Sys2Proof.Machine

/-- What a walk gives (R304): a leaf, a page that is not present, a fault, or a peer line that a table lies in and that is not here. -/
inductive WalkRes where
  | entry (e : XEntry)
  | notPresent
  | xlate
  | needs (pa : Nat)
deriving DecidableEq, Repr

/-- What reading a table gives: its data, a fault, or a peer line that has to come first. -/
inductive TableRes where
  | data (v : Nat)
  | bad
  | needs (pa : Nat)
deriving DecidableEq, Repr

/-- Reads `n` bytes of a table for a walk: a table of another package or of the host is read, and refused at the end (R304). Poisoned data
faults; so do addresses that do not exist, and the device registers, which hold no data of a table (DEDUCED, log 86). -/
def State.tableRead (st : State) (pa n : Nat) : State × TableRes :=
  if paSpace pa == 3 || st.nonexistent pa then (st, .bad)
  else if !st.lineHere pa 0 then (st, .needs pa)
  else
    let (st, v, bad) := st.sRead pa n
    (st, if bad then .bad else .data v)

/-- Is a table where translation accepts it: own near DRAM or far tier (R304)? -/
def State.tablePlace (st : State) (pa : Nat) : Bool := paSpace pa < 2 && !st.isPeer pa

/-- The index of a virtual address at a level (R303). -/
def vaIndex (va lvl : Nat) : Nat := if lvl == 0 then bits va 16 5 else bits va (21 + 9 * (lvl - 1)) 9

/-- Page bits of a leaf at a level (R303). -/
def pageBits (lvl : Nat) : Nat := if lvl == 0 then 16 else 21 + 9 * (lvl - 1)

/-- Is a page-table entry well formed at its level: reserved bits, `LEAF`, alignment (R303)? -/
def pteOk (pte lvl : Nat) : Bool :=
  let leaf := bit pte 1
  bits pte 6 2 == 0 && bits pte 56 8 == 0 && (if lvl == 0 then leaf else if 3 ≤ lvl then !leaf else true) &&
    (if leaf then bits pte 0 (pageBits lvl) / 256 == 0 else if lvl == 1 then true else bits pte 8 4 == 0)

/-- The levels of a walk from `lvl` down, at table `t`; `ok` tells that every table so far lay where it may (R304). -/
def State.walkLevels (pid va : Nat) : Nat → State → Nat → Bool → State × WalkRes
  | lvl, st, t, ok =>
    let a := t + 8 * vaIndex va lvl
    let (st, r) := st.tableRead a 8
    match r with
    | .bad => (st, .xlate)
    | .needs pa => (st, .needs pa)
    | .data pte =>
      let ok := ok && st.tablePlace a
      if !bit pte 0 then (st, if bit pte 5 then .notPresent else .xlate)
      else if !pteOk pte lvl then (st, .xlate)
      else if bit pte 1 then
        (st, if ok then .entry ⟨pid, pageBits lvl, va / 2 ^ pageBits lvl, bits pte 0 56 / 2 ^ pageBits lvl, bit pte 2, bit pte 3, bit pte 4⟩
             else .xlate)
      else match lvl with
        | 0 => (st, .xlate)
        | l + 1 => State.walkLevels pid va l st (bits pte 8 48 * 256) ok

/-- A walk of the tables at one instant (R304). -/
def State.walkNow (st : State) (pid tenant va : Nat) : State × WalkRes :=
  let a := st.cfg.ptBase + 16 * pid
  let (st, r) := st.tableRead a 16
  match r with
  | .bad => (st, .xlate)
  | .needs pa => (st, .needs pa)
  | .data e =>
    if !bit e 0 || bits e 64 8 != tenant || bits e 1 11 != 0 || bits e 56 8 != 0 || bits e 72 56 != 0 then (st, .xlate)
    else State.walkLevels pid va 4 st (bits e 12 44 * 4096) (st.tablePlace a)

/-- What an entry gives for an access: the physical address, or none where it is refused (R304). -/
def State.useEntry (st : State) (e : XEntry) (va : Nat) (k : XKind) (sup : Bool) : Option Nat :=
  let pa := e.ppage * 2 ^ e.pbits + va % 2 ^ e.pbits
  if st.nonexistent pa || st.reservedArea pa then none
  else if ((k == .write || k == .atomic) && !e.w) || (k == .fetch && !e.x) || (e.sup && !sup) then none
  else if paSpace pa == 3 && !e.sup then none
  else some (canonPa pa)

/-- Identity translation, while translation is disabled (R304). -/
def State.identity (st : State) (va : Nat) (sup : Bool) : Option Nat :=
  if bit va 56 || st.nonexistent va || st.reservedArea va || (paSpace va == 3 && !sup) then none else some (canonPa va)

/-- The station entry for a page of a process. -/
def Layer.entryFor (l : Layer) (station pid va : Nat) : Option XEntry :=
  (l.stations.getD station []).find? fun e => e.pid == pid && e.vpage == va / 2 ^ e.pbits

/-- The process identifier of a context (R302). -/
def State.pidOf (st : State) (c : Ctx) : Nat := ((st.launches.find c.launch).map fun l => l.pid).getD 0

/-- What translation answers to a context: the address, that the page is not at the station, or a fault `XLATE`. -/
inductive XRes where
  | at (pa : Nat)
  | miss
  | bad
deriving DecidableEq, Repr

/-- Translates for a context through its station (R301, R304, R305): bits [63:57] must be zero. -/
def State.translate (st : State) (c : Ctx) (va : Nat) (k : XKind) : XRes :=
  if 2 ^ 57 ≤ va then .bad
  else if !st.cfg.ptEn then (match st.identity va c.sup with | some pa => .at pa | none => .bad)
  else match (st.layer (layerOf c.cur)).entryFor (stationOf c.cur) (st.pidOf c) va with
    | some e => (match st.useEntry e va k c.sup with | some pa => .at pa | none => .bad)
    | none => .miss

/-- Puts a context's request at its station: it joins the walk of its page, or starts one; a station takes 256 walks and queues 512
requests more, and a request beyond that is not accepted (R301). -/
def State.requestWalk (st : State) (c : Ctx) (va : Nat) (k : XKind) : State :=
  let stn := layerOf c.cur * 8 + stationOf c.cur
  let pid := st.pidOf c
  let w : Waiter := ⟨c.uid, c.issuedAt, va, k, c.sup⟩
  if st.walks.any fun x => x.station == stn && x.pid == pid && x.vpage == va / 65536 && x.waiters.contains w then st
  else if st.walks.any fun x => x.station == stn && x.pid == pid && x.vpage == va / 65536 then
    { st with walks := st.walks.map fun x =>
        if x.station == stn && x.pid == pid && x.vpage == va / 65536 then { x with waiters := x.waiters ++ [w] } else x }
  else if 768 ≤ (st.walks.filter fun x => x.station == stn).length then st
  else { st with walks := st.walks ++ [⟨st.stamp, pid, va / 65536, stn, c.tenant, [w], []⟩], stamp := st.stamp + 1 }

/-- Installs an entry at a station; with 8,192 entries one makes room (R301; which one is open, log 5). -/
def State.installEntry (st : State) (stn : Nat) (e : XEntry) : State :=
  let l := stn / 8
  let old := (st.layer l).stations.getD (stn % 8) []
  let kept := if old.length < 8192 then old else old.eraseIdx (Config.pick st.frees % old.length)
  { st.modLayer l fun y => { y with stations := y.stations.put (stn % 8) (e :: kept.filter fun x =>
      !(x.pid == e.pid && x.pbits == e.pbits && x.vpage == e.vpage)) } with
    frees := if old.length < 8192 then st.frees else st.frees + 1 }

/-! ## Page requests (R305) -/

/-- Slots of the page-request queue (R287). -/
def MemCfg.prqSize (m : MemCfg) : Nat := 2 ^ (min m.prqLog 12 + 7)

/-- The number of a kind of access in a page request. -/
def XKind.code : XKind → Nat
  | .read => 0
  | .write => 1
  | .fetch => 2
  | .atomic => 3

/-- The 32 bytes of a page-request record (R305). -/
def pageRecord (pid : Nat) (k : XKind) (engine : Bool) (seq va unit : Nat) : Nat :=
  pid % 65536 + k.code * 2 ^ 16 + b2n engine * 2 ^ 18 + seq % 2 ^ 32 * 2 ^ 32 + va % 2 ^ 57 * 2 ^ 64 + unit % 2 ^ 21 * 2 ^ 128

/-- How many records of the queue wait to be read: head and tail count records modulo 2^20, twice the largest queue, so that a full queue and an
empty one differ (R287; DEDUCED, log 69). -/
def MemCfg.prqCount (m : MemCfg) : Nat := (m.prqTail + 2 ^ 20 - m.prqHead % 2 ^ 20) % 2 ^ 20

/-- The slots of the queue that wait to be read. -/
def MemCfg.prqWaiting (m : MemCfg) : List Nat := (List.range (min m.prqCount m.prqSize)).map fun i => (m.prqHead + i) % m.prqSize

/-- Writes a page request unless an identical one waits; a full queue drops it and sets `PRQFULL` (R305). Either
signals vector 16 (R361). -/
def State.pageRequest (st : State) (rec : Nat) : State :=
  let m := st.cfg
  if m.prqWaiting.any fun i => st.mem.readN (m.prqBase + 32 * i) 32 == rec then st
  else if m.prqSize ≤ m.prqCount then
    (if m.prqFull then st else { st with cfg := { m with prqFull := true } }.signal 16)
  else
    let st := State.sWriteBytes 2 st (m.prqBase + 32 * (m.prqTail % m.prqSize)) (bytesOf 32 rec)
    { st with cfg := { st.cfg with prqTail := (m.prqTail + 1) % 2 ^ 20 } }.signal 16

/-- The page request of a context (R305). -/
def State.contextRequest (st : State) (c : Ctx) (va : Nat) (k : XKind) : State :=
  let seq := ((st.launches.find c.launch).map fun l => l.seq).getD 0
  st.pageRequest (pageRecord (st.pidOf c) k false seq va (st.gid c.start))

/-! ## Engines (R301) -/

/-- What translation answers to an engine: the address, a page that is not present, a fault, or that no walk has answered yet. -/
inductive EngRes where
  | at (pa : Nat)
  | notPresent
  | xlate
  | miss
deriving DecidableEq, Repr

/-- Translates for an engine of a core through the core's station (R301, R305). A walk that has failed answers once; a miss waits for one. -/
def State.engineXlate (st : State) (cid pid : Nat) (sup : Bool) (va : Nat) (k : XKind) : EngRes :=
  if 2 ^ 57 ≤ va then .xlate
  else if !st.cfg.ptEn then (match st.identity va sup with | some pa => .at pa | none => .xlate)
  else match (st.layer (layerOf cid)).entryFor (stationOf cid) pid va with
    | some e => (match st.useEntry e va k sup with | some pa => .at pa | none => .xlate)
    | none =>
      match st.engFaults.find? fun f => f.1 == (⟨cid, pid, va / 65536, k, sup⟩ : EngAsk) with
      | some f => if f.2 then .notPresent else .xlate
      | none => .miss

/-- Puts an engine's request at the station of its core: it joins the walk of its page, or starts one in a slot or in the queue; none where the
queue is full or the request is there already (R301). -/
def State.engineWalk (st : State) (a : EngAsk) (tenant : Nat) : Option State :=
  let stn := layerOf a.cid * 8 + stationOf a.cid
  let mine := fun (x : Walk) => x.station == stn && x.pid == a.pid && x.vpage == a.page
  if st.walks.any fun x => mine x && x.engines.contains a then none
  else if st.walks.any mine then some { st with walks := st.walks.map fun x => if mine x then { x with engines := x.engines ++ [a] } else x }
  else if 768 ≤ (st.walks.filter fun x => x.station == stn).length then none
  else some { st with walks := st.walks ++ [⟨st.stamp, a.pid, a.page, stn, tenant, [], [a]⟩], stamp := st.stamp + 1 }

/-- An engine has been told of the walks that failed. -/
def State.toldEngine (st : State) (cid pid : Nat) (sup : Bool) (k : XKind) (vas : List Nat) : State :=
  if st.engFaults.isEmpty then st
  else { st with engFaults := st.engFaults.filter fun f => !vas.any fun va => f.1 == (⟨cid, pid, va / 65536, k, sup⟩ : EngAsk) }

/-! ## Several addresses of one instruction -/

/-- Translates some addresses of one instruction in order: their physical addresses, the first that is not at the station, or the first
that is refused. -/
inductive XList where
  | all (l : List Nat)
  | miss (va : Nat)
  | bad (va : Nat)
deriving DecidableEq, Repr

/-- Translates a list of addresses (R199, R201). -/
def State.translateAll (st : State) (c : Ctx) (k : XKind) : List Nat → XList
  | [] => .all []
  | va :: l =>
    match st.translate c va k with
    | .bad => .bad va
    | .miss => .miss va
    | .at pa =>
      match st.translateAll c k l with
      | .all r => .all (pa :: r)
      | x => x

/-- A context's translation as an effect: it goes on with the physical addresses, is held while a walk runs, or faults `XLATE` with
the address (R112, R305). -/
def withXlate (st : State) (c : Ctx) (k : XKind) (vas : List Nat) (go : List Nat → Eff) : Eff :=
  match st.translateAll c k vas with
  | .all pas => go pas
  | .miss va => .held (st.requestWalk c va k) c
  | .bad va => .fault 0x0A 0 (some (BitVec.ofNat 64 va))

end Sys2Proof.Machine
end

