-- ==== Sys2Proof/Machine/Operands.lean ====
section
/-! DEFINITION. Operand forms: scalar registers and addresses, vector registers with their tags, footprint and streams, masks,
invariant registers (R16 to R21, R31, R79, R92, R94, R138 to R140, R160 to R162). -/

namespace Sys2Proof.Machine

/-! ## Scalar operands -/

/-- The source register of a field. -/
def Ctx.rs (c : Ctx) (r : R5) : W64 := c.getS r.toNat

/-- Writes the destination register of a field. -/
def Ctx.wr (c : Ctx) (r : R5) (v : W64) : Ctx := c.setS r.toNat v

/-- The address of the target word of a group (R118, R124). -/
def Ctx.wordPc (c : Ctx) (e : List Ext) : BitVec 57 := c.pc + BitVec.ofNat 57 (4 * e.length)

/-- The effective address sa + offset · size, modulo 2^64 (R132, R135, R197). -/
def effAddr {n : Nat} (c : Ctx) (e : List Ext) (a : R5) (o : BitVec n) (size : Nat) : Nat :=
  (c.rs a + wideImm o e * BitVec.ofNat 64 size).toNat

/-- A loaded value of `n` bytes as a register value: zero- or sign-extended (R131). -/
def extendLoad (n : Nat) (zx : Bool) (v : Nat) : W64 :=
  if zx then BitVec.ofNat 64 (v % 2 ^ (8 * n)) else BitVec.ofInt 64 (signed (8 * n) v)

/-! ## Formats of vector registers (R18, R139) -/

/-- Accepted tags {F32, BF16, F16}. -/
def tagsFP : Nat := 0x1C
/-- Accepted tags {I32, Z32, I8, Z8}. -/
def tagsINT : Nat := 0x1C2
/-- Accepted tag TD8. -/
def tagsTD8 : Nat := 0x20
/-- Accepted tags 0..8. -/
def tagsANY : Nat := 0x1FF
/-- Accepted tags I32 and Z32. -/
def tagsI32 : Nat := 0x82

/-- Element width in bits of a tag, RAW taken as 32 (R17, R226). -/
def tagWidth (t : Nat) : Nat :=
  match t with
  | 3 => 16
  | 4 => 16
  | 5 => 8
  | 6 => 8
  | 8 => 8
  | _ => 32

/-- The binary format of a floating-point tag. -/
def tagFmt (t : Nat) : Option Fmt :=
  match t with
  | 2 => some f32
  | 3 => some bf16
  | 4 => some f16
  | _ => none

/-- Is a tag a signed integer's? -/
def tagSigned (t : Nat) : Bool := t == 1 || t == 6

/-- Is a tag an integer's? -/
def tagInt (t : Nat) : Bool := bit tagsINT t

/-- The record of a `FORMAT` fault (R139). -/
def formatRec (found accept reg opnd : Nat) : Nat := found + accept * 16 + reg * 2 ^ 13 + opnd * 2 ^ 18 + 2 ^ 20

/-! ## Shapes (R160, R225, R226) -/

/-- Elements of a shape. -/
def Shape.count (h : Shape) : Nat := (h.dims.map Prod.fst).foldl (· * ·) 1

/-- Bytes of an element. -/
def Shape.bytes (h : Shape) : Nat := tagWidth h.fmt / 8

/-- The offset of element `n` from the base (R226). -/
def elemOffset : List (Nat × Int) → Nat → Int
  | [], _ => 0
  | (m, s) :: l, n => ((n % m : Nat) : Int) * s + elemOffset l (n / m)

/-- The address of element `n`, modulo 2^64 (R226). -/
def Shape.addr (h : Shape) (n : Nat) : Nat := wrap 64 ((if h.space == 2 then (h.toff : Int) else h.base) + elemOffset h.dims n)

/-- Strips of a shape (R160). -/
def Shape.strips (h : Shape) : Nat := (h.count * tagWidth h.fmt + 2047) / 2048

/-- The elements of strip `k`: address and place within the strip in bytes. -/
def Shape.strip (h : Shape) (k : Nat) : List (Nat × Nat) :=
  let per := 256 / h.bytes
  ((List.range per).filter fun i => k * per + i < h.count).map fun i => (h.addr (k * per + i), i * h.bytes)

/-- The first address of every page of 64 KiB that some addresses lie on, in rising order. -/
def pagesOf (l : List Nat) : List Nat :=
  ((sortBy id l).foldl (fun (acc : List Nat) a => match acc with
    | b :: _ => if b / 65536 == a / 65536 then acc else a :: acc
    | [] => [a]) []).reverse

/-! ## Vector registers -/

/-- The highest vector register of a footprint class, plus 1 (R31). -/
def footLimit (f : Nat) : Nat :=
  match f with
  | 0 => 8
  | 1 => 16
  | _ => 32

/-- A vector register. -/
def Ctx.getV (c : Ctx) (r : Nat) : VReg := (c.v[r]?).getD ⟨0, 0⟩

/-- Sets a vector register. -/
def Ctx.setV (c : Ctx) (r : Nat) (x : VReg) : Ctx := { c with v := c.v.setIfInBounds r x }

/-- A mask register; `k0` reads all ones (R16). -/
def Ctx.getK (c : Ctx) (r : Nat) : W64 := if r == 0 then BitVec.allOnes 64 else (c.k[r]?).getD 0

/-- Writes a mask register; `k0` ignores writes (R16). -/
def Ctx.setK (c : Ctx) (r : Nat) (x : W64) : Ctx := if r == 0 then c else { c with k := c.k.setIfInBounds r x }

/-- An invariant register (R165). -/
def Ctx.getQ (c : Ctx) (r : Nat) : BitVec 128 := (c.q[r]?).getD 0

/-- Writes an invariant register. -/
def Ctx.setQ (c : Ctx) (r : Nat) (x : BitVec 128) : Ctx := { c with q := c.q.setIfInBounds r x }

/-- The stream slot of a register (R21). -/
def Ctx.slotOf (c : Ctx) (r : Nat) : Option Slot := c.slots.find? fun x => x.reg == r

/-- Replaces the slot of a register. -/
def Ctx.putSlot (c : Ctx) (x : Slot) : Ctx := { c with slots := c.slots.map fun y => if y.reg == x.reg then x else y }

/-- The tag that a read of a register sees: that of the strip for a pop-bound register (R161). -/
def Ctx.tagOf (c : Ctx) (r : Nat) : Nat :=
  match c.slotOf r with
  | some x => if x.push then (c.getV r).tag else x.shape.fmt
  | none => (c.getV r).tag

/-- The first failing tag check of some operands, given as operand number, register and accepted tags, in order (R139). -/
def Ctx.formatFault (c : Ctx) : List (Nat × Nat × Nat) → Option Nat
  | [] => none
  | (o, r, acc) :: l =>
    let t := c.tagOf r
    if t ≤ 8 && bit acc t then c.formatFault l else some (formatRec t acc r o)

/-- What popping the strips of an instruction's sources gives (R161, R308). -/
inductive Popped where
  | ok (c : Ctx)
  | hold
  | bad (va : Nat)
  | absent (va : Nat)
  | poison (va : Nat)
deriving DecidableEq, Repr

/-- Pops one strip for a register if it is pop-bound (R161). -/
def Ctx.pop (c : Ctx) (r : Nat) : Popped :=
  match c.slotOf r with
  | none => .ok c
  | some x =>
    if x.push then .ok c
    else if x.shape.strips ≤ x.pos then .ok (c.setV r ⟨0, x.shape.fmt⟩)
    else match Map.find x.staged x.pos with
      | none => .hold
      | some s =>
        match s.fault, s.poison with
        | some (va, true), _ => .absent va
        | some (va, false), _ => .bad va
        | none, some va => .poison va
        | none, none => .ok ((c.setV r ⟨s.bits, x.shape.fmt⟩).putSlot { x with pos := x.pos + 1, staged := Map.del x.staged x.pos })

/-- Pops one strip for each pop-bound register among some sources, once each; `seen` are those already taken (R161). -/
def Ctx.popAll (c : Ctx) (seen : List Nat) : List Nat → Popped
  | [] => .ok c
  | r :: l =>
    if seen.contains r then Ctx.popAll c seen l
    else match c.pop r with
      | .ok c => Ctx.popAll c (r :: seen) l
      | x => x

/-- Is the effect a fault of tier 3 whose cause comes before translation: `SIDEEFF`, `NOUNIT`, `ALIGN`, `LMRANGE`, `LEASE`, `BARSTORE` or `MINDEX`
(R41)? -/
def Eff.beforeXlate : Eff → Bool
  | .fault code _ _ => [0x08, 0x07, 0x05, 0x06, 0x09, 0x0C, 0x0E].contains code
  | _ => false

/-- The context in which the pop-bound sources that cannot be read hold zeros of their tag: what the instruction would check beside them. -/
def Ctx.blind (c : Ctx) (srcs : List Nat) : Ctx :=
  srcs.dedup.foldl (fun x r => match x.pop r with
    | .ok y => y
    | _ => x.setV r ⟨0, c.tagOf r⟩) c

/-- Can the strips of some registers be read? -/
def Ctx.canPop (c : Ctx) (l : List Nat) : Bool := l.all fun r => match c.pop r with
  | .ok _ => true
  | _ => false

/-- Reads the vector sources of an instruction: footprint of every register it names, tags in the order a, b, c, then the strips (R31,
R41, R139, R161). A strip that cannot be read is met as a translation fault is, behind the causes that R41 takes before translation (R308); only
where its own elements are offsets (`offs`) are there no addresses to check, and it comes first. -/
def withVectors (st : State) (c : Ctx) (named : List Nat) (checks : List (Nat × Nat × Nat)) (srcs offs : List Nat)
    (go : Ctx → Eff) : Eff :=
  if named.any fun r => footLimit c.foot ≤ r then .fault 0x02 0 none
  else match c.formatFault checks with
    | some rec => .format rec
    | none =>
      match c.popAll [] srcs with
      | .ok x =>
        -- what is executed again pops again (R161)
        (match go x with
          | .held st _ => .held st c
          | .park st _ w => .park st c w
          | eff => eff)
      | .hold => .held st c
      | stopped =>
        let dry := go (c.blind srcs)
        if c.canPop offs && dry.beforeXlate then dry
        else match stopped with
          | .bad va => .fault 0x0A 0 (some (BitVec.ofNat 64 va))
          | .absent va => .park st c (.page (st.pidOf c) va)
          | .poison va => .poison st va
          | _ => .held st c

/-- Checks of a push into local memory (R39, R162, R232): the completion ring, other leases, barrier words. -/
def State.localPushFault (st : State) (c : Ctx) (l : List (Nat × Nat)) (n : Nat) : Option (Nat × Nat) :=
  let k := st.core c.start
  match l.find? fun x => k.leased c.uid x.1 n || overlaps x.1 n Config.ringBase 0x2000 with
  | some x => some (0x09, x.1)
  | none =>
    match l.find? fun x => k.tagged x.1 n with
    | some x => some (0x0C, x.1)
    | none => none

/-- Checks the push of a strip (R162). They come behind every other cause of the writing instruction: R162 does not say whether the format
check of a push precedes the instruction's own later causes (DESIGN CHOICE, log 82). The checks are the result tag, room in the staging, the
translation of its target, which the slot keeps, or the local checks. -/
def withPush (st : State) (c : Ctx) (x : Slot) (tag : Nat) (go : Slot → Eff) : Eff :=
  if x.shape.fmt != 0 && tag != x.shape.fmt then .format (formatRec tag (2 ^ x.shape.fmt) x.reg 3)
  else if 4 ≤ x.staged.length then .held st c
  else
    let l := x.shape.strip x.pos
    if x.shape.space == 0 then
      match st.localPushFault c l x.shape.bytes with
      | some (code, a) => .fault code 0 (some (BitVec.ofNat 64 a))
      | none => go x
    else
      let pages := pagesOf (l.map Prod.fst)
      withXlate st c .write pages fun pas =>
        go { x with xl := x.xl ++ (pages.zip pas).map fun p => (x.pos, p.1 / 65536, p.2 / 65536 * 65536) }

/-- Writes a vector result: discarded for a pop-bound register, pushed for a push-bound one, else stored with its tag (R161, R162). -/
def writeVector (st : State) (c : Ctx) (d : Nat) (r : VReg) (fin : Ctx → Eff) : Eff :=
  match c.slotOf d with
  | none => fin (c.setV d r)
  | some x =>
    if !x.push then fin c
    else withPush st c x r.tag fun x =>
      fin ((c.setV d r).putSlot { x with pos := x.pos + 1, staged := x.staged ++ [(x.pos, ⟨r.bits, none, none, st.stamp⟩)] })

/-! ## Elements and lanes (R17, R55, R140) -/

/-- Element `i` of width `w`. -/
def elem (w : Nat) (x : BitVec 2048) (i : Nat) : Nat := bits x.toNat (w * i) w

/-- The register whose elements of width `w` are given, element 0 first. -/
def packElems (w : Nat) : List Nat → Nat
  | [] => 0
  | v :: l => v % 2 ^ w + packElems w l * 2 ^ w

/-- Is the lane of element `i` of width `w` active? -/
def laneOn (m : W64) (w i : Nat) : Bool := m.getLsbD (i * w / 32)

/-- Computes every element of the active lanes, leaving the others as they are, and collects the flags (R55, R140). -/
def lanewise (w : Nat) (m : W64) (old : BitVec 2048) (f : Nat → Res) : BitVec 2048 × Nat :=
  let l := (List.range (2048 / w)).map fun i => if laneOn m w i then f i else ⟨elem w old i, 0⟩
  (BitVec.ofNat 2048 (packElems w (l.map Res.val)), l.foldl (fun a r => a ||| r.flags) 0)

/-- The elements of the active lanes, in order. -/
def activeElems (w : Nat) (m : W64) (x : BitVec 2048) : List Nat :=
  ((List.range (2048 / w)).filter fun i => laneOn m w i).map fun i => elem w x i

/-- An element as an integer by its tag. -/
def elemInt (t x : Nat) : Int := if tagSigned t then signed (tagWidth t) x else (x : Int)

end Sys2Proof.Machine
end

