-- ==== Sys2Proof/Machine/Fetch.lean ====
section
/-! DEFINITION. Selecting a context and fetching its next group (R96, R97, R127, R213, R399). -/

namespace Sys2Proof.Machine

/-- The target word of an instruction. -/
def wordOf (i : Instr) : W32 := (encodeTarget i).getD 0

/-- The context of some that is least by a number, ties by lower slot. -/
def firstBy (f : Ctx → Nat) (l : List Ctx) : Option Ctx := leastBy f (sortBy (fun c => c.slot) l)

/-- The contexts of a core that are `READY` for the choice of a current one (R28, R399). One whose access has not been accepted (R112) is
passed over, and one that is held (R111) is not: R399 does not say whether such contexts count (DESIGN CHOICE, log 79). -/
def State.readyOn (st : State) (cid : Nat) : List Ctx :=
  (st.ctxs.map Prod.snd).filter fun c => c.cur == cid && st.isReady c && c.pend == none

/-- Makes current the context of a core that has been `READY` longest, if the core has none (R399). -/
def State.select (st : State) (cid : Nat) : Option State :=
  match (st.core cid).current with
  | some _ => none
  | none => (firstBy (fun c => c.readyAt) (st.readyOn cid)).map fun c => st.modCore cid fun k => { k with current := some c.key }

/-- May a `READY` context issue in this cycle: not held in it, and its access accepted (R111, R112)? -/
def Ctx.unheld (c : Ctx) : Bool := !c.held && c.pend == none

/-- The current context of a core, or the one that becomes current (R399). -/
def State.currentOn (st : State) (cid : Nat) : Option Ctx :=
  match (st.core cid).current with
  | some k => (st.ctx k).filter fun c => c.cur == cid && st.isReady c
  | none => firstBy (fun c => c.readyAt) (st.readyOn cid)

/-- The context that a core issues from: its current one, or, while that is held, the one that has waited longest since it last issued (R399). -/
def State.issuerOn (st : State) (cid : Nat) : Option Ctx :=
  match (st.currentOn cid).filter Ctx.unheld with
  | some c => some c
  | none => firstBy (fun x => x.issuedAt) ((st.readyOn cid).filter Ctx.unheld)

/-- A woken context whose turn has come leaves its wait (R28, R133); one that is `READY` is as it was. -/
def State.rouse (st : State) (c : Ctx) : State × Ctx :=
  if c.st == .parked then let c := { c with st := .ready }; (st.setCtx c, c) else (st, c)

/-- What fetching gives. -/
inductive Fetched where
  | words (st : State) (l : List W32)
  | miss (va : Nat)
  | bad (va : Nat)
  | poison (st : State) (va : Nat)
  | peer (va line : Nat)
deriving DecidableEq, Repr

/-- Reads one instruction word through the instruction cache of a core: a line that is not there is read at the home slice, marks included
(R213, R269, R372). -/
def State.fetchLine (st : State) (cid pa : Nat) : State × BitVec 1024 × Bool :=
  match (st.core cid).icache.find? fun p => p.1 == pa / 128 with
  | some p => (st, p.2.1, lineBad p.2.2 (pa % 128) 4)
  | none =>
    let line := pa / 128
    let r := st.sRead (128 * line) 128
    let data := BitVec.ofNat 1024 r.2.1
    let marks := r.1.sMarks line
    (r.1.modCore cid fun k => { k with icache := ((line, data, marks) :: k.icache).take 512 }, data, lineBad marks (pa % 128) 4)

/-- Fetches the words of the group at an address: its `ext` words, at most three, and the word after them (R91). A fourth `ext` word is taken as
the word after them, and a word that cannot be fetched comes before any defect of an earlier one (DESIGN CHOICE, log 103). -/
def State.fetchGroup (c : Ctx) : Nat → State → BitVec 57 → List W32 → Fetched
  | 0, st, _, acc => .words st acc
  | n + 1, st, pc, acc =>
    match st.translate c pc.toNat .fetch with
    | .miss => .miss pc.toNat
    | .bad => .bad pc.toNat
    | .at pa =>
      -- the device registers hold no code (DEDUCED, log 25)
      if paSpace pa == 3 then .bad pc.toNat
      else if !st.lineHere pa 0 then .peer pc.toNat (pa / 128)
      else
        let (st, line, bad) := st.fetchLine c.cur pa
        if bad then .poison st (pc.toNat / 8 * 8)
        else
          let w : W32 := BitVec.ofNat 32 (lineGet line (pa % 128) 4)
          if isExtWord w then State.fetchGroup c n st (pc + 4) (acc ++ [w]) else .words st (acc ++ [w])

/-- Is an instruction an explicit yield point, `tend` or `commit`, which the yield interval does not refuse (R35, R36)? -/
def endsInterval : Instr → Bool
  | .yield .. => true
  | .bwait .. => true
  | .fewait .. => true
  | .cpwait .. => true
  | .tend .. => true
  | .commit .. => true
  | _ => false

/-- Is a target word an explicit yield point, `tend` or `commit` (R36, R96)? One whose own fields are illegal is no such instruction (DESIGN CHOICE,
log 103). -/
def freeWord (w : W32) : Bool :=
  match decodeWords [w] with
  | .ok (i, _) => endsInterval i
  | .error _ => false

/-- How many words of a context's group there are up to the one at an address, or up to the first in the 8-byte word at an address. -/
def Ctx.wordsTo (c : Ctx) (va : Nat) : Nat := if va < c.pc.toNat && c.pc.toNat < va + 8 then 1 else (va + 2 ^ 57 - c.pc.toNat) % 2 ^ 57 / 4 + 1

/-- A group with a word that cannot be fetched, `n` words up to that one, faults; where those words do not fit into the yield interval,
`WATCHDOG` comes first (R36, R41, R96). No target word is known, so `XVAL` then holds 0 (DESIGN CHOICE, log 58). -/
def State.stopFetch (st : State) (c : Ctx) (n : Nat) (fault : State) : State :=
  if c.limit < c.used + n then st.setCtx { c with due := some (.watchdog 0) } else fault

/-- Issues an illegal group (R97): `ILLEGAL` with its detail and the word that gives it. The yield interval refuses it first unless its
target word is one that R36 exempts (R96). -/
def issueIllegal (n : Nat) (w : W32) (detail : Nat) (x : W32) (st : State) : Out :=
  issueWords (freeWord w) n w awaitCheck (fun _ _ => .fault 0x01 detail (some (x.zeroExtend 64))) st

/-- Takes what a context has due before it issues again: the fault `WATCHDOG` (R36), or the trap of a broken barrier (R222). -/
def State.takeDue (st : State) (c : Ctx) : State :=
  match c.due with
  | some (.watchdog w) => st.programFault { c with due := none } 0x10 0 c.pc (w.zeroExtend 64)
  | some (.broken a) => st.takeTrap { c with due := none } 0x1A 0 a c.parkPc c.pc
  | none => st

end Sys2Proof.Machine
end

