-- ==== Sys2Proof/Machine/Windows.lean ====
section
/-! DEFINITION. Operand and window descriptors, and the local ranges of engine and matrix commands that R187 orders (R19, R20, R170,
R175, R178, R179, R187). -/

namespace Sys2Proof.Machine

/-- `BASE` of an operand descriptor (R19). -/
def odBase (o : BitVec 128) : Nat := bits o.toNat 0 19
/-- `PITCH`. -/
def odPitch (o : BitVec 128) : Nat := bits o.toNat 20 16
/-- `ROWS`. -/
def odRows (o : BitVec 128) : Nat := bits o.toNat 36 12
/-- `KB`. -/
def odKB (o : BitVec 128) : Nat := bits o.toNat 48 16
/-- `FMT`. -/
def odFmt (o : BitVec 128) : Nat := bits o.toNat 64 4
/-- `SCV`. -/
def odScv (o : BitVec 128) : Bool := bit o.toNat 68
/-- `SCALE`. -/
def odScale (o : BitVec 128) : Nat := bits o.toNat 69 19

/-- `ROWB` of a window descriptor (R20). -/
def wRow (m : W64) : Nat := bits m.toNat 0 11
/-- `COLB`. -/
def wCol (m : W64) : Nat := bits m.toNat 11 7
/-- `NROW`. -/
def wRows (m : W64) : Nat := bits m.toNat 18 6
/-- `NCOL`. -/
def wCols (m : W64) : Nat := bits m.toNat 24 6
/-- `FMT`. -/
def wFmt (m : W64) : Nat := bits m.toNat 30 4
/-- `CKV`. -/
def wCkv (m : W64) : Bool := bit m.toNat 34

/-- Bytes of an element that an `mst` form writes: 0 plain, 1 BF16, 2 TD8 (R179). -/
def mstBytes (form : Nat) : Nat :=
  match form with
  | 0 => 4
  | 1 => 2
  | _ => 1

/-- The local ranges that a matrix command has still to read, from K-step `n` on (R175, R178). -/
def MOp.reads (n : Nat) : MOp → List (Nat × Nat)
  | .mma md oa ob idx _ =>
    let k := min (odKB oa) (odKB ob)
    if k ≤ 64 * n then []
    else
      idx.map (fun x => (odBase oa + x * odPitch oa + 64 * n, k - 64 * n)) ++
      (List.range (wCols md)).map (fun j => (odBase ob + j * odPitch ob + 64 * n, k - 64 * n)) ++
      (if odScv oa then idx.map fun x => (odScale oa + 4 * x, 4) else []) ++
      (if odScv ob then (List.range (wCols md)).map fun j => (odScale ob + 4 * j, 4) else [])
  | .mld md sa => [(sa, 4 * wRows md * wCols md)]
  | _ => []

/-- The local ranges that a matrix command writes (R179). -/
def MOp.writes : MOp → List (Nat × Nat)
  | .mst md sa form => [(sa, mstBytes form * wRows md * wCols md)]
  | _ => []

/-- The K-step from which on a command in the unit has still to read its operands: that of the next K-pair while the messages of one are held
(R191, R193). -/
def Running.unread (r : Running) : Nat := if r.ops.isSome then r.n + 1 else r.n

/-- Do two lists of ranges overlap? -/
def rangesMeet (a b : List (Nat × Nat)) : Bool := a.any fun x => b.any fun y => overlaps x.1 x.2 y.1 y.2

/-- Does a range overlap one that a matrix command of a core still has to read (R187)? -/
def State.matrixReads (st : State) (cid : Nat) (l : List (Nat × Nat)) : Bool :=
  (st.core cid).mq.any (fun m => rangesMeet (m.op.reads 0) l) ||
    (match (st.cluster (clusterOf cid)).running with
      | some r => coreInCluster cid == r.c && rangesMeet (r.cmd.op.reads r.unread) l
      | none => false)

/-- The local ranges of a shape's elements from `n` on. -/
def Shape.ranges (h : Shape) (n : Nat) : List (Nat × Nat) :=
  if h.space == 0 then ((List.range h.count).drop n).map fun i => (h.addr i, h.bytes) else []

/-- An engine or matrix command's place in the issue order of its core with the local ranges that it still has to read and write. -/
structure Claimed where
  id : Nat
  reads : List (Nat × Nat)
  writes : List (Nat × Nat)

/-- Must a command wait for an earlier one (R187)? -/
def Claimed.after (y x : Claimed) : Bool :=
  decide (x.id < y.id) && (rangesMeet x.writes y.reads || rangesMeet x.reads y.writes || rangesMeet x.writes y.writes)

/-- Does a copy write the local memory of its issuing core: a `cpy`, or a `cpyx` that names that core (R228)? -/
def Copy.writesHome (x : Copy) : Bool := x.xpkg.isNone && (x.xcid.getD x.cid) == x.cid

/-- What a copy has still to do in the local memory of its issuing core. -/
def Copy.claims (x : Copy) : Claimed :=
  if x.status.isSome then ⟨x.id, [], []⟩
  else ⟨x.id, x.src.ranges x.next, if x.writesHome then x.dst.ranges x.next else []⟩

/-- What a matrix command has still to do in its core's local memory. -/
def MCmd.claims (m : MCmd) (n : Nat) : Claimed := ⟨m.id, m.op.reads n, m.op.writes⟩

/-- What the push slots of a core's contexts have still to write into its local memory, each strip in
its push's place (DEDUCED, log 26). -/
def State.pushClaims (st : State) (cid : Nat) : List Claimed :=
  ((st.ctxs.map Prod.snd).filter fun c => c.start == cid).flatMap fun c =>
    (c.slots.filter fun x => x.push && x.shape.space == 0).flatMap fun x =>
      x.staged.map fun p => ⟨p.2.id, [], (x.shape.strip p.1).map fun q => (q.1, x.shape.bytes)⟩

/-- What the pop slots of a core's contexts have still to read from its local memory, in the place of their binding (R159, R187, R307). -/
def State.popClaims (st : State) (cid : Nat) : List Claimed :=
  ((st.ctxs.map Prod.snd).filter fun c => c.start == cid).flatMap fun c =>
    (c.slots.filter fun x => !x.push && x.shape.space == 0).map fun x =>
      ⟨x.id, x.shape.ranges (x.req * (2048 / tagWidth x.shape.fmt)), []⟩

/-- The engine and matrix commands of a core (R187). -/
def State.engineClaims (st : State) (cid : Nat) : List Claimed :=
  (st.copies.filter fun x => x.cid == cid).map Copy.claims ++ (st.core cid).mq.map (fun m => m.claims 0) ++
    (match (st.cluster (clusterOf cid)).running with
      | some r => if coreInCluster cid == r.c then [r.cmd.claims r.unread] else []
      | none => []) ++ st.pushClaims cid ++ st.popClaims cid

/-- May a command of a core be performed, every earlier command that it overlaps being done (R187)? -/
def State.unordered (st : State) (cid : Nat) (y : Claimed) : Bool := (st.engineClaims cid).all fun x => !y.after x

end Sys2Proof.Machine
end

