-- ==== Sys2Proof/Machine/Local.lean ====
section
/-! DEFINITION. Scalar loads and stores of local memory, and of another core's (R131 to R137). -/

namespace Sys2Proof.Machine

/-- Checks in order: the first condition that holds faults (R41). Each is a condition, a cause and its `XVAL`, without which the fault
record holds the instruction word (R43). -/
def checked : List (Bool × Nat × Option W64) → Eff → Eff
  | [], e => e
  | (b, code, x) :: l, e => if b then .fault code 0 x else checked l e

/-- An address as `XVAL`. -/
def addrVal (a : Nat) : Option W64 := some (BitVec.ofNat 64 a)

/-- May a context not write local bytes: another held lease, or the completion ring (R39, R232)? -/
def Core.guarded (k : Core) (uid a n : Nat) : Bool := k.leased uid a n || overlaps a n Config.ringBase 0x2000

/-- Does an access of `n` bytes leave local memory (R132)? -/
def beyondLocal (a n : Nat) : Bool := decide (Config.localBytes < a + n)

/-- `ldl` (R132, R133): mode 1 zero-extends, mode 2 waits for a full granule, mode 3 empties it too. -/
def execLdl (e : List Ext) (d a : R5) (s m : BitVec 2) (o : BitVec 11) (st : State) : Out :=
  issue e (wordOf (.ldl e d a s m o)) (blocks [d.toNat, a.toNat] []) (fun st c =>
    let n := sizeBytes s
    let x := effAddr c e a o n
    let k := st.core c.start
    checked [(c.heavy && m == 3 && !c.owns x n, 0x08, none), (x % n != 0, 0x05, addrVal x), (beyondLocal x n, 0x06, none)]
      (localAccess st c
        (if 2 ≤ m.toNat && !k.granulesAre [x / 16] true then .park st c (.granules [x / 16] true)
         else if k.poisoned x n then .poison st (x / 8 * 8)
         else
           .done (if m == 3 then st.setGranules c.start [x / 16] false else st)
             (c.wr d (extendLoad n (m == 1) (k.lm.readN x n)))))) st

/-- `stl` (R132, R133): mode 1 waits for an empty granule and fills it. A store over bytes that a matrix command has still to read is
held (R187). -/
def execStl (e : List Ext) (d a : R5) (s m : BitVec 2) (o : BitVec 11) (st : State) : Out :=
  issue e (wordOf (.stl e d a s m o)) (blocks [d.toNat, a.toNat] []) (fun st c =>
    let n := sizeBytes s
    let x := effAddr c e a o n
    let k := st.core c.start
    checked [(c.heavy && !c.owns x n, 0x08, none), (x % n != 0, 0x05, addrVal x), (beyondLocal x n, 0x06, none),
        (k.guarded c.uid x n, 0x09, none), (k.tagged x n, 0x0C, none)]
      (localAccess st c
        (if m == 1 && !k.granulesAre [x / 16] false then .park st c (.granules [x / 16] false)
         else if st.matrixReads c.start [(x, n)] then .held st c
         else
           let st := st.modCore c.start fun k => k.write x (bytesOf n (c.rs d).toNat)
           .done (if m == 1 then st.setGranules c.start [x / 16] true else st) c))) st

/-- Sends a request to another core's bank; the context waits for it to be accepted (R112, R136, R220). A context that may not retire
the instruction in its interval sends none (R36). -/
def sendRemote (st : State) (c : Ctx) (words : Nat) (r : Remote) : Eff :=
  if c.limit < c.used + words then .done st c
  else .held { st with remotes := st.remotes ++ [{ r with id := st.stamp }], stamp := st.stamp + 1 } { c with pend := some st.stamp }

/-- Does a register value not name a core (R136)? -/
def noUnit (v : W64) : Bool := decide (4096 ≤ v.toNat) || !validCid v.toNat

/-- `ldx` (R136): on its own core it acts as `ldl`. -/
def execLdx (e : List Ext) (d a b : R5) (m s : BitVec 2) (st : State) : Out :=
  issue e (wordOf (.ldx e d a b m s)) (blocks [d.toNat, a.toNat, b.toNat] []) (fun st c =>
    let n := sizeBytes s
    let x := (c.rs b).toNat
    let t := (c.rs a).toNat
    checked [(noUnit (c.rs a), 0x07, none), (x % n != 0, 0x05, addrVal x), (beyondLocal x n, 0x06, none)]
      (afterAcquires st c
        (if t == c.start then
          if (st.core t).poisoned x n then .poison st (x / 8 * 8)
          else atBank (.done st (c.wr d (extendLoad n (m == 1) ((st.core t).lm.readN x n))))
         else sendRemote st c (groupWords e)
           { id := 0, uid := c.uid, key := c.key, cid := t, addr := x, size := n, kind := 0, val := 0, sx := m != 1, d := d.toNat,
             words := groupWords e, xval := wordOf (.ldx e d a b m s) }))) st

/-- `stx` (R136): on its own core it acts as `stl`. -/
def execStx (e : List Ext) (d a b : R5) (s : BitVec 2) (st : State) : Out :=
  issue e (wordOf (.stx e d a b s)) (blocks [d.toNat, a.toNat, b.toNat] []) (fun st c =>
    let n := sizeBytes s
    let x := (c.rs b).toNat
    let t := (c.rs a).toNat
    checked [(c.heavy, 0x08, none), (noUnit (c.rs a), 0x07, none), (x % n != 0, 0x05, addrVal x), (beyondLocal x n, 0x06, none)]
      (if t == c.start then
        checked [((st.core t).guarded c.uid x n, 0x09, none), ((st.core t).tagged x n, 0x0C, none)]
          (localAccess st c
            (if st.matrixReads t [(x, n)] then .held st c
             else .done (st.modCore t fun k => k.write x (bytesOf n (c.rs d).toNat)) c))
       else afterAcquires st c (sendRemote st c (groupWords e)
         { id := 0, uid := c.uid, key := c.key, cid := t, addr := x, size := n, kind := 1, val := (c.rs d).toNat % 2 ^ (8 * n), sx := false,
           d := 0, words := groupWords e, xval := wordOf (.stx e d a b s) }))) st

end Sys2Proof.Machine
end

