-- ==== Sys2Proof/Machine/Global.lean ====
section
/-! DEFINITION. Accesses to global memory: their acceptance, and the scalar forms (R135, R199, R294, R295). -/

namespace Sys2Proof.Machine

/-- The migration predictor after an access to a line of global memory (R295). -/
def Ctx.predict (c : Ctx) (remote : Option Nat) (own : Bool) : Ctx :=
  match remote with
  | some h => if c.predH == some h then { c with predC := min (c.predC + 1) 31 } else { c with predC := 1, predH := some h }
  | none => if own then { c with predC := 0 } else c

/-- The elements of an access by line, lines in the order in which they are first met (R294). -/
def lineGroups (l : List Elem) : List (List Elem) :=
  let lines := l.foldl (fun (acc : List Nat) x => if acc.contains (x.pa / 128) then acc else acc ++ [x.pa / 128]) []
  lines.map fun n => l.filter fun x => x.pa / 128 == n

/-- The elements of a gather or a scatter: by lane group, and within one by line (R9, R294). -/
def laneGroups (l : List Elem) : List (List Elem) := (List.range 4).flatMap fun g => lineGroups (l.filter fun x => x.lane / 16 == g)

/-- Accepts an access: one request per group of elements, which is performed later (R112, R294). -/
def State.acceptGroups (st : State) (c : Ctx) (op : AccOp) (groups : List (List Elem)) (o : MemOrd) (d : Dest) (sx : Bool) : State × Ctx :=
  groups.foldl (fun p l =>
    let a : Access :=
      { id := p.1.stamp, grp := st.stamp, uid := c.uid, key := c.key, launch := c.launch, net := c.net, tenant := c.tenant, cid := c.cur,
        op := op, elems := l, ord := o, dest := d, sx := sx, answer := none, sent := false }
    ({ p.1 with accs := p.1.accs ++ [a], stamp := p.1.stamp + 1 },
     p.2.predict ((l.head?).bind fun x => p.1.travels a x.pa) (p.1.ownCache a))) (st, c)

/-- Accepts an access with one request per line (R294). -/
def State.accept (st : State) (c : Ctx) (op : AccOp) (elems : List Elem) (o : MemOrd) (d : Dest) (sx : Bool) : State × Ctx :=
  st.acceptGroups c op (lineGroups elems) o d sx

/-- Accepted requests as an effect: the instruction completes, and its register awaits the answers (R111). -/
def acceptAll (st : State) (c : Ctx) (op : AccOp) (groups : List (List Elem)) (o : MemOrd) (d : Dest) (sx : Bool) : Eff :=
  let r := st.acceptGroups c op groups o d sx
  .done r.1 r.2

/-- An accepted access as an effect, with one request per line (R294). -/
def acceptAs (st : State) (c : Ctx) (op : AccOp) (elems : List Elem) (o : MemOrd) (d : Dest) (sx : Bool) : Eff :=
  acceptAll st c op (lineGroups elems) o d sx

/-- `ldg` (R135). -/
def execLdg (e : List Ext) (d a : R5) (s m : BitVec 2) (o : BitVec 11) (st : State) : Out :=
  issue e (wordOf (.ldg e d a s m o)) (blocks [d.toNat, a.toNat] []) (fun st c =>
    let n := sizeBytes s
    let x := effAddr c e a o n
    checked [(x % n != 0, 0x05, addrVal x)]
      (withXlate st c .read [x] fun pas =>
        acceptAs st c .load (pas.map fun pa => ⟨pa, x, n, 0, 0⟩) (memOrd e) (.sreg d.toNat) (m != 1))) st

/-- `stg` (R135). -/
def execStg (e : List Ext) (d a : R5) (s : BitVec 2) (o : BitVec 11) (st : State) : Out :=
  issue e (wordOf (.stg e d a s o)) (blocks [d.toNat, a.toNat] []) (fun st c =>
    let n := sizeBytes s
    let x := effAddr c e a o n
    checked [(c.heavy, 0x08, none), (x % n != 0, 0x05, addrVal x)]
      (withXlate st c .write [x] fun pas =>
        acceptAs st c .store (pas.map fun pa => ⟨pa, x, n, (c.rs d).toNat % 2 ^ (8 * n), 0⟩) (memOrd e) .none false)) st

end Sys2Proof.Machine
end

