-- ==== Sys2Proof/Machine/Control.lean ====
section
/-! DEFINITION. Branches, jumps and CSR access (R23 to R26, R124 to R130). -/

namespace Sys2Proof.Machine

/-! ## Branches and jumps (R124 to R127) -/

/-- The address `n` words from a word of the program, modulo 2^57 (R124, R127). -/
def wordsOn (p : BitVec 57) (n : W64) : BitVec 57 := p + (n <<< 2).setWidth 57

/-- A branch, taken when `t` holds of its sources (R124). -/
def branch (i : Instr) (e : List Ext) (x y : R5) (o : BitVec 15) (t : W64 → W64 → Bool) : State → Out :=
  issue e (wordOf i) (blocks [x.toNat, y.toNat] []) fun st c =>
    if t (c.rs x) (c.rs y) then .jump st c (wordsOn (c.wordPc e) (wideImm o e)) else .done st c

def execBeq (e : List Ext) (x y : R5) (o : BitVec 15) (st : State) : Out := branch (.beq e x y o) e x y o (fun a b => a == b) st
def execBne (e : List Ext) (x y : R5) (o : BitVec 15) (st : State) : Out := branch (.bne e x y o) e x y o (fun a b => a != b) st
def execBlt (e : List Ext) (x y : R5) (o : BitVec 15) (st : State) : Out := branch (.blt e x y o) e x y o (fun a b => a.slt b) st
def execBge (e : List Ext) (x y : R5) (o : BitVec 15) (st : State) : Out := branch (.bge e x y o) e x y o (fun a b => !a.slt b) st
def execBltz (e : List Ext) (x y : R5) (o : BitVec 15) (st : State) : Out := branch (.bltz e x y o) e x y o (fun a b => a.ult b) st
def execBgez (e : List Ext) (x y : R5) (o : BitVec 15) (st : State) : Out := branch (.bgez e x y o) e x y o (fun a b => !a.ult b) st

/-- `jmp` (R125). -/
def execJmp (e : List Ext) (o : BitVec 25) (st : State) : Out :=
  issue e (wordOf (.jmp e o)) (blocks [] []) (fun st c => .jump st c (wordsOn (c.wordPc e) (o.signExtend 64))) st

/-- `jal`: links in `s31` (R125). -/
def execJal (e : List Ext) (o : BitVec 25) (st : State) : Out :=
  issue e (wordOf (.jal e o)) (blocks [31] []) (fun st c =>
    .jump st (c.setS 31 ((c.wordPc e + 4).zeroExtend 64)) (wordsOn (c.wordPc e) (o.signExtend 64))) st

/-- The jump to a register's value: a misaligned target faults `ALIGN`, one above 2^57 `XLATE` (R126). -/
def jumpTo (st : State) (c : Ctx) (t : W64) (link : Ctx → Ctx) : Eff :=
  if t.toNat % 4 != 0 then .fault 0x05 0 (some t)
  else if 2 ^ 57 ≤ t.toNat then .fault 0x0A 0 (some t)
  else .jump st (link c) (t.setWidth 57)

/-- `jr` (R126). -/
def execJr (e : List Ext) (a : R5) (st : State) : Out :=
  issue e (wordOf (.jr e a)) (blocks [a.toNat] []) (fun st c => jumpTo st c (c.rs a) id) st

/-- `jalr`: the target is read before the link is written (R126). -/
def execJalr (e : List Ext) (d a : R5) (st : State) : Out :=
  issue e (wordOf (.jalr e d a)) (blocks [d.toNat, a.toNat] []) (fun st c =>
    jumpTo st c (c.rs a) fun x => x.wr d ((c.wordPc e + 4).zeroExtend 64)) st

/-! ## Reading a CSR (R23 to R26, R129) -/

/-- `INJCTL` (R26). -/
def MemCfg.injctl (m : MemCfg) : Nat := m.injKind + b2n m.injArm * 4 + b2n m.injFired * 8

/-- `PEERERR`: the lowest flagged peer, whether one is flagged, and how many (R25). -/
def Fabric.peerErr (f : Fabric) : Nat := f.peers.headD 0 + b2n (!f.peers.isEmpty) * 2 ^ 9 + f.peers.length * 2 ^ 16

/-- What a CSR reads for a context, `words` words into its yield interval; none where the number is unassigned (R23 to R26). -/
def State.readCsr (st : State) (c : Ctx) (words n : Nat) : Option W64 :=
  match n with
  | 0x000 => some c.xpc
  | 0x001 => some c.xcause
  | 0x002 => some c.xval
  | 0x003 => some (BitVec.ofNat 64 (b2n c.intrap + b2n c.psup * 2))
  | 0x004 => some c.xhand
  | 0x010 => some (BitVec.ofNat 64 (c.slot + c.foot * 2 ^ 6 + b2n c.heavy * 2 ^ 8 + b2n c.sup * 2 ^ 9 + b2n c.backup * 2 ^ 10 +
      b2n c.migr * 2 ^ 11))
  | 0x011 => some (BitVec.ofNat 64 (c.chan + c.prio * 2 ^ 4 + b2n c.pairClass * 2 ^ 7 + c.mseq % 2 ^ 32 * 2 ^ 32))
  | 0x012 => some (BitVec.ofNat 64 (c.cur + st.pkg * 2 ^ 12))
  | 0x013 => some (BitVec.ofNat 64 (c.tenant % 256))
  | 0x014 => some (BitVec.ofNat 64 (c.tclass + b2n c.heavy * 2 ^ 6))
  | 0x015 => some (BitVec.ofNat 64 (c.leaseBase + c.leaseSize * 2 ^ 20 + b2n c.leaseV * 2 ^ 63))
  | 0x020 => some (BitVec.ofNat 64 c.rwc)
  | 0x021 => some (BitVec.ofNat 64 (c.limit + (c.used + words) * 2 ^ 16))
  | 0x022 => some (BitVec.ofNat 64 c.waitlim)
  | 0x023 => some (c.fpflags.zeroExtend 64)
  | 0x024 => some (BitVec.ofNat 64 c.fmttrap)
  | 0x030 => some (BitVec.ofNat 64 (st.cyclesOf c.start - (st.core c.start).born))
  | 0x031 => some (BitVec.ofNat 64 st.fab.peerErr)
  | 0x800 => some (BitVec.ofNat 64 (st.layer (layerOf c.cur)).droopTh)
  | 0x801 => some (BitVec.ofNat 64 (st.layer (layerOf c.cur)).drStretch)
  | 0x802 => some (BitVec.ofNat 64 (st.layer (layerOf c.cur)).drHalve)
  | 0x810 => some (BitVec.ofNat 64 st.cfg.injAddr)
  | 0x811 => some (BitVec.ofNat 64 st.cfg.injctl)
  | _ => none

/-- Is a CSR writable (R23)? -/
def csrWritable (n : Nat) : Bool :=
  match n with
  | 0x000 => true
  | 0x001 => true
  | 0x002 => true
  | 0x004 => true
  | 0x022 => true
  | 0x023 => true
  | 0x800 => true
  | 0x801 => true
  | 0x802 => true
  | 0x810 => true
  | 0x811 => true
  | _ => false

/-! ## Writing a CSR (R25, R26, R128, R375) -/

/-- A number clamped to a range. -/
def clamp (lo hi x : Nat) : Nat := if x < lo then lo else if hi < x then hi else x

/-- Writes `INJCTL`: `ARM` takes effect only with a kind and an existing address of this package's own near DRAM or far tier (R375);
`clear` clears `FIRED`. -/
def State.writeInjctl (st : State) (v : Nat) (clear : Bool) : State :=
  let a := st.cfg.injAddr
  let own := paSpace a < 2 && paPkg a == st.pkg && !st.nonexistent a
  { st with cfg := { st.cfg with
      injKind := v % 4, injArm := bit v 2 && v % 4 != 0 && own, injFired := st.cfg.injFired && !clear } }

/-- Writes a CSR (R128); `clear` tells that the value from `sa` has a 1 in a field marked RW1C and the form is not `csrc`. -/
def State.writeCsr (st : State) (c : Ctx) (n : Nat) (v : W64) (clear : Bool) : State × Ctx :=
  match n with
  | 0x000 => (st, { c with xpc := v &&& 0x01FFFFFFFFFFFFFC#64 })
  | 0x001 => (st, { c with xcause := v &&& 0xFFFF07FF#64 })
  | 0x002 => (st, { c with xval := v })
  | 0x004 => (st, { c with xhand := v &&& 0x01FFFFFFFFFFFFFC#64 })
  | 0x022 => (st, { c with waitlim := clamp 1024 (if c.sup then 2 ^ 32 - 1 else 2 ^ 24) (v.toNat % 2 ^ 32) })
  | 0x023 => (st, { c with fpflags := v.setWidth 6 })
  | 0x800 => (st.modLayer (layerOf c.cur) fun l => { l with droopTh := clamp 10 200 (v.toNat % 2 ^ 10) }, c)
  | 0x801 => (st.modLayer (layerOf c.cur) fun l => { l with drStretch := clamp 1 255 (v.toNat % 2 ^ 8) }, c)
  | 0x802 => (st.modLayer (layerOf c.cur) fun l => { l with drHalve := v.toNat % 2 ^ 16 }, c)
  | 0x810 => ({ st with cfg := { st.cfg with injAddr := v.toNat % 2 ^ 56 } }, c)
  | 0x811 => (st.writeInjctl (v.toNat % 8) clear, c)
  | _ => (st, c)

/-- Reads a CSR for an instruction after the checks of R23: an unassigned number, a write of a read-only one, then the level (R41). -/
def withCsr (st : State) (c : Ctx) (words n : Nat) (write : Bool) (go : W64 → Eff) : Eff :=
  match st.readCsr c words n with
  | none => .fault 0x01 7 none
  | some old => if write && !csrWritable n then .fault 0x01 7 none else if 0x800 ≤ n && !c.sup then .fault 0x03 0 none else go old

/-- Is a CSR one of the registers that a layer holds once, at a distance from its cores (R130)? -/
def csrOfLayer (n : Nat) : Bool := n == 0x800 || n == 0x801 || n == 0x802

/-- A write form: the new value from the old one and `sa` (R128). -/
def csrWrite (i : Instr) (e : List Ext) (a : R5) (n : BitVec 12) (clears : Bool) (f : W64 → W64 → W64) : State → Out :=
  issue e (wordOf i) (blocks [a.toNat] []) fun st c =>
    withCsr st c (groupWords e) n.toNat true fun old =>
      let r := st.writeCsr c n.toNat (f old (c.rs a)) (clears && (c.rs a).getLsbD 3)
      .done r.1 r.2

/-- `csrs` and `csrc`: on a layer's register the read comes first, with the context held until the write follows, and another core's write
may arrive in between (R130; two steps are a DESIGN CHOICE, log 81). -/
def csrUpdate (i : Instr) (e : List Ext) (a : R5) (n : BitVec 12) (clears : Bool) (f : W64 → W64 → W64) : State → Out :=
  if !csrOfLayer n.toNat then csrWrite i e a n clears f
  else issue e (wordOf i) (blocks [a.toNat] []) fun st c =>
    withCsr st c (groupWords e) n.toNat true fun now =>
      match c.csrOld with
      | none => .held st { c with csrOld := some now }
      | some old =>
        let r := st.writeCsr { c with csrOld := none } n.toNat (f old (c.rs a)) false
        .done r.1 r.2

/-- `csrr` (R128). -/
def execCsrr (e : List Ext) (d : R5) (c : BitVec 12) (st : State) : Out :=
  issue e (wordOf (.csrr e d c)) (blocks [d.toNat] []) (fun st x =>
    withCsr st x (groupWords e) c.toNat false fun old => .done st (x.wr d old)) st
def execCsrw (e : List Ext) (a : R5) (c : BitVec 12) (st : State) : Out := csrWrite (.csrw e a c) e a c true (fun _ v => v) st
def execCsrs (e : List Ext) (a : R5) (c : BitVec 12) (st : State) : Out := csrUpdate (.csrs e a c) e a c true (fun o v => o ||| v) st
def execCsrc (e : List Ext) (a : R5) (c : BitVec 12) (st : State) : Out :=
  csrUpdate (.csrc e a c) e a c false (fun o v => o &&& ~~~v) st

end Sys2Proof.Machine
end

