-- ==== Sys2Proof/Machine/Registers.lean ====
section
/-! DEFINITION. Reading the device registers (R171, R287, R289, R309, R316, R351, R356, R359, R360, R362, R364, R366). -/

namespace Sys2Proof.Machine

/-! ## Numbering of R359 -/

/-- The bits of `MXSTAT.CLAIM`: cores that hold a claimed block (R171). The row-blocks of core `c` begin after those of the cores
before it (R170). -/
def Cluster.baseBlock (g : Cluster) (c : Nat) : Nat := ((g.part.toList).take c).sum

/-- `MXSTAT.CLAIM` (R171). -/
def Cluster.claimBits (g : Cluster) : Nat :=
  ((List.range 8).map fun c =>
    b2n (g.claims.any fun p => g.baseBlock c ≤ p.1 / 4 && p.1 / 4 < g.baseBlock (c + 1)) * 2 ^ c).sum

/-- Eight 4-bit fields as a number (R171). -/
def packNibbles (l : List Nat) : Nat := (l.foldr (fun x acc => x % 16 + acc * 16) 0)

/-- Does a cluster hold a power token (R385)? -/
def Cluster.token (g : Cluster) : Bool := !g.admitted.isEmpty

/-- A cluster on which a launch has an `mma` now: the launch is not idle on it (R385). -/
def Cluster.touched (g : Cluster) (l : Nat) : Cluster :=
  { g with admitted := if (g.admitted.find l).isSome then g.admitted.put l 0 else g.admitted }

/-- Is the layer in a cycle in which its cores issue: in halved issue only the odd ones, counted from 1 (R388)? A phase that has run out is
left first. -/
def Layer.issues (y : Layer) : Bool :=
  match y.droop with
  | .normal => true
  | .stretch n _ _ => n != 0
  | .halved run left => left != 0 && run % 2 == 0

/-- `MXSTAT` of cluster `n` (R171). -/
def State.mxstat (st : State) (n : Nat) : Nat :=
  let g := st.cluster n
  g.claimBits +
    ((List.range 8).map fun c => b2n (!(st.core (coreOf n c)).mq.isEmpty) * 2 ^ (8 + c)).sum +
    b2n g.rej * 2 ^ 16 + b2n g.token * 2 ^ 17 + b2n g.preempted * 2 ^ 18 + b2n g.preempt * 2 ^ 19

/-- Packets of one stamp that this package holds (R352). One that waits to be injected has no stamp yet. -/
def Fabric.counted (f : Fabric) (b : Bool) : Nat :=
  (f.kept.filter fun k => k.tries != 0 && k.pkt.bank == b).length + (f.basin.filter fun h => h.pkt.bank == b).length

/-- Bits of a set of numbers from `lo` on, 64 of them. -/
def setBits (s : NatSet) (lo n : Nat) : Nat :=
  (s.filter fun p => lo ≤ p && p < lo + n).foldl (fun acc p => acc + 2 ^ (p - lo)) 0

/-! ## Blocks -/

/-- `DEVID` (R360). -/
def State.readDevid (st : State) (o : Nat) : Nat :=
  match o with
  | 0x00 => 0x2048 + Config.stepping % 256 * 2 ^ 16
  | 0x08 => 1 + 1 * 2 ^ 4 + 1 * 2 ^ 8
  | 0x10 => st.fw.leader + b2n st.fw.vacant * 2 ^ 5 + st.fw.term % 2 ^ 32 * 2 ^ 32
  | _ => 0

/-- `OWNSTAT` (R366). -/
def Owner.stat (o : Owner) : Nat := o.owner + o.pend * 4 + o.denied % 2 ^ 16 * 2 ^ 16 + o.gen % 2 ^ 32 * 2 ^ 32

/-- `OWN` (R366). -/
def State.readOwn (st : State) (o : Nat) : Nat :=
  match o with
  | 0x00 => st.own.stat
  | 0x20 => st.own.timeout
  | _ => 0

/-- A mailbox (R364). -/
def Mailbox.readReg (b : Mailbox) (o : Nat) : Nat :=
  if o == 0 then b2n b.go + b2n b.done * 2
  else if 0x100 ≤ o && o < 0x200 then b.req.readN (o - 0x100) 8
  else if 0x200 ≤ o && o < 0x400 then b.resp.readN (o - 0x200) 8
  else 0

/-- A command stream (R309). -/
def Stream.readReg (s : Stream) (o : Nat) : Nat :=
  match o with
  | 0x00 => s.cqbase
  | 0x08 => s.log + b2n s.en * 2 ^ 4 + s.tenant * 2 ^ 5 + s.vmax * 2 ^ 13
  | 0x18 => s.next
  | 0x20 => s.crbase
  | 0x28 => s.crlog
  | 0x30 => s.head
  | 0x38 => s.tail
  | _ => 0

/-- A tenant entry (R316). -/
def Tenant.readReg (t : Tenant) (o : Nat) : Nat :=
  if o == 0 then t.pid + b2n t.en * 2 ^ 16 + b2n t.supok * 2 ^ 17 + t.hbudget * 2 ^ 18 + t.retain * 2 ^ 29 + b2n t.lmiso * 2 ^ 33 else 0

/-- `MEMCFG` (R287). -/
def MemCfg.readReg (m : MemCfg) (o : Nat) : Nat :=
  match o with
  | 0x00 => m.nearFree
  | 0x08 => m.farSize
  | 0x10 => m.farKind
  | 0x20 => m.ptBase + b2n m.ptEn
  | 0x28 => m.prqBase + m.prqLog
  | 0x30 => m.prqHead
  | 0x38 => m.prqTail
  | 0x40 => m.xlva
  | 0x50 => b2n m.busy.isSome + b2n m.prqFull * 2
  | _ => 0

/-- `TWCFG` (R356). -/
def State.readTw (st : State) (o : Nat) : Nat :=
  let f := st.fab
  match o with
  | 0x00 => setBits f.up 0 16 + setBits f.portFail 0 16 * 2 ^ 16 + f.bad * 2 ^ 32 + b2n f.rej * 2 ^ 40
  | 0x08 => st.podTime
  | 0x10 => f.win
  | 0x18 => f.retry
  | 0x20 => f.ato
  | 0x28 => f.rto
  | 0x30 => f.partner + b2n f.partnerV * 2 ^ 15
  | 0x38 => b2n f.cur + b2n f.next * 2 + b2n f.arm * 4 + b2n f.oldLive * 16 + f.armCycle * 2 ^ 16
  | 0x40 => f.counted false % 2 ^ 32 + f.counted true % 2 ^ 32 * 2 ^ 32
  | 0x48 => b2n f.validA + b2n f.validB * 2
  | 0x50 => 1 + f.neg * 2 ^ 4
  | _ => if 0x80 ≤ o && o < 0xC0 then setBits f.peers (8 * (o - 0x80)) 64 else 0

/-- `ICOAL` (R362). -/
def Stream.readIcoal (s : Stream) : Nat := s.icCount + s.icHold * 2 ^ 16 + s.unsig % 2 ^ 32 * 2 ^ 32

/-- A cluster block (R171). -/
def State.readCluster (st : State) (g o : Nat) : Nat :=
  match o with
  | 0x00 => packNibbles (st.cluster g).wgt.toList
  | 0x08 => packNibbles (st.cluster g).part.toList
  | 0x10 => st.mxstat g
  | _ => 0

/-- A core block; a CID that names no core reads zero (R289, R359). -/
def State.readCore (st : State) (c o : Nat) : Nat :=
  if !validCid c then 0
  else match o with
    | 0x00 => (st.core c).poolBase * 2 ^ 8 + b2n (st.core c).poolRej * 2 ^ 31
    | 0x08 => (st.core c).thresh + b2n (st.core c).onlyY * 2 ^ 8
    | _ => 0

/-- The pending-bit array as a number. -/
def State.pendingBits (st : State) : Nat := setBits st.host.pending 0 64

/-- The 8 bytes of device-register space at an offset that is a multiple of 8; offsets that R359 does not list read zero. -/
def State.readReg (st : State) (off : Nat) : Nat :=
  if off < 0x1000 then st.readDevid off
  else if off < 0x2000 then st.readOwn (off - 0x1000)
  else if off < 0x2C00 then ((st.mbox[(off - 0x2000) / 0x400]?).map fun b => b.readReg ((off - 0x2000) % 0x400)).getD 0
  else if 0x10000 ≤ off && off < 0x10400 then (st.stream ((off - 0x10000) / 64)).readReg ((off - 0x10000) % 64)
  else if 0x11000 ≤ off && off < 0x12000 then (st.tenant ((off - 0x11000) / 16)).readReg ((off - 0x11000) % 16)
  else if 0x12000 ≤ off && off < 0x13000 then st.cfg.readReg (off - 0x12000)
  else if 0x13000 ≤ off && off < 0x14000 then st.readTw (off - 0x13000)
  else if 0x14000 ≤ off && off < 0x14080 then (st.stream ((off - 0x14000) / 8)).readIcoal
  else if 0x15000 ≤ off && off < 0x16000 then (st.fab.bankA.getD ((off - 0x15000) / 8) 0).toNat
  else if 0x16000 ≤ off && off < 0x17000 then (st.fab.bankB.getD ((off - 0x16000) / 8) 0).toNat
  else if 0x100000 ≤ off && off < 0x100400 then st.host.msix.readN (off - 0x100000) 8
  else if off == 0x101000 then st.pendingBits
  else if 0x1000000 ≤ off && off < 0x1000000 + 64 * 336 then st.readCluster ((off - 0x1000000) / 64) ((off - 0x1000000) % 64)
  else if 0x2000000 ≤ off && off < 0x2000000 + 64 * 4096 then st.readCore ((off - 0x2000000) / 64) ((off - 0x2000000) % 64)
  else 0

/-- Some bytes of device-register space, lowest first. -/
def State.readRegBytes (st : State) : Nat → Nat → List Byte
  | _, 0 => []
  | off, n + 1 => BitVec.ofNat 8 (st.readReg (off / 8 * 8) / 2 ^ (8 * (off % 8))) :: st.readRegBytes (off + 1) n

end Sys2Proof.Machine
end

