-- ==== Sys2Proof/Machine/Records.lean ====
section
/-! DEFINITION. Shape records: how an instruction reads one, and what is rejected (R159, R225 to R227). -/

namespace Sys2Proof.Machine

/-! ## Reading as a plain `ldg` would (R269, R273) -/

/-- Must a new access of a context to a line wait for an earlier one: one to the same line, or an acquire (R273)? -/
def State.mustWait (st : State) (uid pa : Nat) : Bool :=
  st.accs.any (fun a => a.uid == uid && a.answer.isNone && (a.ord.ord == 2 || a.elems.any fun x => x.pa / 128 == pa / 128)) ||
    st.cores.any fun k => k.2.reds.any fun r => r.uid == uid && r.pa / 128 == pa / 128

/-- Has a context an accepted write that reaches S itself and has not been performed: an engine command that it issues afterwards sees it
(R280). -/
def State.unreached (st : State) (c : Ctx) : Bool :=
  st.accs.any fun a => a.uid == c.uid && a.answer.isNone && a.op != .load && a.op != .nld &&
    !(a.op == .store && a.elems.all fun x => match st.pointOf a.cid x.pa a.ord with
        | .homeCore _ => true
        | _ => false)

/-- Reads bytes of one line where a plain load of a context is performed: the value, and whether it is poisoned (R269). -/
def State.plainRead (st : State) (c : Ctx) (pa n : Nat) : State × Nat × Bool :=
  match st.pointOf c.cur pa ⟨0, 0, 0⟩ with
  | .homeCore h => st.hRead h pa n c.acqStamp
  | .register => (st, ofBytes (st.readRegBytes (paOff pa) n), false)
  | _ => st.sRead pa n

/-- The virtual address of the first poisoned word among `n` bytes of a line that a plain load of a context reads (R373). -/
def State.poisonedWord (st : State) (c : Ctx) (va pa n : Nat) : Nat :=
  8 * ((wordsTouched va n).find? fun w => (st.plainRead c (pa / 8 * 8 + (8 * w - va / 8 * 8)) 8).2.2).getD (va / 8)

/-- The migration predictor of a context after a plain read of a line within an instruction (R294, R295). -/
def State.predictRead (st : State) (c : Ctx) (pa : Nat) : Ctx :=
  c.predict (st.remoteTo c.cur pa) (decide (paSpace pa < 2) && st.home pa == c.cur)

/-- Reads `n` bytes of one line at a virtual address within an instruction, as `ldg` would, before it goes on with the bytes and with what
the access does to the predictor of a context that completes (R159, R227, R245, R252, R295). -/
def withBytes (st : State) (c : Ctx) (va n : Nat) (go : State → (Ctx → Ctx) → List Byte → Eff) : Eff :=
  withXlate st c .read [va] fun pas =>
    let pa := pas.headD 0
    if st.mustWait c.uid pa then .held st c
    else if !st.lineHere pa c.acqPod then .waits (st.requestLine (pa / 128) c.tenant) c
    else
      let r := st.plainRead c pa n
      if r.2.2 then .poison r.1 (st.poisonedWord c va pa n) else go r.1 (fun c => st.predictRead c pa) (bytesOf n r.2.1)

/-! ## Shape records (R225, R226) -/

/-- The shape of the 64 bytes of a record. -/
def shapeOf (b : List Byte) : Shape :=
  let x := ofBytes b
  { base := bits x 0 64, fmt := bits x 64 4, space := bits x 68 2, ver := bits x 96 32,
    dims := (List.range 4).map fun k => (bits x (128 + 64 * k) 32, signed 32 (bits x (160 + 64 * k) 32)), toff := bits x 384 32 }

/-- Is a reserved bit of a record set (R225)? -/
def shapeReserved (b : List Byte) : Bool :=
  let x := ofBytes b
  bits x 70 26 != 0 || bits x 416 96 != 0

/-- Lowest offset of an element of some dimensions. -/
def lowOffset (d : List (Nat × Int)) : Int := (d.map fun p => min 0 (((p.1 : Int) - 1) * p.2)).sum

/-- Highest offset of an element of some dimensions. -/
def highOffset (d : List (Nat × Int)) : Int := (d.map fun p => max 0 (((p.1 : Int) - 1) * p.2)).sum

/-- The address of the first element, in order, that leaves local memory; dimensions are given from the slowest to the fastest, and
one of their elements does leave it. -/
def firstOutside (bytes : Nat) : List (Nat × Int) → Int → Int
  | [], base => base
  | (_, s) :: l, base =>
    let lo := base + lowOffset l
    let hi := base + highOffset l + bytes - 1
    if lo < 0 || 0x7FFFF < hi then firstOutside bytes l base
    else if 0 < s then firstOutside bytes l (base + ((0x7FFFF - hi) / s + 1) * s)
    else firstOutside bytes l (base + (lo / (-s) + 1) * s)

/-- Why a record is rejected (R226): a cause, its detail and its `XVAL`; `ra` is the record's address. -/
def rejectShape (b : List Byte) (ra : Nat) : Option (Nat × Nat × Nat) :=
  let h := shapeOf b
  let w := h.bytes
  if shapeReserved b || h.space == 3 || 9 ≤ h.fmt || h.dims.any (fun d => d.1 == 0) || decide (2 ^ 31 < h.count * w) ||
      (h.space != 2 && (h.ver != 0 || h.toff != 0)) then some (0x01, 5, ra)
  else if h.dims.any (fun d => d.2 % w != 0) || (h.space != 2 && h.base % w != 0) || (h.space == 2 && h.toff % w != 0) then
    some (0x05, 0, ra)
  else if h.space == 0 && ((h.base : Int) + lowOffset h.dims < 0 || 0x7FFFF < (h.base : Int) + highOffset h.dims + w - 1) then
    let a := firstOutside w h.dims.reverse h.base
    some (0x06, 0, if a < 0 || 0x7FFFF < a then wrap 64 a else 0x80000)
  else none

/-- The first element of a shape, in order, whose bytes satisfy `p`. Where several bytes offend, `XVAL` of the fault names the first in the
order of the elements, and not the lowest address, here and in `firstOutside` (R226, R227; DESIGN CHOICE, log 112). -/
def Shape.findElem (h : Shape) (p : Nat → Bool) : Option Nat := ((List.range h.count).find? fun n => p (h.addr n)).map h.addr

/-- Does a local shape leave a context's own lease (R38)? -/
def Shape.leavesLease (h : Shape) (c : Ctx) : Bool :=
  !((c.leaseBase : Int) ≤ (h.base : Int) + lowOffset h.dims &&
    (h.base : Int) + highOffset h.dims + h.bytes ≤ (c.leaseBase + c.leaseSize : Nat))

/-- A fault of a record as an effect. -/
def rejected (r : Nat × Nat × Nat) : Eff := .fault r.1 r.2.1 (some (BitVec.ofNat 64 r.2.2))

end Sys2Proof.Machine
end

