-- ==== Sys2Proof/Machine/Atomics.lean ====
section
/-! DEFINITION. Atomics and reductions, fences, releases and acquires over objects, bindings, `icinv` (R203 to R213). -/

namespace Sys2Proof.Machine

/-! ## Values (R203, R204) -/

/-- The new value of an atomic operation on `n` bytes (R203). `fadd` rounds to nearest, memory operand first. -/
def amoValue (op n old b : Nat) : Nat :=
  let x := old % 2 ^ (8 * n)
  let y := b % 2 ^ (8 * n)
  match op with
  | 0 => (x + y) % 2 ^ (8 * n)
  | 1 => x &&& y
  | 2 => x ||| y
  | 3 => x ^^^ y
  | 4 => if signed (8 * n) y < signed (8 * n) x then y else x
  | 5 => if signed (8 * n) x < signed (8 * n) y then y else x
  | 6 => if y < x then y else x
  | 7 => if x < y then y else x
  | 8 => y
  | _ => (f32.add 0 x y).val

/-- Is the old value of an atomic of 4 bytes zero-extended (R203)? -/
def amoZx (op : Nat) : Bool := op == 6 || op == 7 || op == 9

/-- May a form act on host memory (R205)? -/
def hostAmo (op n : Nat) : Bool := (op == 0 || op == 8) && (n == 4 || n == 8)

/-! ## `amo`, `red`, `amoc` (R203 to R207) -/

/-- The checks of R205 and the translation; `host` tells that the form may act on host memory. Device registers take no atomic: the
manual gives none there, and the access faults `HOSTAMO` like any unlisted form (DEDUCED, log 28). -/
def withAtomic (st : State) (c : Ctx) (a n : Nat) (host : Bool) (go : Nat → Eff) : Eff :=
  checked [(c.heavy, 0x08, none), (a % n != 0, 0x05, none)]
    (withXlate st c .atomic [a] fun pas =>
      let pa := pas.headD 0
      if (paSpace pa == 2 && !host) || paSpace pa == 3 then .fault 0x0B 0 none else go pa)

/-- An `amo` form on `n` bytes (R203). -/
def atomic (i : Instr) (e : List Ext) (d a b : R5) (op n : Nat) : State → Out :=
  issue e (wordOf i) (blocks [d.toNat, a.toNat, b.toNat] []) fun st c =>
    let x := (c.rs a).toNat
    withAtomic st c x n (hostAmo op n) fun pa =>
      acceptAs st c (.amo op) [⟨pa, x, n, (c.rs b).toNat % 2 ^ (8 * n), 0⟩] (memOrd e) (.sreg d.toNat) (!amoZx op)

/-- A `red` form: it enters the core's reduction queue (R207). -/
def reduce (i : Instr) (e : List Ext) (a b : R5) (op n : Nat) : State → Out :=
  issue e (wordOf i) (blocks [a.toNat, b.toNat] []) fun st c =>
    let x := (c.rs a).toNat
    withAtomic st c x n (hostAmo op n && op == 0) fun pa =>
      let r : Red := { id := st.stamp, uid := c.uid, launch := c.launch, pa := pa, op := op, size := n,
                       val := (c.rs b).toNat % 2 ^ (8 * n), ord := memOrd e, cid := c.cur, sent := false }
      .done (st.modCore c.start fun k => { k with reds := k.reds ++ [r] }).tickStamp c

/-- The bytes of a size code of `amo` and `amoc` (R203). -/
def amoBytes (s : BitVec 2) : Nat := 4 * 2 ^ s.toNat

def execAmoAdd (e : List Ext) (d a b : R5) (s : BitVec 2) (st : State) : Out := atomic (.amoAdd e d a b s) e d a b 0 (amoBytes s) st
def execAmoAnd (e : List Ext) (d a b : R5) (s : BitVec 2) (st : State) : Out := atomic (.amoAnd e d a b s) e d a b 1 (amoBytes s) st
def execAmoOr (e : List Ext) (d a b : R5) (s : BitVec 2) (st : State) : Out := atomic (.amoOr e d a b s) e d a b 2 (amoBytes s) st
def execAmoXor (e : List Ext) (d a b : R5) (s : BitVec 2) (st : State) : Out := atomic (.amoXor e d a b s) e d a b 3 (amoBytes s) st
def execAmoMin (e : List Ext) (d a b : R5) (s : BitVec 2) (st : State) : Out := atomic (.amoMin e d a b s) e d a b 4 (amoBytes s) st
def execAmoMax (e : List Ext) (d a b : R5) (s : BitVec 2) (st : State) : Out := atomic (.amoMax e d a b s) e d a b 5 (amoBytes s) st
def execAmoMinz (e : List Ext) (d a b : R5) (s : BitVec 2) (st : State) : Out := atomic (.amoMinz e d a b s) e d a b 6 (amoBytes s) st
def execAmoMaxz (e : List Ext) (d a b : R5) (s : BitVec 2) (st : State) : Out := atomic (.amoMaxz e d a b s) e d a b 7 (amoBytes s) st
def execAmoSwap (e : List Ext) (d a b : R5) (s : BitVec 2) (st : State) : Out := atomic (.amoSwap e d a b s) e d a b 8 (amoBytes s) st
def execAmoFadd (e : List Ext) (d a b : R5) (st : State) : Out := atomic (.amoFadd e d a b) e d a b 9 4 st

def execRedAdd (e : List Ext) (a b : R5) (s : BitVec 2) (st : State) : Out := reduce (.redAdd e a b s) e a b 0 (amoBytes s) st
def execRedAnd (e : List Ext) (a b : R5) (s : BitVec 2) (st : State) : Out := reduce (.redAnd e a b s) e a b 1 (amoBytes s) st
def execRedOr (e : List Ext) (a b : R5) (s : BitVec 2) (st : State) : Out := reduce (.redOr e a b s) e a b 2 (amoBytes s) st
def execRedXor (e : List Ext) (a b : R5) (s : BitVec 2) (st : State) : Out := reduce (.redXor e a b s) e a b 3 (amoBytes s) st
def execRedMin (e : List Ext) (a b : R5) (s : BitVec 2) (st : State) : Out := reduce (.redMin e a b s) e a b 4 (amoBytes s) st
def execRedMax (e : List Ext) (a b : R5) (s : BitVec 2) (st : State) : Out := reduce (.redMax e a b s) e a b 5 (amoBytes s) st
def execRedMinz (e : List Ext) (a b : R5) (s : BitVec 2) (st : State) : Out := reduce (.redMinz e a b s) e a b 6 (amoBytes s) st
def execRedMaxz (e : List Ext) (a b : R5) (s : BitVec 2) (st : State) : Out := reduce (.redMaxz e a b s) e a b 7 (amoBytes s) st
def execRedFadd (e : List Ext) (a b : R5) (st : State) : Out := reduce (.redFadd e a b) e a b 9 4 st

/-- The value of a register or, for 16 bytes, of the pair that begins at it (R204). -/
def Ctx.pairVal (c : Ctx) (r : R5) (n : Nat) : Nat :=
  if n == 16 then (c.getS r.toNat).toNat + (c.getS (r.toNat + 1)).toNat * 2 ^ 64 else (c.rs r).toNat % 2 ^ (8 * n)

/-- `amoc` (R204): the size code is 0 `.w`, 1 `.d`, 2 `.q`. -/
def execAmoc (e : List Ext) (d a b c : R5) (s : BitVec 2) (st : State) : Out :=
  let n := amoBytes s
  let pair := fun r : R5 => if n == 16 then [r.toNat, r.toNat + 1] else [r.toNat]
  issue e (wordOf (.amoc e d a b c s)) (blocks (pair d ++ [a.toNat] ++ pair b ++ pair c) []) (fun st x =>
    let p := (x.rs a).toNat
    withAtomic st x p n true fun pa =>
      acceptAs st x (.cas (x.pairVal b n)) [⟨pa, p, n, x.pairVal c n, 0⟩] (memOrd e)
        (if n == 16 then .pair d.toNat else .sreg d.toNat) true) st

/-! ## Fences (R209, R210, R278) -/

/-- Have all earlier accesses of a context returned and been performed (R209)? -/
def State.quiet (st : State) (c : Ctx) : Bool := !st.accs.any fun a => a.uid == c.uid

/-- Are lines with a dirty slice copy or a write-back under way left to carry to their owners, for a release at `.pod` (R278)? -/
def State.peersClean (st : State) : Bool := (st.peerLines.all fun p => p.dirty == 0) && !st.writeBackUnderWay none

/-- What a release of a scope adds once the context's accesses are performed: write-backs to S at `.chip` and wider, and to the owners
at `.pod` (R278, R283). -/
def State.releaseEffects (st : State) (c : Ctx) (s : Nat) : State :=
  let st := if 3 ≤ s then st.writeBackStored c.uid else st
  if s == 6 then st.writeBackPeers else st

/-- An acquire of a scope: later loads are not served from copies filled before it (R278). -/
def Ctx.acquired (c : Ctx) (s stamp : Nat) : Ctx :=
  { c with acqStamp := if 3 ≤ s then stamp else c.acqStamp, acqPod := if s == 6 then stamp else c.acqPod }

/-- At an acquire of `.pod` the slice copies of peer lines are dropped, but for dirty bytes, and are read again from their owners; bytes that a home
core holds dirty reach the slice copy first (R278, R298). A line that was asked for before the acquire is asked for again: the answer to the
earlier request, told by its `TAG`, is not taken any more. -/
def State.dropPeers (st : State) (s : Nat) : State :=
  if s == 6 then
    let st := st.peerLines.foldl (fun (s : State) p => s.flushLine (s.home (128 * p.line)) p.line) st
    { st with peerLines := (st.peerLines.filter fun p => p.dirty != 0).map fun p => { p with valid := false }
              fab := { st.fab with awaits := st.fab.awaits.filter fun a => a.line.all fun l => !st.isPeer (128 * l) } }
  else st

/-- Orders a context's accesses for a scope: it is held until they are performed and, at `.pod`, carried to their owners; then it goes
on, having released and acquired (R209, R278). -/
def withFence (st : State) (c : Ctx) (s : Nat) (acquire : Bool) (go : State → Ctx → Eff) : Eff :=
  if !st.quiet c then .held st c
  else
    let st := st.releaseEffects c s
    if s == 6 && !st.peersClean then .waits st c
    else if acquire then go ((st.dropPeers s).tickStamp) (c.acquired s (st.stamp + 1))
    else go st c

/-- `fence` (R209): with the bit `p`, `.pod` returns the peer bitmap and clears it. -/
def execFence (e : List Ext) (d : R5) (p : BitVec 1) (s : BitVec 3) (st : State) : Out :=
  issue e (wordOf (.fence e d p s)) (blocks [] (if p == 1 then [d.toNat] else [])) (fun st c =>
    if p == 1 && footLimit c.foot ≤ d.toNat then .fault 0x02 0 none
    else withFence st c s.toNat true fun st c =>
      if p == 1 then
        writeVector st c d.toNat ⟨BitVec.ofNat 2048 (setBits st.fab.peers 0 512), 7⟩
          fun c => .done { st with fab := { st.fab with peers := [] } } c
      else .done st c) st

/-- Carries the package's writes to peer lines to their owners, for an operation of scope `.pod`: held until they have arrived (R278). -/
def withOwners (st : State) (c : Ctx) (s : Nat) (go : State → Eff) : Eff :=
  if s != 6 then go st
  else
    let st := st.writeBackPeers
    if st.peersClean then go st else .waits st c

/-! ## `qfence` (R210) -/

/-- Are the commands of a core's named queues that were there before stamp `t` done (R210)? Copies are bit 0, streams bit 1, matrix bit 2,
reductions bit 3, fabric bit 4. -/
def State.joined (st : State) (cid q t : Nat) : Bool :=
  (!bit q 0 || st.copies.all fun x => x.cid != cid || x.xpkg.isSome || t ≤ x.id) &&
  (!bit q 1 || (st.ctxs.all fun p => p.2.start != cid || p.2.slots.all fun x => !x.push || x.staged.all fun y => t ≤ y.2.id)) &&
  (!bit q 2 || ((st.core cid).mq.all (fun m => t ≤ m.id) &&
    (match (st.cluster (clusterOf cid)).running with
      | some r => coreInCluster cid != r.c || t ≤ r.cmd.id
      | none => true))) &&
  (!bit q 3 || (st.core cid).reds.all fun x => t ≤ x.id) &&
  (!bit q 4 || st.copies.all fun x => x.cid != cid || x.xpkg.isNone || t ≤ x.id)

/-- `qfence` (R210, R280): the commands that it waits for are those there when it first issues, which `place` remembers. -/
def execQfence (e : List Ext) (b : BitVec 5) (s : BitVec 3) (st : State) : Out :=
  issue e (wordOf (.qfence e b s)) (blocks [] []) (fun st c =>
    let t := c.place.getD st.stamp
    let c := { c with place := some t }
    if !st.joined c.start b.toNat t || st.mustFollow c.uid then .held st c
    else withOwners st c s.toNat fun st => .done ((st.dropPeers s.toNat).tickStamp) (c.acquired s.toNat (st.stamp + 1))) st

/-! ## Bindings (R211) -/

/-- A binding table with an entry added, its length replaced, or an object's entries removed (R211); none when it is full. -/
def bindRegion (l : List (Nat × Nat × Nat)) (o b n : Nat) : Option (List (Nat × Nat × Nat)) :=
  if n == 0 then some (l.filter fun x => x.1 != o)
  else if l.any fun x => x.1 == o && x.2.1 == b then some (l.map fun x => if x.1 == o && x.2.1 == b then (o, b, n) else x)
  else if 8 ≤ l.length then none
  else some (l ++ [(o, b, n)])

/-- `rbind` (R211). -/
def execRbind (e : List Ext) (d a b : R5) (st : State) : Out :=
  issue e (wordOf (.rbind e d a b)) (blocks [d.toNat, a.toNat, b.toNat] []) (fun st c =>
    let o := (c.rs a).toNat
    let x := (c.rs b).toNat
    let n := (c.rs d).toNat
    checked [(o % 8 != 0, 0x05, none), (x % 128 != 0 || n % 128 != 0, 0x05, none)]
      (if 2 ^ 32 < n then .fault 0x01 5 none
       else match bindRegion c.binds o x n with
         | some l => .done st { c with binds := l }
         | none => .fault 0x01 4 none)) st

/-! ## `rel` and `acq` (R212, R278, R279) -/

/-- The pieces of a context's regions bound to an object, each within a page of 64 KiB: address and length. -/
def Ctx.boundPieces (c : Ctx) (o : Nat) : List (Nat × Nat) :=
  (c.binds.filter fun x => x.1 == o).flatMap fun x =>
    (List.range ((x.2.1 + x.2.2 - 1) / 65536 - x.2.1 / 65536 + 1)).map fun i =>
      let lo := max x.2.1 ((x.2.1 / 65536 + i) * 65536)
      (lo, min (x.2.1 + x.2.2) ((x.2.1 / 65536 + i + 1) * 65536) - lo)

/-- Translates the pieces of bound regions: a page that is not at the station is walked within the instruction, so that any number of pages
can be bound (R212, R301). -/
def State.xlatePieces (st : State) (c : Ctx) : List (Nat × Nat) → State × XList
  | [] => (st, .all [])
  | (va, _) :: l =>
    let r : State × XRes :=
      match st.translate c va .read with
      | .miss =>
        (match st.walkNow (st.pidOf c) c.tenant va with
          | (st, .entry e) => (st, match st.useEntry e va .read c.sup with | some pa => .at pa | none => .bad)
          | (st, .notPresent) => (st, .miss)
          | (st, .xlate) => (st, .bad)
          | (st, .needs _) => (st, .miss))
      | x => (st, x)
    match r with
    | (st, .at pa) =>
      (match st.xlatePieces c l with
        | (st, .all m) => (st, .all (pa :: m))
        | x => x)
    | (st, .miss) => (st, .miss va)
    | (st, .bad) => (st, .bad va)

/-- The physical pieces of the regions bound to an object, and what is done with them. -/
def withRegions (st : State) (c : Ctx) (o : Nat) (go : State → List (Nat × Nat) → Eff) : Eff :=
  let l := c.boundPieces o
  match st.xlatePieces c l with
  | (st, .all pas) => go st (pas.zip (l.map Prod.snd))
  | (st, .miss va) => .held (st.requestWalk c va .read) c
  | (_, .bad va) => .fault 0x0A 0 (addrVal va)

/-- Does a line lie in one of some physical pieces? -/
def inPieces (l : List (Nat × Nat)) (line : Nat) : Bool := l.any fun p => p.1 ≤ 128 * line && 128 * line < p.1 + p.2

/-- Applies a change to every line of the home cores' data caches that lies in some pieces. -/
def State.eachBound (st : State) (l : List (Nat × Nat)) (f : State → Nat → Nat → State) : State :=
  st.cores.foldl (fun s p => p.2.dcache.foldl (fun s x => if inPieces l x.line then f s p.1 x.line else s) s) st

/-- At `.pod`, every peer copy of a bound line of this package's memory is invalidated, for the work of a tenant (R212, R344). -/
def State.recallBound (st : State) (l : List (Nat × Nat)) (tenant : Nat) : State :=
  st.dir.foldl (fun s p => if inPieces l p.1 then s.invalidateHolders p.1 none tenant else s) st

/-- `rel` (R212, R279): the fence, the write-backs, then 1 added to the object at its home slice; the context goes on when the addition
has been performed. -/
def execRel (e : List Ext) (a : R5) (s : BitVec 3) (st : State) : Out :=
  issue e (wordOf (.rel e a s)) (blocks [a.toNat] []) (fun st c =>
    let o := (c.rs a).toNat
    checked [(c.heavy, 0x08, none), (o % 8 != 0, 0x05, none)]
      (withXlate st c .atomic [o] fun pas =>
        let pa := pas.headD 0
        if paSpace pa == 3 then .fault 0x0B 0 none
        else withRegions st c o fun st l =>
          if !st.quiet c then .held st c
          else
            let st := if 3 ≤ s.toNat then st.eachBound l fun s h x => s.writeBack h x else st
            let st := if s == 6 then st.recallBound l c.tenant else st
            withFence st c s.toNat true fun st c =>
              let r := st.accept c (.amo 0) [⟨pa, o, 8, 1, 0⟩] ⟨0, 0, 0⟩ .none false
              .done r.1 { r.2 with pend := some st.stamp })) st

/-- The line of a peer's object as an `acq` reads it: the slice copy; at `.pod` that which the owner gives when it is asked afresh, once the bytes of
this package are there (R278, R283). `place` holds the stamp of that request. -/
def withObject (st : State) (c : Ctx) (pa s : Nat) (go : State → Ctx → Eff) : Eff :=
  if !st.isPeer pa then go st c
  else
    let r := if s == 6 && c.place.isNone then st.readyOwner pa else .go st
    match r with
    | .act st => .waits st c
    | .wait => .waits st c
    | .go st =>
      if s == 6 && c.place.isNone then .waits (st.requestLine (pa / 128) c.tenant) { c with place := some st.stamp }
      else if st.lineHere pa (if s == 6 then c.place.getD 0 else c.acqPod) then go st c
      else .waits (st.requestLine (pa / 128) c.tenant) c

/-- `acq` (R212, R278, R279): reads the object at its home slice, then invalidates the bound copies. -/
def execAcq (e : List Ext) (a : R5) (s : BitVec 3) (st : State) : Out :=
  issue e (wordOf (.acq e a s)) (blocks [a.toNat] []) (fun st c =>
    let o := (c.rs a).toNat
    checked [(o % 8 != 0, 0x05, none)]
      (withXlate st c .read [o] fun pas =>
        let pa := pas.headD 0
        withRegions st c o fun st l =>
          if st.mustFollow c.uid || st.mustWait c.uid pa then .held st c
          else withObject st c pa s.toNat fun st c =>
            let st := if paSpace pa < 2 then st.flushLine (st.home pa) (pa / 128) else st
            let r := if paSpace pa == 3 then (st, 0, false) else st.sRead pa 8
            if r.2.2 then .poison r.1 o
            else
              let st := if 3 ≤ s.toNat then r.1.eachBound l fun s h x => s.flushLine h x else r.1
              let st := if s == 6 then
                  st.peerLines.foldl (fun s p => if inPieces l p.line then s.sendWriteBack p else s) st else st
              if s == 6 && st.peerLines.any (fun p => inPieces l p.line && (p.dirty != 0 || st.writeBackUnderWay (some p.line)))
              then .waits st c
              else .done ((st.dropPeers s.toNat).tickStamp) (c.acquired s.toNat (st.stamp + 1)))) st

/-! ## `icinv` (R213) -/

/-- `icinv` (R213): other packages' cores are outside this model (log 29). -/
def execIcinv (e : List Ext) (s : BitVec 3) (st : State) : Out :=
  issue e (wordOf (.icinv e s)) (blocks [] []) (fun st c =>
    .done { st with cores := st.cores.map fun p => (p.1, if inScope s.toNat c.cur p.1 then { p.2 with icache := [] } else p.2) } c) st

end Sys2Proof.Machine
end

