-- ==== Sys2Proof/Machine/RegWrite.lean ====
section
/-! DEFINITION. Writing the device registers: ownership, the blocks of R359, and the register rows of the opcode table (R4, R171, R194,
R287, R289, R306, R309, R316, R351, R353, R356, R362, R364 to R366). -/

namespace Sys2Proof.Machine

/-! ## Masters (R365) -/

/-- The number of a master in `OWNSTAT` (R366). -/
def masterNum : Master → Nat
  | .host => 1
  | .mc => 2
  | .pod => 3

/-- Offset of a master's mailbox (R364). -/
def mailboxAt (m : Master) : Nat := 0x2000 + 0x400 * (masterNum m - 1)

/-- Does a writer's access take effect: one of a core, of the owner, of a master to its own mailbox, or a claim or a taking (R365)? -/
def State.mayWrite (st : State) (w : Writer) (off : Nat) : Bool :=
  match w with
  | .core _ => true
  | .master m => st.own.owner == masterNum m || off == 0x1008 || off == 0x1018 || (mailboxAt m ≤ off && off < mailboxAt m + 0x400)

/-- Counts an ignored write of a master that is not the owner (R365). -/
def State.deny (st : State) : State := { st with own := { st.own with denied := min (st.own.denied + 1) 0xFFFF } }

/-- A register write that ownership governs. -/
def State.governed (st : State) (w : Writer) (off : Nat) (f : State → State) : State := if st.mayWrite w off then f st else st.deny

/-! ## Ownership (R366) -/

/-- A change of owner: `GEN` and vector 18. -/
def State.setOwner (st : State) (o : Nat) : State :=
  { st with own := { st.own with owner := o, pend := 0, gen := (st.own.gen + 1) % 2 ^ 32, lostSince := none } }.signal 18

/-- A claim. -/
def State.claimOwner (st : State) (m : Master) : State := if st.own.owner == 0 then st.setOwner (masterNum m) else st

/-- The owner releases ownership or offers it; an offer to itself is ignored. -/
def State.giveOwner (st : State) (t : Nat) : State :=
  if t == 0 then st.setOwner 0
  else if t == st.own.owner then st
  else { st with own := { st.own with pend := t, pendSince := st.time } }

/-- 100 ms of reference time. -/
def handoverTime : Nat := 300000000

/-- The pending target accepts within 100 ms. -/
def State.takeOwner (st : State) (m : Master) : State :=
  if st.own.pend == masterNum m && decide (st.time ≤ st.own.pendSince + handoverTime) then st.setOwner (masterNum m) else st

/-- Does a writer act as a master? A supervisor context is none: its writes to `OWNCLAIM`, `OWNGIVE` and `OWNTAKE` do nothing
(DEDUCED, log 35). -/
def asMaster (w : Writer) (st : State) (f : Master → State) : State :=
  match w with
  | .master m => f m
  | .core _ => st

/-- `OWN` (R366). -/
def State.writeOwn (st : State) (w : Writer) (o v : Nat) : State :=
  match o with
  | 0x00 => if bits v 16 16 != 0 then { st with own := { st.own with denied := 0 } } else st
  | 0x08 => asMaster w st st.claimOwner
  | 0x10 => asMaster w st fun _ => st.giveOwner (v % 4)
  | 0x18 => asMaster w st st.takeOwner
  | 0x20 => { st with own := { st.own with timeout := clamp 100 60000 (v % 2 ^ 16) } }
  | _ => st

/-! ## Blocks -/

/-- A mailbox (R364): `GO` is set by a 1 and `DONE` cleared by one; the request buffer holds what is written, and the response buffer is
the leader's (DEDUCED, log 36). -/
def Mailbox.writeReg (b : Mailbox) (o v : Nat) : Mailbox :=
  if o == 0 then { b with go := b.go || bit v 0, done := b.done && !bit v 1 }
  else if 0x100 ≤ o && o < 0x200 then { b with req := b.req.writeN (o - 0x100) 8 v }
  else b

/-- `CQCTL` (R309): a write of 1 to `EN` while it is 0 sets `CQSEQ` to 0 and starts the stream. -/
def Stream.writeCtl (s : Stream) (v : Nat) : Stream :=
  let s := if s.en then s else { s with log := min (v % 16) 12 }
  let s := { s with tenant := bits v 5 8, vmax := min (bits v 13 4) 1 }
  if bit v 4 && !s.en then { s with en := true, next := 0, awake := true } else { s with en := bit v 4 }

/-- A command stream (R309). -/
def Stream.writeReg (s : Stream) (o v : Nat) : Stream :=
  match o with
  | 0x00 => if s.en then s else { s with cqbase := bits v 6 50 * 64 }
  | 0x08 => s.writeCtl v
  | 0x10 => { s with awake := true }
  | 0x20 => if s.en then s else { s with crbase := bits v 6 50 * 64 }
  | 0x28 => if s.en then s else { s with crlog := min (v % 16) 12 }
  | 0x30 => { s with head := v % 2 ^ 16 }
  | _ => s

/-- A tenant entry (R316). -/
def Tenant.writeReg (t : Tenant) (v : Nat) : Tenant :=
  { t with pid := v % 2 ^ 16, en := bit v 16, supok := bit v 17, hbudget := min (bits v 18 11) 1024, retain := max (bits v 29 4) 1,
           lmiso := bit v 33 }

/-- Does an invalidation name a process and a page (R306)? -/
def xlinvHits (x xlva pid va : Nat) : Bool := (bit x 16 || pid == x % 2 ^ 16) && (bit x 17 || va / 65536 == xlva / 65536)

/-- Does it name a station entry: a page that covers the named one? -/
def xlinvDrops (x xlva : Nat) (e : XEntry) : Bool := (bit x 16 || e.pid == x % 2 ^ 16) && (bit x 17 || e.vpage == xlva / 2 ^ e.pbits)

/-- Wakes what waits on `NOTPRESENT` for a matching page: contexts, copies, and strips that are then read again (R306, R308). -/
def State.retryPages (st : State) (x : Nat) : State :=
  let va := st.cfg.xlva
  let st := st.wakeWhere (fun c => match c.wait with | some (.page pid a) => xlinvHits x va pid a | _ => false) id
  let again := fun (c : Ctx) (s : Slot) => { s with staged := s.staged.filter fun p => match p.2.fault with
    | some (a, true) => !xlinvHits x va (st.pidOf c) a
    | _ => true }
  { st with
    copies := st.copies.map fun y => match y.stalled with
      | some a => if xlinvHits x va y.pid a then { y with stalled := none } else y
      | none => y
    ctxs := st.ctxs.map fun p => (p.1, { p.2 with slots := p.2.slots.map fun s => if s.push then s else again p.2 s }) }

/-- `XLINV` (R306): a write made while `BUSY` is 1 is ignored. Walks are completed in one step, so none has to be restarted. -/
def State.writeXlinv (st : State) (v : Nat) : State :=
  if st.cfg.busy.isSome then st
  else
    let x := v % 2 ^ 19
    let va := st.cfg.xlva
    let st := { st with
      cfg := { st.cfg with busy := some x }
      engFaults := st.engFaults.filter fun f => !xlinvHits x va f.1.pid (f.1.page * 65536)
      layers := st.layers.map fun l => (l.1, { l.2 with stations := l.2.stations.map fun s => (s.1, s.2.filter fun e => !xlinvDrops x va e) }) }
    if bit x 18 then st.retryPages x else st

/-- `MEMCFG` (R287). -/
def State.writeMem (st : State) (o v : Nat) : State :=
  match o with
  | 0x20 => { st with cfg := { st.cfg with ptBase := bits v 16 40 * 2 ^ 16, ptEn := bit v 0 } }
  | 0x28 => { st with cfg := { st.cfg with prqBase := bits v 12 44 * 2 ^ 12, prqLog := min (v % 16) 12 } }
  | 0x30 => { st with cfg := { st.cfg with prqHead := v % 2 ^ 20 } }
  | 0x40 => { st with cfg := { st.cfg with xlva := bits v 16 41 * 2 ^ 16 } }
  | 0x48 => st.writeXlinv v
  | 0x50 => { st with cfg := { st.cfg with prqFull := st.cfg.prqFull && !bit v 1 } }
  | _ => st

/-- The `RETIRE` bit of `TWBANK` (R353). -/
def Fabric.retireOld (f : Fabric) : Fabric :=
  if !f.oldLive then f
  else if f.counted (!f.cur) != 0 then { f with rej := true }
  else { f with oldLive := false, validA := f.validA && f.cur == false, validB := f.validB && f.cur }

/-- `TWBANK` (R353): a write whose `RETIRE` is refused is ignored. -/
def Fabric.writeBank (f : Fabric) (slot v : Nat) : Fabric :=
  if bit v 3 && f.oldLive && f.counted (!f.cur) != 0 then f.retireOld
  else
    let f := if bit v 3 then f.retireOld else f
    { f with next := bit v 1, arm := bit v 2, armCycle := bits v 16 32, armSlot := slot }

/-- `TWCFG` (R356). -/
def Fabric.writeReg (f : Fabric) (slot o v : Nat) : Fabric :=
  match o with
  | 0x00 => { f with portFail := (f.portFail.filter fun p => !bit v (16 + p)), bad := if bits v 32 8 != 0 then 0 else f.bad, rej := f.rej && !bit v 40 }
  | 0x10 => { f with win := min (v % 2 ^ 13) 8000 }
  | 0x18 => { f with retry := max (v % 16) 1 }
  | 0x20 => { f with ato := max (v % 2 ^ 16) 16500 }
  | 0x28 => { f with rto := clamp 10 1000000 (v % 2 ^ 20) }
  | 0x30 => { f with partner := v % 2 ^ 9, partnerV := bit v 15 }
  | 0x38 => f.writeBank slot v
  | 0x48 => { f with validA := bit v 0, validB := bit v 1 }
  | _ => f

/-- Writes a relay-bank entry (R351, R353): ignored, with `REJ`, for the current bank and for an old bank that is live. -/
def Fabric.writeRelay (f : Fabric) (bank : Bool) (n v : Nat) : Fabric :=
  if bank == f.cur || f.oldLive then { f with rej := true }
  else
    let x : BitVec 64 := BitVec.ofNat 64 (v % 2 + bits v 16 16 * 2 ^ 16)
    let store := fun (m : Map (BitVec 64)) => if x == 0 then Map.del m n else Map.put m n x
    if bank then { f with bankB := store f.bankB } else { f with bankA := store f.bankA }

/-- `ICOAL` (R362). -/
def Stream.writeIcoal (s : Stream) (v : Nat) : Stream := { s with icCount := clamp 1 256 (v % 2 ^ 9), icHold := clamp 1 1000 (bits v 16 10) }

/-- Eight 4-bit fields (R171). -/
def nibbles (v : Nat) : Vector Nat 8 := Vector.ofFn fun c => bits v (4 * c.val) 4

/-- `MXPART` (R171). -/
def Cluster.writePart (g : Cluster) (v : Nat) : Cluster :=
  if (nibbles v).toList.sum ≤ 64 && g.claims.isEmpty then { g with part := nibbles v } else { g with rej := true }

/-- `PREEMPT` 1 (R194, R386): the arbiter stops; a command that is no `mma` completes first; the cluster leaves every admitted set. -/
def Cluster.stop (g : Cluster) : Cluster :=
  { g with preempt := true, admitted := [],
           preempted := match g.running with
             | some r => r.cmd.op.isMma
             | none => true }

/-- `PREEMPT` 0 (R194). -/
def Cluster.go (g : Cluster) : Cluster := { g with preempt := false, preempted := false }

/-- Resumes a cluster: a stopped `mma` asks to be admitted afresh (R386). -/
def State.resumeCluster (st : State) (n : Nat) : State :=
  let g := st.cluster n
  let st := st.modCluster n Cluster.go
  match g.running with
  | some r => if g.preempt && r.cmd.op.isMma then { st with powerReqs := st.powerReqs ++ [⟨r.cmd.launch, n, none⟩] } else st
  | none => st

/-- Pre-empts a cluster; nothing changes when it is pre-empted already. -/
def State.stopCluster (st : State) (n : Nat) : State :=
  if (st.cluster n).preempt then st
  else { st.modCluster n Cluster.stop with powerReqs := st.powerReqs.filter fun r => r.g != n || r.acc.isSome }

/-- A cluster block (R171). -/
def State.writeCluster (st : State) (n o v : Nat) : State :=
  match o with
  | 0x00 => st.modCluster n fun g => { g with wgt := (nibbles v).map fun w => max w 1 }
  | 0x08 => st.modCluster n fun g => g.writePart v
  | 0x10 =>
    let st := if bit v 16 then st.modCluster n fun g => { g with rej := false } else st
    if bit v 19 then st.stopCluster n else st.resumeCluster n
  | _ => st

/-- `LMPOOL` (R289). -/
def Core.writePool (k : Core) (v : Nat) : Core :=
  let k := if bit v 31 then { k with poolRej := false } else k
  let b := bits v 8 11
  if b == k.poolBase then k
  else if 0x7E0 < b || !k.leases.isEmpty then { k with poolRej := true }
  else { k with poolBase := b }

/-- A core block (R289); a CID that names no core has none. -/
def State.writeCore (st : State) (c o v : Nat) : State :=
  if !validCid c then st
  else match o with
    | 0x00 => st.modCore c fun k => k.writePool v
    | 0x08 => st.modCore c fun k => { k with thresh := v % 32, onlyY := bit v 8 }
    | _ => st

/-- The MSI-X table (R361, R362): a vector that is unmasked sends its message at once when its pending bit is set or records of its stream are
unsignalled. -/
def State.writeMsix (st : State) (o v : Nat) : State :=
  let n := o / 16
  let due := st.host.masked n && (st.host.pending.contains n || (n < 16 && (st.stream n).unsig != 0))
  let st := { st with host := { st.host with msix := st.host.msix.writeN o 8 v } }
  if due && !st.host.masked n then
    let st := { st with host := { st.host with pending := NatSet.del st.host.pending n } }.signal n
    if n < 16 then st.modStream n fun s => { s with unsig := 0 } else st
  else st

/-! ## The whole space (R359) -/

/-- Writes the 8 bytes at an offset that is a multiple of 8; offsets that R359 does not list ignore it. -/
def State.writeReg (st : State) (w : Writer) (off v : Nat) : State :=
  if 0x1000 ≤ off && off < 0x2000 then st.writeOwn w (off - 0x1000) v
  else if 0x2000 ≤ off && off < 0x2C00 then
    let b := (st.mbox[(off - 0x2000) / 0x400]?).getD Mailbox.reset
    { st with mbox := st.mbox.setIfInBounds ((off - 0x2000) / 0x400) (b.writeReg ((off - 0x2000) % 0x400) v) }
  else if 0x10000 ≤ off && off < 0x10400 then st.modStream ((off - 0x10000) / 64) fun s => s.writeReg ((off - 0x10000) % 64) v
  else if 0x11000 ≤ off && off < 0x12000 then
    (if off % 16 == 0 then st.modTenant ((off - 0x11000) / 16) fun t => t.writeReg v else st)
  else if 0x12000 ≤ off && off < 0x13000 then st.writeMem (off - 0x12000) v
  else if 0x13000 ≤ off && off < 0x14000 then { st with fab := st.fab.writeReg (st.podTime / 250) (off - 0x13000) v }
  else if 0x14000 ≤ off && off < 0x14080 then st.modStream ((off - 0x14000) / 8) fun s => s.writeIcoal v
  else if 0x15000 ≤ off && off < 0x16000 then { st with fab := st.fab.writeRelay false ((off - 0x15000) / 8) v }
  else if 0x16000 ≤ off && off < 0x17000 then { st with fab := st.fab.writeRelay true ((off - 0x16000) / 8) v }
  else if 0x100000 ≤ off && off < 0x100400 then st.writeMsix (off - 0x100000) v
  else if 0x1000000 ≤ off && off < 0x1000000 + 64 * 336 then st.writeCluster ((off - 0x1000000) / 64) ((off - 0x1000000) % 64) v
  else if 0x2000000 ≤ off && off < 0x2000000 + 64 * 4096 then st.writeCore ((off - 0x2000000) / 64) ((off - 0x2000000) % 64) v
  else st

/-- The bits of a register that a write of 1 clears: a write of fewer than 8 bytes leaves those of the other bytes alone. -/
def clearedBits (off : Nat) : Nat :=
  if off == 0x1000 then 0xFFFF * 2 ^ 16
  else if off == 0x12050 then 2
  else if off == 0x13000 then 0x1FFFFFF * 2 ^ 16
  else if 0x2000 ≤ off && off < 0x2C00 && off % 0x400 == 0 then 2
  else if 0x1000000 ≤ off && off < 0x1000000 + 64 * 336 && off % 64 == 0x10 then 2 ^ 16
  else if 0x2000000 ≤ off && off < 0x2000000 + 64 * 4096 && off % 64 == 0 then 2 ^ 31
  else 0

/-- Writes a piece of at most 8 bytes that lies in one register: the other bytes of the register keep what they hold. -/
def State.writePiece (st : State) (w : Writer) (off : Nat) (l : List Byte) : State :=
  let r := off / 8 * 8
  st.governed w r fun st =>
    let old := st.readReg r % 2 ^ 64
    let keep := old - (old &&& clearedBits r)
    st.writeReg w r (putBits keep (8 * (off % 8)) (8 * l.length) (ofBytes l))

/-- Writes bytes of device-register space, register by register. -/
def State.writeRegBytes (w : Writer) : Nat → State → Nat → List Byte → State
  | 0, st, _, _ => st
  | k + 1, st, off, l =>
    if l.isEmpty then st
    else
      let m := min l.length (8 - off % 8)
      State.writeRegBytes w k (st.writePiece w off (l.take m)) (off + m) (l.drop m)

/-! ## Writes of engines, the fabric and contexts wherever an address lies -/

/-- Writes bytes at S, in host memory or in registers (R269, R284, R286). -/
def State.putBytes (st : State) (cid pa : Nat) (l : List Byte) : State :=
  if paSpace pa == 3 then State.writeRegBytes (.core cid) (l.length + 1) st (paOff pa) l else State.sWriteBytes (l.length + 1) st pa l

/-! ## The rows of the opcode table -/

/-- Notes the package of the pod manager where a write has made it the owner (R366). -/
def State.notePod (after before : State) (pkg : Nat) : State :=
  if after.own.owner == 3 && after.own.gen != before.own.gen then { after with own := { after.own with podPkg := pkg } } else after

/-- `REGISTER_WRITE` (R4, R359, R365, R366); where it makes the pod manager the owner, the step's item tells its package (log 51). -/
def execRegisterWrite (w : Writer) (off : Nat) (v : BitVec 64) (st : State) : Out :=
  .next ((st.governed w (off / 8 * 8) fun st => st.writeReg w (off / 8 * 8) v.toNat).notePod st (st.item % 512))

/-- `CQDOOR` (R309, R311). -/
def execCqdoor (w : Writer) (q : Nat) (st : State) : Out :=
  if 16 ≤ q then idle "CQDOOR" else .next (st.governed w (0x10010 + 64 * q) fun st => st.writeReg w (0x10010 + 64 * q) 0)

/-- `CQ_ENABLE` (R309): a write of `CQCTL` with `EN` 1. -/
def execCqEnable (w : Writer) (q : Nat) (v : BitVec 64) (st : State) : Out :=
  if 16 ≤ q || !v.getLsbD 4 then idle "CQ_ENABLE" else .next (st.governed w (0x10008 + 64 * q) fun st => st.writeReg w (0x10008 + 64 * q) v.toNat)

/-- `CQ_DISABLE` (R309): a write of `CQCTL` with `EN` 0. -/
def execCqDisable (w : Writer) (q : Nat) (v : BitVec 64) (st : State) : Out :=
  if 16 ≤ q || v.getLsbD 4 then idle "CQ_DISABLE" else .next (st.governed w (0x10008 + 64 * q) fun st => st.writeReg w (0x10008 + 64 * q) v.toNat)

/-- `XLINV` (R306). -/
def execXlinv (w : Writer) (v : BitVec 64) (st : State) : Out := .next (st.governed w 0x12048 fun st => st.writeReg w 0x12048 v.toNat)

/-- `XLINV_COMPLETE` (R306): `BUSY` clears. -/
def execXlinvComplete (st : State) : Out :=
  if st.cfg.busy.isSome then .next { st with cfg := { st.cfg with busy := none } } else idle "XLINV_COMPLETE"

/-- `MXPART` (R171). -/
def execMxpart (w : Writer) (g : Nat) (v : BitVec 64) (st : State) : Out :=
  if 336 ≤ g then idle "MXPART" else .next (st.governed w (0x1000008 + 64 * g) fun st => st.writeReg w (0x1000008 + 64 * g) v.toNat)

/-- `PREEMPT` (R194). -/
def execPreempt (w : Writer) (g : Nat) (st : State) : Out :=
  if 336 ≤ g then idle "PREEMPT" else .next (st.governed w (0x1000010 + 64 * g) fun st => st.writeReg w (0x1000010 + 64 * g) (2 ^ 19))

/-- `RESUME` (R194). -/
def execResume (w : Writer) (g : Nat) (st : State) : Out :=
  if 336 ≤ g then idle "RESUME" else .next (st.governed w (0x1000010 + 64 * g) fun st => st.writeReg w (0x1000010 + 64 * g) 0)

/-- `LMPOOL` (R289). -/
def execLmpool (w : Writer) (cid : Nat) (v : BitVec 64) (st : State) : Out :=
  if validCid cid then .next (st.governed w (0x2000000 + 64 * cid) fun st => st.writeReg w (0x2000000 + 64 * cid) v.toNat)
  else idle "LMPOOL"

/-- `INJ_ARM` (R375): a write of `INJCTL` as firmware or a supervisor makes it. -/
def execInjArm (v : BitVec 64) (st : State) : Out := .next (st.writeInjctl (v.toNat % 8) (v.getLsbD 3))

/-- `TWBANK_ARM` (R353). -/
def execTwbankArm (w : Writer) (v : BitVec 64) (st : State) : Out :=
  if v.getLsbD 2 then .next (st.governed w 0x13038 fun st => st.writeReg w 0x13038 v.toNat) else idle "TWBANK_ARM"

/-- `RETIRE` (R353): the other fields of `TWBANK` are written back as they are. -/
def execRetire (w : Writer) (st : State) : Out :=
  .next (st.governed w 0x13038 fun st =>
    st.writeReg w 0x13038 (b2n st.fab.next * 2 + b2n st.fab.arm * 4 + 8 + st.fab.armCycle * 2 ^ 16))

/-- `RELAY_BANK_WRITE` (R351, R353). -/
def execRelayBankWrite (w : Writer) (bank : Bool) (n : Nat) (v : BitVec 64) (st : State) : Out :=
  if 512 ≤ n then idle "RELAY_BANK_WRITE"
  else
    let off := (if bank then 0x16000 else 0x15000) + 8 * n
    .next (st.governed w off fun st => st.writeReg w off v.toNat)

/-- `OWNCLAIM` (R366); of the pod manager, the step's item tells the package (log 51). -/
def execOwnclaim (m : Master) (st : State) : Out :=
  .next ((st.governed (.master m) 0x1008 fun st => st.writeReg (.master m) 0x1008 0).notePod st (st.item % 512))

/-- `OWNGIVE` (R366). -/
def execOwngive (m : Master) (target : BitVec 2) (st : State) : Out :=
  .next (st.governed (.master m) 0x1010 fun st => st.writeReg (.master m) 0x1010 target.toNat)

/-- `OWNTAKE` (R366); of the pod manager, the step's item tells the package (log 51). -/
def execOwntake (m : Master) (st : State) : Out :=
  .next ((st.governed (.master m) 0x1018 fun st => st.writeReg (.master m) 0x1018 0).notePod st (st.item % 512))

/-- `HANDOVER_TIMEOUT` (R366): an offer that has not been taken within 100 ms lapses. -/
def execHandoverTimeout (st : State) : Out :=
  if st.own.pend != 0 && decide (st.own.pendSince + handoverTime < st.time) then .next { st with own := { st.own with pend := 0 } }
  else idle "HANDOVER_TIMEOUT"

end Sys2Proof.Machine
end

