-- ==== Sys2Proof/Machine/Nodes.lean ====
section
/-! DEFINITION. Nodes of a net and the operations of the device on them: headers, ports, joins, pushes, arenas (R237 to R250, R324). -/

namespace Sys2Proof.Machine

/-! ## Reading and writing node words (R248) -/

/-- Reads 8 bytes of a node in the data cache of its home core, as S and the home core's dirty bytes give them (R248; log 33). -/
def State.nodeRead (st : State) (pa : Nat) : State × Nat × Bool :=
  if paSpace pa < 2 && !st.isPeer pa then st.hRead (st.home pa) pa 8 (st.stamp + 1)
  else if paSpace pa == 3 then (st, ofBytes (st.readRegBytes (paOff pa) 8), false)
  else st.sRead pa 8

/-- Writes 8 bytes of a node there; the line is written back at once, as an eviction may do at any time (R270; log 33). -/
def State.nodeWrite (st : State) (pa v : Nat) : State :=
  if paSpace pa < 2 && !st.isPeer pa then (st.hWrite (st.home pa) pa (bytesOf 8 v)).writeBack (st.home pa) (pa / 128)
  else st.putBytes (st.home pa) pa (bytesOf 8 v)

/-- The word at a physical address. -/
def State.nodeWord (st : State) (pa : Nat) : Nat := (st.nodeRead pa).2.1

/-- Changes a word. -/
def State.nodeMod (st : State) (pa : Nat) (f : Nat → Nat) : State :=
  let r := st.nodeRead pa
  r.1.nodeWrite pa (f r.2.1)

/-- Has a launch's net a channel of supervisor level, which its tenant must be allowed (R315)? -/
def State.supNet (st : State) (launch : Nat) : Bool :=
  match (st.launches.find launch).bind fun l => st.nets.find l.net with
  | some n => n.chans.any fun a => a.limit != 0 && a.sup
  | none => false

/-- Translates a node or port address of a launch for the device: as a write of the launch's own process, with the level that its net may run
tasks at, and never to a device register (R5, R239; DEDUCED, log 34). -/
def State.nodePa (st : State) (launch va : Nat) : Option Nat :=
  (if 2 ^ 57 ≤ va then none
  else if !st.cfg.ptEn then st.identity va (st.supNet launch)
  else
    match st.launches.find launch with
    | some l =>
      (match (st.walkNow l.pid l.tenant va).2 with
        | .entry e => st.useEntry e va .write (st.supNet launch)
        | _ => none)
    | none => none).filter fun pa => paSpace pa != 3

/-! ## Headers and ports (R237, R238) -/

/-- `TYPE`. -/
def hdrType (h : Nat) : Nat := bits h 0 12
/-- `ARITY`. -/
def hdrArity (h : Nat) : Nat := bits h 12 2
/-- `PFMT`. -/
def hdrPfmt (h : Nat) : Nat := bits h 14 4
/-- `CLAIMED`. -/
def hdrClaimed (h : Nat) : Bool := bit h 18
/-- `ACTIVE`. -/
def hdrActive (h : Nat) : Bool := bit h 20
/-- `DEAD`. -/
def hdrDead (h : Nat) : Bool := bit h 21
/-- `NET`. -/
def hdrNet (h : Nat) : Nat := bits h 24 12

/-- May a value be the software fields of a header (R245)? -/
def hdrOk (v : Nat) : Bool := hdrType v != 0 && hdrPfmt v ≤ 1 && v / 2 ^ 18 == 0

/-- A header with one flag set or clear. -/
def hdrFlag (h n : Nat) (on : Bool) : Nat := putBits h n 1 (b2n on)

/-- State of a port word. -/
def portState (w : Nat) : Nat := w % 8
/-- Target of a port word. -/
def portTarget (w : Nat) : Nat := bits w 3 54 * 8

/-- Does an offset within a node name a port (R238)? -/
def portOffset (r : Nat) : Bool := r % 64 == 8 || r % 64 == 16 || r % 64 == 24 || r % 64 == 32

/-- The eight words of a fresh node (R245). -/
def freshNode (fields net : Nat) : List Nat := (bits fields 0 18 + net % 4096 * 2 ^ 24) :: List.replicate 7 0

/-- Writes the words of a node. -/
def State.writeNode (st : State) (pa : Nat) (ws : List Nat) : State :=
  (ws.zipIdx).foldl (fun s p => s.nodeWrite (pa + 8 * p.2) p.1) st

/-! ## Arenas and free-node caches (R246, R247) -/

/-- Nodes left in an arena. -/
def Net.left (n : Net) : Nat := n.free.length + (n.arenaSize / 64 - n.fresh)

/-- Takes some nodes from an arena: those never handed out first, then returned ones, oldest first (R392; DEDUCED, log 84). -/
def Net.take (n : Net) (k : Nat) : Net × List Nat :=
  let m := min k (n.arenaSize / 64 - n.fresh)
  ({ n with free := n.free.drop (k - m), fresh := n.fresh + m },
    (List.range m).map (fun i => n.arenaBase + 64 * (n.fresh + i)) ++ n.free.take (k - m))

/-- May a launch give a node back: one that has been handed out, to it or to a launch that runs no more? Giving back any other node breaches
R239, and the arena does not take it, so that no other launch is affected (R5, R239). -/
def State.mayGive (st : State) (launch net va : Nat) : Bool :=
  match (st.nets.find net).bind fun (n : Net) => n.held.find va with
  | some l => l == launch || !st.running l
  | none => false

/-- Does another running launch of the tenant of a launch hold the node around an address? To free it, to write it or to join its ports breaches
R239, and is nothing to that launch (R5; DEDUCED, log 96). -/
def State.heldByOther (st : State) (launch va : Nat) : Bool :=
  match st.launches.find launch with
  | some x => st.nets.any fun (n : Nat × Net) =>
      n.2.tenant == x.tenant && (n.2.held.find (va / 64 * 64)).any fun l => l != launch && st.running l
  | none => false

/-- Is a node of a net free: never handed out, or returned to the arena or a cache? -/
def State.nodeFree (st : State) (net va : Nat) : Bool :=
  (match st.nets.find net with
    | some (n : Net) => n.free.contains va || decide (n.arenaBase + 64 * n.fresh ≤ va && va < n.arenaBase + n.arenaSize)
    | none => true) || st.cores.any fun (k : Nat × Core) => (k.2.nodesOf net).contains va

/-- Returns a freed node of a launch's net: to the cache of the freeing core if that holds the node's net and has room, else to the arena
(R247). -/
def State.giveNode (st : State) (launch cid net va : Nat) : State :=
  if ((st.launches.find launch).any fun l => l.net == net) && st.mayGive launch net va then
    let st := st.modNet net fun x => { x with held := Map.del x.held va }
    match (st.core cid).freeNodes with
    | some (n, l) =>
      if n == net && l.length < 64 then st.modCore cid fun k => { k with freeNodes := some (n, l ++ [va]) }
      else st.modNet net fun x => { x with free := x.free ++ [va] }
    | none => st.modNet net fun x => { x with free := x.free ++ [va] }
  else st

/-- Hands a node of a net out to a launch. -/
def State.handOut (st : State) (launch net va : Nat) : State := st.modNet net fun x => { x with held := x.held.put va launch }

/-- The firing of a pair makes its launch the owner of the pair's nodes, whoever allocated them; a free node stays free, and one that another running
launch holds stays with it (R239; log 96). -/
def State.ownNode (st : State) (launch net va : Nat) : State :=
  if st.nodeFree net va || st.heldByOther launch va then st else st.handOut launch net va

/-- Frees a node for a launch unless it is dead already: `DEAD` set, `TYPE` 0 (R247). -/
def State.freeNode (st : State) (launch cid va pa : Nat) : State :=
  let h := st.nodeWord pa
  if hdrDead h || st.heldByOther launch va then st else (st.nodeWrite pa (hdrFlag (putBits h 0 12 0) 21 true)).giveNode launch cid (hdrNet h) va

/-! ## Pushes (R242, R324) -/

/-- The core that takes what arrives at a core: itself, or, when it has failed, the nearest of its layer that has not (R339). -/
def State.standIn (st : State) (cid : Nat) : Nat :=
  if (st.core cid).failed then
    (leastBy (travel cid) ((layerCores (layerOf cid)).filter fun c => !(st.core c).failed)).getD cid
  else cid

/-- Enters a pair at a core: into the bag, behind it into the ring, or at the interface while both are full or the core is gated. Where the
whole layer has failed, its launch ends (R339). A pair of a launch that has ended is discarded (R43, R47). -/
def State.enterPair (st : State) (cid : Nat) (p : Pair) : State :=
  let cid := st.standIn cid
  let k := st.core cid
  let p := { p with entered := st.cyclesOf cid }
  if !st.running p.launch then st
  else if k.failed then st.failLaunch p.launch ⟨2, 0x28, 0, 0, 0, st.gid cid⟩
  else if k.gated then { st with pushes := st.pushes ++ [(cid, p)] }
  else if k.bag.length < 256 then st.modCore cid fun k => { k with bag := k.bag ++ [p] }
  else if k.ring.length < 65536 then st.modCore cid fun k => { k with ring := k.ring ++ [p] }
  else { st with pushes := st.pushes ++ [(cid, p)] }

/-- The net of a launch. -/
def State.netOf (st : State) (launch : Nat) : Nat := ((st.launches.find launch).map fun (l : Launch) => l.net).getD 0

/-- Pushes the pair of two nodes: `ACTIVE` in both headers, and the pair into the bag of the lower node's home core (R242). It fires under the net of
its launch, whatever its headers name: they are written by the program (R5; DEDUCED, log 96). -/
def State.pushPair (st : State) (launch a apa b bpa : Nat) : State :=
  let st := (st.nodeMod apa fun h => hdrFlag h 20 true).nodeMod bpa fun h => hdrFlag h 20 true
  let lo := if a < b then apa else bpa
  st.enterPair (st.home lo) ⟨min a b, max a b, st.netOf launch, launch, 0⟩

/-! ## Joins (R240 to R242) -/

/-- A port: its virtual and its physical address. -/
abbrev Port := Nat × Nat

/-- Links two ports to each other; two principal ports make an active pair (R240, R242). -/
def State.linkPorts (st : State) (launch : Nat) (x y : Port) : State × Nat :=
  let st := (st.nodeWrite x.2 (y.1 + 1)).nodeWrite y.2 (x.1 + 1)
  if x.1 % 64 == 8 && y.1 % 64 == 8 then (st.pushPair launch (x.1 - 8) (x.2 - 8) (y.1 - 8) (y.2 - 8), 1) else (st, 0)

/-- Joins the wires that end at two ports, and the value of `sd` (R240). A far end that is not mapped leaves everything unchanged
(DEDUCED, log 34), and so does a port or a far end of a node that another running launch holds (R5, R239; DEDUCED, log 96). -/
def State.join (st : State) (launch : Nat) (p q : Port) : State × Nat :=
  let wp := st.nodeWord p.2
  let wq := st.nodeWord q.2
  let far := fun w => if st.heldByOther launch (portTarget w) then none else (st.nodePa launch (portTarget w)).map fun pa => (portTarget w, pa)
  if st.heldByOther launch p.1 || st.heldByOther launch q.1 then (st, 0)
  else if portState wp == 1 && portState wq == 1 && portTarget wp == q.1 && portTarget wq == p.1 then
    ((st.nodeWrite p.2 2).nodeWrite q.2 2, 2)
  else if portState wp != 1 && portState wq != 1 then st.linkPorts launch p q
  else if portState wp != 1 then
    match far wq with
    | some b => (st.nodeWrite q.2 (p.1 + 2)).linkPorts launch b p
    | none => (st, 0)
  else if portState wq != 1 then
    match far wp with
    | some a => (st.nodeWrite p.2 (q.1 + 2)).linkPorts launch a q
    | none => (st, 0)
  else
    match far wp, far wq with
    | some a, some b => ((st.nodeWrite p.2 (b.1 + 2)).nodeWrite q.2 (a.1 + 2)).linkPorts launch a b
    | _, _ => (st, 0)

end Sys2Proof.Machine
end

