-- ==== Sys2Proof/Machine/Net.lean ====
section
/-! DEFINITION. Node instructions and `rtset` (R239 to R252). -/

namespace Sys2Proof.Machine

/-! ## Reading a node at issue -/

/-- Is a node operation of a context still to be performed (R244)? -/
def State.nodeBusy (st : State) (uid : Nat) : Bool :=
  st.accs.any fun a => a.uid == uid && a.answer.isNone && (match a.op with
    | .nst _ => true
    | .node _ => true
    | .nfree => true
    | .plink .. => true
    | .ppush .. => true
    | _ => false)

/-- Goes on once the peer lines of some addresses are at hand, asked for since the context's last acquire at `.pod` (R278), and no earlier access
of the context to them, and no node operation, is under way. -/
def withNodes (st : State) (c : Ctx) (pas : List Nat) (go : Eff) : Eff :=
  if st.nodeBusy c.uid || pas.any (st.mustWait c.uid) then .held st c
  else match pas.find? fun pa => !st.lineHere pa c.acqPod with
    | some pa => .waits (st.requestLine (pa / 128) c.tenant) c
    | none => go

/-- The header of the node that holds a word. -/
def State.headerOf (st : State) (pa : Nat) : Nat := st.nodeWord (pa / 64 * 64)

/-! ## `nalloc` and `nfree` (R245 to R247) -/

/-- Asks the copy unit for nodes of a net, unless it is asked already (R246). -/
def Core.askNodes (k : Core) (net : Nat) : Core := if k.refill.contains net then k else { k with refill := k.refill ++ [net] }

/-- What remains of a free-node cache, and whether it now asks for a refill (R246). -/
def Core.afterTake (k : Core) (net : Nat) (l : List Nat) : Core :=
  let k := { k with freeNodes := some (net, l) }
  if l.length ≤ 16 then k.askNodes net else k

/-- `nalloc` (R245, R246): the oldest node of the free-node cache of the start core (R297, R392; log 84). The copy unit changes the cache to another
net. The node is written as a `stg` writes: the manual gives `nalloc` no translation of its own, and the node that it takes is translated for
writing, so that it may fault `XLATE` or wait for its page there (DEDUCED, log 85). -/
def execNalloc (e : List Ext) (d a : R5) (st : State) : Out :=
  issue e (wordOf (.nalloc e d a)) (blocks [d.toNat, a.toNat] []) (fun st c =>
    let v := (c.rs a).toNat
    checked [(c.heavy, 0x08, none)]
      (if !hdrOk v then .fault 0x01 5 none
       else match (st.core c.start).nodesOf c.net with
         | [] => .park (st.modCore c.start fun k => k.askNodes c.net) c (.node c.net)
         | va :: l =>
           withXlate st c .write [va] fun pas =>
             let st := (st.modCore c.start fun k => k.afterTake c.net l).handOut c.launch c.net va
             acceptAs st (c.wr d (BitVec.ofNat 64 va)) (.node (freshNode v c.net)) (pas.map fun pa => ⟨pa, va, 8, 0, 0⟩) ⟨0, 0, 0⟩
               .none false)) st

/-- `nfree` (R247). The manual names no kind of access for its translation: the node is translated for writing, as `nst` translates it (DEDUCED,
log 85). -/
def execNfree (e : List Ext) (a : R5) (st : State) : Out :=
  issue e (wordOf (.nfree e a)) (blocks [a.toNat] []) (fun st c =>
    let va := (c.rs a).toNat
    checked [(c.heavy, 0x08, none), (va % 64 != 0, 0x05, none)]
      (withXlate st c .write [va] fun pas =>
        withNodes st c pas
          (if pas.any fun pa => hdrClaimed (st.headerOf pa) then .fault 0x09 0 none
           else acceptAs st c .nfree (pas.map fun pa => ⟨pa, va, 8, 0, 0⟩) ⟨0, 0, 0⟩ .none false))) st

/-! ## `nld` and `nst` (R248) -/

/-- `nld` (R248). -/
def execNld (e : List Ext) (d a : R5) (n : BitVec 3) (st : State) : Out :=
  issue e (wordOf (.nld e d a n)) (blocks [d.toNat, a.toNat] []) (fun st c =>
    let va := (c.rs a).toNat
    checked [(va % 64 != 0, 0x05, none)]
      (withXlate st c .read [va] fun pas =>
        acceptAs st c .nld (pas.map fun pa => ⟨pa + 8 * n.toNat, va + 8 * n.toNat, 8, 0, 0⟩) ⟨0, 0, 0⟩ (.sreg d.toNat) false)) st

/-- `nst` (R248). -/
def execNst (e : List Ext) (d a : R5) (n : BitVec 3) (st : State) : Out :=
  issue e (wordOf (.nst e d a n)) (blocks [d.toNat, a.toNat] []) (fun st c =>
    let va := (c.rs a).toNat
    let v := (c.rs d).toNat
    if 1 ≤ n.toNat && n.toNat ≤ 4 then .fault 0x01 5 none
    else checked [(c.heavy, 0x08, none), (va % 64 != 0, 0x05, none)]
      (withXlate st c .write [va] fun pas =>
        withNodes st c pas
          (if n == 0 && !hdrOk v then .fault 0x01 5 none
           else if pas.any fun pa => hdrClaimed (st.headerOf pa) then .fault 0x09 0 none
           else acceptAs st c (.nst n.toNat) (pas.map fun pa => ⟨pa + 8 * n.toNat, va + 8 * n.toNat, 8, v, 0⟩) ⟨0, 0, 0⟩ .none false))) st

/-! ## `plink`, `pget`, `ppush` (R243, R244, R249, R250) -/

/-- The checks that a reference names a port (R243 checks 3 and 4), in order: offsets, translation, arities. -/
def withPorts (st : State) (c : Ctx) (k : XKind) (refs : List Nat) (go : List Nat → Eff) : Eff :=
  match refs.find? fun r => !portOffset r with
  | some r => .fault 0x05 0 (addrVal r)
  | none =>
    withXlate st c k refs fun pas =>
      withNodes st c pas
        (match (refs.zip pas).find? fun p => 8 < p.1 % 64 && hdrArity (st.headerOf p.2) < p.1 % 64 / 8 - 1 with
          | some p => .fault 0x05 0 (addrVal p.1)
          | none => go pas)

/-- `plink` (R240, R243). -/
def execPlink (e : List Ext) (d a b : R5) (st : State) : Out :=
  issue e (wordOf (.plink e d a b)) (blocks [d.toNat, a.toNat, b.toNat] []) (fun st c =>
    let p := (c.rs a).toNat
    let q := (c.rs b).toNat
    checked [(c.heavy, 0x08, none)]
      (if p == q then .fault 0x01 5 none
       else withPorts st c .read [p, q] fun pas =>
         match pas with
         | [x, y] =>
           if portState (st.nodeWord x) == 2 || portState (st.nodeWord y) == 2 then .fault 0x01 5 none
           else checked [(portState (st.nodeWord x) == 3 || hdrClaimed (st.headerOf x), 0x09, addrVal p),
               (portState (st.nodeWord y) == 3 || hdrClaimed (st.headerOf y), 0x09, addrVal q)]
             (acceptAs st c (.plink q y) [⟨x, p, 8, 0, 0⟩] ⟨0, 0, 0⟩ (.sreg d.toNat) false)
         | _ => .held st c)) st

/-- `pget` (R249). -/
def execPget (e : List Ext) (d a : R5) (st : State) : Out :=
  issue e (wordOf (.pget e d a)) (blocks [d.toNat, a.toNat] []) (fun st c =>
    let p := (c.rs a).toNat
    withPorts st c .read [p] fun pas =>
      acceptAs st c .pget (pas.map fun pa => ⟨pa, p, 8, 0, 0⟩) ⟨0, 0, 0⟩ (.sreg d.toNat) false) st

/-- `ppush` (R250). The manual names no kind of access for its translations: both nodes are translated for writing, since their headers are
written (DEDUCED, log 85). -/
def execPpush (e : List Ext) (a b : R5) (st : State) : Out :=
  issue e (wordOf (.ppush e a b)) (blocks [a.toNat, b.toNat] []) (fun st c =>
    let x := (c.rs a).toNat
    let y := (c.rs b).toNat
    checked [(c.heavy, 0x08, none), (x % 64 != 0 || y % 64 != 0, 0x05, none)]
      (withXlate st c .write [x, y] fun pas =>
        match pas with
        | [p, q] => acceptAs st c (.ppush y q) [⟨p, x, 8, 0, 0⟩] ⟨0, 0, 0⟩ .none false
        | _ => .held st c)) st

/-! ## `rtset` (R251, R252) -/

/-- The rule of a table entry's 16 bytes (R251). -/
def ruleOf (b : List Byte) : Rule :=
  let x := ofBytes b
  { handler := bits x 0 57, typeA := bits x 64 12, typeB := bits x 76 12, heavy := bit x 88, tclass := bits x 89 6,
    cost := bits x 96 16, foot := bits x 112 2, lease := bits x 114 12 }

/-- Is an entry bad, given those before it and the default lease (R252)? One whose `HANDLER`[1:0] is nonzero breaks R251 and is bad too, though R252
does not list it (DESIGN CHOICE, log 113). -/
def ruleBad (b : List Byte) (dl : Nat) (before : List Rule) : Bool :=
  let x := ofBytes b
  let r := ruleOf b
  bits x 57 7 != 0 || bits x 0 2 != 0 || bit x 95 || bits x 126 2 != 0 || r.foot == 3 || r.typeA == 0 || r.typeB == 0 ||
    (!r.heavy && (r.tclass != 0 || r.lease != 0)) || (r.heavy && (2016 < r.lease || (r.lease == 0 && dl == 0))) ||
    before.any fun y => (y.typeA == r.typeA && y.typeB == r.typeB) || (y.typeA == r.typeB && y.typeB == r.typeA)

/-- Checks entries in index order: the table, or the index of the first bad one (R252). -/
def checkRules (dl : Nat) : List (List Byte) → List Rule → Except Nat (List Rule)
  | [], acc => .ok acc
  | b :: l, acc => if ruleBad b dl acc then .error acc.length else checkRules dl l (acc ++ [ruleOf b])

/-- Reads the 16-byte entries of a table that is translated page by page: the bytes of each, or the first poisoned address. -/
def State.readEntries (st : State) (c : Ctx) : List (Nat × Nat) → State × List (List Byte) × Option Nat
  | [] => (st, [], none)
  | (va, pa) :: l =>
    let r := st.plainRead c pa 16
    if r.2.2 then (r.1, [], some (st.poisonedWord c va pa 16))
    else
      let s := r.1.readEntries c l
      (s.1, bytesOf 16 r.2.1 :: s.2.1, s.2.2)

/-- Reserved bits of the operands of `rtset` (R252). -/
def rtsetReserved (sb sd : Nat) : Bool :=
  bits sb 17 15 != 0 || bits sb 44 20 != 0 || bits sd 57 7 != 0 || 65536 < bits sb 0 17 || 2016 < bits sb 32 12

/-- `rtset` (R252): held while an access of the context is under way. Its reads count in the migration predictor once for each line (R294, R295). -/
def execRtset (e : List Ext) (d a b : R5) (st : State) : Out :=
  issue e (wordOf (.rtset e d a b)) (blocks [d.toNat, a.toNat, b.toNat] []) (fun st c =>
    let sa := (c.rs a).toNat
    let sb := (c.rs b).toNat
    let sd := (c.rs d).toNat
    let vas := (List.range (bits sb 0 17)).map fun i => sa + 16 * i
    checked [(c.heavy, 0x08, none)]
      (if rtsetReserved sb sd then .fault 0x01 5 none
       else if sa % 16 != 0 || sd % 4 != 0 then .fault 0x05 0 none
       else
         let pages := pagesOf vas
         withXlate st c .read pages fun pas =>
           let at' := fun va => (((pages.zip pas).find? fun p => p.1 / 65536 == va / 65536).map fun p => p.2 - p.1 % 65536 + va % 65536).getD 0
           if st.accs.any (fun x => x.uid == c.uid && x.answer.isNone) then .held st c
           else match vas.find? fun va => !st.lineHere (at' va) c.acqPod with
             | some va => .waits (st.requestLine (at' va / 128) c.tenant) c
             | none =>
               match st.readEntries c (vas.map fun va => (va, at' va)) with
               | (st, _, some va) => .poison st va
               | (st, l, none) =>
                 match checkRules (bits sb 32 12) l [] with
                 | .error i => .fault 0x01 5 (addrVal i)
                 | .ok t => .done (st.modNet c.net fun n =>
                     { n with table := if t.isEmpty then none else some t, xhand := sd, defLease := bits sb 32 12 })
                     ((vas.map fun va => at' va / 128).dedup.foldl (fun c line => st.predictRead c (128 * line)) c))) st

end Sys2Proof.Machine
end

