-- ==== Sys2Proof/Machine/Vector.lean ====
section
/-! DEFINITION. Vector arithmetic, logic, conversion, moves, reductions and dot products (R138 to R156). -/

namespace Sys2Proof.Machine

/-- Issues a vector instruction: held while a register that it names awaits a result; footprint and tags are checked, and the strips of
pop-bound sources popped (R31, R111, R138, R139, R161). `scal` are its scalar registers, `named` its vector registers, `offs` those of its
sources that hold offsets of addresses. -/
def vectorOpAt (i : Instr) (e : List Ext) (scal named : List R5) (checks : Ctx → List (Nat × Nat × Nat)) (srcs offs : List R5)
    (go : State → Ctx → Eff) : State → Out :=
  issue e (wordOf i) (blocks (scal.map BitVec.toNat) (named.map BitVec.toNat)) fun st c =>
    withVectors st c (named.map BitVec.toNat) (checks c) (srcs.map BitVec.toNat) (offs.map BitVec.toNat) (go st)

/-- The same of an instruction none of whose sources holds offsets. -/
def vectorOp (i : Instr) (e : List Ext) (scal named : List R5) (checks : Ctx → List (Nat × Nat × Nat)) (srcs : List R5)
    (go : State → Ctx → Eff) : State → Out :=
  vectorOpAt i e scal named checks srcs [] go

/-- The accepted set "= a": the tag that operand a carries (R139). -/
def Ctx.likeA (c : Ctx) (a : R5) : Nat := 2 ^ c.tagOf a.toNat

/-- Writes a result computed element by element of width `w` in the active lanes (R55, R140). -/
def writeLanes (st : State) (c : Ctx) (d : R5) (tag w : Nat) (m : W64) (f : Nat → Res) : Eff :=
  let r := lanewise w m (c.getV d.toNat).bits f
  writeVector st c d.toNat ⟨r.1, tag⟩ fun x => .done st (x.raise r.2)

/-- The bits and the tag of a source. -/
def Ctx.src (c : Ctx) (r : R5) : VReg := c.getV r.toNat

/-- A form with one vector source whose result carries its tag: `f` gives an element from the tag and the source element. -/
def unary (i : Instr) (e : List Ext) (d a : R5) (k : BitVec 3) (accept : Nat) (f : Nat → Nat → Res) : State → Out :=
  vectorOp i e [] [d, a] (fun _ => [(0, a.toNat, accept)]) [a] fun st c =>
    let x := c.src a
    let w := tagWidth x.tag
    writeLanes st c d x.tag w (c.getK k.toNat) fun n => f x.tag (elem w x.bits n)

/-- A form with two vector sources of one tag, which the result carries (R139). -/
def binary (i : Instr) (e : List Ext) (d a b : R5) (k : BitVec 3) (accept : Nat) (f : Nat → Nat → Nat → Res) : State → Out :=
  vectorOp i e [] [d, a, b] (fun c => [(0, a.toNat, accept), (1, b.toNat, c.likeA a)]) [a, b] fun st c =>
    let x := c.src a
    let y := c.src b
    let w := tagWidth x.tag
    writeLanes st c d x.tag w (c.getK k.toNat) fun n => f x.tag (elem w x.bits n) (elem w y.bits n)

/-! ## Arithmetic (R142 to R146) -/

/-- An element operation by tag: `g` in a binary format, and otherwise the integer `h` modulo 2^W without flags (R142). -/
def byTag (t : Nat) (g : Fmt → Res) (h : Int) : Res :=
  match tagFmt t with
  | some f => g f
  | none => ⟨wrap (tagWidth t) h, 0⟩

def execVadd (e : List Ext) (d a b : R5) (k : BitVec 3) (r : BitVec 2) (st : State) : Out :=
  binary (.vadd e d a b k r) e d a b k (tagsFP + tagsINT)
    (fun t x y => byTag t (fun f => f.add r.toNat x y) (elemInt t x + elemInt t y)) st
def execVsub (e : List Ext) (d a b : R5) (k : BitVec 3) (r : BitVec 2) (st : State) : Out :=
  binary (.vsub e d a b k r) e d a b k (tagsFP + tagsINT)
    (fun t x y => byTag t (fun f => f.sub r.toNat x y) (elemInt t x - elemInt t y)) st
def execVmul (e : List Ext) (d a b : R5) (k : BitVec 3) (r : BitVec 2) (st : State) : Out :=
  binary (.vmul e d a b k r) e d a b k (tagsFP + tagsINT)
    (fun t x y => byTag t (fun f => f.mul r.toNat x y) (elemInt t x * elemInt t y)) st

/-- The smaller or larger of two elements (R144). -/
def minmaxElem (larger : Bool) (t x y : Nat) : Res :=
  match tagFmt t with
  | some f => f.minmax larger x y
  | none =>
    if t == 5 then
      if x == 0x80 || y == 0x80 then ⟨0x80, 0⟩
      else
        let less := (td8Value y).lt (td8Value x)
        ⟨if less == larger then x else y, 0⟩
    else ⟨if decide (elemInt t y < elemInt t x) == larger then x else y, 0⟩

def execVmin (e : List Ext) (d a b : R5) (k : BitVec 3) (st : State) : Out :=
  binary (.vmin e d a b k) e d a b k (tagsFP + tagsINT + tagsTD8) (minmaxElem false) st
def execVmax (e : List Ext) (d a b : R5) (k : BitVec 3) (st : State) : Out :=
  binary (.vmax e d a b k) e d a b k (tagsFP + tagsINT + tagsTD8) (minmaxElem true) st

/-- The fused forms: (−1)^np · a · b + (−1)^nc · c with one rounding (R143). -/
def fused (i : Instr) (e : List Ext) (d a b z : R5) (k : BitVec 3) (r : BitVec 2) (np nc : Bool) : State → Out :=
  vectorOp i e [] [d, a, b, z] (fun c => [(0, a.toNat, tagsFP), (1, b.toNat, c.likeA a), (2, z.toNat, c.likeA a)]) [a, b, z]
    fun st c =>
      let x := c.src a
      let w := tagWidth x.tag
      writeLanes st c d x.tag w (c.getK k.toNat) fun n =>
        match tagFmt x.tag with
        | some f => f.fma r.toNat np nc (elem w x.bits n) (elem w (c.src b).bits n) (elem w (c.src z).bits n)
        | none => ⟨0, 0⟩

def execVfma (e : List Ext) (d a b c : R5) (k : BitVec 3) (r : BitVec 2) (st : State) : Out :=
  fused (.vfma e d a b c k r) e d a b c k r false false st
def execVfms (e : List Ext) (d a b c : R5) (k : BitVec 3) (r : BitVec 2) (st : State) : Out :=
  fused (.vfms e d a b c k r) e d a b c k r false true st
def execVfnma (e : List Ext) (d a b c : R5) (k : BitVec 3) (r : BitVec 2) (st : State) : Out :=
  fused (.vfnma e d a b c k r) e d a b c k r true false st

/-- The absolute value (or the negation) of an element (R145). -/
def signElem (negate : Bool) (t x : Nat) : Res :=
  match tagFmt t with
  | some f =>
    (match pickNaN f [(f, x)] with
      | some r => r
      | none => ⟨if negate then f.negate x else f.abs x, 0⟩)
  | none =>
    if t == 5 then ⟨if x % 128 == 0 then x else if negate then (x + 128) % 256 else x % 128, 0⟩
    else ⟨wrap (tagWidth t) (if negate then -elemInt t x else |elemInt t x|), 0⟩

def execVabs (e : List Ext) (d a : R5) (k : BitVec 3) (st : State) : Out :=
  unary (.vabs e d a k) e d a k (tagsFP + tagsINT + tagsTD8) (signElem false) st
def execVneg (e : List Ext) (d a : R5) (k : BitVec 3) (st : State) : Out :=
  unary (.vneg e d a k) e d a k (tagsFP + tagsINT + tagsTD8) (signElem true) st
def execVexp2 (e : List Ext) (d a : R5) (k : BitVec 3) (r : BitVec 2) (st : State) : Out :=
  unary (.vexp2 e d a k r) e d a k 4 (fun _ x => fexp2 r.toNat x) st
def execVlog2 (e : List Ext) (d a : R5) (k : BitVec 3) (r : BitVec 2) (st : State) : Out :=
  unary (.vlog2 e d a k r) e d a k 4 (fun _ x => flog2 r.toNat x) st
def execVrcp (e : List Ext) (d a : R5) (k : BitVec 3) (r : BitVec 2) (st : State) : Out :=
  unary (.vrcp e d a k r) e d a k 4 (fun _ x => frcp r.toNat x) st
def execVrsqrt (e : List Ext) (d a : R5) (k : BitVec 3) (r : BitVec 2) (st : State) : Out :=
  unary (.vrsqrt e d a k r) e d a k 4 (fun _ x => frsqrt r.toNat x) st

/-! ## Logic and shifts (R147) -/

/-- A bitwise form on whole lanes, whose operands may carry different tags. -/
def logic (i : Instr) (e : List Ext) (d a b : R5) (k : BitVec 3) (f : Nat → Nat → Nat) : State → Out :=
  vectorOp i e [] [d, a, b] (fun _ => [(0, a.toNat, tagsANY), (1, b.toNat, tagsANY)]) [a, b] fun st c =>
    writeLanes st c d (c.src a).tag 32 (c.getK k.toNat) fun n => ⟨f (elem 32 (c.src a).bits n) (elem 32 (c.src b).bits n), 0⟩

def execVand (e : List Ext) (d a b : R5) (k : BitVec 3) (st : State) : Out := logic (.vand e d a b k) e d a b k (· &&& ·) st
def execVor (e : List Ext) (d a b : R5) (k : BitVec 3) (st : State) : Out := logic (.vor e d a b k) e d a b k (· ||| ·) st
def execVxor (e : List Ext) (d a b : R5) (k : BitVec 3) (st : State) : Out := logic (.vxor e d a b k) e d a b k (· ^^^ ·) st

def execVshl (e : List Ext) (d a b : R5) (k : BitVec 3) (st : State) : Out :=
  binary (.vshl e d a b k) e d a b k tagsINT (fun t x y => ⟨x * 2 ^ (y % tagWidth t) % 2 ^ tagWidth t, 0⟩) st
def execVshr (e : List Ext) (d a b : R5) (k : BitVec 3) (st : State) : Out :=
  binary (.vshr e d a b k) e d a b k tagsINT (fun t x y => ⟨x / 2 ^ (y % tagWidth t), 0⟩) st
def execVsra (e : List Ext) (d a b : R5) (k : BitVec 3) (st : State) : Out :=
  binary (.vsra e d a b k) e d a b k tagsINT
    (fun t x y => ⟨wrap (tagWidth t) (signed (tagWidth t) x / (2 ^ (y % tagWidth t) : Nat)), 0⟩) st

/-! ## Comparison and selection (R148, R149) -/

/-- A condition code on two integers. -/
def intCond (cc : Nat) (x y : Int) : Bool :=
  match cc with
  | 0 => x == y
  | 1 => x != y
  | 2 => decide (x < y)
  | 3 => decide (x ≤ y)
  | 4 => decide (y < x)
  | 5 => decide (y ≤ x)
  | 6 => false
  | _ => true

/-- A condition on an element pair: 1 when it holds, and its flags (R122, R148). -/
def cmpElem (cc t x y : Nat) : Res :=
  match tagFmt t with
  | some f => f.cmp cc x y
  | none =>
    if t == 5 then
      let z := fun v => if v == 0x80 then f32.nan else td8To f32 v
      f32.cmp cc (z x) (z y)
    else ⟨b2n (intCond cc (elemInt t x) (elemInt t y)), 0⟩

/-- The mask of the active lanes in which a condition holds for every element, and the flags (R148). -/
def cmpLanes (cc : Nat) (x y : VReg) (m : W64) : W64 × Nat :=
  let w := tagWidth x.tag
  (List.range 64).foldl (fun (acc : W64 × Nat) l =>
    if m.getLsbD l then
      let r := (List.range (32 / w)).map fun i => cmpElem cc x.tag (elem w x.bits (l * (32 / w) + i)) (elem w y.bits (l * (32 / w) + i))
      (if r.all fun z => z.val == 1 then acc.1 ||| (1#64 <<< l) else acc.1, r.foldl (fun f z => f ||| z.flags) acc.2)
    else acc) (0, 0)

/-- `vcmp` (R148). The field `c` is the condition code. -/
def execVcmp (e : List Ext) (d a b : R5) (c : BitVec 3) (k : BitVec 3) (st : State) : Out :=
  vectorOp (.vcmp e d a b c k) e [] [a, b]
    (fun x => [(0, a.toNat, tagsFP + tagsINT + tagsTD8), (1, b.toNat, x.likeA a)]) [a, b] (fun st x =>
      let r := cmpLanes c.toNat (x.src a) (x.src b) (x.getK k.toNat)
      .done st ((x.setK d.toNat r.1).raise r.2)) st

/-- `vsel` (R149): every lane is written. -/
def execVsel (e : List Ext) (d a b : R5) (k : BitVec 3) (st : State) : Out :=
  vectorOp (.vsel e d a b k) e [] [d, a, b] (fun c => [(0, a.toNat, tagsANY), (1, b.toNat, c.likeA a)]) [a, b] (fun st c =>
    writeLanes st c d (c.src a).tag 32 (BitVec.allOnes 64) fun n =>
      ⟨elem 32 (if (c.getK k.toNat).getLsbD n then (c.src a).bits else (c.src b).bits) n, 0⟩) st

/-! ## Conversion and retagging (R150, R151) -/

/-- The exact value of an element under its tag (R57, R58). -/
def elemValue (t x : Nat) : FVal :=
  match tagFmt t with
  | some f => f.value x
  | none => if t == 5 then td8Value x else .fin (decide (elemInt t x < 0)) (elemInt t x).natAbs 1

/-- The least and the greatest integer of an integer tag. -/
def intRange (t : Nat) : Int × Int :=
  if tagSigned t then (-(2 ^ (tagWidth t - 1) : Nat), (2 ^ (tagWidth t - 1) : Nat) - 1) else (0, (2 ^ tagWidth t : Nat) - 1)

/-- `Convert` of R150: an element of tag `s` to tag `t`. -/
def convElem (s t rm x : Nat) : Res :=
  match tagFmt s, tagFmt t with
  | some f, some g => convFmt f g rm x
  | some f, none =>
    if t == 5 then td8Of (f.value x) (f.isSNaN x)
    else
      let r := intOf rm (intRange t).1 (intRange t).2 (f.value x)
      ⟨wrap (tagWidth t) r.1, r.2⟩
  | none, some g =>
    if s == 5 then (if t == 2 then ⟨td8To f32 x, 0⟩ else g.roundVal rm (td8Value x)) else g.ofInt rm (elemInt s x)
  | none, none =>
    if s == 5 then
      if t == 5 then ⟨x, 0⟩
      else
        let r := intOf rm (intRange t).1 (intRange t).2 (td8Value x)
        ⟨wrap (tagWidth t) r.1, r.2⟩
    else if t == 5 then td8Of (elemValue s x) false
    else
      let r := saturate (intRange t).1 (intRange t).2 (elemInt s x)
      ⟨wrap (tagWidth t) r.1, r.2⟩

/-- `vcvt` (R150). -/
def execVcvt (e : List Ext) (d a : R5) (t : BitVec 4) (k : BitVec 3) (r : BitVec 2) (st : State) : Out :=
  vectorOp (.vcvt e d a t k r) e [] [d, a] (fun _ => [(0, a.toNat, tagsFP + tagsINT + tagsTD8)]) [a] (fun st c =>
    let x := c.src a
    let n := min (2048 / tagWidth x.tag) (2048 / tagWidth t.toNat)
    writeLanes st c d t.toNat (tagWidth t.toNat) (c.getK k.toNat) fun i =>
      if i < n then convElem x.tag t.toNat r.toNat (elem (tagWidth x.tag) x.bits i) else ⟨0, 0⟩) st

/-- `vtag` (R151). -/
def execVtag (e : List Ext) (d a : R5) (t : BitVec 4) (st : State) : Out :=
  vectorOp (.vtag e d a t) e [] [d, a] (fun _ => [(0, a.toNat, tagsANY)]) [a] (fun st c =>
    writeVector st c d.toNat ⟨(c.src a).bits, t.toNat⟩ fun x => .done st x) st

/-! ## Moves (R152 to R154) -/

/-- `vmov` (R152). -/
def execVmov (e : List Ext) (d a : R5) (k : BitVec 3) (st : State) : Out :=
  vectorOp (.vmov e d a k) e [] [d, a] (fun _ => [(0, a.toNat, tagsANY)]) [a] (fun st c =>
    writeLanes st c d (c.src a).tag 32 (c.getK k.toNat) fun n => ⟨elem 32 (c.src a).bits n, 0⟩) st

/-- `vbcast` (R152). -/
def execVbcast (e : List Ext) (d a : R5) (t : BitVec 4) (k : BitVec 3) (st : State) : Out :=
  vectorOp (.vbcast e d a t k) e [a] [d] (fun _ => []) [] (fun st c =>
    writeLanes st c d t.toNat (tagWidth t.toNat) (c.getK k.toNat) fun _ => ⟨(c.rs a).toNat % 2 ^ tagWidth t.toNat, 0⟩) st

/-- `vext` (R153). -/
def execVext (e : List Ext) (d a b : R5) (st : State) : Out :=
  vectorOp (.vext e d a b) e [d, b] [a] (fun _ => [(0, a.toNat, tagsANY)]) [a] (fun st c =>
    let x := c.src a
    let w := tagWidth x.tag
    .done st (c.wr d (BitVec.ofInt 64 (elemInt x.tag (elem w x.bits ((c.rs b).toNat % (2048 / w))))))) st

/-- `vins` (R153). Its destination is no source of a stream: under a pop binding of `vd` nothing is popped and the write is discarded, since R161 does
not say whether the element that stays makes it a source (DESIGN CHOICE, log 104). -/
def execVins (e : List Ext) (d a b : R5) (st : State) : Out :=
  vectorOp (.vins e d a b) e [a, b] [d] (fun _ => []) [] (fun st c =>
    let x := c.src d
    let w := tagWidth x.tag
    let j := (c.rs b).toNat % (2048 / w)
    writeVector st c d.toNat ⟨BitVec.ofNat 2048 (putBits x.bits.toNat (w * j) w (c.rs a).toNat), x.tag⟩ fun y => .done st y) st

/-- `vperm` (R154). -/
def execVperm (e : List Ext) (d a b : R5) (k : BitVec 3) (st : State) : Out :=
  vectorOp (.vperm e d a b k) e [] [d, a, b] (fun _ => [(0, a.toNat, tagsANY), (1, b.toNat, tagsI32)]) [a, b] (fun st c =>
    writeLanes st c d (c.src a).tag 32 (c.getK k.toNat) fun n =>
      ⟨elem 32 (c.src a).bits (elem 32 (c.src b).bits n % 64), 0⟩) st

/-! ## Reductions (R74, R155) -/

/-- One level of a tree over positions some of which are absent: the nodes, and the flags that they raise (R67, R74). -/
def treeLevel {α : Type} (f : α → α → α × Nat) : List (Option α) → List (Option α) × Nat
  | x :: y :: l =>
    let r := treeLevel f l
    match x, y with
    | some a, some b => (some (f a b).1 :: r.1, (f a b).2 ||| r.2)
    | some a, none => (some a :: r.1, r.2)
    | none, z => (z :: r.1, r.2)
  | l => (l, 0)

/-- Some levels of a tree: its root, and the flags. -/
def treeFold {α : Type} (f : α → α → α × Nat) : Nat → List (Option α) → Option α × Nat
  | 0, l => (l.head?.getD none, 0)
  | n + 1, l =>
    let r := treeLevel f l
    let t := treeFold f n r.1
    (t.1, r.2 ||| t.2)

/-- The elements of a register, absent in inactive lanes. -/
def leaves (w : Nat) (m : W64) (x : BitVec 2048) : List (Option Nat) :=
  (List.range (2048 / w)).map fun i => if laneOn m w i then some (elem w x i) else none

/-- The sum of the active elements and its tag (R74, R155). -/
def redSum (rm : Nat) (m : W64) (x : VReg) : Res × Nat :=
  let w := tagWidth x.tag
  match tagFmt x.tag with
  | some f =>
    let r := treeFold (fun a b => let s := f.add rm a b; (s.val, s.flags)) 8 (leaves w m x.bits)
    -- a NaN that no addition has met is quieted like any other operand (R52)
    (match pickNaN f [(f, r.1.getD 0)] with
      | some q => (⟨q.val, r.2 ||| q.flags⟩, x.tag)
      | none => (⟨r.1.getD 0, r.2⟩, x.tag))
  | none =>
    let s := ((activeElems w m x.bits).map (elemInt x.tag)).sum
    (⟨wrap 32 s, 0⟩, if x.tag == 6 then 1 else if x.tag == 8 then 7 else x.tag)

/-- The extreme of the active elements (R155). -/
def redExtreme (larger : Bool) (m : W64) (x : VReg) : Res :=
  match activeElems (tagWidth x.tag) m x.bits with
  | [] =>
    (match tagFmt x.tag with
      | some f => ⟨f.nan, 0⟩
      | none => ⟨if x.tag == 5 then 0x80 else wrap (tagWidth x.tag) (if larger then (intRange x.tag).1 else (intRange x.tag).2), 0⟩)
  | a :: l =>
    l.foldl (fun r v => let s := minmaxElem larger x.tag r.val v; ⟨s.val, r.flags ||| s.flags⟩) (minmaxElem larger x.tag a a)

/-- A reduction: one value in element 0 and zero in every other bit (R155). -/
def reduction (i : Instr) (e : List Ext) (d a : R5) (accept : Nat) (f : Ctx → VReg → Res × Nat) : State → Out :=
  vectorOp i e [] [d, a] (fun _ => [(0, a.toNat, accept)]) [a] fun st c =>
    let r := f c (c.src a)
    writeVector st c d.toNat ⟨BitVec.ofNat 2048 r.1.val, r.2⟩ fun x => .done st (x.raise r.1.flags)

def execVredsum (e : List Ext) (d a : R5) (k : BitVec 3) (r : BitVec 2) (st : State) : Out :=
  reduction (.vredsum e d a k r) e d a (tagsFP + tagsINT) (fun c x => redSum r.toNat (c.getK k.toNat) x) st
def execVredmax (e : List Ext) (d a : R5) (k : BitVec 3) (st : State) : Out :=
  reduction (.vredmax e d a k) e d a (tagsFP + tagsINT + tagsTD8) (fun c x => (redExtreme true (c.getK k.toNat) x, x.tag)) st
def execVredmin (e : List Ext) (d a : R5) (k : BitVec 3) (st : State) : Out :=
  reduction (.vredmin e d a k) e d a (tagsFP + tagsINT + tagsTD8) (fun c x => (redExtreme false (c.getK k.toNat) x, x.tag)) st

/-! ## Dot products (R72, R156) -/

/-- The sum of `c` and some products, rounded once, with the special cases of R72 in their order: the operands in NaN order, the
factors, and the addend. -/
def dotSum (rm : Nat) (nans : List (Fmt × Nat)) (factors : List (FVal × FVal)) (c : Nat) : Res :=
  match pickNaN f32 nans with
  | some r => r
  | none =>
    let p := factors.map fun x => x.1.mul x.2
    if p.any fun x => x == none then ⟨f32.nan, flagNV⟩ else f32.sum rm (f32.value c :: p.filterMap id)

/-- A TD8 element in the NaN choice of R72. -/
def td8Nan (x : Nat) : Fmt × Nat := if x == 0x80 then (f32, f32.nan) else (f32, 0)

/-- A dot product over the `32 / w` elements of each lane. -/
def dot (i : Instr) (e : List Ext) (d a b z : R5) (k : BitVec 3) (rm tag : Nat) (nan : Nat → Fmt × Nat) (val : Nat → FVal) : State → Out :=
  vectorOp i e [] [d, a, b, z] (fun _ => [(0, a.toNat, 2 ^ tag), (1, b.toNat, 2 ^ tag), (2, z.toNat, 4)]) [a, b, z] fun st c =>
    let w := tagWidth tag
    writeLanes st c d 2 32 (c.getK k.toNat) fun l =>
      let js := (List.range (32 / w)).map fun j => l * (32 / w) + j
      let xs := js.map fun j => elem w (c.src a).bits j
      let ys := js.map fun j => elem w (c.src b).bits j
      let s := elem 32 (c.src z).bits l
      dotSum rm (xs.map nan ++ ys.map nan ++ [(f32, s)]) ((xs.zip ys).map fun p => (val p.1, val p.2)) s

def execVdotBf16 (e : List Ext) (d a b c : R5) (k : BitVec 3) (r : BitVec 2) (st : State) : Out :=
  dot (.vdotBf16 e d a b c k r) e d a b c k r.toNat 3 (fun x => (bf16, x)) bf16.value st
def execVdotTd8 (e : List Ext) (d a b c : R5) (k : BitVec 3) (r : BitVec 2) (st : State) : Out :=
  dot (.vdotTd8 e d a b c k r) e d a b c k r.toNat 5 td8Nan td8Value st

end Sys2Proof.Machine
end

