-- ==== Sys2Proof/Machine/Streams.lean ====
section
/-! DEFINITION. Masks, stream bindings and invariant registers (R157 to R168). -/

namespace Sys2Proof.Machine

/-! ## Masks (R157) -/

/-- Issues an instruction on mask and scalar registers. -/
def maskOp (i : Instr) (e : List Ext) (scal : List R5) (f : Ctx → Ctx) : State → Out :=
  issue e (wordOf i) (blocks (scal.map BitVec.toNat) []) fun st c => .done st (f c)

def execKset (e : List Ext) (d a : R5) (st : State) : Out := maskOp (.kset e d a) e [a] (fun c => c.setK d.toNat (c.rs a)) st
def execKand (e : List Ext) (d a b : R5) (st : State) : Out :=
  maskOp (.kand e d a b) e [] (fun c => c.setK d.toNat (c.getK a.toNat &&& c.getK b.toNat)) st
def execKor (e : List Ext) (d a b : R5) (st : State) : Out :=
  maskOp (.kor e d a b) e [] (fun c => c.setK d.toNat (c.getK a.toNat ||| c.getK b.toNat)) st
def execKnot (e : List Ext) (d a : R5) (st : State) : Out := maskOp (.knot e d a) e [] (fun c => c.setK d.toNat (~~~c.getK a.toNat)) st
def execKpop (e : List Ext) (d a : R5) (st : State) : Out :=
  maskOp (.kpop e d a) e [d] (fun c => c.wr d (BitVec.ofNat 64 ((List.range 64).filter fun l => (c.getK a.toNat).getLsbD l).length)) st

/-! ## Stream bindings (R159, R162, R164) -/

/-- Unbinds a register's slot (R164). -/
def Ctx.unbind (c : Ctx) (r : Nat) : Ctx := { c with slots := c.slots.filter fun x => x.reg != r }

/-- Has a register's push slot strips that are not yet written (R163)? -/
def Ctx.draining (c : Ctx) (r : Nat) : Bool := c.slots.any fun x => x.reg == r && x.push && !x.staged.isEmpty

/-- Has one of a context's push slots strips that are not yet written? -/
def Ctx.anyDraining (c : Ctx) : Bool := c.slots.any fun x => x.push && !x.staged.isEmpty

/-- `sbind` in either direction (R159). -/
def bindStream (i : Instr) (e : List Ext) (d a : R5) (push : Bool) : State → Out :=
  issue e (wordOf i) (blocks [a.toNat] [d.toNat]) fun st c =>
    let ra := (c.rs a).toNat
    if footLimit c.foot ≤ d.toNat then .fault 0x02 0 none
    else if st.unreached c then .held st c
    else checked [(ra % 64 != 0, 0x05, none)]
      (withBytes st c ra 64 fun st read b =>
        let h := shapeOf b
        match rejectShape b ra with
        | some r => rejected r
        | none =>
          if push && h.space == 2 then .fault 0x01 5 (addrVal ra)
          else if push && c.heavy && (h.space == 1 || h.leavesLease c) then .fault 0x08 0 none
          else if (c.slotOf d.toNat).isNone && 4 ≤ c.slots.length then .fault 0x01 4 none
          else if c.draining d.toNat then .held st c
          else
            let c := (read c).unbind d.toNat
            .done st.tickStamp { c with slots := c.slots ++ [⟨d.toNat, push, h, 0, [], 0, st.stamp, []⟩] })

def execSbindPop (e : List Ext) (d a : R5) (st : State) : Out := bindStream (.sbindPop e d a) e d a false st
def execSbindPush (e : List Ext) (d a : R5) (st : State) : Out := bindStream (.sbindPush e d a) e d a true st

/-- `sfree` (R163, R164): held until every pushed strip has been written. -/
def execSfree (e : List Ext) (d : R5) (st : State) : Out :=
  issue e (wordOf (.sfree e d)) (blocks [] [d.toNat]) (fun st c =>
    if footLimit c.foot ≤ d.toNat then .fault 0x02 0 none
    else if c.draining d.toNat then .held st c
    else .done st (c.unbind d.toNat)) st

/-! ## Invariant registers (R165 to R168) -/

/-- Binary64 (R165). -/
def f64 : Fmt := ⟨11, 52⟩

/-- `SUM`. -/
def qSum (q : BitVec 128) : Nat := bits q.toNat 0 64
/-- `COUNT`. -/
def qCount (q : BitVec 128) : Nat := bits q.toNat 64 32
/-- `KIND`. -/
def qKind (q : BitVec 128) : Nat := bits q.toNat 96 1

/-- An invariant register of its fields. -/
def mkQ (sum count kind : Nat) : BitVec 128 := BitVec.ofNat 128 (sum % 2 ^ 64 + count % 2 ^ 32 * 2 ^ 64 + kind * 2 ^ 96)

/-- Rounds a sum of a binary64 value and an element's exact value; a NaN gives the canonical NaN (R166). -/
def foldSum (s : Nat) (v : FVal) : Nat :=
  if f64.value s == .nan || v == .nan then f64.nan else (f64.sum 0 [f64.value s, v]).val

/-- Folds the active elements of a register into an invariant register (R166). -/
def foldInto (kind : Nat) (q : BitVec 128) (m : W64) (x : VReg) : BitVec 128 :=
  let l := activeElems (tagWidth x.tag) m x.bits
  let sum := l.foldl (fun s v => if kind == 0 then (s + v) % 2 ^ 64 else foldSum s (elemValue x.tag v)) (qSum q)
  mkQ sum (qCount q + l.length) kind

/-- `ckacc` (R166): the kind of `qd` is checked behind the popping of a bound `va`, whose page may be awaited or faulty first; R166 leaves their
order open (DESIGN CHOICE, log 83). -/
def accumulate (i : Instr) (e : List Ext) (d a : R5) (k : BitVec 3) (kind accept : Nat) : State → Out :=
  vectorOp i e [] [a] (fun _ => [(0, a.toNat, accept)]) [a] fun st c =>
    let q := c.getQ d.toNat
    if q != 0 && qKind q != kind then .format (formatRec 0 0 d.toNat 3)
    else .done st (c.setQ d.toNat (foldInto kind q (c.getK k.toNat) (c.src a)))

def execCkaccMod (e : List Ext) (d a : R5) (k : BitVec 3) (st : State) : Out :=
  accumulate (.ckaccMod e d a k) e d a k 0 tagsANY st
def execCkaccFsum (e : List Ext) (d a : R5) (k : BitVec 3) (st : State) : Out :=
  accumulate (.ckaccFsum e d a k) e d a k 1 (tagsFP + tagsINT + tagsTD8) st

def execCkclr (e : List Ext) (d : R5) (st : State) : Out := maskOp (.ckclr e d) e [] (fun c => c.setQ d.toNat 0) st
def execCkrdLo (e : List Ext) (d a : R5) (st : State) : Out :=
  maskOp (.ckrdLo e d a) e [d] (fun c => c.wr d (BitVec.ofNat 64 (c.getQ a.toNat).toNat)) st
def execCkrdHi (e : List Ext) (d a : R5) (st : State) : Out :=
  maskOp (.ckrdHi e d a) e [d] (fun c => c.wr d (BitVec.ofNat 64 ((c.getQ a.toNat).toNat / 2 ^ 64))) st

/-- Does |a − b| exceed `t`, all values exact (R168)? -/
def beyond (a b t : FVal) : Bool :=
  match a, b with
  | .fin .., .fin .. =>
    let d := addFrac a.frac b.negate.frac
    t.lt (.fin false d.1.natAbs d.2)
  | _, _ => t != .inf false

/-- The comparison of two invariant registers (R168): whether it fails, whether the kinds differ, whether a NaN took part, and x. -/
def compareQ (a b : BitVec 128) (t : W64) : Bool × Bool × Bool × W64 :=
  if qKind a != qKind b then (true, true, false, 0)
  else if qKind a == 0 then
    let x := wrap 64 ((qSum a : Int) - qSum b)
    (decide (t.toNat < (signed 64 x).natAbs), false, false, BitVec.ofNat 64 x)
  else
    let va := f64.value (qSum a)
    let vb := f64.value (qSum b)
    let vt := f64.value t.toNat
    let x : W64 := BitVec.ofNat 64 (if va == .nan || vb == .nan then f64.nan else (f64.sum 0 [va, vb.negate]).val)
    if va == .nan || vb == .nan || vt == .nan then (true, false, true, x)
    else ((va.lt vb || vb.lt va) && beyond va vb vt, false, false, x)

/-- `check` (R168): the field `d` names the tolerance. -/
def execCheck (e : List Ext) (d a b : R5) (st : State) : Out :=
  issue e (wordOf (.check e d a b)) (blocks [d.toNat] []) (fun st c =>
    let r := compareQ (c.getQ a.toNat) (c.getQ b.toNat) (c.rs d)
    if r.1 then .trap st c 0x18 (a.toNat + b.toNat * 4 + b2n r.2.1 * 16 + b2n r.2.2.1 * 32) r.2.2.2 else .done st c) st

end Sys2Proof.Machine
end

