-- ==== Sys2Proof/Machine/Task.lean ====
section
/-! DEFINITION. Task flow, tiles and work counters: `yield`, `tend`, `chsend`, `hspawn`, `commit`, `tnew`, `tver`, `workq` (R255 to
R263). -/

namespace Sys2Proof.Machine

/-- `yield` (R255, R36). -/
def execYield (e : List Ext) (n : BitVec 12) (st : State) : Out :=
  issueFree e (wordOf (.yield e n)) (blocks [] [])
    (fun st c => .yielded st c (if n == 0 then 4096 else n.toNat) none true) st

/-- Has a context matrix commands queued or in the unit, push slots that still drain, or a global load whose answer is still to be pushed
(R186, R162, R164)? -/
def State.working (st : State) (c : Ctx) : Bool :=
  (st.matrixCmds c.start).any (fun m => m.uid == c.uid) || c.anyDraining ||
    st.accs.any fun a => a.uid == c.uid && c.slots.any fun x => x.push && a.dest.vector x.reg

/-- A heavy copy has ended with `tend` (R256, R336): its firing has one live copy less. -/
def State.copyEnded (st : State) (c : Ctx) : State :=
  match c.firing with
  | some f => (st.copyGone f c.uid).settleFiring f .quiet
  | none => st

/-- `tend` (R256): its own words count as work before the task ends (R25). -/
def execTend (e : List Ext) (st : State) : Out :=
  issueFree e (wordOf (.tend e)) (blocks [] []) (fun st c =>
    if st.working c then .held st c
    else
      let st := st.modTenant c.tenant fun t => t.addWork st.time (groupWords e) c.backup
      .ended ((st.endCtx c endTend).copyEnded c).tickStamp) st

/-! ## `chsend` (R257) -/

/-- The attributes of a channel 0..14 and the net that owns it: an installed net whose `LIMIT` there is nonzero (R315). -/
def State.channel (st : State) (ch : Nat) : Option (Nat × ChanAttr) :=
  st.nets.findSome? fun p => ((p.2.chans[ch]?).filter fun a => a.limit != 0).map fun a => (p.1, a)

/-- Counts an item that leaves a layer (R326). -/
def State.countSent (st : State) (l launch : Nat) : State :=
  st.modLayer l fun y => { y with sent := y.sent.put launch (y.sent.getD launch 0 + 1) }

/-- Counts an item that a layer receives (R326). -/
def State.countRecv (st : State) (l launch : Nat) : State :=
  st.modLayer l fun y => { y with recv := y.recv.put launch (y.recv.getD launch 0 + 1) }

/-- The number of a source context in a message to another package: its launch and its key. -/
def Ctx.srcNumber (c : Ctx) : Nat := c.launch * 2 ^ 18 + c.key

/-- Number of the flow of messages from a source context to a channel (R346). -/
def msgFlow (dst src cid ch : Nat) : Nat := ((src * 512 + dst) * 4096 + cid) * 32 + ch

/-- Sends the 32 bytes of a message: within the package it is in transit to its channel; to another package it leaves on the fabric with
the `TAG` of its flow (R257, R326, R346). -/
def State.sendMsg (st : State) (c : Ctx) (cid ch : Nat) (far : Option Nat) (bytes : List Byte) : State :=
  match far with
  | none =>
    let m : Msg :=
      { id := st.stamp, launch := c.launch, net := c.net, tenant := c.tenant, src := c.start, cid := cid, chan := ch, bytes := bytes,
        entered := 0, mseq := 0, uid := c.uid, guest := none, pkg := none }
    let st := if layerOf c.start == layerOf cid then st else st.countSent (layerOf c.start) c.launch
    { st with msgs := st.msgs ++ [m] }.tickStamp
  | some p =>
    let st := st.countSent (layerOf c.start) c.launch
    let r := st.nextTag (msgFlow p c.srcNumber cid ch)
    r.1.send p 0 0 c.tenant r.2 (.msg ch cid c.net c.srcNumber bytes) (some c.launch)

/-- `chsend` (R257): ordered after every earlier access of the context at `.pkg`, or at `.pod` for another package. `sa`[25] = 1 with this package's
number names this package, `sa`[24:16] is ignored while `sa`[25] = 0, and the check of the channel's level is made for a channel of this package
only (DESIGN CHOICE, log 114). -/
def execChsend (e : List Ext) (a b : R5) (st : State) : Out :=
  issue e (wordOf (.chsend e a b)) (blocks [a.toNat, b.toNat] []) (fun st c =>
    let v := (c.rs a).toNat
    let x := (c.rs b).toNat
    let ch := bits v 0 4
    let cid := bits v 4 12
    let far := if bit v 25 && bits v 16 9 != st.pkg then some (bits v 16 9) else none
    let own := (st.channel ch).filter fun p => p.1 == c.net
    if c.heavy then .fault 0x08 0 none
    else if ch == 15 || bits v 26 38 != 0 || (far.isNone && own.isNone) then .fault 0x01 5 none
    else checked [(far.isNone && own.any (fun p => p.2.sup) && !c.sup, 0x03, none), (!validCid cid, 0x07, none), (x % 16 != 0, 0x05, none),
        (decide (0x7FFE0 < x), 0x06, none)]
      (withFence st c (if far.isSome then 6 else 5) false fun st c =>
        atBank (.done (st.sendMsg c cid ch far ((st.core c.start).lm.readBytes x 32)) c))) st

/-! ## `hspawn` (R258) -/

/-- Pins a version of a tenant's tile for a firing, if it is still retained (R258, R335). -/
def State.pinVersion (st : State) (f tenant tile ver : Nat) : State :=
  match st.tiles.find tile with
  | some t =>
    if t.tenant == tenant && (t.vers.find ver).isSome then
      (st.modTile tile fun t => { t with pins := t.pins ++ [(ver, f)] }).modFiring f fun x => { x with pins := x.pins ++ [(tile, ver)] }
    else st
  | none => st

/-- A new firing, which waits for the placement of its first copy. -/
def Firing.fresh (launch net tenant handler prio tclass foot lease : Nat) (vals : List W64) (pair : Option (Nat × Nat)) : Firing :=
  { launch := launch, net := net, tenant := tenant, pair := pair, tclass := tclass, foot := foot, lease := lease, handler := handler,
    prio := prio, vals := vals, live := [], commits := 0, accepted := false, kept := none, pins := [], backedUp := false,
    poisoned := false, waiting := 1 }

/-- The four doublewords of some bytes. -/
def fourWords (b : List Byte) : List W64 := (List.range 4).map fun i => BitVec.ofNat 64 (bits (ofBytes b) (64 * i) 64)

/-- The firing and the task that an `hspawn` asks for (R258): the pins are taken before it is accepted. -/
def State.spawn (st : State) (c : Ctx) (handler ctl : Nat) (vals : List W64) : State :=
  let f := st.stamp
  let prio := ((st.launches.find c.launch).map fun l => l.prio).getD 0
  let lease := 256 * bits ctl 16 12
  let val := fun i => ((vals[i]?).getD 0).toNat
  let st := { st with firings := st.firings.put f (Firing.fresh c.launch c.net c.tenant handler prio (bits ctl 0 6) (bits ctl 6 2) lease vals none),
                      stamp := f + 1 }
  let st := if bit ctl 8 then st.pinVersion f c.tenant (val 0) (val 1 % 2 ^ 32) else st
  let st := if bit ctl 9 then st.pinVersion f c.tenant (val 2) (val 3 % 2 ^ 32) else st
  let t : Task :=
    { id := st.stamp, kind := .hspawn, launch := c.launch, net := c.net, tenant := c.tenant, prio := prio, handler := handler,
      vals := vals, foot := bits ctl 6 2, heavy := true, tclass := bits ctl 0 6, lease := lease, firing := some f, dataAddr := val 0,
      apart := none, entered := st.stamp }
  { st with toPlace := st.toPlace ++ [t], stamp := st.stamp + 1 }

/-- `hspawn` (R258, R397): a release at `.pkg`. Bits [63:57] of the handler address are cut off when the task starts (DESIGN CHOICE, log 115). -/
def execHspawn (e : List Ext) (d a b : R5) (st : State) : Out :=
  issue e (wordOf (.hspawn e d a b)) (blocks [d.toNat, a.toNat, b.toNat] []) (fun st c =>
    let v := (c.rs a).toNat
    let x := (c.rs b).toNat
    let ctl := (c.rs d).toNat
    checked [(c.heavy, 0x08, none)]
      (if bits ctl 6 2 == 3 || bits ctl 16 12 == 0 || 2016 < bits ctl 16 12 || bits ctl 10 6 != 0 || bits ctl 28 36 != 0 then .fault 0x01 5 none
       else checked [(v % 4 != 0 || x % 16 != 0, 0x05, none), (decide (0x7FFE0 < x), 0x06, none)]
        (withFence st c 5 false fun st c =>
          atBank (.done (st.spawn c v ctl (fourWords ((st.core c.start).lm.readBytes x 32))) c)))) st

/-! ## `commit` (R259, R260) -/

/-- The commit descriptor's fields, from its 64 bytes as a number (R259). -/
structure Descr where
  rbase : Nat
  rlen : Nat
  norw : Bool
  hdr : Nat
  sealed : Bool
  pay : List Byte
  joins : List (Nat × Nat)
  reserved : Bool
deriving DecidableEq, Repr

/-- Reads a commit descriptor (R259). -/
def descrOf (b : List Byte) : Descr :=
  let x := ofBytes b
  let j := (List.range 8).map fun i => bits x (320 + 16 * i) 16
  { rbase := bits x 0 19, rlen := bits x 20 17, norw := bit x 63, hdr := bits x 64 18, sealed := bit x 82, pay := (b.drop 16).take 24,
    joins := (j.filter fun v => bit v 8).map fun v => (v % 16, bits v 4 4),
    reserved := bit x 19 || bits x 37 26 != 0 || bits x 83 45 != 0 || j.any (fun v => bits v 9 7 != 0) || bits x 448 64 != 0 }

/-- Does every join end name a port, given the arities of left, right and N; no N has no port (R260)? -/
def endNames (al ar : Nat) (hdr : Nat) (code : Nat) : Bool :=
  match code / 4 with
  | 0 => code % 4 ≤ al
  | 1 => code % 4 ≤ ar
  | 2 => hdrType hdr != 0 && code % 4 ≤ hdrArity hdr
  | _ => false

/-- The ends that a rewrite must use once each: every auxiliary port of the pair and every port of N (R260). -/
def endsDue (al ar : Nat) (hdr : Nat) : List Nat :=
  (List.range al).map (· + 1) ++ (List.range ar).map (· + 5) ++
    (if hdrType hdr == 0 then [] else (List.range (hdrArity hdr + 1)).map (· + 8))

/-- Are the joins of a rewrite right (R260)? -/
def joinsOk (d : Descr) (al ar : Nat) : Bool :=
  let ends := d.joins.flatMap fun p => [p.1, p.2]
  ends.all (fun c => endNames al ar d.hdr c && c != 0 && c != 4) &&
    (endsDue al ar d.hdr).all fun c => (ends.filter fun x => x == c).length == 1

/-- Does check 5 of R260 pass? `pair` holds the arities of the task's pair. -/
def commitOk (a b : Nat) (d : Descr) (pair : Option (Nat × Nat)) : Bool :=
  !d.reserved && a != 0 && a < 2 ^ 40 && b < 2 ^ 32 && d.rbase % 16 == 0 && 16 ≤ d.rlen && d.rlen ≤ 65536 && d.rlen % 16 == 0 &&
    hdrPfmt d.hdr ≤ 1 && !(d.sealed && (hdrType d.hdr == 0 || hdrPfmt d.hdr == 0)) && d.norw == pair.isNone &&
    (match pair with
      | some p => joinsOk d p.1 p.2
      | none => true)

/-- The arities of a context's pair (R254). -/
def State.pairArity (st : State) (c : Ctx) : Option (Nat × Nat) :=
  ((c.firing.bind st.firings.find).bind fun f => f.pair).map fun p => (hdrArity (st.nodeWord p.1), hdrArity (st.nodeWord p.2))

/-- The commit that a context sends to the weir (R260). The work that it reports is `RWC` at the commit, without the word of the `commit`
itself (R329, R398; DEDUCED, log 91). -/
def State.newCommit (st : State) (c : Ctx) (tile base : Nat) (d : Descr) : Commit :=
  { id := st.stamp, launch := c.launch, net := c.net, tenant := c.tenant, firing := c.firing.getD 0, uid := c.uid, cid := c.start,
    tile := tile, base := base, rbase := d.rbase, rlen := d.rlen, norw := d.norw, hdr := d.hdr, sealed := d.sealed, pay := d.pay,
    joins := d.joins, epoch := (st.cluster (clusterOf c.start)).epoch, age := (st.time - c.startTime) / 3, work := c.rwc,
    leaseBase := c.leaseBase, tclass := c.tclass, backup := c.backup }

/-- `commit` (R259, R260): after its checks it waits for its matrix commands and push slots and releases; then the context ends and its
lease stays held. -/
def execCommit (e : List Ext) (d a b : R5) (st : State) : Out :=
  issueFree e (wordOf (.commit e d a b)) (blocks [d.toNat, a.toNat, b.toNat] []) (fun st c =>
    let x := (c.rs d).toNat
    let k := st.core c.start
    if !c.heavy then .fault 0x01 8 none
    else checked [(!c.owns x 64, 0x08, none), (x % 64 != 0, 0x05, none), (decide (0x7FFC0 < x), 0x06, none)]
      (if k.poisoned x 64 then .poison st (8 * ((wordsTouched x 64).find? k.lpoison.contains).getD 0)
       else
        let dd := descrOf (k.lm.readBytes x 64)
        if !commitOk (c.rs a).toNat (c.rs b).toNat dd (st.pairArity c) then .fault 0x01 5 none
        else if !c.owns dd.rbase dd.rlen then .fault 0x08 0 none
        else if st.working c then .held st c
        else withFence st c 5 false fun st c =>
          let st := { st with commits := st.commits ++ [st.newCommit c (c.rs a).toNat (c.rs b).toNat dd] }.tickStamp
          let st := match c.firing with
            | some f => st.modFiring f fun y => { y with commits := y.commits + 1 }
            | none => st
          .ended (st.endCtx c endCommit))) st

/-! ## Requests: `tnew`, `tver`, `workq` (R261 to R263) -/

/-- Accepts a request that has no element and whose answer is awaited (R111, R29). -/
def acceptRequest (st : State) (c : Ctx) (op : AccOp) (d : R5) : Eff :=
  let a : Access :=
    { id := st.stamp, grp := st.stamp, uid := c.uid, key := c.key, launch := c.launch, net := c.net, tenant := c.tenant, cid := c.cur,
      op := op, elems := [], ord := ⟨0, 0, 0⟩, dest := .sreg d.toNat, sx := false, answer := none, sent := false }
  .done { st with accs := st.accs ++ [a] }.tickStamp c

/-- `tnew` (R261): the data is read when it issues. -/
def execTnew (e : List Ext) (d a : R5) (st : State) : Out :=
  issue e (wordOf (.tnew e d a)) (blocks [d.toNat, a.toNat] []) (fun st c =>
    let v := (c.rs a).toNat
    let base := bits v 0 19
    let size := bits v 20 17
    let zero := bit v 63
    let k := st.core c.start
    checked [(c.heavy, 0x08, none)]
      (if base % 16 != 0 || size < 16 || 65536 < size || size % 16 != 0 || (zero && base != 0) || bit v 19 || bits v 37 26 != 0 then
         .fault 0x01 5 none
       else checked [(beyondLocal base size, 0x06, none)]
         (let bad := if zero then [] else ((wordsTouched base size).filter k.lpoison.contains).map fun w => w - base / 8
          afterAcquires st c (acceptRequest st c (.tnew size (if zero then [] else k.lm.readBytes base size) bad) d)))) st

/-- `tver` (R262). -/
def execTver (e : List Ext) (d a : R5) (st : State) : Out :=
  issue e (wordOf (.tver e d a)) (blocks [d.toNat, a.toNat] []) (fun st c => acceptRequest st c (.tver (c.rs a).toNat) d) st

/-- `workq` (R263). -/
def execWorkq (e : List Ext) (a b : R5) (st : State) : Out :=
  issue e (wordOf (.workq e a b)) (blocks [a.toNat, b.toNat] []) (fun st c =>
    let v := (c.rs a).toNat
    let x := (c.rs b).toNat
    checked [(c.heavy && !c.owns (x / 16 * 16) 16, 0x08, none), (x % 16 != 0, 0x05, none), (beyondLocal x 16, 0x06, none)]
      (if bits v 6 26 != 0 || bits v 4 2 == 3 then .fault 0x01 5 none
       else
        let r : WorkReq :=
          { id := st.stamp, uid := c.uid, heavy := c.heavy, launch := c.launch, cid := c.start, counter := bits v 0 4, op := bits v 4 2,
            arg := bits v 32 32, low := bits v 0 6, addr := x }
        .done { st with workReqs := st.workReqs ++ [r] }.tickStamp c)) st

end Sys2Proof.Machine
end

