-- ==== Sys2Proof/Machine/System.lean ====
section
/-! DEFINITION. Traps, time, discovery, power, and words with an unassigned major opcode (R42, R81, R264 to R267). -/

namespace Sys2Proof.Machine

/-- `trap` (R264). -/
def execTrap (e : List Ext) (a n : R5) (st : State) : Out :=
  issue e (wordOf (.trap e a n)) (blocks [a.toNat] []) (fun st c => .trap st c 0x19 n.toNat (c.rs a)) st

/-- `eret` (R264). -/
def execEret (e : List Ext) (st : State) : Out :=
  issue e (wordOf (.eret e)) (blocks [] []) (fun st c =>
    match c.returnFromTrap with
    | some (pc, c) => .jump st c pc
    | none => .fault 0x01 5 none) st

/-- `tstamp` (R265). -/
def execTstamp (e : List Ext) (d : R5) (st : State) : Out :=
  issue e (wordOf (.tstamp e d)) (blocks [d.toNat] []) (fun st c => .done st (c.wr d (BitVec.ofNat 64 st.ns))) st

/-- `dscr` (R266). -/
def execDscr (e : List Ext) (d a : R5) (st : State) : Out :=
  issue e (wordOf (.dscr e d a)) (blocks [d.toNat, a.toNat] [])
    (fun st c => .done st (c.wr d (BitVec.ofNat 64 (if (c.rs a).toNat < 256 then st.discovery (c.rs a).toNat else 0)))) st

/-- `pwreq` (R267): the power arbiter answers it. -/
def execPwreq (e : List Ext) (d a : R5) (st : State) : Out :=
  issue e (wordOf (.pwreq e d a)) (blocks [d.toNat, a.toNat] []) (fun st c =>
    let v := (c.rs a).toNat
    if v == 0 || 255 < v then .fault 0x01 5 none
    else
      let r : PowerReq := ⟨c.launch, clusterOf c.start, some st.stamp⟩
      acceptRequest { st with powerReqs := st.powerReqs ++ [r] } c (.pwreq v) d) st

/-- `pwrel` (R267). -/
def execPwrel (e : List Ext) (a : R5) (st : State) : Out :=
  issue e (wordOf (.pwrel e a)) (blocks [a.toNat] [])
    (fun st c => .done st { c with reserved := c.reserved - (c.rs a).toNat }) st

/-- A word whose major opcode is unassigned (R81): `ILLEGAL` with DETAIL 1. -/
def execUnassignedMajorOpcode (e : List Ext) (w : W32) (st : State) : Out :=
  issue e w awaitCheck (fun _ _ => .fault 0x01 1 none) st

end Sys2Proof.Machine
end

