-- ==== Sys2Proof/Machine/VectorMem.lean ====
section
/-! DEFINITION. Vector loads and stores, gather and scatter (R197 to R202). -/

namespace Sys2Proof.Machine

/-! ## Lanes -/

/-- The active lanes of a mask, in order. -/
def activeLanes (m : W64) : List Nat := (List.range 64).filter fun l => m.getLsbD l

/-- The address of a vector memory form (R197). -/
def vecAddr (c : Ctx) (e : List Ext) (a : R5) (o : BitVec 9) : Nat := effAddr c e a o 256

/-- The address of a lane, modulo 2^64. -/
def laneAddr (x l : Nat) : Nat := (x + 4 * l) % 2 ^ 64

/-- Writes to neighbouring addresses as one write (R372). -/
def mergeRuns : List (Nat × List Byte) → List (Nat × List Byte)
  | [] => []
  | (a, b) :: l =>
    match mergeRuns l with
    | (x, y) :: r => if a + b.length == x then (a, b ++ y) :: r else (a, b) :: (x, y) :: r
    | [] => [(a, b)]

/-- Writes several pieces into local memory. -/
def Core.writeAll (k : Core) (l : List (Nat × List Byte)) : Core := (mergeRuns l).foldl (fun k p => k.write p.1 p.2) k

/-- A register with some lanes replaced. -/
def putLanes (x : BitVec 2048) (l : List (Nat × Nat)) : BitVec 2048 :=
  BitVec.ofNat 2048 (l.foldl (fun acc p => putBits acc (32 * p.1) 32 p.2) x.toNat)

/-- The first of some lane addresses that satisfies `p`. -/
def firstLane (l : List (Nat × Nat)) (p : Nat → Bool) : Option Nat := (l.find? fun x => p x.2).map Prod.snd

/-- A check over lanes: it faults with the lowest faulting lane's address (R201). -/
def laneCheck (l : List (Nat × Nat)) (code : Nat) (p : Nat → Bool) : Bool × Nat × Option W64 :=
  ((firstLane l p).isSome, code, (firstLane l p).map (BitVec.ofNat 64))

/-! ## Local memory (R198) -/

/-- `vld` (R198): mode 1 waits for full granules, mode 2 empties them too. -/
def execVld (e : List Ext) (d a : R5) (t : BitVec 4) (m : BitVec 2) (o : BitVec 9) (st : State) : Out :=
  vectorOp (.vld e d a t m o) e [a] [d] (fun _ => []) [] (fun st c =>
    let x := vecAddr c e a o
    let ls := (activeLanes (c.getK (maskReg e))).map fun l => (l, laneAddr x l)
    let g := (ls.map fun p => p.2 / 16).dedup
    let k := st.core c.start
    checked [(c.heavy && m == 2 && ls.any (fun p => !c.owns p.2 4), 0x08, addrVal x), (x % 16 != 0, 0x05, addrVal x),
        (decide (0x7FF00 < x), 0x06, addrVal x)]
      (localAccess st c
        (if m != 0 && !k.granulesAre g true then .park st c (.granules g true)
         else match firstLane ls fun p => k.poisoned p 4 with
           | some p => .poison st (p / 8 * 8)
           | none =>
             let v := putLanes (c.getV d.toNat).bits (ls.map fun p => (p.1, k.lm.readN p.2 4))
             writeVector st c d.toNat ⟨v, t.toNat⟩ fun c => .done (if m == 2 then st.setGranules c.start g false else st) c))) st

/-- `vst` (R198): mode 1 waits for empty granules and fills them. A store over bytes that a matrix command has still to read is held
(R187). -/
def execVst (e : List Ext) (d a : R5) (m : BitVec 2) (o : BitVec 9) (st : State) : Out :=
  vectorOp (.vst e d a m o) e [a] [d] (fun _ => []) [d] (fun st c =>
    let x := vecAddr c e a o
    let ls := (activeLanes (c.getK (maskReg e))).map fun l => (l, laneAddr x l)
    let g := (ls.map fun p => p.2 / 16).dedup
    let k := st.core c.start
    checked [(c.heavy && ls.any (fun p => !c.owns p.2 4), 0x08, addrVal x), (x % 16 != 0, 0x05, addrVal x),
        (decide (0x7FF00 < x), 0x06, addrVal x), laneCheck ls 0x09 (fun p => k.guarded c.uid p 4), laneCheck ls 0x0C (fun p => k.tagged p 4)]
      (localAccess st c
        (if m == 1 && !k.granulesAre g false then .park st c (.granules g false)
         else if st.matrixReads c.start (ls.map fun p => (p.2, 4)) then .held st c
         else
           let st := st.modCore c.start fun k => k.writeAll (ls.map fun p => (p.2, bytesOf 4 (elem 32 (c.src d).bits p.1)))
           .done (if m == 1 then st.setGranules c.start g true else st) c))) st

/-! ## Global memory (R199) -/

/-- Accepts a vector load of some lanes, in groups: the register keeps its other lanes and takes the tag when the answers arrive; without an active
lane it takes it at once (R111, R140, R199). A push-bound register is checked now, and the strip is pushed when the
answers arrive (R162). -/
def acceptLoad (st : State) (c : Ctx) (d : R5) (tag : Nat) (o : MemOrd) (groups : List (List Elem)) : Eff :=
  if groups.isEmpty then writeVector st c d.toNat ⟨(c.getV d.toNat).bits, tag⟩ fun c => .done st c
  else
    let go := fun c => acceptAll st c .load groups o (.vreg d.toNat tag) false
    match c.slotOf d.toNat with
    | some x => if x.push then withPush st c x tag fun x => go (c.putSlot x) else go c
    | none => go c

/-- `vldg` (R199). -/
def execVldg (e : List Ext) (d a : R5) (t : BitVec 4) (o : BitVec 9) (st : State) : Out :=
  vectorOp (.vldg e d a t o) e [a] [d] (fun _ => []) [] (fun st c =>
    let x := vecAddr c e a o
    let ls := (activeLanes (c.getK (maskReg e))).map fun l => (l, laneAddr x l)
    checked [(x % 16 != 0, 0x05, none)]
      (withXlate st c .read (ls.map Prod.snd) fun pas =>
        acceptLoad st c d t.toNat (memOrd e) (lineGroups ((ls.zip pas).map fun p => ⟨p.2, p.1.2, 4, 0, p.1.1⟩)))) st

/-- `vstg` (R199). -/
def execVstg (e : List Ext) (d a : R5) (o : BitVec 9) (st : State) : Out :=
  vectorOp (.vstg e d a o) e [a] [d] (fun _ => []) [d] (fun st c =>
    let x := vecAddr c e a o
    let ls := (activeLanes (c.getK (maskReg e))).map fun l => (l, laneAddr x l)
    checked [(c.heavy, 0x08, none), (x % 16 != 0, 0x05, none)]
      (withXlate st c .write (ls.map Prod.snd) fun pas =>
        acceptAs st c .store ((ls.zip pas).map fun p => ⟨p.2, p.1.2, 4, elem 32 (c.src d).bits p.1.1, p.1.1⟩) (memOrd e) .none false)) st

/-! ## Gather and scatter (R200 to R202) -/

/-- The addresses of the active lanes: base plus the signed or unsigned offset of the lane, modulo 2^64 (R200). -/
def gatherLanes (base : Nat) (b : VReg) (m : W64) : List (Nat × Nat) :=
  (activeLanes m).map fun l => (l, wrap 64 ((base : Int) + elemInt b.tag (elem 32 b.bits l)))

/-- `vgath` (R200 to R202): `s` is the space. -/
def execVgath (e : List Ext) (d a b : R5) (s : BitVec 1) (t : BitVec 4) (k : BitVec 3) (st : State) : Out :=
  vectorOpAt (.vgath e d a b s t k) e [a] [d, b] (fun _ => [(1, b.toNat, tagsI32)]) [b] [b] (fun st c =>
    let ls := gatherLanes (c.rs a).toNat (c.src b) (c.getK k.toNat)
    if s == 0 then
      let lc := st.core c.start
      checked [laneCheck ls 0x05 (fun p => p % 4 != 0), laneCheck ls 0x06 (fun p => decide (0x7FFFC < p))]
        (localAccess st c
          (match firstLane ls fun p => lc.poisoned p 4 with
            | some p => .poison st (p / 8 * 8)
            | none => writeVector st c d.toNat
                ⟨putLanes (c.getV d.toNat).bits (ls.map fun p => (p.1, lc.lm.readN p.2 4)), t.toNat⟩ fun c => .done st c))
    else
      checked [laneCheck ls 0x05 (fun p => p % 4 != 0), laneCheck ls 0x0A (fun p => decide (2 ^ 57 ≤ p))]
        (withXlate st c .read (ls.map Prod.snd) fun pas =>
          acceptLoad st c d t.toNat (memOrd e) (laneGroups ((ls.zip pas).map fun p => ⟨p.2, p.1.2, 4, 0, p.1.1⟩)))) st

/-- `vscat` (R200 to R202): lanes are written in ascending order. -/
def execVscat (e : List Ext) (d a b : R5) (s : BitVec 1) (k : BitVec 3) (st : State) : Out :=
  vectorOpAt (.vscat e d a b s k) e [a] [d, b] (fun _ => [(1, b.toNat, tagsI32)]) [d, b] [b] (fun st c =>
    let ls := gatherLanes (c.rs a).toNat (c.src b) (c.getK k.toNat)
    let v := fun l => elem 32 (c.src d).bits l
    if s == 0 then
      let lc := st.core c.start
      checked [laneCheck ls 0x08 (fun p => c.heavy && !c.owns p 4), laneCheck ls 0x05 (fun p => p % 4 != 0),
          laneCheck ls 0x06 (fun p => decide (0x7FFFC < p)), laneCheck ls 0x09 (fun p => lc.guarded c.uid p 4),
          laneCheck ls 0x0C (fun p => lc.tagged p 4)]
        (localAccess st c
          (if st.matrixReads c.start (ls.map fun p => (p.2, 4)) then .held st c
           else .done (st.modCore c.start fun q => q.writeAll (ls.map fun p => (p.2, bytesOf 4 (v p.1)))) c))
    else
      checked [(c.heavy, 0x08, (ls.head?).map fun p => BitVec.ofNat 64 p.2), laneCheck ls 0x05 (fun p => p % 4 != 0),
          laneCheck ls 0x0A (fun p => decide (2 ^ 57 ≤ p))]
        (withXlate st c .write (ls.map Prod.snd) fun pas =>
          acceptAll st c .store (laneGroups ((ls.zip pas).map fun p => ⟨p.2, p.1.2, 4, v p.1.1, p.1.1⟩)) (memOrd e) .none false)) st

end Sys2Proof.Machine
end

