-- ==== Sys2Proof/Machine/Access.lean ====
section
/-! DEFINITION. Accesses in flight: when they may be performed, where, and how they are answered (R111, R135, R136, R203 to R208, R244,
R248, R249, R261, R262, R269 to R284, R294). -/

namespace Sys2Proof.Machine

/-! ## Order within one context (R270, R273, R284) -/

/-- The physical addresses that an access names: those of its elements, and of the second port or node of a join or a push. -/
def Access.addrs (a : Access) : List Nat :=
  a.elems.map (fun x => x.pa) ++ (match a.op with
    | .plink _ q => [q]
    | .ppush _ b => [b]
    | _ => [])

/-- Does an access touch the line of an address? -/
def Access.onLine (a : Access) (pa : Nat) : Bool := a.addrs.any fun x => x / 128 == pa / 128

/-- Do two accesses touch a common line? -/
def Access.meets (a b : Access) : Bool := a.addrs.any b.onLine

/-- Is an access a node operation that keeps program order (R244)? -/
def Access.ofNode (a : Access) : Bool :=
  match a.op with
  | .nst _ => true
  | .node _ => true
  | .nfree => true
  | .plink .. => true
  | .ppush .. => true
  | _ => false

/-- Is it a write to host memory (R284)? -/
def Access.hostStore (a : Access) : Bool := a.op == .store && a.elems.any fun x => paSpace x.pa == 2

/-- Must an access `a` follow an earlier one `b` of the same context that has not been performed (R270, R273, R284)? -/
def Access.follows (a b : Access) : Bool :=
  a.meets b || b.acquires || a.releases || (b.releases && a.acquires) || (a.ofNode && b.ofNode) || (a.hostStore && b.hostStore)

/-- Do two requests of one gather or scatter name a common address, so that the one with the lower lanes comes first (R202)? -/
def Access.shares (a b : Access) : Bool := a.elems.any fun x => b.elems.any fun y => x.pa == y.pa

/-- May an access be performed now, as far as its own context's order goes? The requests of one instruction are unordered but for common
addresses (R202). -/
def State.inOrder (st : State) (a : Access) : Bool :=
  st.accs.all (fun b => b.uid != a.uid || a.id ≤ b.id || (b.grp == a.grp && !a.shares b) || b.answer.isSome || !a.follows b) &&
    st.cores.all fun k => k.2.reds.all fun r => r.uid != a.uid || a.id ≤ r.id ||
      !(a.releases || (r.ord.ord == 3 && a.acquires) || a.onLine r.pa)

/-! ## Being ready -/

/-- What a release of a scope does before it is performed (R278, R283). -/
def State.readyRelease (st : State) (uid s : Nat) : Ready :=
  if s < 3 then .go st
  else
    let st := st.writeBackStored uid
    if s != 6 || st.peersClean then .go st
    else if st.peerLines.any fun p => p.dirty != 0 then .act st.writeBackPeers
    else .wait

/-! ## Answers -/

/-- Replaces an access. -/
def State.setAcc (st : State) (a : Access) : State := { st with accs := replaceFirst (fun x => x.id == a.id) a st.accs }

/-- Removes an access that has no answer to give. -/
def State.dropAcc (st : State) (a : Access) : State := { st with accs := st.accs.filter fun x => x.id != a.id }

/-- The access with an identifier. -/
def State.acc (st : State) (n : Nat) : Option Access := st.accs.find? fun a => a.id == n

/-- The stamps of the last acquires of an access's context; none when it has ended (R278). -/
def State.acqOf (st : State) (a : Access) : Nat × Nat := ((st.byUid a.uid).map fun c => (c.acqStamp, c.acqPod)).getD (0, 0)

/-- Changes the context of an access that has not ended. -/
def State.modUid (st : State) (u : Nat) (f : Ctx → Ctx) : State :=
  match st.byUid u with
  | some c => st.setCtx (f c)
  | none => st

/-- What an acquire does when it has been performed (R278). -/
def State.finishAcquire (st : State) (a : Access) : State :=
  if a.acquires then
    let st := (st.dropPeers a.ord.scope).tickStamp
    st.modUid a.uid fun c => c.acquired a.ord.scope st.stamp
  else st

/-- Gives an access its answer; the register is written later (R111). -/
def State.answer (st : State) (a : Access) (x : Answer) : State := (st.setAcc { a with answer := some x }).finishAcquire a

/-! ## Loads and stores (R269, R283, R284) -/

/-- Reads the bytes of one element at its point: the value, and whether it is poisoned. -/
def State.readElem (st : State) (a : Access) (x : Elem) : State × Nat × Bool :=
  match st.pointOf a.cid x.pa a.ord with
  | .homeCore h => st.hRead h x.pa x.size (st.acqOf a).1
  | .slice (some h) => (st.flushLine h (x.pa / 128)).sRead x.pa x.size
  | .memory (some h) => (st.flushLine h (x.pa / 128)).behindRead x.pa x.size
  | .memory none => st.behindRead x.pa x.size
  | .register => (st, ofBytes (st.readRegBytes (paOff x.pa) x.size), false)
  | _ => st.sRead x.pa x.size

/-- The address of a word, at most two of which `n` bytes touch, that poison was met in: the first, unless `first` says that it is clean
(R373). -/
def badWord (va n : Nat) (first : Bool) : Nat := if n == 16 && !first then va / 8 * 8 + 8 else va / 8 * 8

/-- Reads the elements of an access in order; the first poisoned one is told by the virtual address of its word (R373). -/
def State.readElems (a : Access) : List Elem → State → State × List (Elem × Nat) × Option Nat
  | [], st => (st, [], none)
  | x :: l, st =>
    let r := st.readElem a x
    let s := State.readElems a l r.1
    (s.1, (x, r.2.1) :: s.2.1, if r.2.2 then some (x.va / 8 * 8) else s.2.2)

/-- The answer of a load from what was read (R131, R140). -/
def loadAnswer (a : Access) (l : List (Elem × Nat)) : Answer :=
  match a.dest with
  | .vreg .. => .lanes (l.map fun p => (p.1.lane, BitVec.ofNat 32 p.2))
  | _ => .val (match l with
    | p :: _ => extendLoad p.1.size (!a.sx) p.2
    | [] => 0)

/-- Answers a load with what its elements hold. -/
def State.finishLoad (st : State) (a : Access) : State :=
  let r := State.readElems a a.elems st
  match r.2.2 with
  | some va => r.1.answer a (.poisoned va)
  | none => r.1.answer a (loadAnswer a r.2.1)

/-- Is an access performed at the owner's slice (R283)? -/
def State.atOwner (st : State) (a : Access) : Bool := a.elems.any fun x => st.pointOf a.cid x.pa a.ord == .owner

/-- The first address of an access. -/
def Access.pa (a : Access) : Nat := ((a.elems.head?).map fun x => x.pa).getD 0

/-- Performs a load (R269). At the owner's slice the line is asked for afresh, and the load reads what comes (R283). -/
def State.performLoad (st : State) (a : Access) : Ready :=
  if st.atOwner a then
    if a.sent then (if st.lineAwaited (a.pa / 128) then .wait else (st.readyLine a.pa 0 a.tenant).andThen fun st => .go (st.finishLoad a))
    else (st.readyOwner a.pa).andThen fun st => .go ((st.requestLine (a.pa / 128) a.tenant).setAcc { a with sent := true })
  else (State.readyLines (st.acqOf a).2 a.tenant (a.elems.map fun x => x.pa) st).andThen fun st => .go (st.finishLoad a)

/-- Writes one run of bytes at its point (R269, R283, R284). -/
def State.writeRun (st : State) (a : Access) (pa : Nat) (l : List Byte) : State :=
  match st.pointOf a.cid pa a.ord with
  | .homeCore h =>
    let st := st.hWrite h pa l
    { st with stored := st.stored.put a.uid (NatSet.add (st.stored.getD a.uid []) (pa / 128)) }
  | .slice (some h) => (st.flushLine h (pa / 128)).sWrite pa l
  | .memory (some h) => (st.flushLine h (pa / 128)).sWrite pa l
  | _ => st.putBytes a.cid pa l

/-- Asks a peer for an operation of an access (R345); its reply is awaited. -/
def State.askPeer (st : State) (a : Access) (pa kind : Nat) (body : Body) : State :=
  let w : Await := { id := st.stamp, peer := paPkg pa, since := st.podTime, acc := some a.id, red := none, copy := none, line := none }
  let st := st.send (paPkg pa) kind 0 a.tenant (st.stamp % 2 ^ 32) body (some a.launch)
  { st with fab := { st.fab with awaits := st.fab.awaits ++ [w] } }

/-- The first of some elements for each address, and those behind them (R202). -/
def firstAt (seen : List Nat) : List Elem → List Elem × List Elem
  | [] => ([], [])
  | x :: l =>
    if seen.contains x.pa then let r := firstAt seen l; (r.1, x :: r.2)
    else let r := firstAt (x.pa :: seen) l; (x :: r.1, r.2)

/-- Performs a store (R269): a release carries the context's earlier writes first; at the owner's slice a `WREQ` goes out for every
element, and the store is done when all are answered (R283, R345). Of the lanes of a scatter that name one address each is sent when the one before
it has been answered, since the fabric keeps no order (R202, R346). -/
def State.performStore (st : State) (a : Access) : Ready :=
  (if a.releases then st.readyRelease a.uid a.ord.scope else .go st).andThen fun st =>
    if st.atOwner a then
      if a.sent then .wait
      else (st.readyOwner a.pa).andThen fun st =>
        .go (((firstAt [] a.elems).1.foldl (fun (s : State) x => s.askPeer a x.pa 6 (.wreq x.pa x.size x.val)) st).setAcc { a with sent := true })
    else (State.readyLines (st.acqOf a).2 a.tenant (a.elems.map fun x => x.pa) st).andThen fun st =>
      .go (((mergeRuns (a.elems.map fun x => (x.pa, bytesOf x.size x.val))).foldl (fun (s : State) r => s.writeRun a r.1 r.2) st).dropAcc a)

/-! ## Node operations (R240 to R250) -/

/-- The settled value of a port (R249). -/
def settled (w : Nat) : Nat := if portState w == 0 then 0 else w

/-- Is a join accepted before this access in flight on a wire that ends at a port (R249)? -/
def State.joinsOn (st : State) (a : Access) (w : Nat) : Bool :=
  st.accs.any fun b => decide (b.id < a.id) && b.answer.isNone && (match b.op with
    | .plink q qpa => b.pa == a.pa || qpa == a.pa || q == portTarget w || b.elems.any fun x => x.va == portTarget w
    | _ => false)

/-- Performs a node operation (R240, R244, R247 to R250). A node that another running launch holds is not changed (R5, R239; DEDUCED, log 96). -/
def State.performNode (st : State) (a : Access) : Ready :=
  (State.readyLines (st.acqOf a).2 a.tenant a.addrs st).andThen fun st =>
    (if a.releases then st.readyRelease a.uid 5 else .go st).andThen fun st =>
      match a.op, a.elems with
      | .nld, x :: _ =>
        let r := st.nodeRead x.pa
        .go (r.1.answer a (if r.2.2 then .poisoned x.va else .val (BitVec.ofNat 64 r.2.1)))
      | .pget, x :: _ =>
        let r := st.nodeRead x.pa
        if r.2.2 then .go (r.1.answer a (.poisoned x.va))
        else if portState r.2.1 == 1 && st.joinsOn a r.2.1 then .wait
        else .go (r.1.answer a (.val (BitVec.ofNat 64 (settled r.2.1))))
      | .nst n, x :: _ =>
        .go ((if st.heldByOther a.launch x.va then st
          else if n == 0 then st.nodeMod x.pa fun h => putBits h 0 18 x.val
          else st.nodeWrite x.pa x.val).dropAcc a)
      | .node ws, x :: _ => .go ((st.writeNode x.pa ws).dropAcc a)
      | .nfree, x :: _ => .go ((st.freeNode a.launch (a.key / 64) x.va x.pa).dropAcc a)
      | .plink q qpa, x :: _ =>
        let r := st.join a.launch (x.va, x.pa) (q, qpa)
        .go (r.1.answer a (.val (BitVec.ofNat 64 r.2)))
      | .ppush b bpa, x :: _ =>
        let on := hdrActive (st.headerOf x.pa) || hdrActive (st.headerOf bpa) || st.heldByOther a.launch x.va || st.heldByOther a.launch b
        .go ((if on then st else st.pushPair a.launch x.va x.pa b bpa).dropAcc a)
      | _, _ => .wait

/-- Takes what being ready gives as the answer of a step. -/
def Ready.out (mnemonic : String) : Ready → Out
  | .go st => .next st
  | .act st => .next st
  | .wait => idle mnemonic

/-- `REMOTE_ACCESS` (R294): the access that the item names, a load, a store or a node operation, is performed at its point and answered.
Accesses performed at the context's own core, at a slice, in memory and at the host are performed by the same step (log 38). -/
def execRemoteAccess (st : State) : Out :=
  match st.acc st.item with
  | some a =>
    if a.answer.isSome || !st.inOrder a then idle "REMOTE_ACCESS"
    else (match a.op with
      | .load => st.performLoad a
      | .store => st.performStore a
      | .amo _ => .wait
      | .cas _ => .wait
      | .tver _ => .wait
      | .tnew .. => .wait
      | .pwreq _ => .wait
      | _ => st.performNode a).out "REMOTE_ACCESS"
  | none => idle "REMOTE_ACCESS"

/-! ## Atomics and reductions (R203 to R208) -/

/-- The new value of an atomic. -/
def AccOp.newValue (n old val : Nat) : AccOp → Nat
  | .amo op => amoValue op n old val
  | .cas cmp => if old == cmp then val else old
  | _ => old

/-- The answer of an atomic from the old value (R203, R204). -/
def atomicAnswer (a : Access) (n old : Nat) : Answer :=
  if n == 16 then .pair (BitVec.ofNat 64 old) (BitVec.ofNat 64 (old / 2 ^ 64)) else .val (extendLoad n (!a.sx) old)

/-- Answers an atomic; an addition of `rel` has no register, and its context goes on (R212). -/
def State.finishAtomic (st : State) (a : Access) (x : Answer) : State :=
  match a.dest, x with
  | .none, .val _ => (st.dropAcc a).modUid a.uid fun c => if c.pend == some a.id then { c with pend := none } else c
  | _, _ => st.answer a x

/-- Can the host not be reached (R208)? -/
def State.hostLost (st : State) (pa : Nat) : Bool := paSpace pa == 2 && !st.own.hostUp

/-- Performs an atomic at its home slice, at the host, or by a request to its owner (R205, R206). -/
def State.performAtomic (st : State) (a : Access) (x : Elem) : Ready :=
  (if a.releases then st.readyRelease a.uid a.ord.scope else .go st).andThen fun st =>
    if st.isPeer x.pa then
      if a.sent then .wait
      else (st.readyOwner x.pa).andThen fun st =>
        let body : Body := match a.op with
          | .amo op => .areq x.pa op x.size x.val 0 false
          | .cas cmp => .areq x.pa 16 x.size x.val cmp false
          | _ => .other
        .go ((st.askPeer a x.pa 7 body).setAcc { a with sent := true })
    else if st.hostLost x.pa then .go (st.finishAtomic a (atomicAnswer { a with sx := true } x.size (2 ^ (8 * x.size) - 1)))
    else
      let st := if paSpace x.pa < 2 then st.flushLine (st.home x.pa) (x.pa / 128) else st
      let r := st.sRead x.pa x.size
      if r.2.2 then .go (r.1.answer a (.poisoned (badWord x.va x.size (st.sRead x.pa 8).2.2)))
      else .go ((r.1.sWrite x.pa (bytesOf x.size (a.op.newValue x.size r.2.1 x.val))).finishAtomic a (atomicAnswer a x.size r.2.1))

/-- `ATOMIC_PERFORM` (R206). -/
def execAtomicPerform (st : State) : Out :=
  match st.acc st.item with
  | some a =>
    if a.answer.isSome || !st.inOrder a then idle "ATOMIC_PERFORM"
    else (match a.op, a.elems with
      | .amo _, x :: _ => (st.performAtomic a x).out "ATOMIC_PERFORM"
      | .cas _, x :: _ => (st.performAtomic a x).out "ATOMIC_PERFORM"
      | _, _ => idle "ATOMIC_PERFORM")
  | none => idle "ATOMIC_PERFORM"

/-- Takes the oldest entry of a core's reduction queue. -/
def State.dropRed (st : State) (cid id : Nat) : State := st.modCore cid fun k => { k with reds := k.reds.filter fun r => r.id != id }

/-- May a reduction be performed, as far as its context's order goes (R270, R273)? -/
def State.redInOrder (st : State) (r : Red) : Bool :=
  st.accs.all fun b => b.uid != r.uid || r.id ≤ b.id || b.answer.isSome ||
    !(r.ord.ord == 3 || b.acquires || b.onLine r.pa)

/-- Performs a reduction: one on a poisoned word is discarded and logged (R207, R373). -/
def State.performRed (st : State) (cid : Nat) (r : Red) : Ready :=
  (if r.ord.ord == 3 then st.readyRelease r.uid r.ord.scope else .go st).andThen fun st =>
    if st.isPeer r.pa then
      if r.sent then .wait
      else (st.readyOwner r.pa).andThen fun st =>
        let w : Await := { id := st.stamp, peer := paPkg r.pa, since := st.podTime, acc := none, red := some r.id, copy := none, line := none }
        let tenant := ((st.launches.find r.launch).map fun (l : Launch) => l.tenant).getD 0
        let st := st.send (paPkg r.pa) 7 0 tenant (st.stamp % 2 ^ 32) (.areq r.pa r.op r.size r.val 0 true) (some r.launch)
        .go ({ st with fab := { st.fab with awaits := st.fab.awaits ++ [w] } }.modCore cid fun k =>
          { k with reds := k.reds.map fun (x : Red) => if x.id == r.id then { x with sent := true } else x })
    else if st.hostLost r.pa then .go (st.dropRed cid r.id)
    else
      let st := if paSpace r.pa < 2 then st.flushLine (st.home r.pa) (r.pa / 128) else st
      let x := st.sRead r.pa r.size
      .go ((if x.2.2 then x.1.logEvent 3 (r.pa / 8 * 8) else x.1.sWrite r.pa (bytesOf r.size (amoValue r.op r.size x.2.1 r.val))).dropRed cid r.id)

/-- `REDUCTION_PERFORM` (R207): the oldest entry of the core's queue. -/
def execReductionPerform (st : State) : Out :=
  match (st.core st.item).reds with
  | r :: _ => if st.redInOrder r then (st.performRed st.item r).out "REDUCTION_PERFORM" else idle "REDUCTION_PERFORM"
  | [] => idle "REDUCTION_PERFORM"

/-! ## Answers reach their registers (R111, R261, R262) -/

/-- The narrowest scope that contains a core and a cluster (R262). -/
def scopeOf (cid g : Nat) : Nat :=
  let b := firstCore g
  if inScope 2 cid b then 2 else if inScope 3 cid b then 3 else if inScope 4 cid b then 4 else 5

/-- An unused tile id at or after a candidate, cycling through 1..2^40 − 1 (R261). -/
def unusedTile (used : Map Tile) : Nat → Nat → Nat
  | 0, n => n
  | k + 1, n => if (Map.find used n).isNone then n else unusedTile used k (n % (2 ^ 40 - 1) + 1)

/-- Does a leader act (R363)? -/
def Firmware.acts (f : Firmware) : Bool := !f.vacant && !f.stopped

/-- Does the leader act at a reference time: it holds the lease, has not stopped, and its 1 ms has not passed? -/
def Firmware.leads (f : Firmware) (now : Nat) : Bool := f.acts && decide (now < f.renewed + 3000000)

/-- Appends an entry to both copies of the journal (R338; its entries are DEDUCED, log 92). -/
def State.journal (st : State) (e : JEntry) : State :=
  { st with fw := { st.fw with journal := st.fw.journal ++ [e], mirror := st.fw.mirror ++ [e] } }

/-- Creates a tile with its version 0, whose seal is journalled, or none when the tables are full (R261, R338). -/
def State.newTile (st : State) (tenant size : Nat) (bytes : List Byte) (bad : List Nat) : State × Nat :=
  let full := Config.tilesFull st.frees
  let id := unusedTile st.tiles (st.tiles.length + 1) (Config.tileId st.frees % (2 ^ 40 - 1) + 1)
  let st := { st with frees := st.frees + 1 }
  if full then (st, 0)
  else
    let data := if bytes.isEmpty then List.replicate size 0 else bytes
    let t : Tile :=
      { tenant := tenant, cur := 0, size := size, vers := [(0, data)], bad := bad.map fun w => (0, w), pins := [], pulling := none,
        heldC := [], cluster := tileHome id, tainted := [] }
    ({ st with tiles := st.tiles.put id t }.journal (.tileSeal id 0 t.cluster none), id)

/-- The tile with an id, if it is a tenant's. -/
def State.tileOf (st : State) (tenant id : Nat) : Option Tile := (st.tiles.find id).filter fun t => t.tenant == tenant

/-- Writes lanes of a vector register with its tag; for a push-bound register the strip is pushed with the instruction's last answer, and a
pop-bound one discards the write (R140, R161, R162). -/
def State.writeLanes (st : State) (c : Ctx) (r tag : Nat) (l : List (Nat × W32)) (last : Bool) : State :=
  let v : VReg := ⟨putLanes (c.getV r).bits (l.map fun p => (p.1, p.2.toNat)), tag⟩
  match c.slotOf r with
  | none => st.setCtx (c.setV r v)
  | some s =>
    if !s.push then st
    else if last then
      (st.setCtx ((c.setV r v).putSlot
        { s with pos := s.pos + 1, staged := s.staged ++ [(s.pos, ⟨v.bits, none, none, st.stamp⟩)] })).tickStamp
    else st.setCtx (c.setV r v)

/-- Writes an answer to the register of an access; the answer of a context that has ended is discarded (R45, R111, R373). -/
def State.writeAnswer (st : State) (a : Access) (x : Answer) : State :=
  let st := st.dropAcc a
  match st.byUid a.uid with
  | none => st
  | some c =>
    let c := if c.pend == some a.id then { c with pend := none } else c
    match a.dest, x with
    | _, .poisoned va => st.consumePoison c va
    | .sreg r, .val v => st.setCtx (c.setS r v)
    | .pair r, .pair lo hi => st.setCtx ((c.setS r lo).setS (r + 1) hi)
    | .vreg r t, .lanes l => st.writeLanes c r t l (!st.accs.any fun b => b.grp == a.grp)
    | _, _ => st.setCtx c

/-- `RESULT_WRITE` (R111): an answer that has arrived is written; `tver` and `tnew` are answered by the tile tables as they stand,
and the leader journals the seal of a new tile first (R338, R363). -/
def execResultWrite (st : State) : Out :=
  match st.acc st.item with
  | some a =>
    (match a.answer, a.op with
      | some x, _ => .next (st.writeAnswer a x)
      | none, .tver t =>
        if !st.inOrder a then idle "RESULT_WRITE"
        else
          let tile := st.tileOf a.tenant t
          let v : W64 := match tile with
            | some y => BitVec.ofNat 64 (y.cur % 2 ^ 32 + y.size * 2 ^ 32)
            | none => 0x8000000000000000#64
          let s := scopeOf a.cid (match tile with
            | some y => y.cluster
            | none => tileHome t)
          let st := st.tickStamp
          .next ((st.modUid a.uid fun c => c.acquired s st.stamp).writeAnswer a (.val v))
      | none, .tnew size bytes bad =>
        if !st.fw.leads st.time then idle "RESULT_WRITE"
        else
        let r := st.newTile a.tenant size bytes bad
        .next (r.1.writeAnswer a (.val (BitVec.ofNat 64 r.2)))
      | none, _ => idle "RESULT_WRITE")
  | none => idle "RESULT_WRITE"

/-! ## Requests to another core's local memory (R136, R220) -/

/-- The group of a remote request retires once its target has checked it (R112). -/
def State.acceptRemote (st : State) (c : Ctx) (r : Remote) : State :=
  st.retire { c with pend := none } r.words (c.pc + BitVec.ofNat 57 (4 * r.words))

/-- The cause for which the target refuses a request: a held lease or the completion ring, a tagged word; for an arrival, no tag. -/
def Core.refuses (k : Core) (r : Remote) : Option Nat :=
  match r.kind with
  | 0 => none
  | 1 => if k.guarded r.uid r.addr r.size then some 0x09 else if k.tagged r.addr r.size then some 0x0C else none
  | _ => if (k.tags.find (r.addr / 8)).isNone then some 0x0C else none

/-- What the target's bank does with a request that it has checked. -/
def State.performRemote (st : State) (c : Ctx) (r : Remote) : State :=
  match r.kind with
  | 0 =>
    let k := st.core r.cid
    let a : Access :=
      { id := st.stamp, grp := st.stamp, uid := c.uid, key := c.key, launch := c.launch, net := c.net, tenant := c.tenant, cid := c.cur,
        op := .load, elems := [], ord := ⟨0, 0, 0⟩, dest := .sreg r.d, sx := r.sx,
        answer := some (if k.poisoned r.addr r.size then .poisoned (r.addr / 8 * 8)
          else .val (extendLoad r.size (!r.sx) (k.lm.readN r.addr r.size))), sent := false }
    ({ st with accs := st.accs ++ [a] }.tickStamp).acceptRemote c r
  | 1 => (st.modCore r.cid fun k => k.write r.addr (bytesOf r.size r.val)).acceptRemote c r
  | _ => (st.barWrite r.cid r.addr (barArrive (st.barWord r.cid r.addr) false)).acceptRemote c r

/-- `REMOTE_TARGET_CHECK` (R136, R220): the request that the item names is checked and performed at the target's bank; a refusal faults the
instruction there. A gated target wakes first (R387), and a failed one ends the launch with `HWFAULT`, that of a heavy copy's `ldx` too
(R136). A context that has ended takes its request with it (R45). -/
def execRemoteTargetCheck (st : State) : Out :=
  match st.remotes.find? fun r => r.id == st.item with
  | some r =>
    let k := st.core r.cid
    let rest := { st with remotes := st.remotes.filter fun x => x.id != r.id }
    (match st.byUid r.uid with
      | none => .next rest
      | some c =>
        if k.failed then .next ((rest.endCtx c endKill).failLaunch c.launch ⟨2, 0x28, 0, 0, 0, st.gid r.cid⟩)
        else if k.gated then idle "REMOTE_TARGET_CHECK"
        else match k.refuses r with
          | some code => .next (rest.programFault { c with pend := none } code 0 c.pc (r.xval.zeroExtend 64))
          | none =>
            if r.kind == 1 && st.matrixReads r.cid [(r.addr, r.size)] && r.cid == c.start then idle "REMOTE_TARGET_CHECK"
            else .next (rest.performRemote c r))
  | none => idle "REMOTE_TARGET_CHECK"

end Sys2Proof.Machine
end

