-- ==== Sys2Proof/Machine/Copies.lean ====
section
/-! DEFINITION. `cpy`, `cpyx` and `cpwait` (R225 to R234). -/

namespace Sys2Proof.Machine

/-! ## The control word (R230) -/

/-- `BADDR`. -/
def ctlBaddr (v : Nat) : Nat := bits v 17 19
/-- `XCID`. -/
def ctlXcid (v : Nat) : Nat := bits v 37 12
/-- `XPKG`. -/
def ctlXpkg (v : Nat) : Nat := bits v 49 9
/-- `XREM`. -/
def ctlXrem (v : Nat) : Bool := bit v 58

/-- Is a bit that the form reserves set (R227)? -/
def ctlReserved (v : Nat) (cross : Bool) : Bool :=
  bits v 59 5 != 0 || (if cross then !ctlXrem v && ctlXpkg v != 0 else bits v 37 22 != 0)

/-- Copies of a core in flight (R231). -/
def State.inFlight (st : State) (cid : Nat) : Nat := (st.copies.filter fun x => x.cid == cid).length

/-- Faults of R227 that two valid records, the control word and the local memory that is written decide: the cause, its detail and its
`XVAL`, if not the instruction word. Where the two records differ, R227 does not say which is the offending one: `XVAL` is the address of the
destination's, a DESIGN CHOICE (log 87). -/
def State.copyFault (st : State) (c : Ctx) (ctl : Nat) (cross : Bool) (da : Nat) (dst src : Shape) : Option (Nat × Nat × Option W64) :=
  if dst.space == 2 || (cross && dst.space != 0) || dst.count != src.count || dst.bytes != src.bytes ||
      (dst.fmt != src.fmt && dst.fmt != 0 && src.fmt != 0) then some (0x01, 5, addrVal da)
  else if cross && !validCid (ctlXcid ctl) then some (0x07, 0, none)
  else
    let k := st.core (if cross then ctlXcid ctl else c.start)
    let here := dst.space == 0 && !(cross && ctlXrem ctl)
    match (if here then dst.findElem fun p => k.guarded c.uid p dst.bytes else none) with
    | some p => some (0x09, 0, addrVal p)
    | none =>
      match (if here then dst.findElem fun p => k.tagged p dst.bytes else none) with
      | some p => some (0x0C, 0, addrVal p)
      | none =>
        if ctlReserved ctl cross then some (0x01, 3, none)
        else if ctlBaddr ctl % 8 != 0 then some (0x05, 0, none)
        else none

/-- The copy that an instruction starts (R227, R230). -/
def State.newCopy (st : State) (c : Ctx) (ctl : Nat) (cross : Bool) (dst src : Shape) : Copy :=
  { id := st.stamp, cid := c.start, uid := c.uid, key := c.key, slot := c.slot, launch := c.launch, tenant := c.tenant,
    pid := st.pidOf c, sup := c.sup, heavy := c.heavy, lease := (c.leaseBase, if c.leaseV then c.leaseSize else 0), src := src,
    dst := dst, total := dst.count, next := 0, tag := bits ctl 0 16, bar := if bit ctl 16 then some (ctlBaddr ctl) else none,
    norec := bit ctl 36, xcid := if cross then some (ctlXcid ctl) else none,
    xpkg := if cross && ctlXrem ctl then some (ctlXpkg ctl) else none, got := 0, own := none, status := none, stalled := none, orphan := false,
    credited := 0, sent := false, legs := [] }

/-- `cpy` and `cpyx` (R227): a copy that finds 128 in flight is held (R231). `XVAL` of `SIDEEFF` is the address of the destination's record,
also where bytes of it leave the lease (DESIGN CHOICE, log 87). -/
def copyOp (i : Instr) (e : List Ext) (d a b : R5) (cross : Bool) : State → Out :=
  issue e (wordOf i) (blocks [d.toNat, a.toNat, b.toNat] []) fun st c =>
    let da := (c.rs a).toNat
    let sa := (c.rs b).toNat
    let ctl := (c.rs d).toNat
    if 128 ≤ st.inFlight c.start || st.unreached c then .held st c
    else checked [(da % 64 != 0, 0x05, addrVal da), (sa % 64 != 0, 0x05, addrVal sa)]
      (withBytes st c da 64 fun st readDst db =>
        withBytes st c sa 64 fun st readSrc sb =>
          let dst := shapeOf db
          let src := shapeOf sb
          if c.heavy && (dst.space == 1 || (dst.space == 0 && dst.leavesLease c) || cross) then .fault 0x08 0 (addrVal da)
          else match rejectShape sb sa, rejectShape db da with
            | some r, _ => rejected r
            | none, some r => rejected r
            | none, none =>
              match st.copyFault c ctl cross da dst src with
              | some (code, det, x) => .fault code det x
              | none => .done { st with copies := st.copies ++ [st.newCopy c ctl cross dst src] }.tickStamp (readSrc (readDst c)))

def execCpy (e : List Ext) (d a b : R5) (st : State) : Out := copyOp (.cpy e d a b) e d a b false st
def execCpyx (e : List Ext) (d a b : R5) (st : State) : Out := copyOp (.cpyx e d a b) e d a b true st

/-! ## `cpwait` (R234) -/

/-- What a `cpwait` of a context gets now: its oldest record's address with the slot freed, 0 when it has neither record nor copy in
flight, or nothing yet. -/
def State.takeRecord (st : State) (c : Ctx) : Option (State × W64) :=
  match (st.core c.start).recs.find? fun r => r.uid == c.uid with
  | some r =>
    some (st.modCore c.start fun k => { k with recs := removeFirst (fun x => x.uid == c.uid) k.recs },
      BitVec.ofNat 64 (Config.ringBase + 32 * r.n))
  | none => if st.copies.any fun x => x.uid == c.uid && !x.orphan then none else some (st, 0)

/-- `cpwait`: an explicit yield point; a record that it returns acquires the copy's writes (R234, R280). -/
def execCpwait (e : List Ext) (d : R5) (st : State) : Out :=
  issueFree e (wordOf (.cpwait e d)) (blocks [d.toNat] []) (fun st c =>
    if st.mustFollow c.uid then .held st c
    else match st.takeRecord c with
      | some (st, v) => .yielded st.tickStamp ((c.wr d v).acquired (if v == 0 then 0 else 5) (st.stamp + 1)) 4096 none false
      | none => .yielded st c 4096 (some (.copyRec d.toNat)) false) st

end Sys2Proof.Machine
end

