-- ==== Sys2Proof/Machine/Matrix.lean ====
section
/-! DEFINITION. Matrix instructions: their checks, the descriptors they write and the queue they enter (R169 to R187). -/

namespace Sys2Proof.Machine

/-! ## Windows in the store (R169, R170) -/

/-- The first row of a core's window in its cluster's store (R170). -/
def State.matrixBase (st : State) (cid : Nat) : Nat := 32 * (st.cluster (clusterOf cid)).baseBlock (coreInCluster cid)

/-- The block of a window of a core: 4 · row-block + column-block (R169). -/
def State.blockOf (st : State) (cid : Nat) (m : W64) : Nat := (st.matrixBase cid + wRow m) / 32 * 4 + wCol m / 32

/-! ## The queue (R185) -/

/-- Adds a command to the matrix queue of a context's core; held while the queue holds 16 entries. -/
def enqueue (st : State) (c : Ctx) (op : MOp) : Eff :=
  if 16 ≤ (st.core c.start).mq.length then .held st c
  else
    let m : MCmd := { id := st.stamp, uid := c.uid, key := c.key, launch := c.launch, heavy := c.heavy, op := op }
    .done (st.modCore c.start fun k => { k with mq := k.mq ++ [m] }).tickStamp c

/-- Window descriptor `n`. -/
def Ctx.getM (c : Ctx) (n : Nat) : W64 := (c.m[n]?).getD 0

/-- Operand descriptor `n`. -/
def Ctx.getO (c : Ctx) (n : Nat) : BitVec 128 := (c.o[n]?).getD 0

/-- Accepted formats {I32, F32} of a window. -/
def fmtsWindow : Nat := 0x6
/-- Accepted formats {BF16, F16, TD8, I8, Z8} of an operand. -/
def fmtsOperand : Nat := 0x178

/-- The first failing format check of some operands, each given as operand number, register, format found and accepted set (R174). -/
def formatCheck : List (Nat × Nat × Nat × Nat) → Option Nat
  | [] => none
  | (o, r, f, acc) :: l => if f ≤ 8 && bit acc f then formatCheck l else some (formatRec f acc r o)

/-! ## Descriptors (R173) -/

/-- What `mwin` does with a window: none where it leaves its block of the core window (R173). -/
def windowFits (w : W64) (blocks : Nat) : Bool :=
  wRows w ≤ 32 && wCols w != 0 && wCols w ≤ 32 && wRow w % 32 + wRows w ≤ 32 && wCol w % 32 + wCols w ≤ 32 &&
    wRow w + wRows w ≤ 32 * blocks

/-- `mwin` (R173). A block whose context has ended is not yet free and holds the instruction until it is cleared (DEDUCED, log 30). -/
def execMwin (e : List Ext) (d a : R5) (st : State) : Out :=
  issue e (wordOf (.mwin e d a)) (blocks [a.toNat] []) (fun st c =>
    let w := c.rs a
    let g := st.cluster (clusterOf c.start)
    let blk := st.blockOf c.start w
    if wRows w == 0 then .done st { c with m := c.m.setIfInBounds d.toNat 0 }
    else if wFmt w != 1 && wFmt w != 2 then .fault 0x04 0 (some w)
    else if !windowFits w ((g.part[coreInCluster c.start]?).getD 0) then .fault 0x05 0 (some w)
    else
      let free := g.claims.find blk
      if free != none && free != some c.uid && (free.bind st.byUid).isSome then .fault 0x09 0 (some w)
      else if (free != none && free != some c.uid) || 16 ≤ (st.core c.start).mq.length then .held st c
      else
        let v := w &&& 0x7FFFFFFFF#64
        enqueue (st.modCluster (clusterOf c.start) fun g => { g with claims := g.claims.put blk c.uid })
          { c with m := c.m.setIfInBounds d.toNat v } (.mwin v)) st

/-- Why an operand descriptor is refused (R173). -/
def odFault (o : BitVec 128) : Option Nat :=
  let half := odFmt o == 3 || odFmt o == 4
  if !bit fmtsOperand (odFmt o) then some 0x04
  else if odBase o % 16 != 0 || odPitch o % 16 != 0 || (half && odKB o % 2 != 0) || (odScv o && odScale o % 4 != 0) then some 0x05
  else if 2048 < odRows o || odKB o == 0 || 0x80000 < odBase o + (odRows o - 1) * odPitch o + odKB o ||
      (odScv o && 0x80000 < odScale o + 4 * odRows o) then some 0x06
  else none

/-- The bits that an operand descriptor keeps: 19 and [127:88] are zero (R173). -/
def odKeep (o : BitVec 128) : BitVec 128 := o &&& 0x0000000000FFFFFFFFFFFFFFFFF7FFFF#128

/-- `odset` (R173). -/
def execOdset (e : List Ext) (d a b : R5) (st : State) : Out :=
  issue e (wordOf (.odset e d a b)) (blocks [a.toNat, b.toNat] []) (fun st c =>
    let o : BitVec 128 := c.rs b ++ c.rs a
    if odRows o == 0 then .done st { c with o := c.o.setIfInBounds d.toNat 0 }
    else match odFault o with
      | some code => .fault code 0 (some (c.rs a))
      | none => .done st { c with o := c.o.setIfInBounds d.toNat (odKeep o) }) st

/-! ## `mma` (R174, R175) -/

/-- The formats of operand b that pair with operand a's (R174). -/
def pairOf (f : Nat) : Nat := if f == 6 || f == 8 then 0x140 else 2 ^ f

/-- The accepted set of an operand descriptor: an integer format must carry no scale (R174). -/
def scaledSet (o : BitVec 128) (acc : Nat) : Nat := if odScv o && (odFmt o == 6 || odFmt o == 8) then 0x38 else acc

/-- The first index of an `mma` outside its descriptor: its `XVAL` (R174). -/
def badIndex (x : VReg) (nr rows : Nat) : Option Nat :=
  ((List.range nr).find? fun i => !(0 ≤ elemInt x.tag (elem 32 x.bits i) && elemInt x.tag (elem 32 x.bits i) < rows)).map fun i =>
    i + elem 32 x.bits i * 2 ^ 32

/-- `mma` (R174, R175). -/
def execMma (e : List Ext) (m : BitVec 4) (a b : BitVec 3) (v : R5) (c : BitVec 1) (st : State) : Out :=
  issue e (wordOf (.mma e m a b v c)) (blocks [] [v.toNat]) (fun st x =>
    let md := x.getM m.toNat
    let oa := x.getO a.toNat
    let ob := x.getO b.toNat
    let acc := if odFmt oa == 6 || odFmt oa == 8 then 2 else 4
    if footLimit x.foot ≤ v.toNat then .fault 0x02 0 none
    else match formatCheck [(0, a.toNat, odFmt oa, scaledSet oa fmtsOperand), (1, b.toNat, odFmt ob, scaledSet ob (pairOf (odFmt oa))),
        (2, v.toNat, x.tagOf v.toNat, tagsI32), (3, m.toNat, wFmt md, acc)] with
      | some rec => .format rec
      | none =>
        withVectors st x [v.toNat] [] [v.toNat] [] fun x =>
          match badIndex (x.src v) (wRows md) (odRows oa) with
          | some n => .fault 0x0E 0 (addrVal n)
          | none =>
            if odRows ob < wCols md then .fault 0x0E 0 (addrVal (0xFF + wCols md * 2 ^ 32))
            else enqueue st x (.mma md oa ob ((List.range (wRows md)).map (elem 32 (x.src v).bits)) (c == 1))) st

/-! ## Window commands (R177 to R183) -/

/-- Issues a command on a window after its format check; `opnd` is its operand number (R183). -/
def windowOp (i : Instr) (e : List Ext) (scal : List R5) (d : R5) (opnd : Nat) (go : State → Ctx → W64 → Eff) : State → Out :=
  issue e (wordOf i) (blocks (scal.map BitVec.toNat) []) fun st c =>
    match formatCheck [(opnd, d.toNat, wFmt (c.getM d.toNat), fmtsWindow)] with
    | some rec => .format rec
    | none => go st c (c.getM d.toNat)

/-- `mzero` (R177). -/
def execMzero (e : List Ext) (d : R5) (st : State) : Out :=
  windowOp (.mzero e d) e [] d 3 (fun st c m => enqueue st c (.mzero m)) st

/-- `mld` (R178, R183). -/
def execMld (e : List Ext) (d a : R5) (st : State) : Out :=
  windowOp (.mld e d a) e [a] d 3 (fun st c m =>
    let x := (c.rs a).toNat
    checked [(x % 16 != 0, 0x05, addrVal x), (beyondLocal x (4 * wRows m * wCols m), 0x06, addrVal x)] (enqueue st c (.mld m x))) st

/-- An `mst` form (R179, R183). -/
def matrixStore (i : Instr) (e : List Ext) (d a : R5) (form : Nat) : State → Out :=
  windowOp i e [a] d 3 fun st c m =>
    let x := (c.rs a).toNat
    let n := mstBytes form * wRows m * wCols m
    let k := st.core c.start
    checked [(c.heavy && !c.owns x n, 0x08, addrVal x), (x % 16 != 0, 0x05, addrVal x), (beyondLocal x n, 0x06, addrVal x),
      (k.guarded c.uid x n, 0x09, addrVal x), (k.tagged x n, 0x0C, addrVal x)] (enqueue st c (.mst m x form))

def execMst (e : List Ext) (d a : R5) (st : State) : Out := matrixStore (.mst e d a) e d a 0 st
def execMstBf16 (e : List Ext) (d a : R5) (st : State) : Out := matrixStore (.mstBf16 e d a) e d a 1 st
def execMstTd8 (e : List Ext) (d a : R5) (st : State) : Out := matrixStore (.mstTd8 e d a) e d a 2 st

/-- `mres` (R181): the checks of a push-bound register are made now (R162). -/
def execMres (e : List Ext) (d a : R5) (st : State) : Out :=
  issue e (wordOf (.mres e d a)) (blocks [] [d.toNat]) (fun st c =>
    let m := c.getM a.toNat
    if footLimit c.foot ≤ d.toNat then .fault 0x02 0 none
    else match formatCheck [(0, a.toNat, wFmt m, fmtsWindow)] with
      | some rec => .format rec
      | none =>
        let go := fun c => enqueue st c (.mres m d.toNat)
        match c.slotOf d.toNat with
        | some x => if x.push then withPush st c x (wFmt m) fun x => go (c.putSlot x) else go c
        | none => go c) st

/-- `mchk` (R182, R186): the context issues nothing until it has completed; its own address is kept for the trap. -/
def execMchk (e : List Ext) (d a b : R5) (st : State) : Out :=
  windowOp (.mchk e d a b) e [b] a 0 (fun st c m =>
    enqueue st { c with parkPc := c.pc } (.mchk m a.toNat d.toNat (c.rs b))) st

/-- `mscale` (R180). -/
def execMscale (e : List Ext) (d a b : R5) (st : State) : Out :=
  issue e (wordOf (.mscale e d a b)) (blocks [] [a.toNat, b.toNat]) (fun st c =>
    let m := c.getM d.toNat
    if [a, b].any fun r => footLimit c.foot ≤ r.toNat then .fault 0x02 0 none
    else match formatCheck [(0, a.toNat, c.tagOf a.toNat, 4), (1, b.toNat, c.tagOf b.toNat, 4), (3, d.toNat, wFmt m, 4)] with
      | some rec => .format rec
      | none =>
        withVectors st c [a.toNat, b.toNat] [] [a.toNat, b.toNat] [] fun c =>
          enqueue st c (.mscale m ((List.range (wRows m)).map fun i => BitVec.ofNat 32 (elem 32 (c.src a).bits i))
            ((List.range (wCols m)).map fun j => BitVec.ofNat 32 (elem 32 (c.src b).bits j)))) st

end Sys2Proof.Machine
end

