-- ==== Sys2Proof/Machine/MatrixUnit.lean ====
section
/-! DEFINITION. The matrix unit: arbitration, K-steps, the other commands, clearing of blocks (R63 to R72, R172 to R182, R189). -/

namespace Sys2Proof.Machine

/-! ## Exact values and `RoundMat` (R63) -/

/-- An exact sum; opposite infinities and NaNs give a NaN. -/
def FVal.add (a b : FVal) : FVal :=
  match a, b with
  | .nan, _ => .nan
  | _, .nan => .nan
  | .inf s, .inf t => if s == t then .inf s else .nan
  | .inf s, _ => .inf s
  | _, .inf t => .inf t
  | _, _ =>
    let t := addFrac a.frac b.frac
    .fin (decide (t.1 < 0)) t.1.natAbs t.2

/-- An exact product; 0 × ∞ gives a NaN (R69). -/
def FVal.times (a b : FVal) : FVal := (a.mul b).getD .nan

/-- `RoundMat` (R63): every zero is +0, one that rounding underflows to included (DEDUCED, log 31: the unit never produces −0). -/
def matRound (v : FVal) : Nat :=
  let r := (f32.roundVal 0 v).val
  if r == f32.signBit then 0 else r

/-- `RoundMat` as a value. -/
def matVal (v : FVal) : FVal := f32.value (matRound v)

/-- An exact sum of some values. -/
def sumVals (l : List FVal) : FVal := l.foldl FVal.add (.fin false 0 1)

/-- The exact sum of the products of two lists. -/
def dotVals (a b : List FVal) : FVal := sumVals ((a.zip b).map fun p => p.1.times p.2)

/-! ## K-steps (R64 to R70) -/

/-- The elements of a row that K-step `n` takes; positions at or beyond K are absent (R64, R175). -/
def Core.kRow (k : Core) (fmt base n kb : Nat) : List Nat :=
  let w := tagWidth fmt / 8
  ((List.range (64 / w)).filter fun x => 64 * n + (x + 1) * w ≤ kb).map fun x => k.lm.readN (base + 64 * n + x * w) w

/-- The step value of a floating-point K-step: exact for TD8 (R65), a tree for BF16 and F16 (R67). -/
def stepValue (fmt : Nat) (a b : List FVal) : FVal :=
  if fmt == 5 then dotVals a b
  else
    let p := (a.zip b).map fun x => some (x.1.times x.2)
    match (treeFold (fun x y => (matVal (x.add y), 0)) 5 (p ++ List.replicate (32 - p.length) none)).1 with
    | some v => matVal v
    | none => .fin false 0 1

/-- One accumulation into an F32 element (R68, R69). -/
def accumF (c : Nat) (d : FVal) (t : Option FVal) : Nat :=
  let v := match t with
    | some t => d.times t
    | none => d
  matRound ((f32.value c).add (matVal v))

/-- One accumulation into an I32 element: the element and whether it was clamped (R66). -/
def accumI (c : Nat) (p : Int) : Nat × Bool :=
  let z := signed 32 c + p
  (wrap 32 (if z < -(2 ^ 31) then -(2 ^ 31) else if 2 ^ 31 - 1 < z then 2 ^ 31 - 1 else z),
    decide (z < -(2 ^ 31)) || decide (2 ^ 31 - 1 < z))

/-- The integer product sum of two rows (R66). -/
def dotInts (a b : List Int) : Int := ((a.zip b).map fun p => p.1 * p.2).sum

/-! ## Elements of the store -/

/-- Writes an element that an unlisted key reads as zero. -/
def putZero (m : Map W32) (k v : Nat) : Map W32 := if v % 2 ^ 32 == 0 then Map.del m k else Map.put m k (BitVec.ofNat 32 v)

/-- Reads an element. -/
def getZero (m : Map W32) (k : Nat) : Nat := (Map.getD m k 0).toNat

/-- A window in its cluster's store: first row and column, rows, columns, block, and whether it holds F32. -/
structure Win where
  row : Nat
  col : Nat
  nr : Nat
  nc : Nat
  blk : Nat
  f32w : Bool
  ckv : Bool
deriving DecidableEq, Repr

/-- The window of a descriptor on core index `c` (R170). -/
def Cluster.win (g : Cluster) (c : Nat) (m : W64) : Win :=
  let r := 32 * g.baseBlock c + wRow m
  ⟨r, wCol m, wRows m, wCols m, r / 32 * 4 + wCol m / 32, wFmt m == 2, wCkv m⟩

/-- Element (i, j) of a window. -/
def Cluster.el (g : Cluster) (w : Win) (i j : Nat) : Nat := getZero g.acc ((w.row + i) * 128 + w.col + j)

/-- Key of the checksum of window row i, or column j. -/
def Win.ccKey (w : Win) (i : Nat) : Nat := w.blk * 32 + w.row % 32 + i
/-- Key of the checksum of window column j. -/
def Win.crKey (w : Win) (j : Nat) : Nat := w.blk * 32 + w.col % 32 + j

/-- Writes every element of a window. -/
def Cluster.setWin (g : Cluster) (w : Win) (f : Nat → Nat → Nat) : Cluster :=
  { g with acc := (List.range w.nr).foldl (fun m i => (List.range w.nc).foldl (fun m j =>
      putZero m ((w.row + i) * 128 + w.col + j) (f i j)) m) g.acc }

/-- Writes the checksums of a window. -/
def Cluster.setSums (g : Cluster) (w : Win) (f h : Nat → Nat) : Cluster :=
  { g with
    cc := (List.range w.nr).foldl (fun m i => putZero m (w.ccKey i) (f i)) g.cc
    cr := (List.range w.nc).foldl (fun m j => putZero m (w.crKey j) (h j)) g.cr }

/-- The sum of some elements of a window: the tree of R74 rounded by `RoundMat`, or modulo 2^32 (R181). -/
def sumOf (f : Bool) (l : List Nat) : Nat :=
  if f then
    match (treeFold (fun x y => (matVal (x.add y), 0)) 5 (l.map fun x => some (f32.value x))).1 with
    | some v => matRound v
    | none => 0
  else l.sum % 2 ^ 32

/-- `RowSum`. -/
def Cluster.rowSum (g : Cluster) (w : Win) (i : Nat) : Nat := sumOf w.f32w ((List.range w.nc).map (g.el w i))
/-- `ColSum`. -/
def Cluster.colSum (g : Cluster) (w : Win) (j : Nat) : Nat := sumOf w.f32w ((List.range w.nr).map fun i => g.el w i j)

/-- Re-forms the checksums of a window from its elements (R178, R180). -/
def Cluster.reform (g : Cluster) (w : Win) : Cluster := if w.ckv then g.setSums w (g.rowSum w) (g.colSum w) else g

/-- A residue (R181). -/
def residue (f : Bool) (ck s : Nat) : Nat :=
  if f then matRound ((f32.value ck).add (f32.value s).negate) else wrap 32 ((ck : Int) - s)

/-- The residues of a window's rows, then of its columns, each with its checksum (R181). -/
def Cluster.residues (g : Cluster) (w : Win) : List (Nat × Nat) × List (Nat × Nat) :=
  ((List.range w.nr).map fun i => let ck := getZero g.cc (w.ccKey i); (residue w.f32w ck (g.rowSum w i), ck),
   (List.range w.nc).map fun j => let ck := getZero g.cr (w.crKey j); (residue w.f32w ck (g.colSum w j), ck))

/-! ## `mma` (R175, R176) -/

/-- The scale of descriptor row `r`: 1.0 without `SCV` (R70). -/
def Core.scaleOf (k : Core) (o : BitVec 128) (r : Nat) : FVal :=
  if odScv o then f32.value (k.lm.readN (odScale o + 4 * r) 4) else .fin false 1 1

/-- K-step `n` of a floating-point `mma` (R65, R67, R68, R175, R176). -/
def Cluster.stepF (g : Cluster) (k : Core) (w : Win) (oa ob : BitVec 128) (idx : List Nat) (ck : Bool) (n : Nat) : Cluster :=
  let kb := min (odKB oa) (odKB ob)
  let f := odFmt oa
  let a := idx.map fun x => ((k.kRow f (odBase oa + x * odPitch oa) n kb).map (elemValue f), k.scaleOf oa x)
  let b := (List.range w.nc).map fun j => ((k.kRow f (odBase ob + j * odPitch ob) n kb).map (elemValue f), k.scaleOf ob j)
  let scaled := odScv oa || odScv ob
  let row := fun i => (a[i]?).getD ([], .nan)
  let col := fun j => (b[j]?).getD ([], .nan)
  let g' := g.setWin w fun i j =>
    accumF (g.el w i j) (stepValue f (row i).1 (col j).1) (if scaled then some (matVal ((row i).2.times (col j).2)) else none)
  if ck && w.ckv then
    let width := ((a.head?).map fun x => x.1.length).getD 0
    let at' := fun (l : List FVal) (x : Nat) => (l[x]?).getD (.fin false 0 1)
    let sas := (List.range width).map fun x => matVal (sumVals (a.map fun r => r.2.times (at' r.1 x)))
    let sbs := (List.range width).map fun x => matVal (sumVals (b.map fun r => r.2.times (at' r.1 x)))
    g'.setSums w
      (fun i => matRound ((f32.value (getZero g.cc (w.ccKey i))).add (matVal ((row i).2.times (dotVals (row i).1 sbs)))))
      (fun j => matRound ((f32.value (getZero g.cr (w.crKey j))).add (matVal ((col j).2.times (dotVals sas (col j).1)))))
  else g'

/-- K-step `n` of an integer `mma` (R66, R175, R176). -/
def Cluster.stepI (g : Cluster) (k : Core) (w : Win) (oa ob : BitVec 128) (idx : List Nat) (ck : Bool) (n : Nat) : Cluster :=
  let kb := min (odKB oa) (odKB ob)
  let a := idx.map fun x => (k.kRow (odFmt oa) (odBase oa + x * odPitch oa) n kb).map (elemInt (odFmt oa))
  let b := (List.range w.nc).map fun j => (k.kRow (odFmt ob) (odBase ob + j * odPitch ob) n kb).map (elemInt (odFmt ob))
  let row := fun i => (a[i]?).getD []
  let col := fun j => (b[j]?).getD []
  let r := fun i j => accumI (g.el w i j) (dotInts (row i) (col j))
  let clamped := (List.range w.nr).any fun i => (List.range w.nc).any fun j => (r i j).2
  let g' := g.setWin w fun i j => (r i j).1
  let g' := if clamped then { g' with sat := NatSet.add g'.sat w.blk } else g'
  if ck && w.ckv then
    let width := ((a.head?).map List.length).getD 0
    let sas := (List.range width).map fun x => (a.map fun l => (l[x]?).getD 0).sum
    let sbs := (List.range width).map fun x => (b.map fun l => (l[x]?).getD 0).sum
    g'.setSums w (fun i => wrap 32 (getZero g.cc (w.ccKey i) + dotInts (row i) sbs))
      (fun j => wrap 32 (getZero g.cr (w.crKey j) + dotInts sas (col j)))
  else g'

/-- K-steps of an `mma` (R64). -/
def mmaSteps (oa ob : BitVec 128) : Nat := (min (odKB oa) (odKB ob) + 63) / 64

/-- The first poisoned word, by local address, among the ranges that a K-step reads (R373). -/
def Core.poisonIn (k : Core) (l : List (Nat × Nat)) : Option Nat :=
  if k.lpoison.isEmpty then none
  else ((l.flatMap fun p => wordsTouched p.1 p.2).find? k.lpoison.contains).map (8 * ·)

/-- The ranges that K-step `n` of an `mma` reads. -/
def stepReads (md : W64) (oa ob : BitVec 128) (idx : List Nat) (n : Nat) : List (Nat × Nat) :=
  let len := min 64 (min (odKB oa) (odKB ob) - 64 * n)
  idx.map (fun x => (odBase oa + x * odPitch oa + 64 * n, len)) ++
    (List.range (wCols md)).map (fun j => (odBase ob + j * odPitch ob + 64 * n, len)) ++
    (if odScv oa then idx.map fun x => (odScale oa + 4 * x, 4) else []) ++
    (if odScv ob then (List.range (wCols md)).map fun j => (odScale ob + 4 * j, 4) else [])

/-- The ranges that the K-pair of an even K-step `n` reads: those of two K-steps (R191). -/
def pairReads (md : W64) (oa ob : BitVec 128) (idx : List Nat) (n : Nat) : List (Nat × Nat) :=
  stepReads md oa ob idx n ++ stepReads md oa ob idx (n + 1)

/-- The operand messages of some ranges: the bytes of local memory there, read once (R193). -/
def Core.messages (k : Core) (l : List (Nat × Nat)) : Mem := k.lm.filter fun x => l.any fun p => decide (p.1 ≤ x.1) && decide (x.1 < p.1 + p.2)

/-- `K_STEP` (R175, R194): one K-step of the `mma` in a cluster's unit, counted as 64 work units of its task. The first of a K-pair reads the operands
and scales of both, and the second uses the messages that are held, also after a pre-emption (R175, R191, R193); an operand that is
poisoned is consumed (R373). After a pre-emption it waits until its launch is admitted again (R386); a unit performs one in a cycle, and none in
a cycle in which halved issue lets no core issue (R191, R388; the last DEDUCED, log 7). -/
def execKStep (st : State) : Out :=
  let g := st.cluster st.item
  match g.running with
  | some r =>
    match r.cmd.op with
    | .mma md oa ob idx ck =>
      if g.preempt || g.failed || g.testing.isSome || (g.admitted.find r.cmd.launch).isNone || g.stepped || !(st.layer (st.item / 21)).issues then idle "K_STEP"
      else
        let cid := coreOf st.item r.c
        let k := st.core cid
        match (if r.ops.isSome then none else k.poisonIn (pairReads md oa ob idx r.n)) with
        | some a =>
          let st := st.modCluster st.item fun g => { g with running := none, stepped := true }
          (match st.byUid r.cmd.uid with
            | some c => .next (st.consumePoison c a)
            | none => .next st)
        | none =>
          let w := g.win r.c md
          let ops := r.ops.getD (k.messages (pairReads md oa ob idx r.n))
          let k := { k with lm := ops }
          let g := if w.f32w then g.stepF k w oa ob idx ck r.n else g.stepI k w oa ob idx ck r.n
          let g := { g with running := if r.n + 1 < mmaSteps oa ob then some { r with n := r.n + 1, ops := if r.ops.isSome then none else some ops } else none,
                            stepped := true }
          let st := st.modCluster st.item fun _ => g
          .next (match st.byUid r.cmd.uid with
            | some c => st.credit c.key 64
            | none => st)
    | _ => idle "K_STEP"
  | none => idle "K_STEP"

/-! ## The other commands (R177 to R182) -/

/-- Does a residue fail (R182)? A limit formed from ∞ · 0 or ∞ − ∞ is no number, and the manual states no outcome: it is open (log 32). -/
def resFails (f : Bool) (sb : W64) (x ck : Nat) : Bool :=
  if f then
    match f32.value x, f32.value ck, f32.value (sb.toNat % 2 ^ 32), f32.value (sb.toNat / 2 ^ 32) with
    | .nan, _, _, _ => true
    | _, .nan, _, _ => true
    | _, _, .nan, _ => true
    | _, _, _, .nan => true
    | a, b, t, u =>
      let m := fun v : FVal => if v.sign then v.negate else v
      match t.add (u.times (m b)) with
      | .nan => Config.unbounded x ck sb.toNat
      | lim => lim.lt (m a)
  else decide (sb.toNat % 2 ^ 32 < (signed 32 x).natAbs)

/-- The bits of the failing residues. -/
def failBits (f : Bool) (sb : W64) (l : List (Nat × Nat)) : Nat :=
  ((l.zipIdx).map fun p => if resFails f sb p.1.1 p.1.2 then 2 ^ p.2 else 0).sum

/-- One element as `mst` writes it (R179). -/
def storeElem (f : Bool) (form x : Nat) : Nat :=
  match form with
  | 0 => x
  | 1 => if f then (convFmt f32 bf16 0 x).val else (bf16.ofInt 0 (signed 32 x)).val
  | _ => (td8Of (elemValue (if f then 2 else 1) x) false).val

/-- Writes a vector result of a finished command: discarded for a pop-bound register, pushed for a push-bound one (R161, R162). -/
def State.lateVector (st : State) (u d : Nat) (x : VReg) : State :=
  match st.byUid u with
  | some c =>
    (match c.slotOf d with
      | none => st.setCtx (c.setV d x)
      | some s =>
        if !s.push then st
        else (st.setCtx ((c.setV d x).putSlot
          { s with pos := s.pos + 1, staged := s.staged ++ [(s.pos, ⟨x.bits, none, none, st.stamp⟩)] })).tickStamp)
  | none => st

/-- Ends a `mchk`: the masks are written, then a failure traps `CHECK` (R182). -/
def State.finishCheck (st : State) (u : Nat) (g : Cluster) (w : Win) (man kd : Nat) (sb : W64) : State :=
  match st.byUid u with
  | some c =>
    if !w.ckv then st.setCtx ((c.setK kd 0).setK (kd + 1) 0)
    else
      let r := g.residues w
      let a := failBits w.f32w sb r.1
      let b := failBits w.f32w sb r.2
      let c := (c.setK kd (BitVec.ofNat 64 a)).setK (kd + 1) (BitVec.ofNat 64 b)
      if a == 0 && b == 0 then st.setCtx c
      else
        let nan := w.f32w && (r.1 ++ r.2).any fun p => f32.isNaN p.1 || f32.isNaN p.2
        (st.setCtx c).takeTrap c 0x18 (man + b2n (g.sat.contains w.blk) * 2 ^ 4 + b2n nan * 2 ^ 5) (BitVec.ofNat 64 (a + b * 2 ^ 32))
          c.parkPc c.pc
  | none => st

/-- What a command other than `mma` does (R173, R177 to R182); `c` is the index of its core in cluster `n`. A poisoned word that `mld` loads is
consumed (R373; DEDUCED, log 62). -/
def State.matrixCommand (st : State) (n c : Nat) (cmd : MCmd) : State :=
  let g := st.cluster n
  let cid := coreOf n c
  let set := fun (g : Cluster) => st.modCluster n fun _ => g
  match cmd.op with
  | .mma .. => st
  | .mwin md =>
    let w := g.win c md
    let g := { g with sat := NatSet.del g.sat w.blk }
    set (if w.ckv then g.setSums w (fun _ => 0) (fun _ => 0) else g)
  | .mzero md =>
    let w := g.win c md
    let g := { g.setWin w fun _ _ => 0 with sat := NatSet.del g.sat w.blk }
    set (if w.ckv then g.setSums w (fun _ => 0) (fun _ => 0) else g)
  | .mld md sa =>
    let w := g.win c md
    (match (st.core cid).poisonIn [(sa, 4 * (w.nr * w.nc))] with
      | some a => ((st.byUid cmd.uid).map fun c => st.consumePoison c a).getD st
      | none => set ((g.setWin w fun i j => (st.core cid).lm.readN (sa + 4 * (w.nc * i + j)) 4).reform w))
  | .mst md sa form =>
    let w := g.win c md
    if cmd.heavy && (st.byUid cmd.uid).isNone then st
    else
      let bytes := (List.range w.nr).flatMap fun i => (List.range w.nc).flatMap fun j =>
        bytesOf (mstBytes form) (storeElem w.f32w form (g.el w i j))
      st.deliver cid sa bytes
  | .mres ma vd =>
    let w := g.win c ma
    let r := g.residues w
    let lanes := if w.ckv then (r.1.zipIdx.map fun p => (p.2, p.1.1)) ++ (r.2.zipIdx.map fun p => (32 + p.2, p.1.1)) else []
    st.lateVector cmd.uid vd ⟨BitVec.ofNat 2048 (lanes.foldl (fun acc p => putBits acc (32 * p.1) 32 p.2) 0), wFmt ma⟩
  | .mchk ma man kd sb => st.finishCheck cmd.uid g (g.win c ma) man kd sb
  | .mscale md rs cs =>
    let w := g.win c md
    let f := fun (l : List W32) (i : Nat) => f32.value ((l[i]?).getD 0).toNat
    set ((g.setWin w fun i j => matRound ((f32.value (g.el w i j)).times (matVal ((f rs i).times (f cs j))))).reform w)

/-- `MATRIX_COMMAND_PERFORM` (R185, R194): the command in a cluster's unit, other than `mma`, is performed. A pre-emption that waited for it
is then complete. -/
def execMatrixCommandPerform (st : State) : Out :=
  let g := st.cluster st.item
  match g.running with
  | some r =>
    if r.cmd.op.isMma || g.failed || g.testing.isSome then idle "MATRIX_COMMAND_PERFORM"
    else
      let st := st.modCluster st.item fun g => { g with running := none, preempted := g.preempt }
      .next (st.matrixCommand st.item r.c r.cmd)
  | none => idle "MATRIX_COMMAND_PERFORM"

/-! ## Arbitration (R188 to R190) -/

/-- Can the head of a core's queue begin: not held by the scoreboard, and with a token if it is an `mma` (R187 to R189)? -/
def State.pendingHead (st : State) (n c : Nat) : Option MCmd :=
  let cid := coreOf n c
  ((st.core cid).mq.head?).filter fun m =>
    st.unordered cid (m.claims 0) && (!m.op.isMma || ((st.cluster n).admitted.find m.launch).isSome)

/-- One pass over the cores after the last one chosen (R189). -/
def nextPass (pending : Nat → Bool) (credit : Vector Nat 8) (last : Nat) : Option Nat :=
  ((List.range 8).map fun x => (last + 1 + x) % 8).find? fun c => pending c && (credit[c]?).getD 0 != 0

/-- `NextCore` (R189): the core chosen, with the credits left before it is charged. -/
def nextCore (pending : Nat → Bool) (g : Cluster) : Option (Nat × Vector Nat 8) :=
  match nextPass pending g.credit g.last with
  | some c => some (c, g.credit)
  | none => (nextPass pending g.wgt g.last).map fun c => (c, g.wgt)

/-- The `mma` heads of a cluster that have asked for no token yet: they ask the power arbiter (R188). -/
def State.askTokens (st : State) (n : Nat) : List PowerReq :=
  (List.range 8).filterMap fun c =>
    match (st.core (coreOf n c)).mq.head? with
    | some m =>
      if m.op.isMma && ((st.cluster n).admitted.find m.launch).isNone &&
          !st.powerReqs.any (fun r => r.g == n && r.launch == m.launch && r.acc == none) then some ⟨m.launch, n, none⟩
      else none
    | none => none

/-- `NEXT_CORE` (R189): a free unit accepts a command of the core that the arbiter chooses; a head `mma` without a token asks for one,
whatever the other cores have (R188). Where no core is pending, the credits begin a new round. Only an `mma` ends the time for which its launch has
needed no token here (R385). -/
def execNextCore (st : State) : Out :=
  let n := st.item
  let g := st.cluster n
  if g.running.isSome || g.preempt || g.failed || g.testing.isSome then idle "NEXT_CORE"
  else
    let asks := (st.askTokens n).dedup
    match nextCore (fun c => (st.pendingHead n c).isSome) g with
    | some (c, cr) =>
      (match st.pendingHead n c with
        | some m =>
          let st := { st with powerReqs := st.powerReqs ++ asks }
          let st := st.modCore (coreOf n c) fun k => { k with mq := k.mq.tail }
          .next (st.modCluster n fun g =>
            { (if m.op.isMma then g.touched m.launch else g) with
                     running := some ⟨c, m, 0, none⟩, last := c, credit := cr.setIfInBounds c ((cr[c]?).getD 0 - 1),
                     quiet := none, users := if m.heavy then (m.uid :: g.users).dedup else g.users })
        | none => idle "NEXT_CORE")
    | none =>
      if asks.isEmpty && g.credit == g.wgt then idle "NEXT_CORE"
      else .next ({ st with powerReqs := st.powerReqs ++ asks }.modCluster n fun g => { g with credit := g.wgt })

/-! ## Clearing of blocks (R172) -/

/-- Clears a block: elements, side entries and `SAT` (R172). -/
def Cluster.clearBlock (g : Cluster) (b : Nat) : Cluster :=
  { g with
    acc := g.acc.filter fun p => !(p.1 / 128 / 32 == b / 4 && p.1 % 128 / 32 == b % 4)
    cc := g.cc.filter fun p => p.1 / 32 != b
    cr := g.cr.filter fun p => p.1 / 32 != b
    sat := NatSet.del g.sat b
    claims := Map.del g.claims b }

/-- Has a context identifier left the machine with no matrix command? -/
def State.matrixDone (st : State) (n u : Nat) : Bool :=
  (st.byUid u).isNone && (List.range 8).all (fun c => (st.core (coreOf n c)).mq.all fun m => m.uid != u) &&
    (match (st.cluster n).running with
      | some r => r.cmd.uid != u
      | none => true)

/-- `BLOCK_CLEAR` (R172): a block claimed by a context that has ended, with its commands completed or discarded, is cleared and freed. -/
def execBlockClear (g k : Nat) (st : State) : Out :=
  match (st.cluster g).claims.find k with
  | some u => if st.matrixDone g u then .next (st.modCluster g fun x => x.clearBlock k) else idle "BLOCK_CLEAR"
  | none => idle "BLOCK_CLEAR"

end Sys2Proof.Machine
end

