-- ==== Sys2Proof/Machine/Engines.lean ====
section
/-! DEFINITION. The engines of a core and the translation stations: strips, copies, completion records, walks, node refills (R160 to
R164, R224, R228 to R235, R246, R301 to R308). -/

namespace Sys2Proof.Machine

/-! ## Reading at S for an engine (R228, R269, R372) -/

/-- Reads bytes at S, in host memory or in registers: the value, and whether it is poisoned. -/
def State.readAt (st : State) (pa n : Nat) : State × Nat × Bool :=
  if paSpace pa == 3 then (st, ofBytes (st.readRegBytes (paOff pa) n), false) else st.sRead pa n

/-- Bytes of a version of a tile and whether a word of them is poisoned; none beyond its size (R226, R233). -/
def Tile.bytesAt (t : Tile) (ver off n : Nat) : Option (List Byte × Bool) :=
  if off + n ≤ (t.vers.getD ver []).length then
    some (((t.vers.getD ver []).drop off).take n, t.bad.any fun b => b.1 == ver && (wordsTouched off n).contains b.2)
  else none

/-- The sequence number of a launch, for a page request (R305). -/
def State.seqOf (st : State) (launch : Nat) : Nat :=
  match st.launches.find launch with
  | some (x : Launch) => x.seq
  | none => 0

/-! ## Streams (R160 to R163, R307, R308) -/

/-- The strip that the copy unit asks for next: the first of the four from the next to pop that is not staged (R307, R308). -/
def Slot.wanted (x : Slot) : Option Nat :=
  ((List.range 4).map (x.pos + ·)).find? fun k => k < x.shape.strips && (Map.find x.staged k).isNone

/-- What one element of a strip gives: its bytes and poison, or a translation fault. -/
inductive Got where
  | ok (bytes : List Byte) (bad : Bool)
  | fault (absent : Bool)
deriving DecidableEq, Repr

/-- Reads one element of a pop stream (R307). A tile version that is no longer retained or too small gives open bytes (log 27). -/
def State.stripElem (st : State) (c : Ctx) (h : Shape) (a : Nat) : State × Got :=
  match h.space with
  | 0 => (st, .ok ((st.core c.start).lm.readBytes a h.bytes) ((st.core c.start).poisoned a h.bytes))
  | 1 =>
    (match st.engineXlate c.start (st.pidOf c) c.sup a .read with
      | .at pa =>
        let r := st.readAt pa h.bytes
        (r.1, .ok (bytesOf h.bytes r.2.1) r.2.2)
      | .notPresent => (st, .fault true)
      | _ => (st, .fault false))
  | _ =>
    (match (st.tileOf c.tenant h.base).bind fun t => if (t.vers.find h.ver).isSome then t.bytesAt h.ver a h.bytes else none with
      | some r => (st, .ok r.1 r.2)
      | none => ({ st with frees := st.frees + 1 }, .ok (bytesOf h.bytes (Config.lostRead st.frees)) false))

/-- Reads the elements of a strip, given with their places: the strip's bits, its lowest faulting address and the first poisoned word (R308, R373). -/
def State.stripRead (c : Ctx) (h : Shape) : List (Nat × Nat) → State → State × Nat × Option (Nat × Bool) × Option Nat
  | [], st => (st, 0, none, none)
  | (a, i) :: l, st =>
    let r := st.stripElem c h a
    let s := State.stripRead c h l r.1
    match r.2 with
    | .ok b bad => (s.1, s.2.1 + ofBytes b * 2 ^ (8 * i), s.2.2.1, if bad then some (a / 8 * 8) else s.2.2.2)
    | .fault ab =>
      (s.1, s.2.1, some (match s.2.2.1 with
        | some x => if x.1 < a then x else (a, ab)
        | none => (a, ab)), s.2.2.2)

/-- The peer addresses that the elements of a strip lie at. -/
def State.peersOf (st : State) (cid pid : Nat) (sup : Bool) (k : XKind) (l : List Nat) : List Nat :=
  l.filterMap fun a => match st.engineXlate cid pid sup a k with
    | .at pa => if st.isPeer pa then some pa else none
    | _ => none

/-- The translations of some addresses are at hand: the first that is not is asked for at the station (R301). -/
def State.readyXlate (cid pid tenant : Nat) (sup : Bool) (k : XKind) : List Nat → State → Ready
  | [], st => .go st
  | a :: l, st =>
    match st.engineXlate cid pid sup a k with
    | .miss =>
      (match st.engineWalk ⟨cid, pid, a / 65536, k, sup⟩ tenant with
        | some st => .act st
        | none => .wait)
    | _ => State.readyXlate cid pid tenant sup k l st

/-- The lowest address of some in each page that is not present (R305). -/
def State.absentPages (st : State) (cid pid : Nat) (sup : Bool) (l : List Nat) : List Nat :=
  let gone := l.filter fun a => st.engineXlate cid pid sup a .read == .notPresent
  ((gone.map (· / 65536)).dedup).map fun p => (leastBy id (gone.filter fun a => a / 65536 == p)).getD 0

/-- Is an earlier pushed strip of a core still to be written? The stream queue performs its commands in their order: pushes in the order of the
pushes, and the strips of a pop stream in the place of its binding (R280; the latter DEDUCED, log 26). -/
def State.earlierPush (st : State) (cid id : Nat) : Bool :=
  st.ctxs.any fun p => p.2.start == cid && p.2.slots.any fun x => x.push && x.staged.any fun y => y.2.id < id

/-- Is a strip that an earlier bound pop stream asks for still to be read (R280, R307)? -/
def State.earlierPop (st : State) (cid id : Nat) : Bool :=
  st.ctxs.any fun p => p.2.start == cid && p.2.slots.any fun x => !x.push && decide (x.id < id) && x.wanted.isSome

/-- Stages one strip, when the earlier pushes of the core are written (R280, R307, R308); a page request goes out for every page of it that
is not present (R305).
The granules of a strip are read, and in `State.drain` written, in one step (R163, R307; DESIGN CHOICE, log 116).
Each reading of a strip credits a unit of work, also one that repeats a reading that faulted (R159; DESIGN CHOICE, log 105). -/
def State.refill (st : State) (c : Ctx) (x : Slot) (k : Nat) : Ready :=
  let l := x.shape.strip k
  let local' := if x.shape.space == 0 then l.map fun p => (p.1, x.shape.bytes) else []
  let vas := if x.shape.space == 1 then l.map Prod.fst else []
  let pid := st.pidOf c
  if st.earlierPush c.start x.id || !st.unordered c.start ⟨x.id, local', []⟩ then .wait
  else
    (State.readyXlate c.start pid c.tenant c.sup .read vas st).andThen fun st =>
    (State.readyLines c.acqPod c.tenant (st.peersOf c.start pid c.sup .read vas) st).andThen fun st =>
      let absent := st.absentPages c.start pid c.sup vas
      let r := State.stripRead c x.shape l st
      let st := absent.foldl (fun (s : State) va => s.pageRequest (pageRecord pid .read true (s.seqOf c.launch) va (s.gid c.start))) r.1
      let st := st.toldEngine c.start pid c.sup .read vas
      let s : Strip := ⟨BitVec.ofNat 2048 r.2.1, r.2.2.1, r.2.2.2, st.stamp⟩
      let x := { x with staged := Map.put x.staged k s, req := max x.req (k + 1) }
      .go ((st.setCtx (c.putSlot x)).tickStamp.credit c.key 1)

/-- `STRIP_REFILL` (R307): the next strip wanted by stream slot `slot` of the context with key `k` is read and staged. -/
def execStripRefill (k slot : Nat) (st : State) : Out :=
  match (st.ctx k).bind fun c => (c.slots[slot]?).map fun x => (c, x) with
  | some (c, x) =>
    if x.push then idle "STRIP_REFILL"
    else (match x.wanted with
      | some n => (st.refill c x n).out "STRIP_REFILL"
      | none => idle "STRIP_REFILL")
  | none => idle "STRIP_REFILL"

/-- Writes an element of a strip or copy into local memory with its poison; its granules become full (R134, R162, R228, R372). -/
def State.deliverAll (st : State) (cid : Nat) (l : List (Nat × List Byte)) (bad : List (Nat × Nat)) : State :=
  (st.modCore cid fun k =>
    let k := k.writeAll l
    { k with lpoison := bad.foldl (fun s p => (wordsTouched p.1 p.2).foldl NatSet.add s) k.lpoison }).setGranules cid
      ((l.flatMap fun p => granulesOf p.1 p.2.length).dedup) true

/-- The physical address of an element of a pushed strip, by the translation kept at its push. -/
def Slot.paOf (x : Slot) (k va : Nat) : Nat :=
  ((x.xl.find? fun p => p.1 == k && p.2.1 == va / 65536).map fun p => p.2.2 + va % 65536).getD 0

/-- Writes the oldest pushed strip of a slot (R162, R163, R280, R307). No fault follows its acceptance (R112, R162): an element in a lease that was
handed out since, or on a barrier word that was initialised since, is not written (R39, R132; DESIGN CHOICE, log 40). -/
def State.drain (st : State) (c : Ctx) (x : Slot) (k : Nat) (s : Strip) : Ready :=
  let w := x.shape.bytes
  let l := (x.shape.strip k).map fun p => (p.1, bytesOf w (bits s.bits.toNat (8 * p.2) (8 * w)))
  let rest := { x with staged := Map.del x.staged k, xl := x.xl.filter fun p => p.1 != k }
  if st.earlierPush c.start s.id || st.earlierPop c.start s.id then .wait
  else if x.shape.space == 0 then
    if !st.unordered c.start ⟨s.id, [], l.map fun p => (p.1, w)⟩ then .wait
    else
      let l := l.filter fun p => !(st.core c.start).leased c.uid p.1 w && !(st.core c.start).tagged p.1 w
      .go (((st.deliverAll c.start l []).modCtx c.key fun c => c.putSlot rest).credit c.key 1)
  else
    let l := l.map fun p => (x.paOf k p.1, p.2)
    (State.readyLines c.acqPod c.tenant (l.map Prod.fst) st).andThen fun st =>
      .go ((((mergeRuns l).foldl (fun (st : State) p => st.putBytes c.start p.1 p.2) st).modCtx c.key fun c => c.putSlot rest).credit
        c.key 1)

/-- `STRIP_PUSH_WRITE` (R162, R307): the oldest strip pushed through stream slot `slot` of the context with key `k` is written. -/
def execStripPushWrite (k slot : Nat) (st : State) : Out :=
  match (st.ctx k).bind fun c => (c.slots[slot]?).map fun x => (c, x) with
  | some (c, x) =>
    (match x.push, x.staged with
      | true, (n, s) :: _ => (st.drain c x n s).out "STRIP_PUSH_WRITE"
      | _, _ => idle "STRIP_PUSH_WRITE")
  | none => idle "STRIP_PUSH_WRITE"

/-! ## Copies (R224, R228, R229, R233, R235) -/

/-- The copy with an identifier. -/
def State.copy (st : State) (n : Nat) : Option Copy := st.copies.find? fun x => x.id == n

/-- Replaces a copy. -/
def State.setCopy (st : State) (x : Copy) : State := { st with copies := replaceFirst (fun y => y.id == x.id) x st.copies }

/-- Are two copies in one queue (R231)? -/
def Copy.sameQueue (x y : Copy) : Bool := x.cid == y.cid && x.xpkg.isSome == y.xpkg.isSome

/-- Ends the data phase of a copy: the first failure met, if any, stands (R233). -/
def State.endCopy (st : State) (x : Copy) : State := st.setCopy { x with status := some (x.own.getD (0, 0, 0)) }

/-- Where translation or bounds take an element. -/
inductive Reach where
  | at (a : Nat)
  | absent (va : Nat) (k : XKind)
  | miss (va : Nat) (k : XKind)
  | bad (status code addr : Nat)
deriving DecidableEq, Repr

/-- The place of element `n` of one side of a copy (R226, R228, R233). -/
def State.reach (st : State) (x : Copy) (h : Shape) (n : Nat) (k : XKind) : Reach :=
  let a := h.addr n
  match h.space with
  | 0 => .at a
  | 1 =>
    (match st.engineXlate x.cid x.pid x.sup a k with
      | .at pa => .at pa
      | .notPresent => .absent a k
      | .xlate => .bad 1 0x0A a
      | .miss => .miss a k)
  | _ =>
    (match (st.tileOf x.tenant h.base).bind fun t => t.bytesAt h.ver a h.bytes with
      | some _ => .at a
      | none => .bad 4 0 a)

/-- An element to be moved: where it comes from and where it goes. -/
abbrev Move := Nat × Nat

/-- The elements from `n` on whose destinations lie in one granule, up to the first of them that cannot be reached; `acc` holds those found
(R228). The source is looked at before the destination (DEDUCED, log 39). -/
def State.copyRun (st : State) (x : Copy) : Nat → Nat → List Move → List Move × Option Reach
  | 0, _, acc => (acc, none)
  | f + 1, n, acc =>
    if x.total ≤ n || x.dst.addr n / 16 != x.dst.addr (n - acc.length) / 16 then (acc, none)
    else
      match st.reach x x.src n .read with
      | .at s =>
        (match st.reach x x.dst n .write with
          | .at d => st.copyRun x f (n + 1) (acc ++ [(s, d)])
          | r => (acc, some r))
      | r => (acc, some r)

/-- Reads one element of a copy's source (R228, R372). -/
def State.copyRead (st : State) (x : Copy) (a : Nat) : State × List Byte × Bool :=
  let w := x.src.bytes
  match x.src.space with
  | 0 => (st, (st.core x.cid).lm.readBytes a w, (st.core x.cid).poisoned a w)
  | 1 =>
    let r := st.readAt a w
    (r.1, bytesOf w r.2.1, r.2.2)
  | _ =>
    (match (st.tileOf x.tenant x.src.base).bind fun t => t.bytesAt x.src.ver a w with
      | some r => (st, r.1, r.2)
      | none => (st, [], false))

/-- Reads the elements of a run: their destinations, bytes and poison. -/
def State.copyReads (x : Copy) : List Move → State → State × List (Nat × List Byte × Bool)
  | [], st => (st, [])
  | (s, d) :: l, st =>
    let r := st.copyRead x s
    let t := State.copyReads x l r.1
    (t.1, (d, r.2.1, r.2.2) :: t.2)

/-- The core whose local memory a copy writes (R228). -/
def Copy.target (x : Copy) : Nat := x.xcid.getD x.cid

/-- The core of a copy's barrier word (R230). -/
def Copy.barCore (x : Copy) : Nat := if x.dst.space == 0 then x.target else x.cid

/-- The subtraction of a counted delivery from a barrier word: one that would leave the range of `PEND` sets `BROKEN` and `POISON` instead
(R215, R224). -/
def barSubtract (w n : Nat) : Nat :=
  let p := barPend w - (n : Int)
  if p < -(2 ^ 24 : Int) then putBits w 1 2 3 else barFlip (barSetPend w p)

/-- Subtracts a delivery from a copy's barrier, after its write (R224). -/
def State.countDelivery (st : State) (cid : Nat) (bar : Option Nat) (n : Nat) : State :=
  match bar with
  | some a => st.barWrite cid a (barSubtract (st.barWord cid a) n)
  | none => st

/-- Has the barrier word of a counted delivery lost its tag (R224)? -/
def State.barGone (st : State) (cid : Nat) (bar : Option Nat) : Bool :=
  bar.any fun a => ((st.core cid).tags.find (a / 8)).isNone

/-- Each 256 bytes that a copy has delivered credit a unit of work to its context (R25, R228). -/
def State.creditCopy (st : State) (x : Copy) (got : Nat) : State :=
  match st.byUid x.uid with
  | some c => if x.credited < got / 256 then st.credit c.key (got / 256 - x.credited) else st
  | none => st

/-- A copy after `n` more elements of which `b` bytes were delivered (R228). -/
def State.advance (st : State) (x : Copy) (n b : Nat) : State :=
  let got := x.got + b
  let y := { x with next := x.next + n, got := got, credited := got / 256 }
  let st := st.creditCopy x got
  if x.total ≤ y.next && x.xpkg.isNone then st.endCopy y else st.setCopy { y with sent := decide (x.total ≤ y.next) }

/-- Sends a granule of a remote copy to its target (R231, R345, R346); after the last one its `CPYDONE` is awaited. The number that names the
copy at its target carries the source core. -/
def State.sendGranule (st : State) (x : Copy) (p : Nat) (l : List (Nat × List Byte × Bool)) (last : Bool) : State × Copy :=
  let r := st.nextTag ((x.cid * 512 + p) * 2 + 2 ^ 40)
  let bytes := l.flatMap fun e => e.2.1.zipIdx.map fun b => (e.1 + b.2, b.1)
  let bad := ((l.filter fun e => e.2.2).flatMap fun e => wordsTouched e.1 e.2.1.length).dedup
  let st := r.1.send p 9 0 x.tenant r.2 (.cpydata x.target bytes bad x.bar (x.id * 4096 + x.cid) last) (some x.launch)
  let y := { x with legs := x.legs ++ [(r.2, bytes.length, ((bytes.head?).map Prod.fst).getD 0)] }
  if last then
    let w : Await := { id := st.stamp, peer := p, since := st.podTime, acc := none, red := none, copy := some x.id, line := none }
    ({ st with fab := { st.fab with awaits := st.fab.awaits ++ [w] } }, y)
  else (st, y)

/-- Ends a copy that cannot go on with element `next`: a remote one tells its target first, for the bytes under way (R233). -/
def State.stopCopy (st : State) (x : Copy) (why : Nat × Nat × Nat) : State :=
  let x := { x with own := some (x.own.getD why) }
  match x.xpkg with
  | some p => let r := st.sendGranule x p [] true; r.1.setCopy { r.2 with sent := true }
  | none => st.endCopy x

/-- Delivers the elements of a run that lie in one granule (R224, R228, R235, R372, R387); a failure has the address that the copy gives the
element (R232). -/
def State.deliverRun (st : State) (x : Copy) (l : List (Nat × List Byte × Bool)) : Ready :=
  let n := l.length
  let b := (l.map fun e => e.2.1.length).sum
  let pieces := l.map fun e => (e.1, e.2.1)
  let bad := (l.filter fun e => e.2.2).map fun e => (e.1, e.2.1.length)
  let k := st.core x.target
  match x.xpkg with
  | some p => let r := st.sendGranule x p l (x.total ≤ x.next + n); .go (r.1.advance r.2 n 0)
  | none =>
    if x.dst.space == 0 && k.failed then
      .go ((st.dropCopies fun y => y.id == x.id).failLaunch x.launch ⟨2, 0x28, 0, 0, 0, st.gid x.target⟩)
    else if x.dst.space == 0 && k.gated then .wait
    else if st.barGone x.barCore x.bar then .go (st.advance { x with own := some (x.own.getD (2, 0, x.dst.addr x.next)) } n 0)
    else if x.dst.space == 0 && x.heavy && !k.leases.any (fun y => y.uid == x.uid) then .go (st.advance x n b)
    else if x.dst.space != 0 then
      let st := (mergeRuns pieces).foldl (fun (st : State) p => st.putBytes x.cid p.1 p.2) st
      let st := bad.foldl (fun (st : State) p => if paSpace p.1 < 3 then st.sPoison p.1 p.2 else st) st
      .go ((st.countDelivery x.barCore x.bar b).advance x n b)
    else match pieces.find? fun p => k.leased x.uid p.1 p.2.length with
      | some p => .go (st.stopCopy x (1, 0x09, p.1))
      | none =>
        match pieces.find? fun p => k.tagged p.1 p.2.length with
        | some p => .go (st.stopCopy x (1, 0x0C, p.1))
        | none => .go (((st.deliverAll x.target pieces bad).countDelivery x.barCore x.bar b).advance x n b)

/-- Begins a copy from a tile: its version is pinned, or the copy ends with `NOVER` (R228, R233). -/
def State.beginTile (st : State) (x : Copy) : Option State :=
  match st.tileOf x.tenant x.src.base with
  | some t =>
    if t.pins.any fun p => p.2 == x.id then none
    else if (t.vers.find x.src.ver).isSome then some (st.modTile x.src.base fun t => { t with pins := t.pins ++ [(x.src.ver, x.id)] })
    else some (st.stopCopy x (3, 0, x.src.addr 0))
  | none => some (st.stopCopy x (3, 0, x.src.addr 0))

/-- Delivers the next granule of a copy (R228), or ends or stalls it. A granule goes whole (R134): where one of its elements has no translation yet or
lies on an absent page, none is delivered. The elements of one destination granule are read before any of them is written;
the manual does not say what a copy gives whose source and destination overlap (DESIGN CHOICE, log 106). -/
def State.copyStep (st : State) (x : Copy) : Ready :=
  match (if x.src.space == 2 && x.next == 0 then st.beginTile x else none) with
  | some st => .act st
  | none =>
    match st.copyRun x 16 x.next [] with
    | (_, some (.miss va k)) =>
      (match st.engineWalk ⟨x.cid, x.pid, va / 65536, k, x.sup⟩ x.tenant with
        | some st => .act st
        | none => .wait)
    | (_, some (.absent va k)) =>
      .go (((st.pageRequest (pageRecord x.pid k true (st.seqOf x.launch) va (st.gid x.cid))).toldEngine x.cid x.pid x.sup k [va]).setCopy
        { x with stalled := some va })
    | ([], some (.bad s f a)) => .go (((st.toldEngine x.cid x.pid x.sup .read [a]).toldEngine x.cid x.pid x.sup .write [a]).stopCopy x (s, f, a))
    | (l, _) =>
      let far := (if x.src.space == 1 then l.map Prod.fst else []) ++ (if x.dst.space == 1 then l.map Prod.snd else [])
      (State.readyLines (((st.byUid x.uid).map fun c => c.acqPod).getD 0) x.tenant (far.filter fun pa => paSpace pa < 2) st).andThen fun st =>
        let r := State.copyReads x l st
        r.1.deliverRun x r.2

/-- Must a copy wait for an earlier one of its queue: until that has delivered all, or, towards the same other package, whose flow keeps the
order, has sent all (R229, R346)? -/
def Copy.waitsFor (x y : Copy) : Bool :=
  y.id < x.id && y.sameQueue x && y.status.isNone && !(y.sent && y.xpkg == x.xpkg)

/-- `COPY_DELIVERY` (R228): the copy that the item names delivers its next granule, when no earlier copy of its queue holds it back
and the earlier commands that it overlaps are done (R187, R229). -/
def execCopyDelivery (st : State) : Out :=
  match st.copy st.item with
  | some x =>
    if x.status.isSome || x.stalled.isSome || x.sent || st.copies.any x.waitsFor ||
        !st.unordered x.cid x.claims then idle "COPY_DELIVERY"
    else (st.copyStep x).out "COPY_DELIVERY"
  | none => idle "COPY_DELIVERY"

/-! ## Completion records (R232, R234) -/

/-- The 32 bytes of a completion record (R232). -/
def copyRecord (x : Copy) (s : Nat × Nat × Nat) (now : Nat) : Nat :=
  x.tag % 2 ^ 16 + s.1 * 2 ^ 16 + s.2.1 * 2 ^ 24 + x.slot % 64 * 2 ^ 32 + x.got % 2 ^ 32 * 2 ^ 64 + s.2.2 % 2 ^ 64 * 2 ^ 128 +
    now % 2 ^ 64 * 2 ^ 192

/-- Ring slots of a core that are free. -/
def Core.freeRecs (k : Core) : List Nat := (List.range 256).filter fun n => !k.recs.any fun r => r.n == n

/-- Wakes a context whose `cpwait` is over, with the value of its register (R234, R280). -/
def State.wakeCopyWait (st : State) (u : Nat) : State :=
  match st.byUid u with
  | some c =>
    (match c.wait with
      | some (.copyRec d) =>
        (match (if st.waitedOut c then none else st.takeRecord c) with
          | some (st, v) => (st.setCtx (((c.setS d v).acquired (if v == 0 then 0 else 5) (st.stamp + 1)).wake st.stamp)).tickStamp.tickStamp
          | none => st)
      | _ => st)
  | none => st

/-- Takes a copy that is complete, with its record written or none to write, out of its queue (R210); its pin ends (R228, R335). -/
def State.retireCopy (st : State) (x : Copy) : State :=
  ({ st with copies := st.copies.filter fun y => y.id != x.id }.dropPins x.id).wakeCopyWait x.uid

/-- `COMPLETION_RECORD` (R232): the oldest copy of its queue has ended, and its record is written into a free slot of the ring; which
one is open (log 5). -/
def execCompletionRecord (st : State) : Out :=
  match st.copy st.item with
  | some x =>
    if st.copies.any fun y => y.id < x.id && y.sameQueue x then idle "COMPLETION_RECORD"
    else (match x.status with
      | none => idle "COMPLETION_RECORD"
      | some s =>
        if x.orphan || x.norec then .next (st.retireCopy x)
        else
          let free := (st.core x.cid).freeRecs
          match free[Config.pick st.frees % free.length]? with
          | none => idle "COMPLETION_RECORD"
          | some n =>
            let st := st.modCore x.cid fun k =>
              { k.write (Config.ringBase + 32 * n) (bytesOf 32 (copyRecord x s st.ns)) with recs := k.recs ++ [⟨n, x.uid⟩] }
            .next ({ st with frees := st.frees + 1 }.retireCopy x))
  | none => idle "COMPLETION_RECORD"

/-! ## Walks (R301, R304, R305) -/

/-- The words of the group at which a context stands: how many, and its target word. Where a word cannot be fetched, the words up to that
one count, and 0 stands for the target word, which nothing gives (DESIGN CHOICE, log 58 and 80: `XVAL` of a `WATCHDOG` or a `WAITTIME`
there). -/
def State.groupAt (st : State) (c : Ctx) : Nat × W32 :=
  match st.fetchGroup c 4 c.pc [] with
  | .words _ ws => (ws.length, ws.getLastD 0)
  | .miss va => (c.wordsTo va, 0)
  | .bad va => (c.wordsTo va, 0)
  | .poison _ va => (c.wordsTo va, 0)
  | .peer va _ => (c.wordsTo va, 0)

/-- The context of a waiter, if it still stands at the instruction that misses. -/
def State.waiting (st : State) (w : Waiter) : Option Ctx :=
  (st.byUid w.uid).filter fun c => c.issuedAt == w.since && c.st == .ready && st.translate c w.va w.kind == .miss

/-- What a failed walk does to one waiter: it parks on the page with a request, or faults `XLATE`, or `WATCHDOG` where that comes
first (R36, R44, R305). -/
def State.failWaiter (st : State) (absent : Bool) (w : Waiter) : State :=
  match st.waiting w with
  | none => st
  | some c =>
    let g := st.groupAt c
    if absent then
      (st.contextRequest c w.va w.kind).parkCtx (st.atYield c 4096 false) (.page (st.pidOf c) w.va) g.2 c.pc
    else if c.limit < c.used + g.1 && !freeWord g.2 then st.setCtx { c with due := some (.watchdog g.2) }
    else st.programFault c 0x0A 0 c.pc (BitVec.ofNat 64 w.va)

/-- Tells the engines that wait for a walk that it has failed (R305). -/
def State.failEngines (st : State) (l : List EngAsk) (absent : Bool) : State :=
  { st with engFaults := (st.engFaults.filter fun f => !l.contains f.1) ++ l.map fun a => (a, absent) }

/-- Does an entry complete the translation of one of those that wait for a walk (R304)? -/
def State.completes (st : State) (w : Walk) (e : XEntry) : Bool :=
  w.waiters.any (fun x => (st.useEntry e x.va x.kind x.sup).isSome) ||
    w.engines.any fun a => (st.useEntry e (a.page * 65536) a.kind a.sup).isSome

/-- `TRANSLATION_WALK` (R304): a walk ends. A translation that completes for one of its waiters is cached, and they execute their instruction
again; a fault is cached nowhere. A table in another package is read there first. -/
def execTranslationWalk (st : State) : Out :=
  match st.walks.find? fun w => w.id == st.item with
  | some w =>
    if st.walks.countP (fun x => x.station == w.station && x.id < w.id) < 256 then
      let r := st.walkNow w.pid w.tenant (w.vpage * 65536)
      let st := { r.1 with walks := r.1.walks.filter fun x => x.id != w.id }
      match r.2 with
      | .entry e =>
        if st.completes w e then .next (st.installEntry w.station e)
        else .next (w.waiters.foldl (fun s x => s.failWaiter false x) (st.failEngines w.engines false))
      | .notPresent => .next (w.waiters.foldl (fun s x => s.failWaiter true x) (st.failEngines w.engines true))
      | .xlate => .next (w.waiters.foldl (fun s x => s.failWaiter false x) (st.failEngines w.engines false))
      | .needs pa =>
        if st.lineAwaited (pa / 128) || st.writeBackUnderWay (some (pa / 128)) then idle "TRANSLATION_WALK"
        else .next ({ st with walks := r.1.walks }.requestLine (pa / 128) w.tenant)
    else idle "TRANSLATION_WALK"
  | none => idle "TRANSLATION_WALK"

/-! ## Node refills (R246) -/

/-- Ends the contexts that wait for a node of a net on a core: its arena is empty (R43, R246). -/
def State.failNodeWaits (st : State) (cid net : Nat) : State :=
  ((st.ctxs.map Prod.snd).filter fun c => c.start == cid && c.wait == some (.node net)).foldl (fun s c =>
    match s.byUid c.uid with
    | some c => s.programFault c 0x0F 0 c.parkPc (c.parkWord.zeroExtend 64)
    | none => s) st

/-- Has the free-node cache of a core nodes of another net for which a context, woken for them, has yet to execute its `nalloc` again? Then the
copy unit does not change the cache yet, so that a refill serves what waited for it (R44, R246). -/
def State.nodesOwed (st : State) (cid net : Nat) : Bool :=
  match (st.core cid).freeNodes with
  | some (n, l) => n != net && !l.isEmpty && st.ctxs.any fun p => p.2.start == cid && p.2.woken.contains (65536 + n)
  | none => false

/-- `NODE_REFILL` (R246): the copy unit serves the oldest request of a core. Nodes of another net go back to their arena first; then up to 32
nodes of the net's arena join the cache, and what waits for them is woken; an arena that is empty faults `ARENA` at the `nalloc`. -/
def execNodeRefill (st : State) : Out :=
  let cid := st.item
  let k := st.core cid
  match k.refill with
  | [] => idle "NODE_REFILL"
  | net :: rest =>
    if st.nodesOwed cid net then idle "NODE_REFILL"
    else
      let held := k.nodesOf net
      let st := match k.freeNodes with
        | some (n, l) => if n == net then st else st.modNet n fun x => { x with free := x.free ++ l }
        | none => st
      match (st.nets.find net).map fun x => x.take (min 32 (64 - held.length)) with
      | some (x, a) =>
        let st := { st with nets := st.nets.put net x }.modCore cid fun k => { k with freeNodes := some (net, held ++ a), refill := rest }
        if (held ++ a).isEmpty then .next (st.failNodeWaits cid net)
        else .next (st.wakeWhere (fun c => c.start == cid && c.wait == some (.node net)) id)
      | none => .next (st.modCore cid fun k => { k with refill := rest })

end Sys2Proof.Machine
end

