-- ==== Sys2Proof/Machine/Starts.lean ====
section
/-! DEFINITION. Contexts at their boundaries and the start unit: watchdog, wait limit, kills, selection, migration, spill, fill, task start,
the firing of pairs (R27 to R36, R45, R253, R254, R290, R295 to R297, R319 to R323, R399). -/

namespace Sys2Proof.Machine

/-! ## Boundaries (R30, R36, R45, R399) -/

/-- `WATCHDOG` (R36): the fault that the context with the item's key has due is taken. -/
def execWatchdog (st : State) : Out :=
  match st.ctx st.item with
  | some c =>
    (match c.due with
      | some (.watchdog _) => .next (st.takeDue c)
      | _ => idle "WATCHDOG")
  | none => idle "WATCHDOG"

/-- `WAITTIME` (R30): a parked wait that has lasted more than `WAITLIM` cycles faults at the instruction that parked. -/
def execWaittime (st : State) : Out :=
  match st.ctx st.item with
  | some c =>
    if st.inWait c && st.waitedOut c then
      .next (st.programFault c 0x11 0 c.parkPc (c.parkWord.zeroExtend 64))
    else idle "WAITTIME"
  | none => idle "WAITTIME"

/-- `KILL` (R45): a kill reaches the context that the item names by its identifier. -/
def execKill (st : State) : Out :=
  if !st.kills.contains st.item then idle "KILL"
  else match st.byUid st.item with
    | some c => .next (st.killCtx c)
    | none => .next { st with kills := NatSet.del st.kills st.item }

/-- `CURRENT_CONTEXT_SELECT` (R399): a core without a current context takes one. -/
def execCurrentContextSelect (st : State) : Out :=
  match st.select st.item with
  | some st => .next st
  | none => idle "CURRENT_CONTEXT_SELECT"

/-! ## Migration (R295 to R297) -/

/-- Moves a marked context to its remembered home if every condition still holds; else the mark lapses (R296). It lapses also where nothing but
granules of that core is lacking, a case in which R296 names no lapse (DESIGN CHOICE, log 107). -/
def State.tryMigrate (st : State) (c : Ctx) : State :=
  match st.migrates c, c.predH with
  | true, some h =>
    (st.uncurrent c).setCtx { c with st := .ready, cur := h, migr := h != c.start, predC := 0, predH := none, migMark := false, readyAt := st.stamp }
  | _, _ => st.setCtx { c with migMark := false }

/-- `MIGRATION` (R296): a marked context that is `READY` at its yield point is tested again, and moves if every condition holds. -/
def execMigration (st : State) : Out :=
  match st.ctx st.item with
  | some c => if c.migMark && st.isReady c && c.used == 0 then .next (st.tryMigrate c).tickStamp else idle "MIGRATION"
  | none => idle "MIGRATION"

/-! ## Granules, spills, slots, leases (R27, R289, R321, R322) -/

/-- May granules be taken for a start, with what is free now (R321)? -/
def State.granulesOk (st : State) (cid n : Nat) (budgeted : Bool) : Bool :=
  if budgeted then decide (n ≤ st.freeGranules cid) else st.granulesAdmit cid n

/-- May a spilled context take its granules back with what is free now (R321)? A fill is admitted under the reserve, also one of a context of a
budgeted channel, whose granules then count among those that such tasks hold (DEDUCED, log 95). -/
def State.fillOk (st : State) (cid : Nat) (c : Ctx) : Bool :=
  let n := footGranules c.foot
  let own := if !c.port && st.budgeted c.chan then n else 0
  decide (n ≤ st.freeGranules cid) && decide (st.reserve ≤ st.freeGranules cid - n + st.budgetHeld cid + own)

/-- The context that a core spills next: the longest parked of those that may be spilled (R322). One that waits its turn behind an older waiter is
still parked (R133; log 97). -/
def State.victim (st : State) (cid : Nat) : Option Ctx :=
  firstBy (fun c => c.parkCycle) ((st.resident cid).filter fun c =>
    c.st == .parked && !st.inTurn c && !st.pinned c && !st.usesMatrix c)

/-- Spills victims until granules can be had, or none when that is not reached (R321, R322; DEDUCED, log 41). -/
def State.spillFor (cid : Nat) (ok : State → Bool) : Nat → State → Option State
  | 0, st => if ok st then some st else none
  | f + 1, st =>
    if ok st then some st
    else match st.victim cid with
      | some c => State.spillFor cid ok f ((st.uncurrent c).setCtx { c with st := .spilled })
      | none => none

/-- The state in which granules have been made free for a start, if they can be had. -/
def State.roomFor (st : State) (cid n : Nat) (budgeted : Bool) : Option State :=
  State.spillFor cid (fun s => s.granulesOk cid n budgeted) 64 st

/-- The state in which granules have been made free for a fill, if they can be had. -/
def State.fillRoom (st : State) (cid : Nat) (c : Ctx) : Option State := State.spillFor cid (fun s => s.fillOk cid c) 64 st

/-- The lowest free context slot of a core (R27). -/
def State.freeSlot (st : State) (cid : Nat) : Option Nat := (List.range 64).find? fun n => (st.ctx (64 * cid + n)).isNone

/-- The lowest place in the lease pool of a core for `n` bytes, among held leases in rising order (R39, R289). -/
def placeLease (n : Nat) : List Lease → Nat → Option Nat
  | [], pos => if pos + n ≤ Config.ringBase then some pos else none
  | l :: ls, pos => if pos + n ≤ l.base then some pos else placeLease n ls (max pos (l.base + l.size))

/-- The base of a new lease of `n` bytes (R39, R289). -/
def Core.leaseAt (k : Core) (n : Nat) : Option Nat := placeLease n (sortBy (fun l => l.base) k.leases) (256 * k.poolBase)

/-- The largest free extent of a core's lease pool (R318). -/
def freeExtent : List Lease → Nat → Nat
  | [], pos => Config.ringBase - pos
  | l :: ls, pos => max (l.base - pos) (freeExtent ls (max pos (l.base + l.size)))

/-- The largest free extent of a core's lease pool. -/
def Core.extent (k : Core) : Nat := freeExtent (sortBy (fun l => l.base) k.leases) (256 * k.poolBase)

/-! ## Channels (R315) -/

/-- The attributes of channel 15 over the installed nets (R315). -/
def State.bagAttr (st : State) : ChanAttr :=
  let l := st.nets.filterMap fun p => p.2.chans[15]?
  let b := (l.map fun a => a.budget).filter fun x => x != 0
  { handler := 0, prio := (l.map fun a => a.prio).foldl max 0, budget := (b.foldl (fun m x => match m with
      | some y => some (min x y)
      | none => some x) (none : Option Nat)).getD 0, limit := (l.map fun a => a.limit).foldl max 0, foot := 2, sup := false }

/-- The attributes of a channel on every core. -/
def State.attrOf (st : State) (s : Nat) : Option ChanAttr :=
  if s == 15 then (if st.nets.isEmpty then none else some st.bagAttr) else (st.channel s).map Prod.snd

/-! ## The item of a source (R253, R319) -/

/-- What the start of a source's oldest item needs. -/
structure Need where
  tenant : Nat
  foot : Option Nat      -- none needs no context: the pair has no rule
  lease : Nat
deriving DecidableEq, Repr

/-- The index and entry of a rule for two types (R251, R253). -/
def Net.ruleFor (n : Net) (a b : Nat) : Option (Nat × Rule) :=
  (((n.table.getD []).zipIdx).find? fun p => (p.1.typeA == a && p.1.typeB == b) || (p.1.typeA == b && p.1.typeB == a)).map fun p =>
    (p.2, p.1)

/-- A pair with its nodes' physical addresses and its rule (R253). -/
structure Firable where
  lo : Nat
  hi : Nat
  rule : Option (Nat × Rule)
deriving DecidableEq, Repr

/-- Looks a pair's rule up; none when one of its nodes is not mapped (DEDUCED, log 34). -/
def State.firable (st : State) (p : Pair) : Option Firable :=
  match st.nodePa p.launch p.lo, st.nodePa p.launch p.hi with
  | some a, some b =>
    some ⟨a, b, (st.nets.find p.net).bind fun n => n.ruleFor (hdrType (st.nodeWord a)) (hdrType (st.nodeWord b))⟩
  | _, _ => none

/-- The lease of a heavy rule in bytes (R251, R254). -/
def ruleLease (r : Rule) (n : Option Net) : Nat := 256 * (if r.lease == 0 then (n.map fun x => x.defLease).getD 0 else r.lease)

/-- The oldest item of the launch port's priority (R319). -/
def Core.portItem (k : Core) : Option Task := (greatestBy (fun t => t.prio) k.lport)

/-- What the oldest item of a source needs; none without an item. -/
def State.need (st : State) (cid s : Nat) : Option Need :=
  let k := st.core cid
  if s == 16 then k.portItem.map fun t => ⟨t.tenant, some t.foot, t.lease⟩
  else if s == 15 then
    k.bag.head?.map fun p =>
      let tenant := ((st.launches.find p.launch).map fun (l : Launch) => l.tenant).getD 0
      match (st.firable p).bind fun f => f.rule with
      | some r => ⟨tenant, some r.2.foot, if r.2.heavy then ruleLease r.2 (st.nets.find p.net) else 0⟩
      | none => ⟨tenant, none, 0⟩
  else ((k.chans.getD s []).head?).bind fun m => (st.attrOf s).map fun a => ⟨m.tenant, some a.foot, 0⟩

/-- Live tasks that a source started on a core (R319). -/
def State.liveOf (st : State) (cid s : Nat) : Nat :=
  if s == 16 then 0 else (st.ctxs.filter fun p => p.2.start == cid && !p.2.port && p.2.chan == s).length

/-- May a tenant's task start beside the live tasks of a core (R290)? -/
def State.mayShare (st : State) (cid t : Nat) : Bool :=
  st.ctxs.all fun p => p.2.start != cid || p.2.tenant == t || (!(st.tenant t).lmiso && !(st.tenant p.2.tenant).lmiso)

/-- Does a source's channel carry a budget? -/
def State.hasBudget (st : State) (s : Nat) : Bool := s != 16 && (st.attrOf s).any fun a => a.budget != 0

/-- Is a source eligible (R319)? -/
def State.eligible (st : State) (cid s : Nat) : Bool :=
  match st.need cid s with
  | some n =>
    (s == 16 || (st.attrOf s).any fun a => st.liveOf cid s < a.limit) && st.mayShare cid n.tenant &&
      (match n.foot with
        | some f =>
          (st.freeSlot cid).isSome && (n.lease == 0 || ((st.core cid).leaseAt n.lease).isSome) &&
            (st.roomFor cid (footGranules f) (st.hasBudget s)).isSome
        | none => true)
  | none => false

/-- The cycle in which the oldest item of a source entered its queue. -/
def Core.oldest (k : Core) (s : Nat) : Nat :=
  if s == 15 then (k.bag.head?.map fun p => p.entered).getD 0
  else (((k.chans.getD s []).head?).map fun (m : Msg) => m.entered).getD 0

/-- By how much an eligible channel with a budget is overdue (R319). -/
def State.overdue (st : State) (cid s : Nat) : Option Nat :=
  match st.attrOf s with
  | some a =>
    let w := st.cyclesOf cid - (st.core cid).oldest s
    if s != 16 && a.budget != 0 && a.budget < w && st.eligible cid s then some (w - a.budget) else none
  | none => none

/-- The priority of a source (R319). -/
def State.prioOf (st : State) (cid s : Nat) : Nat :=
  if s == 16 then ((st.core cid).portItem.map fun t => t.prio).getD 0 else ((st.attrOf s).map fun a => a.prio).getD 0

/-- What the start unit chooses. -/
inductive Pick where
  | source (s : Nat) (turn : Option Nat)   -- `turn`: the priority whose rotation moves on
  | fill (key : Nat)
deriving DecidableEq, Repr

/-- The oldest fill-ready context of a core whose granules can be had (R319, R323): its wait is satisfied, within `WAITLIM`, and its turn has come
(R30, R133; log 97). -/
def State.fillReady (st : State) (cid : Nat) : Option Ctx :=
  firstBy (fun c => c.readyAt) ((st.ctxs.map Prod.snd).filter fun c =>
    c.start == cid && c.st == .spilled && c.wait == none && !st.waitedOut c && !st.outOfTurn c && (st.fillRoom cid c).isSome)

/-- `SelectStart` (R319). A start that waited for a clear comes first (R290). -/
def State.selectStart (st : State) (cid : Nat) : Option Pick :=
  let k := st.core cid
  match k.clearing.filter fun s => st.eligible cid s with
  | some s => some (.source s none)
  | none =>
    let late := (List.range 16).filterMap fun s => (st.overdue cid s).map fun w => (s, w)
    match greatestBy Prod.snd late with
    | some x => some (.source x.1 none)
    | none =>
      match st.fillReady cid with
      | some c => some (.fill c.key)
      | none =>
        let el := (List.range 17).filter fun s => st.eligible cid s
        if el.isEmpty then none
        else
          let p := (el.map fun s => st.prioOf cid s).foldl max 0
          let last := (k.rr[p]?).getD 16
          (((List.range 17).map fun i => (last + 1 + i) % 17).find? fun s => el.contains s && st.prioOf cid s == p).map fun s =>
            .source s (some p)

/-- May a core's start unit begin something now (R290, R319, R387)? -/
def State.unitFree (st : State) (cid : Nat) : Bool :=
  let k := st.core cid
  !k.gated && !k.failed && !(st.cluster (clusterOf cid)).failed && decide (k.unitAt ≤ st.cyclesOf cid)

/-- The start unit is taken for some cycles. -/
def State.holdUnit (st : State) (cid n : Nat) : State := st.modCore cid fun k => { k with unitAt := st.cyclesOf cid + n, idleSince := none }

/-- `FILL` (R319, R323): the context chosen is restored on its start core and becomes `READY`, also one that had migrated. R297 lets such a
context return only by migrating again, which would leave it nowhere to be filled; the model follows R323, and `MIGR` then reads 0 (DESIGN
CHOICE, log 108). -/
def execFill (st : State) : Out :=
  let cid := st.item
  match (if st.unitFree cid then st.selectStart cid else none) with
  | some (.fill key) =>
    (match st.ctx key with
      | some c =>
        (match st.fillRoom cid c with
          | some st =>
            .next ((st.setCtx { c with st := .ready, cur := c.start, migr := false, readyAt := st.stamp }).holdUnit cid 4).tickStamp
          | none => idle "FILL")
      | none => idle "FILL")
  | _ => idle "FILL"

/-! ## Task start (R16, R22, R25, R27, R33, R319) -/

/-- What a task starts with. -/
structure Start where
  foot : Nat
  heavy : Bool
  sup : Bool
  backup : Bool
  chan : Nat
  prio : Nat
  pairClass : Bool
  mseq : Nat
  tclass : Nat
  lease : Nat
  launch : Nat
  net : Nat
  tenant : Nat
  firing : Option Nat
  vals : List W64
  handler : Nat
  port : Bool

/-- A context at task start (R16, R24, R25, R33). An address has 57 bits: those of an `hspawn`'s handler beyond them are cut off (DESIGN
CHOICE, log 115). -/
def Ctx.fresh (uid cid slot time stamp xhand base : Nat) (x : Start) : Ctx :=
  { uid := uid, start := cid, slot := slot, cur := cid, foot := x.foot, heavy := x.heavy, sup := x.sup, backup := x.backup, migr := false,
    chan := x.chan, prio := x.prio, pairClass := x.pairClass, mseq := x.mseq, tclass := x.tclass, leaseBase := base, leaseSize := x.lease,
    leaseV := x.heavy, launch := x.launch, net := x.net, tenant := x.tenant, firing := x.firing, startVals := x.vals.take 4,
    startTime := time, port := x.port, pc := BitVec.ofNat 57 x.handler,
    s := Vector.ofFn fun i => if i.val == 0 || 6 < i.val then 0 else (x.vals[i.val - 1]?).getD 0,
    v := Vector.replicate 32 ⟨0, 0⟩, k := Vector.replicate 8 0, o := Vector.replicate 8 0, m := Vector.replicate 16 0,
    q := Vector.replicate 4 0, slots := [], xpc := 0, xcause := 0, xval := 0, intrap := false, psup := false,
    xhand := BitVec.ofNat 64 xhand, rwc := 0, limit := 4096, used := 0, waitlim := 2 ^ 24, fpflags := 0, fmttrap := 0, binds := [],
    obls := Vector.replicate 4 none, reserved := 0, predC := 0, predH := none, migMark := false, acqStamp := stamp, acqPod := stamp,
    st := .ready, wait := none, parkCycle := 0, place := none, woken := [], readyAt := stamp, issuedAt := stamp, held := false, pend := none, due := none,
    parkPc := 0, parkWord := 0, csrOld := none }

/-- Starts a task on a core that has a slot for it (R27, R38, R319, R328, R397); a task of a launch that has ended does not start (R43, R47). -/
def State.startTask (st : State) (cid : Nat) (x : Start) : State :=
  match (st.freeSlot cid).filter fun _ => st.running x.launch with
  | none => st
  | some n =>
    let uid := st.stamp
    let base := if x.heavy then ((st.core cid).leaseAt x.lease).getD 0 else 0
    let xhand := ((st.nets.find x.net).map fun y => y.xhand).getD 0
    let c := Ctx.fresh uid cid n st.time (uid + 1) xhand base x
    let st := st.modCore cid fun k =>
      { k with lastTenant := some x.tenant, leases := if x.heavy then k.leases ++ [⟨base, x.lease, uid, x.launch⟩] else k.leases }
    let st := match x.firing with
      | some f => st.modFiring f fun y => { y with live := y.live ++ [uid], waiting := if x.backup then y.waiting else y.waiting - 1 }
      | none => st
    { (st.setCtx c).modLaunch x.launch fun l => { l with layers := NatSet.add l.layers (layerOf cid) } with stamp := uid + 2 }

/-! ## Pairs (R253, R254) -/

/-- The claim of a pair of nodes: flags and principal ports (R254). -/
def State.claimPair (st : State) (a apa b bpa : Nat) : State :=
  let set := fun h => hdrFlag (hdrFlag h 18 true) 19 true
  ((((st.nodeMod apa set).nodeMod bpa set).nodeWrite (apa + 8) (b + 8 + 3)).nodeWrite (bpa + 8) (a + 8 + 3))

/-- Pins the version that a node's payload names when its `PFMT` is 1 (R237, R254). -/
def State.pinPayload (st : State) (f tenant pa : Nat) : State :=
  if hdrPfmt (st.nodeWord pa) == 1 then st.pinVersion f tenant (st.nodeWord (pa + 40)) (st.nodeWord (pa + 48) % 2 ^ 32) else st

/-- Fires the oldest pair of a core's bag (R33, R34, R253, R254). -/
def State.firePair (st : State) (cid : Nat) (p : Pair) : State :=
  let st := st.modCore cid fun k => { k with bag := k.bag.tail }
  match st.launches.find p.launch with
  | none => st
  | some l =>
    match st.firable p with
    | none => st.failLaunch p.launch ⟨1, 0x0A, 0, 0, p.lo, st.gid cid⟩
    | some f =>
      match f.rule with
      | none => st.failLaunch p.launch ⟨1, 0x01, 2, 0, p.lo, st.gid cid⟩
      | some (i, r) =>
        let ta := hdrType (st.nodeWord f.lo)
        let swap := ta != r.typeA
        let left := if swap then (p.hi, f.hi) else (p.lo, f.lo)
        let right := if swap then (p.lo, f.lo) else (p.hi, f.hi)
        let st := (st.nodeMod f.lo fun h => hdrFlag h 20 false).nodeMod f.hi fun h => hdrFlag h 20 false
        let st := (st.ownNode p.launch p.net p.lo).ownNode p.launch p.net p.hi
        let word := i % 2 ^ 16 + b2n r.heavy * 2 ^ 16 + r.tclass * 2 ^ 17 + b2n swap * 2 ^ 23 + r.cost * 2 ^ 24
        let vals : List W64 := [left.1, right.1, word, p.net].map (BitVec.ofNat 64)
        let a := st.bagAttr
        let lease := if r.heavy then ruleLease r (st.nets.find p.net) else 0
        let x : Start :=
          { foot := r.foot, heavy := r.heavy, sup := false, backup := false, chan := 15, prio := a.prio, pairClass := true, mseq := 0,
            tclass := if r.heavy then r.tclass else 0, lease := lease, launch := p.launch, net := p.net, tenant := l.tenant, firing := none,
            vals := vals, handler := r.handler, port := false }
        if r.heavy then
          let n := st.stamp
          let fr := Firing.fresh p.launch p.net l.tenant r.handler l.prio r.tclass r.foot lease vals (some (left.2, right.2))
          let st := { st with firings := st.firings.put n fr, stamp := n + 1 }
          let st := st.claimPair left.1 left.2 right.1 right.2
          let st := (st.pinPayload n l.tenant left.2).pinPayload n l.tenant right.2
          st.startTask cid { x with firing := some n }
        else st.startTask cid x

/-! ## `START_TASK` (R319) -/

/-- Starts the oldest item of a source. In a task that the launch port starts the manual gives `CHAN` no value: `PRIO` shows the item's priority
and `CLASS` 0, a DESIGN CHOICE, and `NUM` and `MSEQ` are free values (log 42). -/
def State.startFrom (st : State) (cid s : Nat) : State :=
  let k := st.core cid
  if s == 15 then
    match k.bag with
    | p :: _ => st.firePair cid p
    | [] => st
  else if s == 16 then
    match k.portItem with
    | some t =>
      let st := st.modCore cid fun k => { k with lport := k.lport.filter fun y => y.id != t.id }
      let f := st.frees
      { st with frees := f + 2 }.startTask cid
        { foot := t.foot, heavy := t.heavy, sup := false, backup := t.kind == TaskKind.backup, chan := Config.pick f % 16, prio := t.prio,
          pairClass := false, mseq := Config.pick (f + 1) % 2 ^ 32, tclass := t.tclass, lease := t.lease, launch := t.launch, net := t.net,
          tenant := t.tenant, firing := t.firing, vals := t.vals, handler := t.handler, port := true }
    | none => st
  else
    match k.chans.getD s [], st.attrOf s with
    | m :: l, some a =>
      let st := st.modCore cid fun k => { k with chans := k.chans.put s l }
      st.startTask cid
        { foot := a.foot, heavy := false, sup := a.sup, backup := false, chan := s, prio := a.prio, pairClass := false, mseq := m.mseq, tclass := 0,
          lease := 0, launch := m.launch, net := m.net, tenant := m.tenant, firing := none, vals := fourWords m.bytes, handler := a.handler,
          port := false }
    | _, _ => st

/-- Cycles of the clear of the region below the pool (R290). -/
def Core.clearCycles (k : Core) : Nat := (k.poolBase * 256 + 2047) / 2048

/-- Does a start for a tenant need the region cleared first (R290)? -/
def State.mustClear (st : State) (cid tenant : Nat) : Bool :=
  match (st.core cid).lastTenant with
  | some t => t != tenant && st.ctxs.all fun p => p.2.start != cid || p.2.tenant != t
  | none => false

/-- Carries out the start that was chosen, or the clear that it needs first (R290, R319). -/
def State.startOrClear (st : State) (cid s : Nat) (turn : Option Nat) (n : Need) : State :=
  let st := match turn with
    | some p => st.modCore cid fun k => { k with rr := k.rr.setIfInBounds p s }
    | none => st
  if n.foot.isSome && st.mustClear cid n.tenant then
    let k := st.core cid
    ((st.modCore cid fun k => { k.clear 0 (256 * k.poolBase) with lastTenant := some n.tenant, clearing := some s }).wakeGranules
      cid).holdUnit cid k.clearCycles
  else
    let st := (st.modCore cid fun k => { k with clearing := none }).holdUnit cid 4
    match n.foot with
    | some f =>
      (match st.roomFor cid (footGranules f) (st.hasBudget s) with
        | some st => st.startFrom cid s
        | none => st)
    | none => st.startFrom cid s

/-- `START_TASK` (R319): the start unit of the item's core starts a task from the source that it chooses. -/
def execStartTask (st : State) : Out :=
  let cid := st.item
  match (if st.unitFree cid then st.selectStart cid else none) with
  | some (.source s turn) =>
    (match st.need cid s with
      | some n => .next (st.startOrClear cid s turn n)
      | none => idle "START_TASK")
  | _ => idle "START_TASK"

end Sys2Proof.Machine
end

