-- ==== Sys2Proof/Machine/Sync.lean ====
section
/-! DEFINITION. Full/empty instructions and delivery barriers (R214 to R223). -/

namespace Sys2Proof.Machine

/-! ## Full/empty (R214) -/

/-- The checks of R214, in its order, and the granule. -/
def withGranule (c : Ctx) (a : R5) (go : Nat → Eff) : Eff :=
  let x := (c.rs a).toNat
  checked [(decide (0x7FFFF < x), 0x06, none), (c.heavy && !c.owns (x / 16 * 16) 16, 0x08, none)] (go (x / 16))

/-- Makes the granule full or empty; held while a matrix command has still to read it (R187, R214). -/
def markGranule (i : Instr) (e : List Ext) (a : R5) (full : Bool) : State → Out :=
  issue e (wordOf i) (blocks [a.toNat] []) fun st c =>
    withGranule c a fun g => localAccess st c
      (if st.matrixReads c.start [(16 * g, 16)] then .held st c else .done (st.setGranules c.start [g] full) c)

def execFeset (e : List Ext) (a : R5) (st : State) : Out := markGranule (.feset e a) e a true st
def execFeclr (e : List Ext) (a : R5) (st : State) : Out := markGranule (.feclr e a) e a false st

/-- `fewait`: an explicit yield point (R214). -/
def execFewait (e : List Ext) (a : R5) (st : State) : Out :=
  issueFree e (wordOf (.fewait e a)) (blocks [a.toNat] []) (fun st c =>
    withGranule c a fun g => afterAcquires st c
      (.yielded st c 4096 (if (st.core c.start).granulesAre [g] true then none else some (.fewait g)) false)) st

/-! ## Barriers (R217 to R223) -/

/-- The checks of every barrier form (R217): `far` names the target core of a remote arrival; the word must be tagged unless `init`. -/
def withBarrier (st : State) (c : Ctx) (a : R5) (far : Option W64) (init : Bool) (go : Nat → Eff) : Eff :=
  let x := (c.rs a).toNat
  let here := match far with
    | some t => t.toNat == c.start
    | none => true
  checked [(c.heavy && !(here && c.owns x 8), 0x08, none), (far.any noUnit, 0x07, none), (x % 8 != 0, 0x05, none),
      (decide (0x7FFF8 < x), 0x06, none), (init && (st.core c.start).guarded c.uid x 8, 0x09, none),
      (here && !init && ((st.core c.start).tags.find (x / 8)).isNone, 0x0C, none)] (go x)

/-- Does a context hold an obligation on a word of a core (R218, R219)? -/
def State.obliged (st : State) (cid a : Nat) : Bool := st.ctxs.any fun p => p.2.start == cid && p.2.obls.toList.contains (some a)

/-- A fresh barrier word with a target (R218). -/
def barInit (target : Nat) : Nat := target * 2 ^ 3 + target * 2 ^ 19

/-- Sets a barrier word and its tag; waiters whose phase has passed wake (R218, R222). -/
def State.initBarrier (st : State) (cid a launch target : Nat) : State :=
  (st.modCore cid fun k => { k.write a (bytesOf 8 (barInit target)) with tags := k.tags.put (a / 8) launch }).barWrite cid a
    (barInit target)

/-- Retires a barrier: the tag is cleared and the word zero (R218). The manual does not say what becomes of contexts that are parked by a `bwait` on
it: they stay parked, under `WAITLIM`, a DESIGN CHOICE (log 60). -/
def Core.retireBarrier (k : Core) (a : Nat) : Core :=
  { k.write a (bytesOf 8 0) with tags := k.tags.del (a / 8) }

/-- `binit` (R218). -/
def execBinit (e : List Ext) (a b : R5) (st : State) : Out :=
  issue e (wordOf (.binit e a b)) (blocks [a.toNat, b.toNat] []) (fun st c =>
    withBarrier st c a none true fun x =>
      let v := c.rs b
      let retire := v.getLsbD 63
      let tagged := ((st.core c.start).tags.find (x / 8)).isSome
      checked [((tagged && st.obliged c.start x) || (retire && !tagged), 0x0C, none)]
        (if bits v.toNat 16 47 != 0 then .fault 0x01 5 none
         else if st.acquirePending c.uid || st.matrixReads c.start [(x, 8)] then .held st c
         else atBank (.done (if retire then st.modCore c.start fun k => k.retireBarrier x
           else st.initBarrier c.start x c.launch (bits v.toNat 0 16)) c))) st

/-- `benrol` (R219). -/
def execBenrol (e : List Ext) (a : R5) (n : BitVec 2) (st : State) : Out :=
  issue e (wordOf (.benrol e a n)) (blocks [a.toNat] []) (fun st c =>
    withBarrier st c a none false fun x => atBank (.done st { c with obls := c.obls.setIfInBounds n.toNat (some x) })) st

/-- The slots whose obligation an arrival of the context on a word discharges (R219). -/
def Ctx.discharge (c : Ctx) (a : Nat) : Ctx := { c with obls := c.obls.map fun o => if o == some a then none else o }

/-- `barrive` (R220): a release at its scope, then the arrival. -/
def execBarrive (e : List Ext) (a b : R5) (s : BitVec 3) (st : State) : Out :=
  issue e (wordOf (.barrive e a b s)) (blocks [a.toNat, b.toNat] []) (fun st c =>
    let far := if b == 0 then none else some (c.rs b)
    withBarrier st c a far false fun x =>
      withFence st c s.toNat false fun st c =>
        let t := match far with
          | some t => t.toNat
          | none => c.start
        if t == c.start then atBank (.done (st.barWrite t x (barArrive (st.barWord t x) false)) (c.discharge x))
        else sendRemote st c (groupWords e)
          { id := 0, uid := c.uid, key := c.key, cid := t, addr := x, size := 8, kind := 2, val := 0, sx := false, d := 0,
            words := groupWords e, xval := wordOf (.barrive e a b s) }) st

/-- `bexpect` (R221). -/
def execBexpect (e : List Ext) (a b : R5) (st : State) : Out :=
  issue e (wordOf (.bexpect e a b)) (blocks [a.toNat, b.toNat] []) (fun st c =>
    withBarrier st c a none false fun x => localAccess st c <|
      let n := (c.rs b).toNat
      let w := st.barWord c.start x
      if n == 0 then .done st c
      else if 2 ^ 24 - 1 < barPend w + n then .faulted (st.barWrite c.start x (putBits w 1 2 3)) 0x0D 0 none
      else .done (st.barWrite c.start x (barFlip (barSetPend w (barPend w + n)))) c) st

/-- `bwait` (R222): an explicit yield point. -/
def execBwait (e : List Ext) (d a : R5) (s : BitVec 3) (st : State) : Out :=
  issueFree e (wordOf (.bwait e d a s)) (blocks [d.toNat, a.toNat] []) (fun st c =>
    withBarrier st c a none false fun x =>
      if st.mustFollow c.uid then .held st c
      else
        let w := st.barWord c.start x
        let phase := (c.rs d).getLsbD 0
        if barMet w phase then
          let c := (c.wr d (BitVec.ofNat 64 (w % 4))).acquired s.toNat (st.stamp + 1)
          .yielded ((st.dropPeers s.toNat).tickStamp)
            (if bit w 1 then { c with due := some (.broken (BitVec.ofNat 64 x)), parkPc := c.pc } else c) 4096 none false
        else .yielded st c 4096 (some (.barrier x phase d.toNat s.toNat)) false) st

/-- `btest` (R223). -/
def execBtest (e : List Ext) (d a : R5) (s : BitVec 3) (st : State) : Out :=
  issue e (wordOf (.btest e d a s)) (blocks [d.toNat, a.toNat] []) (fun st c =>
    withBarrier st c a none false fun x =>
      if st.mustFollow c.uid then .held st c
      else atBank (.done ((st.dropPeers s.toNat).tickStamp)
        ((c.wr d (BitVec.ofNat 64 (st.barWord c.start x))).acquired s.toNat (st.stamp + 1)))) st

end Sys2Proof.Machine
end

