-- ==== Sys2Proof/Machine/Jobs.lean ====
section
/-! DEFINITION. Work of a launch on its way: pairs and barges, reports, placement, work counters, messages, the end of a launch and its
record (R47, R257, R263, R290, R311 to R313, R317, R318, R324 to R328, R338, R400). -/

namespace Sys2Proof.Machine

/-! ## Pairs (R324, R325) -/

/-- Takes the pushes that wait at a core's network interface into its bag or ring, as far as they find room (R324). -/
def State.admitPushes (st : State) (cid : Nat) : State :=
  let mine := st.pushes.filter fun p => p.1 == cid
  mine.foldl (fun (s : State) p => s.enterPair cid p.2) { st with pushes := st.pushes.filter fun p => p.1 != cid }

/-- Can a push that waits at a core be entered? -/
def State.pushable (st : State) (cid : Nat) : Bool :=
  let k := st.core cid
  (st.pushes.any fun p => p.1 == cid) && !k.gated && (k.failed || k.bag.length < 256 || k.ring.length < 65536)

/-- `RING_TO_BAG` (R324): up to 64 pairs move from the ring head into the bag; pushes that wait follow as room appears. -/
def execRingToBag (st : State) : Out :=
  let cid := st.item
  let k := st.core cid
  if k.bag.length < 128 && !k.ring.isEmpty then
    .next ((st.modCore cid fun k => { k with bag := k.bag ++ k.ring.take 64, ring := k.ring.drop 64 }).admitPushes cid)
  else if st.pushable cid then .next (st.admitPushes cid)
  else idle "RING_TO_BAG"

/-- What a core reports (R318). -/
def State.reportOf (st : State) (cid : Nat) : Report :=
  let k := st.core cid
  ⟨st.freeGranules cid, k.extent, k.bag.length, k.ring.length⟩

/-- What the distributor last heard of a core; before its first report, what holds at reset (R318). -/
def State.heard (st : State) (cid : Nat) : Report :=
  match (st.core cid).report with
  | some r => r
  | none => { free := 512, extent := (st.core cid).extent, bag := 0, ring := 0 }

/-- Does a report show granules for a footprint under R321? What budgeted tasks hold, and whether the core has failed, is no part of R318's
report: the present values count (DESIGN CHOICE, log 117). -/
def State.heardRoom (st : State) (cid foot : Nat) : Bool :=
  let f := (st.heard cid).free
  !(st.core cid).failed && decide (footGranules foot ≤ f) && decide (st.reserve ≤ f - footGranules foot + st.budgetHeld cid)

/-- The receiver of a donor's barge (R325). -/
def State.receiver (st : State) (d : Nat) : Option Nat :=
  leastBy (travel d) ((layerCores (d / 512 * 2) ++ layerCores (d / 512 * 2 + 1)).filter fun c =>
    c != d && (st.heard c).bag ≤ 16 && st.heardRoom c 2)

/-- Sends one barge from a donor: up to 16 pairs from the newest end of its bag (R325, R326). -/
def State.sendBarge (st : State) (d : Nat) : State :=
  match st.receiver d with
  | none => st
  | some r =>
    let bag := (st.core d).bag
    let n := bag.length - 16
    let pairs := bag.drop n
    let st := st.modCore d fun k => { k with bag := k.bag.take n }
    let st := if layerOf d == layerOf r then st else pairs.foldl (fun (s : State) p => s.countSent (layerOf d) p.launch) st
    let b : Barge := { id := st.stamp, pairs := pairs, dst := r, srcLayer := layerOf d }
    if pairs.isEmpty then st else { st with barges := st.barges ++ [b] }.tickStamp

/-- `LAYER_REPORT` (R318): every 256 cycles a layer reports its cores, and the distributor orders its donors to send barges (R325). -/
def execLayerReport (st : State) : Out :=
  let l := st.item
  let y := st.layer l
  if 16 ≤ l || y.failed || y.cycles / 256 ≤ y.reports then idle "LAYER_REPORT"
  else
    let st := { st with cores := st.cores.map fun (p : Nat × Core) => (p.1, if layerOf p.1 == l then { p.2 with report := some (st.reportOf p.1) } else p.2) }
    let st := st.modLayer l fun y => { y with reports := y.cycles / 256 }
    let donors := (st.cores.filter fun (p : Nat × Core) => layerOf p.1 == l && !p.2.failed && 64 ≤ p.2.bag.length + p.2.ring.length).map Prod.fst
    .next (donors.foldl (fun (s : State) d => s.sendBarge d) st)

/-- `BARGE_ARRIVAL` (R325): the pairs of a barge are entered at the receiver's bag tail. -/
def execBargeArrival (st : State) : Out :=
  match st.barges.find? fun b => b.id == st.item with
  | some b =>
    let st := { st with barges := st.barges.filter fun x => x.id != b.id }
    .next (b.pairs.foldl (fun (s : State) p =>
      let s := if layerOf b.dst == b.srcLayer then s else s.countRecv (layerOf b.dst) p.launch
      s.enterPair b.dst p) st)
  | none => idle "BARGE_ARRIVAL"

/-! ## Placement (R317, R337) -/

/-- Does the distributor see room for a task at a core (R317), outside the instance that it must avoid (R337)? -/
def State.roomAt (st : State) (t : Task) (c : Nat) : Bool :=
  st.heardRoom c t.foot && (t.lease == 0 || t.lease ≤ (st.heard c).extent) &&
    (match t.apart with
      | some (s, x) => !inScope s x c
      | none => true)

/-- The core at which a task is placed: the owner of its data address, or the nearest with room by layer, chiplet, reticle, package. -/
def State.placeFor (st : State) (t : Task) : Option Nat :=
  let o := ownerOf t.dataAddr
  if st.roomAt t o then some o
  else [2, 3, 4, 5].findSome? fun s => leastBy (travel o) (allCores.filter fun c => inScope s o c && st.roomAt t c)

/-- Queues a task at a core's launch port (R318). A placed task counts as sent and received at once. -/
def State.toPort (st : State) (cid : Nat) (t : Task) : State :=
  let st := st.modCore cid fun k => { k with lport := k.lport ++ [{ t with entered := st.cyclesOf cid }], idleSince := none }
  (st.countSent (layerOf cid) t.launch).countRecv (layerOf cid) t.launch

/-- `TASK_PLACEMENT` (R317): a task that waits at the distributor is queued at a core with room; one whose launch has ended is discarded (R43,
R47). -/
def execTaskPlacement (st : State) : Out :=
  match st.toPlace.find? fun t => t.id == st.item with
  | some t =>
    if !st.running t.launch then .next { st with toPlace := st.toPlace.filter fun x => x.id != t.id }
    else (match st.placeFor t with
      | some c => .next ({ st with toPlace := st.toPlace.filter fun x => x.id != t.id }.toPort c t)
      | none => idle "TASK_PLACEMENT")
  | none => idle "TASK_PLACEMENT"

/-! ## Work counters (R263, R314, R393) -/

/-- The end token. -/
def endToken : Nat := 0xFFFFFFFF

/-- The counter of a request: next index and limit. -/
def State.counterOf (st : State) (r : WorkReq) : Nat × Nat :=
  match st.launches.find r.launch with
  | some (x : Launch) => (x.counters[r.counter]?).getD (0, 0)
  | none => (0, 0)

/-- Answers a request: its granule is written and becomes full; an answer into a returned lease is discarded (R39, R256, R263), and so, with no fault,
is one into a lease that another task holds by then (DESIGN CHOICE, log 99). -/
def State.answerWork (st : State) (r : WorkReq) (ans : Nat) : State :=
  let st := { st with workReqs := st.workReqs.filter fun x => x.id != r.id }
  let k := st.core r.cid
  if (r.heavy && !k.leases.any fun l => l.uid == r.uid) || k.leased r.uid r.addr 16 then st
  else st.deliver r.cid r.addr (bytesOf 16 (ans % 2 ^ 32 + r.low * 2 ^ 32))

/-- Performs a request: `f` gives the counter after it and the answer. -/
def State.workStep (st : State) (op : Nat) (name : String) (f : WorkReq → Nat × Nat → (Nat × Nat) × Nat) : Out :=
  match st.workReqs.find? fun r => r.id == st.item with
  | some r =>
    if r.op != op || st.workReqs.any (fun x => x.uid == r.uid && x.id < r.id) || (st.core r.cid).gated then idle name
    else if !st.running r.launch then .next (st.answerWork r endToken)
    else
      let x := f r (st.counterOf r)
      .next ((st.modLaunch r.launch fun l => { l with counters := l.counters.set r.counter x.1 }).answerWork r x.2)
  | none => idle name

/-- `WORKQ_TAKE` (R263). -/
def execWorkqTake (st : State) : Out :=
  st.workStep 0 "WORKQ_TAKE" fun _ c => if c.1 < c.2 then ((c.1 + 1, c.2), c.1) else (c, endToken)

/-- `WORKQ_SET` (R263). -/
def execWorkqSet (st : State) : Out :=
  st.workStep 1 "WORKQ_SET" fun r _ => ((0, min r.arg 0xFFFFFFFE), min r.arg 0xFFFFFFFE)

/-- `WORKQ_READ` (R263). -/
def execWorkqRead (st : State) : Out := st.workStep 2 "WORKQ_READ" fun _ c => (c, c.2 - c.1)

/-! ## Messages (R24, R257, R314, R326) -/

/-- Enters a message into a channel of a core, with the next sequence number of that queue (R24). -/
def State.enterMsg (st : State) (m : Msg) : State :=
  let cid := st.standIn m.cid
  let k := st.core cid
  let n := k.mseqs.getD m.chan 0
  let m := { m with cid := cid, mseq := n, entered := st.cyclesOf cid }
  if k.failed then st.failLaunch m.launch ⟨2, 0x28, 0, 0, 0, st.gid cid⟩
  else st.modCore cid fun k =>
    { k with chans := k.chans.put m.chan (k.chans.getD m.chan [] ++ [m]), mseqs := k.mseqs.put m.chan ((n + 1) % 2 ^ 32), idleSince := none }

/-- A message of a launch that has ended arrives (R285, R314): it takes its number in its queue and is discarded there with what the launch held;
after an `ABORT` it is discarded on arrival. -/
def State.dropMsg (st : State) (m : Msg) : State :=
  if (st.launches.find m.launch).any fun l => l.aborting then st
  else
    let cid := st.standIn m.cid
    st.modCore cid fun k => { k with mseqs := k.mseqs.put m.chan ((k.mseqs.getD m.chan 0 + 1) % 2 ^ 32) }

/-- `MESSAGE_ARRIVAL` (R257): a message enters its channel's queue, after the earlier ones of its context to that channel. One of a launch
that has ended is discarded (R285, R314). -/
def execMessageArrival (st : State) : Out :=
  match st.msgs.find? fun m => m.id == st.item with
  | some m =>
    if (st.msgs.any fun x => x.id < m.id && x.uid == m.uid && x.cid == m.cid && x.chan == m.chan) || (st.core m.cid).gated then
      idle "MESSAGE_ARRIVAL"
    else
      let st := { st with msgs := st.msgs.filter fun x => x.id != m.id }
      let st := if layerOf m.src == layerOf m.cid || m.guest.isSome then st else st.countRecv (layerOf m.cid) m.launch
      if st.running m.launch then .next (st.enterMsg m) else .next (st.dropMsg m)
  | none => idle "MESSAGE_ARRIVAL"

/-! ## Records (R311, R313, R338, R362) -/

/-- Slots of a ring (R309). -/
def ringSize (log : Nat) : Nat := 2 ^ (log + 4)

/-- Sends a stream's message when its vector is not masked, and otherwise sets its pending bit (R362). -/
def State.signalStream (st : State) (q : Nat) : State :=
  if st.host.masked q then st.signal q else (st.signal q).modStream q fun s => { s with unsig := 0 }

/-- Counts a record that was written (R362). -/
def State.countRecord (st : State) (q : Nat) : State :=
  let st := st.modStream q fun s =>
    let since := if s.unsig == 0 then st.time else s.icSince
    { s with unsig := s.unsig + 1, icSince := since, icDue := since + 3000 * s.icHold }
  if (st.stream q).icCount ≤ (st.stream q).unsig then st.signalStream q else st

/-- The 64 bytes of a launch completion record (R313). -/
def launchRecord (l : Launch) (tend : Nat) : Nat :=
  let f : FaultRec := l.fault.getD ⟨0, 0, 0, 0, 0, 0⟩
  l.seq % 2 ^ 64 + f.status * 2 ^ 64 + f.cause * 2 ^ 72 + f.detail % 2 ^ 16 * 2 ^ 80 + f.xpc % 2 ^ 64 * 2 ^ 128 + f.xval % 2 ^ 64 * 2 ^ 192 +
    f.unit % 2 ^ 21 * 2 ^ 256 + l.tplace.getD 0 % 2 ^ 64 * 2 ^ 320 + tend % 2 ^ 64 * 2 ^ 384

/-- Was a packet never placed (R313)? -/
def Launch.unplaced (l : Launch) : Bool := !l.isLaunch || l.tplace.isNone

/-- Writes the record of launch `n`, the oldest of its stream: word 0 of the slot that its packet came in first (R311, R313). -/
def State.writeRecord (st : State) (n : Nat) (l : Launch) : State :=
  let s := st.stream l.stream
  let rec' := bytesOf 64 (launchRecord l (if l.unplaced then st.ns else l.tend))
  let st := (State.sWriteBytes 2 st l.slot (bytesOf 8 0)).journal (.record l.stream l.seq n rec')
  let st := State.sWriteBytes 2 st (s.crbase + 64 * (s.tail % ringSize s.crlog)) rec'
  ({ st with launches := st.launches.del n }.modStream l.stream fun s => { s with tail := (s.tail + 1) % 2 ^ 16 }).countRecord l.stream

/-- Writes the records of a stream whose turn has come (R313); the leader journals each (R338, R363). -/
def State.writeRecords (q : Nat) : Nat → State → State
  | 0, st => st
  | f + 1, st =>
    match st.launches.find? fun p => p.2.stream == q && p.2.guest.isNone with
    | some (n, l) => if l.phase == .ended && st.fw.leads st.time then State.writeRecords q f (st.writeRecord n l) else st
    | none => st

/-! ## The end of a launch (R47, R254, R282, R290, R314, R326 to R328) -/

/-- What a launch still has anywhere (R326). -/
def State.liveCount (st : State) (l : Nat) : Nat :=
  (st.ctxs.countP fun p => p.2.launch == l) + (st.toPlace.countP fun t => t.launch == l) + (st.msgs.countP fun m => m.launch == l) +
    (st.barges.map fun b => b.pairs.countP fun p => p.launch == l).sum + (st.pushes.countP fun p => p.2.launch == l) +
    (st.copies.countP fun x => x.launch == l) + (st.workReqs.countP fun r => r.launch == l) + (st.accs.countP fun a => a.launch == l) +
    (st.commits.countP fun c => c.launch == l) +
    (st.tiles.map fun t => (t.2.pulling.toList ++ t.2.heldC).countP fun c => c.launch == l).sum +
    (st.fab.kept.countP fun k => k.launch == some l) +
    (st.cores.map fun p => (p.2.lport.countP fun t => t.launch == l) + (p.2.bag.countP fun x => x.launch == l) +
      (p.2.ring.countP fun x => x.launch == l) + (p.2.reds.countP fun r => r.launch == l) +
      (p.2.chans.map fun q => q.2.countP fun m => m.launch == l).sum).sum

/-- `SENT` and `RECV` of a launch on every layer (R326); those of a failed layer stand as they were when its items were written off (R339). -/
def State.counts (st : State) (l : Nat) : List (Nat × Nat) :=
  (List.range 16).map fun y => ((st.layer y).sent.getD l 0, (st.layer y).recv.getD l 0)

/-- Retires every barrier word that a launch tagged (R290). -/
def State.retireTags (st : State) (l : Nat) : State :=
  { st with cores := st.cores.map fun p =>
      (p.1, (p.2.tags.filter fun t => t.2 == l).foldl (fun (k : Core) t => k.retireBarrier (8 * t.1)) p.2) }

/-- Ends the claim of a firing that was not accepted: its pair stays in the net unfired, joined by the wire between its principal ports
(R254; DEDUCED, log 43). -/
def State.unclaim (st : State) (f : Firing) : State :=
  match f.pair with
  | some (a, b) =>
    let unlink := fun w => putBits w 0 3 1
    (((st.nodeMod a fun h => hdrFlag h 18 false).nodeMod b fun h => hdrFlag h 18 false).nodeMod (a + 8) unlink).nodeMod (b + 8) unlink
  | none => st

/-- Ends the claims and pins of a launch's firings (R254, R335). -/
def State.endFirings (st : State) (l : Nat) : State :=
  let mine := st.firings.filter fun p => p.2.launch == l
  let st := mine.foldl (fun (s : State) p => ((if p.2.accepted then s else s.unclaim p.2).dropPins p.1)) st
  { st with firings := st.firings.filter fun p => p.2.launch != l }

/-- What the end of a launch leaves behind: no tag, claim, pin, admission or counter of it (R254, R290, R326, R385), and no note of what contexts
that have ended stored. -/
def State.cleanUp (st : State) (l : Nat) : State :=
  let st := (st.retireTags l).endFirings l
  { st with
    stored := st.stored.filter fun p => st.ctxs.any (fun c => c.2.uid == p.1) || st.accs.any (fun a => a.uid == p.1) ||
      st.cores.any fun k => k.2.reds.any fun r => r.uid == p.1
    clusters := st.clusters.map fun p => (p.1, { p.2 with admitted := if p.2.steps l then p.2.admitted else Map.del p.2.admitted l })
    layers := st.layers.map fun p => (p.1, { p.2 with sent := Map.del p.2.sent l, recv := Map.del p.2.recv l }) }

/-- Ends a launch of which nothing is left: its record is due, or its origin is told (R313, R326, R327). The origin of a guest launch that
ended with a fault is told the same as of one that has quiesced (DESIGN CHOICE, log 100). -/
def State.endLaunch (st : State) (l : Nat) (x : Launch) : State :=
  let st := st.cleanUp l
  match x.guest with
  | some (p, lid) => { st with launches := st.launches.del l }.send p 11 0 x.tenant 0 (.qrep lid x.taken) none
  | none =>
    let st := { st with launches := st.launches.put l { x with phase := .ended, tend := st.ns, sweep := none } }
    State.writeRecords x.stream (st.launches.length + 1) st

/-- Writes back what the layers that a launch ran on hold dirty, and every dirty slice copy of a peer line (R282, R328). -/
def State.flushLaunch (st : State) (x : Launch) : State :=
  (x.layers.foldl (fun (s : State) y => s.flushLayer y) st).writeBackPeers

/-- The end of a launch of which nothing is left: its writes are flushed, and once they have reached their owners it ends (R282, R328). The flush
that dependents owe is performed here, which R328 allows for every launch. -/
def State.closeLaunch (st : State) (l : Nat) (x : Launch) : Out :=
  let u := st.flushLaunch x
  if u.peersClean then .next (u.endLaunch l x) else if u == st then idle "QUIESCENCE_SWEEP" else .next u

/-- `QUIESCENCE_SWEEP` (R327): a sweep over the launch that the item names. The second of two clean sweeps that agree ends the launch; one that
is ending already needs nothing of it to be left (R314). -/
def execQuiescenceSweep (st : State) : Out :=
  match st.launches.find st.item with
  | some (x : Launch) =>
    if x.phase == .accepted || x.phase == .ended || st.liveCount st.item != 0 then
      (if x.sweep.isSome then .next (st.modLaunch st.item fun x => { x with sweep := none }) else idle "QUIESCENCE_SWEEP")
    else if x.phase == .ending then st.closeLaunch st.item x
    else
      let c := st.counts st.item
      if (c.map Prod.fst).sum != (c.map Prod.snd).sum then
        (if x.sweep.isSome then .next (st.modLaunch st.item fun x => { x with sweep := none }) else idle "QUIESCENCE_SWEEP")
      else if x.sweep == some c then st.closeLaunch st.item x
      else .next (st.modLaunch st.item fun x => { x with sweep := some c })
  | none => idle "QUIESCENCE_SWEEP"

/-! ## Placement of a launch (R312, R317) -/

/-- The 64-bit words of a payload. -/
def payloadWords (b : List Byte) : List W64 := (List.range 6).map fun i => BitVec.ofNat 64 (bits (ofBytes b) (64 * i) 64)

/-- `LAUNCH_PLACEMENT` (R282, R312): every dependency has written its record, and the entry task goes to the distributor. A launch that names a
dependency begins with an acquire at `.pod`: what slices hold of peer lines reaches the owners first, and is read from them again. -/
def execLaunchPlacement (st : State) : Out :=
  match st.launches.find st.item with
  | some (x : Launch) =>
    if x.phase != .accepted || !x.isLaunch || x.deps.any fun d => (st.launches.find d).isSome then idle "LAUNCH_PLACEMENT"
    else if x.dependent && !st.peersClean then
      (if st.peerLines.any fun p => p.dirty != 0 then .next st.writeBackPeers else idle "LAUNCH_PLACEMENT")
    else
      let st := if x.dependent then st.dropPeers 6 else st
      let vals := payloadWords x.payload
      let t : Task :=
        { id := st.stamp, kind := .entry, launch := st.item, net := x.net, tenant := x.tenant, prio := x.prio, handler := x.handler, vals := vals,
          foot := ((st.nets.find x.net).map fun n => n.efoot).getD 0, heavy := false, tclass := 0, lease := 0, firing := none,
          dataAddr := ((vals[0]?).getD 0).toNat, apart := none, entered := st.stamp }
      .next ({ st with toPlace := st.toPlace ++ [t] }.modLaunch st.item fun x => { x with phase := .live, tplace := some st.ns }).tickStamp
  | none => idle "LAUNCH_PLACEMENT"

end Sys2Proof.Machine
end

