-- ==== Sys2Proof/Machine/Commands.lean ====
section
/-! DEFINITION. Command streams: packets, acceptance and its checks, net records (R309 to R316, R321, R329, R338). -/

namespace Sys2Proof.Machine

/-! ## Packets (R310) -/

/-- The fields of a command packet. -/
structure Command where
  mark : Nat
  ver : Nat
  kind : Nat
  net : Nat
  tenant : Nat
  prio : Nat
  deps : List Nat        -- backward deltas; 0 is none
  handler : Nat
  payload : List Byte
  reserved : Bool        -- a reserved bit is set
  packet : List Byte     -- its 64 bytes
deriving DecidableEq, Repr

/-- Reads the 64 bytes of a packet. -/
def commandOf (b : List Byte) : Command :=
  let x := ofBytes b
  { mark := bits x 0 12, ver := bits x 12 4, kind := bits x 16 2, net := bits x 18 12, tenant := bits x 30 8, prio := bits x 38 3,
    deps := [bits x 41 7, bits x 48 7, bits x 55 7, bits x 121 7], handler := bits x 66 55 * 4, payload := b.drop 16,
    reserved := bits x 62 4 != 0, packet := b }

/-- Reads bytes at a physical address for the command processor: the home cores' dirty copies are written back first, then S is read. -/
def State.processorRead (st : State) (pa n : Nat) : State × List Byte :=
  if paSpace pa == 3 then (st, st.readRegBytes (paOff pa) n)
  else
    let lines := (List.range ((pa + n - 1) / 128 - pa / 128 + 1)).map (pa / 128 + ·)
    let st := if paSpace pa < 2 then lines.foldl (fun (s : State) l => s.writeBack (s.home (128 * l)) l) st else st
    let r := State.sReadBytes (n + 1) st pa n
    (r.1, r.2.1)

/-- The physical address of the slot of the next packet (R309). -/
def Stream.slotAddr (s : Stream) : Nat := s.cqbase + 64 * (s.next % ringSize s.log)

/-! ## Acceptance (R311) -/

/-- Packets of a stream that are accepted and not yet answered: each has reserved a record. -/
def State.unanswered (st : State) (q : Nat) : Nat := st.launches.countP fun p => p.2.stream == q && p.2.guest.isNone

/-- Has the completion ring a record that is neither waiting to be consumed nor reserved (R311)? -/
def State.recordFree (st : State) (q : Nat) : Bool :=
  let s := st.stream q
  let n := ringSize s.crlog
  decide ((s.tail + n - s.head % n) % n + st.unanswered q + 1 < n)

/-- Launches that are live in the package (R311). -/
def State.liveLaunches (st : State) : Nat := st.launches.countP fun p => p.2.isLaunch && p.2.guest.isNone && p.2.phase != .ended

/-- The packet that a stream accepts now, if there is one (R311). -/
def State.acceptable (st : State) (q : Nat) : State × Option Command :=
  let s := st.stream q
  let r := st.processorRead s.slotAddr 64
  let c := commandOf r.2
  (r.1, if c.ver != 0 && c.mark == s.next % 4096 && st.recordFree q && st.liveLaunches < 64 then some c else none)

/-- Checks 1 to 4 of R312: the first that fails, or 0. -/
def State.checkCommand (st : State) (q : Nat) (c : Command) : Nat :=
  let s := st.stream q
  if s.vmax < c.ver then 1
  else if c.kind == 3 || c.reserved then 2
  else if c.tenant != s.tenant || !(st.tenant c.tenant).en then 3
  else match st.nets.find c.net with
    | some (n : Net) => if n.tenant != c.tenant then 4 else 0
    | none => if c.kind == 1 then 0 else 4

/-- The unanswered packets of a stream that a packet with sequence number `s` names (R310). -/
def State.depsOf (st : State) (q s : Nat) (c : Command) : List Nat :=
  (c.deps.filter fun d => d != 0 && d ≤ s).filterMap fun d =>
    ((st.launches.filter fun (p : Nat × Launch) => p.2.stream == q && p.2.guest.isNone && p.2.seq == s - d).getLast?).map Prod.fst

/-- The entry of a packet that stream `q` accepted with a sequence number from a slot; `fault` answers one that is not placed. -/
def State.newLaunch (st : State) (q seq slot : Nat) (c : Command) (isLaunch : Bool) (fault : Option FaultRec) : Launch :=
  { stream := q, seq := seq, isLaunch := isLaunch, net := c.net, tenant := c.tenant, pid := (st.tenant c.tenant).pid, prio := c.prio,
    deps := st.depsOf q seq c, dependent := c.deps.any fun d => d != 0, slot := slot, handler := c.handler, payload := c.payload, phase := if isLaunch then .accepted else .ended,
    fault := fault, tplace := none, tend := 0, counters := List.replicate 16 (0, 0), layers := [], sweep := none, aborting := false,
    guest := none, taken := [] }

/-- Accepts a packet: it is journalled, takes the stream's next sequence number, and is answered at once unless it is a launch that passes its
checks (R311, R312, R338). `detail` is the check that failed, or 0. -/
def State.acceptCommand (st : State) (q : Nat) (c : Command) (detail : Nat) : State :=
  let n := st.nextLaunch
  let s := st.stream q
  let x := st.newLaunch q s.next s.slotAddr c (c.kind == 0 && detail == 0) (if detail == 0 then none else some ⟨3, 0, detail, 0, 0, 0⟩)
  let st := (st.journal (.accept q x.seq n x.slot c.packet)).modStream q fun s => { s with next := (s.next + 1) % 2 ^ 64, tested := st.time }
  State.writeRecords q (st.launches.length + 2) { st with launches := st.launches.put n x, nextLaunch := n + 1 }

/-- Accepts a packet of some kinds from the stream that the item names, while a leader acts to journal it (R338, R363); `go` performs it and gives
the check that it fails, if any. -/
def State.command (st : State) (kinds : List Nat) (name : String) (go : State → Command → State × Nat) : Out :=
  let q := st.item
  let s := st.stream q
  if 16 ≤ q || !s.en || !s.awake || !st.fw.leads st.time then idle name
  else match st.acceptable q with
    | (st, some c) =>
      if !kinds.contains c.kind then idle name
      else
        let d := st.checkCommand q c
        if d != 0 then .next (st.acceptCommand q c d)
        else
          let r := go st c
          .next (r.1.acceptCommand q c r.2)
    | (_, none) => idle name

/-- `LAUNCH` (R311, R312): accepts a launch packet. A packet of the reserved kind is accepted, and rejected, here too. -/
def execLaunch (st : State) : Out := st.command [0, 3] "LAUNCH" fun st _ => (st, 0)

/-! ## Net records (R108, R315) -/

/-- Is a launch of a net live (R312)? -/
def State.netLive (st : State) (n : Nat) : Bool := st.launches.any fun (p : Nat × Launch) => p.2.net == n && p.2.isLaunch && p.2.phase != .ended

/-- A channel of a net record. -/
def chanOf (x n : Nat) : ChanAttr :=
  let a := bits x (128 * n + 64) 64
  { handler := bits x (128 * n) 57, prio := bits a 0 3, budget := bits a 3 20, limit := bits a 23 7, foot := bits a 30 2, sup := bit a 32 }

/-- Is a channel of a net record invalid: a reserved field set, a limit above 64, a footprint 3 in an owned message channel, or supervisor
level without the tenant's right to it (R315)? -/
def chanBad (x n : Nat) (supok : Bool) : Bool :=
  let c := chanOf x n
  bits x (128 * n + 57) 7 != 0 || bits x (128 * n + 97) 31 != 0 || 64 < c.limit ||
    (if n == 15 then c.handler != 0 else (c.limit != 0 && c.foot == 3) || (c.sup && !supok))

/-- The quantile and separation of a class; the default is 230 and `chip` (R315). -/
def classOf (x c : Nat) : Nat × Nat :=
  let e := bits x (2048 + 16 * c) 16
  if e % 512 == 0 then (230, 2) else (e % 512, bits e 9 3)

/-- Is a class entry invalid (R315)? -/
def classBad (x c : Nat) : Bool :=
  let e := bits x (2048 + 16 * c) 16
  bits e 12 4 != 0 || 256 < e % 512 || (e % 512 != 0 && 4 < bits e 9 3)

/-- Is a net record invalid in itself (R315)? -/
def recordBad (b : List Byte) (supok : Bool) : Bool :=
  let x := ofBytes b
  let power := bits x 3072 8
  (List.range 16).any (fun n => chanBad x n supok) || (List.range 64).any (classBad x) || power == 0 || 21 < power || 2 < bits x 3080 8 ||
    bits x 3088 1008 != 0

/-- A fresh net: no rule table and no history (R252, R329). -/
def netOf (b : List Byte) (tenant base size : Nat) : Net :=
  let x := ofBytes b
  { tenant := tenant, chans := (List.range 16).map (chanOf x), classes := (List.range 64).map (classOf x), power := bits x 3072 8,
    efoot := bits x 3080 8, arenaBase := base, arenaSize := size, fresh := 0, free := [], table := none, xhand := 0, defLease := 0,
    history := [], held := [] }

/-- Does another net own a message channel that a net would own (R315)? -/
def State.channelTaken (st : State) (id : Nat) (n : Net) : Bool :=
  st.nets.any fun (p : Nat × Net) => p.1 != id && (List.range 15).any fun c =>
    ((p.2.chans[c]?).any fun a => a.limit != 0) && (n.chans[c]?).any fun a => a.limit != 0

/-- The physical address of a virtual address of a tenant's process, for reading (R315; DEDUCED, log 44). -/
def State.tenantPa (st : State) (tenant va : Nat) : State × Option Nat :=
  if 2 ^ 57 ≤ va then (st, none)
  else if !st.cfg.ptEn then (st, st.identity va false)
  else match st.walkNow (st.tenant tenant).pid tenant va with
    | (st, .entry e) => (st, st.useEntry e va .read false)
    | (st, _) => (st, none)

/-- Reads bytes at a virtual address of a tenant, page by page; none where one is not mapped. -/
def State.tenantRead (tenant : Nat) : Nat → State → Nat → Nat → State × Option (List Byte)
  | 0, st, _, _ => (st, some [])
  | k + 1, st, va, n =>
    if n == 0 then (st, some [])
    else
      let m := min n (65536 - va % 65536)
      match st.tenantPa tenant va with
      | (st, some pa) =>
        let r := st.processorRead pa m
        (match State.tenantRead tenant k r.1 (va + m) (n - m) with
          | (st, some l) => (st, some (r.2 ++ l))
          | (st, none) => (st, none))
      | (st, none) => (st, none)

/-- Installs a net record, or none where a check of R315 or R321 fails. The free-node caches keep no node of an earlier arena. -/
def State.installNet (st : State) (id : Nat) (n : Net) : Option State :=
  let st' := { st with nets := st.nets.put id n, cores := st.cores.map fun (p : Nat × Core) =>
    (p.1, match p.2.freeNodes with
      | some (k, _) => if k == id then { p.2 with freeNodes := none } else p.2
      | none => p.2) }
  if n.arenaBase % 64 != 0 || n.arenaSize % 64 != 0 || st.channelTaken id n || 512 < st'.reserve then none else some st'

/-- `NET_SET` (R312, R315): installs or replaces a net record. A record that cannot be read is invalid (log 44). -/
def execNetSet (st : State) : Out :=
  st.command [1] "NET_SET" fun st c =>
    let word := fun i => bits (ofBytes c.payload) (64 * i) 64
    if st.netLive c.net || c.net == 0 then (st, 5)
    else match State.tenantRead c.tenant 3 st (word 0) 512 with
      | (st, some b) =>
        if recordBad b (st.tenant c.tenant).supok then (st, 5)
        else (match st.installNet c.net (netOf b c.tenant (word 1) (word 2)) with
          | some st => (st, 0)
          | none => (st, 5))
      | (st, none) => (st, 5)

/-- `NET_DROP` (R312, R315): removes a net record; its channels are free. -/
def execNetDrop (st : State) : Out :=
  st.command [2] "NET_DROP" fun st c => if st.netLive c.net then (st, 5) else ({ st with nets := Map.del st.nets c.net }, 0)

/-! ## Rebuilding from the journal (R338, R339) -/

/-- Has a launch its record in the journal? -/
def Firmware.recorded (f : Firmware) (n : Nat) : Bool :=
  f.journal.any fun e => match e with
    | .record _ _ m _ => m == n
    | _ => false

/-- An accepted launch that the command processor no longer holds, and whose record is not written, is entered again from its journalled packet. -/
def State.rebuildEntry (st : State) : JEntry → State
  | .accept q seq n slot b =>
    if (st.launches.find n).isSome || st.fw.recorded n then st
    else { st with launches := st.launches.put n (st.newLaunch q seq slot (commandOf b) true none) }
  | _ => st

/-- The command processor as a new leader rebuilds it from the journal: in the order of acceptance; then the records that waited for a leader are
written (R313, R339). -/
def State.rebuild (st : State) : State :=
  let st := st.fw.journal.foldl State.rebuildEntry st
  (List.range 16).foldl (fun (s : State) q => State.writeRecords q (s.launches.length + 1) s) st

/-- `LEADER_TAKEOVER` (R339, R363): 3 ms have passed without a renewal; the core that the item names takes the lease in a new term and resumes
from the journal, and the streams fetch their slots again. -/
def execLeaderTakeover (st : State) : Out :=
  let f := st.item
  if 18 ≤ f || st.fw.failedFw.contains f || st.time < st.fw.renewed + 9000000 then idle "LEADER_TAKEOVER"
  else
    let fw := { st.fw with leader := f, vacant := false, stopped := false, term := (st.fw.term + 1) % 2 ^ 32, renewed := st.time }
    .next ({ st with fw := fw, streams := st.streams.map fun (p : Nat × Stream) => (p.1, { p.2 with awake := p.2.en }) } : State).rebuild

/-! ## Waiting streams (R311) -/

/-- `STREAM_POLL` (R311): a stream whose next slot is not accepted waits; after 1 µs it tests the slot again. -/
def execStreamPoll (st : State) : Out :=
  let q := st.item
  let s := st.stream q
  if 16 ≤ q || !s.en then idle "STREAM_POLL"
  else if s.awake then
    match st.acceptable q with
    | (_, some _) => idle "STREAM_POLL"
    | (st, none) => .next (st.modStream q fun s => { s with awake := false, tested := st.time })
  else if s.tested + 3000 ≤ st.time then .next (st.modStream q fun s => { s with awake := true })
  else idle "STREAM_POLL"

/-! ## Completion interrupts (R362) -/

/-- Is a message of stream `q` due: the holdoff has elapsed since its oldest unsignalled record, and its pending bit does not stand for the message
already (R362)? -/
def State.holdoffDue (st : State) (q : Nat) : Bool :=
  decide (q < 16) && (st.stream q).unsig != 0 && decide ((st.stream q).icDue ≤ st.time) && !(st.host.masked q && st.host.pending.contains q)

/-- `ICOAL_HOLDOFF` (R362): the holdoff of the item's stream has elapsed since its oldest unsignalled record. -/
def execIcoalHoldoff (st : State) : Out := if st.holdoffDue st.item then .next (st.signalStream st.item) else idle "ICOAL_HOLDOFF"

/-- `MSIX_UNMASK` (R362): the host clears the mask bit of the vector that the item names. -/
def execMsixUnmask (st : State) : Out :=
  let v := st.item
  if 64 ≤ v || !st.host.masked v then idle "MSIX_UNMASK"
  else
    let off := 0x100000 + 16 * v + 8
    .next (st.governed (.master .host) off fun st => st.writeReg (.master .host) off (putBits (st.readReg off) 32 1 0))

end Sys2Proof.Machine
end

