-- ==== Sys2Proof/Machine/Weir.lean ====
section
/-! DEFINITION. Hedging and the weir (R260, R281, R329 to R338, R340, R377). -/

namespace Sys2Proof.Machine

/-! ## The history of a class (R329) -/

/-- The class quantile and separation of a net (R315). -/
def Net.classAttr (n : Net) (c : Nat) : Nat × Nat := (n.classes[c]?).getD (230, 2)

/-- The `k`-th smallest of some numbers, counted from 1. -/
def kthSmallest (k : Nat) (l : List Nat) : Nat := ((sortBy id l)[k - 1]?).getD 0

/-- `RATEQ` with 16 fractional bits, `AGEQ` and `WORKM` of a history; none below 16 completions. -/
def curveOf (h : List Done) (q : Nat) : Option (Nat × Nat × Nat) :=
  let n := h.length
  if n < 16 then none
  else
    some (kthSmallest (min n (1 + n * (256 - q) / 256)) (h.map fun d => d.work * 65536 / max 1 d.age),
      kthSmallest ((n * q + 255) / 256) (h.map fun d => d.age), kthSmallest ((n + 1) / 2) (h.map fun d => d.work))

/-- Adds a completion; the last 256 are kept. -/
def Net.addDone (n : Net) (c : Nat) (d : Done) : Net :=
  let h := n.history.getD c [] ++ [d]
  { n with history := n.history.put c (h.drop (h.length - 256)) }

/-! ## Backups (R330 to R332) -/

/-- The curve of a context's class. -/
def State.curve (st : State) (c : Ctx) : Option (Nat × Nat × Nat) :=
  (st.nets.find c.net).bind fun (n : Net) => curveOf (n.history.getD c.tclass []) (n.classAttr c.tclass).1

/-- Is a heavy copy behind at a sample taken at `t` ns (R330)? -/
def State.behind (st : State) (c : Ctx) (t : Nat) : Bool :=
  match (c.firing.bind st.firings.find), st.curve c with
  | some f, some k =>
    let a := (3 * t - c.startTime) / 3
    !c.backup && !f.backedUp && !f.accepted && 4096 ≤ a && (c.rwc * 65536 < k.1 * a || k.2.1 < a)
  | _, _ => false

/-- The work of a tenant over its last eight buckets, and the part of it done by backups (R331). -/
def Tenant.recentWork (t : Tenant) (now : Nat) : Nat × Nat :=
  let b := now / 375000
  let l := t.buckets.filter fun p => b ≤ p.1 + 7
  ((l.map fun p => p.2.1).sum, (l.map fun p => p.2.2).sum)

/-- Live backups of a tenant, those whose commit is unanswered among them (R331, R336). -/
def State.liveBackups (st : State) (t : Nat) : Nat :=
  let mine := fun (c : Commit) => c.backup && c.tenant == t
  (st.ctxs.countP fun p => p.2.backup && p.2.tenant == t) + st.commits.countP mine +
    (st.tiles.map fun p => (p.2.pulling.toList ++ p.2.heldC).countP mine).sum

/-- May a backup start for a tenant (R331)? -/
def State.mayBackup (st : State) (t workm : Nat) : Bool :=
  let w := (st.tenant t).recentWork st.time
  decide (1024 * (w.2 + workm) ≤ (st.tenant t).hbudget * w.1) && (st.tenant t).hbudget != 0 && decide (st.liveBackups t < 64)

/-- The backup of a copy, and the core at which it is placed (R332); none for separation `pkg`, since no packet carries a start. -/
def State.backupPlace (st : State) (c : Ctx) (f : Firing) : Option (Nat × Task) :=
  let sep := ((st.nets.find c.net).map fun (n : Net) => (n.classAttr c.tclass).2).getD 2
  let t : Task :=
    { id := st.stamp, kind := .backup, launch := f.launch, net := f.net, tenant := f.tenant, prio := 7, handler := f.handler, vals := f.vals,
      foot := f.foot, heavy := true, tclass := f.tclass, lease := f.lease, firing := c.firing, dataAddr := 0, apart := some (sep + 1, c.start),
      entered := st.stamp }
  if 4 ≤ sep then none else (leastBy (travel c.start) (allCores.filter fun x => st.roomAt t x)).map fun x => (x, t)

/-- Starts a backup of a behind copy where R331 allows it and R332 finds a place. -/
def State.backUp (st : State) (t : Nat) (c : Ctx) : State :=
  match (c.firing.bind st.firings.find), st.curve c with
  | some f, some k =>
    if st.behind c t && st.mayBackup c.tenant k.2.2 then
      match st.backupPlace c f with
      | some (x, task) =>
        ((st.toPort x task).modFiring (c.firing.getD 0) fun f => { f with backedUp := true }).tickStamp
      | none => st
    else st
  | _, _ => st

/-- `HEDGE_SAMPLE` (R330): at every multiple of 2,048 ticks the running heavy copies are tested. -/
def execHedgeSample (st : State) : Out :=
  let n := st.ns / 2048
  if n ≤ st.samples then idle "HEDGE_SAMPLE"
  else .next ((st.ctxs.map Prod.snd).foldl (fun (s : State) c => s.backUp (2048 * n) c) { st with samples := n })

/-! ## Answers of the weir (R333, R334, R336, R340) -/

/-- Is a commit's epoch tainted (R340)? -/
def State.tainted (st : State) (c : Commit) : Bool := (st.cluster (clusterOf c.cid)).tainted.contains c.epoch

/-- Answers a commit: its copy has ended and its lease goes back (R39, R333, R336). -/
def State.answered (st : State) (c : Commit) : State :=
  ((st.copyGone c.firing c.uid).modFiring c.firing fun f => { f with commits := f.commits - 1 }).returnLease c.cid c.uid

/-- `CANCEL`; `how` tells whether the firing is to be run again, and from where a re-run stays away. -/
def State.cancelCommit (st : State) (c : Commit) (how : CopyEnd) : State := (st.answered c).settleFiring c.firing how

/-- The instance that a re-run avoids after a commit's cluster failed or its epoch was tainted: the layer of its cluster (R337; DEDUCED, log 46). -/
def taintApart (c : Commit) : CopyEnd := .failedPull (some (2, c.cid))

/-- Ends a launch for a commit at the weir: `XPC` 0, `XVAL` a number, `UNIT` the copy's core (R333). -/
def State.failCommit (st : State) (c : Commit) (code detail xval : Nat) : State :=
  (st.answered c).failLaunch c.launch ⟨1, code, detail, 0, xval, st.gid c.cid⟩

/-- Takes the next held commit of a tile, or opens it. -/
def Tile.nextHeld (t : Tile) : Tile := { t with pulling := t.heldC.head?, heldC := t.heldC.tail }

/-- Goes on to the next held commit of a tile, whose pull takes its place in the slice (R298, R333). -/
def State.nextPull (st : State) (tile : Nat) : State := (st.modTile tile Tile.nextHeld).takeTransit tile

/-- Has the weir accepted for the firing of a commit, or has the firing ended with its launch? Such a commit is cancelled, whatever it names
(R334). -/
def State.overtaken (st : State) (c : Commit) : Bool := (st.firings.find c.firing).all fun f => f.accepted

/-- `WEIR_COMMIT` (R333): a commit reaches the weir of its tile. One of a tainted epoch is answered `CANCEL` in every state (R340), and so is one of
a firing for which another copy was accepted (R334). -/
def execWeirCommit (st : State) : Out :=
  match st.commits.find? fun c => c.id == st.item with
  | none => idle "WEIR_COMMIT"
  | some c =>
    let st := { st with commits := st.commits.filter fun x => x.id != c.id }
    if st.tainted c then .next (st.cancelCommit c (taintApart c))
    else if st.overtaken c then .next (st.cancelCommit c .answered)
    else match st.tileOf c.tenant c.tile with
    | none => .next (st.failCommit c 0x01 5 c.tile)
    | some t =>
      if t.cur < c.base then .next (st.failCommit c 0x01 5 c.tile)
      else if c.base < t.cur then .next (st.cancelCommit c .answered)
      else if t.pulling.isSome then .next (st.modTile c.tile fun t => { t with heldC := t.heldC ++ [c] })
      else .next ((st.modTile c.tile fun t => { t with pulling := some c }).takeTransit c.tile)

/-! ## The rewrite of a commit (R240, R242, R260) -/

/-- Takes a node for an accepted rewrite of a launch: from the free-node cache of a core, or else from the net's arena (R260). -/
def State.weirNode (st : State) (cid launch net : Nat) : Option (State × Nat) :=
  match (st.core cid).nodesOf net with
  | va :: l => some ((st.modCore cid fun k => k.afterTake net l).handOut launch net va, va)
  | [] =>
    (st.nets.find net).bind fun (n : Net) =>
      match n.take 1 with
      | (n, va :: _) => some (({ st with nets := st.nets.put net n } : State).handOut launch net va, va)
      | _ => none

/-- The virtual address of the port that an end code names (R259). -/
def endPort (left right node code : Nat) : Nat :=
  (match code / 4 with
    | 0 => left
    | 1 => right
    | _ => node) + 8 + 8 * (code % 4)

/-- The words of the result node (R237, R259, R260). -/
def resultNode (c : Commit) : List Nat :=
  let w := fun i => bits (ofBytes c.pay) (64 * i) 64
  let pay := if c.sealed then [c.tile, putBits (w 1) 0 32 (c.base + 1), w 2] else [w 0, w 1, w 2]
  [bits c.hdr 0 18 + 2 ^ 19 + c.net % 4096 * 2 ^ 24, 0, 0, 0, 0] ++ pay

/-- Applies the joins of a rewrite in order. -/
def State.joinAll (launch left right node : Nat) : List (Nat × Nat) → State → State
  | [], st => st
  | (a, b) :: l, st =>
    let p := endPort left right node a
    let q := endPort left right node b
    match st.nodePa launch p, st.nodePa launch q with
    | some x, some y => State.joinAll launch left right node l (st.join launch (p, x) (q, y)).1
    | _, _ => State.joinAll launch left right node l st

/-- What applying a commit gives: the new state, or the cause and value with which the launch ends instead (R333). -/
inductive Applied where
  | ok (st : State)
  | bad (code xval : Nat)

/-- Writes the result node of a commit, if it has one: the node's virtual address, or 0. -/
def State.placeNode (st : State) (c : Commit) (t : Tile) : Sum (State × Nat) (Nat × Nat) :=
  if hdrType c.hdr == 0 then .inl (st, 0)
  else match st.weirNode (firstCore t.cluster) c.launch c.net with
    | none => .inr (0x0F, c.tile)
    | some (st, va) =>
      match st.nodePa c.launch va with
      | some pa => .inl (st.writeNode pa (resultNode c), va)
      | none => .inr (0x0A, va)

/-- Frees both nodes of a pair, which ends its claim (R260). -/
def State.freePair (st : State) (launch cid : Nat) (left right : Nat × Nat) : State :=
  let one := fun (s : State) (n : Nat × Nat) => (s.nodeMod n.2 fun h => hdrFlag h 18 false).freeNode launch cid n.1 n.2
  one (one st left) right

/-- Applies the rewrite of a commit (R260); with `NORW` there is none, and no result node (R259). -/
def State.rewrite (st : State) (c : Commit) (t : Tile) (f : Firing) : Applied :=
  if c.norw then .ok st
  else match st.placeNode c t with
    | .inr e => .bad e.1 e.2
    | .inl (st, node) =>
      match f.pair with
      | some (l, r) =>
        let left := ((f.vals[0]?).getD 0).toNat
        let right := ((f.vals[1]?).getD 0).toNat
        .ok ((State.joinAll c.launch left right node c.joins st).freePair c.launch (firstCore t.cluster) (left, l) (right, r))
      | none => .ok st

/-! ## The end of a pull (R333 to R335, R338, R373, R377) -/

/-- Has a core lost the lease of a commit: it has failed, or has been reset since, which leaves no lease (R39, R288, R339)? -/
def State.leaseLost (st : State) (c : Commit) : Bool := (st.core c.cid).failed || !(st.core c.cid).leases.any fun l => l.uid == c.uid

/-- Why a pull fails: the lease is lost with its core, or the region holds poison (R333, R339, R373). -/
def State.pullFails (st : State) (c : Commit) : Bool := st.leaseLost c || (st.core c.cid).poisoned c.rbase c.rlen

/-- Adds an entry to a commit log of 4,096 (R377). -/
def Cluster.logCommit (g : Cluster) (e : LogEntry) : Cluster :=
  if g.log.length < 4096 then { g with log := g.log ++ [e] } else { g with log := g.log.tail ++ [e], overflow := true }

/-- Seals the next version of a tile (R281, R335). -/
def Tile.seal' (t : Tile) (data : List Byte) (retain : Nat) : Tile :=
  ({ t with cur := t.cur + 1, size := data.length, vers := t.vers.put (t.cur + 1) data } : Tile).trim retain

/-- What an `ACCEPT` ends: the claim and pins of the firing, its other live copies, and its copies that have not started (R333, R334; the
last DEDUCED, log 45). -/
def State.acceptFiring (st : State) (f : Nat) : State :=
  match st.firings.find f with
  | none => st
  | some x =>
    let live := (st.ctxs.map Prod.snd).filter fun (c : Ctx) => x.live.contains c.uid
    let st := { st with
      kills := live.foldl (fun (s : NatSet) (c : Ctx) => NatSet.add s c.uid) st.kills
      toPlace := st.toPlace.filter fun t => t.firing != some f
      cores := st.cores.map fun (p : Nat × Core) => (p.1, { p.2 with lport := p.2.lport.filter fun t => t.firing != some f }) }
    (st.dropPins f).modFiring f fun x => { x with accepted := true, pins := [], waiting := 0 }

/-- The steps of an `ACCEPT` after the rewrite (R329, R333, R338, R377). -/
def State.acceptCommitted (st : State) (c : Commit) (t : Tile) (data : List Byte) : State :=
  let seq := st.seqOf c.launch
  let st := st.modTile c.tile fun y => { y.seal' data (st.tenant t.tenant).retain with pulling := none, heldC := [] }
  let st := st.journal (.tileSeal c.tile (c.base + 1) t.cluster (some c.firing))
  let st := st.modCluster (clusterOf c.cid) fun g => g.logCommit ⟨c.tile, c.base + 1, c.tenant, seq, st.ns⟩
  let st := st.modNet c.net fun n => n.addDone c.tclass ⟨c.age, c.work⟩
  let st := (st.answered c).acceptFiring c.firing
  t.heldC.foldl (fun (s : State) h => s.cancelCommit h .answered) st

/-- `PULL_COMPLETE` (R333): the region has been pulled from the copy's lease; the leader journals the seal first (R338, R363). A commit of a firing
that another copy was accepted for meanwhile is cancelled (R334). Without room for the seal or a node for N the launch ends, and
the next held commit is pulled. -/
def execPullComplete (st : State) : Out :=
  match st.tiles.find st.item with
  | none => idle "PULL_COMPLETE"
  | some t =>
    match t.pulling with
    | none => idle "PULL_COMPLETE"
    | some c =>
      if st.pullFails c || st.tainted c || !st.fw.leads st.time then idle "PULL_COMPLETE"
      else if st.overtaken c then .next ((st.nextPull c.tile).cancelCommit c .answered)
      else
        let full := Config.tilesFull st.frees
        let st := { st with frees := st.frees + 1 }
        let reject := fun (st : State) (code x : Nat) => Host.Outcome.next ((st.nextPull c.tile).failCommit c code 0 x)
        if full then reject st 0x0F c.tile
        else match st.firings.find c.firing with
          | none => .next ((st.nextPull c.tile).cancelCommit c .answered)
          | some f =>
            match st.rewrite c t f with
            | .bad code x => reject st code x
            | .ok st => .next (st.acceptCommitted c t ((st.core c.cid).lm.readBytes c.rbase c.rlen))

/-- The instance of the failed unit's scope that a re-run avoids after a failed pull: the layer of a cluster that failed or is tainted, the core that
failed by itself, or none for poison (R337, R339, R373). -/
def State.pullApart (st : State) (c : Commit) : CopyEnd :=
  if st.tainted c || (st.cluster (clusterOf c.cid)).failed then taintApart c
  else .failedPull (if st.leaseLost c then some (1, c.cid) else none)

/-- `PULL_FAILED` (R333): the pull has failed, or its epoch was tainted during it. -/
def execPullFailed (st : State) : Out :=
  match st.tiles.find st.item with
  | none => idle "PULL_FAILED"
  | some t =>
    match t.pulling with
    | none => idle "PULL_FAILED"
    | some c =>
      if st.pullFails c || st.tainted c then .next ((st.nextPull c.tile).cancelCommit c (st.pullApart c))
      else idle "PULL_FAILED"

end Sys2Proof.Machine
end

