-- ==== Sys2Proof/Machine/Failures.lean ====
section
/-! DEFINITION. Failures of units, scans and taint (R337 to R340, R354, R355, R376 to R378),
and soft errors (R369, R371, R374). -/

namespace Sys2Proof.Machine

/-! ## A failed core (R339) -/

/-- The end of what an engine of a failed core holds of a launch. -/
def State.failWork (st : State) (l unit : Nat) : State := st.failLaunch l ⟨2, 0x28, 0, 0, 0, unit⟩

/-- Loses the contexts that satisfy `p` to a failed unit (R336, R339). -/
def State.loseContexts (st : State) (p : Ctx → Bool) (unit : Nat) (apart : Option (Nat × Nat)) : State :=
  ((st.ctxs.map Prod.snd).filter p).foldl (fun (s : State) (c : Ctx) =>
    match s.byUid c.uid with
    | some c => s.loseCtx c unit 0 apart
    | none => s) st

/-- Moves a queued start of a failed core to the nearest core of its layer (R339). -/
def State.moveTask (st : State) (cid : Nat) (t : Task) : State :=
  let c := st.standIn cid
  if (st.core c).failed then st.failWork t.launch (st.gid cid)
  else st.modCore c fun k => { k with lport := k.lport ++ [{ t with entered := st.cyclesOf c }], idleSince := none }

/-- Takes a core out of service: its contexts are lost, with what its engines still held; its pairs and queued starts move (R337, R339). -/
def State.failCore (st : State) (cid unit : Nat) (apart : Option (Nat × Nat)) : State :=
  let k := st.core cid
  let st := st.modCore cid fun k =>
    { k with failed := true, gated := false, bag := [], ring := [], lport := [], chans := [], reds := [], clearing := none, refill := [] }
  let st := st.loseContexts (fun c => c.start == cid || c.cur == cid) unit apart
  let mine := st.copies.filter fun (x : Copy) => x.cid == cid
  let st := st.dropCopies fun (x : Copy) => x.cid == cid
  let st := mine.foldl (fun (s : State) (x : Copy) => if x.heavy then s else s.failWork x.launch unit) st
  let st := k.reds.foldl (fun (s : State) (r : Red) => s.failWork r.launch unit) st
  let st := st.modCore cid fun k => { k with mq := [] }
  let st := (k.bag ++ k.ring).foldl (fun (s : State) (p : Pair) => s.enterPair cid p) st
  let st := k.lport.foldl (fun (s : State) (t : Task) => s.moveTask cid t) st
  (k.chans.flatMap Prod.snd).foldl (fun (s : State) (m : Msg) => s.enterMsg { m with cid := cid }) st

/-- Takes some cores out of service together, in the instance of a scope: what moves goes to the nearest core that remains (R339). -/
def State.failCores (st : State) (cids : List Nat) (unit scope : Nat) : State :=
  let live := cids.filter fun c => !(st.core c).failed
  let st := live.foldl (fun (s : State) c => s.modCore c fun k => { k with failed := true }) st
  live.foldl (fun (s : State) c => s.failCore c unit (some (scope, c))) st

/-- `CORE_FAILURE` (R339). -/
def execCoreFailure (st : State) : Out :=
  if validCid st.item && !(st.core st.item).failed then .next (st.failCore st.item (st.gid st.item) (some (1, st.item)))
  else idle "CORE_FAILURE"

/-! ## A failed cluster (R339) -/

/-- The identifier of a failed cluster, which R8 names by its layer and number: that of its core of index 0 (DEDUCED, log 48). -/
def State.clusterUnit (st : State) (g : Nat) : Nat := st.gid (firstCore g)

/-- The cluster that takes over the tile entries of a failed one: the next of R292 that has not failed. -/
def State.nextCluster (st : State) (g : Nat) : Nat :=
  (((List.range 336).map fun i => (g + 1 + i) % 336).find? fun n => !(st.cluster n).failed).getD ((g + 1) % 336)

/-- Takes a cluster and its eight cores out of service; its tile entries move (R339, R378). -/
def State.failCluster (st : State) (g unit : Nat) : State :=
  let st := st.modCluster g fun x =>
    { x with failed := true, running := none, claims := [], admitted := [], users := [], testing := none, preempted := false }
  let st := { st with powerReqs := st.powerReqs.filter fun (r : PowerReq) => r.g != g || r.acc.isSome }
  let st := st.failCores ((List.range 8).map (coreOf g)) unit 2
  let n := st.nextCluster g
  { st with tiles := st.tiles.map fun (p : Nat × Tile) => (p.1, if p.2.cluster == g then { p.2 with cluster := n } else p.2) }

/-- `MATRIX_CLUSTER_FAILURE` (R339). -/
def execMatrixClusterFailure (st : State) : Out :=
  if st.item < 336 && !(st.cluster st.item).failed then .next (st.failCluster st.item (st.clusterUnit st.item))
  else idle "MATRIX_CLUSTER_FAILURE"

/-! ## A failed layer (R339) -/

/-- The launches that have pairs, messages, queued starts or light tasks on a layer. -/
def State.launchesOn (st : State) (l : Nat) : List Nat :=
  let cores := (st.cores.filter fun (p : Nat × Core) => layerOf p.1 == l).map Prod.snd
  ((cores.flatMap fun (k : Core) => (k.bag ++ k.ring).map (fun p => p.launch) ++ k.lport.map (fun t => t.launch) ++
      (k.chans.flatMap Prod.snd).map (fun m => m.launch)) ++
    ((st.ctxs.map Prod.snd).filter fun (c : Ctx) => layerOf c.start == l && !c.heavy).map (fun c => c.launch) ++
    (st.msgs.filter fun (m : Msg) => layerOf m.cid == l).map (fun m => m.launch) ++
    (st.barges.filter fun (b : Barge) => layerOf b.dst == l).flatMap fun b => b.pairs.map fun p => p.launch).dedup

/-- `LAYER_FAILURE` (R339): as for its clusters; every launch with items there ends. -/
def execLayerFailure (st : State) : Out :=
  let l := st.item
  if 16 ≤ l || (st.layer l).failed then idle "LAYER_FAILURE"
  else
    let unit := st.gid (coreOfLayer l 0)
    let st := (st.launchesOn l).foldl (fun (s : State) x => s.failWork x unit) st
    let st := st.modLayer l fun y => { y with failed := true, stations := [] }
    .next (((List.range 21).map (21 * l + ·)).foldl (fun (s : State) g => if (s.cluster g).failed then s else s.failCluster g unit) st)

/-! ## A failed port (R355) -/

/-- Does a route leave on a plane at or after a time? -/
def Route.waitsOn (r : Route) (me : Nat) (pkt : Packet) (p now : Nat) : Bool :=
  match r with
  | .direct t => meetPlane me pkt.dst == p && decide (now ≤ t)
  | .relay _ q t => q == p && decide (now ≤ t)
  | .waiting => false

/-- The lines of global memory that a context waits for when their copies are awaited: those of its accesses, of the next strip of its slots, of the
next granule of its copies, and of its next instruction. -/
def State.linesWanted (st : State) (c : Ctx) : List Nat :=
  let pid := st.pidOf c
  ((st.accs.filter fun (x : Access) => x.uid == c.uid).flatMap fun x => x.elems.map fun e => e.pa / 128) ++
    (c.slots.flatMap fun (x : Slot) =>
      if x.shape.space != 1 then []
      else if x.push then (match x.staged with
        | (k, _) :: _ => (x.shape.strip k).map fun e => x.paOf k e.1 / 128
        | [] => [])
      else match x.wanted with
        | some k => (st.peersOf c.start pid c.sup .read ((x.shape.strip k).map Prod.fst)).map (· / 128)
        | none => []) ++
    ((st.copies.filter fun (x : Copy) => x.uid == c.uid && x.status.isNone).flatMap fun x => (st.copyRun x 16 x.next []).1.flatMap fun m =>
      (if x.src.space == 1 then [m.1 / 128] else []) ++ if x.dst.space == 1 then [m.2 / 128] else []) ++
    match st.translate c c.pc.toNat .fetch with
    | .at pa => [pa / 128]
    | _ => []

/-- Does a heavy context wait for an answer that was to come over a plane: of an access, of a copy to another package, or of a peer line? -/
def State.waitsOnPlane (st : State) (c : Ctx) (p : Nat) : Bool :=
  c.heavy && st.fab.awaits.any fun (a : Await) => meetPlane st.pkg a.peer == p &&
    ((st.accs.any fun (x : Access) => x.uid == c.uid && a.acc == some x.id) ||
      (st.copies.any fun (x : Copy) => x.uid == c.uid && a.copy == some x.id) || (st.linesWanted c).any fun l => a.line == some l)

/-- `PORT_FAILURE` (R339, R355): packets that were to leave on the plane are routed again, those held for it are discarded, and the heavy copies
that wait on it are run again. -/
def execPortFailure (st : State) : Out :=
  let p := st.item
  if 16 ≤ p || !st.fab.up.contains p then idle "PORT_FAILURE"
  else
    let gone := st.fab.basin.filter fun (h : Held) => meetPlane st.pkg h.pkt.dst == p
    let owed := gone.foldl (fun (m : Map Nat) (h : Held) => m.put h.pkt.src (m.getD h.pkt.src 0 + h.pkt.len + 1)) st.fab.owed
    -- a packet that was to leave on the plane has not been sent: its credit stays here (R349)
    let unsent := st.fab.kept.filter fun (k : Kept) => k.route.waitsOn st.pkg k.pkt p st.podTime
    let fab := unsent.foldl (fun (f : Fabric) (k : Kept) => f.refund k.route k.pkt.len) (st.fab.setPorts (NatSet.del st.fab.up p) st.fab.portVer)
    let fab := { fab with
      portFail := NatSet.add st.fab.portFail p, owed := owed
      basin := st.fab.basin.filter fun (h : Held) => meetPlane st.pkg h.pkt.dst != p
      kept := st.fab.kept.map fun (k : Kept) => if k.route.waitsOn st.pkg k.pkt p st.podTime then { k with route := .waiting } else k }
    let st := { st with fab := fab }.signal 19
    .next (st.loseContexts (fun c => st.waitsOnPlane c p) 0 none)

/-! ## A failed firmware core (R339, R363) -/

/-- `FIRMWARE_CORE_FAILURE` (R339): a leader that has failed acts no more, and the accepted launches that its command processor had not yet placed are
lost with it until the next leader rebuilds them from the journal (DEDUCED, log 92). The streams fetch their slots again. -/
def execFirmwareCoreFailure (st : State) : Out :=
  let f := st.item
  if 18 ≤ f || st.fw.failedFw.contains f then idle "FIRMWARE_CORE_FAILURE"
  else
    let lead := !st.fw.vacant && st.fw.leader == f
    .next { st with
      fw := { st.fw with failedFw := NatSet.add st.fw.failedFw f, stopped := st.fw.stopped || lead }
      launches := if lead then st.launches.filter fun (p : Nat × Launch) => p.2.phase != .accepted || p.2.guest.isSome else st.launches
      streams := if lead then st.streams.map fun (p : Nat × Stream) => (p.1, { p.2 with awake := p.2.en }) else st.streams }

/-! ## In-field tests (R340, R376 to R379) -/

/-- Can a cluster be pre-empted now: what runs is an `mma` or nothing (R194)? -/
def Cluster.stoppable (x : Cluster) : Bool :=
  match x.running with
  | some r => r.cmd.op.isMma
  | none => true

/-- Can a test of a cluster begin now: it is in service, stoppable, and none of its layer is under test (R376)? -/
def State.testable (st : State) (g : Nat) : Bool :=
  let x := st.cluster g
  g < 336 && !x.failed && x.testing.isNone && x.stoppable &&
    !st.clusters.any fun (p : Nat × Cluster) => p.1 / 21 == g / 21 && p.2.testing.isSome

/-- Has a cluster gone 9 minutes since its last pass (R376)? -/
def State.testOverdue (st : State) (g : Nat) : Bool := decide ((st.cluster g).passAt + 540000 * 3000000 ≤ st.time)

/-- Has a cluster been without claimed block, queued command and token for 50 µs (R376)? -/
def State.testQuiet (st : State) (g : Nat) : Bool := (st.cluster g).quiet.any fun t => decide (t + 150000 ≤ st.time)

/-- Does firmware choose a cluster for a test before the others of its layer: one that is overdue, else one that has been quiet, else any (R376)? -/
def State.testChosen (st : State) (g : Nat) : Bool :=
  let others := ((List.range 21).map (g / 21 * 21 + ·)).filter st.testable
  st.testable g &&
    (st.testOverdue g || (!others.any st.testOverdue && (st.testQuiet g || !others.any st.testQuiet)))

/-- `SCAN_TEST` (R363, R376): the leader pre-empts the cluster; at most one of a layer is under test. -/
def execScanTest (st : State) : Out :=
  let g := st.item
  if !st.fw.leads st.time || !st.testChosen g then idle "SCAN_TEST"
  else .next ((st.stopCluster g).modCluster g fun y => { y with testing := some (st.cluster g).preempt, testAt := st.time })

/-- Must a test begin or end before any more time passes: a cluster is overdue, or one has been under test for 1.5 ms (R376)? -/
def State.scanDue (st : State) : Bool :=
  (st.fw.leads st.time && (List.range 336).any fun g => st.testOverdue g && st.testable g) ||
    st.clusters.any fun (p : Nat × Cluster) => p.2.testing.isSome && decide (p.2.testAt + 4500000 ≤ st.time)

/-- A cluster after a pass: its epoch rises, its log is empty (R376). -/
def Cluster.passed (x : Cluster) (now : Nat) : Cluster :=
  { x with epoch := (x.epoch + 1) % 2 ^ 32, log := [], overflow := false, passAt := now, users := [], testing := none }

/-- `SCAN_PASS` (R340, R376): the contents are as before, and the cluster resumes unless it was pre-empted before the test. -/
def execScanPass (st : State) : Out :=
  let g := st.item
  match (st.cluster g).testing with
  | some was =>
    let st := st.modCluster g fun x => x.passed st.time
    .next (if was then st else st.resumeCluster g)
  | none => idle "SCAN_PASS"

/-- Keeps the last 64 taint records (R379). -/
def Firmware.addTaint (f : Firmware) (t : Taint) : Firmware :=
  let l := f.taints ++ [t]
  { f with taints := l.drop (l.length - 64) }

/-- `SCAN_FAIL` (R340, R378): the epoch is tainted, the copies that used the cluster are lost, the cluster is fenced and handled as failed, and
a taint record is built. -/
def execScanFail (st : State) : Out :=
  let g := st.item
  let x := st.cluster g
  if x.testing.isNone then idle "SCAN_FAIL"
  else
    let st := st.modCluster g fun y => { y with tainted := (y.epoch :: y.tainted).dedup, fenced := true }
    let st := st.loseContexts (fun c => c.heavy && x.users.contains c.uid) (st.clusterUnit g) (some (2, firstCore g))
    let st := st.failCluster g (st.clusterUnit g)
    -- the versions before those of the record stay retained (R340)
    let st := x.log.foldl (fun (s : State) (e : LogEntry) => s.modTile e.tile fun t => { t with tainted := NatSet.add t.tainted (e.ver - 1) }) st
    let t : Taint := { cluster := g, epoch := x.epoch, tfence := st.ns, entries := x.log, overflow := x.overflow }
    .next ({ st with fw := st.fw.addTaint t }.signal 19)

/-! ## Soft errors (R369, R371, R374) -/

/-- Is it a word of this package's own memory, by its number? -/
def State.ownWord (st : State) (w : Nat) : Bool :=
  paSpace (8 * w) < 2 && !st.isPeer (8 * w) && decide (8 * w < 2 ^ 56) && !st.nonexistent (8 * w)

/-- An error in a stored word (R368 to R371): the normal code corrects one bit and detects two, the strong code corrects two symbols of the
word's group; what cannot be corrected is poisoned. Both are logged, in the far tier too. -/
def State.upsetArray (st : State) (w n symbols : Nat) : State :=
  if n == 0 then st
  else if (if st.strongAt (8 * w) then decide (symbols ≤ 2) else n == 1) then st.correct (8 * w)
  else { st.logEvent 2 (8 * w) with poison := NatSet.add st.poison w }

/-- One bit of a word that an unlisted key reads as zero. -/
def flipZero (m : Map W32) (k n : Nat) : Map W32 := putZero m k (getZero m k ^^^ 2 ^ (n % 32))

/-- A soft error in a cluster's arrays, which hardware does not detect. -/
def Cluster.upset (g : Cluster) : Upset → Cluster
  | .element _ k n => if k < 2048 * 128 then { g with acc := flipZero g.acc k n } else g
  | .checksum _ row k n =>
    if k < 8192 then (if row then { g with cc := flipZero g.cc k n } else { g with cr := flipZero g.cr k n }) else g
  | .sat _ b => if b < 256 then { g with sat := if g.sat.contains b then NatSet.del g.sat b else NatSet.add g.sat b } else g
  | _ => g

/-- A soft error in a context's registers, which hardware does not detect. -/
def Ctx.upset (c : Ctx) : Upset → Ctx
  | .scalar _ r n => { c with s := c.s.setIfInBounds r ((c.s[r]?).getD 0 ^^^ BitVec.ofNat 64 (2 ^ (n % 64))) }
  | .vector _ r n => c.setV r { c.getV r with bits := (c.getV r).bits ^^^ BitVec.ofNat 2048 (2 ^ (n % 2048)) }
  | .mask _ r n => { c with k := c.k.setIfInBounds r ((c.k[r]?).getD 0 ^^^ BitVec.ofNat 64 (2 ^ (n % 64))) }
  | .descriptor _ r n => { c with o := c.o.setIfInBounds r ((c.o[r]?).getD 0 ^^^ BitVec.ofNat 128 (2 ^ (n % 128))) }
  | .window _ r n => { c with m := c.m.setIfInBounds r ((c.m[r]?).getD 0 ^^^ BitVec.ofNat 64 (2 ^ (n % 64))) }
  | .invariant _ r n => c.setQ r (c.getQ r ^^^ BitVec.ofNat 128 (2 ^ (n % 128)))
  | _ => c

/-- A soft error, by the array that it strikes (R374): the word is poisoned, the context is lost, or nothing detects it. -/
def State.upset (st : State) (u : Upset) : State :=
  match u with
  | .array w n symbols => if st.ownWord w then st.upsetArray w n symbols else st
  | .slice w =>
    if st.isPeer (8 * w) then
      { st with peerLines := st.peerLines.map fun (l : PeerLine) =>
          if l.line == w / 16 then { l with poison := markWords l.poison [w % 16], carried := markWords l.carried [w % 16] } else l }
    else { st with slices := st.slices.map fun (l : SliceLine) =>
          if l.line == w / 16 then { l with poison := markWords l.poison [w % 16], carried := markWords l.carried [w % 16] } else l }
  | .cache cid line w => if !validCid cid then st else st.modCore cid fun k =>
      { k with dcache := k.dcache.map fun l =>
        if l.line == line then { l with poison := markWords l.poison [w % 16], carried := markWords l.carried [w % 16] } else l }
  | .lmem cid w => if validCid cid && w < 65536 then st.modCore cid fun k => { k with lpoison := NatSet.add k.lpoison w } else st
  | .context key => match st.ctx key with
    | some c => st.loseCtx c (st.gid c.start) 0 none
    | none => st
  | .element g _ _ => if g < 336 then st.modCluster g fun x => x.upset u else st
  | .checksum g _ _ _ => if g < 336 then st.modCluster g fun x => x.upset u else st
  | .sat g _ => if g < 336 then st.modCluster g fun x => x.upset u else st
  | .scalar key _ _ => st.modCtx key fun c => c.upset u
  | .vector key _ _ => st.modCtx key fun c => c.upset u
  | .mask key _ _ => st.modCtx key fun c => c.upset u
  | .descriptor key _ _ => st.modCtx key fun c => c.upset u
  | .window key _ _ => st.modCtx key fun c => c.upset u
  | .invariant key _ _ => st.modCtx key fun c => c.upset u

end Sys2Proof.Machine
end

