-- ==== Sys2Proof/Machine/HostPort.lean ====
section
/-! DEFINITION. The host port, the loss of an owner and the switch of relay banks (R353, R357, R358, R365, R366). -/

namespace Sys2Proof.Machine

/-! ## Reads and writes of the host (R269, R358, R373) -/

/-- The physical address of an offset in BAR2 or BAR4 (R358). -/
def State.barAddr (st : State) (bar off : Nat) : Nat := st.pkg * 2 ^ 47 + (if bar == 2 then 0 else 2 ^ 45) + off

/-- Bytes that a base address register maps (R358). -/
def barSize (bar : Nat) : Nat :=
  match bar with
  | 0 => 2 ^ 26
  | 2 => 2 ^ 39
  | 4 => 2 ^ 42
  | _ => 0

/-- Bytes of an access of `n` bytes at an offset that exist behind a base address register (R358). -/
def State.barReach (st : State) (bar off n : Nat) : Nat := if bar == 4 then min n (st.cfg.farSize - off) else n

/-- The lines that some bytes touch. -/
def linesOf (pa n : Nat) : List Nat := if n == 0 then [] else (List.range ((pa + n - 1) / 128 - pa / 128 + 1)).map (pa / 128 + ·)

/-- `HOST_READ` (R269, R358, R373): registers through BAR0, near DRAM through BAR2, the far tier through BAR4; beyond its end it reads ones. The
home cores' dirty copies are written back first. -/
def execHostRead (bar off n : Nat) (st : State) : Out :=
  if !st.own.hostUp || barSize bar < off + n then idle "HOST_READ"
  else if bar == 0 then .next { st with host := { st.host with read := st.readRegBytes off n, readPoison := false } }
  else
    let m := st.barReach bar off n
    let pa := st.barAddr bar off
    let st := (linesOf pa m).foldl (fun (s : State) l => s.writeBack (s.home (128 * l)) l) st
    let r := State.sReadBytes (m + 1) st pa m
    .next { r.1 with host := { r.1.host with read := r.2.1 ++ List.replicate (n - m) 255, readPoison := r.2.2.isSome } }

/-- `HOST_WRITE` (R358, R365): a write to device memory is performed at the home slice, after the home core's copy has gone; one that is
not the owner's, and what lies beyond the far tier, is dropped. -/
def execHostWrite (bar off : Nat) (data : List Byte) (st : State) : Out :=
  if !st.own.hostUp || barSize bar < off + data.length then idle "HOST_WRITE"
  else if bar == 0 then .next (State.writeRegBytes (.master .host) (data.length + 1) st off data)
  else if st.own.owner != masterNum .host then .next st
  else
    let l := data.take (st.barReach bar off data.length)
    let pa := st.barAddr bar off
    let st := (linesOf pa l.length).foldl (fun (s : State) x => s.flushLine (s.home (128 * x)) x) st
    .next (State.sWriteBytes (l.length + 1) st pa l)

/-! ## Loss of an owner (R366) -/

/-- Is the owner lost now? -/
def State.ownerLost (st : State) : Bool :=
  match st.own.owner with
  | 1 => !st.own.hostUp
  | 2 => !st.own.heartbeat
  | 3 => st.fab.peers.contains st.own.podPkg || (st.own.podPkg != st.pkg && !bankPresent (st.fab.bankOf st.fab.cur) st.own.podPkg)
  | _ => false

/-- Notes when the loss of the owner began, or that it has ended. -/
def State.noteLoss (st : State) : State :=
  { st with own := { st.own with lostSince := if st.ownerLost then some (st.own.lostSince.getD st.time) else none } }

/-- `HOST_LINK_DOWN` (R366). -/
def execHostLinkDown (st : State) : Out :=
  if st.own.hostUp then .next { st with own := { st.own with hostUp := false } }.noteLoss else idle "HOST_LINK_DOWN"

/-- `HOST_LINK_TRAINING` (R357, R366): the link comes up, or trains again. -/
def execHostLinkTraining (st : State) : Out := .next { st with own := { st.own with hostUp := true } }.noteLoss

/-- `SIDEBAND_HEARTBEAT` (R366). -/
def execSidebandHeartbeat (present : Bool) (st : State) : Out := .next { st with own := { st.own with heartbeat := present } }.noteLoss

/-- `OWNER_LOSS` (R366): the loss has lasted `OWNTO`. -/
def execOwnerLoss (st : State) : Out :=
  match st.own.lostSince with
  | some t => if st.ownerLost && t + 3000000 * st.own.timeout ≤ st.time then .next (st.setOwner 0) else idle "OWNER_LOSS"
  | none => idle "OWNER_LOSS"

/-! ## The switch of banks (R353) -/

/-- `BANK_SWITCH` (R353): at the armed cycle, or at the next slot boundary when that cycle had come at the arming write. -/
def execBankSwitch (st : State) : Out :=
  if st.switchDue then
    .next { st with fab := { st.fab with cur := st.fab.next, oldLive := true, arm := false } }.noteLoss
  else idle "BANK_SWITCH"

end Sys2Proof.Machine
end

