-- ==== Sys2Proof/Machine/Packets.lean ====
section
/-! DEFINITION. Packets of the fabric that arrive, and the timers of those that were sent (R208, R257, R283, R299, R344 to R355, R365 to R367,
R372). -/

namespace Sys2Proof.Machine

/-! ## Receiving (R345, R347) -/

/-- How far a number lies above the base of a window, modulo 2^32. -/
def RxWin.ahead (w : RxWin) (n : Nat) : Nat := (n + 2 ^ 32 - w.base) % 2 ^ 32

/-- Is a number within the window of a source, and new (R347)? -/
def RxWin.fresh (w : RxWin) (n : Nat) : Bool := w.ahead n < 4096 && !w.above.contains n

/-- Has a number been received: it lies below the base, or in the bitmap (R347)? -/
def RxWin.has (w : RxWin) (n : Nat) : Bool := 2 ^ 31 ≤ w.ahead n || w.above.contains n

/-- Moves the base of a window up while its number has been received. -/
def RxWin.slide : Nat → RxWin → RxWin
  | 0, w => w
  | k + 1, w => if w.above.contains w.base then RxWin.slide k ⟨(w.base + 1) % 2 ^ 32, NatSet.del w.above w.base⟩ else w

/-- Notes a number as received. -/
def RxWin.take (w : RxWin) (n : Nat) : RxWin := RxWin.slide 4097 ⟨w.base, NatSet.add w.above n⟩

/-- The window of a source. -/
def Fabric.window (f : Fabric) (src : Nat) : RxWin := f.rx.getD src ⟨0, []⟩

/-- Notes the end-to-end number of a packet that is accepted, and acknowledges it (R347). -/
def State.acceptPacket (st : State) (p : Packet) : State :=
  ({ st with fab := { st.fab with rx := st.fab.rx.put p.src ((st.fab.window p.src).take p.eseq) } }).acknowledge p.src p.eseq

/-- Counts a malformed packet (R345). -/
def State.badPacket (st : State) : State := { st with fab := { st.fab with bad := min 255 (st.fab.bad + 1) } }

/-- A packet for this package of one kind (R345, R347, R356): malformed ones are discarded and counted; without a valid bank only `CTRL` is
accepted; one that is held already is only acknowledged again, and one that lies beyond the window is not accepted. -/
def State.receive (st : State) (p : Packet) (kind : Nat) (name : String) (f : State → State) : Out :=
  if p.dst != st.pkg then idle name
  else if p.reserved != 0 || 14 ≤ p.kind then .next st.badPacket
  else if p.kind != kind then idle name
  else if kind != 12 && !st.fab.validA && !st.fab.validB then .next st
  else if (st.fab.window p.src).has p.eseq then .next (st.acknowledge p.src p.eseq)
  else if !(st.fab.window p.src).fresh p.eseq then .next st
  else .next (f (st.acceptPacket p))

/-! ## Flows restored to order (R346) -/

/-- Puts a packet of a flow with those that wait. -/
def State.joinFlow (st : State) (src ctx chan : Nat) (p : Packet) : State :=
  let f := (st.fab.flows.find? fun (x : Flow) => x.src == src && x.srcCtx == ctx && x.chan == chan).getD ⟨src, ctx, chan, 0, []⟩
  let rest := st.fab.flows.filter fun (x : Flow) => !(x.src == src && x.srcCtx == ctx && x.chan == chan)
  { st with fab := { st.fab with flows := rest ++ [{ f with waiting := f.waiting ++ [p] }] } }

/-- Takes the next packet of a flow, if it has come. -/
def Flow.next? (f : Flow) : Option (Packet × Flow) :=
  (f.waiting.find? fun (p : Packet) => p.tag == f.next).map fun p =>
    (p, { f with next := (f.next + 1) % 2 ^ 32, waiting := f.waiting.filter fun (q : Packet) => q.tag != p.tag })

/-- Replaces a flow. -/
def State.setFlow (st : State) (f : Flow) : State :=
  { st with fab := { st.fab with flows := st.fab.flows.map fun (x : Flow) =>
      if x.src == f.src && x.srcCtx == f.srcCtx && x.chan == f.chan then f else x } }

/-- Performs the packets of a flow in order, as far as they have come and `can` allows. -/
def State.drainFlow (can : State → Packet → Bool) (go : State → Packet → State) (src ctx chan : Nat) : Nat → State → State
  | 0, st => st
  | k + 1, st =>
    match st.fab.flows.find? fun (x : Flow) => x.src == src && x.srcCtx == ctx && x.chan == chan with
    | none => st
    | some f =>
      match f.next? with
      | some (p, f) => if can st p then State.drainFlow can go src ctx chan k (go (st.setFlow f) p) else st
      | none => st

/-! ## Messages (R257, R326, R346) -/

/-- The guest launch for message `n` of a launch and layer of another package: an existing one that still runs, or a new one (R326). -/
def State.guestFor (st : State) (src lid net tenant seq : Nat) : State × Nat :=
  match st.launches.find? fun (e : Nat × Launch) => e.2.guest == some (src, lid) && e.2.net == net && e.2.phase == .live with
  | some e => (st.modLaunch e.1 fun x => { x with taken := x.taken ++ [seq], sweep := none }, e.1)
  | none =>
    let n := st.nextLaunch
    let x : Launch :=
      { stream := 16, seq := 0, isLaunch := true, net := net, tenant := tenant, pid := (st.tenant tenant).pid, prio := 0, deps := [], dependent := false, slot := 0, handler := 0,
        payload := [], phase := .live, fault := none, tplace := some st.ns, tend := 0, counters := List.replicate 16 (0, 0), layers := [],
        sweep := none, aborting := false, guest := some (src, lid), taken := [seq] }
    ({ st with launches := st.launches.put n x, nextLaunch := n + 1 }, n)

/-- Starts the way of a message within this package, or discards it: then a failure packet goes back, and the message is reported as quiesced
(R257, R354; log 49). The level of the sender is not asked here (DESIGN CHOICE, log 114). -/
def State.takeMsg (st : State) (p : Packet) : State :=
  match p.body with
  | .msg chan cid net ctx bytes =>
    let lid := ctx / 2 ^ 18 * 16 + layerOf (ctx % 2 ^ 18 / 64)
    let owned := ((st.nets.find net).filter fun (n : Net) => n.tenant == p.tenant).bind fun n => (n.chans[chan]?).filter fun a => a.limit != 0
    if owned.isNone || 15 ≤ chan || !validCid cid then
      (st.sendFailure p.src st.pkg).send p.src 11 0 p.tenant 0 (.qrep lid [p.eseq]) none
    else
      let r := st.guestFor p.src lid net p.tenant p.eseq
      let m : Msg :=
        { id := r.1.stamp, launch := r.2, net := net, tenant := p.tenant, src := cid, cid := cid, chan := chan, bytes := bytes, entered := 0,
          mseq := 0, uid := 2 ^ 80 + p.src * 2 ^ 64 + ctx, guest := some (p.src, lid), pkg := none }
      { r.1 with msgs := r.1.msgs ++ [m] }.tickStamp
  | _ => st

/-- `MSG` (R257, R346). -/
def execMsg (p : Packet) (st : State) : Out :=
  st.receive p 0 "MSG" fun st =>
    match p.body with
    | .msg chan cid _ ctx _ =>
      let key := chan * 4096 + cid
      State.drainFlow (fun _ _ => true) State.takeMsg p.src ctx key 4097 (st.joinFlow p.src ctx key p)
    | _ => st

/-! ## Peer lines at their owner (R283, R299, R345) -/

/-- Slices of this package keep 4,096 directory entries each (R299). -/
def State.dirFull (st : State) (line : Nat) : Bool :=
  let g := clusterOf (st.home (128 * line))
  (st.dir.find line).isNone && 4096 ≤ (st.dir.filter fun (e : Nat × DirEntry) => clusterOf (st.home (128 * e.1)) == g).length

/-- Adds a holder: with a fifth, the entry turns to broadcast (R299). -/
def DirEntry.add (d : DirEntry) (p : Nat) : DirEntry :=
  if d.broadcast || d.holders.contains p then d
  else if d.holders.length < 4 then { d with holders := d.holders ++ [p] }
  else ⟨[], true⟩

/-- Recalls the holders of a line of a full slice, for a request of a tenant, and awaits their write-backs; the victim is open (R299, R344; log 5). -/
def State.recallVictim (st : State) (line tenant : Nat) : State :=
  let g := clusterOf (st.home (128 * line))
  let l := st.dir.filter fun (e : Nat × DirEntry) => clusterOf (st.home (128 * e.1)) == g
  match l[Config.pick st.frees % l.length]? with
  | some v =>
    if st.lineAwaited v.1 then st
    else
      (st.holdersOf v.1).foldl (fun (s : State) p =>
        let w : Await := { id := s.stamp, peer := p, since := s.podTime, acc := none, red := none, copy := none, line := some v.1 }
        let s := s.send p 5 0 tenant (s.stamp % 2 ^ 32) (.recallLine v.1) none
        { s with fab := { s.fab with awaits := s.fab.awaits ++ [w] } }) { st with frees := st.frees + 1 }
  | none => st

/-- A holder has answered a recall, or given up a line: the entry is freed when no answer is awaited any more (R299). -/
def State.dropHolder (st : State) (line p : Nat) : State :=
  let st := { st with fab := { st.fab with awaits := st.fab.awaits.filter fun (a : Await) => !(a.line == some line && a.peer == p) } }
  match st.dir.find line with
  | some (d : DirEntry) =>
    let h := d.holders.filter fun x => x != p
    if st.lineAwaited line then { st with dir := st.dir.put line { d with holders := h } }
    else if h.isEmpty || d.broadcast then { st with dir := Map.del st.dir line }
    else { st with dir := st.dir.put line { d with holders := h } }
  | none => st

/-- Is an address one that this package owns and that exists? -/
def State.ownsByte (st : State) (pa : Nat) : Bool := paSpace pa < 2 && paPkg pa == st.pkg && !st.nonexistent pa

/-- Reads a line at S with its poison bits. -/
def State.readLine (st : State) (line : Nat) : State × List Byte × Nat :=
  let r := st.sRead (128 * line) 128
  (r.1, bytesOf 128 r.2.1, (r.1.sMarks line).toNat)

/-- `LREQ` (R283, R299, R345): the line is answered and the requester noted as a holder. A full directory recalls a victim first: the packet is
then not accepted, and its sender tries again. -/
def execLreq (p : Packet) (st : State) : Out :=
  match p.body with
  | .lreq line =>
    if p.dst == st.pkg && p.kind == 1 && p.reserved == 0 && st.ownsByte (128 * line) && st.dirFull line &&
        (st.fab.window p.src).fresh p.eseq then .next (st.recallVictim line p.tenant)
    else st.receive p 1 "LREQ" fun st =>
      if !st.ownsByte (128 * line) then st
      else
        let r := st.readLine line
        let d := (r.1.dir.getD line ⟨[], false⟩).add p.src
        { r.1 with dir := r.1.dir.put line d }.send p.src 2 2 p.tenant p.tag (.ldata line r.2.1 r.2.2 false) none
  | _ => st.receive p 1 "LREQ" id

/-- A slice copy as an answer brings it, which takes room in the slice (R298): the data comes under the dirty bytes that the slice holds
already. It is as old as the request that it answers: an acquire since then does not take it (R278). -/
def State.installLine (st : State) (line : Nat) (data : BitVec 1024) (poison : BitVec 16) : State :=
  let asked := ((st.fab.awaits.find? fun (a : Await) => a.line == some line).map fun (a : Await) => a.id).getD st.stamp
  let st := if (st.peerLine line).isSome then st else st.sliceRoom line
  let n : PeerLine :=
    match st.peerLine line with
    | some o =>
      let d := (List.range 128).foldl (fun (d : BitVec 1024) i =>
        if o.dirty.getLsbD i then linePut d i (bytesOf 1 (lineGet o.data i 1)) else d) data
      let q := (List.range 16).foldl (fun (q : BitVec 16) w =>
        let q := if bits o.dirty.toNat (8 * w) 8 == 255 then q &&& ~~~(1#16 <<< w) else q
        if o.carried.getLsbD w && bits o.dirty.toNat (8 * w) 8 != 0 then markWords q [w] else q) poison
      { o with data := d, poison := q, filled := asked, valid := true }
    | none => { line := line, data := data, dirty := 0, poison := poison, carried := 0, filled := asked, valid := true }
  { st with
    peerLines := (st.peerLines.filter fun (x : PeerLine) => x.line != line) ++ [n]
    fab := { st.fab with awaits := st.fab.awaits.filter fun (a : Await) => a.line != some line } }.tickStamp

/-- Is a packet the answer to a request for a line, told by its source and its `TAG` (R344)? -/
def State.lineAsked (st : State) (line : Nat) (p : Packet) : Bool :=
  st.fab.awaits.any fun (a : Await) => a.line == some line && a.peer == p.src && a.id % 2 ^ 32 == p.tag

/-- `LDATA` (R283, R344, R345, R372): the answer to an `LREQ` fills the slice copy; the answer to a recall frees the holder. One to a request
that is not awaited any more, such as one from before an acquire at `.pod` (R278), is not taken. -/
def execLdata (p : Packet) (st : State) : Out :=
  st.receive p 2 "LDATA" fun st =>
    match p.body with
    | .ldata line bytes poison answer =>
      if !st.lineAsked line p then st
      else if answer then st.dropHolder line p.src
      else if st.isPeer (128 * line) then
        st.installLine line (BitVec.ofNat 1024 (ofBytes bytes)) (BitVec.ofNat 16 poison)
      else st
    | _ => st

/-- `LWB` (R283, R299, R344, R372): the dirty bytes are merged, and every other holder is sent an invalidation; the answer to a recall frees the
holder, and the entry of a line that is recalled stays until every answer has come. -/
def execLwb (p : Packet) (st : State) : Out :=
  st.receive p 3 "LWB" fun st =>
    match p.body with
    | .lwb line mask bytes poison =>
      if !st.ownsByte (128 * line) then st
      else
        let held := (st.holdersOf line).contains p.src
        let st := st.invalidateHolders line (some p.src) p.tenant
        let st := { st with dir := Map.del st.dir line }
        let st := st.sWriteMasked line (BitVec.ofNat 1024 (ofBytes bytes)) (BitVec.ofNat 128 mask) (BitVec.ofNat 16 poison)
        let st := if held || st.lineAwaited line then { st with dir := st.dir.put line ⟨if held then [p.src] else [], false⟩ } else st
        if st.lineAsked line p then st.dropHolder line p.src else st
    | _ => st

/-- `INV` (R299, R345). -/
def execInv (p : Packet) (st : State) : Out :=
  st.receive p 4 "INV" fun st =>
    match p.body with
    | .inv line => if st.isPeer (128 * line) then st.dropPeerLine line else st
    | _ => st

/-- `RECALL` (R299, R344, R345): the holder writes its dirty bytes back, or answers with the line as it holds it, under the request's `TAG`. -/
def execRecallPkt (p : Packet) (st : State) : Out :=
  st.receive p 5 "RECALL" fun st =>
    match p.body with
    | .recallLine line =>
      if !st.isPeer (128 * line) then st
      else
        let st := st.flushLine (st.home (128 * line)) line
        let l := (st.peerLine line).getD ⟨line, 0, 0, 0, 0, 0, false⟩
        if l.dirty != 0 then (st.writeBackAs l p.tenant p.tag).forgetPeer line
        else (st.forgetPeer line).send p.src 2 2 p.tenant p.tag (.ldata line (bytesOf 128 l.data.toNat) l.poison.toNat true) none
    | _ => st

/-- `WREQ` (R283, R345): the store is performed at this package's slice and answered. -/
def execWreq (p : Packet) (st : State) : Out :=
  st.receive p 6 "WREQ" fun st =>
    match p.body with
    | .wreq pa size val =>
      if st.ownsByte pa then
        ((st.invalidateHolders (pa / 128) none p.tenant).sWrite pa (bytesOf size val)).send p.src 8 0 p.tenant p.tag (.arsp 0 false) none
      else st
    | _ => st

/-- `AREQ` (R206, R345, R373): the operation is performed at this package's slice. One on a poisoned word leaves memory unchanged; a reduction
is then discarded and logged, and the reply to an atomic tells the poison, and whether it is its second word that is poisoned first (log 50). -/
def execAreq (p : Packet) (st : State) : Out :=
  st.receive p 7 "AREQ" fun st =>
    match p.body with
    | .areq pa op size val cmp red =>
      if !st.ownsByte pa then st
      else
        let st := st.flushLine (st.home pa) (pa / 128)
        let r := st.sRead pa size
        let new := if op == 16 then (if r.2.1 == cmp then val else r.2.1) else amoValue op size r.2.1 val
        if r.2.2 then
          if red then (r.1.logEvent 3 (pa / 8 * 8)).send p.src 8 0 p.tenant p.tag (.arsp 0 false) none
          else r.1.send p.src 8 0 p.tenant p.tag (.arsp (b2n (size == 16 && !(st.sRead pa 8).2.2)) true) none
        else ((r.1.invalidateHolders (pa / 128) none p.tenant).sWrite pa (bytesOf size new)).send p.src 8 0 p.tenant p.tag (.arsp r.2.1 false) none
    | _ => st

/-! ## The end of a message to another package (R257, R326, R347) -/

/-- Counts the end of a message to another package, once: its work has quiesced there, or it was dropped, which does not exclude that it
was performed (R326, R347; log 49). -/
def State.settleMsg (st : State) (dst lid n : Nat) : State :=
  if st.fab.settled.contains (dst, n) then { st with fab := { st.fab with settled := removeFirst (fun x => x == (dst, n)) st.fab.settled } }
  else
    let st := { st with fab := { st.fab with settled := st.fab.settled ++ [(dst, n)] } }
    if (st.launches.find (lid / 16)).isSome then st.countRecv (lid % 16) (lid / 16) else st

/-! ## Replies (R208, R354) -/

/-- Removes an awaited reply. -/
def State.dropAwait (st : State) (a : Await) : State :=
  { st with fab := { st.fab with awaits := st.fab.awaits.filter fun (x : Await) => x.id != a.id } }

/-- Ends an access that is answered by a peer: a store when none of its requests is awaited and none is left to be sent (R202), an atomic with a
value. -/
def State.answerAccess (st : State) (n old : Nat) (lost : Bool) : State :=
  match st.acc n with
  | none => st
  | some a =>
    match a.op, a.elems with
    | .store, l =>
      if st.fab.awaits.any fun (x : Await) => x.acc == some n then st
      else
        let rest := (firstAt [] l).2
        if rest.isEmpty then st.dropAcc a else st.setAcc { a with elems := rest, sent := false }
    | _, x :: _ => st.finishAtomic a (atomicAnswer (if lost then { a with sx := true } else a) x.size old)
    | _, [] => st

/-- Removes the reduction that a reply completes. -/
def State.answerRed (st : State) (n : Nat) : State :=
  { st with cores := st.cores.map fun (p : Nat × Core) => (p.1, { p.2 with reds := p.2.reds.filter fun (r : Red) => r.id != n }) }

/-- An atomic whose object word at another package is poisoned: its context consumes it (R373); `v` is 1 where that is the second word of a
pair. -/
def State.poisonedReply (st : State) (n v : Nat) : State :=
  match st.acc n with
  | none => st
  | some a =>
    match st.byUid a.uid, a.elems with
    | some c, x :: _ => (st.dropAcc a).consumePoison c (badWord x.va x.size (v == 0))
    | _, _ => st.dropAcc a

/-- `ARSP` (R345, R373): an atomic reply, or the completion of a `WREQ` or a reduction. -/
def execArsp (p : Packet) (st : State) : Out :=
  st.receive p 8 "ARSP" fun st =>
    match p.body, st.fab.awaits.find? fun (a : Await) => a.peer == p.src && a.id % 2 ^ 32 == p.tag && (a.acc.isSome || a.red.isSome) with
    | .arsp v bad, some a =>
      let st := st.dropAwait a
      (match a.acc, a.red with
        | some n, _ => if bad then st.poisonedReply n v else st.answerAccess n v false
        | none, some n => st.answerRed n
        | none, none => st)
    | _, _ => st

/-- Ends a remote copy with what its target or the fabric reports: a failure of its own side came first where it met one (R233). The bytes that
were delivered credit its work (R228), and `PEER` sets the peer's error bit. -/
def State.endRemote (st : State) (n : Nat) (why : Nat × Nat × Nat) (got : Nat) : State :=
  match st.copy n with
  | some x =>
    let own := if why.1 == 0 then x.own else some why
    let st := if why.1 == 5 then st.flagPeer (x.xpkg.getD st.pkg) else st
    (st.creditCopy x got).endCopy { x with own := own, got := got, credited := got / 256 }
  | none => st

/-- Is a packet of a copy kept, that is, not acknowledged yet? -/
def State.copyKept (st : State) (n tag : Nat) : Bool :=
  st.fab.kept.any fun (k : Kept) => match k.pkt.body with
    | .cpydata _ _ _ _ m _ => m / 4096 == n && k.pkt.tag == tag
    | _ => false

/-- Ends a remote copy that the fabric could not complete (R233): its packets are applied in order, so those before the one that was dropped and
that were acknowledged were delivered; the first address of the first of the others is the first failing one. Without a dropped packet, none of
the acknowledged ones failed, and the last of them stands for the answer that did not come (DEDUCED, log 49). -/
def State.loseRemote (st : State) (n : Nat) (dropped : Option Nat) : State :=
  match st.copy n with
  | some x =>
    let good := x.legs.takeWhile fun l => some l.1 != dropped && !st.copyKept n l.1
    let rest := x.legs.drop good.length
    st.endRemote n (5, 0, (((rest.head?).or good.getLast?).map fun l => l.2.2).getD 0) (good.map fun l => l.2.1).sum
  | none => st

/-- What fails when a reply does not come (R208, R233, R299, R354). A slice copy that cannot be had is filled with open data (log 27). -/
def State.failAwait (st : State) (a : Await) : State :=
  let st := (st.flagPeer a.peer).dropAwait a
  let st := match a.acc with
    | some n => st.answerAccess n (2 ^ 128 - 1) true
    | none => st
  let st := match a.red with
    | some n => st.answerRed n
    | none => st
  let st := match a.copy with
    | some n => st.loseRemote n none
    | none => st
  match a.line with
  | some l =>
    if st.isPeer (128 * l) then
      { st with frees := st.frees + 1 }.installLine l (BitVec.ofNat 1024 (Config.lostRead st.frees)) 0
    else st.dropHolder l a.peer
  | none => st

/-- `REPLY_TIMEOUT` (R354): a reply has not come within `TWTO`. -/
def execReplyTimeout (st : State) : Out :=
  match st.fab.awaits.find? fun (a : Await) => a.id == st.item with
  | some a => if a.since + 1000 * st.fab.rto ≤ st.podTime then .next (st.failAwait a) else idle "REPLY_TIMEOUT"
  | none => idle "REPLY_TIMEOUT"

/-! ## Remote copies at their target (R224, R231, R233, R346, R372, R387) -/

/-- Why the byte at a local address of a core takes no delivery: a fault (R231). -/
def Core.rxFault (k : Core) (uid a : Nat) : Option Nat :=
  if beyondLocal a 1 then some 0x06 else if k.guarded uid a 1 then some 0x09 else if k.tagged a 1 then some 0x0C else none

/-- The failure of a delivery at the target, and the bytes before it, which are delivered (R231, R233). For a target core that has failed the manual
names no status: it is `PEER`, a DESIGN CHOICE (log 89). A fault of the
first byte that fails comes before the loss of the barrier (DESIGN CHOICE, log 39). -/
def State.rxCheck (st : State) (cid : Nat) (l : List (Nat × Byte)) (bar : Option Nat) : List (Nat × Byte) × Option (Nat × Nat × Nat) :=
  let k := st.core cid
  let first := ((l.head?).map Prod.fst).getD 0
  if l.isEmpty then ([], none)
  else if k.failed then ([], some (5, 0, first))
  else
    let good := l.takeWhile fun p => (k.rxFault st.stamp p.1).isNone
    let why := ((l.drop good.length).head?).bind fun p => (k.rxFault st.stamp p.1).map fun f => (1, f, p.1)
    if st.barGone cid bar then ([], some (why.getD (2, 0, first))) else (good, why)

/-- Replaces what is known of a remote copy. -/
def State.setRx (st : State) (x : RxCopy) : State :=
  { st with fab := { st.fab with rxCopies := (st.fab.rxCopies.filter fun (y : RxCopy) => !(y.src == x.src && y.copy == x.copy)) ++ [x] } }

/-- Tells the source of a remote copy how it ended (R233, R345), in answer to the packet with a tag (R344). -/
def State.tellCopy (st : State) (tenant tag : Nat) (x : RxCopy) : State :=
  let f := x.fail.getD (0, 0, 0)
  { st with fab := { st.fab with rxCopies := st.fab.rxCopies.filter fun (y : RxCopy) => !(y.src == x.src && y.copy == x.copy) } }.send x.src 10 0
    tenant tag (.cpydone x.copy f.1 f.2.1 x.got f.2.2) none

/-- Applies the data of a packet in its turn: a failure other than the loss of the barrier stops the copy (R231, R233). -/
def State.takeCopy (st : State) (p : Packet) : State :=
  match p.body with
  | .cpydata cid bytes bad bar n last =>
    let x := (st.fab.rxCopies.find? fun (y : RxCopy) => y.src == p.src && y.copy == n).getD ⟨p.src, n, 0, none⟩
    let stopped := x.fail.any fun f => f.1 != 2
    let r : State × RxCopy :=
      if stopped then (st, x)
      else
        let y := st.rxCheck cid bytes bar
        let x := { x with fail := x.fail.or y.2, got := x.got + y.1.length }
        if y.1.isEmpty then (st, x)
        else
          let words := bad.filter fun w => y.1.any fun b => b.1 / 8 == w
          ((st.deliverAll cid (mergeRuns (y.1.map fun b => (b.1, [b.2]))) (words.map fun w => (8 * w, 8))).countDelivery cid bar y.1.length, x)
    if last then r.1.tellCopy p.tenant p.tag r.2 else r.1.setRx r.2
  | _ => st

/-- Is the target core of a delivery awake (R387)? -/
def State.copyAwake (st : State) (p : Packet) : Bool :=
  match p.body with
  | .cpydata cid _ _ _ _ _ => !(st.core cid).gated
  | _ => true

/-- The number of a flow of copy data beside those of messages. -/
def copyChan : Nat := 2 ^ 17

/-- `CPYDATA` (R231, R346). -/
def execCpydata (p : Packet) (st : State) : Out :=
  st.receive p 9 "CPYDATA" fun st =>
    match p.body with
    | .cpydata _ _ _ _ n _ =>
      let key := n % 4096
      State.drainFlow State.copyAwake State.takeCopy p.src key copyChan 4097 (st.joinFlow p.src key copyChan p)
    | _ => st

/-- Applies what waited for cores that are awake now (R387). -/
def State.drainCopies (st : State) : State :=
  (st.fab.flows.filter fun (f : Flow) => f.chan == copyChan).foldl (fun (s : State) (f : Flow) =>
    State.drainFlow State.copyAwake State.takeCopy f.src f.srcCtx copyChan 4097 s) st

/-- `CPYDONE` (R233, R345). -/
def execCpydone (p : Packet) (st : State) : Out :=
  st.receive p 10 "CPYDONE" fun st =>
    match p.body with
    | .cpydone n status fault got faddr =>
      let id' := n / 4096
      let st := { st with fab := { st.fab with awaits := st.fab.awaits.filter fun (a : Await) => a.copy != some id' } }
      st.endRemote id' (status, fault, faddr) got
    | _ => st

/-! ## Reports, masters, acknowledgements -/

/-- `QREP` (R326). -/
def execQrep (p : Packet) (st : State) : Out :=
  st.receive p 11 "QREP" fun st =>
    match p.body with
    | .qrep lid l => l.foldl (fun s n => s.settleMsg p.src lid n) st
    | _ => st

/-- `CTRL` (R356, R365, R366): the pod manager reads or writes a register; the package that it claims ownership from is noted. -/
def execCtrl (p : Packet) (st : State) : Out :=
  st.receive p 12 "CTRL" fun st =>
    match p.body with
    | .ctrl off (some v) =>
      (State.writeRegBytes (.master .pod) 2 st (off / 8 * 8) (bytesOf 8 v.toNat)).notePod st p.src
    | .ctrl off none => st.send p.src 12 0 0 p.tag (.ctrl off (some (BitVec.ofNat 64 (st.readReg (off / 8 * 8))))) none
    | _ => st

/-- `ACK` (R347, R349, R356): the packet is kept no longer, and relay credits come back. A message that can be dropped no more is not counted
twice. -/
def execAck (p : Packet) (st : State) : Out :=
  if p.dst != st.pkg then idle "ACK"
  else if p.reserved != 0 || 14 ≤ p.kind then .next st.badPacket
  else match p.kind, p.body with
    | 13, .ack n credits =>
      if !st.fab.validA && !st.fab.validB then .next st
      else .next { st with fab := { st.fab with
        kept := st.fab.kept.filter fun (k : Kept) => !(k.pkt.dst == p.src && k.pkt.eseq == n)
        settled := st.fab.settled.filter fun x => !(x == (p.src, n) && st.fab.kept.any fun (k : Kept) => k.pkt.dst == p.src && k.pkt.eseq == n)
        credit := st.fab.credit.put p.src (st.fab.credit.getD p.src 0 - credits) } }
    | _, _ => idle "ACK"

/-! ## Relays (R348, R349, R352) -/

/-- Flits held in the basin for a source. -/
def Fabric.share (f : Fabric) (src : Nat) : Nat := ((f.basin.filter fun (h : Held) => h.pkt.src == src).map fun h => h.pkt.len + 1).sum

/-- `RELAY_RECEIVE` (R348, R349, R352): a packet for another package is held in the share of its source. One stamped with a bank that is not
valid here is refused, with its credit, and one that has been relayed already is discarded. -/
def execRelayReceive (p : Packet) (st : State) : Out :=
  if p.dst == st.pkg then idle "RELAY_RECEIVE"
  else if p.reserved != 0 || 14 ≤ p.kind then .next st.badPacket
  else if p.relayed then .next st
  else if !st.fab.valid p.bank then .next (st.refuseRelay p)
  else if 2048 < st.fab.share p.src + p.len + 1 then idle "RELAY_RECEIVE"
  else
    let h : Held := { id := st.stamp, pkt := { p with relayed := true } }
    .next { st with fab := { st.fab with basin := st.fab.basin ++ [h] } }.tickStamp

/-- `RELAY_FORWARD` (R348, R349, R354): the oldest packet held for its destination leaves in a fitting light, or is discarded when it cannot be
forwarded, which its source is told; its flits are owed to its source. -/
def execRelayForward (st : State) : Out :=
  match st.fab.basin.find? fun (h : Held) => h.id == st.item with
  | none => idle "RELAY_FORWARD"
  | some h =>
    let b := st.fab.bankOf h.pkt.bank
    let fits := if bankPresent b h.pkt.dst then st.fitsHere b h.pkt.dst st.podTime else none
    let gone : State := { st with fab := { st.fab with
      basin := st.fab.basin.filter fun (x : Held) => x.id != h.id
      owed := st.fab.owed.put h.pkt.src (st.fab.owed.getD h.pkt.src 0 + h.pkt.len + 1) } }
    if st.fab.basin.any fun (x : Held) => x.pkt.dst == h.pkt.dst && x.id < h.id then idle "RELAY_FORWARD"
    else match fits with
      | none => .next (gone.sendFailure h.pkt.src h.pkt.dst)
      | some t => if t == st.podTime then .next gone else idle "RELAY_FORWARD"

/-! ## Packets that were sent (R347, R348, R352, R354) -/

/-- The kept packet with an identifier. -/
def State.keptBy (st : State) (n : Nat) : Option Kept := st.fab.kept.find? fun (k : Kept) => k.id == n

/-- Replaces a kept packet. -/
def State.setKept (st : State) (k : Kept) : State := { st with fab := { st.fab with kept := replaceFirst (fun (x : Kept) => x.id == k.id) k st.fab.kept } }

/-- The operation behind a packet that is dropped fails (R208, R233, R257, R299, R354). A message that is dropped is on its way no more (log 49). -/
def State.failPacket (st : State) (k : Kept) : State :=
  let st := { st with fab := { st.fab with kept := st.fab.kept.filter fun (x : Kept) => x.id != k.id } }.flagPeer k.pkt.dst
  let byTag := st.fab.awaits.filter fun (a : Await) => a.peer == k.pkt.dst && a.id % 2 ^ 32 == k.pkt.tag && (a.acc.isSome || a.red.isSome)
  match k.pkt.body with
  | .msg _ _ _ ctx _ => st.settleMsg k.pkt.dst (ctx / 2 ^ 18 * 16 + layerOf (ctx % 2 ^ 18 / 64)) k.pkt.eseq
  | .lreq line => (st.fab.awaits.filter fun (a : Await) => a.line == some line && a.peer == k.pkt.dst).foldl State.failAwait st
  | .recallLine line => (st.fab.awaits.filter fun (a : Await) => a.line == some line && a.peer == k.pkt.dst).foldl State.failAwait st
  | .wreq .. => byTag.foldl State.failAwait st
  | .areq .. => byTag.foldl State.failAwait st
  | .cpydata _ _ _ _ n _ =>
    let st := { st with fab := { st.fab with awaits := st.fab.awaits.filter fun (a : Await) => a.copy != some (n / 4096) } }
    st.loseRemote (n / 4096) (some k.pkt.tag)
  | _ => st

/-- The direct route of a packet, where it fits (R348, R352). -/
def State.directRoute (st : State) (pkt : Packet) : Route :=
  match st.fitsHere (st.fab.bankOf pkt.bank) pkt.dst st.podTime with
  | some t => .direct t
  | none => .waiting

/-- Routes a kept packet, or drops it when its destination is no member of its bank (R348); one that a relay has refused goes directly for the
rest of the attempt (R352), which began at `since`. -/
def State.routeKept (st : State) (k : Kept) (tries since : Nat) : State :=
  match (if k.directly && bankPresent (st.fab.bankOf k.pkt.bank) k.pkt.dst then some (st.directRoute k.pkt) else st.routeOf k.pkt) with
  | none => st.failPacket k
  | some r =>
    let st := st.setKept { k with route := r, tries := tries, since := since, routed := st.podTime }
    { st with fab := st.fab.charge r k.pkt.len }

/-- `ROUTE_RETRY` (R347, R348, R352): at the next slot boundary a packet without a route is routed again; one that waited for room in the window, or
for an earlier write-back of its line, is injected, with the stamp of that time. -/
def execRouteRetry (st : State) : Out :=
  match st.keptBy st.item with
  | some k =>
    if k.route != .waiting || 16 ≤ k.tries || st.podTime / 250 ≤ k.routed / 250 then idle "ROUTE_RETRY"
    else if k.tries != 0 then .next (st.routeKept k k.tries k.since)
    else if st.fab.mustQueue k.id k.pkt then idle "ROUTE_RETRY"
    else .next (st.routeKept { k with pkt := { k.pkt with bank := st.bankNow } } 1 st.podTime)
  | none => idle "ROUTE_RETRY"

/-- `ATTEMPT_TIMEOUT` (R347, R354): an attempt has not been acknowledged within `TWATO`; after `TWRETRY.N` attempts, and where the destination
was no member at injection, the packet is dropped. A new attempt is routed afresh, also where a relay has refused the packet (R348). -/
def execAttemptTimeout (st : State) : Out :=
  match st.keptBy st.item with
  | some k =>
    if 16 ≤ k.tries then .next (st.failPacket k)
    else if k.tries == 0 || st.podTime < k.since + st.fab.ato then idle "ATTEMPT_TIMEOUT"
    else if k.tries < st.fab.retry then .next (st.routeKept { k with directly := false } (k.tries + 1) st.podTime)
    else .next (st.failPacket k)
  | none => idle "ATTEMPT_TIMEOUT"

/-- `RELAY_REFUSAL` (R352): the credit comes back, and the packet goes directly, with the stamp that it has. -/
def execRelayRefusal (st : State) : Out :=
  match st.keptBy st.item with
  | some k =>
    (match k.route with
      | .relay _ _ _ =>
        .next ({ st with fab := st.fab.refund k.route k.pkt.len }.setKept
          { k with route := st.directRoute k.pkt, directly := true, routed := st.podTime })
      | _ => idle "RELAY_REFUSAL")
  | none => idle "RELAY_REFUSAL"

/-- `FAILURE_PACKET` (R345, R354, R356): the package that could not be reached is read from `TAG`, since the manual gives the packet no layout
(log 49). -/
def execFailurePacket (p : Packet) (st : State) : Out :=
  if p.dst != st.pkg then idle "FAILURE_PACKET"
  else if p.reserved != 0 || 14 ≤ p.kind then .next st.badPacket
  else if !st.fab.validA && !st.fab.validB then .next st
  else .next (st.flagPeer (p.tag % 512)).noteLoss

/-! ## Ports (R355, R367) -/

/-- `PORT_TRAINING` (R349, R355, R367): the link runs at the lower of both versions; at 0 it stays down. A link that has trained holds all its
credits for the relays that it reaches. -/
def execPortTraining (p ver : Nat) (st : State) : Out :=
  if 16 ≤ p then idle "PORT_TRAINING"
  else
    let v := min ver 1
    let f := st.fab
    let up := if v == 0 then NatSet.del f.up p else NatSet.add f.up p
    let f := f.setPorts up (f.portVer.put p v)
    .next { st with fab := if v == 0 then f else { f with credit := f.credit.filter fun (m : Nat × Nat) => meetPlane st.pkg m.1 != p } }

end Sys2Proof.Machine
end

