-- ==== Sys2Proof/Machine/Firmware.lean ====
section
/-! DEFINITION. Firmware: leadership, mailboxes and their commands, resets of units and of the package, images and evidence (R288, R314,
R363, R364, R370, R376 to R383). -/

namespace Sys2Proof.Machine

/-! ## Leadership (R363) -/

/-- `LEASE_RENEWAL` (R363): every 250 µs. -/
def execLeaseRenewal (st : State) : Out :=
  if st.fw.leads st.time && decide (st.fw.renewed + 750000 ≤ st.time) then .next { st with fw := { st.fw with renewed := st.time } }
  else idle "LEASE_RENEWAL"

/-- `LEADER_STOP` (R363): the lease of 1 ms ends without a renewal, in the cycle before its end at the latest. -/
def execLeaderStop (st : State) : Out :=
  if !st.fw.vacant && decide (st.fw.renewed + 3000000 ≤ st.time + Config.cycleUnits) then
    .next { st with fw := { st.fw with stopped := true, vacant := true } }
  else idle "LEADER_STOP"

/-! ## Mailboxes (R364) -/

/-- What a mailbox command answers: its status and the bytes after response word 0. -/
structure Reply where
  status : Nat
  bytes : List Byte
deriving DecidableEq, Repr

/-- The mailbox of a master. -/
def State.box (st : State) (m : Master) : Mailbox := (st.mbox[masterNum m - 1]?).getD Mailbox.reset

/-- Changes the mailbox of a master. -/
def State.modBox (st : State) (m : Master) (f : Mailbox → Mailbox) : State :=
  { st with mbox := st.mbox.setIfInBounds (masterNum m - 1) (f (st.box m)) }

/-- Puts an answer into the response buffer; the host is told by vector 17 (R361, R364). -/
def State.reply (st : State) (m : Master) (ver : Nat) (r : Reply) : State :=
  let n := 8 + r.bytes.length
  let st := st.modBox m fun b =>
    { b with go := false, done := true, working := none,
             resp := (b.resp.writeN 0 8 (r.status + ver * 2 ^ 8 + n * 2 ^ 16)).writeBytes 8 (r.bytes.take 504) }
  if m == .host then st.signal 17 else st

/-- A command of a mailbox (R364, R367): the leader answers one whose version, code and length are right and that its master may give. A version
that is not supported is answered so whatever the request says. `need` is the least length of its request (log 51). -/
def State.mailbox (st : State) (m : Master) (cmd need : Nat) (name : String) (owner : Bool) (f : State → Mem → Out) : Out :=
  let b := st.box m
  let w := b.req.readN 0 8
  let ver := bits w 8 4
  let here := w % 256 == cmd || (cmd == 0 && 8 < w % 256)
  if !b.go || b.working.isSome || !st.fw.leads st.time || !here then idle name
  else if ver != 1 then .next (st.reply m 1 ⟨2, []⟩)
  else if w % 256 != cmd || bits w 16 16 < need || 256 < bits w 16 16 then .next (st.reply m ver ⟨1, []⟩)
  else if owner && st.own.owner != masterNum m then .next (st.reply m ver ⟨3, []⟩)
  else f st b.req

/-- A command that is answered in one step. -/
def State.answerBox (st : State) (m : Master) (cmd need : Nat) (name : String) (owner : Bool) (f : State → Mem → State × Reply) : Out :=
  st.mailbox m cmd need name owner fun st req =>
    let r := f st req
    .next (r.1.reply m 1 r.2)

/-- `DIGEST` of the image that runs (R381, R383). -/
def Firmware.digest (f : Firmware) : List Byte :=
  match f.running with
  | some (i : Image) => i.digest
  | none => Config.bootDigest

/-- `INFO` (R364): the `DEVID` block, with the stepping, and the version of the image that runs; it answers unassigned commands too. -/
def execInfo (m : Master) (st : State) : Out :=
  st.answerBox m 0 8 "INFO" false fun st _ =>
    (st, ⟨0, Config.infoPage (st.readDevid 0) (st.readDevid 8) (st.readDevid 16) (Config.imageVersion st.fw.digest)⟩)

/-- `OWNQ` (R364): `OWNSTAT` in bytes 8–15 (DEDUCED, log 51). -/
def execOwnq (m : Master) (st : State) : Out := st.answerBox m 1 8 "OWNQ" false fun st _ => (st, ⟨0, bytesOf 8 st.own.stat⟩)

/-! ## Evidence (R382, R383) -/

/-- Some bytes cut or filled with zeros to a length. -/
def fit (n : Nat) (l : List Byte) : List Byte := (l ++ List.replicate n 0).take n

/-- May firmware read or write `n` bytes at a physical address for a master: memory of `SPACE` 0, 1 or 2, of any package (R381)? -/
def State.firmwareReach (st : State) (pa n : Nat) : Bool :=
  pa < 2 ^ 56 && paSpace pa != 3 && !st.nonexistent pa &&
    (n == 0 || (paSpace (pa + n - 1) == paSpace pa && paPkg (pa + n - 1) == paPkg pa && !st.nonexistent (pa + n - 1)))

/-- The lines of `n` bytes at a physical address are at hand: those of another package are fetched first (R283). -/
def State.readyRange (st : State) (pa n : Nat) : Ready :=
  State.readyLines 0 0 ((List.range (n / 128 + 2)).filterMap fun i =>
    let a := (pa / 128 + i) * 128
    if a < pa + n && paSpace a < 2 then some a else none) st

/-- The evidence before its signature. -/
def State.evidence (st : State) (nonce : List Byte) : List Byte :=
  bytesOf 4 1 ++ bytesOf 4 st.fw.minSvn ++ fit 32 nonce ++
    fit 64 st.fw.digest ++ fit 64 Config.romDigest ++ bytesOf 8 st.ns ++ bytesOf 8 st.own.gen

/-- Is a command of a kind in progress in another mailbox (R364)? -/
def State.busyElsewhere (st : State) (m : Master) (p : MboxWork → Bool) : Bool :=
  [Master.host, .mc, .pod].any fun x => x != m && (st.box x).working.any p

/-- Answers an `ATTEST`: the evidence is written to the destination, and its length answered (R383). -/
def State.attested (st : State) (m : Master) : Out :=
  let req := (st.box m).req
  let dst := req.readN 40 8
  let e := st.evidence (req.readBytes 8 32)
  let e := e ++ fit 3309 (Config.sign (Config.shake256 e)) ++ (if bit (req.readN 48 1) 0 then Config.certificates else [])
  if !st.firmwareReach dst e.length || 16384 < e.length then .next (st.reply m 1 ⟨5, []⟩)
  else ((st.readyRange dst e.length).andThen fun st =>
    .go ((State.sWriteBytes (e.length + 1) st dst e).reply m 1 ⟨0, bytesOf 8 e.length⟩)).out "ATTEST"

/-- `ATTEST` (R383, R364): the leader begins the attestation, and in a later step ends it; meanwhile another master's is answered `BUSY`. -/
def execAttest (m : Master) (st : State) : Out :=
  match (st.box m).working with
  | some .attesting => if st.fw.leads st.time then st.attested m else idle "ATTEST"
  | some (.aborting ..) => idle "ATTEST"
  | none =>
    st.mailbox m 2 49 "ATTEST" false fun st _ =>
      if st.busyElsewhere m fun w => w == .attesting then .next (st.reply m 1 ⟨4, []⟩)
      else .next (st.modBox m fun b => { b with working := some .attesting })

/-! ## Images (R380, R381) -/

/-- The 96 bytes of an image header that its signature covers. -/
def Image.header (i : Image) : List Byte :=
  bytesOf 4 1 ++ bytesOf 4 i.svn ++ bytesOf 8 i.body.length ++ bytesOf 1 i.key ++ List.replicate 15 0 ++ fit 64 i.digest

/-- Is an image valid (R380)? -/
def Firmware.valid (f : Firmware) (i : Image) : Bool :=
  i.key < 4 && !f.revoked.contains i.key && Config.verifies i.key (Config.shake256 i.header) i.sig && fit 64 (Config.shake256 i.body) == i.digest &&
    f.minSvn ≤ i.svn && 1 ≤ i.body.length && i.body.length ≤ 2 ^ 26

/-- Reads an image from its bytes: none where its header does not obey its table (R380). -/
def imageOf (b : List Byte) : Option Image :=
  let part := fun lo n => (b.drop lo).take n
  let num := fun lo n => ofBytes (part lo n)
  if b.length < 4096 || num 0 4 != 1 || num 8 8 != b.length - 4096 || 3 < num 16 1 || num 17 15 != 0 || num 3405 691 != 0 then none
  else some { digest := part 32 64, svn := num 4 4, key := num 16 1, body := b.drop 4096, sig := part 96 3309 }

/-- `FWSTAGE` (R381): the image is read, from another package too, and checked; an invalid one is discarded. -/
def execFwstage (m : Master) (st : State) : Out :=
  st.mailbox m 3 24 "FWSTAGE" true fun st req =>
    let pa := req.readN 8 8
    let n := req.readN 16 8
    if !st.firmwareReach pa n || n < 4097 || 4096 + 2 ^ 26 < n then .next (st.reply m 1 ⟨5, []⟩)
    else ((st.readyRange pa n).andThen fun st =>
      let r := st.processorRead pa n
      .go (match (imageOf r.2).filter r.1.fw.valid with
        | some i => ({ r.1 with fw := { r.1.fw with staged := some i, activate := false } } : State).reply m 1 ⟨0, []⟩
        | none => r.1.reply m 1 ⟨5, []⟩)).out "FWSTAGE"

/-- `FWACT` (R381). -/
def execFwact (m : Master) (st : State) : Out :=
  st.answerBox m 4 8 "FWACT" true fun st _ =>
    if st.fw.staged.isSome then ({ st with fw := { st.fw with activate := true } }, ⟨0, []⟩) else (st, ⟨5, []⟩)

/-! ## Resets of units (R288, R364, R378) -/

/-- A core at reset, in service (R25, R288): the home cores' dirty bytes and free nodes that it held are given back (log 52). A core that still
had work loses it as at a failure. -/
def State.resetCore (st : State) (cid : Nat) : State :=
  let st := if (st.core cid).failed then st else st.failCore cid (st.gid cid) (some (1, cid))
  let st := (st.core cid).dcache.foldl (fun (s : State) (c : CLine) => s.writeBack cid c.line) st
  let st := match (st.core cid).freeNodes with
    | some (n, l) => st.modNet n fun x => { x with free := x.free ++ l }
    | none => st
  (st.setCore cid { Core.reset with born := st.cyclesOf cid }).modLayer (layerOf cid) fun y => { y with failed := false }

/-- `CORE_RESET` (R288). The cores of a fenced cluster return to service only with it (R378). -/
def execCoreReset (st : State) : Out :=
  if validCid st.item && !(st.cluster (clusterOf st.item)).fenced then .next (st.resetCore st.item) else idle "CORE_RESET"

/-- A cluster at reset, in service, with its epochs and its log. -/
def Cluster.fresh (x : Cluster) : Cluster :=
  { Cluster.reset with epoch := x.epoch, tainted := x.tainted, log := x.log, overflow := x.overflow, passAt := x.passAt, quiet := none }

/-- Resets a cluster and its cores; a fenced one returns only when its scan passes, which is a fact of the part (R376, R378). -/
def State.resetCluster (st : State) (g : Nat) : State × Bool :=
  let x := st.cluster g
  let st := if x.failed then st else st.failCluster g (st.clusterUnit g)
  let ok := !x.fenced || Config.scanPasses st.frees
  let st := if x.fenced then { st with frees := st.frees + 1 } else st
  if ok then
    let st := st.modCluster g fun y => if x.fenced then y.fresh.passed st.time else y.fresh
    (((List.range 8).map (coreOf g)).foldl State.resetCore st, true)
  else (st, false)

/-- Resets a port: it is out of service until its link has trained again, which sets `UP` (R355, R367). -/
def State.resetPort (st : State) (p : Nat) : State :=
  { st with fab := st.fab.setPorts (NatSet.del st.fab.up p) (Map.del st.fab.portVer p) }

/-- `UNITRST` (R364, R378). The manual gives no layout of its request, so the unit is the step's own item: a core, 4,096 + a cluster or
8,192 + a port (log 51). -/
def execUnitrst (m : Master) (st : State) : Out :=
  st.answerBox m 5 8 "UNITRST" true fun st _ =>
    let n := st.item
    if validCid n then
      -- the core of a fenced cluster returns only with it
      (if (st.cluster (clusterOf n)).failed then (st, ⟨5, []⟩) else (st.resetCore n, ⟨0, []⟩))
    else if 4096 ≤ n && n < 4096 + 336 then
      let r := st.resetCluster (n - 4096)
      (r.1, ⟨if r.2 then 0 else 5, []⟩)
    else if 8192 ≤ n && n < 8208 then
      (st.resetPort (n - 8192), ⟨0, []⟩)
    else (st, ⟨5, []⟩)

/-! ## Logs (R370, R377, R379) -/

/-- An entry of a taint record as 32 bytes. -/
def taintEntry (e : LogEntry) : List Byte :=
  bytesOf 32 (e.tile % 2 ^ 64 + e.ver % 2 ^ 32 * 2 ^ 64 + e.tenant % 2 ^ 8 * 2 ^ 96 + e.seq % 2 ^ 64 * 2 ^ 128 + e.time % 2 ^ 64 * 2 ^ 192)

/-- `TESTST` (R379): one page of one taint record. -/
def execTestst (m : Master) (st : State) : Out :=
  st.answerBox m 6 12 "TESTST" false fun st req =>
    let fenced := st.clusters.countP fun (p : Nat × Cluster) => p.2.fenced
    let n := st.fw.taints.length
    match st.fw.taints[req.readN 8 2]? with
    | some t =>
      let page := (t.entries.drop (req.readN 10 2)).take 14
      (st, ⟨0, bytesOf 2 t.cluster ++ bytesOf 2 n ++ bytesOf 4 t.epoch ++ bytesOf 8 t.tfence ++ bytesOf 2 t.entries.length ++
        bytesOf 1 (b2n t.overflow) ++ bytesOf 1 page.length ++ bytesOf 2 fenced ++ List.replicate 34 0 ++ page.flatMap taintEntry⟩)
    | none => (st, ⟨0, bytesOf 2 0 ++ bytesOf 2 n ++ List.replicate 16 0 ++ bytesOf 2 fenced ++ List.replicate 34 0⟩)

/-- `LOGRD` (R364, R370). The manual gives no layout: the index is the step's own item, and the bytes are open (log 51). -/
def execLogrd (m : Master) (st : State) : Out :=
  st.answerBox m 7 8 "LOGRD" false fun st _ => (st, ⟨0, Config.logPage (st.fw.log.drop st.item)⟩)

/-! ## `ABORT` (R314) -/

/-- The launch of a stream with a sequence number that has no record yet. -/
def State.launchOf (st : State) (q s : Nat) : Option (Nat × Launch) :=
  (st.launches.filter fun (p : Nat × Launch) => p.2.stream == q && p.2.seq == s && p.2.guest.isNone && p.2.isLaunch).getLast?

/-- Begins to end a launch before it completes: its tasks are killed, its copies stop, its claims and pins end (R235, R314). -/
def State.abortLaunch (st : State) (l : Nat) : State :=
  let st := st.failLaunch l ⟨4, 0x30, 0, 0, 0, 0⟩
  ((st.dropCopies fun (x : Copy) => x.launch == l).endFirings l).modLaunch l fun x => { x with aborting := true }

/-- `ABORT` (R314, R364): the launch is ended, and `OK` is answered once its record has been written. -/
def execAbort (m : Master) (st : State) : Out :=
  match (st.box m).working with
  | some .attesting => idle "ABORT"
  | some (.aborting q s) =>
    if (st.launchOf q s).isNone && st.fw.leads st.time then .next (st.reply m 1 ⟨0, []⟩) else idle "ABORT"
  | none =>
    st.mailbox m 8 24 "ABORT" true fun st req =>
      let w := req.readN 8 8
      let s := req.readN 16 8
      if st.busyElsewhere m fun w => w != .attesting then .next (st.reply m 1 ⟨4, []⟩)
      else match (if w < 16 then st.launchOf w s else none) with
        | some e => .next ((st.abortLaunch e.1).modBox m fun b => { b with working := some (.aborting w s) })
        | none => .next (st.reply m 1 ⟨5, []⟩)

/-! ## Package reset (R381) -/

/-- The firmware after a reset: the staged image starts when it is marked and valid, and raises the least security version (R381). -/
def Firmware.boot (f : Firmware) : Firmware :=
  let keep := { Firmware.reset with minSvn := f.minSvn, revoked := f.revoked, running := f.running }
  match f.staged with
  | some i =>
    if f.activate && f.valid i then { keep with running := some i, minSvn := max f.minSvn i.svn }
    else if f.activate then keep
    else { keep with staged := some i }
  | none => keep

/-- A fenced cluster after a package reset: it stays out of service until an `UNITRST` whose scan passes (R378). -/
def Cluster.keepFence (x : Cluster) : Cluster := { Cluster.reset with failed := true, fenced := true, epoch := x.epoch, tainted := x.tainted }

/-- `PACKAGE_RESET` (R381): every register is as at reset; memory, the fuses, the staged image, schedule time and the fences stay, and what a slice
held poisoned is written back so (R378; log 53). -/
def execPackageReset (st : State) : Out :=
  let fenced := st.clusters.filter fun (p : Nat × Cluster) => p.2.fenced
  let st := st.slices.foldl (fun (s : State) l => s.dropSliceLine l.line) st
  .next { State.reset with
    clusters := fenced.map fun p => (p.1, p.2.keepFence)
    cores := (sortBy id (fenced.flatMap fun p => (List.range 8).map (coreOf p.1))).map fun c => (c, { Core.reset with failed := true })
    schedule := st.schedule, stamp := st.stamp, frees := st.frees, item := st.item, pkg := st.pkg, podTime := st.podTime, mem := st.mem,
    poison := st.poison, cfg := { MemCfg.reset with nearFree := st.cfg.nearFree, farSize := st.cfg.farSize, farKind := st.cfg.farKind },
    fw := st.fw.boot, host := { State.reset.host with sent := st.host.sent } }

end Sys2Proof.Machine
end

