-- ==== Sys2Proof/Machine/Power.lean ====
section
/-! DEFINITION. Scrubbing and codes, power tokens, power gating and droop (R369, R370, R375, R384 to R389). -/

namespace Sys2Proof.Machine

/-! ## Codes of near DRAM (R369, R370) -/

/-- Units of reference time in an hour. -/
def hour : Nat := 10800000000000

/-- The address of the next word of the scrubber's pass: those of near DRAM, then those of the far tier (R370). -/
def State.scrubNext (st : State) : Nat :=
  let p := st.fw.scrubPos
  if p < 2 ^ 36 then st.pkg * 2 ^ 47 + 8 * p else st.pkg * 2 ^ 47 + 2 ^ 45 + 8 * (p - 2 ^ 36)

/-- The pass goes on past a word; after the last one the next pass begins. -/
def State.scrubbed (st : State) : State :=
  if st.fw.scrubPos + 1 < 2 ^ 36 + st.cfg.farSize / 8 then { st with fw := { st.fw with scrubPos := st.fw.scrubPos + 1 } }
  else { st with fw := { st.fw with scrubPos := 0, scrubFrom := st.time } }

/-- Must the scrubber finish its pass before any more time passes? Two passes within 24 hours, each in the same order, read every word at
least once in every 24 (R370; DEDUCED, log 90). -/
def State.scrubDue (st : State) : Bool := decide (st.fw.scrubFrom + 12 * hour ≤ st.time)

/-- `SCRUB` (R370, R375): the scrubber reads the word at the address that the item names, in near DRAM or the far tier; the next word of its pass
carries the pass on. -/
def execScrub (st : State) : Out :=
  let pa := st.item / 8 * 8
  if st.ownsByte pa then
    let u := st.arrayRead pa 8
    .next (if pa == st.scrubNext then u.scrubbed else u)
  else idle "SCRUB"

/-- Do 16 corrections of a rising list of times lie within an hour? -/
def sixteenInHour : List Nat → Bool
  | [] => false
  | t :: l => (match l[14]? with
      | some u => decide (u ≤ t + hour)
      | none => false) || sixteenInHour l

/-- Lines of a bank of 256 MiB (R368). -/
def bankLines : Nat := 2 ^ 21

/-- `STRONG_CODE_SWITCH` (R369): the scrubber begins to re-encode a bank of near DRAM with 16 corrections within an hour, or carries its
boundary in the bank on by a line; words below the boundary have the strong code. -/
def execStrongCodeSwitch (st : State) : Out :=
  let b := st.item
  let go := fun n => Host.Outcome.next { st with fw := { st.fw with strong := st.fw.strong.put b n } }
  match st.fw.strong.find b with
  | some n => if n < bankLines then go (n + 1) else idle "STRONG_CODE_SWITCH"
  | none => if b < 2048 && sixteenInHour (st.fw.corrections.getD b []) then go 0 else idle "STRONG_CODE_SWITCH"

/-! ## Droop (R388) -/

/-- `DROOP_ALARM` (R388): raised in this cycle, so that the layer's next cycles are stretched; the lengths are those set now. -/
def execDroopAlarm (st : State) : Out :=
  if 16 ≤ st.item then idle "DROOP_ALARM" else .next (st.modLayer st.item fun y => { y with alarm := some (y.drStretch, y.drHalve) })

/-- Has a phase of the response to an alarm run out? The next one begins before any more time passes. -/
def Layer.phaseOver (y : Layer) : Bool :=
  match y.droop with
  | .normal => false
  | .stretch n _ _ => n == 0
  | .halved _ n => n == 0

/-- `STRETCH_END` (R388). -/
def execStretchEnd (st : State) : Out :=
  match (st.layer st.item).droop with
  | .stretch 0 _ n => .next (st.modLayer st.item fun y => { y with droop := .halved 0 n })
  | _ => idle "STRETCH_END"

/-- `HALVED_ISSUE_END` (R388). -/
def execHalvedIssueEnd (st : State) : Out :=
  match (st.layer st.item).droop with
  | .halved _ 0 => .next (st.modLayer st.item fun y => { y with droop := .normal })
  | _ => idle "HALVED_ISSUE_END"

/-! ## Power gating (R387) -/

/-- Is a core idle (R387)? What waits for it would wake it. -/
def State.coreIdle (st : State) (cid : Nat) : Bool :=
  let k := st.core cid
  (st.ctxs.all fun (p : Nat × Ctx) => p.2.start != cid && p.2.cur != cid) && k.leases.isEmpty && k.mq.isEmpty && k.reds.isEmpty && k.bag.isEmpty &&
    k.ring.isEmpty && k.tags.isEmpty && k.lport.isEmpty && k.refill.isEmpty && (k.chans.all fun p => p.2.isEmpty) &&
    (st.matrixCmds cid).isEmpty && st.copies.all fun (x : Copy) => x.cid != cid

/-- Does an arrival wait for a core (R387)? -/
def State.arrivalAt (st : State) (cid : Nat) : Bool :=
  !(st.core cid).lport.isEmpty || (st.msgs.any fun (m : Msg) => m.cid == cid) || (st.pushes.any fun p => p.1 == cid) ||
    (st.barges.any fun (b : Barge) => b.dst == cid) || (st.remotes.any fun (r : Remote) => r.cid == cid) ||
    (st.workReqs.any fun (r : WorkReq) => r.cid == cid) ||
    (st.copies.any fun (x : Copy) => x.dst.space == 0 && x.xpkg.isNone && x.target == cid && x.status.isNone) ||
    st.fab.flows.any fun (f : Flow) => f.waiting.any fun (p : Packet) => match p.body with
      | .cpydata c _ _ _ _ _ => c == cid
      | _ => false

/-- `CORE_GATE` (R387): a core that has been idle for 10 µs. -/
def execCoreGate (st : State) : Out :=
  let k := st.core st.item
  if validCid st.item && !k.gated && !k.failed && st.coreIdle st.item && !st.arrivalAt st.item &&
      (k.idleSince.any fun t => decide (t + 30000 ≤ st.time)) then .next (st.modCore st.item fun k => { k with gated := true })
  else idle "CORE_GATE"

/-- `CORE_WAKE` (R387): an arrival wakes a gated core, which then takes what waited. -/
def execCoreWake (st : State) : Out :=
  if (st.core st.item).gated && st.arrivalAt st.item then
    .next (((st.modCore st.item fun k => { k with gated := false, idleSince := none }).admitPushes st.item).drainCopies)
  else idle "CORE_WAKE"

/-! ## Matrix power tokens (R267, R384, R385) -/

/-- `CAP_CHANGE` (R384). -/
def execCapChange (layer cap : Nat) (st : State) : Out :=
  if 16 ≤ layer || 21 < cap then idle "CAP_CHANGE" else .next (st.modLayer layer fun y => { y with cap := cap })

/-- The clusters of a layer that a launch is admitted on (R385). -/
def State.admittedOn (st : State) (l layer : Nat) : Nat :=
  st.clusters.countP fun (p : Nat × Cluster) => p.1 / 21 == layer && (p.2.admitted.find l).isSome

/-- Clusters of a layer that hold a token (R385). -/
def State.tokens (st : State) (layer : Nat) : Nat := st.clusters.countP fun (p : Nat × Cluster) => p.1 / 21 == layer && p.2.token

/-- `POWER` of a launch's net. -/
def State.powerOf (st : State) (l : Nat) : Nat :=
  match st.launches.find l with
  | some (x : Launch) => ((st.nets.find x.net).map fun (n : Net) => n.power).getD 0
  | none => 0

/-- Would a launch be admitted on a cluster (R385)? One whose record is written has no `POWER` any more, and an `mma` of it that was stopped
goes on under the cap alone (R194, R386; DESIGN CHOICE, log 110). -/
def State.admits (st : State) (l g : Nat) : Bool :=
  ((st.cluster g).admitted.find l).isSome ||
    (((st.launches.find l).isNone || decide (st.admittedOn l (g / 21) < st.powerOf l)) &&
      ((st.cluster g).token || decide (st.tokens (g / 21) < (st.layer (g / 21)).cap)))

/-- Admits a launch on a cluster. -/
def State.admitNow (st : State) (l g : Nat) : State := st.modCluster g fun x => { x with admitted := x.admitted.put l 0, quiet := none }

/-- Answers a `pwreq`: 1 and the reservation, or 0 (R267). -/
def State.answerPwreq (st : State) (n : Nat) (yes : Bool) : State :=
  match st.acc n with
  | some a =>
    let amount := match a.op with
      | .pwreq v => v
      | _ => 0
    let st := if yes then st.modUid a.uid fun c => { c with reserved := c.reserved + amount } else st
    st.answer a (.val (if yes then 1 else 0))
  | none => st

/-- `POWER_TOKEN_ADMIT` (R385): the first request of the layer that can be answered: an `mma` that is admitted, or any `pwreq`. -/
def execPowerTokenAdmit (st : State) : Out :=
  match st.powerReqs.find? fun (r : PowerReq) => r.g / 21 == st.item && (r.acc.isSome || st.admits r.launch r.g) with
  | some r =>
    let yes := st.admits r.launch r.g
    let st := { st with powerReqs := removeFirst (fun x => x == r) st.powerReqs }
    let st := if yes then st.admitNow r.launch r.g else st
    .next (match r.acc with
      | some n => st.answerPwreq n yes
      | none => st)
  | none => idle "POWER_TOKEN_ADMIT"

/-- Has a launch a reservation or an `mma` on a cluster (R385)? -/
def State.needsToken (st : State) (l g : Nat) : Bool :=
  (st.ctxs.any fun (p : Nat × Ctx) => p.2.launch == l && p.2.reserved != 0 && clusterOf p.2.start == g) || st.mmasOn l g

/-- `POWER_TOKEN_RETURN` (R385): for 256 cycles the launch has needed no token here. -/
def execPowerTokenReturn (lid g : Nat) (st : State) : Out :=
  match (st.cluster g).admitted.find lid with
  | some v =>
    if v != 0 && !st.needsToken lid g && decide (v + 255 ≤ (st.layer (g / 21)).cycles) then
      .next (st.modCluster g fun x => { x with admitted := Map.del x.admitted lid })
    else idle "POWER_TOKEN_RETURN"
  | none => idle "POWER_TOKEN_RETURN"

end Sys2Proof.Machine
end

