-- ==== Sys2Proof/Machine/Scalar.lean ====
section
/-! DEFINITION. Scalar arithmetic, constants and FP32 (R114 to R123). -/

namespace Sys2Proof.Machine

/-- Issues an instruction on scalar registers only: held while one of them awaits a result, then changing the context (R111). -/
def scalarOp (i : Instr) (e : List Ext) (named : List R5) (f : Ctx → Ctx) : State → Out :=
  issue e (wordOf i) (blocks (named.map BitVec.toNat) []) fun st c => .done st (f c)

/-- A form with two register sources (R114). -/
def alu2 (i : Instr) (e : List Ext) (d a b : R5) (f : W64 → W64 → W64) : State → Out :=
  scalarOp i e [d, a, b] fun c => c.wr d (f (c.rs a) (c.rs b))

/-- A form with one register source (R114). -/
def alu1 (i : Instr) (e : List Ext) (d a : R5) (f : W64 → W64) : State → Out :=
  scalarOp i e [d, a] fun c => c.wr d (f (c.rs a))

/-- A form with an immediate, which IMM words widen (R116). -/
def aluI (i : Instr) (e : List Ext) (d a : R5) (imm : BitVec 15) (f : W64 → W64 → W64) : State → Out :=
  scalarOp i e [d, a] fun c => c.wr d (f (c.rs a) (wideImm imm e))

/-- A truth value as a register value. -/
def truth (b : Bool) : W64 := if b then 1 else 0

/-! ## Integer operations (R114) -/

/-- Bits [127:64] of the signed product. -/
def mulHigh (a b : W64) : W64 := BitVec.ofInt 64 (a.toInt * b.toInt / 2 ^ 64)

/-- Bits [127:64] of the unsigned product. -/
def mulHighZ (a b : W64) : W64 := BitVec.ofNat 64 (a.toNat * b.toNat / 2 ^ 64)

/-- The quotient of a division, truncated towards zero (R115). -/
def divQ (a b : W64) : W64 := if b == 0 then BitVec.allOnes 64 else if divOverflows a b then a else BitVec.ofInt 64 (a.toInt.tdiv b.toInt)

/-- The remainder, with the sign of the dividend (R115). -/
def divR (a b : W64) : W64 := if b == 0 then a else if divOverflows a b then 0 else BitVec.ofInt 64 (a.toInt.tmod b.toInt)

/-- The unsigned quotient (R115). -/
def divQZ (a b : W64) : W64 := if b == 0 then BitVec.allOnes 64 else a / b

/-- The unsigned remainder (R115). -/
def divRZ (a b : W64) : W64 := if b == 0 then a else a % b

/-- A division form, which sets `DZ` for a zero divisor (R115). -/
def divOp (i : Instr) (e : List Ext) (d a b : R5) (f : W64 → W64 → W64) : State → Out :=
  scalarOp i e [d, a, b] fun c => (c.wr d (f (c.rs a) (c.rs b))).raise (divFlags (c.rs b))

/-- The shift count of a register (R114). -/
def shiftCount (b : W64) : Nat := b.toNat % 64

/-- Leading zeros (R114). -/
def leadingZeros (a : W64) : W64 := if a == 0 then 64 else BitVec.ofNat 64 (63 - Nat.log2 a.toNat)

/-- Trailing zeros from bit `n` on, with `k` bits left. -/
def trailingGo (a : W64) : Nat → Nat → Nat
  | 0, n => n
  | k + 1, n => if a.getLsbD n then n else trailingGo a k (n + 1)

/-- Trailing zeros (R114). -/
def trailingZeros (a : W64) : W64 := BitVec.ofNat 64 (trailingGo a 64 0)

/-- Number of one bits (R114). -/
def popCount (a : W64) : W64 := BitVec.ofNat 64 ((List.range 64).filter fun i => a.getLsbD i).length

def execAdd (e : List Ext) (d a b : R5) (st : State) : Out := alu2 (.add e d a b) e d a b (fun x y => x + y) st
def execSub (e : List Ext) (d a b : R5) (st : State) : Out := alu2 (.sub e d a b) e d a b (fun x y => x - y) st
def execMul (e : List Ext) (d a b : R5) (st : State) : Out := alu2 (.mul e d a b) e d a b (fun x y => x * y) st
def execMulh (e : List Ext) (d a b : R5) (st : State) : Out := alu2 (.mulh e d a b) e d a b mulHigh st
def execMulhz (e : List Ext) (d a b : R5) (st : State) : Out := alu2 (.mulhz e d a b) e d a b mulHighZ st
def execDiv (e : List Ext) (d a b : R5) (st : State) : Out := divOp (.div e d a b) e d a b divQ st
def execDivz (e : List Ext) (d a b : R5) (st : State) : Out := divOp (.divz e d a b) e d a b divQZ st
def execRem (e : List Ext) (d a b : R5) (st : State) : Out := divOp (.rem e d a b) e d a b divR st
def execRemz (e : List Ext) (d a b : R5) (st : State) : Out := divOp (.remz e d a b) e d a b divRZ st
def execAnd (e : List Ext) (d a b : R5) (st : State) : Out := alu2 (.and e d a b) e d a b (fun x y => x &&& y) st
def execOr (e : List Ext) (d a b : R5) (st : State) : Out := alu2 (.or e d a b) e d a b (fun x y => x ||| y) st
def execXor (e : List Ext) (d a b : R5) (st : State) : Out := alu2 (.xor e d a b) e d a b (fun x y => x ^^^ y) st
def execShl (e : List Ext) (d a b : R5) (st : State) : Out := alu2 (.shl e d a b) e d a b (fun x y => x <<< shiftCount y) st
def execShr (e : List Ext) (d a b : R5) (st : State) : Out := alu2 (.shr e d a b) e d a b (fun x y => x >>> shiftCount y) st
def execSra (e : List Ext) (d a b : R5) (st : State) : Out :=
  alu2 (.sra e d a b) e d a b (fun x y => x.sshiftRight (shiftCount y)) st
def execMin (e : List Ext) (d a b : R5) (st : State) : Out :=
  alu2 (.min e d a b) e d a b (fun x y => if x.slt y then x else y) st
def execMax (e : List Ext) (d a b : R5) (st : State) : Out :=
  alu2 (.max e d a b) e d a b (fun x y => if x.slt y then y else x) st
def execMinz (e : List Ext) (d a b : R5) (st : State) : Out :=
  alu2 (.minz e d a b) e d a b (fun x y => if x.ult y then x else y) st
def execMaxz (e : List Ext) (d a b : R5) (st : State) : Out :=
  alu2 (.maxz e d a b) e d a b (fun x y => if x.ult y then y else x) st
def execSeq (e : List Ext) (d a b : R5) (st : State) : Out := alu2 (.seq e d a b) e d a b (fun x y => truth (x == y)) st
def execSne (e : List Ext) (d a b : R5) (st : State) : Out := alu2 (.sne e d a b) e d a b (fun x y => truth (x != y)) st
def execSlt (e : List Ext) (d a b : R5) (st : State) : Out := alu2 (.slt e d a b) e d a b (fun x y => truth (x.slt y)) st
def execSltz (e : List Ext) (d a b : R5) (st : State) : Out := alu2 (.sltz e d a b) e d a b (fun x y => truth (x.ult y)) st
def execClz (e : List Ext) (d a : R5) (st : State) : Out := alu1 (.clz e d a) e d a leadingZeros st
def execCtz (e : List Ext) (d a : R5) (st : State) : Out := alu1 (.ctz e d a) e d a trailingZeros st
def execPopc (e : List Ext) (d a : R5) (st : State) : Out := alu1 (.popc e d a) e d a popCount st

/-! ## Immediates, constants, select (R116 to R119) -/

def execAddi (e : List Ext) (d a : R5) (i : BitVec 15) (st : State) : Out := aluI (.addi e d a i) e d a i (fun x y => x + y) st
def execAndi (e : List Ext) (d a : R5) (i : BitVec 15) (st : State) : Out := aluI (.andi e d a i) e d a i (fun x y => x &&& y) st
def execOri (e : List Ext) (d a : R5) (i : BitVec 15) (st : State) : Out := aluI (.ori e d a i) e d a i (fun x y => x ||| y) st
def execXori (e : List Ext) (d a : R5) (i : BitVec 15) (st : State) : Out := aluI (.xori e d a i) e d a i (fun x y => x ^^^ y) st
def execSlti (e : List Ext) (d a : R5) (i : BitVec 15) (st : State) : Out :=
  aluI (.slti e d a i) e d a i (fun x y => truth (x.slt y)) st
def execShli (e : List Ext) (d a : R5) (n : BitVec 6) (st : State) : Out :=
  alu1 (.shli e d a n) e d a (fun x => x <<< n.toNat) st
def execShri (e : List Ext) (d a : R5) (n : BitVec 6) (st : State) : Out :=
  alu1 (.shri e d a n) e d a (fun x => x >>> n.toNat) st
def execSrai (e : List Ext) (d a : R5) (n : BitVec 6) (st : State) : Out :=
  alu1 (.srai e d a n) e d a (fun x => x.sshiftRight n.toNat) st
/-- `lih` (R118). -/
def execLih (e : List Ext) (d : R5) (i : BitVec 20) (st : State) : Out :=
  scalarOp (.lih e d i) e [d] (fun c => c.wr d (wideImm i e <<< 15)) st
/-- `addpc` (R118): modulo 2^57, from the address of the `addpc` word itself. -/
def execAddpc (e : List Ext) (d : R5) (i : BitVec 20) (st : State) : Out :=
  scalarOp (.addpc e d i) e [d] (fun c => c.wr d ((c.wordPc e + (wideImm i e <<< 2).setWidth 57).zeroExtend 64)) st
/-- `sel` (R119). -/
def execSel (e : List Ext) (d a b c : R5) (st : State) : Out :=
  scalarOp (.sel e d a b c) e [d, a, b, c] (fun x => x.wr d (if x.rs c != 0 then x.rs a else x.rs b)) st

/-! ## FP32 (R120 to R123) -/

/-- The FP32 value of a register: its low 32 bits (R120). -/
def Ctx.fp (c : Ctx) (r : R5) : Nat := (c.rs r).toNat % 2 ^ 32

/-- Writes an FP32 result with bits [63:32] zero, and raises its flags (R113, R120). -/
def Ctx.wrRes (c : Ctx) (d : R5) (r : Res) : Ctx := (c.wr d (BitVec.ofNat 64 r.val)).raise r.flags

/-- An FP32 form with two sources (R121). -/
def fp2 (i : Instr) (e : List Ext) (d a b : R5) (f : Nat → Nat → Res) : State → Out :=
  scalarOp i e [d, a, b] fun c => c.wrRes d (f (c.fp a) (c.fp b))

def execFadd (e : List Ext) (d a b : R5) (r : BitVec 2) (st : State) : Out := fp2 (.fadd e d a b r) e d a b (f32.add r.toNat) st
def execFsub (e : List Ext) (d a b : R5) (r : BitVec 2) (st : State) : Out := fp2 (.fsub e d a b r) e d a b (f32.sub r.toNat) st
def execFmul (e : List Ext) (d a b : R5) (r : BitVec 2) (st : State) : Out := fp2 (.fmul e d a b r) e d a b (f32.mul r.toNat) st
def execFmin (e : List Ext) (d a b : R5) (st : State) : Out := fp2 (.fmin e d a b) e d a b (f32.minmax false) st
def execFmax (e : List Ext) (d a b : R5) (st : State) : Out := fp2 (.fmax e d a b) e d a b (f32.minmax true) st
def execFcmp (e : List Ext) (d a b : R5) (c : BitVec 3) (st : State) : Out := fp2 (.fcmp e d a b c) e d a b (f32.cmp c.toNat) st
def execFfma (e : List Ext) (d a b c : R5) (r : BitVec 2) (st : State) : Out :=
  scalarOp (.ffma e d a b c r) e [d, a, b, c] (fun x => x.wrRes d (f32.fma r.toNat false false (x.fp a) (x.fp b) (x.fp c))) st

/-- The result of `fcvt` from source type `s` to type `t`, as the 64-bit register value (R123); none for a pair that does not exist. -/
def fcvtValue (t s rm : Nat) (x : W64) : Option Res :=
  let lo := x.toNat % 2 ^ 32
  match t, s with
  | 2, 1 => some (f32.ofInt rm (signed 32 lo))
  | 2, 7 => some (f32.ofInt rm lo)
  | 2, 9 => some (f32.ofInt rm x.toInt)
  | 2, 3 => some (convFmt bf16 f32 rm (lo % 2 ^ 16))
  | 2, 4 => some (convFmt f16 f32 rm (lo % 2 ^ 16))
  | 2, 5 => some ⟨td8To f32 (lo % 2 ^ 8), 0⟩
  | 1, 2 => let r := intOf rm (-2 ^ 31) (2 ^ 31 - 1) (f32.value lo); some ⟨wrap 64 r.1, r.2⟩
  | 7, 2 => let r := intOf rm 0 (2 ^ 32 - 1) (f32.value lo); some ⟨wrap 64 r.1, r.2⟩
  | 9, 2 => let r := intOf rm (-2 ^ 63) (2 ^ 63 - 1) (f32.value lo); some ⟨wrap 64 r.1, r.2⟩
  | 3, 2 => some (convFmt f32 bf16 rm lo)
  | 4, 2 => some (convFmt f32 f16 rm lo)
  | 5, 2 => some (td8Of (f32.value lo) (f32.isSNaN lo))
  | _, _ => none

/-- `fcvt` (R123). -/
def execFcvt (e : List Ext) (d a : R5) (s t : BitVec 4) (r : BitVec 2) (st : State) : Out :=
  issue e (wordOf (.fcvt e d a s t r)) (blocks [d.toNat, a.toNat] []) (fun st c =>
    match fcvtValue t.toNat s.toNat r.toNat (c.rs a) with
    | some x => .done st (c.wrRes d x)
    | none => .fault 0x01 2 none) st

end Sys2Proof.Machine
end

