-- ==== Sys2Proof/Machine/Dispatch.lean ====
section
/-! DEFINITION. One arm per constructor: the meaning of every row of the opcode table. -/

namespace Sys2Proof.Machine

def exec (i : Instr) (s : State) : Host.Outcome State Fault Refusal :=
  match i with
  | .add e d a b => Sys2Proof.Machine.execAdd e d a b s
  | .sub e d a b => Sys2Proof.Machine.execSub e d a b s
  | .mul e d a b => Sys2Proof.Machine.execMul e d a b s
  | .mulh e d a b => Sys2Proof.Machine.execMulh e d a b s
  | .mulhz e d a b => Sys2Proof.Machine.execMulhz e d a b s
  | .div e d a b => Sys2Proof.Machine.execDiv e d a b s
  | .divz e d a b => Sys2Proof.Machine.execDivz e d a b s
  | .rem e d a b => Sys2Proof.Machine.execRem e d a b s
  | .remz e d a b => Sys2Proof.Machine.execRemz e d a b s
  | .and e d a b => Sys2Proof.Machine.execAnd e d a b s
  | .or e d a b => Sys2Proof.Machine.execOr e d a b s
  | .xor e d a b => Sys2Proof.Machine.execXor e d a b s
  | .shl e d a b => Sys2Proof.Machine.execShl e d a b s
  | .shr e d a b => Sys2Proof.Machine.execShr e d a b s
  | .sra e d a b => Sys2Proof.Machine.execSra e d a b s
  | .min e d a b => Sys2Proof.Machine.execMin e d a b s
  | .max e d a b => Sys2Proof.Machine.execMax e d a b s
  | .minz e d a b => Sys2Proof.Machine.execMinz e d a b s
  | .maxz e d a b => Sys2Proof.Machine.execMaxz e d a b s
  | .seq e d a b => Sys2Proof.Machine.execSeq e d a b s
  | .sne e d a b => Sys2Proof.Machine.execSne e d a b s
  | .slt e d a b => Sys2Proof.Machine.execSlt e d a b s
  | .sltz e d a b => Sys2Proof.Machine.execSltz e d a b s
  | .clz e d a => Sys2Proof.Machine.execClz e d a s
  | .ctz e d a => Sys2Proof.Machine.execCtz e d a s
  | .popc e d a => Sys2Proof.Machine.execPopc e d a s
  | .addi e d a im => Sys2Proof.Machine.execAddi e d a im s
  | .andi e d a im => Sys2Proof.Machine.execAndi e d a im s
  | .ori e d a im => Sys2Proof.Machine.execOri e d a im s
  | .xori e d a im => Sys2Proof.Machine.execXori e d a im s
  | .slti e d a im => Sys2Proof.Machine.execSlti e d a im s
  | .shli e d a n => Sys2Proof.Machine.execShli e d a n s
  | .shri e d a n => Sys2Proof.Machine.execShri e d a n s
  | .srai e d a n => Sys2Proof.Machine.execSrai e d a n s
  | .lih e d im => Sys2Proof.Machine.execLih e d im s
  | .addpc e d im => Sys2Proof.Machine.execAddpc e d im s
  | .sel e d a b c => Sys2Proof.Machine.execSel e d a b c s
  | .fadd e d a b r => Sys2Proof.Machine.execFadd e d a b r s
  | .fsub e d a b r => Sys2Proof.Machine.execFsub e d a b r s
  | .fmul e d a b r => Sys2Proof.Machine.execFmul e d a b r s
  | .fmin e d a b => Sys2Proof.Machine.execFmin e d a b s
  | .fmax e d a b => Sys2Proof.Machine.execFmax e d a b s
  | .fcmp e d a b c => Sys2Proof.Machine.execFcmp e d a b c s
  | .fcvt e d a sz t r => Sys2Proof.Machine.execFcvt e d a sz t r s
  | .ffma e d a b c r => Sys2Proof.Machine.execFfma e d a b c r s
  | .beq e x y o => Sys2Proof.Machine.execBeq e x y o s
  | .bne e x y o => Sys2Proof.Machine.execBne e x y o s
  | .blt e x y o => Sys2Proof.Machine.execBlt e x y o s
  | .bge e x y o => Sys2Proof.Machine.execBge e x y o s
  | .bltz e x y o => Sys2Proof.Machine.execBltz e x y o s
  | .bgez e x y o => Sys2Proof.Machine.execBgez e x y o s
  | .jmp e o => Sys2Proof.Machine.execJmp e o s
  | .jal e o => Sys2Proof.Machine.execJal e o s
  | .jr e a => Sys2Proof.Machine.execJr e a s
  | .jalr e d a => Sys2Proof.Machine.execJalr e d a s
  | .csrr e d c => Sys2Proof.Machine.execCsrr e d c s
  | .csrw e a c => Sys2Proof.Machine.execCsrw e a c s
  | .csrs e a c => Sys2Proof.Machine.execCsrs e a c s
  | .csrc e a c => Sys2Proof.Machine.execCsrc e a c s
  | .ldl e d a sz m o => Sys2Proof.Machine.execLdl e d a sz m o s
  | .stl e d a sz m o => Sys2Proof.Machine.execStl e d a sz m o s
  | .ldg e d a sz m o => Sys2Proof.Machine.execLdg e d a sz m o s
  | .stg e d a sz o => Sys2Proof.Machine.execStg e d a sz o s
  | .ldx e d a b m sz => Sys2Proof.Machine.execLdx e d a b m sz s
  | .stx e d a b sz => Sys2Proof.Machine.execStx e d a b sz s
  | .vadd e d a b k r => Sys2Proof.Machine.execVadd e d a b k r s
  | .vsub e d a b k r => Sys2Proof.Machine.execVsub e d a b k r s
  | .vmul e d a b k r => Sys2Proof.Machine.execVmul e d a b k r s
  | .vmin e d a b k => Sys2Proof.Machine.execVmin e d a b k s
  | .vmax e d a b k => Sys2Proof.Machine.execVmax e d a b k s
  | .vfma e d a b c k r => Sys2Proof.Machine.execVfma e d a b c k r s
  | .vfms e d a b c k r => Sys2Proof.Machine.execVfms e d a b c k r s
  | .vfnma e d a b c k r => Sys2Proof.Machine.execVfnma e d a b c k r s
  | .vabs e d a k => Sys2Proof.Machine.execVabs e d a k s
  | .vneg e d a k => Sys2Proof.Machine.execVneg e d a k s
  | .vexp2 e d a k r => Sys2Proof.Machine.execVexp2 e d a k r s
  | .vlog2 e d a k r => Sys2Proof.Machine.execVlog2 e d a k r s
  | .vrcp e d a k r => Sys2Proof.Machine.execVrcp e d a k r s
  | .vrsqrt e d a k r => Sys2Proof.Machine.execVrsqrt e d a k r s
  | .vand e d a b k => Sys2Proof.Machine.execVand e d a b k s
  | .vor e d a b k => Sys2Proof.Machine.execVor e d a b k s
  | .vxor e d a b k => Sys2Proof.Machine.execVxor e d a b k s
  | .vshl e d a b k => Sys2Proof.Machine.execVshl e d a b k s
  | .vshr e d a b k => Sys2Proof.Machine.execVshr e d a b k s
  | .vsra e d a b k => Sys2Proof.Machine.execVsra e d a b k s
  | .vcmp e d a b c k => Sys2Proof.Machine.execVcmp e d a b c k s
  | .vsel e d a b k => Sys2Proof.Machine.execVsel e d a b k s
  | .vcvt e d a t k r => Sys2Proof.Machine.execVcvt e d a t k r s
  | .vtag e d a t => Sys2Proof.Machine.execVtag e d a t s
  | .vmov e d a k => Sys2Proof.Machine.execVmov e d a k s
  | .vbcast e d a t k => Sys2Proof.Machine.execVbcast e d a t k s
  | .vext e d a b => Sys2Proof.Machine.execVext e d a b s
  | .vins e d a b => Sys2Proof.Machine.execVins e d a b s
  | .vperm e d a b k => Sys2Proof.Machine.execVperm e d a b k s
  | .vredsum e d a k r => Sys2Proof.Machine.execVredsum e d a k r s
  | .vredmax e d a k => Sys2Proof.Machine.execVredmax e d a k s
  | .vredmin e d a k => Sys2Proof.Machine.execVredmin e d a k s
  | .vdotBf16 e d a b c k r => Sys2Proof.Machine.execVdotBf16 e d a b c k r s
  | .vdotTd8 e d a b c k r => Sys2Proof.Machine.execVdotTd8 e d a b c k r s
  | .kset e d a => Sys2Proof.Machine.execKset e d a s
  | .kand e d a b => Sys2Proof.Machine.execKand e d a b s
  | .kor e d a b => Sys2Proof.Machine.execKor e d a b s
  | .knot e d a => Sys2Proof.Machine.execKnot e d a s
  | .kpop e d a => Sys2Proof.Machine.execKpop e d a s
  | .sbindPop e d a => Sys2Proof.Machine.execSbindPop e d a s
  | .sbindPush e d a => Sys2Proof.Machine.execSbindPush e d a s
  | .sfree e d => Sys2Proof.Machine.execSfree e d s
  | .ckaccMod e d a k => Sys2Proof.Machine.execCkaccMod e d a k s
  | .ckaccFsum e d a k => Sys2Proof.Machine.execCkaccFsum e d a k s
  | .ckclr e d => Sys2Proof.Machine.execCkclr e d s
  | .ckrdLo e d a => Sys2Proof.Machine.execCkrdLo e d a s
  | .ckrdHi e d a => Sys2Proof.Machine.execCkrdHi e d a s
  | .check e d a b => Sys2Proof.Machine.execCheck e d a b s
  | .vld e d a t m o => Sys2Proof.Machine.execVld e d a t m o s
  | .vst e d a m o => Sys2Proof.Machine.execVst e d a m o s
  | .vldg e d a t o => Sys2Proof.Machine.execVldg e d a t o s
  | .vstg e d a o => Sys2Proof.Machine.execVstg e d a o s
  | .vgath e d a b sz t k => Sys2Proof.Machine.execVgath e d a b sz t k s
  | .vscat e d a b sz k => Sys2Proof.Machine.execVscat e d a b sz k s
  | .mma e m a b v c => Sys2Proof.Machine.execMma e m a b v c s
  | .odset e d a b => Sys2Proof.Machine.execOdset e d a b s
  | .mwin e d a => Sys2Proof.Machine.execMwin e d a s
  | .mzero e d => Sys2Proof.Machine.execMzero e d s
  | .mld e d a => Sys2Proof.Machine.execMld e d a s
  | .mst e d a => Sys2Proof.Machine.execMst e d a s
  | .mstBf16 e d a => Sys2Proof.Machine.execMstBf16 e d a s
  | .mstTd8 e d a => Sys2Proof.Machine.execMstTd8 e d a s
  | .mchk e d a b => Sys2Proof.Machine.execMchk e d a b s
  | .mres e d a => Sys2Proof.Machine.execMres e d a s
  | .mscale e d a b => Sys2Proof.Machine.execMscale e d a b s
  | .amoAdd e d a b sz => Sys2Proof.Machine.execAmoAdd e d a b sz s
  | .amoAnd e d a b sz => Sys2Proof.Machine.execAmoAnd e d a b sz s
  | .amoOr e d a b sz => Sys2Proof.Machine.execAmoOr e d a b sz s
  | .amoXor e d a b sz => Sys2Proof.Machine.execAmoXor e d a b sz s
  | .amoMin e d a b sz => Sys2Proof.Machine.execAmoMin e d a b sz s
  | .amoMax e d a b sz => Sys2Proof.Machine.execAmoMax e d a b sz s
  | .amoMinz e d a b sz => Sys2Proof.Machine.execAmoMinz e d a b sz s
  | .amoMaxz e d a b sz => Sys2Proof.Machine.execAmoMaxz e d a b sz s
  | .amoSwap e d a b sz => Sys2Proof.Machine.execAmoSwap e d a b sz s
  | .amoFadd e d a b => Sys2Proof.Machine.execAmoFadd e d a b s
  | .redAdd e a b sz => Sys2Proof.Machine.execRedAdd e a b sz s
  | .redAnd e a b sz => Sys2Proof.Machine.execRedAnd e a b sz s
  | .redOr e a b sz => Sys2Proof.Machine.execRedOr e a b sz s
  | .redXor e a b sz => Sys2Proof.Machine.execRedXor e a b sz s
  | .redMin e a b sz => Sys2Proof.Machine.execRedMin e a b sz s
  | .redMax e a b sz => Sys2Proof.Machine.execRedMax e a b sz s
  | .redMinz e a b sz => Sys2Proof.Machine.execRedMinz e a b sz s
  | .redMaxz e a b sz => Sys2Proof.Machine.execRedMaxz e a b sz s
  | .redFadd e a b => Sys2Proof.Machine.execRedFadd e a b s
  | .amoc e d a b c sz => Sys2Proof.Machine.execAmoc e d a b c sz s
  | .fence e d p sz => Sys2Proof.Machine.execFence e d p sz s
  | .qfence e q sz => Sys2Proof.Machine.execQfence e q sz s
  | .acq e a sz => Sys2Proof.Machine.execAcq e a sz s
  | .rel e a sz => Sys2Proof.Machine.execRel e a sz s
  | .rbind e d a b => Sys2Proof.Machine.execRbind e d a b s
  | .icinv e sz => Sys2Proof.Machine.execIcinv e sz s
  | .feset e a => Sys2Proof.Machine.execFeset e a s
  | .feclr e a => Sys2Proof.Machine.execFeclr e a s
  | .fewait e a => Sys2Proof.Machine.execFewait e a s
  | .binit e a b => Sys2Proof.Machine.execBinit e a b s
  | .benrol e a n => Sys2Proof.Machine.execBenrol e a n s
  | .barrive e a b sz => Sys2Proof.Machine.execBarrive e a b sz s
  | .bexpect e a b => Sys2Proof.Machine.execBexpect e a b s
  | .bwait e d a sz => Sys2Proof.Machine.execBwait e d a sz s
  | .btest e d a sz => Sys2Proof.Machine.execBtest e d a sz s
  | .cpy e d a b => Sys2Proof.Machine.execCpy e d a b s
  | .cpyx e d a b => Sys2Proof.Machine.execCpyx e d a b s
  | .cpwait e d => Sys2Proof.Machine.execCpwait e d s
  | .nalloc e d a => Sys2Proof.Machine.execNalloc e d a s
  | .nfree e a => Sys2Proof.Machine.execNfree e a s
  | .nld e d a n => Sys2Proof.Machine.execNld e d a n s
  | .nst e d a n => Sys2Proof.Machine.execNst e d a n s
  | .plink e d a b => Sys2Proof.Machine.execPlink e d a b s
  | .pget e d a => Sys2Proof.Machine.execPget e d a s
  | .ppush e a b => Sys2Proof.Machine.execPpush e a b s
  | .tend e => Sys2Proof.Machine.execTend e s
  | .commit e d a b => Sys2Proof.Machine.execCommit e d a b s
  | .hspawn e d a b => Sys2Proof.Machine.execHspawn e d a b s
  | .chsend e a b => Sys2Proof.Machine.execChsend e a b s
  | .rtset e d a b => Sys2Proof.Machine.execRtset e d a b s
  | .yield e n => Sys2Proof.Machine.execYield e n s
  | .workq e a b => Sys2Proof.Machine.execWorkq e a b s
  | .tver e d a => Sys2Proof.Machine.execTver e d a s
  | .tnew e d a => Sys2Proof.Machine.execTnew e d a s
  | .trap e a n => Sys2Proof.Machine.execTrap e a n s
  | .eret e => Sys2Proof.Machine.execEret e s
  | .tstamp e d => Sys2Proof.Machine.execTstamp e d s
  | .dscr e d a => Sys2Proof.Machine.execDscr e d a s
  | .pwreq e d a => Sys2Proof.Machine.execPwreq e d a s
  | .pwrel e a => Sys2Proof.Machine.execPwrel e a s
  | .stripRefill k slot => Sys2Proof.Machine.execStripRefill k slot s
  | .stripPushWrite k slot => Sys2Proof.Machine.execStripPushWrite k slot s
  | .blockClear g k => Sys2Proof.Machine.execBlockClear g k s
  | .powerTokenReturn lid g => Sys2Proof.Machine.execPowerTokenReturn lid g s
  | .capChange layer cap => Sys2Proof.Machine.execCapChange layer cap s
  | .cqdoor w q => Sys2Proof.Machine.execCqdoor w q s
  | .cqEnable w q v => Sys2Proof.Machine.execCqEnable w q v s
  | .cqDisable w q v => Sys2Proof.Machine.execCqDisable w q v s
  | .xlinv w v => Sys2Proof.Machine.execXlinv w v s
  | .mxpart w g v => Sys2Proof.Machine.execMxpart w g v s
  | .preempt w g => Sys2Proof.Machine.execPreempt w g s
  | .resume w g => Sys2Proof.Machine.execResume w g s
  | .lmpool w cid v => Sys2Proof.Machine.execLmpool w cid v s
  | .injArm v => Sys2Proof.Machine.execInjArm v s
  | .twbankArm w v => Sys2Proof.Machine.execTwbankArm w v s
  | .retire w => Sys2Proof.Machine.execRetire w s
  | .relayBankWrite w bank n v => Sys2Proof.Machine.execRelayBankWrite w bank n v s
  | .ownclaim m => Sys2Proof.Machine.execOwnclaim m s
  | .owngive m target => Sys2Proof.Machine.execOwngive m target s
  | .owntake m => Sys2Proof.Machine.execOwntake m s
  | .registerWrite w off v => Sys2Proof.Machine.execRegisterWrite w off v s
  | .info m => Sys2Proof.Machine.execInfo m s
  | .ownq m => Sys2Proof.Machine.execOwnq m s
  | .attest m => Sys2Proof.Machine.execAttest m s
  | .fwstage m => Sys2Proof.Machine.execFwstage m s
  | .fwact m => Sys2Proof.Machine.execFwact m s
  | .unitrst m => Sys2Proof.Machine.execUnitrst m s
  | .testst m => Sys2Proof.Machine.execTestst m s
  | .logrd m => Sys2Proof.Machine.execLogrd m s
  | .abort m => Sys2Proof.Machine.execAbort m s
  | .msg p => Sys2Proof.Machine.execMsg p s
  | .lreq p => Sys2Proof.Machine.execLreq p s
  | .ldata p => Sys2Proof.Machine.execLdata p s
  | .lwb p => Sys2Proof.Machine.execLwb p s
  | .inv p => Sys2Proof.Machine.execInv p s
  | .recallPkt p => Sys2Proof.Machine.execRecallPkt p s
  | .wreq p => Sys2Proof.Machine.execWreq p s
  | .areq p => Sys2Proof.Machine.execAreq p s
  | .arsp p => Sys2Proof.Machine.execArsp p s
  | .cpydata p => Sys2Proof.Machine.execCpydata p s
  | .cpydone p => Sys2Proof.Machine.execCpydone p s
  | .qrep p => Sys2Proof.Machine.execQrep p s
  | .ctrl p => Sys2Proof.Machine.execCtrl p s
  | .ack p => Sys2Proof.Machine.execAck p s
  | .portTraining p ver => Sys2Proof.Machine.execPortTraining p ver s
  | .hostRead bar off n => Sys2Proof.Machine.execHostRead bar off n s
  | .hostWrite bar off data => Sys2Proof.Machine.execHostWrite bar off data s
  | .unassignedMajorOpcode e w => Sys2Proof.Machine.execUnassignedMajorOpcode e w s
  | .relayReceive p => Sys2Proof.Machine.execRelayReceive p s
  | .failurePacket p => Sys2Proof.Machine.execFailurePacket p s
  | .sidebandHeartbeat present => Sys2Proof.Machine.execSidebandHeartbeat present s
  | .watchdog => Sys2Proof.Machine.execWatchdog s
  | .waittime => Sys2Proof.Machine.execWaittime s
  | .kill => Sys2Proof.Machine.execKill s
  | .currentContextSelect => Sys2Proof.Machine.execCurrentContextSelect s
  | .migration => Sys2Proof.Machine.execMigration s
  | .startTask => Sys2Proof.Machine.execStartTask s
  | .fill => Sys2Proof.Machine.execFill s
  | .resultWrite => Sys2Proof.Machine.execResultWrite s
  | .remoteAccess => Sys2Proof.Machine.execRemoteAccess s
  | .remoteTargetCheck => Sys2Proof.Machine.execRemoteTargetCheck s
  | .atomicPerform => Sys2Proof.Machine.execAtomicPerform s
  | .reductionPerform => Sys2Proof.Machine.execReductionPerform s
  | .translationWalk => Sys2Proof.Machine.execTranslationWalk s
  | .copyDelivery => Sys2Proof.Machine.execCopyDelivery s
  | .completionRecord => Sys2Proof.Machine.execCompletionRecord s
  | .nextCore => Sys2Proof.Machine.execNextCore s
  | .kStep => Sys2Proof.Machine.execKStep s
  | .matrixCommandPerform => Sys2Proof.Machine.execMatrixCommandPerform s
  | .powerTokenAdmit => Sys2Proof.Machine.execPowerTokenAdmit s
  | .nodeRefill => Sys2Proof.Machine.execNodeRefill s
  | .ringToBag => Sys2Proof.Machine.execRingToBag s
  | .layerReport => Sys2Proof.Machine.execLayerReport s
  | .bargeArrival => Sys2Proof.Machine.execBargeArrival s
  | .taskPlacement => Sys2Proof.Machine.execTaskPlacement s
  | .workqTake => Sys2Proof.Machine.execWorkqTake s
  | .workqSet => Sys2Proof.Machine.execWorkqSet s
  | .workqRead => Sys2Proof.Machine.execWorkqRead s
  | .messageArrival => Sys2Proof.Machine.execMessageArrival s
  | .quiescenceSweep => Sys2Proof.Machine.execQuiescenceSweep s
  | .launchPlacement => Sys2Proof.Machine.execLaunchPlacement s
  | .hedgeSample => Sys2Proof.Machine.execHedgeSample s
  | .weirCommit => Sys2Proof.Machine.execWeirCommit s
  | .pullComplete => Sys2Proof.Machine.execPullComplete s
  | .pullFailed => Sys2Proof.Machine.execPullFailed s
  | .coreFailure => Sys2Proof.Machine.execCoreFailure s
  | .matrixClusterFailure => Sys2Proof.Machine.execMatrixClusterFailure s
  | .layerFailure => Sys2Proof.Machine.execLayerFailure s
  | .portFailure => Sys2Proof.Machine.execPortFailure s
  | .firmwareCoreFailure => Sys2Proof.Machine.execFirmwareCoreFailure s
  | .scanTest => Sys2Proof.Machine.execScanTest s
  | .scanPass => Sys2Proof.Machine.execScanPass s
  | .scanFail => Sys2Proof.Machine.execScanFail s
  | .leaseRenewal => Sys2Proof.Machine.execLeaseRenewal s
  | .leaderStop => Sys2Proof.Machine.execLeaderStop s
  | .leaderTakeover => Sys2Proof.Machine.execLeaderTakeover s
  | .launch => Sys2Proof.Machine.execLaunch s
  | .netSet => Sys2Proof.Machine.execNetSet s
  | .netDrop => Sys2Proof.Machine.execNetDrop s
  | .streamPoll => Sys2Proof.Machine.execStreamPoll s
  | .xlinvComplete => Sys2Proof.Machine.execXlinvComplete s
  | .bankSwitch => Sys2Proof.Machine.execBankSwitch s
  | .handoverTimeout => Sys2Proof.Machine.execHandoverTimeout s
  | .ownerLoss => Sys2Proof.Machine.execOwnerLoss s
  | .icoalHoldoff => Sys2Proof.Machine.execIcoalHoldoff s
  | .msixUnmask => Sys2Proof.Machine.execMsixUnmask s
  | .attemptTimeout => Sys2Proof.Machine.execAttemptTimeout s
  | .replyTimeout => Sys2Proof.Machine.execReplyTimeout s
  | .relayForward => Sys2Proof.Machine.execRelayForward s
  | .routeRetry => Sys2Proof.Machine.execRouteRetry s
  | .scrub => Sys2Proof.Machine.execScrub s
  | .strongCodeSwitch => Sys2Proof.Machine.execStrongCodeSwitch s
  | .droopAlarm => Sys2Proof.Machine.execDroopAlarm s
  | .stretchEnd => Sys2Proof.Machine.execStretchEnd s
  | .halvedIssueEnd => Sys2Proof.Machine.execHalvedIssueEnd s
  | .coreGate => Sys2Proof.Machine.execCoreGate s
  | .coreWake => Sys2Proof.Machine.execCoreWake s
  | .coreReset => Sys2Proof.Machine.execCoreReset s
  | .packageReset => Sys2Proof.Machine.execPackageReset s
  | .relayRefusal => Sys2Proof.Machine.execRelayRefusal s
  | .hostLinkDown => Sys2Proof.Machine.execHostLinkDown s
  | .hostLinkTraining => Sys2Proof.Machine.execHostLinkTraining s

end Sys2Proof.Machine
end

