-- ==== Sys2Proof/Machine/Policy.lean ====
section
/-! DEFINITION. What happens next: the choices of the environment, the passing of a cycle, and the model's own order where the schedule is
empty (R2, R293, R387 to R389, R399; log 1). -/

namespace Sys2Proof.Machine

/-! ## Issue (R36, R97, R127, R296, R388, R399) -/

/-- A group of `n` words takes the issue of its core for `n` cycles; one that is held takes none (R36, R388, R399). -/
def spend (c : Ctx) (n : Nat) : Out → Out
  | .next s => .next (if (s.ctx c.key).any fun x => x.uid == c.uid && x.held then s else s.modCore c.cur fun k => { k with busy := n })
  | o => o

/-- Fetches, decodes and executes the next group of a context. Four `ext` words are a group of four whose last word stands in `XVAL` of a `WATCHDOG`,
and a word that cannot be fetched comes before `ILLEGAL` of an earlier one (DESIGN CHOICE, log 103). -/
def State.issueGroup (st : State) (c : Ctx) : Out :=
  match st.fetchGroup c 4 c.pc [] with
  | .miss va => .next ((st.requestWalk c va .fetch).setCtx { c with held := true })
  | .bad va => .next (st.stopFetch c (c.wordsTo va) (st.programFault c 0x0A 0 c.pc (BitVec.ofNat 64 va)))
  | .poison st va => .next (st.stopFetch c (c.wordsTo va) (st.consumePoison c va))
  | .peer _ line => .next ((st.requestLine line c.tenant).setCtx { c with held := true })
  | .words st ws =>
    let st := { st with focus := some c.key }
    spend c ws.length (match decodeWords ws with
      | .ok (i, _) => exec i st
      | .error r => issueIllegal ws.length (ws.getLastD 0) r.report.1 r.report.2 st)

/-- Issues from a context: a mark for migration is tested first, then what is due is taken; otherwise the next group is executed. -/
def State.issueFrom (st : State) (c : Ctx) : Out :=
  if c.migMark && c.used == 0 then .next (st.tryMigrate c).tickStamp
  else if c.due != none then .next (st.takeDue c)
  else if awaitCheck st c then .next (st.setCtx { c with held := true })
  else st.issueGroup c

/-- May a core issue in this cycle: it has not issued in it, and its layer's cores issue (R388, R399)? -/
def State.mayIssue (st : State) (cid : Nat) : Bool :=
  !(st.core cid).failed && !(st.core cid).gated && (st.core cid).busy == 0 && (st.layer (layerOf cid)).issues

/-- A core issues; without a context that could, nothing happens. -/
def State.issueOn (st : State) (cid : Nat) : Out :=
  match (if st.mayIssue cid then st.issuerOn cid else none) with
  | some c => let r := ((st.select cid).getD st).rouse c; r.1.issueFrom r.2
  | none => .next st

/-! ## A nominal cycle passes (R2, R388, R389) -/

/-- Does a nominal cycle end a cycle of the layer: a stretched one takes two? -/
def Layer.endsCycle (y : Layer) : Bool :=
  match y.droop with
  | .stretch (_ + 1) false _ => false
  | _ => true

/-- A layer after a nominal cycle. An alarm of the cycle that ends stretches those that follow (R388). -/
def Layer.tick (y : Layer) : Layer :=
  if !y.endsCycle then
    match y.droop with
    | .stretch n _ h => { y with droop := .stretch n true h }
    | _ => y
  else
    { y with
      cycles := y.cycles + 1, alarm := none
      droop := match y.alarm with
        | some (n, h) => .stretch n false h
        | none =>
          match y.droop with
          | .stretch n _ h => .stretch (n - 1) false h
          | .halved r n => .halved (r + 1) (n - 1)
          | .normal => .normal }

/-- Has a cluster no claimed block, queued command or token (R376)? -/
def State.clusterQuiet (st : State) (g : Nat) (x : Cluster) : Bool :=
  x.claims.isEmpty && x.admitted.isEmpty && (List.range 8).all fun i => (st.matrixCmds (coreOf g i)).isEmpty

/-- A cluster after a nominal cycle: since when a launch has needed no token on it (R385), since when it has been quiet (R376), and whether its unit
may perform a K-step again. -/
def State.noteCluster (st : State) (g : Nat) (x : Cluster) : Cluster :=
  { x with
    admitted := x.admitted.map fun p =>
      (p.1, if st.needsToken p.1 g then 0 else if p.2 == 0 && (st.layer (g / 21)).endsCycle then (st.layer (g / 21)).cycles + 2 else p.2)
    quiet := if st.clusterQuiet g x then some (x.quiet.getD st.time) else none
    stepped := x.stepped && !(st.layer (g / 21)).endsCycle }

/-- A core after a nominal cycle: since when it has been idle (R387), and for how many more cycles in which it may issue its last group keeps
it. -/
def State.noteCore (st : State) (cid : Nat) (k : Core) : Core :=
  let y := st.layer (layerOf cid)
  { k with
    idleSince := if st.coreIdle cid && !st.arrivalAt cid then some (k.idleSince.getD st.time) else none
    busy := if y.endsCycle && y.issues then k.busy - 1 else k.busy }

/-- Does an instruction read a clock and no register? Nothing can hold it, so that its context issues it in the first cycle in which its core
issues from it (R111, R399; DEDUCED, log 7). -/
def readsClock : Instr → Bool
  | .csrr .. => true
  | .tstamp .. => true
  | _ => false

/-- Is the next group of a core's current context one that nothing can hold? -/
def State.promptAt (st : State) (cid : Nat) : Bool :=
  st.mayIssue cid && ((st.currentOn cid).filter Ctx.unheld).any fun c =>
    c.due == none && (match st.fetchGroup c 4 c.pc [] with
      | .words _ ws => (match decodeWords ws with
        | .ok (i, _) => readsClock i
        | .error _ => false)
      | _ => false)

/-- May a nominal cycle pass? Not while what a rule ties to this time is still to be done: the fault of a wait of more than `WAITLIM` cycles (R30),
the end of a droop phase (R388), an armed bank switch (R353), the message of a vector whose holdoff is over (R362), a scrub pass of 12 hours (R370), a
test that is due or has lasted 1.5 ms (R376), or an issue that nothing can hold (R399). -/
def State.mayTick (st : State) : Bool :=
  !(st.ctxs.any fun p => st.inWait p.2 && st.waitedOut p.2) && !(st.layers.any fun (p : Nat × Layer) => p.2.phaseOver) && !st.switchDue &&
    !(st.streams.any fun p => st.holdoffDue p.1) && !st.scrubDue && !st.scanDue && !st.cores.any fun p => st.promptAt p.1

/-- A nominal cycle of 1⅔ ns: every layer's cycles, reference time and schedule time go on, and what was held may try again. -/
def State.tick (st : State) : State :=
  let t := st.time + Config.cycleUnits
  let st := { st with
    time := t, podTime := st.podTime + (t / 3 - st.time / 3)
    ctxs := st.ctxs.map fun (p : Nat × Ctx) => (p.1, { p.2 with held := false })
    clusters := st.clusters.map fun (p : Nat × Cluster) => (p.1, st.noteCluster p.1 p.2)
    cores := st.cores.map fun (p : Nat × Core) => (p.1, st.noteCore p.1 p.2) }
  ((List.range 16).foldl (fun (s : State) l => s.modLayer l Layer.tick) st).noteLoss.returnCredits

/-- A nominal cycle passes where it may. -/
def State.pass (st : State) : State := if st.mayTick then st.tick else st

/-! ## The model's own order (log 1) -/

/-- The first of some device steps that is enabled. -/
def tryFirst : List (Instr × Nat) → State → Option State
  | [], _ => none
  | (i, n) :: l, st =>
    match exec i { st with item := n, focus := none } with
    | .next s => some s
    | _ => tryFirst l st

/-- Device steps on work that is under way. -/
def State.workSteps (st : State) : List (Instr × Nat) :=
  let cids := st.cores.map Prod.fst
  let gs := ((st.clusters.map Prod.fst) ++ cids.map clusterOf).dedup
  st.kills.map (fun u => (Instr.kill, u)) ++
  st.accs.flatMap (fun (a : Access) => [(Instr.resultWrite, a.id), (Instr.remoteAccess, a.id), (Instr.atomicPerform, a.id)]) ++
  st.remotes.map (fun (r : Remote) => (Instr.remoteTargetCheck, r.id)) ++
  (st.cores.filter fun (p : Nat × Core) => !p.2.reds.isEmpty).map (fun p => (Instr.reductionPerform, p.1)) ++
  st.walks.map (fun (w : Walk) => (Instr.translationWalk, w.id)) ++
  st.clusters.flatMap (fun (p : Nat × Cluster) => p.2.claims.map fun b => (Instr.blockClear p.1 b.1, 0)) ++
  gs.flatMap (fun g => [(Instr.kStep, g), (Instr.matrixCommandPerform, g), (Instr.nextCore, g)]) ++
  ((st.powerReqs.map fun (r : PowerReq) => r.g / 21).dedup).map (fun l => (Instr.powerTokenAdmit, l)) ++
  st.copies.flatMap (fun (x : Copy) => [(Instr.copyDelivery, x.id), (Instr.completionRecord, x.id)]) ++
  st.ctxs.flatMap (fun (p : Nat × Ctx) => (List.range p.2.slots.length).flatMap fun s =>
    [(Instr.stripRefill p.1 s, 0), (Instr.stripPushWrite p.1 s, 0)]) ++
  cids.flatMap (fun c => [(Instr.nodeRefill, c), (Instr.ringToBag, c), (Instr.coreWake, c)]) ++
  st.barges.map (fun (b : Barge) => (Instr.bargeArrival, b.id)) ++
  st.msgs.map (fun (m : Msg) => (Instr.messageArrival, m.id)) ++
  st.workReqs.flatMap (fun (r : WorkReq) => [(Instr.workqTake, r.id), (Instr.workqSet, r.id), (Instr.workqRead, r.id)]) ++
  st.commits.map (fun (c : Commit) => (Instr.weirCommit, c.id)) ++
  st.tiles.flatMap (fun (p : Nat × Tile) => if p.2.pulling.isSome then [(Instr.pullComplete, p.1), (Instr.pullFailed, p.1)] else []) ++
  cids.flatMap (fun c => [(Instr.fill, c), (Instr.startTask, c)]) ++
  st.toPlace.map (fun (t : Task) => (Instr.taskPlacement, t.id)) ++
  st.launches.flatMap (fun (p : Nat × Launch) => [(Instr.launchPlacement, p.1), (Instr.quiescenceSweep, p.1)])

/-- Device steps that time or the outside world brings. -/
def State.timedSteps (st : State) : List (Instr × Nat) :=
  (st.streams.filter fun (p : Nat × Stream) => p.2.en).flatMap (fun p =>
    [(Instr.launch, p.1), (Instr.netSet, p.1), (Instr.netDrop, p.1), (Instr.streamPoll, p.1)]) ++
  (st.streams.filter fun (p : Nat × Stream) => p.2.unsig != 0).map (fun p => (Instr.icoalHoldoff, p.1)) ++
  st.ctxs.flatMap (fun (p : Nat × Ctx) => if st.inWait p.2 then [(Instr.waittime, p.1)] else []) ++
  [(Instr.xlinvComplete, 0), (Instr.bankSwitch, 0), (Instr.handoverTimeout, 0), (Instr.ownerLoss, 0), (Instr.hedgeSample, 0),
    (Instr.leaseRenewal, 0), (Instr.leaderStop, 0)] ++
  (if st.scrubDue then [(Instr.scrub, st.scrubNext)] else []) ++
  (if st.fw.leads st.time then ((List.range 336).filter fun g => st.testOverdue g && st.testable g).map fun g => (Instr.scanTest, g) else []) ++
  (st.clusters.filter fun (p : Nat × Cluster) => p.2.testing.isSome && decide (p.2.testAt + 4500000 ≤ st.time)).map (fun p =>
    (if Config.scanPasses st.frees then Instr.scanPass else Instr.scanFail, p.1)) ++
  ((List.range 18).map fun f => (Instr.leaderTakeover, f)) ++
  (st.layers.map Prod.fst).flatMap (fun l => [(Instr.stretchEnd, l), (Instr.halvedIssueEnd, l), (Instr.layerReport, l)]) ++
  st.clusters.flatMap (fun (p : Nat × Cluster) => p.2.admitted.map fun a => (Instr.powerTokenReturn a.1 p.1, 0)) ++
  st.fab.basin.map (fun (h : Held) => (Instr.relayForward, h.id)) ++
  st.fab.kept.flatMap (fun (k : Kept) => [(Instr.routeRetry, k.id), (Instr.attemptTimeout, k.id)]) ++
  st.fab.awaits.map (fun (a : Await) => (Instr.replyTimeout, a.id))

/-- The core of least number, from `turn` on, with a context that can issue and is not held. -/
def State.nextIssuer (st : State) : Option Nat :=
  leastBy id (((st.ctxs.map fun (p : Nat × Ctx) => p.2.cur).dedup).filter fun c =>
    decide (st.turn ≤ c) && st.mayIssue c && (st.issuerOn c).isSome)

/-- What happens where the schedule is empty: an enabled device step, else an issue, else a cycle. -/
def State.proceed (st : State) : Out :=
  match tryFirst (st.workSteps ++ st.timedSteps) st with
  | some s => .next s
  | none =>
    match st.nextIssuer with
    | some c => { st with turn := c + 1 }.issueOn c
    | none => .next { st.pass with turn := 0 }

/-! ## Choices -/

/-- Carries out a choice. One that is not possible in this state, or that names a word instruction, does nothing. -/
def State.choose (st : State) : Choice → Out
  | .event i n =>
    match exec i { st with item := n, focus := none } with
    | .next s => .next s
    | _ => .next st
  | .issue cid => st.issueOn cid
  | .tick => .next st.pass
  | .evictData cid line => .next (st.flushLine cid line)
  | .evictCode cid line => .next (st.modCore cid fun k => { k with icache := k.icache.filter fun p => p.1 != line })
  | .evictPeer line => .next (st.dropPeerLine line)
  | .dropEntry layer station n =>
    .next (st.modLayer layer fun y => { y with stations := y.stations.map fun p => (p.1, if p.1 == station then p.2.eraseIdx n else p.2) })
  | .askNodes cid =>
    .next (st.modCore cid fun k => match k.freeNodes with
      | some (n, l) => if l.length ≤ 16 then k.askNodes n else k
      | none => k)
  | .credits relay n =>
    .next (if st.meets relay then { st with fab := { st.fab with credit := st.fab.credit.put relay (st.fab.credit.getD relay 0 - n) } } else st)
  | .upset u => .next (st.upset u)

end Sys2Proof.Machine
end

