-- ==== Sys2Proof/Machine/Step.lean ====
section
/-! DEFINITION. One step of the package, and the placing of an instruction where the next step fetches it (log 1, log 4). -/

namespace Sys2Proof.Machine

/-- One step: the first choice of the schedule, or the model's own order where it is empty. -/
def step (st : State) : Host.Outcome State Fault Refusal :=
  match st.schedule with
  | c :: rest => { st with schedule := rest }.choose c
  | [] => st.proceed

/-- The physical and virtual address at which `withFetchWord` places an instruction. -/
def fetchPlace (s : State) : Nat := s.pkg * 2 ^ 47 + 0x100000

/-- The launch whose task `withFetchWord` runs. -/
def fetchLaunch : Launch :=
  { stream := 0, seq := 0, isLaunch := true, net := 0, tenant := 0, pid := 0, prio := 0, deps := [], dependent := false, slot := 0, handler := 0, payload := [], phase := .live,
    fault := none, tplace := some 0, tend := 0, counters := List.replicate 16 (0, 0), layers := [0], sweep := none, aborting := false,
    guest := none, taken := [] }

/-- The task of `withFetchWord`: a light task on core 0. -/
def fetchStart (n pc : Nat) : Start :=
  { foot := 2, heavy := false, sup := false, backup := false, chan := 0, prio := 0, pairClass := false, mseq := 0, tclass := 0, lease := 0,
    launch := n, net := 0, tenant := 0, firing := none, vals := [], handler := pc, port := true }

/-- The state with an instruction stored where the next step fetches it: in near DRAM, untranslated, with a light task on core 0 at it and
core 0 issuing next. It stands for a launch that a host would make (log 4). -/
def State.withFetchWord (s : State) (nbits w : Nat) : State :=
  let pc := fetchPlace s
  let c := Ctx.fresh s.stamp 0 0 s.time (s.stamp + 1) 0 0 (fetchStart s.nextLaunch pc)
  let k := { s.core 0 with current := some 0, icache := [], failed := false, gated := false, busy := 0 }
  { s with
    schedule := [.issue 0], stamp := s.stamp + 2, mem := s.mem.writeBytes pc (bytesOf 16 (w % 2 ^ nbits)), poison := [], slices := []
    cfg := { s.cfg with nearFree := MemCfg.reset.nearFree, ptEn := false, injArm := false }
    ctxs := s.ctxs.put 0 c, cores := s.cores.put 0 k, layers := s.layers.put 0 { s.layer 0 with droop := .normal }
    launches := s.launches.put s.nextLaunch fetchLaunch, nextLaunch := s.nextLaunch + 1 }

end Sys2Proof.Machine
end

