-- ==== Sys2Proof/Safety.lean ====
section
/-! DEFINITION. What the statements are made of: a context that may issue, the state behind a retired group, the invariants of the
model, and a safe run. -/

namespace Sys2Proof.Machine

/-! ## Exact values of numbers (R48, R58) -/

/-- The rational number that a finite value stands for. -/
def FVal.rat : FVal → ℚ
  | .fin s n d => (if s then -1 else 1) * ((n : ℚ) / (d : ℚ))
  | _ => 0

/-- Is a value finite? -/
def FVal.finite : FVal → Bool
  | .fin .. => true
  | _ => false

/-- `r` is the exact number `z`, rounded once to format `f` by mode `rm`; a zero takes the sign `zs` (R50, R51, R54). -/
def Fmt.roundsTo (f : Fmt) (rm : Nat) (z : ℚ) (zs : Bool) (r : Res) : Prop :=
  if z = 0 then r = ⟨f.withSign zs 0, 0⟩
  else ∃ n d : Nat, 0 < n ∧ 0 < d ∧ |z| = (n : ℚ) / (d : ℚ) ∧ r = f.round rm (decide (z < 0)) n d

/-- A NaN pattern with its quiet bit set (R52). -/
def Fmt.quieted (f : Fmt) (x : Nat) : Nat := x ||| 2 ^ (f.fw - 1)

/-- The place of a pattern that is no NaN in the order of R54, in which −0 lies below +0. -/
def Fmt.rank (f : Fmt) (x : Nat) : Int := if f.neg x then -(f.mag x : Int) - 1 else f.mag x

/-- `T l i` is the node `i` of level `l` of a summing tree whose nodes `RoundMat` rounds: one with two children is their rounded sum, one with one
passes it on, and one with none is absent (R67, R74, R181). -/
def IsMatTree (T : Nat → Nat → Option FVal) : Prop :=
  ∀ l i, T (l + 1) i = match T l (2 * i), T l (2 * i + 1) with
    | some x, some y => some (f32.value (matRound (x.add y)))
    | some x, none => some x
    | none, z => z

/-! ## Issue and retirement (R25, R36, R111) -/

/-- Context `c` issues in `s`, a group with the `ext` words `e` fits into its yield interval (R36), and none of the scalar and vector
registers that the group names awaits a result (R111). -/
abbrev Runs (s : State) (c : Ctx) (e : List Ext) (scal vec : List Nat) : Prop :=
  s.issuer = some c ∧ c.used + groupWords e ≤ c.limit ∧ blocks scal vec s c = false

/-- The same for an access of local memory, which comes behind every acquire of its context (R135, R273). -/
abbrev RunsLocal (s : State) (c : Ctx) (e : List Ext) (scal vec : List Nat) : Prop := Runs s c e scal vec ∧ s.acquirePending c.uid = false

/-- The same for an explicit yield point, `tend` and `commit`, which the interval does not refuse (R36). -/
abbrev Yields (s : State) (c : Ctx) (scal : List Nat) : Prop := s.issuer = some c ∧ blocks scal [] s c = false

/-- The context `c` is held in `s` and tries again in a later cycle (R111, R112). -/
def State.holds (s : State) (c : Ctx) : State := s.setCtx { c with held := true }

/-- The address behind a group (R96). -/
def Ctx.nextPc (c : Ctx) (e : List Ext) : BitVec 57 := c.pc + BitVec.ofNat 57 (4 * groupWords e)

/-- The state in which the issuing context `c`, left as `c'` by its group, has retired it in `s` and goes on behind it. -/
def State.past (s : State) (c : Ctx) (e : List Ext) (c' : Ctx) : State := s.retire c' (groupWords e) (c.nextPc e)

/-- The state in which the issuing context `c`, left as `c'`, has retired its group in `s` and goes on at `target`. -/
def State.jumped (s : State) (e : List Ext) (c' : Ctx) (target : BitVec 57) : State := s.retire c' (groupWords e) target

/-- The state behind an instruction that has been accepted as one access (R112). -/
def State.accepted (s : State) (c : Ctx) (e : List Ext) (op : AccOp) (elems : List Elem) (o : MemOrd) (d : Dest) (sx : Bool) : State :=
  (s.accept c op elems o d sx).1.past c e (s.accept c op elems o d sx).2

/-- The state behind an instruction that the start core's bank has performed in `s`, leaving the context as `c'`: a migrated context awaits
the bank's answer (R29, R297). -/
def State.pastBank (s : State) (c : Ctx) (e : List Ext) (c' : Ctx) : State := (s.awaitBank c').past c e c'

/-- The state behind a gather or a scatter that has been accepted, one request per lane group and line (R9, R294). -/
def State.acceptedLanes (s : State) (c : Ctx) (e : List Ext) (op : AccOp) (elems : List Elem) (o : MemOrd) (d : Dest) : State :=
  (s.acceptGroups c op (laneGroups elems) o d false).1.past c e (s.acceptGroups c op (laneGroups elems) o d false).2

/-- A vector instruction may read its sources: its registers lie in the footprint (R31), the tags pass (R139), and popping the strips of its
pop-bound sources, if it has any, leaves the context `x` (R161). -/
abbrev Ctx.sources (c : Ctx) (named : List Nat) (checks : List (Nat × Nat × Nat)) (srcs : List Nat) (x : Ctx) : Prop :=
  (∀ r ∈ named, r < footLimit c.foot) ∧ c.formatFault checks = none ∧ c.popAll [] srcs = .ok x

/-- Slot `x` after the strip `bits` has been pushed through it (R162, R163). -/
def Slot.pushed (s : State) (x : Slot) (bits : BitVec 2048) (xl : List (Nat × Nat × Nat)) : Slot :=
  { x with xl := x.xl ++ xl, pos := x.pos + 1, staged := x.staged ++ [(x.pos, ⟨bits, none, none, s.stamp⟩)] }

/-- Slot `sl` of context `c` takes a strip of tag `tag` now (R162): the tag fits, there is room, and the strip's place in local memory may be
written, or its pages translate, which leaves the translations `xl`. -/
def State.admitsPush (s : State) (c : Ctx) (sl : Slot) (tag : Nat) (xl : List (Nat × Nat × Nat)) : Prop :=
  (sl.shape.fmt = 0 ∨ tag = sl.shape.fmt) ∧ sl.staged.length < 4 ∧
    let l := sl.shape.strip sl.pos
    (sl.shape.space = 0 ∧ s.localPushFault c l sl.shape.bytes = none ∧ xl = [] ∨
     sl.shape.space ≠ 0 ∧ ∃ pas, s.translateAll c .write (pagesOf (l.map Prod.fst)) = .all pas ∧
       xl = ((pagesOf (l.map Prod.fst)).zip pas).map fun p => (sl.pos, p.1 / 65536, p.2 / 65536 * 65536))

/-- The result `r` of a vector instruction reaches register `d` of the context `x` and leaves it as `y`: the register of an unbound name,
nothing for a pop-bound one (R161), and a strip for a push-bound one that takes it (R162). -/
def State.takesResult (s : State) (x : Ctx) (d : Nat) (r : VReg) (y : Ctx) : Prop :=
  match x.slotOf d with
  | none => y = x.setV d r
  | some sl =>
    if sl.push then ∃ xl, s.admitsPush x sl r.tag xl ∧ y = (x.setV d r).putSlot (sl.pushed s r.bits xl)
    else y = x

/-- A result for register `d` with tag `tag` that arrives later is announced in context `c`, which leaves it as `y`: a push-bound register is
checked now (R162). -/
def State.awaitsResult (s : State) (c : Ctx) (d tag : Nat) (y : Ctx) : Prop :=
  match c.slotOf d with
  | none => y = c
  | some sl => if sl.push then ∃ xl, s.admitsPush c sl tag xl ∧ y = c.putSlot { sl with xl := sl.xl ++ xl } else y = c

/-- The `n` bytes `b` of a record at `va` are at hand for an instruction of context `c`; their reading leaves the state `u`, and counts in the
migration predictor of the context as `f` says (R159, R227, R295). -/
def State.readsRecord (s : State) (c : Ctx) (va n : Nat) (u : State) (f : Ctx → Ctx) (b : List Byte) : Prop :=
  ∃ pa v, s.translateAll c .read [va] = .all [pa] ∧ s.mustWait c.uid pa = false ∧
    s.lineHere pa c.acqPod = true ∧ s.plainRead c pa n = (u, v, false) ∧ f = (fun y => s.predictRead y pa) ∧ b = bytesOf n v

/-- The result of instruction `i` is computed element by element of width `w`, in the lanes that `m` names, into register `d`, and its flags
are raised (R55, R113, R140). -/
def State.writesLanes (s : State) (c x : Ctx) (e : List Ext) (i : Instr) (d : R5) (tag w : Nat) (m : W64) (f : Nat → Res) : Prop :=
  ∀ y, s.takesResult x d.toNat ⟨(lanewise w m (x.getV d.toNat).bits f).1, tag⟩ y →
    exec i s = .next (s.past c e (y.raise (lanewise w m (x.getV d.toNat).bits f).2))

/-! ## Accesses -/

/-- A heavy task stays inside its own lease (R38). -/
abbrev Ctx.mayTouch (c : Ctx) (a n : Nat) : Prop := c.heavy = true → c.owns a n = true

/-- Local bytes that an instruction may store to: no other context's lease, not in the completion ring, no barrier word (R39, R132, R232), and
not still to be read by a matrix command (R187). -/
abbrev State.mayStore (s : State) (c : Ctx) (l : List (Nat × Nat)) : Prop :=
  (∀ p ∈ l, (s.core c.start).guarded c.uid p.1 p.2 = false ∧ (s.core c.start).tagged p.1 p.2 = false) ∧ s.matrixReads c.start l = false

/-- The state behind an instruction whose request, which names no address, has been accepted and will be answered in `d` (R111). -/
def State.requested (s : State) (c : Ctx) (e : List Ext) (op : AccOp) (d : R5) : State :=
  let a : Access :=
    { id := s.stamp, grp := s.stamp, uid := c.uid, key := c.key, launch := c.launch, net := c.net, tenant := c.tenant, cid := c.cur,
      op := op, elems := [], ord := ⟨0, 0, 0⟩, dest := .sreg d.toNat, sx := false, answer := none, sent := false }
  ({ s with accs := s.accs ++ [a] } : State).tickStamp.past c e c

/-- A node operation of context `c` may look at the node word at `pa` now (R244). -/
abbrev State.nodeReady (s : State) (c : Ctx) (pa : Nat) : Prop :=
  s.nodeBusy c.uid = false ∧ s.mustWait c.uid pa = false ∧ s.lineHere pa c.acqPod = true

/-- The reference `r`, translated to `pa`, names a port of its node (R238, R243). -/
abbrev State.namesPort (s : State) (r pa : Nat) : Prop :=
  portOffset r = true ∧ (r % 64 = 8 ∨ r % 64 / 8 ≤ hdrArity (s.headerOf pa) + 1)

/-- The state in which a matrix command has entered the queue of its core (R185). -/
def State.queued (s : State) (c : Ctx) (op : MOp) : State :=
  (s.modCore c.start fun k => { k with mq := k.mq ++ [{ id := s.stamp, uid := c.uid, key := c.key, launch := c.launch, heavy := c.heavy, op := op }] }).tickStamp

/-- A release of scope `sc` by context `c` passes at once and leaves the state `u`: its accesses are performed, and at `.pod` no line is still on
its way to its owner (R209, R278). -/
def State.releases (s : State) (c : Ctx) (sc : Nat) (u : State) : Prop :=
  s.quiet c = true ∧ u = s.releaseEffects c sc ∧ (sc = 6 → u.peersClean = true)

/-- The state behind an acquire of scope `sc`; the context acquires at the event `stamp + 1` (R278). -/
def State.acquiring (s : State) (sc : Nat) : State := (s.dropPeers sc).tickStamp

/-- Context `c` may use the barrier or full/empty word of `n` bytes at `x` of its core, which is tagged (R217). -/
abbrev State.atBarrier (s : State) (c : Ctx) (x : Nat) : Prop :=
  c.mayTouch x 8 ∧ x % 8 = 0 ∧ x ≤ 0x7FFF8 ∧ ((s.core c.start).tags.find (x / 8)).isSome = true

/-- The context of `c` goes on in `t` behind its yield point `e`, as `c'` but for its place in the scheduler (R35, R36). -/
def State.yieldsTo (t : State) (c c' : Ctx) (e : List Ext) (limit : Nat) : Prop :=
  ∃ y, t.ctx c.key = some y ∧ y.st = c.st ∧ y.pc = c.nextPc e ∧ y.used = 0 ∧ y.limit = limit ∧ y.rwc = c.rwc + groupWords e ∧
    y.s = c'.s ∧ y.acqStamp = c'.acqStamp ∧ y.acqPod = c'.acqPod ∧ y.due = c'.due

/-- The context of `c` is parked in `t` behind its yield point `e`, and waits for `w` (R28, R35). -/
def State.parksFor (t : State) (c : Ctx) (e : List Ext) (w : Wait) : Prop :=
  ∃ y, t.ctx c.key = some y ∧ y.st = .parked ∧ y.wait = some w ∧ y.pc = c.nextPc e ∧ y.used = 0 ∧ y.limit = 4096 ∧ y.s = c.s

/-! ## Masters and packets -/

/-- A master has asked for mailbox command `cmd`, with at least `need` bytes, in version 1; none is in progress in its mailbox, and a leader acts
(R364). -/
def State.asked (s : State) (m : Master) (cmd need : Nat) : Prop :=
  let w := (s.box m).req.readN 0 8
  (s.box m).go = true ∧ (s.box m).working = none ∧ s.fw.leads s.time = true ∧ w % 2 ^ 8 = cmd ∧ w / 2 ^ 8 % 2 ^ 4 = 1 ∧ need ≤ w / 2 ^ 16 % 2 ^ 16 ∧
    w / 2 ^ 16 % 2 ^ 16 ≤ 256

/-- A packet of kind `kind` for this package is well formed and new, and a bank is valid where its kind needs one (R345, R347, R356). -/
def State.takesPacket (s : State) (p : Packet) (kind : Nat) : Prop :=
  p.dst = s.pkg ∧ p.reserved = 0 ∧ p.kind = kind ∧ (kind = 12 ∨ s.fab.validA = true ∨ s.fab.validB = true) ∧
    (s.fab.window p.src).fresh p.eseq = true

/-! ## Invariants -/

/-- Every context is stored once, under the key of its start core and slot (R27). -/
abbrev State.Keyed (s : State) : Prop := (s.ctxs.map Prod.fst).Pairwise (· < ·) ∧ ∀ p ∈ s.ctxs, p.1 = p.2.key

/-- The memory of the package and the local memory of every core are in their canonical form. -/
abbrev State.MemOk (s : State) : Prop := s.mem.wf = true ∧ ∀ p ∈ s.cores, p.2.lm.wf = true

/-- A step of a safe run: it answers a next state, whose contexts are stored under their keys and whose memory is canonical. -/
def SafeStep (s : State) : Prop := ∃ t, step s = .next t ∧ t.Keyed ∧ t.MemOk

/-! ## What a step leaves alone -/

/-- `t` differs from `s` in nothing but its contexts, its tenants' work and the event counter: all memory, local and global, every
core, cluster, layer and device register is as before. -/
def State.onlyContexts (s t : State) : Prop := t = { s with ctxs := t.ctxs, tenants := t.tenants, stamp := t.stamp }

/-- Every context of `s` but the one under key `k` is in `t` as it was. -/
def State.othersKept (s t : State) (k : Nat) : Prop := ∀ j, j ≠ k → t.ctx j = s.ctx j

/-- An instruction of `c` in `s` answers `t`, in which the context waits for `w`, still at the instruction: it has counted no work and changed
no register, no stream, no local byte and no granule (R28, R35, R133). -/
def State.parksAt (s t : State) (c : Ctx) (w : Wait) : Prop :=
  (∃ y, t.ctx c.key = some y ∧ y.st = .parked ∧ y.wait = some w ∧ y.place = some (c.place.getD s.stamp) ∧ y.pc = c.pc ∧ y.rwc = c.rwc ∧
    y.used = 0 ∧ y.limit = 4096 ∧ y.s = c.s ∧ y.v = c.v ∧ y.slots = c.slots) ∧
  (∀ q, (t.core q).lm = (s.core q).lm ∧ (t.core q).full = (s.core q).full) ∧ t.mem = s.mem ∧ s.othersKept t c.key

/-- `c'` is `c` but for scalar registers, pc, work, yield interval, flags and scheduling. -/
def Ctx.scalarOnly (c c' : Ctx) : Prop :=
  c' = { c with s := c'.s, pc := c'.pc, rwc := c'.rwc, used := c'.used, held := c'.held, place := c'.place, woken := c'.woken,
                issuedAt := c'.issuedAt, csrOld := c'.csrOld, fpflags := c'.fpflags, due := c'.due }

/-- `c'` is `c` but for vector registers, pc, work, yield interval, flags and scheduling. -/
def Ctx.vectorOnly (c c' : Ctx) : Prop :=
  c' = { c with v := c'.v, pc := c'.pc, rwc := c'.rwc, used := c'.used, held := c'.held, place := c'.place, woken := c'.woken,
                issuedAt := c'.issuedAt, fpflags := c'.fpflags }

end Sys2Proof.Machine
end

