-- ==== Sys2Proof/Certificates/Slice0/Obligations.lean ====
section
/-! DEFINITION. The statements for the provers. A statement about an instruction word says what `exec` answers when a context `c`
issues it in state `s` (`Runs`); `State.past` is the state behind the group, whose parts `Retirement` spells out. -/

section
open Sys2Proof Sys2Proof.Machine

/-! ## Encoding -/

/-- Tier 3 (R75 to R97). Every legal instruction with a word, encoded as bytes in little-endian order with its `ext` words first, is
decoded to itself with nothing left, whatever its operands. -/
def Obligations.DecodeOfEncode : Prop :=
  ∀ i : Instr, i.isWord = true → WellFormed i = true → decode ((encode i).flatMap bytesOfWord) = .ok (i, [])

/-- R75 to R97. What the decoder accepts has one reading: an instruction that it reads from some words is legal, and the words are its
encoding followed by the rest. The words before an unassigned major opcode are not looked at (R81, R97). -/
def Obligations.EncodeOfDecode : Prop :=
  ∀ (ws rest : List W32) (i : Instr), decodeWords ws = .ok (i, rest) → (∀ e w, i ≠ .unassignedMajorOpcode e w) →
    WellFormed i = true ∧ ws = encode i ++ rest

/-- R76 to R86. Words written out from the encoding tables, one of each of several families, decode to the instruction they stand for. -/
def Obligations.SpecWordsDecode : Prop :=
  ∀ p ∈ ([
    -- major 0x01: d 3, a 4, b 5, function 1
    (0b0000001_00011_00100_00101_0000000001#32, Instr.sub [] 3 4 5),
    -- major 0x02: d 1, a 2, immediate −1
    (0b0000010_00001_00010_111111111111111#32, Instr.addi [] 1 2 0x7FFF),
    -- major 0x10: x 6, y 7, offset −2
    (0b0010000_00110_00111_111111111111110#32, Instr.beq [] 6 7 0x7FFE),
    -- major 0x19: d 9, CSR 0x020
    (0b0011001_01001_00000000_000000100000#32, Instr.csrr [] 9 0x020),
    -- major 0x1A: d 8, a 2, size 3, mode 0, offset 4
    (0b0011010_01000_00010_11_00_00000000100#32, Instr.ldl [] 8 2 3 0 4),
    -- major 0x20: d 1, a 2, b 3, mask 0, rounding 2
    (0b0100000_00001_00010_00011_00000_000_10#32, Instr.vadd [] 1 2 3 0 2),
    -- major 0x38: d 4, a 5, tag 2, mode 0, offset 1
    (0b0111000_00100_00101_0010_00_000000001#32, Instr.vld [] 4 5 2 0 1),
    -- major 0x40: window 1, descriptors 2 and 3, index register 4, check 1
    (0b1000000_0001_010_011_00100_000000000_1#32, Instr.mma [] 1 2 3 4 1),
    -- major 0x48: d 1, a 2, b 3, function 0, size 1, form 0
    (0b1001000_00001_00010_00011_0000_01_0000#32, Instr.amoAdd [] 1 2 3 1),
    -- major 0x4D: d 1, a 2, scope 5, function 4
    (0b1001101_00001_00010_000000000_101_100#32, Instr.bwait [] 1 2 5),
    -- major 0x51: d 1, a 2, b 3
    (0b1010001_00001_00010_00011_0000000000#32, Instr.plink [] 1 2 3),
    -- major 0x58: d 7, function 2
    (0b1011000_00111_00000000000000000010#32, Instr.tstamp [] 7)
  ] : List (W32 × Instr)), decodeWords [p.1] = .ok (p.2, [])

/-! ## Fetch and step -/

/-- R96, R97, R388, R399. When the schedule lets core `cid` issue, the core may issue, its issuer `c`, which leaves its wait as `x` if its turn
has only now come, has nothing due, and the words fetched at its pc decode to an instruction, the step is that instruction's `exec` on the
state after the fetch, with `x` as the issuing context. When the words are no instruction, and it may retire them, the step is the program
fault `ILLEGAL` of `x` with the detail and the word that the decoder reports; nothing else is executed. Either way a group that is not held
takes the issue of the core for as many cycles as it has words (`spend`), and changes nothing more. That the issuer is the current context,
or while that is held the one that has waited longest since it issued, is log 7 and 79, and that a woken context stays parked until its turn
comes is log 97. -/
def Obligations.StepRunsDecoded : Prop :=
  (∀ (s t v u : State) (cid : Nat) (rest : List Choice) (c x : Ctx) (ws more : List W32) (i : Instr),
     s.schedule = .issue cid :: rest → t = ({ s with schedule := rest } : State) → t.mayIssue cid = true → t.issuerOn cid = some c →
     ((t.select cid).getD t).rouse c = (v, x) → (x.migMark && x.used == 0) = false → x.due = none → awaitCheck v x = false →
     v.fetchGroup x 4 x.pc [] = .words u ws → decodeWords ws = .ok (i, more) →
     step s = spend x ws.length (exec i { u with focus := some x.key })) ∧
  (∀ (s t v u : State) (cid : Nat) (rest : List Choice) (c x : Ctx) (ws : List W32) (r : Reject),
     s.schedule = .issue cid :: rest → t = ({ s with schedule := rest } : State) → t.mayIssue cid = true → t.issuerOn cid = some c →
     ((t.select cid).getD t).rouse c = (v, x) → (x.migMark && x.used == 0) = false → x.due = none → awaitCheck v x = false →
     v.fetchGroup x 4 x.pc [] = .words u ws → decodeWords ws = .error r →
     u.ctx x.key = some x → x.canIssue = true → awaitCheck { u with focus := some x.key } x = false → x.used + ws.length ≤ x.limit →
     step s = spend x ws.length
       (.next (State.programFault { u with focus := some x.key } x 0x01 r.report.1 x.pc (r.report.2.zeroExtend 64)))) ∧
  (∀ (t : State) (c : Ctx),
     (c.st ≠ .parked → t.rouse c = (t, c)) ∧
     (c.st = .parked → t.rouse c = (t.setCtx { c with st := .ready }, { c with st := .ready }))) ∧
  (∀ (c x : Ctx) (n : Nat) (t : State), t.ctx c.key = some x →
     (x.uid = c.uid → x.held = true → spend c n (.next t) = .next t) ∧
     (x.uid ≠ c.uid ∨ x.held = false → spend c n (.next t) = .next (t.modCore c.cur fun k => { k with busy := n }))) ∧
  (∀ (c : Ctx) (n : Nat) (t : State), t.ctx c.key = none → spend c n (.next t) = .next (t.modCore c.cur fun k => { k with busy := n })) ∧
  (∀ (t : State) (cid : Nat), t.mayIssue cid = true ↔
     (t.core cid).failed = false ∧ (t.core cid).gated = false ∧ (t.core cid).busy = 0 ∧ (t.layer (layerOf cid)).issues = true)

/-- R3, R75, R91, R96. Without translation, a word of this package's memory whose line neither the core nor a slice has cached is read from
memory at the pc, lowest byte first: the fetch finds it. When it is no `ext` word it is the whole group; when it is one, the group goes on
with the words that a fetch of at most three more finds behind it. Memory is not changed. -/
def Obligations.FetchReadsMemory : Prop :=
  ∀ (s : State) (c : Ctx) (pc : BitVec 57),
    s.cfg.ptEn = false → s.cfg.injArm = false → s.poison = [] → s.slices = [] → s.peerLines = [] → (s.core c.cur).icache = [] →
    s.identity pc.toNat c.sup = some pc.toNat → paSpace pc.toNat < 2 → s.isPeer pc.toNat = false → pc.toNat % 128 + 4 ≤ 128 →
    let w : W32 := BitVec.ofNat 32 (s.mem.readN pc.toNat 4)
    ∃ u, u.mem = s.mem ∧
      (isExtWord w = false → s.fetchGroup c 4 pc [] = .words u [w]) ∧
      (isExtWord w = true → s.fetchGroup c 4 pc [] = u.fetchGroup c 3 (pc + 4) [w])

/-- R27, R40 to R45. No step of a state whose contexts are stored under their keys stops the machine: faults, traps and kills of programs
are next states. -/
def Obligations.StepAnswersNext : Prop :=
  ∀ s : State, s.Keyed → ∃ t, step s = .next t

/-! ## Invariants -/

/-- Every context stays under the key of its start core and slot, once (R27, R297). -/
def Obligations.StepKeepsKeyed : Prop :=
  ∀ s t : State, s.Keyed → step s = .next t → t.Keyed

/-- Tier 3. The memory of the package stays in its canonical form in every step. -/
def Obligations.StepKeepsMemoryCanonical : Prop :=
  ∀ s t : State, s.MemOk → step s = .next t → t.MemOk

/-- Both invariants hold at reset, and reset is as the manual says where it gives a value: no context and no launch, translation off
(R287), no owner (R366), every stream disabled (R309), matrix partitions of 8 row-blocks and weights of 1 (R171), a lease pool from 0x40000
(R289), `TWWIN` 1000 and `TWRETRY` 4 (R356). -/
def Obligations.ResetState : Prop :=
  State.reset.Keyed ∧ State.reset.MemOk ∧ State.reset.ctxs = [] ∧ State.reset.launches = [] ∧ State.reset.cfg.ptEn = false ∧
  State.reset.own.owner = 0 ∧ (∀ q, (State.reset.stream q).en = false) ∧
  (∀ g, (State.reset.cluster g).part = Vector.replicate 8 8 ∧ (State.reset.cluster g).wgt = Vector.replicate 8 1) ∧
  (∀ c, 256 * (State.reset.core c).poolBase = 0x40000) ∧ State.reset.fab.win = 1000 ∧ State.reset.fab.retry = 4

/-! ## Retirement -/

/-- R25, R36. Behind a group of n words the context stands at the address behind it with n more units of work and n more words used of its
yield interval, and it is not held; its tenant is credited the work, and nothing but contexts, tenants and the event counter changes. -/
def Obligations.Retirement : Prop :=
  ∀ (s : State) (c : Ctx) (e : List Ext), s.onlyContexts (s.past c e c) ∧ s.othersKept (s.past c e c) c.key ∧
    (let n := e.length + 1
     (s.past c e c).ctx c.key = some
      { c with pc := c.pc + BitVec.ofNat 57 (4 * n), rwc := c.rwc + n, used := c.used + n, held := false, place := none, woken := [], issuedAt := s.stamp }) ∧
    (s.past c e c).tenant c.tenant = (s.tenant c.tenant).addWork s.time (e.length + 1) c.backup ∧
    ∀ t, t ≠ c.tenant → (s.past c e c).tenant t = s.tenant t

/-- R16, R79, R92. A scalar register that is written reads the value, every other one reads as before, and `s0` reads 0 always; nothing but
the register file changes. An immediate field, of 9, 11, 15 or 20 bits, is sign-extended; one IMM word puts 22 bits above the field and two
put 44, the first the highest, and the whole is sign-extended. -/
def Obligations.ScalarOperands : Prop :=
  (∀ (c : Ctx) (d r : BitVec 5) (v : W64),
     (c.wr d v).rs r = (if r = 0 then 0 else if r = d then v else c.rs r) ∧ c.wr d v = { c with s := (c.wr d v).s }) ∧
  (∀ w ∈ [9, 11, 15, 20], ∀ (f : BitVec w) (p q : BitVec 22),
     (wideImm f []).toInt = f.toInt ∧ (wideImm f [.imm p]).toInt = p.toInt * 2 ^ w + f.toNat ∧
     (wideImm f [.imm p, .imm q]).toInt = (p.toInt * 2 ^ 22 + q.toNat) * 2 ^ w + f.toNat)

/-! ## Scalar arithmetic (R114 to R119) -/

/-- R114 to R119. The integer forms complete with their values. Division truncates towards zero and the remainder takes the dividend's
sign; −2^63 by −1 gives −2^63 and 0 without a flag; a division by zero completes with all ones and the dividend and raises `DZ`. `clz`
and `ctz` count the zero bits above the highest and below the lowest one bit, 64 for 0, `popc` the one bits. The immediate forms, `lih` (the
widened field shifted left by 15), `addpc` (an offset in words from the word's own address, modulo 2^57) and `sel` complete alike. -/
def Obligations.IntegerForms : Prop :=
  (∀ (s : State) (c : Ctx) (e : List Ext) (d a b : BitVec 5), Runs s c e [d.toNat, a.toNat, b.toNat] [] →
     ∀ p ∈ ([
       (.add e d a b, c.rs a + c.rs b), (.sub e d a b, c.rs a - c.rs b), (.mul e d a b, c.rs a * c.rs b),
       (.mulh e d a b, ((c.rs a).signExtend 128 * (c.rs b).signExtend 128).extractLsb' 64 64),
       (.mulhz e d a b, ((c.rs a).zeroExtend 128 * (c.rs b).zeroExtend 128).extractLsb' 64 64),
       (.and e d a b, c.rs a &&& c.rs b), (.or e d a b, c.rs a ||| c.rs b), (.xor e d a b, c.rs a ^^^ c.rs b),
       (.shl e d a b, c.rs a <<< ((c.rs b).extractLsb' 0 6).toNat), (.shr e d a b, c.rs a >>> ((c.rs b).extractLsb' 0 6).toNat),
       (.sra e d a b, (c.rs a).sshiftRight ((c.rs b).extractLsb' 0 6).toNat),
       (.min e d a b, if (c.rs a).toInt ≤ (c.rs b).toInt then c.rs a else c.rs b),
       (.max e d a b, if (c.rs a).toInt ≤ (c.rs b).toInt then c.rs b else c.rs a),
       (.minz e d a b, if (c.rs a).toNat ≤ (c.rs b).toNat then c.rs a else c.rs b),
       (.maxz e d a b, if (c.rs a).toNat ≤ (c.rs b).toNat then c.rs b else c.rs a),
       (.seq e d a b, if c.rs a = c.rs b then 1 else 0), (.sne e d a b, if c.rs a = c.rs b then 0 else 1),
       (.slt e d a b, if (c.rs a).toInt < (c.rs b).toInt then 1 else 0),
       (.sltz e d a b, if (c.rs a).toNat < (c.rs b).toNat then 1 else 0)] : List (Instr × W64)),
     exec p.1 s = .next (s.past c e (c.wr d p.2))) ∧
  (∀ (s : State) (c : Ctx) (e : List Ext) (d a b : BitVec 5), Runs s c e [d.toNat, a.toNat, b.toNat] [] →
     ∀ p ∈ ([
       (.div e d a b, if c.rs b = 0 then -1 else (c.rs a).sdiv (c.rs b)), (.divz e d a b, if c.rs b = 0 then -1 else (c.rs a).udiv (c.rs b)),
       (.rem e d a b, if c.rs b = 0 then c.rs a else (c.rs a).srem (c.rs b)),
       (.remz e d a b, if c.rs b = 0 then c.rs a else (c.rs a).umod (c.rs b))] : List (Instr × W64)),
     exec p.1 s = .next (s.past c e { c.wr d p.2 with fpflags := c.fpflags ||| (if c.rs b = 0 then 2 else 0) })) ∧
  (∀ (s : State) (c : Ctx) (e : List Ext) (d a : BitVec 5), Runs s c e [d.toNat, a.toNat] [] →
     (∃ n, n ≤ 64 ∧ exec (.clz e d a) s = .next (s.past c e (c.wr d (BitVec.ofNat 64 n))) ∧
       (∀ i, 64 - n ≤ i → i < 64 → (c.rs a).getLsbD i = false) ∧ (n < 64 → (c.rs a).getLsbD (63 - n) = true)) ∧
     (∃ n, n ≤ 64 ∧ exec (.ctz e d a) s = .next (s.past c e (c.wr d (BitVec.ofNat 64 n))) ∧
       (∀ i, i < n → (c.rs a).getLsbD i = false) ∧ (n < 64 → (c.rs a).getLsbD n = true)) ∧
     exec (.popc e d a) s = .next (s.past c e (c.wr d (BitVec.ofNat 64 ((List.range 64).countP fun i => (c.rs a).getLsbD i))))) ∧
  (∀ (s : State) (c : Ctx) (e : List Ext) (d a b z : BitVec 5) (i : BitVec 15) (n : BitVec 6) (j : BitVec 20),
     Runs s c e [d.toNat, a.toNat, b.toNat, z.toNat] [] →
     ∀ p ∈ ([
       (.addi e d a i, c.rs a + wideImm i e), (.andi e d a i, c.rs a &&& wideImm i e), (.ori e d a i, c.rs a ||| wideImm i e),
       (.xori e d a i, c.rs a ^^^ wideImm i e), (.slti e d a i, if (c.rs a).toInt < (wideImm i e).toInt then 1 else 0),
       (.shli e d a n, c.rs a <<< n.toNat), (.shri e d a n, c.rs a >>> n.toNat), (.srai e d a n, (c.rs a).sshiftRight n.toNat),
       (.lih e d j, wideImm j e <<< 15),
       (.addpc e d j, BitVec.ofNat 64 ((c.pc.toNat + 4 * e.length + (wideImm j e).toNat * 4) % 2 ^ 57)),
       (.sel e d a b z, if c.rs z = 0 then c.rs b else c.rs a)] : List (Instr × W64)),
     exec p.1 s = .next (s.past c e (c.wr d p.2)))

/-- Frame of the scalar register forms (R16, R113). Whatever the operands and the registers awaited, when one of them answers a next state,
no memory, core, cluster or device register changes, every other context is as it was, and of its own context nothing changes but
the destination register, the pc, the work and scheduling fields, and `FPFLAGS`, which only gains bits and only in the division forms. -/
def Obligations.ScalarFrame : Prop :=
  ∀ (s t : State) (c : Ctx) (e : List Ext) (d a b z : BitVec 5) (i : BitVec 15) (n : BitVec 6) (j : BitVec 20) (x : Instr),
    s.issuer = some c → s.ctx c.key = some c →
    x ∈ [.add e d a b, .sub e d a b, .mul e d a b, .mulh e d a b, .mulhz e d a b, .and e d a b, .or e d a b, .xor e d a b, .shl e d a b,
      .shr e d a b, .sra e d a b, .min e d a b, .max e d a b, .minz e d a b, .maxz e d a b, .seq e d a b, .sne e d a b, .slt e d a b,
      .sltz e d a b, .clz e d a, .ctz e d a, .popc e d a, .addi e d a i, .andi e d a i, .ori e d a i, .xori e d a i, .slti e d a i,
      .shli e d a n, .shri e d a n, .srai e d a n, .lih e d j, .addpc e d j, .sel e d a b z, .div e d a b, .divz e d a b, .rem e d a b,
      .remz e d a b, .tstamp e d, .dscr e d a] →
    exec x s = .next t →
    s.onlyContexts t ∧ s.othersKept t c.key ∧
    ∃ c', t.ctx c.key = some c' ∧ c.scalarOnly c' ∧ (∀ r : BitVec 5, r ≠ d → c'.rs r = c.rs r) ∧
      (c'.fpflags = c.fpflags ∨ c'.fpflags = c.fpflags ||| 2 ∧ x ∈ [.div e d a b, .divz e d a b, .rem e d a b, .remz e d a b])

/-! ## FP32 (R48 to R57, R120 to R123) -/

/-- R56, R57, R120 to R123. The FP32 forms read the low 32 bits of their sources, complete with the value of their operation in the low 32
bits of the destination (zero above), and raise its flags; `fcvt` completes for each pair of types. Between the formats a NaN keeps its sign
and the payload bits that fit, quieted, an infinity its sign, and any other value is rounded once; so is an integer. A value becomes the integer
that its mode rounds it to, clamped to the range with `NV`, or else with `NX` when it is another number; a NaN becomes 0 with `NV`. -/
def Obligations.FloatForms : Prop :=
  (∀ f ∈ [f32, bf16, f16], ∀ rm, rm < 4 →
    (∀ z : Int, f.roundsTo rm (z : ℚ) false (f.ofInt rm z)) ∧
    ∀ g ∈ [f32, bf16, f16], ∀ x, x < 2 * f.signBit →
      let r := convFmt f g rm x
      let p := x % 2 ^ f.fw
      let kept := if f.fw ≤ g.fw then p * 2 ^ (g.fw - f.fw) else p / 2 ^ (f.fw - g.fw)
      (f.isNaN x = true → r = ⟨g.withSign (f.neg x) (g.inf + g.quieted kept), if f.isSNaN x then 1 else 0⟩) ∧
      (f.mag x = f.inf → r = ⟨g.withSign (f.neg x) g.inf, 0⟩) ∧
      (f.mag x < f.inf → g.roundsTo rm (f.value x).rat (f.neg x) r)) ∧
  (∀ (rm : Nat) (lo hi : Int) (v : FVal), rm < 4 → (∀ n x d, v = .fin n x d → 0 < d) →
    let r := intOf rm lo hi v
    let q := v.rat
    (v = .nan → r = (0, 1)) ∧ (∀ n, v = .inf n → r = (if n then lo else hi, 1)) ∧
    (v.finite = true → ∃ z : Int,
      (rm = 0 → |(z : ℚ) - q| ≤ 1 / 2 ∧ (|(z : ℚ) - q| = 1 / 2 → z % 2 = 0)) ∧ (rm = 1 → z = if 0 ≤ q then ⌊q⌋ else ⌈q⌉) ∧
      (rm = 2 → z = ⌈q⌉) ∧ (rm = 3 → z = ⌊q⌋) ∧
      r = if z < lo then (lo, 1) else if hi < z then (hi, 1) else (z, if (z : ℚ) = q then 0 else 16))) ∧
  ∀ (s : State) (c : Ctx) (e : List Ext) (d a b z : BitVec 5) (r : BitVec 2) (k : BitVec 3),
    Runs s c e [d.toNat, a.toNat, b.toNat, z.toNat] [] →
    let w := (c.rs a).toNat
    let x := w % 2 ^ 32
    let y := (c.rs b).toNat % 2 ^ 32
    let m := r.toNat
    let toInt := fun (lo hi : Int) => (Res.mk (wrap 64 (intOf m lo hi (f32.value x)).1) (intOf m lo hi (f32.value x)).2)
    ∀ p ∈ ([
      (.fadd e d a b r, f32.add m x y), (.fsub e d a b r, f32.sub m x y), (.fmul e d a b r, f32.mul m x y),
      (.fmin e d a b, f32.minmax false x y), (.fmax e d a b, f32.minmax true x y), (.fcmp e d a b k, f32.cmp k.toNat x y),
      (.ffma e d a b z r, f32.fma m false false x y ((c.rs z).toNat % 2 ^ 32)),
      (.fcvt e d a 1 2 r, f32.ofInt m (signed 32 x)), (.fcvt e d a 7 2 r, f32.ofInt m x), (.fcvt e d a 9 2 r, f32.ofInt m (c.rs a).toInt),
      (.fcvt e d a 3 2 r, convFmt bf16 f32 m (w % 2 ^ 16)), (.fcvt e d a 4 2 r, convFmt f16 f32 m (w % 2 ^ 16)),
      (.fcvt e d a 5 2 r, ⟨td8To f32 (w % 2 ^ 8), 0⟩), (.fcvt e d a 2 1 r, toInt (-2 ^ 31) (2 ^ 31 - 1)),
      (.fcvt e d a 2 7 r, toInt 0 (2 ^ 32 - 1)), (.fcvt e d a 2 9 r, toInt (-2 ^ 63) (2 ^ 63 - 1)),
      (.fcvt e d a 2 3 r, convFmt f32 bf16 m x), (.fcvt e d a 2 4 r, convFmt f32 f16 m x),
      (.fcvt e d a 2 5 r, td8Of (f32.value x) (f32.isSNaN x))] : List (Instr × Res)),
    exec p.1 s = .next (s.past c e { c.wr d (BitVec.ofNat 64 p.2.val) with fpflags := c.fpflags ||| BitVec.ofNat 6 p.2.flags })

/-- R48, R50 to R54, R121, R122. Rounding is exact where it can be: the exact value of every finite pattern of a format rounds to that
pattern in every mode, without a flag. Rounding towards zero answers the greatest finite magnitude of the format that does not exceed the
exact value, with its sign; a mode away from it answers the next magnitude, which above the greatest finite one is infinity; and to
nearest chooses the nearer of the two, an even significand in a tie. Overflow raises `OF` and `NX`, any other inexact result `NX`, and a
tiny one `UF`, where tiny is judged after rounding as if exponents had no lower bound. Addition, multiplication and the fused form round
the exact result once, with the signs of zeros of R54; infinities and invalid operations are those of R53, and NaNs are chosen by R52. The
smaller and the larger operand, and the eight comparisons, go by the order of the values. -/
def Obligations.Rounding : Prop :=
  ∀ f ∈ [f32, bf16, f16],
  (∀ (rm x n d : Nat) (sg : Bool), x < 2 * f.signBit → f.value x = .fin sg n d → f.round rm sg n d = ⟨x, 0⟩) ∧
  (∀ (n d : Nat) (sg : Bool), 0 < n → 0 < d →
    let q : ℚ := (n : ℚ) / d
    let z := (f.round 1 sg n d).val
    let m := f.mag z
    let r := fun rm => f.round rm sg n d
    let up : ℚ := if m + 1 < f.inf then (f.value (m + 1)).rat else 2 ^ (f.bias + 1)
    let lo : ℚ := (f.value m).rat
    m < f.inf ∧ f.neg z = sg ∧ z < 2 * f.signBit ∧ (∀ x, x < f.inf → ((f.value x).rat ≤ q ↔ x ≤ m)) ∧
    (lo = q → ∀ rm, r rm = ⟨z, 0⟩) ∧
    (lo ≠ q →
      (r 2).val = f.withSign sg (if sg then m else m + 1) ∧ (r 3).val = f.withSign sg (if sg then m + 1 else m) ∧
      (r 0).val = f.withSign sg (if q - lo < up - q ∨ q - lo = up - q ∧ m % 2 = 0 then m else m + 1)) ∧
    ∀ rm, rm < 4 →
      let k := f.mag (r rm).val
      let inexact := k = f.inf ∨ (f.value k).rat ≠ q
      (k = f.inf ∨ 2 ^ (f.bias + 1) ≤ q → (r rm).flags = 4 + 16) ∧
      (k ≠ f.inf → q < 2 ^ (f.bias + 1) →
        (¬ inexact → (r rm).flags = 0) ∧
        (inexact → (q < 1 / 2 ^ (f.bias - 1) ∧ f.mag (f.round rm sg (2 * n) d).val < 2 * 2 ^ f.fw → (r rm).flags = 8 + 16) ∧
          (¬ (q < 1 / 2 ^ (f.bias - 1) ∧ f.mag (f.round rm sg (2 * n) d).val < 2 * 2 ^ f.fw) → (r rm).flags = 16)))) ∧
  (∀ rm a b c : Nat, rm < 4 → a < 2 * f.signBit → b < 2 * f.signBit → c < 2 * f.signBit →
    let v := fun x => (f.value x).rat
    let fin := fun x => (f.value x).finite = true
    let isNaN := fun x => f.isNaN x = true
    let isInf := fun x => f.mag x = f.inf
    let zero := fun x => f.mag x = 0
    let sgn := fun x => f.neg x
    let inf := fun s => (⟨f.withSign s f.inf, 0⟩ : Res)
    let invalid : Res := ⟨f.nan, 1⟩
    let minusIf := fun (s : Bool) (x : ℚ) => if s then -x else x
    (∀ x, isNaN x ↔ f.inf < f.mag x) ∧
    (fin a → fin b →
      f.roundsTo rm (v a + v b) (if sgn a = sgn b then sgn a else rm == 3) (f.add rm a b) ∧
      f.roundsTo rm (v a * v b) (sgn a != sgn b) (f.mul rm a b) ∧
      (fin c → ∀ p q : Bool,
        f.roundsTo rm (minusIf p (v a * v b) + minusIf q (v c)) (if xor (xor (sgn a) (sgn b)) p = xor (sgn c) q then xor (sgn c) q else rm == 3)
          (f.fma rm p q a b c))) ∧
    (¬ isNaN a → ¬ isNaN b →
      f.sub rm a b = f.add rm a (f.negate b) ∧
      (isInf a → isInf b → f.add rm a b = if sgn a = sgn b then inf (sgn a) else invalid) ∧
      (isInf a → fin b → f.add rm a b = inf (sgn a) ∧ f.add rm b a = inf (sgn a)) ∧
      (isInf a → (zero b → f.mul rm a b = invalid ∧ f.mul rm b a = invalid) ∧
        (¬ zero b → f.mul rm a b = inf (sgn a != sgn b) ∧ f.mul rm b a = inf (sgn a != sgn b))) ∧
      (¬ isNaN c → ∀ p q : Bool,
        (isInf a ∧ zero b ∨ zero a ∧ isInf b → f.fma rm p q a b c = invalid) ∧
        (isInf a ∧ ¬ zero b ∨ ¬ zero a ∧ isInf b → f.fma rm p q a b c =
          if isInf c ∧ xor (sgn c) q ≠ xor (xor (sgn a) (sgn b)) p then invalid else inf (xor (xor (sgn a) (sgn b)) p)) ∧
        (fin a → fin b → isInf c → f.fma rm p q a b c = inf (xor (sgn c) q)))) ∧
    (isNaN a ∨ isNaN b →
      let x := if f.isNaN a then a else b
      let nv := if f.isSNaN a || f.isSNaN b then 1 else 0
      ∀ r ∈ [f.add rm a b, f.sub rm a b, f.mul rm a b, f.minmax false a b, f.minmax true a b], r = ⟨f.quieted x, nv⟩) ∧
    (isNaN a ∨ isNaN b ∨ isNaN c → ∀ p q : Bool,
      let bad := f.isSNaN a || f.isSNaN b || f.isSNaN c || decide (isInf a ∧ zero b ∨ zero a ∧ isInf b)
      f.fma rm p q a b c = ⟨f.quieted (if f.isNaN a then a else if f.isNaN b then b else c), if bad then 1 else 0⟩) ∧
    (¬ isNaN a → ¬ isNaN b →
      f.minmax false a b = ⟨if f.rank a ≤ f.rank b then a else b, 0⟩ ∧ f.minmax true a b = ⟨if f.rank a ≤ f.rank b then b else a, 0⟩) ∧
    (let same := f.rank a = f.rank b ∨ zero a ∧ zero b
     let less := f.rank a < f.rank b ∧ ¬ same
     let un := isNaN a ∨ isNaN b
     ∀ p ∈ ([(0, ¬ un ∧ same), (1, un ∨ ¬ same), (2, ¬ un ∧ less), (3, ¬ un ∧ (less ∨ same)), (4, ¬ un ∧ ¬ less ∧ ¬ same),
         (5, ¬ un ∧ ¬ less), (6, un), (7, ¬ un)] : List (Nat × Prop)),
       ((f.cmp p.1 a b).val = 1 ↔ p.2) ∧ ((f.cmp p.1 a b).val = 0 ↔ ¬ p.2) ∧
       ((f.cmp p.1 a b).flags = 1 ↔ f.isSNaN a = true ∨ f.isSNaN b = true ∨ un ∧ 2 ≤ p.1 ∧ p.1 ≤ 5) ∧
       ((f.cmp p.1 a b).flags = 0 ∨ (f.cmp p.1 a b).flags = 1)))

/-! ## Branches, jumps, CSR access -/

/-- R124 to R127. A taken branch and a jump go on at the address of their own word plus four times the signed offset, modulo 2^57, a branch
that is not taken behind itself; `jal` and `jalr` link the address behind their word, and a jump to a register reads its target
before it links. A target that is no multiple of 4 faults `ALIGN`, one of 2^57 or more `XLATE`, with the target in the record. -/
def Obligations.ControlTransfer : Prop :=
  (∀ (s : State) (c : Ctx) (e : List Ext) (x y : BitVec 5) (o : BitVec 15), Runs s c e [x.toNat, y.toNat] [] →
    let u := c.rs x
    let v := c.rs y
    ∀ p ∈ ([(.beq e x y o, u = v), (.bne e x y o, u ≠ v), (.blt e x y o, u.toInt < v.toInt), (.bge e x y o, v.toInt ≤ u.toInt),
        (.bltz e x y o, u.toNat < v.toNat), (.bgez e x y o, v.toNat ≤ u.toNat)] : List (Instr × Prop)),
      (p.2 → exec p.1 s = .next (s.jumped e c (BitVec.ofInt 57 ((c.wordPc e).toNat + (wideImm o e).toInt * 4)))) ∧
      (¬ p.2 → exec p.1 s = .next (s.past c e c))) ∧
  (∀ (s : State) (c : Ctx) (e : List Ext) (o : BitVec 25), Runs s c e [31] [] →
    let t := BitVec.ofInt 57 ((c.wordPc e).toNat + o.toInt * 4)
    exec (.jmp e o) s = .next (s.jumped e c t) ∧
    exec (.jal e o) s = .next (s.jumped e (c.setS 31 (BitVec.ofNat 64 (((c.wordPc e).toNat + 4) % 2 ^ 57))) t)) ∧
  (∀ (s : State) (c : Ctx) (e : List Ext) (d a : BitVec 5), Runs s c e [d.toNat, a.toNat] [] →
    let t := c.rs a
    (t.toNat % 4 = 0 → t.toNat < 2 ^ 57 →
      exec (.jr e a) s = .next (s.jumped e c (BitVec.ofNat 57 t.toNat)) ∧
      exec (.jalr e d a) s = .next (s.jumped e (c.wr d (BitVec.ofNat 64 (((c.wordPc e).toNat + 4) % 2 ^ 57))) (BitVec.ofNat 57 t.toNat))) ∧
    (t.toNat % 4 ≠ 0 ∨ 2 ^ 57 ≤ t.toNat → ∀ i ∈ [Instr.jr e a, .jalr e d a],
      exec i s = .next (s.programFault c (if t.toNat % 4 = 0 then 0x0A else 0x05) 0 c.pc t)))

/-- R23, R25, R26, R128, R129. `csrr` gives what the register reads; a write form writes `sa`, or the old value with the bits of `sa` set or
cleared; `csrs` and `csrc` of a register that a layer holds read first, with the context held, and write what they read, changed, when they
are executed again (R130; two steps are the model's choice, log 81). An unassigned number and a write of a read-only register fault
`ILLEGAL` with DETAIL 7, before a register from 0x800 on faults `PRIV` for a task without supervisor level. After a write of `v` an address
reads without its low two bits and above bit 56, the `WAITLIM` of a user task between 1024 and 2^24, six flags, and the droop registers of
the context's layer clamped to their ranges. The read-only registers read what R24 and R25 lay out. A write of `INJCTL` arms the injector only
with a kind and an address of this package's own memory, and the armed injector acts on the next read of its word at the array, once: the
word is poisoned by a kind of 3, and by 2 unless it has the strong code (R375). -/
def Obligations.CsrForms : Prop :=
  (∀ (s : State) (c : Ctx) (e : List Ext) (d : BitVec 5) (n : BitVec 12), Runs s c e [d.toNat] [] →
     let writes := [Instr.csrw e d n, .csrs e d n, .csrc e d n]
     let word := fun (i : Instr) => (wordOf i).zeroExtend 64
     (∀ v, s.readCsr c (e.length + 1) n.toNat = some v → (n.toNat < 0x800 ∨ c.sup = true) →
       let layers := n.toNat = 0x800 ∨ n.toNat = 0x801 ∨ n.toNat = 0x802
       exec (.csrr e d n) s = .next (s.past c e (c.wr d v)) ∧
       (csrWritable n.toNat = true →
         (∀ p ∈ ([(.csrw e d n, c.rs d, true), (.csrs e d n, v ||| c.rs d, true), (.csrc e d n, v &&& ~~~c.rs d, false)] :
             List (Instr × W64 × Bool)),
           let r := s.writeCsr c n.toNat p.2.1 (p.2.2 && (c.rs d).getLsbD 3)
           p.1 = .csrw e d n ∨ ¬ layers → exec p.1 s = .next (r.1.past r.2 e r.2)) ∧
         (layers →
           (c.csrOld = none → ∀ i ∈ [Instr.csrs e d n, .csrc e d n], exec i s = .next (s.holds { c with csrOld := some v })) ∧
           ∀ old, c.csrOld = some old →
             ∀ p ∈ ([(.csrs e d n, old ||| c.rs d), (.csrc e d n, old &&& ~~~c.rs d)] : List (Instr × W64)),
               let r := s.writeCsr { c with csrOld := none } n.toNat p.2 false
               exec p.1 s = .next (r.1.past r.2 e r.2)))) ∧
     (s.readCsr c (e.length + 1) n.toNat = none → ∀ i ∈ Instr.csrr e d n :: writes,
       exec i s = .next (s.programFault c 0x01 7 c.pc (word i))) ∧
     (csrWritable n.toNat = false → ∀ i ∈ writes, exec i s = .next (s.programFault c 0x01 7 c.pc (word i))) ∧
     (∀ v, s.readCsr c (e.length + 1) n.toNat = some v → 0x800 ≤ n.toNat → c.sup = false →
       exec (.csrr e d n) s = .next (s.programFault c 0x03 0 c.pc (word (.csrr e d n))) ∧
       (csrWritable n.toNat = true → ∀ i ∈ writes, exec i s = .next (s.programFault c 0x03 0 c.pc (word i))))) ∧
  (∀ (s : State) (c : Ctx) (v : W64) (k : Nat) (cl : Bool),
     let x := v.toNat
     let lim := fun (lo hi n : Nat) => max lo (min hi n)
     ∀ p ∈ ([(0x000, x % 2 ^ 57 / 4 * 4), (0x001, x % 2 ^ 32 - x / 2 ^ 11 % 2 ^ 5 * 2 ^ 11), (0x002, x), (0x004, x % 2 ^ 57 / 4 * 4),
         (0x022, lim 1024 (if c.sup then 2 ^ 32 - 1 else 2 ^ 24) (x % 2 ^ 32)), (0x023, x % 64), (0x800, lim 10 200 (x % 2 ^ 10)),
         (0x801, lim 1 255 (x % 2 ^ 8)), (0x802, x % 2 ^ 16), (0x810, x % 2 ^ 56)] : List (Nat × Nat)),
       let r := s.writeCsr c p.1 v cl
       r.1.readCsr r.2 k p.1 = some (BitVec.ofNat 64 p.2)) ∧
  (∀ (s : State) (c : Ctx) (k : Nat),
     let bit := fun (b : Bool) (n : Nat) => if b then 2 ^ n else 0
     ∀ p ∈ ([(0x003, bit c.intrap 0 + bit c.psup 1),
         (0x010, c.slot + c.foot * 2 ^ 6 + bit c.heavy 8 + bit c.sup 9 + bit c.backup 10 + bit c.migr 11),
         (0x011, c.chan + c.prio * 2 ^ 4 + bit c.pairClass 7 + c.mseq % 2 ^ 32 * 2 ^ 32), (0x012, c.cur + s.pkg * 2 ^ 12),
         (0x013, c.tenant % 256), (0x014, c.tclass + bit c.heavy 6), (0x015, c.leaseBase + c.leaseSize * 2 ^ 20 + bit c.leaseV 63),
         (0x020, c.rwc), (0x021, c.limit + (c.used + k) * 2 ^ 16), (0x024, c.fmttrap), (0x030, s.cyclesOf c.start - (s.core c.start).born),
         (0x031, s.fab.peers.headD 0 + bit (!s.fab.peers.isEmpty) 9 + s.fab.peers.length * 2 ^ 16),
         (0x811, s.cfg.injKind + bit s.cfg.injArm 2 + bit s.cfg.injFired 3)] : List (Nat × Nat)),
       s.readCsr c k p.1 = some (BitVec.ofNat 64 p.2)) ∧
  (∀ (s : State) (c : Ctx) (v : W64) (cl : Bool),
     let t := (s.writeCsr c 0x811 v cl).1
     t = { s with cfg := { s.cfg with injKind := v.toNat % 4, injArm := t.cfg.injArm, injFired := s.cfg.injFired && !cl } } ∧
     (t.cfg.injArm = true ↔ v.getLsbD 2 = true ∧ v.toNat % 4 ≠ 0 ∧ paSpace s.cfg.injAddr < 2 ∧ paPkg s.cfg.injAddr = s.pkg ∧
       s.nonexistent s.cfg.injAddr = false)) ∧
  (∀ (s : State) (pa n : Nat),
     let w := s.cfg.injAddr / 8
     let t := s.arrayRead pa n
     t.mem = s.mem ∧ (s.cfg.injArm = false ∨ n = 0 ∨ pa + n ≤ 8 * w ∨ 8 * w + 8 ≤ pa → t = s) ∧
     (s.cfg.injArm = true → 0 < n → 8 * w < pa + n → pa < 8 * w + 8 → t.cfg.injArm = false ∧ t.cfg.injFired = true ∧
       (s.cfg.injKind = 1 → t.poison = s.poison) ∧ (s.cfg.injKind = 3 → t.poison = NatSet.add s.poison w) ∧
       (s.cfg.injKind = 2 → t.poison = if s.strongAt (8 * w) then s.poison else NatSet.add s.poison w)))

/-! ## Local memory (R131 to R137) -/

/-- R131 to R137. `ldl`, and `ldx` of the own core, complete with the bytes at their address, sign-extended, or zero-extended in mode 1; the
modes 2 and 3 of `ldl` need the granule full, and mode 3 leaves it empty. `stl`, and `stx` of the own core, store the low bytes of their
register, lowest first; mode 1 of `stl` needs the granule empty and fills it. Every other byte of the core, every other core and
global memory are as before. On a granule in the wrong state the instruction parks its context, without any other effect, whether or not it
would fit the yield interval (R36, R133). While an acquire of the context is still to be performed they are held (R135, R273). That a migrated
context awaits its bank's answer, and that a wait which begins does not, is log 94. -/
def Obligations.LocalAccess : Prop :=
  (∀ (s : State) (c : Ctx) (e : List Ext) (d a b : BitVec 5) (sz m : BitVec 2) (o : BitVec 11),
     RunsLocal s c e [d.toNat, a.toNat, b.toNat] [] →
     let n := 2 ^ sz.toNat
     let k := s.core c.start
     let value := fun (x : Nat) (zx : Bool) =>
       let v := k.lm.readN x n
       BitVec.ofInt 64 (if zx || decide (v < 2 ^ (8 * n - 1)) then (v : Int) else (v : Int) - 2 ^ (8 * n))
     (let x := (c.rs a + wideImm o e * BitVec.ofNat 64 n).toNat
      x % n = 0 → x + n ≤ 0x80000 → k.poisoned x n = false → (2 ≤ m.toNat → k.full.contains (x / 16) = true) → (m = 3 → c.mayTouch x n) →
      exec (.ldl e d a sz m o) s =
        .next ((if m = 3 then s.setGranules c.start [x / 16] false else s).pastBank c e (c.wr d (value x (m == 1))))) ∧
     (let x := (c.rs b).toNat
      x % n = 0 → x + n ≤ 0x80000 → k.poisoned x n = false → (c.rs a).toNat = c.start → validCid c.start = true → c.start < 4096 →
      exec (.ldx e d a b m sz) s = .next (s.pastBank c e (c.wr d (value x (m == 1)))))) ∧
  (∀ (s : State) (c : Ctx) (e : List Ext) (d a : BitVec 5) (sz m : BitVec 2) (o : BitVec 11), Runs s c e [d.toNat, a.toNat] [] →
     s.acquirePending c.uid = true →
     let n := 2 ^ sz.toNat
     let x := (c.rs a + wideImm o e * BitVec.ofNat 64 n).toNat
     c.mayTouch x n → x % n = 0 → x + n ≤ 0x80000 →
     exec (.ldl e d a sz m o) s = .next (s.holds c) ∧
     ((s.core c.start).guarded c.uid x n = false → (s.core c.start).tagged x n = false → exec (.stl e d a sz m o) s = .next (s.holds c))) ∧
  (∀ (s : State) (c : Ctx) (e : List Ext) (d a : BitVec 5) (sz m : BitVec 2) (o : BitVec 11), Yields s c [d.toNat, a.toNat] →
     s.acquirePending c.uid = false →
     let n := 2 ^ sz.toNat
     let x := (c.rs a + wideImm o e * BitVec.ofNat 64 n).toNat
     let k := s.core c.start
     x % n = 0 → x + n ≤ 0x80000 →
     (2 ≤ m.toNat → (m = 3 → c.mayTouch x n) → k.full.contains (x / 16) = false →
       ∃ t, exec (.ldl e d a sz m o) s = .next t ∧ s.parksAt t c (.granules [x / 16] true)) ∧
     (m = 1 → c.mayTouch x n → k.guarded c.uid x n = false → k.tagged x n = false → k.full.contains (x / 16) = true →
       ∃ t, exec (.stl e d a sz m o) s = .next t ∧ s.parksAt t c (.granules [x / 16] false))) ∧
  (∀ (s : State) (c : Ctx) (e : List Ext) (d a b : BitVec 5) (sz m : BitVec 2) (o : BitVec 11) (i : Instr) (x : Nat),
     RunsLocal s c e [d.toNat, a.toNat, b.toNat] [] →
     let n := 2 ^ sz.toNat
     let k := s.core c.start
     (i = .stl e d a sz m o ∧ x = (c.rs a + wideImm o e * BitVec.ofNat 64 n).toNat ∧ c.mayTouch x n ∧
         (m = 1 → k.full.contains (x / 16) = false) ∨
       i = .stx e d a b sz ∧ x = (c.rs b).toNat ∧ m = 0 ∧ c.heavy = false ∧ (c.rs a).toNat = c.start ∧ validCid c.start = true ∧
         c.start < 4096) →
     x % n = 0 → x + n ≤ 0x80000 → s.mayStore c [(x, n)] → k.lm.wf = true →
     let u := s.modCore c.start fun k => k.write x (bytesOf n (c.rs d).toNat)
     ∃ t, exec i s = .next t ∧ t = (if m = 1 then u.setGranules c.start [x / 16] true else u).pastBank c e c ∧
       (∀ j, j < n → (t.core c.start).lm.read (x + j) = BitVec.ofNat 8 ((c.rs d).toNat / 2 ^ (8 * j))) ∧
       (∀ y, y < x ∨ x + n ≤ y → (t.core c.start).lm.read y = k.lm.read y) ∧ (∀ q, q ≠ c.start → t.core q = s.core q) ∧ t.mem = s.mem)

/-- R38, R39, R41, R43, R132. The checks of `ldl` and `stl`, in their order: a heavy task's store outside its lease faults `SIDEEFF`, a
misaligned address `ALIGN`, one beyond local memory `LMRANGE`, a store into a lease of another context or the completion ring
`LEASE`, and one over a barrier word `BARSTORE`. The record holds the address for `ALIGN`, and else the word. -/
def Obligations.LocalFaults : Prop :=
  ∀ (s : State) (c : Ctx) (e : List Ext) (d a : BitVec 5) (sz m : BitVec 2) (o : BitVec 11), Runs s c e [d.toNat, a.toNat] [] →
    let n := 2 ^ sz.toNat
    let x := (c.rs a + wideImm o e * BitVec.ofNat 64 n).toNat
    let k := s.core c.start
    let fault := fun (i : Instr) (code : Nat) (v : W64) => exec i s = .next (s.programFault c code 0 c.pc v)
    let word := fun (i : Instr) => (wordOf i).zeroExtend 64
    let at' := BitVec.ofNat 64 x
    let ld := Instr.ldl e d a sz m o
    let st := Instr.stl e d a sz m o
    (c.heavy = true → c.owns x n = false → fault st 0x08 (word st) ∧ (m = 3 → fault ld 0x08 (word ld))) ∧
    (c.mayTouch x n → x % n ≠ 0 → fault st 0x05 at' ∧ fault ld 0x05 at') ∧
    (c.mayTouch x n → x % n = 0 → 0x80000 < x + n → fault st 0x06 (word st) ∧ fault ld 0x06 (word ld)) ∧
    (c.mayTouch x n → x % n = 0 → x + n ≤ 0x80000 → k.guarded c.uid x n = true → fault st 0x09 (word st)) ∧
    (c.mayTouch x n → x % n = 0 → x + n ≤ 0x80000 → k.guarded c.uid x n = false → k.tagged x n = true → fault st 0x0C (word st))

/-! ## Global memory (R135, R199 to R207, R294) -/

/-- R111, R112, R135, R203 to R207, R248, R249. When its address translates and its checks pass, a scalar access of global memory is
accepted and its instruction completes; the destination awaits the answer. `amoc` carries its expected and its new value, from registers
or, for 16 bytes, from pairs; a `red` form enters the reduction queue of its core, last. The checks, with those of the global vector forms, in
their order: of a heavy task every form but the loads faults `SIDEEFF`, a misaligned address `ALIGN`, and one that does not translate
`XLATE`; an atomic on device registers, and one that its form does not allow on host memory, faults `HOSTAMO`. The record holds the address
for `XLATE` and for `ALIGN` of `ldg` and `stg`, and else the word. -/
def Obligations.GlobalForms : Prop :=
  (∀ (s : State) (c : Ctx) (e : List Ext) (d a b : BitVec 5) (sz m : BitVec 2) (o : BitVec 11) (f : BitVec 3) (pa : Nat),
     Runs s c e [d.toNat, a.toNat, b.toNat] [] →
     let n := 2 ^ sz.toNat
     let x := (c.rs a + wideImm o e * BitVec.ofNat 64 n).toNat
     let r := (c.rs a).toNat
     let v := fun (y : BitVec 5) (n : Nat) => (c.rs y).toNat % 2 ^ (8 * n)
     let q := amoBytes sz
     (x % n = 0 → s.translateAll c .read [x] = .all [pa] →
       exec (.ldg e d a sz m o) s = .next (s.accepted c e .load [⟨pa, x, n, 0, 0⟩] (memOrd e) (.sreg d.toNat) (m != 1))) ∧
     (c.heavy = false → x % n = 0 → s.translateAll c .write [x] = .all [pa] →
       exec (.stg e d a sz o) s = .next (s.accepted c e .store [⟨pa, x, n, v d n, 0⟩] (memOrd e) .none false)) ∧
     (c.heavy = false → r % q = 0 → s.translateAll c .atomic [r] = .all [pa] →
       ∀ p ∈ ([(.amoAdd e d a b sz, 0, true), (.amoAnd e d a b sz, 1, true), (.amoOr e d a b sz, 2, true), (.amoXor e d a b sz, 3, true),
           (.amoMin e d a b sz, 4, true), (.amoMax e d a b sz, 5, true), (.amoMinz e d a b sz, 6, false), (.amoMaxz e d a b sz, 7, false),
           (.amoSwap e d a b sz, 8, true)] : List (Instr × Nat × Bool)),
         paSpace pa < 2 ∨ paSpace pa = 2 ∧ (p.2.1 = 0 ∨ p.2.1 = 8) ∧ q ≤ 8 →
         exec p.1 s = .next (s.accepted c e (.amo p.2.1) [⟨pa, r, q, v b q, 0⟩] (memOrd e) (.sreg d.toNat) p.2.2)) ∧
     (c.heavy = false → r % 4 = 0 → s.translateAll c .atomic [r] = .all [pa] → paSpace pa < 2 →
       exec (.amoFadd e d a b) s = .next (s.accepted c e (.amo 9) [⟨pa, r, 4, v b 4, 0⟩] (memOrd e) (.sreg d.toNat) false)) ∧
     (r % 64 = 0 → s.translateAll c .read [r] = .all [pa] →
       exec (.nld e d a f) s = .next (s.accepted c e .nld [⟨pa + 8 * f.toNat, r + 8 * f.toNat, 8, 0, 0⟩] ⟨0, 0, 0⟩ (.sreg d.toNat) false))) ∧
  (∀ (s : State) (c : Ctx) (e : List Ext) (d a b z : BitVec 5) (sz : BitVec 2) (pa : Nat),
     let q := amoBytes sz
     let names := fun (r : BitVec 5) => if q = 16 then [r.toNat, r.toNat + 1] else [r.toNat]
     let value := fun (r : BitVec 5) => if q = 16 then (c.getS r.toNat).toNat + (c.getS (r.toNat + 1)).toNat * 2 ^ 64
       else (c.rs r).toNat % 2 ^ (8 * q)
     Runs s c e (names d ++ [a.toNat] ++ names b ++ names z) [] → c.heavy = false → (c.rs a).toNat % q = 0 →
     s.translateAll c .atomic [(c.rs a).toNat] = .all [pa] → paSpace pa ≤ 2 →
     exec (.amoc e d a b z sz) s =
       .next (s.accepted c e (.cas (value b)) [⟨pa, (c.rs a).toNat, q, value z, 0⟩] (memOrd e)
         (if q = 16 then .pair d.toNat else .sreg d.toNat) true)) ∧
  (∀ (s : State) (c : Ctx) (e : List Ext) (a b : BitVec 5) (sz : BitVec 2) (pa : Nat), Runs s c e [a.toNat, b.toNat] [] →
     c.heavy = false → s.translateAll c .atomic [(c.rs a).toNat] = .all [pa] →
     let q := amoBytes sz
     ∀ p ∈ ([(.redAdd e a b sz, 0, q), (.redAnd e a b sz, 1, q), (.redOr e a b sz, 2, q), (.redXor e a b sz, 3, q), (.redMin e a b sz, 4, q),
         (.redMax e a b sz, 5, q), (.redMinz e a b sz, 6, q), (.redMaxz e a b sz, 7, q), (.redFadd e a b, 9, 4)] : List (Instr × Nat × Nat)),
       (c.rs a).toNat % p.2.2 = 0 → paSpace pa < 2 ∨ paSpace pa = 2 ∧ p.2.1 = 0 ∧ p.2.2 ≤ 8 →
       let r : Red := { id := s.stamp, uid := c.uid, launch := c.launch, pa := pa, op := p.2.1, size := p.2.2,
                        val := (c.rs b).toNat % 2 ^ (8 * p.2.2), ord := memOrd e, cid := c.cur, sent := false }
       exec p.1 s = .next ((s.modCore c.start fun k => { k with reds := k.reds ++ [r] }).tickStamp.past c e c)) ∧
  -- the checks
  (∀ (s : State) (c : Ctx) (e : List Ext) (d a b : BitVec 5) (sz m : BitVec 2) (o : BitVec 11), Runs s c e [d.toNat, a.toNat, b.toNat] [] →
     let n := 2 ^ sz.toNat
     let x := (c.rs a + wideImm o e * BitVec.ofNat 64 n).toNat
     let r := (c.rs a).toNat
     let q := amoBytes sz
     ∀ p ∈ ([(.ldg e d a sz m o, .read, x, n, True), (.stg e d a sz o, .write, x, n, True), (.amoAdd e d a b sz, .atomic, r, q, q ≤ 8),
         (.amoAnd e d a b sz, .atomic, r, q, False), (.amoOr e d a b sz, .atomic, r, q, False), (.amoXor e d a b sz, .atomic, r, q, False),
         (.amoMin e d a b sz, .atomic, r, q, False), (.amoMax e d a b sz, .atomic, r, q, False), (.amoMinz e d a b sz, .atomic, r, q, False),
         (.amoMaxz e d a b sz, .atomic, r, q, False), (.amoSwap e d a b sz, .atomic, r, q, q ≤ 8), (.amoFadd e d a b, .atomic, r, 4, False),
         (.redAdd e a b sz, .atomic, r, q, q ≤ 8), (.redAnd e a b sz, .atomic, r, q, False), (.redOr e a b sz, .atomic, r, q, False),
         (.redXor e a b sz, .atomic, r, q, False), (.redMin e a b sz, .atomic, r, q, False), (.redMax e a b sz, .atomic, r, q, False),
         (.redMinz e a b sz, .atomic, r, q, False), (.redMaxz e a b sz, .atomic, r, q, False), (.redFadd e a b, .atomic, r, 4, False)] :
         List (Instr × XKind × Nat × Nat × Prop)),
       let fault := fun (code : Nat) (v : W64) => exec p.1 s = .next (s.programFault c code 0 c.pc v)
       let word := (wordOf p.1).zeroExtend 64
       let barred := c.heavy = true ∧ p.2.1 ≠ .read
       let odd := p.2.2.1 % p.2.2.2.1 ≠ 0
       (barred → fault 0x08 word) ∧ (¬ barred → odd → fault 0x05 (if p.2.1 = .atomic then word else BitVec.ofNat 64 x)) ∧
       (¬ barred → ¬ odd → ∀ va, s.translateAll c p.2.1 [p.2.2.1] = .bad va → fault 0x0A (BitVec.ofNat 64 va)) ∧
       (¬ barred → ¬ odd → ∀ pa, p.2.1 = .atomic → s.translateAll c .atomic [r] = .all [pa] →
         paSpace pa = 3 ∨ paSpace pa = 2 ∧ ¬ p.2.2.2.2 → fault 0x0B word)) ∧
  (∀ (s : State) (c : Ctx) (e : List Ext) (d a b z : BitVec 5) (sz : BitVec 2),
     let q := amoBytes sz
     let names := fun (r : BitVec 5) => if q = 16 then [r.toNat, r.toNat + 1] else [r.toNat]
     let i := Instr.amoc e d a b z sz
     let fault := fun (code : Nat) (v : W64) => exec i s = .next (s.programFault c code 0 c.pc v)
     let word := (wordOf i).zeroExtend 64
     Runs s c e (names d ++ [a.toNat] ++ names b ++ names z) [] →
     (c.heavy = true → fault 0x08 word) ∧ (c.heavy = false → (c.rs a).toNat % q ≠ 0 → fault 0x05 word) ∧
     (c.heavy = false → (c.rs a).toNat % q = 0 →
       (∀ va, s.translateAll c .atomic [(c.rs a).toNat] = .bad va → fault 0x0A (BitVec.ofNat 64 va)) ∧
       ∀ pa, s.translateAll c .atomic [(c.rs a).toNat] = .all [pa] → paSpace pa = 3 → fault 0x0B word)) ∧
  (∀ (s : State) (c y : Ctx) (e : List Ext) (d a : BitVec 5) (t : BitVec 4) (o : BitVec 9), Runs s c e [a.toNat] [d.toNat] →
     d.toNat < footLimit c.foot →
     let x := (c.rs a + wideImm o e * 256).toNat
     let vas := (activeLanes (c.getK (maskReg e))).map fun l => (x + 4 * l) % 2 ^ 64
     let fault := fun (i : Instr) (code : Nat) (v : W64) => exec i s = .next (s.programFault c code 0 c.pc v)
     let word := fun (i : Instr) => (wordOf i).zeroExtend 64
     let ld := Instr.vldg e d a t o
     let st := Instr.vstg e d a o
     (x % 16 ≠ 0 → fault ld 0x05 (word ld)) ∧
     (x % 16 = 0 → ∀ va, s.translateAll c .read vas = .bad va → fault ld 0x0A (BitVec.ofNat 64 va)) ∧
     (c.sources [d.toNat] [] [d.toNat] y →
       (c.heavy = true → fault st 0x08 (word st)) ∧ (c.heavy = false → x % 16 ≠ 0 → fault st 0x05 (word st)) ∧
       (c.heavy = false → x % 16 = 0 → ∀ va, s.translateAll y .write vas = .bad va → fault st 0x0A (BitVec.ofNat 64 va))))

/-- R203. The new value of each atomic operation on `n` bytes, old value first; the signed forms compare in two's complement. -/
def Obligations.AtomicValues : Prop :=
  ∀ (n old b : Nat), 1 ≤ n → old < 2 ^ (8 * n) → b < 2 ^ (8 * n) →
    let m := 2 ^ (8 * n)
    let sg := fun (x : Nat) => if x < m / 2 then (x : Int) else (x : Int) - m
    amoValue 0 n old b = (old + b) % m ∧ amoValue 1 n old b = Nat.land old b ∧ amoValue 2 n old b = Nat.lor old b ∧
    amoValue 3 n old b = Nat.xor old b ∧ sg (amoValue 4 n old b) = min (sg old) (sg b) ∧ sg (amoValue 5 n old b) = max (sg old) (sg b) ∧
    amoValue 6 n old b = min old b ∧ amoValue 7 n old b = max old b ∧ amoValue 8 n old b = b ∧
    amoValue 9 4 old b = (f32.add 0 (old % 2 ^ 32) (b % 2 ^ 32)).val

/-! ## Vector instructions (R138 to R157) -/

/-- R55, R58 to R62, R72 to R74, R140, R148, R155. What the elements of the vector forms are, and where they go. An element of width 8, 16 or
32 whose lane is in the mask is the low bits of the computed value, any other is as before; `vcmp` sets the bit of a lane exactly when
the lane is in the mask and the condition holds for each of its elements. A TD8 code has the value of its decade; decoding it rounds that
value once to nearest, and encoding a value takes the nearest code, by the tie rule of R61, with the flags of R62. The
reciprocal and the reciprocal square root are the exact results rounded once. 2^x and log2 x are exact where R73 says so, and else
inexact and within 2^−22 of the real result, relatively (that they are rounded correctly in every case is not stated). A dot product
rounds the exact sum once, behind the special cases of R72 in their order. A floating-point sum is the tree of R74 over the active
elements with the flags of its nodes, a NaN that no addition met being quieted (R52); an extreme is a greatest or least active element. -/
def Obligations.LaneWriting : Prop :=
  (∀ w ∈ [8, 16, 32], ∀ (m : W64) (old : BitVec 2048) (f : Nat → Res) (i : Nat), i < 2048 / w →
    elem w (lanewise w m old f).1 i = if m.getLsbD (i * w / 32) then (f i).val % 2 ^ w else elem w old i) ∧
  (∀ (cc : Nat) (x y : VReg) (m : W64) (l : Nat), l < 64 → x.tag ∈ [1, 2, 3, 4, 5, 6, 7, 8] →
    (((cmpLanes cc x y m).1.getLsbD l = true) ↔ m.getLsbD l = true ∧ ∀ i, i < 32 / tagWidth x.tag →
      let n := l * (32 / tagWidth x.tag) + i
      (cmpElem cc x.tag (elem (tagWidth x.tag) x.bits n) (elem (tagWidth x.tag) y.bits n)).val = 1)) ∧
  -- TD8 (R58 to R62)
  (∀ p ∈ ([(0x40, 0, 5), (0x60, -1, 5), (0x20, 1, 4), (0x30, -2, 4), (0x10, 2, 3), (0x18, -3, 3), (0x08, 3, 2), (0x0C, -4, 2), (0x04, 4, 1),
      (0x06, -5, 1), (0x02, 5, 0), (0x03, -6, 0), (0x01, -7, 0)] : List (Nat × Int × Nat)), ∀ k, k < 2 ^ p.2.2 →
    ∀ neg : Bool, let v := td8Value ((if neg then 128 else 0) + p.1 + k)
      v.finite = true ∧ v.sign = neg ∧ v.rat = (if neg then -1 else 1) * (1 + 9 * (k : ℚ) / 2 ^ p.2.2) * 10 ^ p.2.1) ∧
  td8Value 0 = .fin false 0 1 ∧ td8Value 0x80 = .nan ∧ td8To f32 0x80 = f32.nan ∧
  (∀ c, c < 256 → c ≠ 0x80 → ∃ flags, f32.roundsTo 0 (td8Value c).rat false ⟨td8To f32 c, flags⟩) ∧
  (∀ (v : FVal) (sn : Bool),
    let r := td8Of v sn
    let near := fun c => (td8Value c).rat
    (v = .nan → r = ⟨0x80, if sn then 1 else 0⟩) ∧ (∀ s, v = .inf s → r = ⟨if s then 0x82 else 0x02, 4 + 16⟩) ∧
    (∀ s n d, v = .fin s n d → 0 < d →
      (100000 < |v.rat| → r = ⟨if s then 0x82 else 0x02, 4 + 16⟩) ∧
      (|v.rat| ≤ 100000 →
        let k := r.val % 128
        r.val = k + (if s = true ∧ k ≠ 0 then 128 else 0) ∧
        (∀ c, c < 128 → |(|v.rat| - near k)| ≤ |(|v.rat| - near c)| ∧
          (|(|v.rat| - near k)| = |(|v.rat| - near c)| → (near k < near c → k % 2 = 0) ∧ (near c < near k → c % 2 = 1))) ∧
        r.flags = if near r.val = v.rat then 0 else 16 + (if |v.rat| < 1 / 10 ^ 7 then 8 else 0)))) ∧
  -- the functions (R73)
  (∀ rm x : Nat, rm < 4 → x < 2 ^ 32 →
    let q := (f32.value x).rat
    let v := fun y => (f32.value y).rat
    let sg := f32.neg x
    let rsq := frsqrt rm x
    let ex := fexp2 rm x
    let lg := flog2 rm x
    (f32.isNaN x = true → ∀ r ∈ [frcp rm x, rsq, ex, lg], r = ⟨f32.quieted x, if f32.isSNaN x then 1 else 0⟩) ∧
    (f32.mag x = f32.inf → frcp rm x = ⟨f32.withSign sg 0, 0⟩ ∧ ex = (if sg then ⟨0, 0⟩ else ⟨f32.inf, 0⟩) ∧
      rsq = (if sg then ⟨f32.nan, 1⟩ else ⟨0, 0⟩) ∧ lg = (if sg then ⟨f32.nan, 1⟩ else ⟨f32.inf, 0⟩)) ∧
    (f32.mag x = 0 → frcp rm x = ⟨f32.withSign sg f32.inf, 2⟩ ∧ rsq = ⟨f32.withSign sg f32.inf, 2⟩ ∧ lg = ⟨f32.withSign true f32.inf, 2⟩) ∧
    (f32.mag x < f32.inf →
      (∀ i : Int, q = i → f32.roundsTo rm (2 ^ i) false ex) ∧
      ((∀ i : Int, q ≠ i) →
        (128 < q → ex = f32.round rm false (2 ^ 128) 1) ∧
        (-126 < q → q < 128 → ex.flags = 16 ∧ |(v ex.val : ℝ) - 2 ^ (q : ℝ)| ≤ 2 ^ (q : ℝ) / 2 ^ 22) ∧
        (q < -126 → ex.flags = 8 + 16 ∧ |(v ex.val : ℝ) - 2 ^ (q : ℝ)| < 1 / 2 ^ 149))) ∧
    (0 < f32.mag x → f32.mag x < f32.inf →
      f32.roundsTo rm (1 / q) false (frcp rm x) ∧
      (sg = true → rsq = ⟨f32.nan, 1⟩ ∧ lg = ⟨f32.nan, 1⟩) ∧
      (sg = false →
        let y := rsq.val
        (rm = 1 ∨ rm = 3 → v y ^ 2 * q ≤ 1 ∧ 1 < v (y + 1) ^ 2 * q) ∧
        (rm = 2 → v (y - 1) ^ 2 * q < 1 ∧ 1 ≤ v y ^ 2 * q) ∧
        (rm = 0 → ((v (y - 1) + v y) / 2) ^ 2 * q ≤ 1 ∧ 1 ≤ ((v y + v (y + 1)) / 2) ^ 2 * q) ∧
        f32.neg y = false ∧ (f32.value y).finite = true ∧ rsq.flags = (if v y ^ 2 * q = 1 then 0 else 16) ∧
        (∀ i : Int, q = 2 ^ i → v lg.val = i ∧ lg.flags = 0 ∧ (i = 0 → lg.val = 0)) ∧
        ((∀ i : Int, q ≠ 2 ^ i) → lg.flags = 16 ∧ |(v lg.val : ℝ) - Real.logb 2 q| ≤ |Real.logb 2 q| / 2 ^ 22)))) ∧
  -- dot products (R72)
  (∀ (rm c : Nat) (nans : List (Fmt × Nat)) (l m : List (Fmt × Nat)) (o : Fmt × Nat) (fs : List (FVal × FVal)), rm < 4 → nans = l ++ o :: m →
    (∀ p ∈ l, p.1.isNaN p.2 = false) → o.1.isNaN o.2 = true → o.1 ∈ [f32, bf16] → o.2 < 2 * o.1.signBit →
    dotSum rm nans fs c = ⟨f32.quieted (if o.1 = f32 then o.2 else o.2 * 2 ^ 16), if nans.any fun p => p.1.isSNaN p.2 then 1 else 0⟩) ∧
  (∀ val ∈ [bf16.value, td8Value], ∀ (rm c : Nat) (nans : List (Fmt × Nat)) (l : List (Nat × Nat)), rm < 4 → c < 2 ^ 32 →
    (∀ o ∈ nans, o.1.isNaN o.2 = false) → f32.isNaN c = false → (∀ p ∈ l, val p.1 ≠ .nan ∧ val p.2 ≠ .nan) →
    let r := dotSum rm nans (l.map fun p => (val p.1, val p.2)) c
    let isInf := fun v : FVal => v = .inf true ∨ v = .inf false
    let sign := fun p : Nat × Nat => (val p.1).sign != (val p.2).sign
    let infs := fun s => f32.value c = .inf s ∨ ∃ p ∈ l, (isInf (val p.1) ∨ isInf (val p.2)) ∧ sign p = s
    let bad := infs true ∧ infs false ∨
      ∃ p ∈ l, isInf (val p.1) ∧ (val p.2).isZero = true ∨ (val p.1).isZero = true ∧ isInf (val p.2)
    let signs := f32.neg c :: l.map sign
    (bad → r = ⟨f32.nan, 1⟩) ∧ (¬ bad → ∀ s, infs s → r = ⟨f32.withSign s f32.inf, 0⟩) ∧
    (¬ infs true → ¬ infs false →
      f32.roundsTo rm ((f32.value c).rat + (l.map fun p => (val p.1).rat * (val p.2).rat).sum) (signs.all id || rm == 3 && signs.any id) r)) ∧
  -- reductions of numbers (R74, R155)
  (∀ (rm : Nat) (m : W64) (x : VReg) (f : Fmt) (T : Nat → Nat → Option Nat), rm < 4 → tagFmt x.tag = some f →
    (∀ i, T 0 i = if i < 2048 / tagWidth x.tag ∧ m.getLsbD (i * tagWidth x.tag / 32) = true then some (elem (tagWidth x.tag) x.bits i) else none) →
    (∀ l i, T (l + 1) i = match T l (2 * i), T l (2 * i + 1) with
      | some a, some b => some (f.add rm a b).val
      | some a, none => some a
      | none, z => z) →
    let r := (redSum rm m x).1
    (redSum rm m x).2 = x.tag ∧
    r.val = (match T 8 0 with
      | none => 0
      | some y => if f.isNaN y then f.quieted y else y) ∧
    ∀ k, r.flags.testBit k = true ↔ (k = 0 ∧ ∃ y, T 8 0 = some y ∧ f.isSNaN y = true) ∨
      ∃ l i a b, l < 8 ∧ T l (2 * i) = some a ∧ T l (2 * i + 1) = some b ∧ (f.add rm a b).flags.testBit k = true) ∧
  (∀ (larger : Bool) (m : W64) (x : VReg),
    let act := activeElems (tagWidth x.tag) m x.bits
    let r := redExtreme larger m x
    (∀ f, tagFmt x.tag = some f →
      (act = [] → r = ⟨f.nan, 0⟩) ∧
      (∀ l y z, act = l ++ y :: z → (∀ u ∈ l, f.isNaN u = false) → f.isNaN y = true → r.val = f.quieted y) ∧
      (act ≠ [] → (∀ u ∈ act, f.isNaN u = false) → r.val ∈ act ∧ r.flags = 0 ∧
        ∀ u ∈ act, if larger then f.rank u ≤ f.rank r.val else f.rank r.val ≤ f.rank u)) ∧
    (x.tag = 5 →
      (act = [] ∨ 0x80 ∈ act → r = ⟨0x80, 0⟩) ∧
      (act ≠ [] → 0x80 ∉ act → r.val ∈ act ∧ r.flags = 0 ∧
        ∀ u ∈ act, if larger then (td8Value u).rat ≤ (td8Value r.val).rat else (td8Value r.val).rat ≤ (td8Value u).rat)))

/-- R31, R139, R140, R142 to R147, R149, R154. The vector forms with two sources of one tag complete with their value in every element of an
active lane, under the tag of source a. The bitwise forms, `vsel` and `vperm` complete on whole lanes: their operands' lanes, not their
elements, are combined, chosen (`vsel` writes every lane) and permuted (by the low six bits of an index). The smaller and the larger of two
elements are those of their numbers: in two's complement or plain binary, or by decoded value, where `0x80` of either gives `0x80`. Of every
vector form: a vector register that it names beyond the context's footprint faults `FOOTPRINT`, and else the first of its operands a, b, c
whose tag it does not accept faults `FORMAT` with the tag found, the tags accepted, the register and the operand in `FMTTRAP`. -/
def Obligations.VectorBinary : Prop :=
  (∀ (s : State) (c : Ctx) (e : List Ext) (d a b z : BitVec 5) (k : BitVec 3) (r : BitVec 2) (t : BitVec 4) (cc : BitVec 3) (sp : BitVec 1)
     (m : BitVec 2) (o : BitVec 9), Runs s c e [d.toNat, a.toNat, b.toNat] [d.toNat, a.toNat, b.toNat, z.toNat] →
     let num := tagsFP + tagsINT
     let all := tagsFP + tagsINT + tagsTD8
     let same := 2 ^ c.tagOf a.toNat
     let one := fun (acc : Nat) => ([d, a], [(0, a, acc)])
     let two := fun (acc : Nat) => ([d, a, b], [(0, a, acc), (1, b, same)])
     let any := fun (acc : Nat) => ([d, a, b], [(0, a, tagsANY), (1, b, acc)])
     let three := fun (p q v : Nat) => ([d, a, b, z], [(0, a, p), (1, b, q), (2, z, v)])
     ∀ p ∈ ([(.vadd e d a b k r, two num), (.vsub e d a b k r, two num), (.vmul e d a b k r, two num), (.vmin e d a b k, two all),
         (.vmax e d a b k, two all), (.vshl e d a b k, two tagsINT), (.vshr e d a b k, two tagsINT), (.vsra e d a b k, two tagsINT),
         (.vand e d a b k, any tagsANY), (.vor e d a b k, any tagsANY), (.vxor e d a b k, any tagsANY), (.vperm e d a b k, any tagsI32),
         (.vsel e d a b k, any same), (.vcmp e d a b cc k, ([a, b], [(0, a, all), (1, b, same)])), (.vabs e d a k, one all),
         (.vneg e d a k, one all), (.vexp2 e d a k r, one 4), (.vlog2 e d a k r, one 4), (.vrcp e d a k r, one 4), (.vrsqrt e d a k r, one 4),
         (.vcvt e d a t k r, one all), (.vtag e d a t, one tagsANY), (.vmov e d a k, one tagsANY), (.vext e d a b, ([a], [(0, a, tagsANY)])),
         (.vredsum e d a k r, one num), (.vredmax e d a k, one all), (.vredmin e d a k, one all), (.vfma e d a b z k r, three tagsFP same same),
         (.vfms e d a b z k r, three tagsFP same same), (.vfnma e d a b z k r, three tagsFP same same),
         (.vdotBf16 e d a b z k r, three 8 8 4), (.vdotTd8 e d a b z k r, three 32 32 4), (.ckaccMod e d a k, ([a], [(0, a, tagsANY)])),
         (.ckaccFsum e d a k, ([a], [(0, a, all)])), (.vbcast e d a t k, ([d], [])), (.vins e d a b, ([d], [])), (.vld e d a t m o, ([d], [])),
         (.vst e d a m o, ([d], [])), (.vldg e d a t o, ([d], [])), (.vstg e d a o, ([d], [])), (.vgath e d a b sp t k, ([d, b], [(1, b, tagsI32)])),
         (.vscat e d a b sp k, ([d, b], [(1, b, tagsI32)]))] : List (Instr × List (BitVec 5) × List (Nat × BitVec 5 × Nat))),
       let word := (wordOf p.1).zeroExtend 64
       ((∃ y ∈ p.2.1, footLimit c.foot ≤ y.toNat) → exec p.1 s = .next (s.programFault c 0x02 0 c.pc word)) ∧
       ∀ l n y acc u, (∀ y ∈ p.2.1, y.toNat < footLimit c.foot) → p.2.2 = l ++ (n, y, acc) :: u →
         (∀ q ∈ l, c.tagOf q.2.1.toNat ≤ 8 ∧ q.2.2.testBit (c.tagOf q.2.1.toNat) = true) →
         ¬ (c.tagOf y.toNat ≤ 8 ∧ acc.testBit (c.tagOf y.toNat) = true) →
         exec p.1 s = .next (s.programFault { c with fmttrap := c.tagOf y.toNat + acc * 2 ^ 4 + y.toNat * 2 ^ 13 + n * 2 ^ 18 + 2 ^ 20 } 0x04 0 c.pc
           word)) ∧
  (∀ t ∈ [1, 5, 6, 7, 8], ∀ (larger : Bool) (x y : Nat), x < 2 ^ tagWidth t → y < 2 ^ tagWidth t →
    let r := minmaxElem larger t x y
    (t = 5 → x = 0x80 ∨ y = 0x80 → r = ⟨0x80, 0⟩) ∧
    (t = 5 → x ≠ 0x80 → y ≠ 0x80 → r.flags = 0 ∧ (r.val = x ∨ r.val = y) ∧ (td8Value r.val).rat =
      if larger then max (td8Value x).rat (td8Value y).rat else min (td8Value x).rat (td8Value y).rat) ∧
    (t ≠ 5 → elemInt t x = (if (t = 1 ∨ t = 6) ∧ 2 ^ (tagWidth t - 1) ≤ x then (x : Int) - 2 ^ tagWidth t else x) ∧ r.flags = 0 ∧
      (r.val = x ∨ r.val = y) ∧ elemInt t r.val = if larger then max (elemInt t x) (elemInt t y) else min (elemInt t x) (elemInt t y))) ∧
  (∀ f ∈ [(2, f32), (3, bf16), (4, f16)], ∀ (larger : Bool) (x y : Nat), minmaxElem larger f.1 x y = f.2.minmax larger x y) ∧
  (∀ (s : State) (c x : Ctx) (e : List Ext) (d a b : BitVec 5) (k : BitVec 3) (r : BitVec 2), Runs s c e [] [d.toNat, a.toNat, b.toNat] →
     let t := c.tagOf a.toNat
     let w := tagWidth t
     let bin := fun (g : Fmt → Nat → Nat → Res) (h : Int → Int → Int) (u v : Nat) => match tagFmt t with
       | some f => g f u v
       | none => ⟨wrap w (h (elemInt t u) (elemInt t v)), 0⟩
     ∀ p ∈ ([
       (.vadd e d a b k r, tagsFP + tagsINT, bin (fun f => f.add r.toNat) (· + ·)),
       (.vsub e d a b k r, tagsFP + tagsINT, bin (fun f => f.sub r.toNat) (· - ·)),
       (.vmul e d a b k r, tagsFP + tagsINT, bin (fun f => f.mul r.toNat) (· * ·)),
       (.vmin e d a b k, tagsFP + tagsINT + tagsTD8, minmaxElem false t), (.vmax e d a b k, tagsFP + tagsINT + tagsTD8, minmaxElem true t),
       (.vshl e d a b k, tagsINT, fun u v => ⟨u * 2 ^ (v % w) % 2 ^ w, 0⟩), (.vshr e d a b k, tagsINT, fun u v => ⟨u / 2 ^ (v % w), 0⟩),
       (.vsra e d a b k, tagsINT, fun u v => ⟨wrap w (signed w u / (2 ^ (v % w) : Nat)), 0⟩)] : List (Instr × Nat × (Nat → Nat → Res))),
       c.sources [d.toNat, a.toNat, b.toNat] [(0, a.toNat, p.2.1), (1, b.toNat, 2 ^ t)] [a.toNat, b.toNat] x →
       s.writesLanes c x e p.1 d (x.getV a.toNat).tag (tagWidth (x.getV a.toNat).tag) (x.getK k.toNat) fun n =>
         p.2.2 (elem w (x.getV a.toNat).bits n) (elem w (x.getV b.toNat).bits n)) ∧
  (∀ (s : State) (c x : Ctx) (e : List Ext) (d a b : BitVec 5) (k : BitVec 3), Runs s c e [] [d.toNat, a.toNat, b.toNat] →
     let u := fun n => elem 32 (x.getV a.toNat).bits n
     let v := fun n => elem 32 (x.getV b.toNat).bits n
     let m := x.getK k.toNat
     ∀ p ∈ ([(.vand e d a b k, tagsANY, m, fun n => ⟨u n &&& v n, 0⟩), (.vor e d a b k, tagsANY, m, fun n => ⟨u n ||| v n, 0⟩),
         (.vxor e d a b k, tagsANY, m, fun n => ⟨u n ^^^ v n, 0⟩), (.vperm e d a b k, tagsI32, m, fun n => ⟨u (v n % 64), 0⟩),
         (.vsel e d a b k, 2 ^ c.tagOf a.toNat, BitVec.allOnes 64, fun n => ⟨if m.getLsbD n then u n else v n, 0⟩)] :
         List (Instr × Nat × W64 × (Nat → Res))),
       c.sources [d.toNat, a.toNat, b.toNat] [(0, a.toNat, tagsANY), (1, b.toNat, p.2.1)] [a.toNat, b.toNat] x →
       s.writesLanes c x e p.1 d (x.getV a.toNat).tag 32 p.2.2.1 p.2.2.2)

/-- R143, R145, R146, R150, R152, R156. The forms with one source, `vcvt`, `vbcast` and `vtag` complete, each with its own tag. The fused
forms round (−1)^p · a · b + (−1)^q · c once, and the dot products add the products of the elements of a lane to the FP32 value of c
with one rounding. `vabs` and `vneg` clear and invert the sign: of a pattern that is no NaN without a flag, of an integer modulo its width, of a
TD8 code but `0x00` and `0x80`. `vcvt` converts an element between each two of the tags, an integer to a narrower range by clamping with `SAT`. -/
def Obligations.VectorUnary : Prop :=
  (∀ (neg : Bool) (t x : Nat), x < 2 ^ tagWidth t →
    let r := signElem neg t x
    (∀ f, tagFmt t = some f →
      (f.isNaN x = true → r = ⟨f.quieted x, if f.isSNaN x then 1 else 0⟩) ∧
      (f.isNaN x = false → r = ⟨f.withSign (neg && !f.neg x) (f.mag x), 0⟩)) ∧
    (t ∈ [1, 6, 7, 8] → r = ⟨((if neg then -elemInt t x else |elemInt t x|) % 2 ^ tagWidth t).toNat, 0⟩) ∧
    (t = 5 → r = ⟨if x % 128 = 0 then x else x % 128 + (if neg ∧ x < 128 then 128 else 0), 0⟩)) ∧
  (∀ (a t rm x : Nat), rm < 4 → x < 2 ^ tagWidth a →
    let r := convElem a t rm x
    let int := fun u : Nat => u ∈ [1, 6, 7, 8]
    let z := elemInt a x
    let lo : Int := if t = 1 then -2 ^ 31 else if t = 6 then -2 ^ 7 else 0
    let hi : Int := if t = 1 then 2 ^ 31 - 1 else if t = 6 then 2 ^ 7 - 1 else if t = 7 then 2 ^ 32 - 1 else 2 ^ 8 - 1
    let put := fun p : Int × Nat => (⟨(p.1 % 2 ^ tagWidth t).toNat, p.2⟩ : Res)
    (∀ f, tagFmt a = some f →
      (∀ g, tagFmt t = some g → r = convFmt f g rm x) ∧ (t = 5 → r = td8Of (f.value x) (f.isSNaN x)) ∧
      (int t → r = put (intOf rm lo hi (f.value x)))) ∧
    (a = 5 →
      (∀ g, tagFmt t = some g → (x = 0x80 → r = ⟨g.nan, 0⟩) ∧ (x ≠ 0x80 →
        (t = 2 → r = ⟨td8To f32 x, 0⟩) ∧ (t ≠ 2 → g.roundsTo rm (td8Value x).rat false r))) ∧
      (t = 5 → r = ⟨x, 0⟩) ∧ (int t → r = put (intOf rm lo hi (td8Value x)))) ∧
    (int a →
      (∀ g, tagFmt t = some g → g.roundsTo rm (z : ℚ) false r) ∧ (t = 5 → r = td8Of (.fin (decide (z < 0)) z.natAbs 1) false) ∧
      (int t → r = put (if z < lo then (lo, 32) else if hi < z then (hi, 32) else (z, 0))))) ∧
  (∀ (s : State) (c x : Ctx) (e : List Ext) (d a : BitVec 5) (k : BitVec 3) (r : BitVec 2), Runs s c e [] [d.toNat, a.toNat] →
    let m := r.toNat
    let g := (x.getV a.toNat).tag
    ∀ p ∈ ([(.vabs e d a k, tagsFP + tagsINT + tagsTD8, signElem false g), (.vneg e d a k, tagsFP + tagsINT + tagsTD8, signElem true g),
        (.vexp2 e d a k r, 4, fexp2 m), (.vlog2 e d a k r, 4, flog2 m), (.vrcp e d a k r, 4, frcp m), (.vrsqrt e d a k r, 4, frsqrt m)] :
        List (Instr × Nat × (Nat → Res))),
      c.sources [d.toNat, a.toNat] [(0, a.toNat, p.2.1)] [a.toNat] x →
      s.writesLanes c x e p.1 d g (tagWidth g) (x.getK k.toNat) fun n => p.2.2 (elem (tagWidth g) (x.getV a.toNat).bits n)) ∧
  (∀ (s : State) (c x : Ctx) (e : List Ext) (d a : BitVec 5) (t : BitVec 4) (k : BitVec 3) (r : BitVec 2), Runs s c e [] [d.toNat, a.toNat] →
    let v := x.getV a.toNat
    let w := tagWidth t.toNat
    (c.sources [d.toNat, a.toNat] [(0, a.toNat, tagsFP + tagsINT + tagsTD8)] [a.toNat] x →
      s.writesLanes c x e (.vcvt e d a t k r) d t.toNat w (x.getK k.toNat) fun n =>
        if n < min (2048 / tagWidth v.tag) (2048 / w) then convElem v.tag t.toNat r.toNat (elem (tagWidth v.tag) v.bits n) else ⟨0, 0⟩) ∧
    (c.sources [d.toNat, a.toNat] [(0, a.toNat, tagsANY)] [a.toNat] x →
      s.writesLanes c x e (.vmov e d a k) d v.tag 32 (x.getK k.toNat) (fun n => ⟨elem 32 v.bits n, 0⟩) ∧
      ∀ y, s.takesResult x d.toNat ⟨v.bits, t.toNat⟩ y → exec (.vtag e d a t) s = .next (s.past c e y))) ∧
  (∀ (s : State) (c x : Ctx) (e : List Ext) (d a : BitVec 5) (t : BitVec 4) (k : BitVec 3), Runs s c e [a.toNat] [d.toNat] →
    c.sources [d.toNat] [] [] x →
    s.writesLanes c x e (.vbcast e d a t k) d t.toNat (tagWidth t.toNat) (x.getK k.toNat) fun _ =>
      ⟨(c.rs a).toNat % 2 ^ tagWidth t.toNat, 0⟩) ∧
  (∀ (s : State) (c x : Ctx) (e : List Ext) (d a b z : BitVec 5) (k : BitVec 3) (r : BitVec 2),
     Runs s c e [] [d.toNat, a.toNat, b.toNat, z.toNat] →
     let v := fun (y : BitVec 5) => (x.getV y.toNat).bits
     let named := [d.toNat, a.toNat, b.toNat, z.toNat]
     (∀ f, tagFmt (x.getV a.toNat).tag = some f →
       let t := 2 ^ c.tagOf a.toNat
       let w := tagWidth (x.getV a.toNat).tag
       c.sources named [(0, a.toNat, tagsFP), (1, b.toNat, t), (2, z.toNat, t)] [a.toNat, b.toNat, z.toNat] x →
       ∀ p ∈ ([(.vfma e d a b z k r, false, false), (.vfms e d a b z k r, false, true), (.vfnma e d a b z k r, true, false)] :
           List (Instr × Bool × Bool)),
         s.writesLanes c x e p.1 d (x.getV a.toNat).tag w (x.getK k.toNat) fun n =>
           f.fma r.toNat p.2.1 p.2.2 (elem w (v a) n) (elem w (v b) n) (elem w (v z) n)) ∧
     (c.sources named [(0, a.toNat, 8), (1, b.toNat, 8), (2, z.toNat, 4)] [a.toNat, b.toNat, z.toNat] x →
       s.writesLanes c x e (.vdotBf16 e d a b z k r) d 2 32 (x.getK k.toNat) fun l =>
         let p := fun n => elem 16 (v a) n
         let q := fun n => elem 16 (v b) n
         dotSum r.toNat [(bf16, p (2 * l)), (bf16, p (2 * l + 1)), (bf16, q (2 * l)), (bf16, q (2 * l + 1)), (f32, elem 32 (v z) l)]
           [(bf16.value (p (2 * l)), bf16.value (q (2 * l))), (bf16.value (p (2 * l + 1)), bf16.value (q (2 * l + 1)))] (elem 32 (v z) l)) ∧
     (c.sources named [(0, a.toNat, 32), (1, b.toNat, 32), (2, z.toNat, 4)] [a.toNat, b.toNat, z.toNat] x →
       s.writesLanes c x e (.vdotTd8 e d a b z k r) d 2 32 (x.getK k.toNat) fun l =>
         let js := [4 * l, 4 * l + 1, 4 * l + 2, 4 * l + 3]
         dotSum r.toNat (js.map (fun n => td8Nan (elem 8 (v a) n)) ++ js.map (fun n => td8Nan (elem 8 (v b) n)) ++ [(f32, elem 32 (v z) l)])
           (js.map fun n => (td8Value (elem 8 (v a) n), td8Value (elem 8 (v b) n))) (elem 32 (v z) l)))

/-- R148, R153, R155. `vcmp` completes with its mask, `vext` and `vins` move one element, whose index is taken modulo the number of
elements, and the reductions put one value into element 0 and zero into every other bit: for the integer ones the sum modulo 2^32,
under the tag of width 32, or a greatest or least element, where no active element gives 0, the least or the greatest number of the type. That
`vins` under a pop binding of its register pops no strip and reads the register as it stands is log 104 (DESIGN CHOICE). -/
def Obligations.VectorScalars : Prop :=
  (∀ (s : State) (c x : Ctx) (e : List Ext) (d a b : BitVec 5) (cc k : BitVec 3), Runs s c e [] [a.toNat, b.toNat] →
    c.sources [a.toNat, b.toNat] [(0, a.toNat, tagsFP + tagsINT + tagsTD8), (1, b.toNat, 2 ^ c.tagOf a.toNat)] [a.toNat, b.toNat] x →
    let r := cmpLanes cc.toNat (x.getV a.toNat) (x.getV b.toNat) (x.getK k.toNat)
    exec (.vcmp e d a b cc k) s = .next (s.past c e ((x.setK d.toNat r.1).raise r.2))) ∧
  (∀ (s : State) (c x : Ctx) (e : List Ext) (d a b : BitVec 5), Runs s c e [d.toNat, b.toNat] [a.toNat] →
    c.sources [a.toNat] [(0, a.toNat, tagsANY)] [a.toNat] x →
    let v := x.getV a.toNat
    let w := tagWidth v.tag
    exec (.vext e d a b) s =
      .next (s.past c e (x.wr d (BitVec.ofInt 64 (elemInt v.tag (elem w v.bits ((c.rs b).toNat % (2048 / w)))))))) ∧
  (∀ (s : State) (c x y : Ctx) (e : List Ext) (d a b : BitVec 5), Runs s c e [a.toNat, b.toNat] [d.toNat] → c.sources [d.toNat] [] [] x →
    let v := x.getV d.toNat
    let w := tagWidth v.tag
    s.takesResult x d.toNat ⟨BitVec.ofNat 2048 (putBits v.bits.toNat (w * ((c.rs b).toNat % (2048 / w))) w (c.rs a).toNat), v.tag⟩ y →
    exec (.vins e d a b) s = .next (s.past c e y)) ∧
  (∀ (s : State) (c x : Ctx) (e : List Ext) (d a : BitVec 5) (k : BitVec 3) (r : BitVec 2), Runs s c e [] [d.toNat, a.toNat] →
    let v := x.getV a.toNat
    let m := x.getK k.toNat
    ∀ p ∈ ([(.vredsum e d a k r, tagsFP + tagsINT, redSum r.toNat m v),
        (.vredmax e d a k, tagsFP + tagsINT + tagsTD8, redExtreme true m v, v.tag),
        (.vredmin e d a k, tagsFP + tagsINT + tagsTD8, redExtreme false m v, v.tag)] : List (Instr × Nat × Res × Nat)),
      c.sources [d.toNat, a.toNat] [(0, a.toNat, p.2.1)] [a.toNat] x →
      ∀ y, s.takesResult x d.toNat ⟨BitVec.ofNat 2048 p.2.2.1.val, p.2.2.2⟩ y → exec p.1 s = .next (s.past c e (y.raise p.2.2.1.flags))) ∧
  (∀ (rm : Nat) (m : W64) (x : VReg), x.tag ∈ [1, 6, 7, 8] →
     let l := (activeElems (tagWidth x.tag) m x.bits).map (elemInt x.tag)
     (redSum rm m x).1 = ⟨wrap 32 l.sum, 0⟩ ∧ (redSum rm m x).2 = (if x.tag = 1 ∨ x.tag = 6 then 1 else 7) ∧
     ∀ larger : Bool,
       let r := redExtreme larger m x
       let v := elemInt x.tag r.val
       let top : Int := if x.tag = 1 then 2 ^ 31 - 1 else if x.tag = 6 then 2 ^ 7 - 1 else if x.tag = 7 then 2 ^ 32 - 1 else 2 ^ 8 - 1
       r.flags = 0 ∧ (l ≠ [] → v ∈ l ∧ ∀ z ∈ l, if larger then z ≤ v else v ≤ z) ∧
       (l = [] → v = if larger then (if x.tag = 1 ∨ x.tag = 6 then -top - 1 else 0) else top))

/-- Frame of the vector register forms (R16, R113, R140). When one of them, none of whose registers is bound to a stream, answers a next state
that still holds its context, no memory, core, cluster or device register changes, every other context is as it was, and of its own nothing
but the destination register, the pc, `FPFLAGS`, the work and scheduling fields. -/
def Obligations.VectorFrame : Prop :=
  ∀ (s t : State) (c : Ctx) (e : List Ext) (d a b z : BitVec 5) (k : BitVec 3) (r : BitVec 2) (tg : BitVec 4) (x : Instr),
    s.issuer = some c → s.ctx c.key = some c → c.slots = [] → blocks [d.toNat, a.toNat, b.toNat] [d.toNat, a.toNat, b.toNat, z.toNat] s c = false →
    (∀ y ∈ [d, a, b, z], y.toNat < footLimit c.foot) → c.used + groupWords e ≤ c.limit →
    x ∈ [Instr.vadd e d a b k r, .vsub e d a b k r, .vmul e d a b k r, .vmin e d a b k, .vmax e d a b k, .vshl e d a b k, .vshr e d a b k,
      .vsra e d a b k, .vabs e d a k, .vneg e d a k, .vexp2 e d a k r, .vlog2 e d a k r, .vrcp e d a k r, .vrsqrt e d a k r,
      .vcvt e d a tg k r, .vtag e d a tg, .vmov e d a k, .vbcast e d a tg k, .vand e d a b k, .vor e d a b k, .vxor e d a b k, .vsel e d a b k,
      .vperm e d a b k, .vfma e d a b z k r, .vfms e d a b z k r, .vfnma e d a b z k r, .vdotBf16 e d a b z k r, .vdotTd8 e d a b z k r,
      .vins e d a b, .vredsum e d a k r, .vredmax e d a k, .vredmin e d a k] →
    exec x s = .next t → (t.ctx c.key).isSome →
    s.onlyContexts t ∧ s.othersKept t c.key ∧
    ∃ c', t.ctx c.key = some c' ∧ c.vectorOnly c' ∧
      ∀ q, q ≠ d.toNat → c'.getV q = c.getV q

/-! ## Masks and invariant registers (R157, R165 to R168) -/

/-- R16, R157, R165 to R167. The forms on masks and invariant registers complete; `k0` reads all ones and is not written. -/
def Obligations.MaskForms : Prop :=
  ∀ (s : State) (c : Ctx) (e : List Ext) (d a b : BitVec 5), Runs s c e [d.toNat, a.toNat] [] →
    let k := fun (r : BitVec 5) => if r = 0 then BitVec.allOnes 64 else c.getK r.toNat
    let set := fun (v : W64) => if d = 0 then c else { c with k := c.k.setIfInBounds d.toNat v }
    ∀ p ∈ ([(.kset e d a, set (c.rs a)), (.kand e d a b, set (k a &&& k b)), (.kor e d a b, set (k a ||| k b)), (.knot e d a, set (~~~k a)),
        (.kpop e d a, c.wr d (BitVec.ofNat 64 ((List.range 64).countP fun i => (k a).getLsbD i))), (.ckclr e d, c.setQ d.toNat 0),
        (.ckrdLo e d a, c.wr d ((c.getQ a.toNat).setWidth 64)), (.ckrdHi e d a, c.wr d ((c.getQ a.toNat).extractLsb' 64 64))] :
        List (Instr × Ctx)),
      exec p.1 s = .next (s.past c e p.2)

/-- R166, R168. `ckacc` folds the active elements of a register, in rising order, into an invariant register of its own kind: their bits modulo
2^64, or their exact values, each sum rounded once to the nearest binary64 number, where a NaN stays. `check` completes while the
two registers are within the tolerance, and else takes the trap `CHECK` behind the group. Registers of different kinds never are; of two of kind 1
equal ones are, and otherwise the exact difference counts, which an infinite tolerance admits and a NaN anywhere does not. -/
def Obligations.Invariants : Prop :=
  (∀ (s : State) (c x : Ctx) (e : List Ext) (d a : BitVec 5) (k : BitVec 3), Runs s c e [] [a.toNat] →
    ∀ p ∈ ([(.ckaccMod e d a k, 0, tagsANY), (.ckaccFsum e d a k, 1, tagsFP + tagsINT + tagsTD8)] : List (Instr × Nat × Nat)),
      c.sources [a.toNat] [(0, a.toNat, p.2.2)] [a.toNat] x → (c.getQ d.toNat = 0 ∨ (c.getQ d.toNat).toNat / 2 ^ 96 % 2 = p.2.1) →
      exec p.1 s = .next (s.past c e (x.setQ d.toNat (foldInto p.2.1 (c.getQ d.toNat) (x.getK k.toNat) (x.getV a.toNat))))) ∧
  (∀ (kind : Nat) (q : BitVec 128) (m : W64) (x : VReg), kind < 2 →
    let l := activeElems (tagWidth x.tag) m x.bits
    let y := (foldInto kind q m x).toNat
    y / 2 ^ 96 = kind ∧ y / 2 ^ 64 % 2 ^ 32 = (q.toNat / 2 ^ 64 + l.length) % 2 ^ 32 ∧ (kind = 0 → y % 2 ^ 64 = (q.toNat + l.sum) % 2 ^ 64) ∧
    (kind = 1 → y % 2 ^ 64 = l.foldl (fun s v => foldSum s (elemValue x.tag v)) (qSum q))) ∧
  (∀ t v : Nat, (∀ f, tagFmt t = some f → elemValue t v = f.value v) ∧ (t = 5 → elemValue t v = td8Value v) ∧
    (t ∈ [1, 6, 7, 8] → (elemValue t v).finite = true ∧ (elemValue t v).rat = (elemInt t v : ℚ))) ∧
  (∀ (a : Nat) (v : FVal), a < 2 ^ 64 → (∀ n x d, v = .fin n x d → 0 < d) →
    let u := f64.value a
    let r := foldSum a v
    (u = .nan ∨ v = .nan ∨ (∃ n, u = .inf n ∧ v = .inf !n) → r = 0x7FF8000000000000) ∧
    (∀ n, u = .inf n ∧ v = .inf n ∨ u = .inf n ∧ v.finite = true ∨ u.finite = true ∧ v = .inf n → r = f64.withSign n f64.inf) ∧
    (u.finite = true → v.finite = true → ∃ flags, f64.roundsTo 0 (u.rat + v.rat) (u.sign && v.sign) ⟨r, flags⟩)) ∧
  (∀ (s : State) (c : Ctx) (e : List Ext) (d a b : BitVec 5), Runs s c e [d.toNat] [] →
    let r := compareQ (c.getQ a.toNat) (c.getQ b.toNat) (c.rs d)
    (r.1 = false → exec (.check e d a b) s = .next (s.past c e c)) ∧
    (r.1 = true → ∃ y, (s.past c e c).ctx c.key = some y ∧
      exec (.check e d a b) s = .next ((s.past c e c).takeTrap y 0x18 (a.toNat + b.toNat * 4 + b2n r.2.1 * 16 + b2n r.2.2.1 * 32) r.2.2.2
        c.pc (c.nextPc e)))) ∧
  (∀ (a b : BitVec 128) (t : W64), qKind a = 0 → qKind b = 0 →
    let x := BitVec.ofNat 64 (qSum a) - BitVec.ofNat 64 (qSum b)
    compareQ a b t = (decide (t.toNat < x.toInt.natAbs), false, false, x)) ∧
  (∀ (a b : BitVec 128) (t : W64),
    let r := compareQ a b t
    let x := r.2.2.2.toNat
    let u := f64.value (qSum a)
    let v := f64.value (qSum b)
    let w := f64.value t.toNat
    (qKind a ≠ qKind b → r = (true, true, false, 0)) ∧
    (qKind a = 1 → qKind b = 1 →
      r.2.1 = false ∧ (r.2.2.1 = true ↔ u = .nan ∨ v = .nan ∨ w = .nan) ∧ (r.2.2.1 = true → r.1 = true) ∧
      (u = .nan ∨ v = .nan → x = f64.nan) ∧
      (u.finite = true → v.finite = true →
        (∃ flags, f64.roundsTo 0 (u.rat - v.rat) (u.sign && !v.sign) ⟨x, flags⟩) ∧
        (w.finite = true → (r.1 = true ↔ u.rat ≠ v.rat ∧ w.rat < |u.rat - v.rat|)) ∧
        (w = .inf false → r.1 = false) ∧ (w = .inf true → (r.1 = true ↔ u.rat ≠ v.rat))) ∧
      ∀ n, (u = .inf n → v = .inf n → x = f64.nan ∧ (w ≠ .nan → r.1 = false)) ∧
        (u = .inf n → v.finite = true ∨ v = .inf !n → x = f64.withSign n f64.inf ∧ (w ≠ .nan → (r.1 = true ↔ w ≠ .inf false))) ∧
        (u.finite = true → v = .inf n → x = f64.withSign (!n) f64.inf ∧ (w ≠ .nan → (r.1 = true ↔ w ≠ .inf false)))))

/-! ## Streams (R159 to R164) -/

/-- R21, R159, R160, R163, R164. `sbind` of a legal record completes with a fresh slot for the register, whose earlier binding ends; `sfree`
removes it; the reading of the record counts in the migration predictor like an `ldg` (R295). While strips pushed through the register are
still to be written both are held; so is `sbind` while a write of the context that reaches S itself is not performed. A push into a tile, a
heavy task's push into global memory or out of its lease, and a fifth slot are program faults. -/
def Obligations.StreamBindings : Prop :=
  ∀ (s u : State) (c : Ctx) (f : Ctx → Ctx) (e : List Ext) (d a : BitVec 5) (b : List Byte), Runs s c e [a.toNat] [d.toNat] → d.toNat < footLimit c.foot →
    let ra := (c.rs a).toNat
    let forms : List (Instr × Bool) := [(.sbindPop e d a, false), (.sbindPush e d a, true)]
    (c.draining d.toNat = true ↔ ∃ y ∈ c.slots, y.reg = d.toNat ∧ y.push = true ∧ y.staged ≠ []) ∧
    (c.draining d.toNat = false → exec (.sfree e d) s = .next (s.past c e { c with slots := c.slots.filter fun y => y.reg != d.toNat })) ∧
    (c.draining d.toNat = true → exec (.sfree e d) s = .next (s.holds c)) ∧
    (s.unreached c = true → ∀ p ∈ forms, exec p.1 s = .next (s.holds c)) ∧
    (s.unreached c = false → ra % 64 = 0 → s.readsRecord c ra 64 u f b → rejectShape b ra = none →
      let h := shapeOf b
      let room := (c.slotOf d.toNat).isSome ∨ c.slots.length < 4
      ∀ p ∈ forms,
        let outside := p.2 = true ∧ c.heavy = true ∧ (h.space = 1 ∨ h.leavesLease c = true)
        (p.2 = true → h.space = 2 → exec p.1 s = .next (s.programFault c 0x01 5 c.pc (BitVec.ofNat 64 ra))) ∧
        ((p.2 = true → h.space ≠ 2) →
          (outside → exec p.1 s = .next (s.programFault c 0x08 0 c.pc ((wordOf p.1).zeroExtend 64))) ∧
          (¬ outside → ¬ room → exec p.1 s = .next (s.programFault c 0x01 4 c.pc ((wordOf p.1).zeroExtend 64))) ∧
          (¬ outside → room →
            (c.draining d.toNat = true → exec p.1 s = .next (u.holds c)) ∧
            (c.draining d.toNat = false → exec p.1 s = .next (u.tickStamp.past c e
              { f c with slots := c.slots.filter (fun y => y.reg != d.toNat) ++ [⟨d.toNat, p.2, h, 0, [], 0, u.stamp, []⟩] })))))

/-! ## Vector memory (R197 to R202) -/

/-- R198 to R202. The vector loads complete with the four bytes of every active lane in that lane (local memory) or are accepted (global
memory); lanes that the mask leaves out read nothing. The stores write the active lanes into local memory, in rising order of lanes, or
are accepted; when two lanes name overlapping bytes the later lane is seen, and a byte that no lane names is as before. A gather and a scatter
of global memory make one request per lane group and line. A load or store that minds full and empty granules and meets one in the wrong state
parks its context, without any other effect. -/
def Obligations.VectorMemory : Prop :=
  (∀ (s : State) (c y : Ctx) (e : List Ext) (d a : BitVec 5) (t : BitVec 4) (m : BitVec 2) (o : BitVec 9), Runs s c e [a.toNat] [d.toNat] →
    d.toNat < footLimit c.foot →
    let x := (c.rs a + wideImm o e * 256).toNat
    let ls := (activeLanes (c.getK (maskReg e))).map fun l => (l, (x + 4 * l) % 2 ^ 64)
    let k := s.core c.start
    let g := (ls.map fun p => p.2 / 16).dedup
    x % 16 = 0 →
    (s.acquirePending c.uid = false → x ≤ 0x7FF00 → m ≠ 3 → (m ≠ 0 → ∀ z ∈ g, k.full.contains z = true) → (m = 2 → ∀ p ∈ ls, c.mayTouch p.2 4) →
      (∀ p ∈ ls, k.poisoned p.2 4 = false) →
      s.takesResult c d.toNat ⟨putLanes (c.getV d.toNat).bits (ls.map fun p => (p.1, k.lm.readN p.2 4)), t.toNat⟩ y →
      exec (.vld e d a t m o) s = .next ((if m = 2 then s.setGranules c.start g false else s).pastBank c e y)) ∧
    (∀ pas, ls ≠ [] → s.translateAll c .read (ls.map Prod.snd) = .all pas → s.awaitsResult c d.toNat t.toNat y →
      exec (.vldg e d a t o) s = .next (s.accepted y e .load ((ls.zip pas).map fun p => ⟨p.2, p.1.2, 4, 0, p.1.1⟩) (memOrd e)
        (.vreg d.toNat t.toNat) false)) ∧
    (ls = [] → s.takesResult c d.toNat ⟨(c.getV d.toNat).bits, t.toNat⟩ y → exec (.vldg e d a t o) s = .next (s.past c e y))) ∧
  (∀ (s : State) (c x y : Ctx) (e : List Ext) (d a b : BitVec 5) (t : BitVec 4) (k : BitVec 3), Runs s c e [a.toNat] [d.toNat, b.toNat] →
    c.sources [d.toNat, b.toNat] [(1, b.toNat, tagsI32)] [b.toNat] x →
    let ls := gatherLanes (c.rs a).toNat (x.getV b.toNat) (x.getK k.toNat)
    (∀ p ∈ ls, p.2 % 4 = 0) →
    (s.acquirePending c.uid = false → (∀ p ∈ ls, p.2 ≤ 0x7FFFC ∧ (s.core c.start).poisoned p.2 4 = false) →
      s.takesResult x d.toNat ⟨putLanes (x.getV d.toNat).bits (ls.map fun p => (p.1, (s.core c.start).lm.readN p.2 4)), t.toNat⟩ y →
      exec (.vgath e d a b 0 t k) s = .next (s.pastBank c e y)) ∧
    (∀ pas, ls ≠ [] → (∀ p ∈ ls, p.2 < 2 ^ 57) → s.translateAll x .read (ls.map Prod.snd) = .all pas → s.awaitsResult x d.toNat t.toNat y →
      exec (.vgath e d a b 1 t k) s = .next (s.acceptedLanes y e .load ((ls.zip pas).map fun p => ⟨p.2, p.1.2, 4, 0, p.1.1⟩) (memOrd e)
        (.vreg d.toNat t.toNat))) ∧
    (ls = [] → s.takesResult x d.toNat ⟨(x.getV d.toNat).bits, t.toNat⟩ y → exec (.vgath e d a b 1 t k) s = .next (s.past c e y))) ∧
  (∀ (s : State) (c y : Ctx) (e : List Ext) (d a : BitVec 5) (m : BitVec 2) (o : BitVec 9), Runs s c e [a.toNat] [d.toNat] →
    c.sources [d.toNat] [] [d.toNat] y →
    let x := (c.rs a + wideImm o e * 256).toNat
    let ls := (activeLanes (c.getK (maskReg e))).map fun l => (l, (x + 4 * l) % 2 ^ 64)
    let g := (ls.map fun p => p.2 / 16).dedup
    let v := fun l => elem 32 (y.getV d.toNat).bits l
    x % 16 = 0 →
    (s.acquirePending c.uid = false → x ≤ 0x7FF00 → (m = 1 → ∀ z ∈ g, (s.core c.start).full.contains z = false) → (∀ p ∈ ls, c.mayTouch p.2 4) →
      s.mayStore c (ls.map fun p => (p.2, 4)) →
      let u := s.modCore c.start fun k => k.writeAll (ls.map fun p => (p.2, bytesOf 4 (v p.1)))
      exec (.vst e d a m o) s = .next ((if m = 1 then u.setGranules c.start g true else u).pastBank c e y)) ∧
    (∀ pas, c.heavy = false → s.translateAll y .write (ls.map Prod.snd) = .all pas →
      exec (.vstg e d a o) s = .next (s.accepted y e .store ((ls.zip pas).map fun p => ⟨p.2, p.1.2, 4, v p.1.1, p.1.1⟩) (memOrd e)
        .none false))) ∧
  (∀ (s : State) (c x : Ctx) (e : List Ext) (d a b : BitVec 5) (k : BitVec 3), Runs s c e [a.toNat] [d.toNat, b.toNat] →
    c.sources [d.toNat, b.toNat] [(1, b.toNat, tagsI32)] [d.toNat, b.toNat] x →
    let ls := gatherLanes (c.rs a).toNat (x.getV b.toNat) (x.getK k.toNat)
    let v := fun l => elem 32 (x.getV d.toNat).bits l
    (∀ p ∈ ls, p.2 % 4 = 0) →
    (s.acquirePending c.uid = false → (∀ p ∈ ls, p.2 ≤ 0x7FFFC ∧ c.mayTouch p.2 4) → s.mayStore c (ls.map fun p => (p.2, 4)) →
      exec (.vscat e d a b 0 k) s =
        .next ((s.modCore c.start fun k => k.writeAll (ls.map fun p => (p.2, bytesOf 4 (v p.1)))).pastBank c e x)) ∧
    (∀ pas, c.heavy = false → (∀ p ∈ ls, p.2 < 2 ^ 57) → s.translateAll x .write (ls.map Prod.snd) = .all pas →
      exec (.vscat e d a b 1 k) s = .next (s.acceptedLanes x e .store ((ls.zip pas).map fun p => ⟨p.2, p.1.2, 4, v p.1.1, p.1.1⟩) (memOrd e)
        .none))) ∧
  (∀ (s : State) (c x : Ctx) (e : List Ext) (d a : BitVec 5) (t : BitVec 4) (m : BitVec 2) (o : BitVec 9), s.issuer = some c →
    blocks [a.toNat] [d.toNat] s c = false → d.toNat < footLimit c.foot → s.acquirePending c.uid = false →
    let y := (c.rs a + wideImm o e * 256).toNat
    let ls := (activeLanes (c.getK (maskReg e))).map fun l => (y + 4 * l) % 2 ^ 64
    let g := (ls.map fun p => p / 16).dedup
    let k := s.core c.start
    y % 16 = 0 → y ≤ 0x7FF00 →
    (m = 1 ∨ m = 2 → (m = 2 → ∀ p ∈ ls, c.mayTouch p 4) → (∃ z ∈ g, k.full.contains z = false) →
      ∃ u, exec (.vld e d a t m o) s = .next u ∧ s.parksAt u c (.granules g true)) ∧
    (m = 1 → c.sources [d.toNat] [] [d.toNat] x → (∀ p ∈ ls, c.mayTouch p 4 ∧ k.guarded c.uid p 4 = false ∧ k.tagged p 4 = false) →
      (∃ z ∈ g, k.full.contains z = true) → ∃ u, exec (.vst e d a m o) s = .next u ∧ s.parksAt u c (.granules g false))) ∧
  (∀ (k : Core) (l : List (Nat × List Byte)) (a : Nat), k.lm.wf = true →
     (k.writeAll l).lm.read a = ((l.reverse.findSome? fun p => if p.1 ≤ a then p.2[a - p.1]? else none).getD (k.lm.read a)) ∧
     (k.writeAll l).lm.wf = true ∧ (k.writeAll l).full = k.full ∧ (k.writeAll l).tags = k.tags)

/-! ## Matrix instructions (R169 to R187) -/

/-- R19, R20, R172 to R183, R185, R186. `odset` and `mwin` of a descriptor of zero extent clear the register; a legal operand descriptor is
kept, and a legal window claims its block for the context and is kept, with its command in the queue. The commands on windows enter the
matrix queue of their core and complete, when it holds fewer than 16, with the window and the data that they read at issue. -/
def Obligations.MatrixForms : Prop :=
  (∀ (s : State) (c : Ctx) (e : List Ext) (d a b : BitVec 5), Runs s c e [a.toNat, b.toNat] [] →
     let o : BitVec 128 := c.rs b ++ c.rs a
     let w := c.rs a
     let q := clusterOf c.start
     (odRows o = 0 → exec (.odset e d a b) s = .next (s.past c e { c with o := c.o.setIfInBounds d.toNat 0 })) ∧
     (odRows o ≠ 0 → odFault o = none →
       exec (.odset e d a b) s = .next (s.past c e { c with o := c.o.setIfInBounds d.toNat (odKeep o) })) ∧
     (wRows w = 0 → exec (.mwin e d a) s = .next (s.past c e { c with m := c.m.setIfInBounds d.toNat 0 })) ∧
     (wRows w ≠ 0 → (wFmt w = 1 ∨ wFmt w = 2) → windowFits w (((s.cluster q).part[coreInCluster c.start]?).getD 0) = true →
       ((s.cluster q).claims.find (s.blockOf c.start w) = none ∨ (s.cluster q).claims.find (s.blockOf c.start w) = some c.uid) →
       (s.core c.start).mq.length < 16 →
       let v := w &&& 0x7FFFFFFFF#64
       let u := s.modCluster q fun g => { g with claims := g.claims.put (s.blockOf c.start w) c.uid }
       exec (.mwin e d a) s = .next ((u.queued c (.mwin v)).past c e { c with m := c.m.setIfInBounds d.toNat v }))) ∧
  (∀ (s : State) (c : Ctx) (e : List Ext) (d a b : BitVec 5), Runs s c e [a.toNat, b.toNat] [] → (s.core c.start).mq.length < 16 →
    let m := c.getM d.toNat
    let x := (c.rs a).toNat
    let n := fun (w : Nat) => w * wRows m * wCols m
    ((wFmt m = 1 ∨ wFmt m = 2) → exec (.mzero e d) s = .next ((s.queued c (.mzero m)).past c e c) ∧
      (x % 16 = 0 → x + n 4 ≤ 0x80000 → exec (.mld e d a) s = .next ((s.queued c (.mld m x)).past c e c)) ∧
      (x % 16 = 0 → ∀ p ∈ ([(.mst e d a, 0, 4), (.mstBf16 e d a, 1, 2), (.mstTd8 e d a, 2, 1)] : List (Instr × Nat × Nat)),
        x + n p.2.2 ≤ 0x80000 → c.mayTouch x (n p.2.2) → (s.core c.start).guarded c.uid x (n p.2.2) = false →
        (s.core c.start).tagged x (n p.2.2) = false → exec p.1 s = .next ((s.queued c (.mst m x p.2.1)).past c e c))) ∧
    ((wFmt (c.getM a.toNat) = 1 ∨ wFmt (c.getM a.toNat) = 2) → exec (.mchk e d a b) s =
      .next ((s.queued { c with parkPc := c.pc } (.mchk (c.getM a.toNat) a.toNat d.toNat (c.rs b))).past c e { c with parkPc := c.pc }))) ∧
  (∀ (s : State) (c y : Ctx) (e : List Ext) (d a : BitVec 5), Runs s c e [] [d.toNat] → (s.core c.start).mq.length < 16 →
    let m := c.getM a.toNat
    d.toNat < footLimit c.foot → (wFmt m = 1 ∨ wFmt m = 2) → s.awaitsResult c d.toNat (wFmt m) y →
    exec (.mres e d a) s = .next ((s.queued y (.mres m d.toNat)).past c e y)) ∧
  (∀ (s : State) (c x : Ctx) (e : List Ext) (d a b : BitVec 5), Runs s c e [] [a.toNat, b.toNat] → (s.core c.start).mq.length < 16 →
    let m := c.getM d.toNat
    c.sources [a.toNat, b.toNat] [(0, a.toNat, 4), (1, b.toNat, 4)] [a.toNat, b.toNat] x → wFmt m = 2 →
    exec (.mscale e d a b) s = .next ((s.queued x (.mscale m
      ((List.range (wRows m)).map fun i => BitVec.ofNat 32 (elem 32 (x.getV a.toNat).bits i))
      ((List.range (wCols m)).map fun j => BitVec.ofNat 32 (elem 32 (x.getV b.toNat).bits j)))).past c e x)) ∧
  (∀ (s : State) (c x : Ctx) (e : List Ext) (m : BitVec 4) (a b : BitVec 3) (v : BitVec 5) (ck : BitVec 1), Runs s c e [] [v.toNat] →
    (s.core c.start).mq.length < 16 →
    let md := c.getM m.toNat
    let oa := c.getO a.toNat
    let ob := c.getO b.toNat
    let int := fun f : Nat => f = 6 ∨ f = 8
    c.sources [v.toNat] [(2, v.toNat, tagsI32)] [v.toNat] x →
    (int (odFmt oa) ∧ int (odFmt ob) ∧ odScv oa = false ∧ odScv ob = false ∧ wFmt md = 1 ∨
      odFmt oa ∈ [3, 4, 5] ∧ odFmt ob = odFmt oa ∧ wFmt md = 2) →
    (∀ i, i < wRows md → let n := elemInt (x.getV v.toNat).tag (elem 32 (x.getV v.toNat).bits i); 0 ≤ n ∧ n < odRows oa) →
    wCols md ≤ odRows ob →
    exec (.mma e m a b v ck) s =
      .next ((s.queued x (.mma md oa ob ((List.range (wRows md)).map (elem 32 (x.getV v.toNat).bits)) (ck == 1))).past c e x))

/-! ## Ordering (R209 to R213, R278 to R280) -/

/-- R209 to R213, R279. `fence` and `qfence` complete when what they wait for is done, and their context acquires at the scope; `fence.pod`
with a register returns and clears the peer bitmap; `rbind` adds to the context's bindings; `icinv` empties the instruction caches in its
scope. `rel` completes once its context's accesses are performed, the bound lines and its own stores have been written back as the
scope asks and it has acquired at the scope, with the addition of 1 to its object accepted, which it awaits; `acq` completes when it has read
its object at S, with the home caches' copies of the bound lines dropped from scope `.chip` on, and at `.pod` carried to their owners. The
model's own choices among these: that an instruction is held until everything it waits for has happened and then does all it does in one step
(log 16, DEDUCED from R209 to R213), that `icinv` at `.pod` empties this package's caches only (log 29, DESIGN CHOICE), and that a bound region is
translated as a read (log 59, DEDUCED). -/
def Obligations.Fences : Prop :=
  (∀ (s u : State) (c : Ctx) (e : List Ext) (d a b : BitVec 5) (sc : BitVec 3) (q : BitVec 5),
     let n := sc.toNat
     (Runs s c e [] [] → s.releases c n u →
       exec (.fence e d 0 sc) s = .next ((u.acquiring n).past c e (c.acquired n (u.stamp + 1)))) ∧
     (∀ y, Runs s c e [] [d.toNat] → d.toNat < footLimit c.foot → s.releases c n u →
       let v := u.acquiring n
       v.takesResult (c.acquired n (u.stamp + 1)) d.toNat ⟨BitVec.ofNat 2048 (setBits v.fab.peers 0 512), 7⟩ y →
       exec (.fence e d 1 sc) s = .next (({ v with fab := { v.fab with peers := [] } } : State).past c e y)) ∧
     (Runs s c e [] [] → s.joined c.start q.toNat (c.place.getD s.stamp) = true → s.mustFollow c.uid = false →
       u = (if n = 6 then s.writeBackPeers else s) → (n = 6 → u.peersClean = true) →
       exec (.qfence e q sc) s =
         .next ((u.acquiring n).past c e (({ c with place := some (c.place.getD s.stamp) } : Ctx).acquired n (u.stamp + 1)))) ∧
     (∀ l, Runs s c e [d.toNat, a.toNat, b.toNat] [] → (c.rs a).toNat % 8 = 0 → (c.rs b).toNat % 128 = 0 → (c.rs d).toNat % 128 = 0 →
       (c.rs d).toNat ≤ 2 ^ 32 → bindRegion c.binds (c.rs a).toNat (c.rs b).toNat (c.rs d).toNat = some l →
       exec (.rbind e d a b) s = .next (s.past c e { c with binds := l })) ∧
     (Runs s c e [] [] → exec (.icinv e sc) s = .next (({ s with
       cores := s.cores.map fun p => (p.1, if inScope n c.cur p.1 then { p.2 with icache := [] } else p.2) } : State).past c e c))) ∧
  (∀ (s u v w : State) (c : Ctx) (e : List Ext) (a : BitVec 5) (sc : BitVec 3) (pa : Nat) (pas : List Nat), Runs s c e [a.toNat] [] →
     let o := (c.rs a).toNat
     let l := pas.zip ((c.boundPieces o).map Prod.snd)
     let n := sc.toNat
     o % 8 = 0 → s.xlatePieces c (c.boundPieces o) = (u, .all pas) →
     (c.heavy = false → s.translateAll c .atomic [o] = .all [pa] → paSpace pa ≠ 3 → u.quiet c = true →
       v = (let v := if 3 ≤ n then u.eachBound l fun s h x => s.writeBack h x else u
            if n = 6 then v.recallBound l c.tenant else v) →
       v.releases c n w →
       let x := w.acquiring n
       let r := x.accept (c.acquired n (w.stamp + 1)) (.amo 0) [⟨pa, o, 8, 1, 0⟩] ⟨0, 0, 0⟩ .none false
       exec (.rel e a sc) s = .next (r.1.past c e { r.2 with pend := some x.stamp })) ∧
     (s.translateAll c .read [o] = .all [pa] → u.mustFollow c.uid = false → u.mustWait c.uid pa = false →
       (u.isPeer pa = true → if n = 6 then ∃ t, c.place = some t ∧ u.lineHere pa t = true else u.lineHere pa c.acqPod = true) →
       (paSpace pa ≠ 3 ∧ (∃ x, (if paSpace pa < 2 then u.flushLine (u.home pa) (pa / 128) else u).sRead pa 8 = (v, x, false)) ∨
         paSpace pa = 3 ∧ v = u) →
       w = (let w := if 3 ≤ n then v.eachBound l fun s h x => s.flushLine h x else v
            if n = 6 then w.peerLines.foldl (fun s p => if inPieces l p.line then s.sendWriteBack p else s) w else w) →
       (n = 6 → ∀ p ∈ w.peerLines, inPieces l p.line = true → p.dirty = 0 ∧ w.writeBackUnderWay (some p.line) = false) →
       exec (.acq e a sc) s = .next ((w.acquiring n).past c e (c.acquired n (w.stamp + 1)))))

/-! ## Full/empty granules and barriers (R214 to R224) -/

/-- R214. `feset` and `feclr` make the granule full and empty; `fewait` yields, and waits while the granule is empty. -/
def Obligations.GranuleForms : Prop :=
  ∀ (s : State) (c : Ctx) (e : List Ext) (a : BitVec 5),
    let g := (c.rs a).toNat / 16
    (c.rs a).toNat < 0x80000 → c.mayTouch (16 * g) 16 → s.acquirePending c.uid = false →
    (Runs s c e [a.toNat] [] → s.matrixReads c.start [(16 * g, 16)] = false →
      exec (.feset e a) s = .next ((s.setGranules c.start [g] true).pastBank c e c) ∧
      exec (.feclr e a) s = .next ((s.setGranules c.start [g] false).pastBank c e c)) ∧
    (Yields s c [a.toNat] → ∃ t, exec (.fewait e a) s = .next t ∧
      ((s.core c.start).full.contains g = true → t.yieldsTo c c e 4096) ∧
      ((s.core c.start).full.contains g = false → t.parksFor c e (.fewait g)))

/-- R218 to R223. The barrier forms on a word of the own core complete: `binit` sets or retires it, on a word that is no barrier yet or that no
obligation names, `benrol` records an obligation, `barrive` arrives once released and discharges the obligation, `bexpect` raises the
balance, `btest` reads the word, and `bwait` yields, with the phase and `BROKEN` in its register when its phase is over, and else waits
for it. The model's own choices among these: the trap of a broken barrier is taken when the context next issues (log 8), and an arrival
discharges every slot that names the word (log 60). -/
def Obligations.BarrierForms : Prop :=
  ∀ (s u : State) (c : Ctx) (e : List Ext) (d a b : BitVec 5) (sc : BitVec 3) (n : BitVec 2),
    let x := (c.rs a).toNat
    let v := (c.rs b).toNat
    let p := sc.toNat
    let w := s.barWord c.start x
    (RunsLocal s c e [a.toNat, b.toNat] [] → c.mayTouch x 8 → x % 8 = 0 → x ≤ 0x7FFF8 → (s.core c.start).guarded c.uid x 8 = false →
      ((s.core c.start).tags.find (x / 8) = none ∨ s.obliged c.start x = false) → v / 2 ^ 16 % 2 ^ 47 = 0 → s.matrixReads c.start [(x, 8)] = false →
      (v < 2 ^ 63 → exec (.binit e a b) s = .next ((s.initBarrier c.start x c.launch (v % 2 ^ 16)).pastBank c e c)) ∧
      (2 ^ 63 ≤ v → ((s.core c.start).tags.find (x / 8)).isSome = true →
        exec (.binit e a b) s = .next ((s.modCore c.start fun k => k.retireBarrier x).pastBank c e c))) ∧
    (s.atBarrier c x →
      (Runs s c e [a.toNat] [] → exec (.benrol e a n) s = .next (s.pastBank c e { c with obls := c.obls.setIfInBounds n.toNat (some x) })) ∧
      (Runs s c e [a.toNat, b.toNat] [] → s.releases c p u → (b = 0 ∨ v = c.start ∧ validCid v = true ∧ v < 4096) →
        exec (.barrive e a b sc) s =
          .next ((u.barWrite c.start x (barArrive (u.barWord c.start x) false)).pastBank c e (c.discharge x))) ∧
      (RunsLocal s c e [a.toNat, b.toNat] [] →
        (v = 0 → exec (.bexpect e a b) s = .next (s.pastBank c e c)) ∧
        (v ≠ 0 → barPend w + v ≤ 2 ^ 24 - 1 →
          exec (.bexpect e a b) s = .next ((s.barWrite c.start x (barFlip (barSetPend w (barPend w + v)))).pastBank c e c)) ∧
        (2 ^ 24 - 1 < barPend w + v → v ≠ 0 → exec (.bexpect e a b) s =
          .next ((s.barWrite c.start x (putBits w 1 2 3)).programFault c 0x0D 0 c.pc ((wordOf (.bexpect e a b)).zeroExtend 64)))) ∧
      (Runs s c e [d.toNat, a.toNat] [] → s.mustFollow c.uid = false →
        exec (.btest e d a sc) s = .next ((s.acquiring p).pastBank c e ((c.wr d (BitVec.ofNat 64 w)).acquired p (s.stamp + 1)))) ∧
      (Yields s c [d.toNat, a.toNat] → s.mustFollow c.uid = false → ∃ t, exec (.bwait e d a sc) s = .next t ∧
        (barMet w ((c.rs d).getLsbD 0) = true → w / 2 % 2 = 0 →
          t.yieldsTo c ((c.wr d (BitVec.ofNat 64 (w % 4))).acquired p (s.stamp + 1)) e 4096) ∧
        (w / 2 % 2 = 1 → t.yieldsTo c
          { (c.wr d (BitVec.ofNat 64 (w % 4))).acquired p (s.stamp + 1) with due := some (.broken (BitVec.ofNat 64 x)) } e 4096) ∧
        (barMet w ((c.rs d).getLsbD 0) = false → t.parksFor c e (.barrier x ((c.rs d).getLsbD 0) d.toNat p))))

/-- R215, R216, R220. The steps on a barrier word of fields `PHASE` `ph`, `BROKEN` `br`, `COUNT` `n`, `TARGET` `tg` and `PEND` `pd` that is
not poisoned: an arrival with none due sets `BROKEN` only; an arrival that leaves others due, or bytes, counts; and the last one, with
no bytes due, flips the phase and reloads the count. -/
def Obligations.BarrierFlip : Prop :=
  ∀ (ph br n tg pd : Nat), ph < 2 → br < 2 → n < 2 ^ 16 → tg < 2 ^ 16 → pd < 2 ^ 25 →
    let word := fun (ph br n : Nat) => ph + br * 2 + n * 2 ^ 3 + tg * 2 ^ 19 + pd * 2 ^ 35
    barArrive (word ph br n) false =
      if n = 0 then word ph 1 0 else if n = 1 ∧ pd = 0 then word (1 - ph) br tg else word ph br (n - 1)

/-! ## Copies (R225 to R234) -/

/-- R227, R230, R234, R295. `cpy` and `cpyx` of two legal records complete with the copy in the copy unit, and count the reading of both records in
the migration predictor; `cpwait` yields with the address of the
context's oldest completion record, whose slot is freed, or 0 when it has neither record nor copy, and waits otherwise. -/
def Obligations.CopyForms : Prop :=
  (∀ (s u v : State) (c : Ctx) (e : List Ext) (d a b : BitVec 5) (db sb : List Byte) (f g : Ctx → Ctx), Runs s c e [d.toNat, a.toNat, b.toNat] [] →
    let da := (c.rs a).toNat
    let sa := (c.rs b).toNat
    let ctl := (c.rs d).toNat
    s.inFlight c.start < 128 → s.unreached c = false → da % 64 = 0 → sa % 64 = 0 → s.readsRecord c da 64 u f db →
    u.readsRecord c sa 64 v g sb → rejectShape sb sa = none → rejectShape db da = none →
    ∀ p ∈ ([(.cpy e d a b, false), (.cpyx e d a b, true)] : List (Instr × Bool)),
      (c.heavy = true → (shapeOf db).space ≠ 1 ∧ ((shapeOf db).space = 0 → (shapeOf db).leavesLease c = false) ∧ p.2 = false) →
      v.copyFault c ctl p.2 da (shapeOf db) (shapeOf sb) = none →
      exec p.1 s =
        .next (({ v with copies := v.copies ++ [v.newCopy c ctl p.2 (shapeOf db) (shapeOf sb)] } : State).tickStamp.past c e (g (f c)))) ∧
  (∀ (s : State) (c : Ctx) (e : List Ext) (d : BitVec 5), Yields s c [d.toNat] → s.mustFollow c.uid = false →
    ∃ t, exec (.cpwait e d) s = .next t ∧
      (∀ r, (s.core c.start).recs.find? (fun r => r.uid == c.uid) = some r → r.n < 256 →
        t.yieldsTo c ((c.wr d (BitVec.ofNat 64 (0x7E000 + 32 * r.n))).acquired 5 (s.stamp + 1)) e 4096 ∧
        (t.core c.start).recs = removeFirst (fun x => x.uid == c.uid) (s.core c.start).recs) ∧
      ((∀ r ∈ (s.core c.start).recs, r.uid ≠ c.uid) →
        ((∀ x ∈ s.copies, x.uid = c.uid → x.orphan = true) → t.yieldsTo c (c.wr d 0) e 4096) ∧
        ((∃ x ∈ s.copies, x.uid = c.uid ∧ x.orphan = false) → t.parksFor c e (.copyRec d.toNat))))

/-! ## Nodes (R237 to R252) -/

/-- R240 to R250, R252. The node instructions complete: `nalloc` with the oldest node of its start core's cache in its register and a fresh
node on its way to memory, the cache asking for more once 16 or fewer are left; `nfree`, `nst`, `plink`, `pget` and `ppush` accepted, when
the node, port and flag checks pass. `plink` translates its references as a read (R243); that `nalloc`, `nfree` and `ppush` translate as a
write is log 85, that the oldest node is taken log 84. Without a node of the net `nalloc` parks until some come, and the copy unit is asked for them.
`rtset` of a table whose entries are at hand and good completes with the table, the default lease and the trap handler of the launch's
net; a count of 0 removes the table. -/
def Obligations.NodeForms : Prop :=
  (∀ (s : State) (c : Ctx) (e : List Ext) (d a b : BitVec 5) (n : BitVec 3) (x y : Nat), Runs s c e [d.toNat, a.toNat, b.toNat] [] →
     let p := (c.rs a).toNat
     let q := (c.rs b).toNat
     let v := (c.rs d).toNat
     let o : MemOrd := ⟨0, 0, 0⟩
     (∀ l va, c.heavy = false → hdrOk p = true → (s.core c.start).freeNodes = some (c.net, va :: l) → s.translateAll c .write [va] = .all [x] →
       let k := s.core c.start
       let u : State := s.setCore c.start { k with
         freeNodes := some (c.net, l), refill := if l.length ≤ 16 ∧ c.net ∉ k.refill then k.refill ++ [c.net] else k.refill }
       let w : State := match u.nets.find c.net with
         | some n => { u with nets := u.nets.put c.net { n with held := n.held.put va c.launch } }
         | none => u
       exec (.nalloc e d a) s =
         .next (w.accepted (c.wr d (BitVec.ofNat 64 va)) e
           (.node [p % 2 ^ 18 + c.net % 2 ^ 12 * 2 ^ 24, 0, 0, 0, 0, 0, 0, 0]) [⟨x, va, 8, 0, 0⟩] o .none false)) ∧
     (c.heavy = false → hdrOk p = true → ((s.core c.start).freeNodes = none ∨ (∃ n l, (s.core c.start).freeNodes = some (n, l) ∧ (n ≠ c.net ∨ l = []))) →
       ∃ t y, exec (.nalloc e d a) s = .next t ∧ t.ctx c.key = some y ∧ y.st = .parked ∧ y.wait = some (.node c.net) ∧ y.pc = c.pc ∧ y.s = c.s ∧
         c.net ∈ (t.core c.start).refill) ∧
     (c.heavy = false → p % 64 = 0 → s.translateAll c .write [p] = .all [x] → s.nodeReady c x → hdrClaimed (s.headerOf x) = false →
       exec (.nfree e a) s = .next (s.accepted c e .nfree [⟨x, p, 8, 0, 0⟩] o .none false) ∧
       (n = 0 ∧ hdrOk v = true ∨ 4 < n.toNat →
         exec (.nst e d a n) s = .next (s.accepted c e (.nst n.toNat) [⟨x + 8 * n.toNat, p + 8 * n.toNat, 8, v, 0⟩] o .none false))) ∧
     (c.heavy = false → p ≠ q → s.translateAll c .read [p, q] = .all [x, y] → s.nodeReady c x → s.nodeReady c y → s.namesPort p x →
       s.namesPort q y → (∀ z ∈ [x, y], portState (s.nodeWord z) ≠ 2 ∧ portState (s.nodeWord z) ≠ 3 ∧ hdrClaimed (s.headerOf z) = false) →
       exec (.plink e d a b) s = .next (s.accepted c e (.plink q y) [⟨x, p, 8, 0, 0⟩] o (.sreg d.toNat) false)) ∧
     (s.translateAll c .read [p] = .all [x] → s.nodeReady c x → s.namesPort p x →
       exec (.pget e d a) s = .next (s.accepted c e .pget [⟨x, p, 8, 0, 0⟩] o (.sreg d.toNat) false)) ∧
     (c.heavy = false → p % 64 = 0 → q % 64 = 0 → s.translateAll c .write [p, q] = .all [x, y] →
       exec (.ppush e a b) s = .next (s.accepted c e (.ppush q y) [⟨x, p, 8, 0, 0⟩] o .none false))) ∧
  (∀ (s u : State) (c : Ctx) (e : List Ext) (d a b : BitVec 5) (pas : List Nat) (l : List (List Byte)) (t : List Rule),
     Runs s c e [d.toNat, a.toNat, b.toNat] [] →
     let sa := (c.rs a).toNat
     let sb := (c.rs b).toNat
     let sd := (c.rs d).toNat
     let vas := (List.range (sb % 2 ^ 17)).map fun i => sa + 16 * i
     let lease := sb / 2 ^ 32 % 2 ^ 12
     let pa := fun va => (((pagesOf vas).zip pas).find? fun p => p.1 / 65536 == va / 65536).map fun p => p.2 - p.1 % 65536 + va % 65536
     c.heavy = false → rtsetReserved sb sd = false → sa % 16 = 0 → sd % 4 = 0 → s.translateAll c .read (pagesOf vas) = .all pas →
     (∀ x ∈ s.accs, x.uid = c.uid → x.answer.isSome = true) →
     (∀ va ∈ vas, ∃ z, pa va = some z ∧ s.lineHere z c.acqPod = true) →
     s.readEntries c (vas.map fun va => (va, (pa va).getD 0)) = (u, l, none) → checkRules lease l [] = .ok t →
     exec (.rtset e d a b) s =
       .next ((u.modNet c.net fun n => { n with table := if t = [] then none else some t, xhand := sd, defLease := lease }).past c e
         ((vas.map fun va => (pa va).getD 0 / 128).dedup.foldl (fun y line => u.predictRead y (128 * line)) c)))

/-! ## Tasks (R255 to R263) -/

/-- R35, R36, R255 to R260. `yield` goes on behind itself with the limit it names (4096 for 0); `tend` ends its context, once its matrix
commands and pushed strips are done; `chsend` sends the 32 bytes at its address and `hspawn` starts a firing, both as releases. A `commit`
whose descriptor is good ends its context, once it is released and its matrix commands and strips are done, with its commit at the weir
and its lease still held; both wait while those are not done. The commit carries the work counted before its own word (R329, R398; log 91).
That an instruction is held until everything it waits for has happened and then does all it does in one step is log 16, that a release and a
message wait for every earlier access of their context to be performed log 73, that a poisoned word of the 32 bytes is sent and read as data,
without its mark, log 62, and that a migrated context awaits its bank's answer log 94: the model's choices, on which these clauses rest. -/
def Obligations.TaskForms : Prop :=
  (∀ (s u : State) (c : Ctx) (e : List Ext) (d a b : BitVec 5) (n : BitVec 12),
     let v := (c.rs a).toNat
     let x := (c.rs b).toNat
     let ctl := (c.rs d).toNat
     let bytes := (u.core c.start).lm.readBytes x 32
     let cid := v / 2 ^ 4 % 2 ^ 12
     let pkg := v / 2 ^ 16 % 2 ^ 9
     let far := if v / 2 ^ 25 % 2 = 1 ∧ pkg ≠ s.pkg then some pkg else none
     (Yields s c [] → ∃ t, exec (.yield e n) s = .next t ∧ t.yieldsTo c c e (if n = 0 then 4096 else n.toNat)) ∧
     (Yields s c [] → s.Keyed → s.working c = false → ∃ t, exec (.tend e) s = .next t ∧ t.ctx c.key = none ∧
       t = (((s.modTenant c.tenant fun t => t.addWork s.time (e.length + 1) c.backup).endCtx c endTend).copyEnded c).tickStamp) ∧
     (Yields s c [] → s.working c = true → exec (.tend e) s = .next (s.holds c)) ∧
     (Runs s c e [a.toNat, b.toNat] [] → c.heavy = false → v % 16 ≠ 15 → v / 2 ^ 26 % 2 ^ 38 = 0 → validCid cid = true → x % 16 = 0 →
       x ≤ 0x7FFE0 → (far = none → ∃ k, s.channel (v % 16) = some (c.net, k) ∧ (k.sup = true → c.sup = true)) →
       s.releases c (if far = none then 5 else 6) u → exec (.chsend e a b) s = .next ((u.sendMsg c cid (v % 16) far bytes).pastBank c e c)) ∧
     (Runs s c e [d.toNat, a.toNat, b.toNat] [] → c.heavy = false → ctl / 2 ^ 6 % 4 ≠ 3 → ctl / 2 ^ 10 % 2 ^ 6 = 0 → ctl / 2 ^ 28 % 2 ^ 36 = 0 →
       1 ≤ ctl / 2 ^ 16 % 2 ^ 12 → ctl / 2 ^ 16 % 2 ^ 12 ≤ 2016 → v % 4 = 0 → x % 16 = 0 → x ≤ 0x7FFE0 → s.releases c 5 u →
       exec (.hspawn e d a b) s = .next ((u.spawn c v ctl (fourWords bytes)).pastBank c e c))) ∧
  (∀ (s u : State) (c : Ctx) (e : List Ext) (d a b : BitVec 5), Yields s c [d.toNat, a.toNat, b.toNat] →
     let x := (c.rs d).toNat
     let v := (c.rs a).toNat
     let w := (c.rs b).toNat
     let dd := descrOf ((s.core c.start).lm.readBytes x 64)
     c.heavy = true → c.owns x 64 = true → x % 64 = 0 → x ≤ 0x7FFC0 → (s.core c.start).poisoned x 64 = false →
     commitOk v w dd (s.pairArity c) = true → c.owns dd.rbase dd.rlen = true →
     (s.working c = true → exec (.commit e d a b) s = .next (s.holds c)) ∧
     (s.working c = false → s.Keyed → s.releases c 5 u →
       let sent : State := ({ u with commits := u.commits ++ [u.newCommit c v w dd] } : State).tickStamp
       let counted := match c.firing with
         | some f => sent.modFiring f fun y => { y with commits := y.commits + 1 }
         | none => sent
       (u.newCommit c v w dd).tile = v ∧ (u.newCommit c v w dd).base = w ∧ (u.newCommit c v w dd).work = c.rwc ∧
       ∃ t, exec (.commit e d a b) s = .next t ∧ t.ctx c.key = none ∧ t = counted.endCtx c endCommit))

/-- R261 to R263, R265 to R267. The forms that ask another unit complete with their request accepted; `tstamp` gives the reference time in
nanoseconds, `dscr` a discovery word (0 from 256 on), and `pwrel` gives power back. -/
def Obligations.RequestForms : Prop :=
  ∀ (s : State) (c : Ctx) (e : List Ext) (d a b : BitVec 5), Runs s c e [d.toNat, a.toNat, b.toNat] [] →
    let v := (c.rs a).toNat
    let x := (c.rs b).toNat
    let k := s.core c.start
    let base := v % 2 ^ 19
    let size := v / 2 ^ 20 % 2 ^ 17
    let zero := decide (2 ^ 63 ≤ v)
    (c.heavy = false → base % 16 = 0 → 16 ≤ size → size ≤ 65536 → size % 16 = 0 → (zero = true → base = 0) → v / 2 ^ 19 % 2 = 0 →
      v / 2 ^ 37 % 2 ^ 26 = 0 → base + size ≤ 0x80000 → s.acquirePending c.uid = false →
      exec (.tnew e d a) s = .next (s.requested c e (.tnew size (if zero then [] else k.lm.readBytes base size)
        (if zero then [] else ((wordsTouched base size).filter k.lpoison.contains).map fun w => w - base / 8)) d)) ∧
    exec (.tver e d a) s = .next (s.requested c e (.tver v) d) ∧
    (1 ≤ v → v ≤ 255 → exec (.pwreq e d a) s =
      .next (({ s with powerReqs := s.powerReqs ++ [⟨c.launch, clusterOf c.start, some s.stamp⟩] } : State).requested c e (.pwreq v) d)) ∧
    (c.mayTouch (x / 16 * 16) 16 → x % 16 = 0 → x + 16 ≤ 0x80000 → v / 2 ^ 6 % 2 ^ 26 = 0 → v / 2 ^ 4 % 4 ≠ 3 →
      let r : WorkReq := { id := s.stamp, uid := c.uid, heavy := c.heavy, launch := c.launch, cid := c.start, counter := v % 16,
                           op := v / 2 ^ 4 % 4, arg := v / 2 ^ 32 % 2 ^ 32, low := v % 64, addr := x }
      exec (.workq e a b) s = .next (({ s with workReqs := s.workReqs ++ [r] } : State).tickStamp.past c e c)) ∧
    ∀ p ∈ ([(.tstamp e d, c.wr d (BitVec.ofNat 64 (s.time / 3))),
        (.dscr e d a, c.wr d (BitVec.ofNat 64 (if v < 256 then s.discovery v else 0))),
        (.pwrel e a, { c with reserved := c.reserved - v })] : List (Instr × Ctx)),
      exec p.1 s = .next (s.past c e p.2)

/-! ## Traps and faults (R40 to R45, R81, R264) -/

/-- R42, R43, R81, R264. A `trap` outside a handler, in a task that has one, retires and enters it: the address behind the group, the cause
with class 2 and the number as its detail, and `sa` are saved, the level is kept for `PSUP`, and nothing else of the context changes
but the pc and what retirement changes; `eret` in a handler goes on at the saved address and leaves the handler. A trap without a handler
and one inside a handler (`DBLTRAP`, with the first cause as detail) are program faults, and so are `eret` outside a handler and a word
with an unassigned major opcode (`ILLEGAL`, DETAIL 5 and 1). -/
def Obligations.TrapForms : Prop :=
  (∀ (s : State) (c : Ctx) (e : List Ext) (a n : BitVec 5), Runs s c e [a.toNat] [] →
     (c.intrap = false → c.xhand ≠ 0 → ∃ t, exec (.trap e a n) s = .next t ∧ t.ctx c.key = some
       { c with pc := c.xhand.setWidth 57, xpc := BitVec.ofNat 64 ((c.pc.toNat + 4 * (e.length + 1)) % 2 ^ 57),
                xcause := BitVec.ofNat 64 (0x19 + 2 * 2 ^ 8 + n.toNat * 2 ^ 16), xval := c.rs a, psup := c.sup, intrap := true,
                rwc := c.rwc + (e.length + 1), used := c.used + (e.length + 1), held := false, place := none, woken := [],
                issuedAt := s.stamp }) ∧
     (c.intrap = true → exec (.eret e) s = .next (s.jumped e { c with intrap := false } (c.xpc.setWidth 57)))) ∧
  (∀ (s : State) (c : Ctx) (e : List Ext) (a n : BitVec 5) (w : BitVec 32), Runs s c e [a.toNat] [] →
     (∀ y, (s.past c e c).ctx c.key = some y →
       (c.intrap = true → exec (.trap e a n) s = .next ((s.past c e c).programFault y 0x12 0x19 c.pc (c.rs a))) ∧
       (c.intrap = false → c.xhand = 0 → exec (.trap e a n) s = .next ((s.past c e c).programFault y 0x19 n.toNat c.pc (c.rs a)))) ∧
     (c.intrap = false → exec (.eret e) s = .next (s.programFault c 0x01 5 c.pc ((wordOf (.eret e)).zeroExtend 64))) ∧
     exec (.unassignedMajorOpcode e w) s = .next (s.programFault c 0x01 1 c.pc (w.zeroExtend 64)))

/-- R43. A program fault of a task that is no heavy copy ends its context and, when its launch runs, the launch, with the record of the
cause, the address and the value; every other task of the launch is to be killed. Other launches and global memory are as before. -/
def Obligations.FaultEndsLaunch : Prop :=
  ∀ (s : State) (c : Ctx) (code detail : Nat) (xpc : BitVec 57) (xval : BitVec 64) (x : Launch), s.Keyed → c.firing = none →
    s.launches.find c.launch = some x → x.phase = .live →
    let t := s.programFault c code detail xpc xval
    t.ctx c.key = none ∧
    t.launches.find c.launch = some { x with phase := .ending, fault := some ⟨1, code, detail, xpc.toNat, xval.toNat, s.gid c.start⟩ } ∧
    (∀ p ∈ t.ctxs, p.2.launch = c.launch → p.2.uid ∈ t.kills) ∧ (∀ l, l ≠ c.launch → t.launches.find l = s.launches.find l) ∧
    t.mem = s.mem

/-! ## Translation (R301 to R304) -/

/-- R302 to R305. What translation lets through lies below 2^57 and is permitted: the device registers only at supervisor level, without
translation the address itself, and with it an entry of the context's own process for the page, writable for writes and atomics, executable
for fetches, and not a supervisor page below supervisor level; and what is permitted is let through. A walk reads the process table entry of the
tenant and then one table per level down to level `z`. A good leaf there, at level 0, 1 or 2, is cached with its permissions, when all tables lie
in this package's memory and it completes the translation of something that waits; an entry that is not present, a malformed one, a
table elsewhere and a leaf that lets nothing through fail what waits, and are cached nowhere. A context whose page is only absent (`MAP` 1)
parks on it behind a page request, and else faults `XLATE` with the address, or `WATCHDOG` where that comes first. A page request that waits
already is not repeated; one that finds the queue full sets `PRQFULL`, any other is written at the tail; both signal vector 16. The model's own
choices among these: that the head and the tail count records modulo 2^20 is log 69; how many words a group counts whose words cannot all be
fetched is log 58 (a word that cannot be fetched counts as one), and that the record of its `WATCHDOG` then shows 0 is log 80. -/
def Obligations.Translation : Prop :=
  (∀ (s : State) (c : Ctx) (va pa : Nat) (k : XKind), s.translate c va k = .at pa →
     va < 2 ^ 57 ∧ (paSpace pa = 3 → c.sup = true) ∧ (s.cfg.ptEn = false → pa = canonPa va) ∧
     (s.cfg.ptEn = true → ∃ x ∈ (s.layer (layerOf c.cur)).stations.getD (stationOf c.cur) [],
       x.pid = s.pidOf c ∧ x.vpage = va / 2 ^ x.pbits ∧ pa = canonPa (x.ppage * 2 ^ x.pbits + va % 2 ^ x.pbits) ∧
       (k = .write ∨ k = .atomic → x.w = true) ∧ (k = .fetch → x.x = true) ∧ (x.sup = true → c.sup = true))) ∧
  (∀ (s : State) (c : Ctx) (va : Nat) (k : XKind), va < 2 ^ 57 →
     (s.cfg.ptEn = false → va < 2 ^ 56 → s.nonexistent va = false → s.reservedArea va = false → (paSpace va = 3 → c.sup = true) →
       s.translate c va k = .at (canonPa va)) ∧
     (∀ x, s.cfg.ptEn = true → (s.layer (layerOf c.cur)).entryFor (stationOf c.cur) (s.pidOf c) va = some x →
       let pa := x.ppage * 2 ^ x.pbits + va % 2 ^ x.pbits
       s.nonexistent pa = false → s.reservedArea pa = false → (k = .write ∨ k = .atomic → x.w = true) → (k = .fetch → x.x = true) →
       (x.sup = true → c.sup = true) → (paSpace pa = 3 → x.sup = true) → s.translate c va k = .at (canonPa pa))) ∧
  (∀ (s : State) (v : Nat → State) (w : Walk) (e z : Nat) (p t : Nat → Nat),
     s.walks.find? (fun x => x.id == s.item) = some w → s.walks.length ≤ 256 → z < 5 → w.tenant < 256 → e < 2 ^ 128 →
     let va := w.vpage * 65536
     let index := fun (l : Nat) => if l = 0 then va / 2 ^ 16 % 32 else va / 2 ^ (12 + 9 * l) % 512
     let rest := fun (u : State) => ({ u with walks := u.walks.filter fun x => x.id != w.id } : State)
     let fails := fun (u : State) absent => exec .translationWalk s =
       .next (w.waiters.foldl (fun u y => u.failWaiter absent y) ((rest u).failEngines w.engines absent))
     let good := e % 2 = 1 ∧ e / 2 % 2 ^ 11 = 0 ∧ e / 2 ^ 56 % 2 ^ 8 = 0 ∧ e / 2 ^ 64 = w.tenant
     let own := fun a => paSpace a < 2 ∧ s.isPeer a = false
     s.tableRead (s.cfg.ptBase + 16 * w.pid) 16 = (v 5, .data e) →
     (¬ good → fails (v 5) false) ∧
     (good → t 4 = e / 2 ^ 12 % 2 ^ 44 * 2 ^ 12 →
       (∀ l, z ≤ l → l < 5 → (v (l + 1)).tableRead (t l + 8 * index l) 8 = (v l, .data (p l)) ∧ p l < 2 ^ 64) →
       (∀ l, z < l → l < 5 → p l % 2 = 1 ∧ p l / 2 % 2 = 0 ∧ p l / 2 ^ 6 % 4 = 0 ∧ p l < 2 ^ 56 ∧ (1 < l → p l / 2 ^ 8 % 2 ^ 4 = 0) ∧
         t (l - 1) = p l / 2 ^ 8 * 2 ^ 8) →
       let q := p z
       let n := if z = 0 then 16 else 12 + 9 * z
       let leaf : XEntry := ⟨w.pid, n, va / 2 ^ n, q / 2 ^ n, q / 2 ^ 2 % 2 == 1, q / 2 ^ 3 % 2 == 1, q / 2 ^ 4 % 2 == 1⟩
       let formed := q / 2 ^ 6 % 4 = 0 ∧ q < 2 ^ 56 ∧ (z = 0 → q / 2 % 2 = 1) ∧ (3 ≤ z → q / 2 % 2 = 0) ∧
         (if q / 2 % 2 = 1 then q % 2 ^ n / 256 = 0 else z = 1 ∨ q / 2 ^ 8 % 2 ^ 4 = 0)
       let served := (∃ y ∈ w.waiters, ((v z).useEntry leaf y.va y.kind y.sup).isSome = true) ∨
         ∃ a ∈ w.engines, ((v z).useEntry leaf (a.page * 65536) a.kind a.sup).isSome = true
       (q % 2 = 0 → fails (v z) (q / 2 ^ 5 % 2 == 1)) ∧
       (q % 2 = 1 → ¬ formed → fails (v z) false) ∧
       (q % 2 = 1 → formed → q / 2 % 2 = 1 →
         let ours := own (s.cfg.ptBase + 16 * w.pid) ∧ ∀ l, z ≤ l → l < 5 → own (t l + 8 * index l)
         (ours → served → exec .translationWalk s = .next ((rest (v z)).installEntry w.station leaf)) ∧
         (¬ (ours ∧ served) → fails (v z) false)))) ∧
  (∀ (s : State) (w : Waiter) (c : Ctx) (l : Launch), s.waiting w = some c → s.launches.find c.launch = some l →
     let kind := match w.kind with
       | .read => 0
       | .write => 1
       | .fetch => 2
       | .atomic => 3
     let u := s.pageRequest (l.pid % 2 ^ 16 + kind * 2 ^ 16 + l.seq % 2 ^ 32 * 2 ^ 32 + w.va % 2 ^ 57 * 2 ^ 64 +
       (s.pkg * 4096 + c.start) % 2 ^ 21 * 2 ^ 128)
     let t := s.failWaiter true w
     let g := s.groupAt c
     (∃ y, t.ctx c.key = some y ∧ y.st = .parked ∧ y.wait = some (.page l.pid w.va) ∧ y.pc = c.pc ∧ y.used = 0 ∧ y.limit = 4096 ∧ y.s = c.s ∧
       y.v = c.v) ∧ t.mem = u.mem ∧ t.cfg = u.cfg ∧ t.host = u.host ∧
     (c.used + g.1 ≤ c.limit → s.failWaiter false w = s.programFault c 0x0A 0 c.pc (BitVec.ofNat 64 w.va)) ∧
     (c.limit < c.used + g.1 → freeWord g.2 = false → s.failWaiter false w = s.setCtx { c with due := some (.watchdog g.2) })) ∧
  (∀ (s : State) (rec : Nat),
     let m := s.cfg
     let size := 2 ^ (min m.prqLog 12 + 7)
     let count := (m.prqTail + 2 ^ 20 - m.prqHead % 2 ^ 20) % 2 ^ 20
     let waits := ∃ i, i < min count size ∧ s.mem.readN (m.prqBase + 32 * ((m.prqHead + i) % size)) 32 = rec
     (waits → s.pageRequest rec = s) ∧
     (¬ waits → size ≤ count → s.pageRequest rec = if m.prqFull then s else ({ s with cfg := { m with prqFull := true } } : State).signal 16) ∧
     (¬ waits → count < size →
       let v := State.sWriteBytes 2 s (m.prqBase + 32 * (m.prqTail % size)) (bytesOf 32 rec)
       s.pageRequest rec = ({ v with cfg := { v.cfg with prqTail := (m.prqTail + 1) % 2 ^ 20 } } : State).signal 16))

/-! ## Contexts at their boundaries, starts (R27 to R36, R45, R257, R290, R296, R319 to R323) -/

/-- R22, R28, R30, R36, R45, R253, R254, R290, R296, R319, R323, R399. A group that would run out of the yield interval is not executed: its
context has the fault `WATCHDOG` due, which the next step takes (two steps are the model's choice, log 8); a parked or spilled wait of more
than `WAITLIM` cycles faults `WAITTIME` at the instruction that parked, and a shorter one does not; a kill takes the context out without a
fault record; a core without a current context takes one that has been ready longest, of several the one in the lowest slot; a marked context
at its yield point moves to its remembered home when R296 holds, and else loses only its mark; a filled context is ready on its start core. A
start takes the message chosen out of its queue and starts a task with the channel's handler, level and priority, the message's words in `s1`
to `s4` and every other register 0; when the core's last tenant was another, of which no task is left, the region below the pool is cleared
first. From the launch port a start takes the task of the greatest priority, with its values in `s1` to `s6` and, for a heavy one, its lease
(what `CHAN` shows there is log 42); from the bag it takes the oldest pair, finds its rule, and starts a task of the rule with the two nodes,
in the order of the rule's types, the word of R254 and the net in `s1` to `s4`. The model's own choices among these: which contexts count as
ready in the choice of a current one (`State.readyOn` passes over one whose access is not yet accepted, but not one that is held) is log 79;
that a woken context whose turn has not come is still in its wait is log 97; that a mark lapses for want of granules too is log 107; that a
fill places a migrated context on its start core is log 108; that a fill is admitted under the reserve, also that of a budgeted channel's
context, and what then counts as held is log 95. -/
def Obligations.ContextEvents : Prop :=
  (∀ (s : State) (c : Ctx), s.ctx s.item = some c →
    (∀ w, c.due = some (.watchdog w) → exec .watchdog s = .next (s.programFault { c with due := none } 0x10 0 c.pc (w.zeroExtend 64))) ∧
    (∀ (e : List Ext) (d a b : R5) (n : BitVec 15) (j : BitVec 25) (x : Instr), s.issuer = some c → c.limit < c.used + groupWords e →
      x ∈ [Instr.add e d a b, .sub e d a b, .mul e d a b, .and e d a b, .beq e a b n, .jal e j, .csrr e d 0x020, .trap e a b, .eret e] →
      blocks [d.toNat, a.toNat, b.toNat] [] s c = false → exec x s = .next (s.setCtx { c with due := some (.watchdog (wordOf x)) })) ∧
    (s.inWait c = true →
      exec .waittime s = if c.parkCycle + c.waitlim < s.cyclesOf c.start
        then .next (s.programFault c 0x11 0 c.parkPc (c.parkWord.zeroExtend 64)) else .refused (.notEnabled "WAITTIME")) ∧
    (c.migMark = true → c.st = .ready → c.used = 0 → ∃ t y, exec .migration s = .next t ∧ t.ctx c.key = some y ∧ y.migMark = false ∧
      y.pc = c.pc ∧ y.s = c.s ∧ y.v = c.v ∧ y.start = c.start ∧
      (∀ h, s.migrates c = true → c.predH = some h → y.cur = h ∧ y.migr = (h != c.start) ∧ y.predC = 0 ∧ y.predH = none) ∧
      (s.migrates c = false → y.cur = c.cur ∧ y.predC = c.predC ∧ y.predH = c.predH))) ∧
  (∀ (s : State) (c : Ctx), s.Keyed → s.kills.contains s.item = true → s.byUid s.item = some c → c.firing = none →
    ∃ t, exec .kill s = .next t ∧ t.ctx c.key = none ∧ t.launches = s.launches ∧ t.mem = s.mem ∧ c.uid ∉ t.kills) ∧
  (∀ s : State, (s.core s.item).current = none → s.readyOn s.item ≠ [] →
    ∃ c ∈ s.readyOn s.item, (∀ x ∈ s.readyOn s.item, c.readyAt < x.readyAt ∨ c.readyAt = x.readyAt ∧ c.slot ≤ x.slot) ∧
      exec .currentContextSelect s = .next (s.modCore s.item fun k => { k with current := some c.key })) ∧
  (∀ (s u : State) (c : Ctx) (key : Nat), s.unitFree s.item = true → s.selectStart s.item = some (.fill key) → s.ctx key = some c →
    s.fillRoom s.item c = some u →
    ∃ t, exec .fill s = .next t ∧ t.ctx c.key = some { c with st := .ready, cur := c.start, migr := false, readyAt := u.stamp }) ∧
  (∀ (s : State) (ch : Nat) (turn : Option Nat) (m : Msg) (l : List Msg) (a : ChanAttr), ch < 15 → s.Keyed → s.unitFree s.item = true →
     s.selectStart s.item = some (.source ch turn) → (s.core s.item).chans.getD ch [] = m :: l → s.attrOf ch = some a →
     (s.mustClear s.item m.tenant = false → s.running m.launch = true →
       s.granulesOk s.item (footGranules a.foot) (s.hasBudget ch) = true →
       ∃ t y, exec .startTask s = .next t ∧ t.ctx y.key = some y ∧ (t.core s.item).chans.getD ch [] = l ∧ s.ctx y.key = none ∧
         y.start = s.item ∧ y.cur = s.item ∧ y.st = .ready ∧ y.pc = BitVec.ofNat 57 a.handler ∧ y.sup = a.sup ∧ y.prio = a.prio ∧
         y.chan = ch ∧ y.launch = m.launch ∧ y.tenant = m.tenant ∧ y.foot = a.foot ∧ y.heavy = false ∧ y.limit = 4096 ∧ y.used = 0 ∧
         y.intrap = false ∧ y.rwc = 0 ∧ (∀ i, i < 4 → y.getS (i + 1) = ((fourWords m.bytes)[i]?).getD 0) ∧
         (∀ r, r = 0 ∨ 4 < r → y.getS r = 0) ∧ (∀ r, r < 32 → y.getV r = ⟨0, 0⟩)) ∧
     (s.mustClear s.item m.tenant = true → (s.core s.item).lm.wf = true →
       ∃ t, exec .startTask s = .next t ∧ (∀ k, (t.ctx k).isSome = (s.ctx k).isSome) ∧ (t.core s.item).chans = (s.core s.item).chans ∧
         (∀ x, x < 256 * (s.core s.item).poolBase → (t.core s.item).lm.read x = 0) ∧
         ∀ x, 256 * (s.core s.item).poolBase ≤ x → (t.core s.item).lm.read x = (s.core s.item).lm.read x)) ∧
  (∀ (s : State) (turn : Option Nat) (x : Task), s.Keyed → s.unitFree s.item = true → s.selectStart s.item = some (.source 16 turn) →
     (s.core s.item).portItem = some x → s.running x.launch = true → s.mustClear s.item x.tenant = false →
     s.granulesOk s.item (footGranules x.foot) false = true →
     x ∈ (s.core s.item).lport ∧ (∀ z ∈ (s.core s.item).lport, z.prio ≤ x.prio) ∧
     ∃ t y, exec .startTask s = .next t ∧ t.ctx y.key = some y ∧ s.ctx y.key = none ∧
       (t.core s.item).lport = (s.core s.item).lport.filter (fun z => z.id != x.id) ∧
       y.start = s.item ∧ y.cur = s.item ∧ y.st = .ready ∧ y.pc = BitVec.ofNat 57 x.handler ∧ y.sup = false ∧ y.prio = x.prio ∧
       y.launch = x.launch ∧ y.net = x.net ∧ y.tenant = x.tenant ∧ y.foot = x.foot ∧ y.heavy = x.heavy ∧ y.tclass = x.tclass ∧
       y.firing = x.firing ∧ y.backup = (x.kind == .backup) ∧ y.port = true ∧ y.limit = 4096 ∧ y.used = 0 ∧ y.rwc = 0 ∧
       (∀ i, i < 6 → y.getS (i + 1) = (x.vals[i]?).getD 0) ∧ (∀ r, r = 0 ∨ 6 < r → y.getS r = 0) ∧
       (x.heavy = true → y.leaseBase = ((s.core s.item).leaseAt x.lease).getD 0 ∧ y.leaseSize = x.lease ∧
         ⟨y.leaseBase, x.lease, y.uid, x.launch⟩ ∈ (t.core s.item).leases)) ∧
  (∀ (s u : State) (turn : Option Nat) (p : Pair) (rest : List Pair) (l : Launch) (f : Firable) (i : Nat) (r : Rule), s.Keyed →
     s.unitFree s.item = true → s.selectStart s.item = some (.source 15 turn) → (s.core s.item).bag = p :: rest →
     s.launches.find p.launch = some l → s.running p.launch = true → s.mustClear s.item l.tenant = false →
     s.granulesOk s.item (footGranules r.foot) (s.hasBudget 15) = true → f.rule = some (i, r) → s.firable p = some f →
     u = s.setCore s.item { s.core s.item with
       bag := rest, clearing := none, unitAt := s.cyclesOf s.item + 4, idleSince := none,
       rr := match turn with
         | some q => (s.core s.item).rr.setIfInBounds q 15
         | none => (s.core s.item).rr } →
     u.firable p = some f →
     let swap := hdrType (u.nodeWord f.lo) != r.typeA
     ∃ t y, exec .startTask s = .next t ∧ t.ctx y.key = some y ∧ s.ctx y.key = none ∧ (t.core s.item).bag = rest ∧
       y.start = s.item ∧ y.cur = s.item ∧ y.st = .ready ∧ y.pc = BitVec.ofNat 57 r.handler ∧ y.sup = false ∧ y.chan = 15 ∧
       y.pairClass = true ∧ y.launch = p.launch ∧ y.net = p.net ∧ y.tenant = l.tenant ∧ y.foot = r.foot ∧ y.heavy = r.heavy ∧
       y.firing.isSome = r.heavy ∧ y.limit = 4096 ∧ y.used = 0 ∧ y.rwc = 0 ∧
       y.getS 1 = BitVec.ofNat 64 (if swap then p.hi else p.lo) ∧ y.getS 2 = BitVec.ofNat 64 (if swap then p.lo else p.hi) ∧
       y.getS 3 = BitVec.ofNat 64 (i % 2 ^ 16 + (if r.heavy then 2 ^ 16 else 0) + r.tclass * 2 ^ 17 + (if swap then 2 ^ 23 else 0) +
         r.cost * 2 ^ 24) ∧
       y.getS 4 = BitVec.ofNat 64 p.net ∧ ∀ q, q = 0 ∨ 4 < q → y.getS q = 0)

/-! ## Accesses in flight (R111, R136, R203 to R208, R244, R261, R262, R294) -/

/-- R111, R136, R161, R162, R203 to R208, R220, R261, R262, R269 to R271, R294. The point of an access is the one of R269: the data cache of the home
core for a plain one or one of narrow scope from its layer, else the home slice or the memory behind it, after that cache's copy has gone
when the issuer is of the home layer. An access of this package's memory that may be performed in its context's order is: a load
answers with the bytes at its point, a store writes its runs, an `nst` its word; an atomic, the comparing one included, and a reduction read
the old value and write the new one at the home slice; an atomic on host memory that cannot be reached answers all ones, and a reduction
there is dropped. An answer that has arrived is written to the register, the pair of registers or the lanes that await it; a push-bound register
pushes the strip with the last one. `tver` answers with the current version and the size of a tile of the tenant, `tnew` with 0 when the
tables are full, which Config.tilesFull decides (log 37, the model's choice), and else with a number that no tile has. A request to another core
is performed by its target: an `ldx` reads there, a store is refused into a lease or a tagged word, an arrival counts at a tagged word and
is refused at any other; one to a failed core ends the launch. What is written at S is read there again, and every other byte of memory is as
before; a home core's cache keeps a store to a line that it holds, and writes back the bytes that were stored, and no other. That one step
performs an access at a slice, in memory and at the host too is log 38, that the elements of one access are performed together log 56, which
ways a slice has free log 19: the model's choices. -/
def Obligations.AccessEvents : Prop :=
  (∀ (s : State) (cid pa : Nat) (o : MemOrd),
    let h := s.home pa
    let near := layerOf cid = layerOf h
    let copy := if near then some h else none
    (paSpace pa = 3 → s.pointOf cid pa o = .register) ∧ (paSpace pa = 2 → s.pointOf cid pa o = .host) ∧
    (paSpace pa < 2 → s.isPeer pa = false →
      (near → o.pol = 0 → o.ord = 0 ∨ o.scope ≤ 2 → s.pointOf cid pa o = .homeCore h) ∧
      (near → o.pol = 0 → o.ord ≠ 0 → 3 ≤ o.scope → s.pointOf cid pa o = .slice (some h)) ∧
      (o.pol = 1 → s.pointOf cid pa o = .slice copy) ∧ (o.pol = 2 → s.pointOf cid pa o = .memory copy) ∧
      (¬ near → o.pol ≠ 2 → s.pointOf cid pa o = .slice none))) ∧
  (∀ (s : State) (a : Access), s.acc s.item = some a → a.answer = none → s.inOrder a = true → (∀ x ∈ a.elems, s.isPeer x.pa = false) →
    (∀ x u v r, a.op = .load → a.elems = [x] → a.dest = .sreg r → s.readElem a x = (u, v, false) →
      exec .remoteAccess s = .next (u.answer a (.val (extendLoad x.size (!a.sx) v)))) ∧
    (∀ u l r g, a.op = .load → a.dest = .vreg r g → State.readElems a a.elems s = (u, l, none) →
      exec .remoteAccess s = .next (u.answer a (.lanes (l.map fun p => (p.1.lane, BitVec.ofNat 32 p.2))))) ∧
    (∀ u l va, a.op = .load → State.readElems a a.elems s = (u, l, some va) → exec .remoteAccess s = .next (u.answer a (.poisoned va))) ∧
    (a.op = .store → a.ord.ord ≠ 3 → exec .remoteAccess s = .next
      (((mergeRuns (a.elems.map fun x => (x.pa, bytesOf x.size x.val))).foldl (fun (s : State) r => s.writeRun a r.1 r.2) s).dropAcc a)) ∧
    (∀ n x, a.op = .nst n → a.ord.ord ≠ 3 → a.elems = [x] → s.heldByOther a.launch x.va = false → exec .remoteAccess s = .next
      ((if n = 0 then s.nodeMod x.pa fun h => putBits h 0 18 x.val else s.nodeWrite x.pa x.val).dropAcc a)) ∧
    (∀ x op, a.op = .amo op → a.ord.ord ≠ 3 → a.elems = [x] →
      (s.hostLost x.pa = true → ∃ t, exec .atomicPerform s = .next t ∧ t.mem = s.mem ∧
        t = s.finishAtomic a (atomicAnswer { a with sx := true } x.size (2 ^ (8 * x.size) - 1))) ∧
      (∀ u old, s.hostLost x.pa = false → (if paSpace x.pa < 2 then s.flushLine (s.home x.pa) (x.pa / 128) else s).sRead x.pa x.size =
          (u, old, false) → exec .atomicPerform s = .next
            ((u.sWrite x.pa (bytesOf x.size (amoValue op x.size old x.val))).finishAtomic a (atomicAnswer a x.size old)))) ∧
    (∀ x cmp u old, a.op = .cas cmp → a.ord.ord ≠ 3 → a.elems = [x] → a.dest ≠ .none → s.hostLost x.pa = false →
      (if paSpace x.pa < 2 then s.flushLine (s.home x.pa) (x.pa / 128) else s).sRead x.pa x.size = (u, old, false) →
      exec .atomicPerform s = .next ((u.sWrite x.pa (bytesOf x.size (if old = cmp then x.val else old))).answer a
        (if x.size = 16 then .pair (BitVec.ofNat 64 old) (BitVec.ofNat 64 (old / 2 ^ 64)) else .val (extendLoad x.size (!a.sx) old))))) ∧
  (∀ (s : State) (r : Red) (l : List Red), (s.core s.item).reds = r :: l → s.redInOrder r = true → r.ord.ord ≠ 3 → s.isPeer r.pa = false →
    (s.hostLost r.pa = true → exec .reductionPerform s = .next (s.dropRed s.item r.id)) ∧
    (∀ u old, s.hostLost r.pa = false → (if paSpace r.pa < 2 then s.flushLine (s.home r.pa) (r.pa / 128) else s).sRead r.pa r.size =
        (u, old, false) →
      exec .reductionPerform s = .next ((u.sWrite r.pa (bytesOf r.size (amoValue r.op r.size old r.val))).dropRed s.item r.id))) ∧
  (∀ (s : State) (a : Access) (c : Ctx), s.Keyed → s.acc s.item = some a → s.byUid a.uid = some c →
    (∀ r v, a.answer = some (.val v) → a.dest = .sreg r →
      ∃ t, exec .resultWrite s = .next t ∧ t = (s.dropAcc a).setCtx ({ c with pend := if c.pend = some a.id then none else c.pend }.setS r v)) ∧
    (∀ r lo hi, a.answer = some (.pair lo hi) → a.dest = .pair r → exec .resultWrite s =
      .next ((s.dropAcc a).setCtx (({ c with pend := if c.pend = some a.id then none else c.pend }.setS r lo).setS (r + 1) hi))) ∧
    (∀ r g l, a.answer = some (.lanes l) → a.dest = .vreg r g → r < 32 → (l.map Prod.fst).Nodup → (∀ p ∈ l, p.1 < 64) →
      let holds := fun (bits : BitVec 2048) => ∀ i, i < 64 → elem 32 bits i =
        match l.find? fun p => p.1 == i with
        | some p => p.2.toNat
        | none => elem 32 (c.getV r).bits i
      (c.slotOf r = none → ∃ t y, exec .resultWrite s = .next t ∧ t.ctx c.key = some y ∧ (y.getV r).tag = g ∧ holds (y.getV r).bits ∧
        y.slots = c.slots ∧ ∀ q, q ≠ r → y.getV q = c.getV q) ∧
      (∀ x, c.slotOf r = some x → x.push = true → (∀ b ∈ s.accs, b.grp = a.grp → b.id = a.id) →
        ∃ t y z, exec .resultWrite s = .next t ∧ t.ctx c.key = some y ∧ y.slotOf r = some z ∧ z.pos = x.pos + 1 ∧
          ∃ b id, holds b ∧ z.staged = x.staged ++ [(x.pos, ⟨b, none, none, id⟩)])) ∧
    (∀ va, a.answer = some (.poisoned va) → c.pend = none →
      exec .resultWrite s = .next ((s.dropAcc a).consumePoison c va)) ∧
    (∀ r x y, a.answer = none → a.op = .tver x → s.inOrder a = true → a.dest = .sreg r → r ≠ 0 → r < 32 → s.tileOf a.tenant x = some y →
      ∃ t c', exec .resultWrite s = .next t ∧ t.ctx c.key = some c' ∧ c'.getS r = BitVec.ofNat 64 (y.cur % 2 ^ 32 + y.size * 2 ^ 32)) ∧
    (∀ r n bytes bad, a.answer = none → a.op = .tnew n bytes bad → a.dest = .sreg r → r ≠ 0 → r < 32 →
      s.fw.leads s.time = true → s.tiles.length < 2 ^ 40 - 1 →
      ∃ t c' id, exec .resultWrite s = .next t ∧ t.ctx c.key = some c' ∧ c'.getS r = BitVec.ofNat 64 id ∧
        (id = 0 ∧ Config.tilesFull s.frees = true ∧ t.tiles = s.tiles ∨
         1 ≤ id ∧ id < 2 ^ 40 ∧ s.tiles.find id = none ∧ Config.tilesFull s.frees = false ∧
           ∃ y, t.tiles.find id = some y ∧ y.cur = 0 ∧ y.size = n ∧ y.tenant = a.tenant ∧
             (bytes ≠ [] → y.vers = [(0, bytes)]) ∧ (bytes = [] → y.vers = [(0, List.replicate n 0)])))) ∧
  (∀ (s : State) (r : Remote) (c : Ctx), s.remotes.find? (fun x => x.id == s.item) = some r → s.byUid r.uid = some c → r.kind = 1 →
    let k := s.core r.cid
    let rest : State := { s with remotes := s.remotes.filter fun x => x.id != r.id }
    k.failed = false → k.gated = false →
    (k.guarded r.uid r.addr r.size = true → exec .remoteTargetCheck s =
      .next (rest.programFault { c with pend := none } 0x09 0 c.pc (r.xval.zeroExtend 64))) ∧
    (k.guarded r.uid r.addr r.size = false → k.tagged r.addr r.size = true → exec .remoteTargetCheck s =
      .next (rest.programFault { c with pend := none } 0x0C 0 c.pc (r.xval.zeroExtend 64))) ∧
    (k.guarded r.uid r.addr r.size = false → k.tagged r.addr r.size = false → s.matrixReads r.cid [(r.addr, r.size)] = false →
      exec .remoteTargetCheck s =
        .next ((rest.modCore r.cid fun k => k.write r.addr (bytesOf r.size r.val)).acceptRemote c r))) ∧
  (∀ (s : State) (r : Remote) (c : Ctx), s.remotes.find? (fun x => x.id == s.item) = some r → s.byUid r.uid = some c →
    let k := s.core r.cid
    let rest : State := { s with remotes := s.remotes.filter fun x => x.id != r.id }
    (k.failed = true → exec .remoteTargetCheck s = .next ((rest.endCtx c endKill).failLaunch c.launch ⟨2, 0x28, 0, 0, 0, s.gid r.cid⟩)) ∧
    (k.failed = false → k.gated = false →
    (r.kind = 0 → ∃ t a y, exec .remoteTargetCheck s = .next t ∧ t.accs = s.accs ++ [a] ∧ a.uid = c.uid ∧ a.dest = .sreg r.d ∧
      a.answer = some (if k.poisoned r.addr r.size then .poisoned (r.addr / 8 * 8)
        else .val (extendLoad r.size (!r.sx) (k.lm.readN r.addr r.size))) ∧
      t.ctx c.key = some y ∧ y.pend = none ∧ y.pc = c.pc + BitVec.ofNat 57 (4 * r.words) ∧ y.rwc = c.rwc + r.words ∧ y.s = c.s) ∧
    (r.kind = 2 → (k.tags.find (r.addr / 8)).isNone = true → exec .remoteTargetCheck s =
      .next (rest.programFault { c with pend := none } 0x0C 0 c.pc (r.xval.zeroExtend 64))) ∧
    (r.kind = 2 → (k.tags.find (r.addr / 8)).isSome = true → exec .remoteTargetCheck s =
      .next ((rest.barWrite r.cid r.addr (barArrive (s.barWord r.cid r.addr) false)).acceptRemote c r)))) ∧
  -- what a write leaves: at S and in memory, in a home core's cache, and when that writes back (R269 to R271)
  (∀ (s : State) (pa : Nat) (l : List Byte), s.MemOk → l ≠ [] → pa % 128 + l.length ≤ 128 →
    let t := s.sWrite pa l
    let n := l.length
    let line := pa / 128
    t.MemOk ∧ t.cores = s.cores ∧
    (s.isPeer pa = false → paSpace pa < 3 → canonPa pa = pa →
      t.peerLines = s.peerLines ∧ (∀ i, i < n → l[i]? = some (t.mem.read (pa + i))) ∧
      (∀ a, a < pa ∨ pa + n ≤ a → t.mem.read a = s.mem.read a) ∧
      (paSpace pa = 2 → s.poison = [] → t.sRead pa n = (t, ofBytes l, false)) ∧
      (paSpace pa < 2 → s.cfg.injArm = false → s.poison = [] →
        ((∃ z, s.sliceLine line = some z ∧ z.poison = 0) ∨
          s.sliceLine line = none ∧ let g := clusterOf (s.home (128 * line))
            (s.sliceSet g (line % 1024)).length + s.transitWays g (line % 1024) ≤ 15) →
        (t.sRead pa n).2 = (ofBytes l, false) ∧ (t.sRead pa n).1.mem = t.mem)) ∧
    (s.isPeer pa = true → t.mem = s.mem ∧ (∀ q, q ≠ line → t.peerLine q = s.peerLine q) ∧
      ∀ p, s.peerLine line = some p → p.poison = 0 → t.sRead pa n = (t, ofBytes l, false))) ∧
  (∀ (s : State) (h pa since : Nat) (l : List Byte) (c : CLine), l ≠ [] → pa % 128 + l.length ≤ 128 → (s.core h).cached (pa / 128) = some c →
    let t := s.hWrite h pa l
    t.mem = s.mem ∧ (∀ q, q ≠ h → t.core q = s.core q) ∧
    (c.poison = 0 → since ≤ c.filled → t.hRead h pa l.length since = (t, ofBytes l, false)) ∧
    ∃ d, (t.core h).cached (pa / 128) = some d ∧ ∀ i, i < 128 →
      if pa % 128 ≤ i ∧ i < pa % 128 + l.length then d.dirty.getLsbD i = true
      else lineGet d.data i 1 = lineGet c.data i 1 ∧ d.dirty.getLsbD i = c.dirty.getLsbD i) ∧
  (∀ (s : State) (h line : Nat) (c : CLine), s.MemOk → (s.core h).cached line = some c → paSpace (128 * line) < 2 →
    s.isPeer (128 * line) = false →
    let t := s.writeBack h line
    (∀ i, i < 128 → t.mem.read (128 * line + i) =
      if c.dirty.getLsbD i then BitVec.ofNat 8 (lineGet c.data i 1) else s.mem.read (128 * line + i)) ∧
    (∀ a, a < 128 * line ∨ 128 * line + 128 ≤ a → t.mem.read a = s.mem.read a) ∧
    ∃ d, (t.core h).cached line = some d ∧ d.dirty = 0 ∧ d.data = c.data)

/-! ## Work of a launch (R257, R263, R312 to R328) -/

/-- R257, R263, R312, R317, R318, R324, R325, R327. With fewer than 128 pairs in its bag a core takes the 64 oldest of its ring; a layer
reports every 256 cycles what its cores have free and queued, and donors send barges, whose pairs are entered at the receiver; a pair that
crosses to another layer counts in `SENT` there and in `RECV` here. A waiting task is queued at the owner of its data address, if that has room; a
work request of a running launch takes the next index, sets the counter, or reads what is left; a message enters its channel with the next
sequence number; a launch whose dependencies have their records is placed, behind what peer lines hold dirty when it names one (R282); and
the second of two agreeing clean sweeps ends a launch, once what it wrote is flushed to its owners. That a launch which is ending already
needs no second sweep, but only that nothing of it is left, is log 23: the model's reading. -/
def Obligations.LaunchEvents : Prop :=
  (∀ s : State, (s.core s.item).bag.length < 128 → (s.core s.item).ring ≠ [] → (∀ p ∈ s.pushes, p.1 ≠ s.item) →
    exec .ringToBag s = .next (s.modCore s.item fun k => { k with bag := k.bag ++ k.ring.take 64, ring := k.ring.drop 64 })) ∧
  (∀ s : State, s.item < 16 → (s.layer s.item).failed = false → (s.layer s.item).reports < (s.layer s.item).cycles / 256 →
    (∀ p ∈ s.cores, layerOf p.1 = s.item → p.2.bag.length + p.2.ring.length < 64) →
    ∃ t, exec .layerReport s = .next t ∧ (t.layer s.item).reports = (s.layer s.item).cycles / 256 ∧
      ∀ n k, s.cores.find n = some k → layerOf n = s.item →
        t.core n = { k with report := some ⟨s.freeGranules n, k.extent, k.bag.length, k.ring.length⟩ }) ∧
  (∀ (s : State) (d r : Nat), s.receiver d = some r → (s.core d).bag ≠ [] →
    let n := (s.core d).bag.length - 16
    let t := s.sendBarge d
    (t.core d).bag = (s.core d).bag.take n ∧
      (∃ b, t.barges = s.barges ++ [b] ∧ b.pairs = (s.core d).bag.drop n ∧ b.dst = r ∧ b.srcLayer = layerOf d) ∧
      ∀ l, (t.layer (layerOf d)).sent.getD l 0 = (s.layer (layerOf d)).sent.getD l 0 +
        if layerOf d = layerOf r then 0 else ((s.core d).bag.drop n).countP fun p => p.launch == l) ∧
  (∀ (s : State) (b : Barge), s.barges.find? (fun x => x.id == s.item) = some b → (∀ p ∈ b.pairs, s.running p.launch = true) →
    (s.core b.dst).failed = false → (s.core b.dst).gated = false → (s.core b.dst).bag.length + b.pairs.length ≤ 256 →
    ∃ t, exec .bargeArrival s = .next t ∧ t.barges = s.barges.filter (fun x => x.id != b.id) ∧
      (t.core b.dst).bag = (s.core b.dst).bag ++ b.pairs.map (fun p => { p with entered := s.cyclesOf b.dst }) ∧
      ∀ l, (t.layer (layerOf b.dst)).recv.getD l 0 = (s.layer (layerOf b.dst)).recv.getD l 0 +
        if layerOf b.dst = b.srcLayer then 0 else b.pairs.countP fun p => p.launch == l) ∧
  (∀ (s : State) (t : Task), s.toPlace.find? (fun x => x.id == s.item) = some t → s.running t.launch = true →
    s.roomAt t (ownerOf t.dataAddr) = true →
    ∃ u, exec .taskPlacement s = .next u ∧ u.toPlace = s.toPlace.filter (fun x => x.id != t.id) ∧
      (u.core (ownerOf t.dataAddr)).lport =
        (s.core (ownerOf t.dataAddr)).lport ++ [{ t with entered := s.cyclesOf (ownerOf t.dataAddr) }]) ∧
  (∀ (s : State) (r : WorkReq), s.workReqs.find? (fun x => x.id == s.item) = some r →
    (∀ x ∈ s.workReqs, x.uid = r.uid → r.id ≤ x.id) → (s.core r.cid).gated = false →
    let x := s.counterOf r
    let go := fun (i : Instr) (y : Nat × Nat) (answer : Nat) =>
      exec i s = .next ((s.modLaunch r.launch fun l => { l with counters := l.counters.set r.counter y }).answerWork r answer)
    (s.running r.launch = true →
      (r.op = 0 → go .workqTake (if x.1 < x.2 then (x.1 + 1, x.2) else x) (if x.1 < x.2 then x.1 else 0xFFFFFFFF)) ∧
      (r.op = 1 → go .workqSet (0, min r.arg 0xFFFFFFFE) (min r.arg 0xFFFFFFFE)) ∧ (r.op = 2 → go .workqRead x (x.2 - x.1))) ∧
    (s.running r.launch = false → ∀ p ∈ [(Instr.workqTake, 0), (.workqSet, 1), (.workqRead, 2)], r.op = p.2 →
      exec p.1 s = .next (s.answerWork r 0xFFFFFFFF))) ∧
  (∀ (s : State) (m : Msg), s.msgs.find? (fun x => x.id == s.item) = some m →
    (∀ x ∈ s.msgs, x.uid = m.uid → x.cid = m.cid → x.chan = m.chan → m.id ≤ x.id) → (s.core m.cid).gated = false →
    (s.core m.cid).failed = false → s.running m.launch = true →
    ∃ t, exec .messageArrival s = .next t ∧ t.msgs = s.msgs.filter (fun x => x.id != m.id) ∧
      (t.core m.cid).chans.getD m.chan [] = (s.core m.cid).chans.getD m.chan [] ++
        [{ m with mseq := (s.core m.cid).mseqs.getD m.chan 0, entered := s.cyclesOf m.cid }] ∧
      (t.core m.cid).mseqs.getD m.chan 0 = ((s.core m.cid).mseqs.getD m.chan 0 + 1) % 2 ^ 32) ∧
  (∀ (s : State) (x : Launch), s.launches.find s.item = some x →
    (x.phase = .accepted → x.isLaunch = true → (∀ d ∈ x.deps, s.launches.find d = none) → (x.dependent = true → s.peersClean = true) →
      ∃ t k, exec .launchPlacement s = .next t ∧ t.toPlace = s.toPlace ++ [k] ∧ k.launch = s.item ∧ k.handler = x.handler ∧ k.prio = x.prio ∧
        k.vals = payloadWords x.payload ∧ k.heavy = false ∧
        t.launches.find s.item = some { x with phase := .live, tplace := some (s.time / 3) }) ∧
    (s.liveCount s.item = 0 →
      let u := s.flushLaunch x
      let closes := (u.peersClean = true → exec .quiescenceSweep s = .next (u.endLaunch s.item x)) ∧
        (u.peersClean = false → u ≠ s → exec .quiescenceSweep s = .next u)
      (x.phase = .live → ((s.counts s.item).map Prod.fst).sum = ((s.counts s.item).map Prod.snd).sum →
        (x.sweep = some (s.counts s.item) → closes) ∧
        (x.sweep ≠ some (s.counts s.item) →
          exec .quiescenceSweep s = .next (s.modLaunch s.item fun x => { x with sweep := some (s.counts s.item) }))) ∧
      (x.phase = .live → ((s.counts s.item).map Prod.fst).sum ≠ ((s.counts s.item).map Prod.snd).sum → x.sweep.isSome = true →
        exec .quiescenceSweep s = .next (s.modLaunch s.item fun x => { x with sweep := none })) ∧
      (x.phase = .ending → closes)))

/-! ## Engines (R160 to R164, R228 to R235, R246, R301 to R305, R307) -/

/-- R224, R228, R229, R232 to R234, R301, R305. A copy goes on when every earlier one of its queue has delivered all, or has sent all to the same
other package. One from local memory to local memory moves the elements of the next granule of its destination; one whose barrier word has lost
its tag writes nothing and keeps `BARGONE` with the address that it gives the element; one from a version that its tile does not retain
ends with `NOVER`; one of whose granule a page is not at its station asks for a walk, and one that meets a page to be
mapped there stalls with a page request, each without delivering any of the granule; one whose next element meets another fault ends with it; and the
oldest copy of its queue that has ended writes its record into a free slot of the ring. The model's own choices among these: that a run, as
`State.copyRun` finds it, looks at the source of an element before its destination, and that a lost tag is found before the write, are log 39
(DEDUCED); that the elements of one granule are read before any of them is written, where source and destination overlap, is log 106 (DESIGN
CHOICE); which slot of the ring is taken is log 5. -/
def Obligations.CopyEvents : Prop :=
  ∀ (s : State) (x : Copy), s.copy s.item = some x →
    (x.status = none → x.stalled = none → x.sent = false →
      (∀ y ∈ s.copies, y.id < x.id → y.sameQueue x = true → y.status = none → y.sent = true ∧ y.xpkg = x.xpkg) →
      s.unordered x.cid x.claims = true →
      (∀ l r b, x.src.space = 0 → x.xpkg = none → x.bar = some b → s.copyRun x 16 x.next [] = (l, r) → l ≠ [] →
        (∀ va k, r ≠ some (.miss va k) ∧ r ≠ some (.absent va k)) →
        (x.dst.space = 0 ∧ (s.core x.target).failed = false ∧ (s.core x.target).gated = false ∨
         x.dst.space = 1 ∧ ∀ m ∈ l, s.isPeer m.2 = false) → (s.core x.barCore).tags.find (b / 8) = none →
        exec .copyDelivery s = .next (s.advance { x with own := some (x.own.getD (2, 0, x.dst.addr x.next)) } l.length 0)) ∧
      (∀ l r, x.src.space = 0 → x.dst.space = 0 → x.xpkg = none → x.bar = none → x.heavy = false → s.copyRun x 16 x.next [] = (l, r) →
        l ≠ [] →
        let k := s.core x.cid
        let w := x.src.bytes
        let pieces := l.map fun m => (m.2, k.lm.readBytes m.1 w)
        let bad := (l.filter fun m => k.poisoned m.1 w).map fun m => (m.2, (k.lm.readBytes m.1 w).length)
        (s.core x.target).failed = false → (s.core x.target).gated = false →
        (∀ p ∈ pieces, (s.core x.target).leased x.uid p.1 p.2.length = false ∧ (s.core x.target).tagged p.1 p.2.length = false) →
        exec .copyDelivery s =
          .next ((s.deliverAll x.target pieces bad).advance x l.length ((pieces.map fun p => p.2.length).sum))) ∧
      (∀ t, x.src.space = 2 → x.next = 0 → s.tileOf x.tenant x.src.base = some t → (∀ p ∈ t.pins, p.2 ≠ x.id) → t.vers.find x.src.ver = none →
        exec .copyDelivery s = .next (s.stopCopy x (3, 0, x.src.addr 0))) ∧
      (∀ l va k, x.src.space ≠ 2 → s.copyRun x 16 x.next [] = (l, some (.absent va k)) →
        let kind := match k with
          | .read => 0
          | .write => 1
          | .fetch => 2
          | .atomic => 3
        let u := s.pageRequest (x.pid % 2 ^ 16 + kind * 2 ^ 16 + 2 ^ 18 + s.seqOf x.launch % 2 ^ 32 * 2 ^ 32 + va % 2 ^ 57 * 2 ^ 64 +
          (s.pkg * 4096 + x.cid) % 2 ^ 21 * 2 ^ 128)
        exec .copyDelivery s = .next ((u.toldEngine x.cid x.pid x.sup k [va]).setCopy { x with stalled := some va })) ∧
      (∀ l va k u, x.src.space ≠ 2 → s.copyRun x 16 x.next [] = (l, some (.miss va k)) →
        s.engineWalk ⟨x.cid, x.pid, va / 65536, k, x.sup⟩ x.tenant = some u → exec .copyDelivery s = .next u) ∧
      (∀ st code a, x.src.space ≠ 2 → x.xpkg = none → x.own = none → s.copyRun x 16 x.next [] = ([], some (.bad st code a)) →
        ∃ t, exec .copyDelivery s = .next t ∧ t.mem = s.mem ∧ ∃ y, t.copy x.id = some y ∧ y.status = some (st, code, a) ∧ y.got = x.got)) ∧
    (∀ st code a, x.status = some (st, code, a) → x.orphan = false → x.norec = false →
      (∀ y ∈ s.copies, y.sameQueue x = true → x.id ≤ y.id) → (s.core x.cid).recs.length < 256 → ∃ n,
      let r := x.tag % 2 ^ 16 + st * 2 ^ 16 + code * 2 ^ 24 + x.slot % 64 * 2 ^ 32 + x.got % 2 ^ 32 * 2 ^ 64 + a % 2 ^ 64 * 2 ^ 128 +
        s.time / 3 % 2 ^ 64 * 2 ^ 192
      let u := s.modCore x.cid fun k => { k.write (0x7E000 + 32 * n) (bytesOf 32 r) with recs := k.recs ++ [⟨n, x.uid⟩] }
      n < 256 ∧ (∀ y ∈ (s.core x.cid).recs, y.n ≠ n) ∧ exec .completionRecord s = .next ({ u with frees := s.frees + 1 }.retireCopy x))

/-- R160, R162, R246, R280, R297, R307, R308. The next strip that a pop stream of local memory lacks is read and staged for it, once no strip
that the core pushed before the binding is still to be written. One of global memory asks for a walk of a page that is not at its station,
then for a peer line that is not at hand; when all is there it is staged with the value that S gives each element, or with the fault of an
element that has no page, behind a page request. The oldest strip pushed to local memory, when no earlier push of the core is to be written
and no stream bound before it still asks for strips, is written and leaves the slot; one pushed to global memory asks for a peer line that is
not at hand, and is written at S when all are. The model's readings: the strips of a pop stream take the place of its binding in the stream
queue (log 26, DEDUCED); an element of a pushed strip in a lease handed out since, or on a barrier word initialised since, is not written,
without a fault (log 40, DESIGN CHOICE); a strip is read, and written, in one step (log 116, DESIGN CHOICE). A core that lacks nodes of a net
gets up to 32 of the net's arena, and the `nalloc` that waited there are woken; an arena that has none faults `ARENA` at them. -/
def Obligations.EngineEvents : Prop :=
  (∀ (s : State) (c : Ctx) (x : Slot) (key slot k : Nat), s.ctx key = some c → c.slots[slot]? = some x → x.push = false → x.shape.space = 0 →
    x.wanted = some k →
    let l := x.shape.strip k
    s.earlierPush c.start x.id = false → s.unordered c.start ⟨x.id, l.map (fun p => (p.1, x.shape.bytes)), []⟩ = true →
    ∃ b bad, exec (.stripRefill key slot) s = .next
        ((s.setCtx (c.putSlot { x with staged := Map.put x.staged k ⟨BitVec.ofNat 2048 b, none, bad, s.stamp⟩, req := max x.req (k + 1) })).tickStamp.credit
          c.key 1) ∧
      b = (l.map fun p => ofBytes ((s.core c.start).lm.readBytes p.1 x.shape.bytes) * 2 ^ (8 * p.2)).sum ∧
      (bad = none ↔ ∀ p ∈ l, (s.core c.start).poisoned p.1 x.shape.bytes = false)) ∧
  (∀ (s : State) (c : Ctx) (x : Slot) (key slot n : Nat) (r : Strip) (rest : List (Nat × Strip)), s.ctx key = some c →
    c.slots[slot]? = some x → x.push = true → x.staged = (n, r) :: rest → x.shape.space = 0 →
    let w := x.shape.bytes
    let l := (x.shape.strip n).map fun p => (p.1, bytesOf w (r.bits.toNat / 2 ^ (8 * p.2) % 2 ^ (8 * w)))
    s.earlierPush c.start r.id = false → s.earlierPop c.start r.id = false → s.unordered c.start ⟨r.id, [], l.map fun p => (p.1, w)⟩ = true →
    ∀ free, free = l.filter (fun p => !(s.core c.start).leased c.uid p.1 w && !(s.core c.start).tagged p.1 w) →
    exec (.stripPushWrite key slot) s = .next
      (((s.deliverAll c.start free []).modCtx c.key fun y =>
        y.putSlot { x with staged := Map.del x.staged n, xl := x.xl.filter fun p => p.1 != n }).credit c.key 1)) ∧
  (∀ (s : State) (c : Ctx) (x : Slot) (key slot n : Nat) (r : Strip) (rest : List (Nat × Strip)), s.ctx key = some c →
    c.slots[slot]? = some x → x.push = true → x.staged = (n, r) :: rest → x.shape.space ≠ 0 →
    s.earlierPush c.start r.id = false → s.earlierPop c.start r.id = false →
    let w := x.shape.bytes
    let l := (x.shape.strip n).map fun p => (x.paOf n p.1, bytesOf w (r.bits.toNat / 2 ^ (8 * p.2) % 2 ^ (8 * w)))
    ((∀ p ∈ l, s.lineHere p.1 c.acqPod = true) → exec (.stripPushWrite key slot) s = .next
      ((((mergeRuns l).foldl (fun u p => u.putBytes c.start p.1 p.2) s).modCtx c.key fun y =>
        y.putSlot { x with staged := Map.del x.staged n, xl := x.xl.filter fun p => p.1 != n }).credit c.key 1)) ∧
    (∀ k p q, l = k ++ p :: q → (∀ y ∈ k, s.lineHere y.1 c.acqPod = true) → s.lineHere p.1 c.acqPod = false →
      s.lineAwaited (p.1 / 128) = false → s.writeBackUnderWay (some (p.1 / 128)) = false →
      exec (.stripPushWrite key slot) s = .next (s.requestLine (p.1 / 128) c.tenant))) ∧
  (∀ (s : State) (c : Ctx) (x : Slot) (key slot k : Nat) (pa : Nat → Nat), s.ctx key = some c → c.slots[slot]? = some x → x.push = false →
    x.shape.space = 1 → x.wanted = some k → s.earlierPush c.start x.id = false → s.unordered c.start ⟨x.id, [], []⟩ = true →
    let l := x.shape.strip k
    let n := x.shape.bytes
    (∀ p ∈ l, s.engineXlate c.start (s.pidOf c) c.sup p.1 .read = .at (pa p.1)) →
    ((∀ p ∈ l, s.lineHere (pa p.1) c.acqPod = true) → (∀ p ∈ l, (s.readAt (pa p.1) n).1 = s ∧ (s.readAt (pa p.1) n).2.2 = false) →
      exec (.stripRefill key slot) s = .next
        (let u := s.toldEngine c.start (s.pidOf c) c.sup .read (l.map Prod.fst)
         (u.setCtx (c.putSlot { x with
           staged := Map.put x.staged k ⟨BitVec.ofNat 2048 (l.map fun p => (s.readAt (pa p.1) n).2.1 % 2 ^ (8 * n) * 2 ^ (8 * p.2)).sum, none, none, u.stamp⟩
           req := max x.req (k + 1) })).tickStamp.credit c.key 1)) ∧
    (∀ h p q, l = h ++ p :: q → (∀ y ∈ h, s.lineHere (pa y.1) c.acqPod = true) → s.lineHere (pa p.1) c.acqPod = false →
      s.lineAwaited (pa p.1 / 128) = false → s.writeBackUnderWay (some (pa p.1 / 128)) = false →
      exec (.stripRefill key slot) s = .next (s.requestLine (pa p.1 / 128) c.tenant))) ∧
  (∀ (s : State) (c : Ctx) (x : Slot) (key slot k va : Nat), s.Keyed → s.ctx key = some c → c.slots[slot]? = some x → x.push = false →
    x.shape.space = 1 → x.wanted = some k → s.earlierPush c.start x.id = false → s.unordered c.start ⟨x.id, [], []⟩ = true → x.shape.strip k = [(va, 0)] →
    let ask : EngAsk := ⟨c.start, s.pidOf c, va / 65536, .read, c.sup⟩
    (∀ u, s.engineXlate c.start (s.pidOf c) c.sup va .read = .miss → s.engineWalk ask c.tenant = some u →
      exec (.stripRefill key slot) s = .next u) ∧
    (s.engineXlate c.start (s.pidOf c) c.sup va .read = .notPresent →
      ∃ t y z, exec (.stripRefill key slot) s = .next t ∧ t.ctx c.key = some y ∧ z ∈ y.slots ∧ z.reg = x.reg ∧
        (∃ r, Map.find z.staged k = some r ∧ r.fault = some (va, true)) ∧
        t.cfg = (s.pageRequest (pageRecord (s.pidOf c) .read true (s.seqOf c.launch) va (s.gid c.start))).cfg)) ∧
  (∀ (s : State) (net : Nat) (x y : Net) (rest held a : List Nat), (s.core s.item).refill = net :: rest → s.nets.find net = some x →
    ((s.core s.item).freeNodes = some (net, held) ∨ (s.core s.item).freeNodes = none ∧ held = []) →
    x.take (min 32 (64 - held.length)) = (y, a) →
    let u : State := ({ s with nets := s.nets.put net y } : State).modCore s.item fun k => { k with freeNodes := some (net, held ++ a), refill := rest }
    let here := fun (c : Ctx) => c.start == s.item && c.wait == some (Wait.node net)
    (held ++ a ≠ [] → exec .nodeRefill s = .next (u.wakeWhere here id)) ∧
    (held ++ a = [] → ∀ c, ((s.ctxs.map Prod.snd).filter here) = [c] → s.Keyed → s.byUid c.uid = some c →
      exec .nodeRefill s = .next (u.programFault c 0x0F 0 c.parkPc (c.parkWord.zeroExtend 64))))

/-! ## Hedging and the weir (R329 to R336) -/

/-- R330, R331, R333 to R337, R340. At every multiple of 2,048 ns every running copy is tested, and one that is behind, within its tenant's
budget and with a place, gets a backup there. A commit of a tainted epoch is cancelled whatever it names, and so is one of a firing for which
another copy was accepted. Of the others, one that names no tile of its tenant or a version that does not exist ends its launch, one for an old
version is cancelled, and else it is pulled, or held behind the one that is. A pull that completes seals the next version with the region's
bytes and is accepted for its firing, if the commit rewrites nothing; one that fails, since its core has failed or been reset or a word of the region
is poisoned, or that was overtaken, is cancelled. The model's choices
(log 70, DEDUCED; log 37, DESIGN CHOICE; log 46, DEDUCED; log 19, DESIGN CHOICE): the sealed version has the size `RLEN`; whether a seal finds room
is a free value; a re-run after a tainted commit, or after a failure of its cluster, stays away from its copy's layer; and the sets of a
slice that a region being pulled takes ways of are free values. -/
def Obligations.WeirEvents : Prop :=
  (∀ s : State, s.samples < s.time / 3 / 2048 →
    let n := s.time / 3 / 2048
    exec .hedgeSample s = .next ((s.ctxs.map Prod.snd).foldl (fun (u : State) (c : Ctx) => u.backUp (2048 * n) c) { s with samples := n }) ∧
    ((∀ p ∈ s.ctxs, s.behind p.2 (2048 * n) = false) → exec .hedgeSample s = .next { s with samples := n })) ∧
  (∀ (s : State) (c : Ctx) (t f x : Nat) (y : Firing) (q : Nat × Nat × Nat) (b : Task), c.firing = some f → s.firings.find f = some y →
    s.curve c = some q → s.behind c t = true → s.mayBackup c.tenant q.2.2 = true → s.backupPlace c y = some (x, b) →
    ((s.backUp t c).core x).lport = (s.core x).lport ++ [{ b with entered := s.cyclesOf x }] ∧
      (s.backUp t c).firings.find f = some { y with backedUp := true }) ∧
  (∀ (s : State) (c : Commit), s.commits.find? (fun x => x.id == s.item) = some c →
    let u : State := { s with commits := s.commits.filter fun x => x.id != c.id }
    let taint := c.epoch ∈ (s.cluster (clusterOf c.cid)).tainted
    (taint → exec .weirCommit s = .next (u.cancelCommit c (.failedPull (some (2, c.cid))))) ∧
    (¬ taint → (∀ f, s.firings.find c.firing = some f → f.accepted = true) → exec .weirCommit s = .next (u.cancelCommit c .answered)) ∧
    (∀ f, ¬ taint → s.firings.find c.firing = some f → f.accepted = false →
      ((∀ t, s.tiles.find c.tile = some t → t.tenant ≠ c.tenant) → exec .weirCommit s = .next (u.failCommit c 0x01 5 c.tile)) ∧
      ∀ t, s.tiles.find c.tile = some t → t.tenant = c.tenant →
        (t.cur < c.base → exec .weirCommit s = .next (u.failCommit c 0x01 5 c.tile)) ∧
        (c.base < t.cur → exec .weirCommit s = .next (u.cancelCommit c .answered)) ∧
        (c.base = t.cur → t.pulling.isSome = true →
          exec .weirCommit s = .next (u.modTile c.tile fun t => { t with heldC := t.heldC ++ [c] })) ∧
        (c.base = t.cur → t.pulling = none →
          exec .weirCommit s = .next ((u.modTile c.tile fun t => { t with pulling := some c }).takeTransit c.tile)))) ∧
  (∀ (s : State) (t : Tile) (c : Commit), s.tiles.find s.item = some t → t.pulling = some c → c.tile = s.item →
    let taint := c.epoch ∈ (s.cluster (clusterOf c.cid)).tainted
    let gone := (s.core c.cid).failed = true ∨ ∀ l ∈ (s.core c.cid).leases, l.uid ≠ c.uid
    let lost := gone ∨ (s.core c.cid).poisoned c.rbase c.rlen = true
    let v := (s.modTile c.tile Tile.nextHeld).takeTransit c.tile
    (taint → exec .pullFailed s = .next (v.cancelCommit c (.failedPull (some (2, c.cid))))) ∧
    (¬ taint → lost → exec .pullFailed s =
      .next (v.cancelCommit c (.failedPull (if (s.cluster (clusterOf c.cid)).failed then some (2, c.cid)
        else if s.leaseLost c then some (1, c.cid) else none)))) ∧ (s.leaseLost c = true ↔ gone) ∧
    (¬ taint → ¬ lost → s.fw.leads s.time = true → (∀ f, s.firings.find c.firing = some f → f.accepted = true) →
      exec .pullComplete s = .next (v.cancelCommit c .answered)) ∧
    (∀ f, ¬ taint → ¬ lost → s.fw.leads s.time = true → s.firings.find c.firing = some f → f.accepted = false → c.norw = true →
      0 < (s.tenant t.tenant).retain → s.Keyed →
      ∃ u y, exec .pullComplete s = .next u ∧ u.tiles.find s.item = some y ∧
        (Config.tilesFull s.frees = false → y.cur = t.cur + 1 ∧ y.size = c.rlen ∧ y.pulling = none ∧ y.heldC = [] ∧
          y.vers.find (t.cur + 1) = some ((s.core c.cid).lm.readBytes c.rbase c.rlen) ∧
          ∀ x ∈ f.live, x ≠ c.uid → ∀ k ∈ s.ctxs, k.2.uid = x → x ∈ u.kills) ∧
        (Config.tilesFull s.frees = true → y = t.nextHeld ∧
          u = ((({ s with frees := s.frees + 1 } : State).modTile c.tile Tile.nextHeld).takeTransit c.tile).failCommit c 0x0F 0 c.tile)))

/-! ## The matrix unit (R63 to R72, R172 to R182, R185 to R190, R384, R385) -/

/-- R25, R63 to R70, R175, R176. A K-step of an `mma` that may run accumulates into every element of its window, and into no other, the step
value of the rows that its index vector and its column name, and is the last exactly when no byte of K is left. `RoundMat` answers +0 for
every zero, the one NaN, and never −0; an integer accumulation clamps to 32 bits and tells whether it did; a TD8 step is the exact sum of its
products, and a half-precision step the tree of R67 over its exact products, each node and the root rounded. The first K-step of a pair reads
the operands and scales of both from local memory, and the second uses what was read (R175). With `.ck`, on a window with checksums, each
row's and each column's checksum gains its part of the step, by the two sums of R176 with their roundings, or modulo 2^32; else no checksum
changes. An integer step sets the saturation bit of the window's block exactly when an element was clamped, and a floating-point step leaves
it. Each K-step credits its task 64 units of work. A unit performs one K-step in a cycle in which its layer issues. The model's readings (log
31, DEDUCED, and log 7, DEDUCED): a negative value that rounds to zero becomes +0 too, and halved issue halves the K-steps. -/
def Obligations.KStep : Prop :=
  (∀ (s : State) (r : Running) (md : W64) (oa ob : BitVec 128) (idx : List Nat) (ck : Bool),
     let g := s.cluster s.item
     g.running = some r → r.cmd.op = .mma md oa ob idx ck → g.preempt = false → g.failed = false → g.testing = none →
     (g.admitted.find r.cmd.launch).isSome = true → g.stepped = false → (s.layer (s.item / 21)).issues = true →
     let here := s.core (coreOf s.item r.c)
     let pair := pairReads md oa ob idx r.n
     let ops := r.ops.getD (here.messages pair)
     let k : Core := { here with lm := ops }
     let w := g.win r.c md
     let kb := min (odKB oa) (odKB ob)
     (r.ops = none → here.poisonIn pair = none) → idx.length = w.nr → w.col + w.nc ≤ 128 →
     let f := odFmt oa
     let row := fun x => k.kRow f (odBase oa + x * odPitch oa) r.n kb
     let col := fun j => k.kRow (if w.f32w then f else odFmt ob) (odBase ob + j * odPitch ob) r.n kb
     ∃ t, exec .kStep s = .next t ∧
       (t.cluster s.item).running = (if 64 * (r.n + 1) < kb
         then some { r with n := r.n + 1, ops := if r.ops = none then some ops else none } else none) ∧ (t.cluster s.item).stepped = true ∧
       (∀ i j x, idx[i]? = some x → j < w.nc → (t.cluster s.item).el w i j =
         if w.f32w then
           accumF (g.el w i j) (stepValue f ((row x).map (elemValue f)) ((col j).map (elemValue f)))
             (if odScv oa || odScv ob then some (matVal ((k.scaleOf oa x).times (k.scaleOf ob j))) else none)
         else (accumI (g.el w i j) (dotInts ((row x).map (elemInt f)) ((col j).map (elemInt (odFmt ob))))).1) ∧
       (∀ n, (n / 128 < w.row ∨ w.row + w.nr ≤ n / 128 ∨ n % 128 < w.col ∨ w.col + w.nc ≤ n % 128) →
         getZero (t.cluster s.item).acc n = getZero g.acc n) ∧
       -- the side entry, the saturation bit and the work
       (let y := t.cluster s.item
        let arow := fun x => (row x).map (elemValue f)
        let bcol := fun j => (col j).map (elemValue f)
        let zero := FVal.fin false 0 1
        let wd := (row 0).length
        let sas := (List.range wd).map fun n => matVal (sumVals (idx.map fun x => (k.scaleOf oa x).times (((arow x)[n]?).getD zero)))
        let sbs := (List.range wd).map fun n =>
          matVal (sumVals ((List.range w.nc).map fun j => (k.scaleOf ob j).times (((bcol j)[n]?).getD zero)))
        let irow := fun x => (row x).map (elemInt f)
        let icol := fun j => (col j).map (elemInt (odFmt ob))
        let isas := (List.range wd).map fun n => (idx.map fun x => ((irow x)[n]?).getD 0).sum
        let isbs := (List.range wd).map fun n => ((List.range w.nc).map fun j => ((icol j)[n]?).getD 0).sum
        (ck = true → w.ckv = true → 0 < w.nr →
          (∀ (i x : Nat), idx[i]? = some x → getZero y.cc (w.ccKey i) =
            if w.f32w then matRound ((f32.value (getZero g.cc (w.ccKey i))).add (matVal ((k.scaleOf oa x).times (dotVals (arow x) sbs))))
            else (((getZero g.cc (w.ccKey i) : Int) + dotInts (irow x) isbs) % 2 ^ 32).toNat) ∧
          (∀ j, j < w.nc → getZero y.cr (w.crKey j) =
            if w.f32w then matRound ((f32.value (getZero g.cr (w.crKey j))).add (matVal ((k.scaleOf ob j).times (dotVals sas (bcol j)))))
            else (((getZero g.cr (w.crKey j) : Int) + dotInts isas (icol j)) % 2 ^ 32).toNat) ∧
          ∀ n, ((n < w.ccKey 0 ∨ w.ccKey w.nr ≤ n) → getZero y.cc n = getZero g.cc n) ∧
            ((n < w.crKey 0 ∨ w.crKey w.nc ≤ n) → getZero y.cr n = getZero g.cr n)) ∧
        (ck = false ∨ w.ckv = false → y.cc = g.cc ∧ y.cr = g.cr) ∧
        (let clamps := w.f32w = false ∧ ∃ i j x, idx[i]? = some x ∧ j < w.nc ∧ (accumI (g.el w i j) (dotInts (irow x) (icol j))).2 = true
         (clamps → y.sat = NatSet.add g.sat w.blk) ∧ (¬ clamps → y.sat = g.sat)) ∧
        ∀ c, s.byUid r.cmd.uid = some c → s.ctx c.key = some c →
          t.ctx c.key = some { c with rwc := c.rwc + 64 } ∧ t.tenant c.tenant = (s.tenant c.tenant).addWork s.time 64 c.backup)) ∧
  (∀ v : FVal, matRound v ≠ 0x80000000 ∧ (v = .nan → matRound v = 0x7FC00000) ∧
    ((f32.roundVal 0 v).val ≠ 0x80000000 → matRound v = (f32.roundVal 0 v).val)) ∧
  (∀ (c : Nat) (p : Int), c < 2 ^ 32 →
    let x := signed 32 c + p
    signed 32 (accumI c p).1 = max (-2 ^ 31) (min (2 ^ 31 - 1) x) ∧ ((accumI c p).2 = true ↔ x < -2 ^ 31 ∨ 2 ^ 31 - 1 < x)) ∧
  (∀ a b : List FVal, stepValue 5 a b = sumVals ((a.zip b).map fun p => p.1.times p.2)) ∧
  (∀ f ∈ [3, 4], ∀ (a b : List FVal) (T : Nat → Nat → Option FVal), a.length ≤ 32 → IsMatTree T →
    (∀ i, T 0 i = match a[i]?, b[i]? with
      | some x, some y => some (x.times y)
      | _, _ => none) →
    stepValue f a b = match T 5 0 with
      | some v => f32.value (matRound v)
      | none => .fin false 0 1) ∧
  (∀ a b : FVal, (∀ x ∈ [a, b], ∀ n p d, x = .fin n p d → 0 < d) →
    (a = .nan ∨ b = .nan → a.add b = .nan ∧ a.times b = .nan) ∧
    (a.finite = true → b.finite = true → (a.add b).finite = true ∧ (a.add b).rat = a.rat + b.rat ∧ (a.times b).finite = true ∧
      (a.times b).rat = a.rat * b.rat) ∧
    ∀ n, a = .inf n →
      (b.finite = true → a.add b = .inf n ∧ b.add a = .inf n ∧
        a.times b = (if b.isZero then .nan else .inf (n != b.sign)) ∧ b.times a = a.times b) ∧
      ∀ m, b = .inf m → a.add b = (if n = m then .inf n else .nan) ∧ a.times b = .inf (n != m)) ∧
  (∀ (k : Core) (l : List (Nat × Nat)) (x : Nat), k.lm.wf = true → (∃ p ∈ l, p.1 ≤ x ∧ x < p.1 + p.2) → (k.messages l).read x = k.lm.read x)

/-- R71, R172, R173, R177 to R182. The unit performs the other commands whole: `mzero` zeroes the elements of its window, its checksums and
the saturation bit of its block, `mld` loads the elements row by row, or consumes a poisoned word of them (log 62, the model's reading),
`mscale` scales each by its row and column, and both form the checksums anew; `mst` stores the elements row by row; `mwin` clears the
saturation bit and the checksums. `mres` writes the residues of the rows and columns into its vector register. `mchk` writes the masks of
those that fail, and traps with them if any does; a residue fails when it exceeds the tolerance or a number in question is a NaN. The sums of
a row and a column are modulo 2^32, or the tree of R74 whose nodes, and whose root (R63), `RoundMat` rounds. A block of a context that has
ended is cleared: its elements, its side entries and its saturation bit, and no other's. -/
def Obligations.MatrixEvents : Prop :=
  (∀ (s : State) (r : Running), (s.cluster s.item).running = some r → r.cmd.op.isMma = false → (s.cluster s.item).failed = false →
    (s.cluster s.item).testing = none →
    let g := s.cluster s.item
    let u := s.modCluster s.item fun g => { g with running := none, preempted := g.preempt }
    exec .matrixCommandPerform s = .next (u.matrixCommand s.item r.c r.cmd) ∧
    (∀ md, (g.win r.c md).col + (g.win r.c md).nc ≤ 128 → ∀ i j, i < (g.win r.c md).nr → j < (g.win r.c md).nc →
      let x := ((u.matrixCommand s.item r.c r.cmd).cluster s.item).el (g.win r.c md) i j
      (r.cmd.op = .mzero md → x = 0) ∧
      (∀ sa, r.cmd.op = .mld md sa → (s.core (coreOf s.item r.c)).poisonIn [(sa, 4 * ((g.win r.c md).nr * (g.win r.c md).nc))] = none →
        x = (s.core (coreOf s.item r.c)).lm.readN (sa + 4 * ((g.win r.c md).nc * i + j)) 4) ∧
      (∀ p q a b, r.cmd.op = .mscale md p q → p[i]? = some a → q[j]? = some b →
        x = matRound ((f32.value (g.el (g.win r.c md) i j)).times (matVal ((f32.value a.toNat).times (f32.value b.toNat)))))) ∧
    (∀ md, (g.win r.c md).col + (g.win r.c md).nc ≤ 128 → (g.win r.c md).ckv = true →
      ((∃ sa, r.cmd.op = .mld md sa ∧
          (s.core (coreOf s.item r.c)).poisonIn [(sa, 4 * ((g.win r.c md).nr * (g.win r.c md).nc))] = none) ∨ ∃ p q, r.cmd.op = .mscale md p q) →
      let w := g.win r.c md
      let t := (u.matrixCommand s.item r.c r.cmd).cluster s.item
      (∀ i, i < w.nr → getZero t.cc (w.ccKey i) = t.rowSum w i) ∧ ∀ j, j < w.nc → getZero t.cr (w.crKey j) = t.colSum w j) ∧
    (∀ md sa a c, r.cmd.op = .mld md sa → s.byUid r.cmd.uid = some c →
      (s.core (coreOf s.item r.c)).poisonIn [(sa, 4 * ((g.win r.c md).nr * (g.win r.c md).nc))] = some a →
      u.matrixCommand s.item r.c r.cmd = u.consumePoison c a) ∧
    (∀ md, r.cmd.op = .mwin md ∨ r.cmd.op = .mzero md →
      let w := g.win r.c md
      let t := (u.matrixCommand s.item r.c r.cmd).cluster s.item
      (r.cmd.op = .mwin md → t.acc = g.acc) ∧ t.sat = NatSet.del g.sat w.blk ∧ (w.ckv = false → t.cc = g.cc ∧ t.cr = g.cr) ∧
        (w.ckv = true → (∀ i, i < w.nr → getZero t.cc (w.ccKey i) = 0) ∧ ∀ j, j < w.nc → getZero t.cr (w.crKey j) = 0)) ∧
    (∀ ma c, s.byUid r.cmd.uid = some c → (g.win r.c ma).nr ≤ 32 → (g.win r.c ma).nc ≤ 32 →
      let w := g.win r.c ma
      let left := fun (ck sum : Nat) => if w.f32w then matRound ((f32.value ck).add (f32.value sum).negate) else (ck + 2 ^ 32 - sum) % 2 ^ 32
      let cc := fun i => getZero g.cc (w.ccKey i)
      let cr := fun j => getZero g.cr (w.crKey j)
      let rows := fun i => left (cc i) (g.rowSum w i)
      let cols := fun j => left (cr j) (g.colSum w j)
      (∀ vd, r.cmd.op = .mres ma vd → c.slotOf vd = none →
        ∃ b, u.matrixCommand s.item r.c r.cmd = u.setCtx (c.setV vd ⟨b, wFmt ma⟩) ∧
          ∀ i, i < 32 → elem 32 b i = (if w.ckv ∧ i < w.nr then rows i else 0) ∧ elem 32 b (32 + i) = (if w.ckv ∧ i < w.nc then cols i else 0)) ∧
      (∀ man kd sb, r.cmd.op = .mchk ma man kd sb →
        (w.ckv = false → u.matrixCommand s.item r.c r.cmd = u.setCtx ((c.setK kd 0).setK (kd + 1) 0)) ∧
        (w.ckv = true → ∃ a b : W64,
          let y := (c.setK kd a).setK (kd + 1) b
          let nan := w.f32w = true ∧ ((∃ i, i < w.nr ∧ (f32.isNaN (rows i) = true ∨ f32.isNaN (cc i) = true)) ∨
            ∃ j, j < w.nc ∧ (f32.isNaN (cols j) = true ∨ f32.isNaN (cr j) = true))
          (∀ i, i < 64 → (a.getLsbD i = true ↔ i < w.nr ∧ resFails w.f32w sb (rows i) (cc i) = true) ∧
            (b.getLsbD i = true ↔ i < w.nc ∧ resFails w.f32w sb (cols i) (cr i) = true)) ∧
          (a = 0 ∧ b = 0 → u.matrixCommand s.item r.c r.cmd = u.setCtx y) ∧
          (∀ d, ¬ (a = 0 ∧ b = 0) → (nan → d = 1) → (¬ nan → d = 0) → u.matrixCommand s.item r.c r.cmd = (u.setCtx y).takeTrap y 0x18
            (man + b2n (g.sat.contains w.blk) * 2 ^ 4 + d * 2 ^ 5) (BitVec.ofNat 64 (a.toNat + b.toNat * 2 ^ 32)) c.parkPc c.pc)))) ∧
    (∀ md sa form, r.cmd.op = .mst md sa form → (r.cmd.heavy = true → (s.byUid r.cmd.uid).isSome = true) →
      let w := g.win r.c md
      exec .matrixCommandPerform s = .next (u.deliver (coreOf s.item r.c) sa ((List.range w.nr).flatMap fun i =>
        (List.range w.nc).flatMap fun j => bytesOf (mstBytes form) (storeElem w.f32w form (g.el w i j)))))) ∧
  (∀ (g : Cluster) (w : Win) (i : Nat), w.f32w = false →
    g.rowSum w i = ((List.range w.nc).map (g.el w i)).sum % 2 ^ 32 ∧ g.colSum w i = ((List.range w.nr).map fun j => g.el w j i).sum % 2 ^ 32) ∧
  (∀ (g : Cluster) (w : Win) (i : Nat) (T : Nat → Nat → Option FVal), w.f32w = true → IsMatTree T →
    ∀ p ∈ ([(w.nc, g.el w i, g.rowSum w i), (w.nr, fun j => g.el w j i, g.colSum w i)] : List (Nat × (Nat → Nat) × Nat)), p.1 ≤ 32 →
      (∀ j, T 0 j = if j < p.1 then some (f32.value (p.2.1 j)) else none) →
      p.2.2 = match T 5 0 with
        | some v => matRound v
        | none => 0) ∧
  (∀ (sb : W64) (x ck : Nat), (resFails false sb x ck = true ↔ sb.toNat % 2 ^ 32 < (signed 32 x).natAbs) ∧
    let tol := sb.toNat % 2 ^ 32
    let rel := sb.toNat / 2 ^ 32
    ((∃ y ∈ [x, ck, tol, rel], f32.isNaN (y % 2 ^ 32) = true) → x < 2 ^ 32 → ck < 2 ^ 32 → resFails true sb x ck = true) ∧
    ((∀ y ∈ [x, ck, tol, rel], (f32.value y).finite = true) →
      (resFails true sb x ck = true ↔ (f32.value tol).rat + (f32.value rel).rat * |(f32.value ck).rat| < |(f32.value x).rat|))) ∧
  (∀ (s : State) (g k u : Nat), (s.cluster g).claims.find k = some u → s.matrixDone g u = true →
    ∃ t, exec (.blockClear g k) s = .next t ∧ (t.cluster g).claims.find k = none ∧ (t.cluster g).sat = NatSet.del (s.cluster g).sat k ∧
      (∀ n, (n / 32 = k → getZero (t.cluster g).cc n = 0 ∧ getZero (t.cluster g).cr n = 0) ∧
        (n / 32 ≠ k → getZero (t.cluster g).cc n = getZero (s.cluster g).cc n ∧ getZero (t.cluster g).cr n = getZero (s.cluster g).cr n)) ∧
      (∀ n, n / 128 / 32 = k / 4 → n % 128 / 32 = k % 4 → getZero (t.cluster g).acc n = 0) ∧
      ∀ n, ¬ (n / 128 / 32 = k / 4 ∧ n % 128 / 32 = k % 4) → getZero (t.cluster g).acc n = getZero (s.cluster g).acc n)

/-- R188, R189, R267, R384, R385, R388. The arbiter accepts the head of the first core in rotation that is pending and has credit, or, when none
has, gives all their weights again, also when no core is pending; every `mma` at the head of a queue that has no token asks for one; tokens are
granted in the order of the requests, where one that cannot be admitted waits without holding back a later one, and go back after 256 idle
cycles, which only an `mma` of the launch, queued or accepted, or a reservation interrupts (a launch whose record is written has no `POWER` any
more and is admitted under the cap alone: log 110, the model's choice); after a droop alarm the layer's next cycles are stretched to two each,
then every second one issues, and then all is as before. -/
def Obligations.ArbiterEvents : Prop :=
  (∀ (s : State) (c : Nat) (cr : Vector Nat 8) (m : MCmd),
    let g := s.cluster s.item
    let pending := fun c => (s.pendingHead s.item c).isSome
    g.running = none → g.preempt = false → g.failed = false → g.testing = none → nextCore pending g = some (c, cr) →
    s.pendingHead s.item c = some m →
    exec .nextCore s = .next ((({ s with powerReqs := s.powerReqs ++ (s.askTokens s.item).dedup } : State).modCore (coreOf s.item c) fun k =>
      { k with mq := k.mq.tail }).modCluster s.item fun g =>
        { g with running := some ⟨c, m, 0, none⟩, last := c, credit := cr.setIfInBounds c ((cr[c]?).getD 0 - 1), quiet := none,
                 admitted := if m.op.isMma && (g.admitted.find m.launch).isSome then g.admitted.put m.launch 0 else g.admitted,
                 users := if m.heavy then (m.uid :: g.users).dedup else g.users })) ∧
  (∀ s : State,
    let g := s.cluster s.item
    g.running = none → g.preempt = false → g.failed = false → g.testing = none → (∀ c, c < 8 → s.pendingHead s.item c = none) →
    (s.askTokens s.item ≠ [] ∨ g.credit ≠ g.wgt) →
    exec .nextCore s = .next (({ s with powerReqs := s.powerReqs ++ (s.askTokens s.item).dedup } : State).modCluster s.item fun g =>
      { g with credit := g.wgt })) ∧
  (∀ (s : State) (n : Nat) (r : PowerReq), r ∈ s.askTokens n ↔ r ∉ s.powerReqs ∧ ∃ c m, c < 8 ∧ (s.core (coreOf n c)).mq.head? = some m ∧
    m.op.isMma = true ∧ (s.cluster n).admitted.find m.launch = none ∧ r = ⟨m.launch, n, none⟩) ∧
  (∀ (pending : Nat → Bool) (g : Cluster) (i : Nat), i < 8 →
    let at' := fun (j : Nat) => (g.last + 1 + j) % 8
    let may := fun (v : Vector Nat 8) (j : Nat) => pending (at' j) = true ∧ (v[at' j]?).getD 0 ≠ 0
    (may g.credit i → (∀ j, j < i → ¬ may g.credit j) → nextCore pending g = some (at' i, g.credit)) ∧
    ((∀ j, j < 8 → ¬ may g.credit j) → may g.wgt i → (∀ j, j < i → ¬ may g.wgt j) → nextCore pending g = some (at' i, g.wgt))) ∧
  (∀ (s : State) (r : PowerReq) (l m : List PowerReq), s.powerReqs = l ++ r :: m → r.g / 21 = s.item →
    (∀ x ∈ l, x.g / 21 = s.item → x.acc = none ∧ s.admits x.launch x.g = false) →
    let rest : State := { s with powerReqs := l ++ m }
    (r.acc = none → s.admits r.launch r.g = true → exec .powerTokenAdmit s = .next (rest.admitNow r.launch r.g)) ∧
    (∀ n, r.acc = some n → exec .powerTokenAdmit s = .next
      ((if s.admits r.launch r.g then rest.admitNow r.launch r.g else rest).answerPwreq n (s.admits r.launch r.g)))) ∧
  (∀ (s : State) (l g : Nat), s.admits l g = true ↔ (s.cluster g).admitted.find l ≠ none ∨
    (s.launches.find l = none ∨ s.admittedOn l (g / 21) < s.powerOf l) ∧
      ((s.cluster g).token = true ∨ s.tokens (g / 21) < (s.layer (g / 21)).cap)) ∧
  (∀ (s : State) (l g v : Nat), (s.cluster g).admitted.find l = some v → v ≠ 0 → s.needsToken l g = false →
    v + 256 ≤ (s.layer (g / 21)).cycles + 1 →
    exec (.powerTokenReturn l g) s = .next (s.modCluster g fun x => { x with admitted := Map.del x.admitted l })) ∧
  (∀ s : State, s.item < 16 →
    (∀ cap, cap ≤ 21 → exec (.capChange s.item cap) s = .next (s.modLayer s.item fun y => { y with cap := cap })) ∧
    exec .droopAlarm s = .next (s.modLayer s.item fun y => { y with alarm := some (y.drStretch, y.drHalve) }) ∧
    (∀ b n, (s.layer s.item).droop = .stretch 0 b n → exec .stretchEnd s = .next (s.modLayer s.item fun y => { y with droop := .halved 0 n })) ∧
    (∀ n, (s.layer s.item).droop = .halved n 0 → exec .halvedIssueEnd s = .next (s.modLayer s.item fun y => { y with droop := .normal }))) ∧
  (∀ (s : State) (l : Nat), l < 16 →
    let y := s.layer l
    let z := s.tick.layer l
    (∀ n h, y.droop = .stretch (n + 1) false h → z = { y with droop := .stretch (n + 1) true h }) ∧
    ((∀ n h, y.droop ≠ .stretch (n + 1) false h) → z.cycles = y.cycles + 1 ∧ z.alarm = none ∧
      (∀ n h, y.alarm = some (n, h) → z.droop = .stretch n false h) ∧
      (y.alarm = none → (∀ n h, y.droop = .stretch (n + 1) true h → z.droop = .stretch n false h) ∧
        (∀ r n, y.droop = .halved r (n + 1) → z.droop = .halved (r + 1) n) ∧ (y.droop = .normal → z.droop = .normal)))) ∧
  ∀ y : Layer, (y.droop = .normal → y.issues = true) ∧ (∀ n b h, y.droop = .stretch (n + 1) b h → y.issues = true) ∧
    ∀ r n, y.droop = .halved r (n + 1) → (y.issues = true ↔ r % 2 = 0)

/-! ## Failures, tests, power, reset (R288, R339, R340, R355, R363, R369, R370, R376 to R381, R387) -/

/-- R339, R340, R355, R376 to R379. A unit that fails is out of service: a core; a cluster, whose tile entries another takes over,
as they stand but for the pins of lost copies; a layer with its clusters; a port, for which nothing is held any more and whose unsent packets
wait for a route with their credits given back; a firmware core, which leads no more, and with a leader the launches that it had not placed.
A leader's test pre-empts a cluster that is overdue, or where none of the layer is, one that has been quiet, or where none is, any; no time passes
while a test is due or has lasted 1.5 ms. A pass raises the epoch and empties the log; a fail taints the epoch, fences the cluster and keeps a
taint record and the versions before those of the record. The model's readings (log 48, DEDUCED, log 90 and log 92): the unit that a failed
cluster is named by, the duty to test only while a leader acts, and what a failed leader loses. -/
def Obligations.FailureEvents : Prop :=
  ∀ s : State,
    (validCid s.item = true → (s.core s.item).failed = false → ∃ t, exec .coreFailure s = .next t ∧
      t = s.failCore s.item (s.gid s.item) (some (1, s.item)) ∧ (t.core s.item).failed = true ∧ t.mem = s.mem) ∧
    (s.item < 336 → (s.cluster s.item).failed = false → ∃ t, exec .matrixClusterFailure s = .next t ∧
      (t.cluster s.item).failed = true ∧ (t.cluster s.item).running = none ∧ (t.cluster s.item).claims = [] ∧
      ∀ id y, s.tiles.find id = some y → ∃ z, t.tiles.find id = some z ∧ z.cur = y.cur ∧ z.size = y.size ∧ z.tenant = y.tenant ∧
        z.pulling = y.pulling ∧ z.heldC = y.heldC ∧ z.cluster ≠ s.item ∧ (y.cluster ≠ s.item → z.cluster = y.cluster) ∧
        ((∀ p ∈ y.pins, ∀ x ∈ s.copies, x.id ≠ p.2) → z = { y with cluster := z.cluster })) ∧
    (s.item < 16 → (s.layer s.item).failed = false → ∃ t, exec .layerFailure s = .next t ∧ (t.layer s.item).failed = true ∧
      ∀ k, k < 21 → (t.cluster (21 * s.item + k)).failed = true) ∧
    (s.item < 16 → s.fab.up.contains s.item = true → ∃ t, exec .portFailure s = .next t ∧ t.fab.up = NatSet.del s.fab.up s.item ∧
      t.fab.portFail = NatSet.add s.fab.portFail s.item ∧
      (∀ h, h ∈ t.fab.basin ↔ h ∈ s.fab.basin ∧ meetPlane s.pkg h.pkt.dst ≠ s.item) ∧
      let unsent := fun (k : Kept) => k.route.waitsOn s.pkg k.pkt s.item s.podTime
      ((∀ p ∈ s.ctxs, p.2.heavy = false) → t.fab.kept = s.fab.kept.map (fun k => if unsent k then { k with route := .waiting } else k) ∧
        ∀ m, t.fab.credit.getD m 0 = s.fab.credit.getD m 0 - ((s.fab.kept.filter unsent).map fun k => match k.route with
          | .relay x _ _ => if x = m then k.pkt.len + 1 else 0
          | _ => 0).sum)) ∧
    (s.item < 18 → s.fw.failedFw.contains s.item = false → ∃ t, exec .firmwareCoreFailure s = .next t ∧
      t.fw.failedFw = NatSet.add s.fw.failedFw s.item ∧ (s.fw.leader = s.item → s.fw.vacant = false → t.fw.stopped = true) ∧
      (s.fw.leader = s.item → s.fw.vacant = false →
        t.launches = s.launches.filter fun p => p.2.phase != .accepted || p.2.guest.isSome) ∧
      (s.fw.leader ≠ s.item → t.fw.stopped = s.fw.stopped ∧ t.launches = s.launches)) ∧
    (let x := s.cluster s.item
     let late := fun (g : Nat) => (s.cluster g).passAt + 540000 * 3000000 ≤ s.time
     let quiet := fun (g : Nat) => ∃ v, (s.cluster g).quiet = some v ∧ v + 150000 ≤ s.time
     (s.item < 336 → x.failed = false → x.testing = none → s.fw.leads s.time = true → x.stoppable = true →
       (∀ p ∈ s.clusters, p.1 / 21 = s.item / 21 → p.2.testing = none) →
       (late s.item ∨ (∀ g, g / 21 = s.item / 21 → ¬ late g) ∧ (quiet s.item ∨ ∀ g, g / 21 = s.item / 21 → ¬ quiet g)) →
       (∃ t, exec .scanTest s = .next t ∧ (t.cluster s.item).testing = some x.preempt ∧ (t.cluster s.item).preempt = true ∧
         (t.cluster s.item).testAt = s.time) ∧ (late s.item → s.pass = s)) ∧
     (x.testing.isSome = true → x.testAt + 4500000 ≤ s.time → s.pass = s) ∧
     (∀ was, x.testing = some was → ∃ t, exec .scanPass s = .next t ∧ (t.cluster s.item).epoch = (x.epoch + 1) % 2 ^ 32 ∧
       (t.cluster s.item).log = [] ∧ (t.cluster s.item).testing = none ∧ (t.cluster s.item).acc = x.acc ∧
       (was = false → (t.cluster s.item).preempt = false)) ∧
     (x.testing.isSome = true → ∃ t, exec .scanFail s = .next t ∧ (t.cluster s.item).fenced = true ∧ (t.cluster s.item).failed = true ∧
       x.epoch ∈ (t.cluster s.item).tainted ∧
       (∀ e ∈ x.log, ∀ y, s.tiles.find e.tile = some y → ∃ z, t.tiles.find e.tile = some z ∧ e.ver - 1 ∈ z.tainted) ∧
       t.fw.taints.getLast? = some { cluster := s.item, epoch := x.epoch, tfence := s.time / 3, entries := x.log, overflow := x.overflow }))

/-- R288, R339, R363, R369, R370, R378, R381, R387. A scrub reads a word of this package's memory, and carries its pass on when it is the pass's
next word; no time passes while a pass has lasted 12 hours. A bank that has needed many corrections gets the strong code, line by line from its
start; a core that has been idle for 10 µs is gated, and an arrival wakes it; a core that is reset, unless its cluster is fenced, is as at reset;
a package reset keeps memory and fences and starts a staged image that is marked and valid; and the leader keeps its lease by renewing it, loses
it after 1 ms, and is replaced after 3 ms in a new term by one that enters the journalled launches again. The model's readings: memory is
kept over a package reset (log 53, DEDUCED); the lines of near DRAM go round the banks (log 24, DESIGN CHOICE); a core that is reset with work
loses it (log 52, DEDUCED); the times of the leadership (log 68, DEDUCED); and the order of a pass (log 90, DEDUCED). -/
def Obligations.ServiceEvents : Prop :=
  ∀ s : State,
    (let pa := s.item / 8 * 8
     let p := s.fw.scrubPos
     let next := s.pkg * 2 ^ 47 + (if p < 2 ^ 36 then 8 * p else 2 ^ 45 + 8 * (p - 2 ^ 36))
     let u := s.arrayRead pa 8
     s.ownsByte pa = true →
       (pa ≠ next → exec .scrub s = .next u) ∧
       (pa = next → ∃ t, exec .scrub s = .next t ∧ t.mem = u.mem ∧
         (p + 1 < 2 ^ 36 + s.cfg.farSize / 8 → t.fw.scrubPos = p + 1 ∧ t.fw.scrubFrom = s.fw.scrubFrom) ∧
         (2 ^ 36 + s.cfg.farSize / 8 ≤ p + 1 → t.fw.scrubPos = 0 ∧ t.fw.scrubFrom = s.time))) ∧
    (s.fw.scrubFrom + 12 * hour ≤ s.time → s.pass = s) ∧
    (s.item < 2048 → s.fw.strong.find s.item = none → sixteenInHour (s.fw.corrections.getD s.item []) = true →
      exec .strongCodeSwitch s = .next { s with fw := { s.fw with strong := s.fw.strong.put s.item 0 } }) ∧
    (∀ n, s.fw.strong.find s.item = some n → n < 2 ^ 21 →
      exec .strongCodeSwitch s = .next { s with fw := { s.fw with strong := s.fw.strong.put s.item (n + 1) } }) ∧
    (∀ t, validCid s.item = true → (s.core s.item).gated = false → (s.core s.item).failed = false → s.coreIdle s.item = true →
      s.arrivalAt s.item = false → (s.core s.item).idleSince = some t → t + 30000 ≤ s.time →
      exec .coreGate s = .next (s.modCore s.item fun k => { k with gated := true })) ∧
    ((s.core s.item).gated = true → s.arrivalAt s.item = true → exec .coreWake s = .next
      (((s.modCore s.item fun k => { k with gated := false, idleSince := none }).admitPushes s.item).drainCopies)) ∧
    (validCid s.item = true → (s.cluster (clusterOf s.item)).fenced = false →
      ∃ t, exec .coreReset s = .next t ∧ t.core s.item = { Core.reset with born := s.cyclesOf s.item }) ∧
    (∃ t, exec .packageReset s = .next t ∧ t.mem = (s.slices.foldl (fun u l => u.dropSliceLine l.line) s).mem ∧ t.podTime = s.podTime ∧
      t.ctxs = [] ∧ t.launches = [] ∧ t.nets = [] ∧ t.time = 0 ∧
      ((∀ p ∈ s.clusters, p.2.fenced = false) → t.cores = [] ∧ t.clusters = []) ∧
      (∀ p ∈ s.clusters, p.2.fenced = true → (t.cluster p.1).fenced = true ∧ (t.cluster p.1).failed = true ∧
        ∀ i, i < 8 → t.core (coreOf p.1 i) = { Core.reset with failed := true }) ∧
      t.own = State.reset.own ∧ s.fw.minSvn ≤ t.fw.minSvn ∧
      ∀ i, s.fw.staged = some i → s.fw.activate = true →
        t.fw.staged = none ∧ t.fw.running = if s.fw.valid i then some i else s.fw.running) ∧
    (s.fw.vacant = false → s.fw.stopped = false → s.time < s.fw.renewed + 3000000 → s.fw.renewed + 750000 ≤ s.time →
      exec .leaseRenewal s = .next { s with fw := { s.fw with renewed := s.time } }) ∧
    (s.fw.vacant = false → s.fw.renewed + 3000000 ≤ s.time + 5 →
      exec .leaderStop s = .next { s with fw := { s.fw with stopped := true, vacant := true } }) ∧
    (s.item < 18 → s.fw.failedFw.contains s.item = false → s.fw.renewed + 9000000 ≤ s.time → ∃ t, exec .leaderTakeover s = .next t ∧
      t.fw.leader = s.item ∧ t.fw.vacant = false ∧ t.fw.stopped = false ∧ t.fw.term = (s.fw.term + 1) % 2 ^ 32 ∧ t.fw.renewed = s.time ∧
      (∀ n y, s.streams.find n = some y → ∃ z, t.streams.find n = some z ∧ z.awake = y.en ∧ z.next = y.next) ∧
      ∀ q seq n slot b, .accept q seq n slot b ∈ s.fw.journal → s.launches.find n = none → s.fw.recorded n = false →
        ∃ x, t.launches.find n = some x ∧ x.phase = .accepted)

/-! ## Device registers, ownership, the host (R171, R194, R287, R289, R306, R309 to R312, R316, R351, R353, R356, R358, R361, R362, R365, R366) -/

/-- R171, R287, R289, R309, R316, R356, R362, R366. What the device registers read after a write of `v`: reserved bits read 0, and bounded fields
are clamped. -/
def Obligations.RegisterValues : Prop :=
  ∀ (s : State) (w : Writer) (v : W64) (q t g c : Nat), q < 16 → t < 256 → g < 336 → validCid c = true →
    let x := v.toNat
    let lim := fun (lo hi n : Nat) => max lo (min hi n)
    (∀ p ∈ ([(0x1020, lim 100 60000 (x % 2 ^ 16)), (0x10030 + 64 * q, x % 2 ^ 16),
        (0x11000 + 16 * t, x % 2 ^ 18 + min (x / 2 ^ 18 % 2 ^ 11) 1024 * 2 ^ 18 + max (x / 2 ^ 29 % 2 ^ 4) 1 * 2 ^ 29 + x / 2 ^ 33 % 2 * 2 ^ 33),
        (0x12020, x / 2 ^ 16 % 2 ^ 40 * 2 ^ 16 + x % 2), (0x12030, x % 2 ^ 20), (0x12040, x / 2 ^ 16 % 2 ^ 41 * 2 ^ 16),
        (0x13010, min (x % 2 ^ 13) 8000), (0x13018, max (x % 2 ^ 4) 1), (0x13020, max (x % 2 ^ 16) 16500),
        (0x13028, lim 10 1000000 (x % 2 ^ 20)), (0x13030, x % 2 ^ 9 + x / 2 ^ 15 % 2 * 2 ^ 15), (0x13048, x % 4),
        (0x14000 + 8 * q, lim 1 256 (x % 2 ^ 9) + lim 1 1000 (x / 2 ^ 16 % 2 ^ 10) * 2 ^ 16 + (s.stream q).unsig % 2 ^ 32 * 2 ^ 32),
        (0x1000000 + 64 * g, ((List.range 8).map fun i => max 1 (x / 2 ^ (4 * i) % 16) * 2 ^ (4 * i)).sum),
        (0x2000008 + 64 * c, x % 2 ^ 5 + x / 2 ^ 8 % 2 * 2 ^ 8)] : List (Nat × Nat)),
      (s.writeReg w p.1 x).readReg p.1 = p.2) ∧
    ((s.stream q).en = false → ∀ p ∈ ([(0x10000 + 64 * q, x / 2 ^ 6 % 2 ^ 50 * 2 ^ 6), (0x10020 + 64 * q, x / 2 ^ 6 % 2 ^ 50 * 2 ^ 6),
        (0x10028 + 64 * q, min (x % 16) 12)] : List (Nat × Nat)), (s.writeReg w p.1 x).readReg p.1 = p.2)

/-- R171, R194, R289, R306, R309, R353, R365. A master that is not the owner changes nothing but the count of denied writes, outside a claim or
taking and its own mailbox. For a core, and for the owner, the register rows of the table have their effect: a doorbell wakes its
stream, enabling a stream starts it at sequence number 0, an invalidation is busy until it completes, a partition that is too large or
meets claims is refused, a pool base moves only without leases. A write that makes the pod manager the owner anew notes its package, which the
step's item tells (log 51, DESIGN CHOICE); the owner's own writes do so only where it has an offer to itself, which `OWNGIVE` never makes. -/
def Obligations.RegisterEvents : Prop :=
  (∀ (s : State) (m : Master) (off : Nat) (v : W64), s.own.owner ≠ masterNum m → off % 8 = 0 → off ≠ 0x1008 → off ≠ 0x1018 →
    (off < mailboxAt m ∨ mailboxAt m + 0x400 ≤ off) →
    exec (.registerWrite (.master m) off v) s = .next { s with own := { s.own with denied := min (s.own.denied + 1) 0xFFFF } }) ∧
  (∀ (s : State) (w : Writer), (∀ off, s.mayWrite w off = true) → ∀ (off q g n : Nat) (v : W64), q < 16 → g < 336 → n < 512 →
    (let t := s.writeReg w (off / 8 * 8) v.toNat
     let anew := t.own.owner = 3 ∧ t.own.gen ≠ s.own.gen
     (¬ anew → exec (.registerWrite w off v) s = .next t) ∧
     (anew → exec (.registerWrite w off v) s = .next { t with own := { t.own with podPkg := s.item % 512 } }) ∧
     (s.own.pend = 0 ∨ s.own.pend ≠ s.own.owner → ¬ anew)) ∧
    exec (.cqdoor w q) s = .next (s.modStream q fun x => { x with awake := true }) ∧
    (v.getLsbD 4 = true → ∃ t, exec (.cqEnable w q v) s = .next t ∧ (t.stream q).en = true ∧
      ((s.stream q).en = false → (t.stream q).next = 0 ∧ (t.stream q).awake = true ∧ (t.stream q).log = min (v.toNat % 16) 12) ∧
      ((s.stream q).en = true → (t.stream q).next = (s.stream q).next ∧ (t.stream q).log = (s.stream q).log)) ∧
    (v.getLsbD 4 = false → ∃ t, exec (.cqDisable w q v) s = .next t ∧ (t.stream q).en = false) ∧
    (s.cfg.busy = none → ∃ t, exec (.xlinv w v) s = .next t ∧ t.cfg.busy = some (v.toNat % 2 ^ 19) ∧
      ∀ l y k e, s.layers.find l = some y → e ∈ (t.layer l).stations.getD k [] → e ∈ y.stations.getD k [] ∧
        ¬ ((v.getLsbD 16 = true ∨ e.pid = v.toNat % 2 ^ 16) ∧ (v.getLsbD 17 = true ∨ e.vpage = s.cfg.xlva / 2 ^ e.pbits))) ∧
    (s.cfg.busy.isSome = true → exec (.xlinv w v) s = .next s ∧ exec .xlinvComplete s = .next { s with cfg := { s.cfg with busy := none } }) ∧
    (∃ t, exec (.mxpart w g v) s = .next t ∧
      let sum := ((List.range 8).map fun i => v.toNat / 2 ^ (4 * i) % 16).sum
      (sum ≤ 64 ∧ (s.cluster g).claims = [] → ∀ i, i < 8 → ((t.cluster g).part[i]?).getD 0 = v.toNat / 2 ^ (4 * i) % 16) ∧
      (64 < sum ∨ (s.cluster g).claims ≠ [] → (t.cluster g).rej = true ∧ (t.cluster g).part = (s.cluster g).part)) ∧
    (∃ t, exec (.preempt w g) s = .next t ∧ (t.cluster g).preempt = true ∧ (t.cluster g).running = (s.cluster g).running ∧
      ((s.cluster g).preempt = false → (t.cluster g).admitted = [])) ∧
    (∃ t, exec (.resume w g) s = .next t ∧ (t.cluster g).preempt = false ∧ (t.cluster g).running = (s.cluster g).running) ∧
    (∀ c, validCid c = true → ∃ t, exec (.lmpool w c v) s = .next t ∧
      let b := v.toNat / 2 ^ 8 % 2 ^ 11
      (b ≤ 0x7E0 → (s.core c).leases = [] → (t.core c).poolBase = b) ∧
      (b ≠ (s.core c).poolBase → 0x7E0 < b ∨ (s.core c).leases ≠ [] →
        (t.core c).poolBase = (s.core c).poolBase ∧ (t.core c).poolRej = true)) ∧
    exec (.injArm v) s = .next (s.writeInjctl (v.toNat % 8) (v.getLsbD 3)) ∧
    (v.getLsbD 2 = true → v.getLsbD 3 = false → ∃ t, exec (.twbankArm w v) s = .next t ∧ t.fab.arm = true ∧
      t.fab.armCycle = v.toNat / 2 ^ 16 % 2 ^ 32 ∧ t.fab.next = v.getLsbD 1 ∧ t.fab.cur = s.fab.cur) ∧
    (s.fab.oldLive = true → ∃ t, exec (.retire w) s = .next t ∧ t.fab.cur = s.fab.cur ∧
      (s.fab.counted (!s.fab.cur) = 0 → t.fab.oldLive = false ∧ (if s.fab.cur then t.fab.validA else t.fab.validB) = false) ∧
      (s.fab.counted (!s.fab.cur) ≠ 0 → t.fab.oldLive = true ∧ t.fab.rej = true)) ∧
    (∀ b : Bool, ∃ t, exec (.relayBankWrite w b n v) s = .next t ∧
      (b = s.fab.cur ∨ s.fab.oldLive = true → t.fab = { s.fab with rej := true }) ∧
      (b ≠ s.fab.cur → s.fab.oldLive = false →
        ((t.fab.bankOf b).getD n 0).toNat = v.toNat % 2 + v.toNat / 2 ^ 16 % 2 ^ 16 * 2 ^ 16)))

/-- R353, R366. A claim takes a package that nobody owns; the owner releases it or offers it, and the master to which it is offered takes it
within 100 ms, after which the offer lapses; each change raises `GEN`, and one to the pod manager notes its package, which the step's item
tells (log 51, DESIGN CHOICE). An owner that has been lost for `OWNTO` loses the package. An armed switch of banks takes place at its cycle. -/
def Obligations.OwnerEvents : Prop :=
  (∀ (s : State) (m : Master) (t : BitVec 2),
    let got := let u := s.setOwner (masterNum m)
      if masterNum m = 3 then { u with own := { u.own with podPkg := s.item % 512 } } else u
    exec (.ownclaim m) s = .next (if s.own.owner = 0 then got else s) ∧
    (s.own.owner = masterNum m → exec (.owngive m t) s = .next (if t = 0 then s.setOwner 0 else if t.toNat = masterNum m then s
      else { s with own := { s.own with pend := t.toNat, pendSince := s.time } })) ∧
    (s.own.owner ≠ masterNum m → exec (.owngive m t) s = .next s.deny) ∧
    exec (.owntake m) s = .next (if s.own.pend = masterNum m ∧ s.time ≤ s.own.pendSince + 300000000 then got else s)) ∧
  (∀ (s : State) (o : Nat), (s.setOwner o).own = { s.own with owner := o, pend := 0, gen := (s.own.gen + 1) % 2 ^ 32, lostSince := none }) ∧
  (∀ s : State,
    (s.own.pend ≠ 0 → s.own.pendSince + 300000000 < s.time →
      exec .handoverTimeout s = .next { s with own := { s.own with pend := 0 } }) ∧
    (∀ t, s.own.lostSince = some t → s.ownerLost = true → t + 3000000 * s.own.timeout ≤ s.time → exec .ownerLoss s = .next (s.setOwner 0)) ∧
    (s.own.hostUp = true → ∃ t, exec .hostLinkDown s = .next t ∧ t.own.hostUp = false ∧
      (s.own.owner = 1 → t.own.lostSince = some (s.own.lostSince.getD s.time))) ∧
    (∃ t, exec .hostLinkTraining s = .next t ∧ t.own.hostUp = true ∧ (s.own.owner = 1 → t.own.lostSince = none)) ∧
    (∀ b, ∃ t, exec (.sidebandHeartbeat b) s = .next t ∧ t.own.heartbeat = b ∧
      (s.own.owner = 2 → t.own.lostSince = if b then none else some (s.own.lostSince.getD s.time))) ∧
    (s.fab.arm = true → s.cycleAhead = false → s.fab.armSlot < s.podTime / 250 → ∃ t, exec .bankSwitch s = .next t ∧
      t.fab = { s.fab with cur := s.fab.next, oldLive := true, arm := false }))

/-- R309 to R312, R315, R338, R358, R362, R365. While a leader acts, a launch packet that is acceptable and passes its checks is accepted
under the stream's next sequence number and entered in both copies of the journal; one that fails is answered with its check's number; net
records are installed and dropped. A stream without an acceptable packet waits for its doorbell or 1 µs. The host reads and writes registers
and memory through its windows; writes of memory, and an unmask, are for the owner only, and reads of memory for any master (R365). The
model's readings: how a record is read, and what further defects make it invalid (log 44, DEDUCED), and that nothing is accepted without a
leader (log 68, DEDUCED). -/
def Obligations.HostEvents : Prop :=
  (∀ (s u : State) (c : Command), s.item < 16 → (s.stream s.item).en = true → (s.stream s.item).awake = true → s.fw.leads s.time = true →
    s.acceptable s.item = (u, some c) →
    (c.kind = 0 → u.checkCommand s.item c = 0 → (∀ p ∈ u.launches, p.1 < u.nextLaunch) →
      ∃ t x, exec .launch s = .next t ∧ t.launches.find u.nextLaunch = some x ∧ x.phase = .accepted ∧ x.stream = s.item ∧
        x.seq = (u.stream s.item).next ∧ x.net = c.net ∧ x.tenant = c.tenant ∧ x.prio = c.prio ∧ x.handler = c.handler ∧
        x.payload = c.payload ∧ x.deps = u.depsOf s.item x.seq c ∧ (t.stream s.item).next = (x.seq + 1) % 2 ^ 64 ∧
        t.nextLaunch = u.nextLaunch + 1 ∧ x.slot = (u.stream s.item).slotAddr ∧
        .accept s.item x.seq u.nextLaunch x.slot c.packet ∈ t.fw.journal ∧ .accept s.item x.seq u.nextLaunch x.slot c.packet ∈ t.fw.mirror) ∧
    (∀ p ∈ [(Instr.launch, 0), (.launch, 3), (.netSet, 1), (.netDrop, 2)], c.kind = p.2 → u.checkCommand s.item c ≠ 0 →
      exec p.1 s = .next (u.acceptCommand s.item c (u.checkCommand s.item c))) ∧
    (c.kind = 2 → u.checkCommand s.item c = 0 → exec .netDrop s = .next
      (if u.netLive c.net then u.acceptCommand s.item c 5 else ({ u with nets := Map.del u.nets c.net } : State).acceptCommand s.item c 0)) ∧
    (∀ w b, c.kind = 1 → u.checkCommand s.item c = 0 → u.netLive c.net = false → c.net ≠ 0 →
      let word := fun i => ofBytes c.payload / 2 ^ (64 * i) % 2 ^ 64
      State.tenantRead c.tenant 3 u (word 0) 512 = (w, some b) →
      (recordBad b (w.tenant c.tenant).supok = true → exec .netSet s = .next (w.acceptCommand s.item c 5)) ∧
      (∀ z, recordBad b (w.tenant c.tenant).supok = false → w.installNet c.net (netOf b c.tenant (word 1) (word 2)) = some z →
        exec .netSet s = .next (z.acceptCommand s.item c 0)))) ∧
  (∀ s : State, s.item < 16 → (s.stream s.item).en = true →
    (∀ u, (s.stream s.item).awake = true → s.acceptable s.item = (u, none) →
      exec .streamPoll s = .next (u.modStream s.item fun y => { y with awake := false, tested := u.time })) ∧
    ((s.stream s.item).awake = false → (s.stream s.item).tested + 3000 ≤ s.time →
      exec .streamPoll s = .next (s.modStream s.item fun y => { y with awake := true }))) ∧
  (∀ s : State, s.item < 16 → (s.stream s.item).unsig ≠ 0 → (s.stream s.item).icDue ≤ s.time →
    (s.host.masked s.item = false → exec .icoalHoldoff s = .next ((s.signal s.item).modStream s.item fun y => { y with unsig := 0 })) ∧
    (s.host.masked s.item = true → s.host.pending.contains s.item = false → exec .icoalHoldoff s = .next (s.signal s.item))) ∧
  (∀ s : State, s.item < 64 → s.host.masked s.item = true → s.own.owner = 1 → s.host.msix.wf = true →
    ∃ t, exec .msixUnmask s = .next t ∧ t.host.masked s.item = false ∧
      (s.host.pending.contains s.item = true → t.host.pending.contains s.item = false)) ∧
  (∀ (s : State) (bar off n : Nat) (l : List Byte), s.own.hostUp = true →
    (off + n ≤ 2 ^ 26 → exec (.hostRead 0 off n) s = .next { s with host := { s.host with read := s.readRegBytes off n, readPoison := false } }) ∧
    (off + l.length ≤ 2 ^ 26 → exec (.hostWrite 0 off l) s = .next (State.writeRegBytes (.master .host) (l.length + 1) s off l)) ∧
    (bar = 2 ∧ off + n ≤ 2 ^ 39 ∨ bar = 4 ∧ off + n ≤ min (2 ^ 42) s.cfg.farSize →
      let pa := s.pkg * 2 ^ 47 + (if bar = 2 then 0 else 2 ^ 45) + off
      let u := (linesOf pa n).foldl (fun (u : State) x => u.writeBack (u.home (128 * x)) x) s
      let r := State.sReadBytes (n + 1) u pa n
      exec (.hostRead bar off n) s = .next { r.1 with host := { r.1.host with read := r.2.1, readPoison := r.2.2.isSome } }) ∧
    (bar = 2 ∧ off + l.length ≤ 2 ^ 39 ∨ bar = 4 ∧ off + l.length ≤ min (2 ^ 42) s.cfg.farSize →
      let pa := s.pkg * 2 ^ 47 + (if bar = 2 then 0 else 2 ^ 45) + off
      let u := (linesOf pa l.length).foldl (fun (u : State) x => u.flushLine (u.home (128 * x)) x) s
      exec (.hostWrite bar off l) s = .next (if s.own.owner = 1 then State.sWriteBytes (l.length + 1) u pa l else s)))

/-- R364, R367, R370, R378 to R383. A mailbox command of version 1 with enough bytes is answered by the leader: a command of another version,
whatever else it says, with status 2, one of an unassigned code or a wrong length with status 1, one that only the owner may give with status
3 for any other master, an attestation or abort with status 4 while another master's is in progress, and else with its own answer; an image is
staged only when it is valid, and an aborted launch is answered after its record. A fenced cluster that is reset returns only when its scan
passes. The model's choices: the layout of `OWNQ`'s answer, the least lengths, the length bound 256 and the unit and index that the step's
item tells (log 51, DESIGN CHOICE and DEDUCED), when `BUSY` is answered (log 68, DEDUCED), and that a core that is reset loses its work, and
keeps a fence of its cluster (log 52, DEDUCED). -/
def Obligations.MailboxEvents : Prop :=
  ∀ (s : State) (m : Master),
    let req := (s.box m).req
    let num := fun (i n : Nat) => req.readN i n
    (∀ p ∈ [(Instr.info m, 0, 8), (.ownq m, 1, 8), (.attest m, 2, 49), (.fwstage m, 3, 24), (.fwact m, 4, 8), (.unitrst m, 5, 8), (.testst m, 6, 12),
        (.logrd m, 7, 8), (.abort m, 8, 24)], (s.box m).go = true → s.fw.leads s.time = true → (s.box m).working = none → num 0 8 % 2 ^ 8 = p.2.1 →
      (num 0 8 / 2 ^ 8 % 2 ^ 4 ≠ 1 → exec p.1 s = .next (s.reply m 1 ⟨2, []⟩)) ∧
      (num 0 8 / 2 ^ 8 % 2 ^ 4 = 1 → num 0 8 / 2 ^ 16 % 2 ^ 16 < p.2.2 ∨ 256 < num 0 8 / 2 ^ 16 % 2 ^ 16 →
        exec p.1 s = .next (s.reply m 1 ⟨1, []⟩))) ∧
    ((s.box m).go = true → s.fw.leads s.time = true → (s.box m).working = none → 8 < num 0 8 % 2 ^ 8 →
      exec (.info m) s = .next (s.reply m 1 ⟨if num 0 8 / 2 ^ 8 % 2 ^ 4 = 1 then 1 else 2, []⟩)) ∧
    (∀ p ∈ [(Instr.fwstage m, 3, 24), (.fwact m, 4, 8), (.unitrst m, 5, 8), (.abort m, 8, 24)], s.asked m p.2.1 p.2.2 →
      s.own.owner ≠ masterNum m → exec p.1 s = .next (s.reply m 1 ⟨3, []⟩)) ∧
    (s.asked m 0 8 → exec (.info m) s = .next (s.reply m 1 ⟨0, Config.infoPage (s.readDevid 0) (s.readDevid 8) (s.readDevid 16)
      (Config.imageVersion (match s.fw.running with
        | some i => i.digest
        | none => Config.bootDigest))⟩)) ∧
    (s.asked m 1 8 → exec (.ownq m) s = .next (s.reply m 1 ⟨0, bytesOf 8 (s.own.owner + s.own.pend * 2 ^ 2 +
      s.own.denied % 2 ^ 16 * 2 ^ 16 + s.own.gen % 2 ^ 32 * 2 ^ 32)⟩)) ∧
    (let e := s.evidence (req.readBytes 8 32)
     let e := e ++ fit 3309 (Config.sign (Config.shake256 e)) ++ (if num 48 1 % 2 = 1 then Config.certificates else [])
     (s.asked m 2 49 → ((∃ x, x ≠ m ∧ (s.box x).working = some .attesting) → exec (.attest m) s = .next (s.reply m 1 ⟨4, []⟩)) ∧
       ((∀ x, x ≠ m → (s.box x).working ≠ some .attesting) →
         exec (.attest m) s = .next (s.modBox m fun b => { b with working := some .attesting }))) ∧
     ((s.box m).working = some .attesting → s.fw.leads s.time = true →
       (s.firmwareReach (num 40 8) e.length = false ∨ 16384 < e.length → exec (.attest m) s = .next (s.reply m 1 ⟨5, []⟩)) ∧
       (s.firmwareReach (num 40 8) e.length = true → e.length ≤ 16384 →
         (∀ a, num 40 8 / 128 * 128 ≤ a → a < num 40 8 + e.length → s.isPeer a = false) →
         exec (.attest m) s = .next ((State.sWriteBytes (e.length + 1) s (num 40 8) e).reply m 1 ⟨0, bytesOf 8 e.length⟩)))) ∧
    (s.asked m 3 24 → s.own.owner = masterNum m → s.firmwareReach (num 8 8) (num 16 8) = true → 4097 ≤ num 16 8 → num 16 8 ≤ 4096 + 2 ^ 26 →
      (∀ a, num 8 8 / 128 * 128 ≤ a → a < num 8 8 + num 16 8 → s.isPeer a = false) →
      ∀ u b, s.processorRead (num 8 8) (num 16 8) = (u, b) →
        exec (.fwstage m) s = .next (match (imageOf b).filter u.fw.valid with
          | some i => ({ u with fw := { u.fw with staged := some i, activate := false } } : State).reply m 1 ⟨0, []⟩
          | none => u.reply m 1 ⟨5, []⟩)) ∧
    (s.asked m 4 8 → s.own.owner = masterNum m → exec (.fwact m) s = .next
      (if s.fw.staged.isSome then ({ s with fw := { s.fw with activate := true } } : State).reply m 1 ⟨0, []⟩ else s.reply m 1 ⟨5, []⟩)) ∧
    (s.asked m 5 8 → s.own.owner = masterNum m → validCid s.item = true → exec (.unitrst m) s = .next
      (if (s.cluster (clusterOf s.item)).failed then s.reply m 1 ⟨5, []⟩ else (s.resetCore s.item).reply m 1 ⟨0, []⟩)) ∧
    (∀ g, g < 336 → s.item = 4096 + g → s.asked m 5 8 → s.own.owner = masterNum m →
      ((s.cluster g).fenced = false ∨ (s.cluster g).failed = true ∧ Config.scanPasses s.frees = true →
        ∃ (t : State) (u : Cluster), exec (.unitrst m) s = .next (t.reply m 1 ⟨0, []⟩) ∧ t.cluster g = u ∧
          u.failed = false ∧ u.fenced = false ∧ u.claims = [] ∧
          u.epoch = if (s.cluster g).fenced then ((s.cluster g).epoch + 1) % 2 ^ 32 else (s.cluster g).epoch) ∧
      ((s.cluster g).fenced = true → (s.cluster g).failed = true → Config.scanPasses s.frees = false →
        exec (.unitrst m) s = .next (({ s with frees := s.frees + 1 } : State).reply m 1 ⟨5, []⟩))) ∧
    (∀ p, p < 16 → s.item = 8192 + p → s.asked m 5 8 → s.own.owner = masterNum m → ∃ t : State, exec (.unitrst m) s = .next (t.reply m 1 ⟨0, []⟩) ∧
      t.fab.up = NatSet.del s.fab.up p ∧ ∀ q ∈ t.fab.up, t.fab.neg ≤ s.fab.portVer.getD q 0) ∧
    (∀ t, s.asked m 6 12 → s.fw.taints[num 8 2]? = some t →
      let page := (t.entries.drop (num 10 2)).take 14
      exec (.testst m) s = .next (s.reply m 1 ⟨0, bytesOf 2 t.cluster ++ bytesOf 2 s.fw.taints.length ++ bytesOf 4 t.epoch ++
        bytesOf 8 t.tfence ++ bytesOf 2 t.entries.length ++ bytesOf 1 (b2n t.overflow) ++ bytesOf 1 page.length ++
        bytesOf 2 (s.clusters.countP fun p => p.2.fenced) ++ List.replicate 34 0 ++ page.flatMap taintEntry⟩)) ∧
    (s.asked m 7 8 → exec (.logrd m) s = .next (s.reply m 1 ⟨0, Config.logPage (s.fw.log.drop s.item)⟩)) ∧
    (s.asked m 8 24 → s.own.owner = masterNum m →
      ((∃ x q n, x ≠ m ∧ (s.box x).working = some (.aborting q n)) → exec (.abort m) s = .next (s.reply m 1 ⟨4, []⟩)) ∧
      ((∀ x q n, x ≠ m → (s.box x).working ≠ some (.aborting q n)) → num 8 8 < 16 →
        ∀ l x, s.launchOf (num 8 8) (num 16 8) = some (l, x) → exec (.abort m) s = .next
          ((s.abortLaunch l).modBox m fun b => { b with working := some (.aborting (num 8 8) (num 16 8)) }))) ∧
    (∀ q n, (s.box m).working = some (.aborting q n) → s.launchOf q n = none → s.fw.leads s.time = true →
      exec (.abort m) s = .next (s.reply m 1 ⟨0, []⟩))

/-! ## The fabric (R206, R208, R231, R257, R283, R299, R326, R344 to R356, R365, R367) -/

/-- R345, R347 to R349, R352, R354 to R356, R367. A packet for this package with a reserved bit or an unassigned kind is counted and
discarded, one that it has accepted before is only acknowledged again, with the credits owed, and one beyond the window is not accepted; a
port trains to the lower of both versions, with all its credits; a packet for another package is held for forwarding, within the share of its
source, where its bank is valid here, and else refused with its credit, and where it cannot go on its source is told; an attempt or a reply
that does not come in time is made again or fails; a packet that a relay has refused goes directly for the rest of its attempt, and a new
attempt is routed afresh; a packet is not injected while 4,096 to its destination are unacknowledged, nor while an earlier write-back of its
line is. The model's readings (log 49, DEDUCED): a failure packet names the package that could not be reached in its TAG, and is not kept;
(log 98, DEDUCED): a packet whose bank is not valid has no route and is dropped, and a refusal at a relay is a record of the packet and its
flits; (log 109, DEDUCED): write-backs of one line go one after the other. -/
def Obligations.LinkEvents : Prop :=
  (∀ (s : State) (p : Packet), p.dst = s.pkg →
    let kinds := [(Instr.msg p, 0), (.ldata p, 2), (.lwb p, 3), (.inv p, 4), (.recallPkt p, 5), (.wreq p, 6), (.areq p, 7), (.arsp p, 8),
      (.cpydata p, 9), (.cpydone p, 10), (.qrep p, 11), (.ctrl p, 12)]
    (p.reserved ≠ 0 ∨ 14 ≤ p.kind → ∀ i ∈ kinds.map Prod.fst ++ [.lreq p, .ack p],
      exec i s = .next { s with fab := { s.fab with bad := min 255 (s.fab.bad + 1) } }) ∧
    (let w := s.fab.window p.src
     let ahead := (p.eseq + 2 ^ 32 - w.base) % 2 ^ 32
     p.reserved = 0 → s.fab.validA = true ∨ s.fab.validB = true → ∀ i ∈ kinds ++ [(.lreq p, 1)], p.kind = i.2 →
      (2 ^ 31 ≤ ahead ∨ p.eseq ∈ w.above → exec i.1 s = .next { s with fab := { s.fab with
        acks := s.fab.acks ++ [(p.src, p.eseq, s.fab.owed.getD p.src 0)], owed := s.fab.owed.put p.src 0 } }) ∧
      (4096 ≤ ahead → ahead < 2 ^ 31 → p.eseq ∉ w.above → exec i.1 s = .next s))) ∧
  (∀ (s : State) (p v : Nat), p < 16 → ∃ t, exec (.portTraining p v) s = .next t ∧ t.fab.portVer.getD p 0 = min v 1 ∧
    (v = 0 → t.fab.up = NatSet.del s.fab.up p) ∧
    (1 ≤ v → t.fab.up = NatSet.add s.fab.up p ∧ ∀ q, meetPlane s.pkg q = p → t.fab.creditOf q = 2048) ∧
    (∀ q ∈ t.fab.up, t.fab.neg ≤ t.fab.portVer.getD q 0) ∧ (t.fab.up ≠ [] → ∃ q ∈ t.fab.up, t.fab.neg = t.fab.portVer.getD q 0)) ∧
  (∀ (s : State) (p : Packet), p.dst ≠ s.pkg → p.reserved = 0 → p.kind < 14 → p.relayed = false →
    (if p.bank then s.fab.validB else s.fab.validA) = true → s.fab.share p.src + p.len + 1 ≤ 2048 →
    exec (.relayReceive p) s =
      .next ({ s with fab := { s.fab with basin := s.fab.basin ++ [{ id := s.stamp, pkt := { p with relayed := true } }] } } : State).tickStamp) ∧
  (∀ (s : State) (p : Packet), p.dst ≠ s.pkg → p.reserved = 0 → p.kind < 14 → p.relayed = false →
    (if p.bank then s.fab.validB else s.fab.validA) = false →
    exec (.relayReceive p) s = .next { s with fab := { s.fab with refusals := s.fab.refusals ++ [(p.src, p.dst, p.eseq, p.len + 1)] } }) ∧
  (∀ (s : State) (h : Held), s.fab.basin.find? (fun x => x.id == s.item) = some h →
    (∀ x ∈ s.fab.basin, x.pkt.dst = h.pkt.dst → h.id ≤ x.id) →
    let b := s.fab.bankOf h.pkt.bank
    let f := { s.fab with
      basin := s.fab.basin.filter fun x => x.id != h.id
      owed := s.fab.owed.put h.pkt.src (s.fab.owed.getD h.pkt.src 0 + h.pkt.len + 1) }
    (bankPresent b h.pkt.dst = true → s.fitsHere b h.pkt.dst s.podTime = some s.podTime → exec .relayForward s = .next { s with fab := f }) ∧
    (bankPresent b h.pkt.dst = false ∨ s.fitsHere b h.pkt.dst s.podTime = none →
      exec .relayForward s = .next { s with fab := { f with failures := s.fab.failures ++ [(h.pkt.src, h.pkt.dst)] } })) ∧
  (∀ (s : State) (k : Kept), s.keptBy s.item = some k →
    (k.route = .waiting → k.tries < 16 → k.routed / 250 < s.podTime / 250 →
      (1 ≤ k.tries → exec .routeRetry s = .next (s.routeKept k k.tries k.since)) ∧
      (k.tries = 0 → s.fab.unacked k.pkt.dst < 4096 →
        (∀ line d b c, k.pkt.body = .lwb line d b c → ∀ y ∈ s.fab.kept, y.id < k.id → ∀ d' b' c', y.pkt.body ≠ .lwb line d' b' c') →
        exec .routeRetry s = .next (s.routeKept { k with pkt := { k.pkt with bank := s.bankNow } } 1 s.podTime))) ∧
    (1 ≤ k.tries → k.tries < 16 → k.since + s.fab.ato ≤ s.podTime →
      exec .attemptTimeout s = .next
        (if k.tries < s.fab.retry then s.routeKept { k with directly := false } (k.tries + 1) s.podTime else s.failPacket k)) ∧
    (16 ≤ k.tries → exec .attemptTimeout s = .next (s.failPacket k)) ∧
    (∀ m q t, k.route = .relay m q t →
      ∃ u, exec .relayRefusal s = .next u ∧ u.fab.credit.getD m 0 = s.fab.credit.getD m 0 - (k.pkt.len + 1) ∧
        u.keptBy s.item = some { k with directly := true, routed := s.podTime, route :=
          (match s.fitsHere (s.fab.bankOf k.pkt.bank) k.pkt.dst s.podTime with
          | some t => .direct t
          | none => .waiting) }) ∧
    (∀ tries since, k.directly = true → bankPresent (s.fab.bankOf k.pkt.bank) k.pkt.dst = true →
      ∃ y, (s.routeKept k tries since).keptBy s.item = some y ∧ y.pkt = k.pkt ∧ y.tries = tries ∧ y.since = since ∧
        ∀ m q t, y.route ≠ .relay m q t) ∧
    (∀ tries since, k.directly = false → k.pkt.kind ≠ 12 → (if k.pkt.bank then s.fab.validB else s.fab.validA) = false →
      s.routeKept k tries since = s.failPacket k)) ∧
  (∀ (s : State) (a : Await), s.fab.awaits.find? (fun x => x.id == s.item) = some a → a.since + 1000 * s.fab.rto ≤ s.podTime →
    exec .replyTimeout s = .next (s.failAwait a)) ∧
  (∀ (s : State) (p : Packet), p.dst = s.pkg → p.reserved = 0 → p.kind < 14 → s.fab.validA = true ∨ s.fab.validB = true →
    ∃ t, exec (.failurePacket p) s = .next t ∧
    (p.tag % 512 ≠ s.pkg → t.fab.peers = NatSet.add s.fab.peers (p.tag % 512)) ∧ (p.tag % 512 = s.pkg → t.fab = s.fab))

/-- R206, R231, R257, R283, R299, R326, R345, R365. What a well-formed new packet does: a message of an owned channel is on its way to its
core; a line request is answered with the line and its holder noted; a line, a write-back, an invalidation and a recall change the copies; a
remote store and atomic are performed at this package's slice and answered; copy data is delivered and its end reported; a report counts; the
pod manager reads and writes registers; an acknowledgement ends the keeping of its packet. The model's own choices among these: that the reply
to an atomic at a poisoned word carries a mark, and which word it was, and that its context then consumes the poison, is log 50 (DEDUCED);
that the package from which the pod manager claims ownership is the one whose loss counts is log 64 (DEDUCED); that the end of a message is
counted once, though it may be dropped and reported, is log 49 (DEDUCED); that a request for a line is not answered any more once a write-back
of it has left is log 109 (DEDUCED); which packets form a flow, told by source context and channel or by fabric queue, towards one package, is
log 65 (DEDUCED); a failure packet behind a discarded message is log 49. -/
def Obligations.PacketEvents : Prop :=
  ∀ (s : State) (p : Packet),
    let u := s.acceptPacket p
    let new := fun (k : Nat) (i : Instr) (t : State) => s.takesPacket p k → exec i s = .next t
    (∀ chan cid net ctx bytes n a, p.body = .msg chan cid net ctx bytes → s.takesPacket p 0 → p.tag = 0 →
      (∀ f ∈ s.fab.flows, ¬ (f.src = p.src ∧ f.srcCtx = ctx ∧ f.chan = chan * 4096 + cid)) → chan < 15 → validCid cid = true →
      s.nets.find net = some n → n.tenant = p.tenant → n.chans[chan]? = some a → a.limit ≠ 0 →
      ∃ t m, exec (.msg p) s = .next t ∧ t.msgs = s.msgs ++ [m] ∧ m.cid = cid ∧ m.chan = chan ∧ m.bytes = bytes ∧ m.net = net ∧
        m.tenant = p.tenant ∧ m.guest.isSome = true) ∧
    (∀ chan cid net ctx bytes, p.body = .msg chan cid net ctx bytes → s.takesPacket p 0 → p.tag = 0 →
      (∀ f ∈ s.fab.flows, ¬ (f.src = p.src ∧ f.srcCtx = ctx ∧ f.chan = chan * 4096 + cid)) →
      (∀ n a, s.nets.find net = some n → n.tenant = p.tenant → n.chans[chan]? = some a → a.limit = 0) →
      ∃ t, exec (.msg p) s = .next t ∧ t.msgs = s.msgs ∧ t.fab.failures = s.fab.failures ++ [(p.src, s.pkg)]) ∧
    (∀ line, p.body = .lreq line → s.ownsByte (128 * line) = true → s.dirFull line = false →
      let r := u.readLine line
      new 1 (.lreq p) (({ r.1 with dir := r.1.dir.put line ((r.1.dir.getD line ⟨[], false⟩).add p.src) } : State).send p.src 2 2 p.tenant
        p.tag (.ldata line r.2.1 r.2.2 false) none)) ∧
    (∀ line bytes poison, p.body = .ldata line bytes poison false → s.isPeer (128 * line) = true →
      ((∃ a ∈ s.fab.awaits, a.line = some line ∧ a.peer = p.src ∧ a.id % 2 ^ 32 = p.tag) →
        new 2 (.ldata p) (u.installLine line (BitVec.ofNat 1024 (ofBytes bytes)) (BitVec.ofNat 16 poison))) ∧
      ((∀ a ∈ s.fab.awaits, ¬ (a.line = some line ∧ a.peer = p.src ∧ a.id % 2 ^ 32 = p.tag)) → new 2 (.ldata p) u)) ∧
    (∀ line mask bytes poison, p.body = .lwb line mask bytes poison → s.ownsByte (128 * line) = true →
      (∀ a ∈ s.fab.awaits, ¬ (a.line = some line ∧ a.peer = p.src ∧ a.id % 2 ^ 32 = p.tag)) → (s.holdersOf line).contains p.src = false →
      let w := u.invalidateHolders line (some p.src) p.tenant
      let t := ({ w with dir := Map.del w.dir line } : State).sWriteMasked line (BitVec.ofNat 1024 (ofBytes bytes))
        (BitVec.ofNat 128 mask) (BitVec.ofNat 16 poison)
      (s.lineAwaited line = false → new 3 (.lwb p) t) ∧
      (s.lineAwaited line = true → new 3 (.lwb p) { t with dir := t.dir.put line ⟨[], false⟩ })) ∧
    (∀ line, p.body = .inv line → s.isPeer (128 * line) = true → new 4 (.inv p) (u.dropPeerLine line)) ∧
    (∀ line, p.body = .recallLine line → s.isPeer (128 * line) = true →
      let w := u.flushLine (u.home (128 * line)) line
      ∀ l, w.peerLine line = some l → (l.dirty ≠ 0 → new 5 (.recallPkt p)
          ((({ w with
            peerLines := w.peerLines.map fun x => if x.line = l.line then { x with dirty := 0, carried := 0 } else x
            fab := { w.fab with awaits := w.fab.awaits.filter fun a => a.line != some l.line } } : State).send
            (paPkg (128 * l.line)) 3 3 p.tenant p.tag (.lwb l.line l.dirty.toNat (bytesOf 128 l.data.toNat) l.carried.toNat) none).forgetPeer line)) ∧
        (l.dirty = 0 → new 5 (.recallPkt p) ((w.forgetPeer line).send p.src 2 2 p.tenant p.tag
          (.ldata line (bytesOf 128 l.data.toNat) l.poison.toNat true) none))) ∧
    (∀ pa size val, p.body = .wreq pa size val → s.ownsByte pa = true →
      new 6 (.wreq p) (((u.invalidateHolders (pa / 128) none p.tenant).sWrite pa (bytesOf size val)).send p.src 8 0
        p.tenant p.tag (.arsp 0 false) none)) ∧
    (∀ pa op size val cmp red w old bad, p.body = .areq pa op size val cmp red → s.ownsByte pa = true →
      let x := u.flushLine (u.home pa) (pa / 128)
      x.sRead pa size = (w, old, bad) →
      (bad = false →
        new 7 (.areq p) (((w.invalidateHolders (pa / 128) none p.tenant).sWrite pa
          (bytesOf size (if op = 16 then (if old = cmp then val else old) else amoValue op size old val))).send p.src 8 0 p.tenant p.tag (.arsp old false) none)) ∧
      (bad = true → red = false → new 7 (.areq p) (w.send p.src 8 0 p.tenant p.tag
        (.arsp (if size = 16 ∧ (x.sRead pa 8).2.2 = false then 1 else 0) true) none)) ∧
      (bad = true → red = true → new 7 (.areq p) ((w.logEvent 3 (pa / 8 * 8)).send p.src 8 0 p.tenant p.tag (.arsp 0 false) none))) ∧
    (∀ v bad a n, p.body = .arsp v bad → a.acc = some n → s.fab.awaits.find? (fun a => a.peer == p.src && a.id % 2 ^ 32 == p.tag &&
        (a.acc.isSome || a.red.isSome)) = some a →
      (bad = false → new 8 (.arsp p) ((u.dropAwait a).answerAccess n v false)) ∧
      (∀ x e l c, bad = true → s.acc n = some x → x.elems = e :: l → s.byUid x.uid = some c →
        new 8 (.arsp p) (((u.dropAwait a).dropAcc x).consumePoison c (e.va / 8 * 8 + if e.size = 16 ∧ v ≠ 0 then 8 else 0)))) ∧
    (∀ cid x b n, p.body = .cpydata cid [(x, b)] [] none n false → s.takesPacket p 9 → p.tag = 0 →
      (∀ f ∈ s.fab.flows, ¬ (f.src = p.src ∧ f.srcCtx = n % 4096 ∧ f.chan = 2 ^ 17)) → (∀ y ∈ s.fab.rxCopies, ¬ (y.src = p.src ∧ y.copy = n)) →
      (s.core cid).gated = false → s.rxCheck cid [(x, b)] none = ([(x, b)], none) → (s.core cid).lm.wf = true →
      ∃ t, exec (.cpydata p) s = .next t ∧ (t.core cid).lm.read x = b ∧ (∀ y, y ≠ x → (t.core cid).lm.read y = (s.core cid).lm.read y) ∧
        (⟨p.src, n, 1, none⟩ : RxCopy) ∈ t.fab.rxCopies) ∧
    (∀ n status fault got a, p.body = .cpydone n status fault got a →
      new 10 (.cpydone p) (({ u with fab := { u.fab with awaits := u.fab.awaits.filter fun a => a.copy != some (n / 4096) } } : State).endRemote
        (n / 4096) (status, fault, a) got)) ∧
    (∀ lid l, p.body = .qrep lid l → new 11 (.qrep p) (l.foldl (fun t n => t.settleMsg p.src lid n) u)) ∧
    (∀ lid n, let t := s.settleMsg p.src lid n
      let settled := { s with fab := { s.fab with settled := s.fab.settled ++ [(p.src, n)] } }
      ((p.src, n) ∈ s.fab.settled → t.layers = s.layers ∧ t.launches = s.launches) ∧
      ((p.src, n) ∉ s.fab.settled →
        ((s.launches.find (lid / 16)).isSome = true → t = settled.countRecv (lid % 16) (lid / 16)) ∧
        (s.launches.find (lid / 16) = none → t = settled))) ∧
    (∀ off, p.body = .ctrl off none →
      new 12 (.ctrl p) (u.send p.src 12 0 0 p.tag (.ctrl off (some (BitVec.ofNat 64 (u.readReg (off / 8 * 8))))) none)) ∧
    (∀ off v, p.body = .ctrl off (some v) →
      let w := State.writeRegBytes (.master .pod) 2 u (off / 8 * 8) (bytesOf 8 v.toNat)
      new 12 (.ctrl p) (if w.own.owner = 3 ∧ w.own.gen ≠ s.own.gen then { w with own := { w.own with podPkg := p.src } } else w)) ∧
    (∀ n c, p.body = .ack n c → p.dst = s.pkg → p.reserved = 0 → p.kind = 13 → s.fab.validA = true ∨ s.fab.validB = true →
      exec (.ack p) s = .next { s with fab := { s.fab with
      kept := s.fab.kept.filter fun k => !(k.pkt.dst == p.src && k.pkt.eseq == n)
      settled := s.fab.settled.filter fun x => !(x == (p.src, n) && s.fab.kept.any fun k => k.pkt.dst == p.src && k.pkt.eseq == n)
      credit := s.fab.credit.put p.src (s.fab.credit.getD p.src 0 - c) } })

end
end

