-- ==== Sys2Proof/Laws/Ctx.lean ====
section
/-! SUPPORT. What every update of a context leaves alone, field by field, and what reading a register gives after a write. -/

namespace Sys2Proof.Machine

/-! ### `Ctx.setS` -/

@[simp] theorem Ctx.setS_uid (c : Ctx) (r : Nat) (v : W64) : (c.setS r v).uid = c.uid := by
  unfold Ctx.setS; split <;> rfl
@[simp] theorem Ctx.setS_start (c : Ctx) (r : Nat) (v : W64) : (c.setS r v).start = c.start := by
  unfold Ctx.setS; split <;> rfl
@[simp] theorem Ctx.setS_slot (c : Ctx) (r : Nat) (v : W64) : (c.setS r v).slot = c.slot := by
  unfold Ctx.setS; split <;> rfl
@[simp] theorem Ctx.setS_cur (c : Ctx) (r : Nat) (v : W64) : (c.setS r v).cur = c.cur := by
  unfold Ctx.setS; split <;> rfl
@[simp] theorem Ctx.setS_foot (c : Ctx) (r : Nat) (v : W64) : (c.setS r v).foot = c.foot := by
  unfold Ctx.setS; split <;> rfl
@[simp] theorem Ctx.setS_heavy (c : Ctx) (r : Nat) (v : W64) : (c.setS r v).heavy = c.heavy := by
  unfold Ctx.setS; split <;> rfl
@[simp] theorem Ctx.setS_sup (c : Ctx) (r : Nat) (v : W64) : (c.setS r v).sup = c.sup := by
  unfold Ctx.setS; split <;> rfl
@[simp] theorem Ctx.setS_backup (c : Ctx) (r : Nat) (v : W64) : (c.setS r v).backup = c.backup := by
  unfold Ctx.setS; split <;> rfl
@[simp] theorem Ctx.setS_migr (c : Ctx) (r : Nat) (v : W64) : (c.setS r v).migr = c.migr := by
  unfold Ctx.setS; split <;> rfl
@[simp] theorem Ctx.setS_chan (c : Ctx) (r : Nat) (v : W64) : (c.setS r v).chan = c.chan := by
  unfold Ctx.setS; split <;> rfl
@[simp] theorem Ctx.setS_prio (c : Ctx) (r : Nat) (v : W64) : (c.setS r v).prio = c.prio := by
  unfold Ctx.setS; split <;> rfl
@[simp] theorem Ctx.setS_pairClass (c : Ctx) (r : Nat) (v : W64) : (c.setS r v).pairClass = c.pairClass := by
  unfold Ctx.setS; split <;> rfl
@[simp] theorem Ctx.setS_mseq (c : Ctx) (r : Nat) (v : W64) : (c.setS r v).mseq = c.mseq := by
  unfold Ctx.setS; split <;> rfl
@[simp] theorem Ctx.setS_tclass (c : Ctx) (r : Nat) (v : W64) : (c.setS r v).tclass = c.tclass := by
  unfold Ctx.setS; split <;> rfl
@[simp] theorem Ctx.setS_leaseBase (c : Ctx) (r : Nat) (v : W64) : (c.setS r v).leaseBase = c.leaseBase := by
  unfold Ctx.setS; split <;> rfl
@[simp] theorem Ctx.setS_leaseSize (c : Ctx) (r : Nat) (v : W64) : (c.setS r v).leaseSize = c.leaseSize := by
  unfold Ctx.setS; split <;> rfl
@[simp] theorem Ctx.setS_leaseV (c : Ctx) (r : Nat) (v : W64) : (c.setS r v).leaseV = c.leaseV := by
  unfold Ctx.setS; split <;> rfl
@[simp] theorem Ctx.setS_launch (c : Ctx) (r : Nat) (v : W64) : (c.setS r v).launch = c.launch := by
  unfold Ctx.setS; split <;> rfl
@[simp] theorem Ctx.setS_net (c : Ctx) (r : Nat) (v : W64) : (c.setS r v).net = c.net := by
  unfold Ctx.setS; split <;> rfl
@[simp] theorem Ctx.setS_tenant (c : Ctx) (r : Nat) (v : W64) : (c.setS r v).tenant = c.tenant := by
  unfold Ctx.setS; split <;> rfl
@[simp] theorem Ctx.setS_firing (c : Ctx) (r : Nat) (v : W64) : (c.setS r v).firing = c.firing := by
  unfold Ctx.setS; split <;> rfl
@[simp] theorem Ctx.setS_startVals (c : Ctx) (r : Nat) (v : W64) : (c.setS r v).startVals = c.startVals := by
  unfold Ctx.setS; split <;> rfl
@[simp] theorem Ctx.setS_startTime (c : Ctx) (r : Nat) (v : W64) : (c.setS r v).startTime = c.startTime := by
  unfold Ctx.setS; split <;> rfl
@[simp] theorem Ctx.setS_port (c : Ctx) (r : Nat) (v : W64) : (c.setS r v).port = c.port := by
  unfold Ctx.setS; split <;> rfl
@[simp] theorem Ctx.setS_pc (c : Ctx) (r : Nat) (v : W64) : (c.setS r v).pc = c.pc := by
  unfold Ctx.setS; split <;> rfl
@[simp] theorem Ctx.setS_v (c : Ctx) (r : Nat) (v : W64) : (c.setS r v).v = c.v := by
  unfold Ctx.setS; split <;> rfl
@[simp] theorem Ctx.setS_k (c : Ctx) (r : Nat) (v : W64) : (c.setS r v).k = c.k := by
  unfold Ctx.setS; split <;> rfl
@[simp] theorem Ctx.setS_o (c : Ctx) (r : Nat) (v : W64) : (c.setS r v).o = c.o := by
  unfold Ctx.setS; split <;> rfl
@[simp] theorem Ctx.setS_m (c : Ctx) (r : Nat) (v : W64) : (c.setS r v).m = c.m := by
  unfold Ctx.setS; split <;> rfl
@[simp] theorem Ctx.setS_q (c : Ctx) (r : Nat) (v : W64) : (c.setS r v).q = c.q := by
  unfold Ctx.setS; split <;> rfl
@[simp] theorem Ctx.setS_slots (c : Ctx) (r : Nat) (v : W64) : (c.setS r v).slots = c.slots := by
  unfold Ctx.setS; split <;> rfl
@[simp] theorem Ctx.setS_xpc (c : Ctx) (r : Nat) (v : W64) : (c.setS r v).xpc = c.xpc := by
  unfold Ctx.setS; split <;> rfl
@[simp] theorem Ctx.setS_xcause (c : Ctx) (r : Nat) (v : W64) : (c.setS r v).xcause = c.xcause := by
  unfold Ctx.setS; split <;> rfl
@[simp] theorem Ctx.setS_xval (c : Ctx) (r : Nat) (v : W64) : (c.setS r v).xval = c.xval := by
  unfold Ctx.setS; split <;> rfl
@[simp] theorem Ctx.setS_intrap (c : Ctx) (r : Nat) (v : W64) : (c.setS r v).intrap = c.intrap := by
  unfold Ctx.setS; split <;> rfl
@[simp] theorem Ctx.setS_psup (c : Ctx) (r : Nat) (v : W64) : (c.setS r v).psup = c.psup := by
  unfold Ctx.setS; split <;> rfl
@[simp] theorem Ctx.setS_xhand (c : Ctx) (r : Nat) (v : W64) : (c.setS r v).xhand = c.xhand := by
  unfold Ctx.setS; split <;> rfl
@[simp] theorem Ctx.setS_rwc (c : Ctx) (r : Nat) (v : W64) : (c.setS r v).rwc = c.rwc := by
  unfold Ctx.setS; split <;> rfl
@[simp] theorem Ctx.setS_limit (c : Ctx) (r : Nat) (v : W64) : (c.setS r v).limit = c.limit := by
  unfold Ctx.setS; split <;> rfl
@[simp] theorem Ctx.setS_used (c : Ctx) (r : Nat) (v : W64) : (c.setS r v).used = c.used := by
  unfold Ctx.setS; split <;> rfl
@[simp] theorem Ctx.setS_waitlim (c : Ctx) (r : Nat) (v : W64) : (c.setS r v).waitlim = c.waitlim := by
  unfold Ctx.setS; split <;> rfl
@[simp] theorem Ctx.setS_fpflags (c : Ctx) (r : Nat) (v : W64) : (c.setS r v).fpflags = c.fpflags := by
  unfold Ctx.setS; split <;> rfl
@[simp] theorem Ctx.setS_fmttrap (c : Ctx) (r : Nat) (v : W64) : (c.setS r v).fmttrap = c.fmttrap := by
  unfold Ctx.setS; split <;> rfl
@[simp] theorem Ctx.setS_binds (c : Ctx) (r : Nat) (v : W64) : (c.setS r v).binds = c.binds := by
  unfold Ctx.setS; split <;> rfl
@[simp] theorem Ctx.setS_obls (c : Ctx) (r : Nat) (v : W64) : (c.setS r v).obls = c.obls := by
  unfold Ctx.setS; split <;> rfl
@[simp] theorem Ctx.setS_reserved (c : Ctx) (r : Nat) (v : W64) : (c.setS r v).reserved = c.reserved := by
  unfold Ctx.setS; split <;> rfl
@[simp] theorem Ctx.setS_predC (c : Ctx) (r : Nat) (v : W64) : (c.setS r v).predC = c.predC := by
  unfold Ctx.setS; split <;> rfl
@[simp] theorem Ctx.setS_predH (c : Ctx) (r : Nat) (v : W64) : (c.setS r v).predH = c.predH := by
  unfold Ctx.setS; split <;> rfl
@[simp] theorem Ctx.setS_migMark (c : Ctx) (r : Nat) (v : W64) : (c.setS r v).migMark = c.migMark := by
  unfold Ctx.setS; split <;> rfl
@[simp] theorem Ctx.setS_acqStamp (c : Ctx) (r : Nat) (v : W64) : (c.setS r v).acqStamp = c.acqStamp := by
  unfold Ctx.setS; split <;> rfl
@[simp] theorem Ctx.setS_acqPod (c : Ctx) (r : Nat) (v : W64) : (c.setS r v).acqPod = c.acqPod := by
  unfold Ctx.setS; split <;> rfl
@[simp] theorem Ctx.setS_st (c : Ctx) (r : Nat) (v : W64) : (c.setS r v).st = c.st := by
  unfold Ctx.setS; split <;> rfl
@[simp] theorem Ctx.setS_wait (c : Ctx) (r : Nat) (v : W64) : (c.setS r v).wait = c.wait := by
  unfold Ctx.setS; split <;> rfl
@[simp] theorem Ctx.setS_parkCycle (c : Ctx) (r : Nat) (v : W64) : (c.setS r v).parkCycle = c.parkCycle := by
  unfold Ctx.setS; split <;> rfl
@[simp] theorem Ctx.setS_place (c : Ctx) (r : Nat) (v : W64) : (c.setS r v).place = c.place := by
  unfold Ctx.setS; split <;> rfl
@[simp] theorem Ctx.setS_woken (c : Ctx) (r : Nat) (v : W64) : (c.setS r v).woken = c.woken := by
  unfold Ctx.setS; split <;> rfl
@[simp] theorem Ctx.setS_readyAt (c : Ctx) (r : Nat) (v : W64) : (c.setS r v).readyAt = c.readyAt := by
  unfold Ctx.setS; split <;> rfl
@[simp] theorem Ctx.setS_issuedAt (c : Ctx) (r : Nat) (v : W64) : (c.setS r v).issuedAt = c.issuedAt := by
  unfold Ctx.setS; split <;> rfl
@[simp] theorem Ctx.setS_held (c : Ctx) (r : Nat) (v : W64) : (c.setS r v).held = c.held := by
  unfold Ctx.setS; split <;> rfl
@[simp] theorem Ctx.setS_pend (c : Ctx) (r : Nat) (v : W64) : (c.setS r v).pend = c.pend := by
  unfold Ctx.setS; split <;> rfl
@[simp] theorem Ctx.setS_due (c : Ctx) (r : Nat) (v : W64) : (c.setS r v).due = c.due := by
  unfold Ctx.setS; split <;> rfl
@[simp] theorem Ctx.setS_parkPc (c : Ctx) (r : Nat) (v : W64) : (c.setS r v).parkPc = c.parkPc := by
  unfold Ctx.setS; split <;> rfl
@[simp] theorem Ctx.setS_parkWord (c : Ctx) (r : Nat) (v : W64) : (c.setS r v).parkWord = c.parkWord := by
  unfold Ctx.setS; split <;> rfl
@[simp] theorem Ctx.setS_csrOld (c : Ctx) (r : Nat) (v : W64) : (c.setS r v).csrOld = c.csrOld := by
  unfold Ctx.setS; split <;> rfl
@[simp] theorem Ctx.setS_key (c : Ctx) (r : Nat) (v : W64) : (c.setS r v).key = c.key := by simp [Ctx.key]

/-! ### `Ctx.setK` -/

@[simp] theorem Ctx.setK_uid (c : Ctx) (r : Nat) (x : W64) : (c.setK r x).uid = c.uid := by
  unfold Ctx.setK; split <;> rfl
@[simp] theorem Ctx.setK_start (c : Ctx) (r : Nat) (x : W64) : (c.setK r x).start = c.start := by
  unfold Ctx.setK; split <;> rfl
@[simp] theorem Ctx.setK_slot (c : Ctx) (r : Nat) (x : W64) : (c.setK r x).slot = c.slot := by
  unfold Ctx.setK; split <;> rfl
@[simp] theorem Ctx.setK_cur (c : Ctx) (r : Nat) (x : W64) : (c.setK r x).cur = c.cur := by
  unfold Ctx.setK; split <;> rfl
@[simp] theorem Ctx.setK_foot (c : Ctx) (r : Nat) (x : W64) : (c.setK r x).foot = c.foot := by
  unfold Ctx.setK; split <;> rfl
@[simp] theorem Ctx.setK_heavy (c : Ctx) (r : Nat) (x : W64) : (c.setK r x).heavy = c.heavy := by
  unfold Ctx.setK; split <;> rfl
@[simp] theorem Ctx.setK_sup (c : Ctx) (r : Nat) (x : W64) : (c.setK r x).sup = c.sup := by
  unfold Ctx.setK; split <;> rfl
@[simp] theorem Ctx.setK_backup (c : Ctx) (r : Nat) (x : W64) : (c.setK r x).backup = c.backup := by
  unfold Ctx.setK; split <;> rfl
@[simp] theorem Ctx.setK_migr (c : Ctx) (r : Nat) (x : W64) : (c.setK r x).migr = c.migr := by
  unfold Ctx.setK; split <;> rfl
@[simp] theorem Ctx.setK_chan (c : Ctx) (r : Nat) (x : W64) : (c.setK r x).chan = c.chan := by
  unfold Ctx.setK; split <;> rfl
@[simp] theorem Ctx.setK_prio (c : Ctx) (r : Nat) (x : W64) : (c.setK r x).prio = c.prio := by
  unfold Ctx.setK; split <;> rfl
@[simp] theorem Ctx.setK_pairClass (c : Ctx) (r : Nat) (x : W64) : (c.setK r x).pairClass = c.pairClass := by
  unfold Ctx.setK; split <;> rfl
@[simp] theorem Ctx.setK_mseq (c : Ctx) (r : Nat) (x : W64) : (c.setK r x).mseq = c.mseq := by
  unfold Ctx.setK; split <;> rfl
@[simp] theorem Ctx.setK_tclass (c : Ctx) (r : Nat) (x : W64) : (c.setK r x).tclass = c.tclass := by
  unfold Ctx.setK; split <;> rfl
@[simp] theorem Ctx.setK_leaseBase (c : Ctx) (r : Nat) (x : W64) : (c.setK r x).leaseBase = c.leaseBase := by
  unfold Ctx.setK; split <;> rfl
@[simp] theorem Ctx.setK_leaseSize (c : Ctx) (r : Nat) (x : W64) : (c.setK r x).leaseSize = c.leaseSize := by
  unfold Ctx.setK; split <;> rfl
@[simp] theorem Ctx.setK_leaseV (c : Ctx) (r : Nat) (x : W64) : (c.setK r x).leaseV = c.leaseV := by
  unfold Ctx.setK; split <;> rfl
@[simp] theorem Ctx.setK_launch (c : Ctx) (r : Nat) (x : W64) : (c.setK r x).launch = c.launch := by
  unfold Ctx.setK; split <;> rfl
@[simp] theorem Ctx.setK_net (c : Ctx) (r : Nat) (x : W64) : (c.setK r x).net = c.net := by
  unfold Ctx.setK; split <;> rfl
@[simp] theorem Ctx.setK_tenant (c : Ctx) (r : Nat) (x : W64) : (c.setK r x).tenant = c.tenant := by
  unfold Ctx.setK; split <;> rfl
@[simp] theorem Ctx.setK_firing (c : Ctx) (r : Nat) (x : W64) : (c.setK r x).firing = c.firing := by
  unfold Ctx.setK; split <;> rfl
@[simp] theorem Ctx.setK_startVals (c : Ctx) (r : Nat) (x : W64) : (c.setK r x).startVals = c.startVals := by
  unfold Ctx.setK; split <;> rfl
@[simp] theorem Ctx.setK_startTime (c : Ctx) (r : Nat) (x : W64) : (c.setK r x).startTime = c.startTime := by
  unfold Ctx.setK; split <;> rfl
@[simp] theorem Ctx.setK_port (c : Ctx) (r : Nat) (x : W64) : (c.setK r x).port = c.port := by
  unfold Ctx.setK; split <;> rfl
@[simp] theorem Ctx.setK_pc (c : Ctx) (r : Nat) (x : W64) : (c.setK r x).pc = c.pc := by
  unfold Ctx.setK; split <;> rfl
@[simp] theorem Ctx.setK_s (c : Ctx) (r : Nat) (x : W64) : (c.setK r x).s = c.s := by
  unfold Ctx.setK; split <;> rfl
@[simp] theorem Ctx.setK_v (c : Ctx) (r : Nat) (x : W64) : (c.setK r x).v = c.v := by
  unfold Ctx.setK; split <;> rfl
@[simp] theorem Ctx.setK_o (c : Ctx) (r : Nat) (x : W64) : (c.setK r x).o = c.o := by
  unfold Ctx.setK; split <;> rfl
@[simp] theorem Ctx.setK_m (c : Ctx) (r : Nat) (x : W64) : (c.setK r x).m = c.m := by
  unfold Ctx.setK; split <;> rfl
@[simp] theorem Ctx.setK_q (c : Ctx) (r : Nat) (x : W64) : (c.setK r x).q = c.q := by
  unfold Ctx.setK; split <;> rfl
@[simp] theorem Ctx.setK_slots (c : Ctx) (r : Nat) (x : W64) : (c.setK r x).slots = c.slots := by
  unfold Ctx.setK; split <;> rfl
@[simp] theorem Ctx.setK_xpc (c : Ctx) (r : Nat) (x : W64) : (c.setK r x).xpc = c.xpc := by
  unfold Ctx.setK; split <;> rfl
@[simp] theorem Ctx.setK_xcause (c : Ctx) (r : Nat) (x : W64) : (c.setK r x).xcause = c.xcause := by
  unfold Ctx.setK; split <;> rfl
@[simp] theorem Ctx.setK_xval (c : Ctx) (r : Nat) (x : W64) : (c.setK r x).xval = c.xval := by
  unfold Ctx.setK; split <;> rfl
@[simp] theorem Ctx.setK_intrap (c : Ctx) (r : Nat) (x : W64) : (c.setK r x).intrap = c.intrap := by
  unfold Ctx.setK; split <;> rfl
@[simp] theorem Ctx.setK_psup (c : Ctx) (r : Nat) (x : W64) : (c.setK r x).psup = c.psup := by
  unfold Ctx.setK; split <;> rfl
@[simp] theorem Ctx.setK_xhand (c : Ctx) (r : Nat) (x : W64) : (c.setK r x).xhand = c.xhand := by
  unfold Ctx.setK; split <;> rfl
@[simp] theorem Ctx.setK_rwc (c : Ctx) (r : Nat) (x : W64) : (c.setK r x).rwc = c.rwc := by
  unfold Ctx.setK; split <;> rfl
@[simp] theorem Ctx.setK_limit (c : Ctx) (r : Nat) (x : W64) : (c.setK r x).limit = c.limit := by
  unfold Ctx.setK; split <;> rfl
@[simp] theorem Ctx.setK_used (c : Ctx) (r : Nat) (x : W64) : (c.setK r x).used = c.used := by
  unfold Ctx.setK; split <;> rfl
@[simp] theorem Ctx.setK_waitlim (c : Ctx) (r : Nat) (x : W64) : (c.setK r x).waitlim = c.waitlim := by
  unfold Ctx.setK; split <;> rfl
@[simp] theorem Ctx.setK_fpflags (c : Ctx) (r : Nat) (x : W64) : (c.setK r x).fpflags = c.fpflags := by
  unfold Ctx.setK; split <;> rfl
@[simp] theorem Ctx.setK_fmttrap (c : Ctx) (r : Nat) (x : W64) : (c.setK r x).fmttrap = c.fmttrap := by
  unfold Ctx.setK; split <;> rfl
@[simp] theorem Ctx.setK_binds (c : Ctx) (r : Nat) (x : W64) : (c.setK r x).binds = c.binds := by
  unfold Ctx.setK; split <;> rfl
@[simp] theorem Ctx.setK_obls (c : Ctx) (r : Nat) (x : W64) : (c.setK r x).obls = c.obls := by
  unfold Ctx.setK; split <;> rfl
@[simp] theorem Ctx.setK_reserved (c : Ctx) (r : Nat) (x : W64) : (c.setK r x).reserved = c.reserved := by
  unfold Ctx.setK; split <;> rfl
@[simp] theorem Ctx.setK_predC (c : Ctx) (r : Nat) (x : W64) : (c.setK r x).predC = c.predC := by
  unfold Ctx.setK; split <;> rfl
@[simp] theorem Ctx.setK_predH (c : Ctx) (r : Nat) (x : W64) : (c.setK r x).predH = c.predH := by
  unfold Ctx.setK; split <;> rfl
@[simp] theorem Ctx.setK_migMark (c : Ctx) (r : Nat) (x : W64) : (c.setK r x).migMark = c.migMark := by
  unfold Ctx.setK; split <;> rfl
@[simp] theorem Ctx.setK_acqStamp (c : Ctx) (r : Nat) (x : W64) : (c.setK r x).acqStamp = c.acqStamp := by
  unfold Ctx.setK; split <;> rfl
@[simp] theorem Ctx.setK_acqPod (c : Ctx) (r : Nat) (x : W64) : (c.setK r x).acqPod = c.acqPod := by
  unfold Ctx.setK; split <;> rfl
@[simp] theorem Ctx.setK_st (c : Ctx) (r : Nat) (x : W64) : (c.setK r x).st = c.st := by
  unfold Ctx.setK; split <;> rfl
@[simp] theorem Ctx.setK_wait (c : Ctx) (r : Nat) (x : W64) : (c.setK r x).wait = c.wait := by
  unfold Ctx.setK; split <;> rfl
@[simp] theorem Ctx.setK_parkCycle (c : Ctx) (r : Nat) (x : W64) : (c.setK r x).parkCycle = c.parkCycle := by
  unfold Ctx.setK; split <;> rfl
@[simp] theorem Ctx.setK_place (c : Ctx) (r : Nat) (x : W64) : (c.setK r x).place = c.place := by
  unfold Ctx.setK; split <;> rfl
@[simp] theorem Ctx.setK_woken (c : Ctx) (r : Nat) (x : W64) : (c.setK r x).woken = c.woken := by
  unfold Ctx.setK; split <;> rfl
@[simp] theorem Ctx.setK_readyAt (c : Ctx) (r : Nat) (x : W64) : (c.setK r x).readyAt = c.readyAt := by
  unfold Ctx.setK; split <;> rfl
@[simp] theorem Ctx.setK_issuedAt (c : Ctx) (r : Nat) (x : W64) : (c.setK r x).issuedAt = c.issuedAt := by
  unfold Ctx.setK; split <;> rfl
@[simp] theorem Ctx.setK_held (c : Ctx) (r : Nat) (x : W64) : (c.setK r x).held = c.held := by
  unfold Ctx.setK; split <;> rfl
@[simp] theorem Ctx.setK_pend (c : Ctx) (r : Nat) (x : W64) : (c.setK r x).pend = c.pend := by
  unfold Ctx.setK; split <;> rfl
@[simp] theorem Ctx.setK_due (c : Ctx) (r : Nat) (x : W64) : (c.setK r x).due = c.due := by
  unfold Ctx.setK; split <;> rfl
@[simp] theorem Ctx.setK_parkPc (c : Ctx) (r : Nat) (x : W64) : (c.setK r x).parkPc = c.parkPc := by
  unfold Ctx.setK; split <;> rfl
@[simp] theorem Ctx.setK_parkWord (c : Ctx) (r : Nat) (x : W64) : (c.setK r x).parkWord = c.parkWord := by
  unfold Ctx.setK; split <;> rfl
@[simp] theorem Ctx.setK_csrOld (c : Ctx) (r : Nat) (x : W64) : (c.setK r x).csrOld = c.csrOld := by
  unfold Ctx.setK; split <;> rfl
@[simp] theorem Ctx.setK_key (c : Ctx) (r : Nat) (x : W64) : (c.setK r x).key = c.key := by simp [Ctx.key]

/-! ### `Ctx.setV` -/

@[simp] theorem Ctx.setV_uid (c : Ctx) (r : Nat) (x : VReg) : (c.setV r x).uid = c.uid := rfl
@[simp] theorem Ctx.setV_start (c : Ctx) (r : Nat) (x : VReg) : (c.setV r x).start = c.start := rfl
@[simp] theorem Ctx.setV_slot (c : Ctx) (r : Nat) (x : VReg) : (c.setV r x).slot = c.slot := rfl
@[simp] theorem Ctx.setV_cur (c : Ctx) (r : Nat) (x : VReg) : (c.setV r x).cur = c.cur := rfl
@[simp] theorem Ctx.setV_foot (c : Ctx) (r : Nat) (x : VReg) : (c.setV r x).foot = c.foot := rfl
@[simp] theorem Ctx.setV_heavy (c : Ctx) (r : Nat) (x : VReg) : (c.setV r x).heavy = c.heavy := rfl
@[simp] theorem Ctx.setV_sup (c : Ctx) (r : Nat) (x : VReg) : (c.setV r x).sup = c.sup := rfl
@[simp] theorem Ctx.setV_backup (c : Ctx) (r : Nat) (x : VReg) : (c.setV r x).backup = c.backup := rfl
@[simp] theorem Ctx.setV_migr (c : Ctx) (r : Nat) (x : VReg) : (c.setV r x).migr = c.migr := rfl
@[simp] theorem Ctx.setV_chan (c : Ctx) (r : Nat) (x : VReg) : (c.setV r x).chan = c.chan := rfl
@[simp] theorem Ctx.setV_prio (c : Ctx) (r : Nat) (x : VReg) : (c.setV r x).prio = c.prio := rfl
@[simp] theorem Ctx.setV_pairClass (c : Ctx) (r : Nat) (x : VReg) : (c.setV r x).pairClass = c.pairClass := rfl
@[simp] theorem Ctx.setV_mseq (c : Ctx) (r : Nat) (x : VReg) : (c.setV r x).mseq = c.mseq := rfl
@[simp] theorem Ctx.setV_tclass (c : Ctx) (r : Nat) (x : VReg) : (c.setV r x).tclass = c.tclass := rfl
@[simp] theorem Ctx.setV_leaseBase (c : Ctx) (r : Nat) (x : VReg) : (c.setV r x).leaseBase = c.leaseBase := rfl
@[simp] theorem Ctx.setV_leaseSize (c : Ctx) (r : Nat) (x : VReg) : (c.setV r x).leaseSize = c.leaseSize := rfl
@[simp] theorem Ctx.setV_leaseV (c : Ctx) (r : Nat) (x : VReg) : (c.setV r x).leaseV = c.leaseV := rfl
@[simp] theorem Ctx.setV_launch (c : Ctx) (r : Nat) (x : VReg) : (c.setV r x).launch = c.launch := rfl
@[simp] theorem Ctx.setV_net (c : Ctx) (r : Nat) (x : VReg) : (c.setV r x).net = c.net := rfl
@[simp] theorem Ctx.setV_tenant (c : Ctx) (r : Nat) (x : VReg) : (c.setV r x).tenant = c.tenant := rfl
@[simp] theorem Ctx.setV_firing (c : Ctx) (r : Nat) (x : VReg) : (c.setV r x).firing = c.firing := rfl
@[simp] theorem Ctx.setV_startVals (c : Ctx) (r : Nat) (x : VReg) : (c.setV r x).startVals = c.startVals := rfl
@[simp] theorem Ctx.setV_startTime (c : Ctx) (r : Nat) (x : VReg) : (c.setV r x).startTime = c.startTime := rfl
@[simp] theorem Ctx.setV_port (c : Ctx) (r : Nat) (x : VReg) : (c.setV r x).port = c.port := rfl
@[simp] theorem Ctx.setV_pc (c : Ctx) (r : Nat) (x : VReg) : (c.setV r x).pc = c.pc := rfl
@[simp] theorem Ctx.setV_s (c : Ctx) (r : Nat) (x : VReg) : (c.setV r x).s = c.s := rfl
@[simp] theorem Ctx.setV_k (c : Ctx) (r : Nat) (x : VReg) : (c.setV r x).k = c.k := rfl
@[simp] theorem Ctx.setV_o (c : Ctx) (r : Nat) (x : VReg) : (c.setV r x).o = c.o := rfl
@[simp] theorem Ctx.setV_m (c : Ctx) (r : Nat) (x : VReg) : (c.setV r x).m = c.m := rfl
@[simp] theorem Ctx.setV_q (c : Ctx) (r : Nat) (x : VReg) : (c.setV r x).q = c.q := rfl
@[simp] theorem Ctx.setV_slots (c : Ctx) (r : Nat) (x : VReg) : (c.setV r x).slots = c.slots := rfl
@[simp] theorem Ctx.setV_xpc (c : Ctx) (r : Nat) (x : VReg) : (c.setV r x).xpc = c.xpc := rfl
@[simp] theorem Ctx.setV_xcause (c : Ctx) (r : Nat) (x : VReg) : (c.setV r x).xcause = c.xcause := rfl
@[simp] theorem Ctx.setV_xval (c : Ctx) (r : Nat) (x : VReg) : (c.setV r x).xval = c.xval := rfl
@[simp] theorem Ctx.setV_intrap (c : Ctx) (r : Nat) (x : VReg) : (c.setV r x).intrap = c.intrap := rfl
@[simp] theorem Ctx.setV_psup (c : Ctx) (r : Nat) (x : VReg) : (c.setV r x).psup = c.psup := rfl
@[simp] theorem Ctx.setV_xhand (c : Ctx) (r : Nat) (x : VReg) : (c.setV r x).xhand = c.xhand := rfl
@[simp] theorem Ctx.setV_rwc (c : Ctx) (r : Nat) (x : VReg) : (c.setV r x).rwc = c.rwc := rfl
@[simp] theorem Ctx.setV_limit (c : Ctx) (r : Nat) (x : VReg) : (c.setV r x).limit = c.limit := rfl
@[simp] theorem Ctx.setV_used (c : Ctx) (r : Nat) (x : VReg) : (c.setV r x).used = c.used := rfl
@[simp] theorem Ctx.setV_waitlim (c : Ctx) (r : Nat) (x : VReg) : (c.setV r x).waitlim = c.waitlim := rfl
@[simp] theorem Ctx.setV_fpflags (c : Ctx) (r : Nat) (x : VReg) : (c.setV r x).fpflags = c.fpflags := rfl
@[simp] theorem Ctx.setV_fmttrap (c : Ctx) (r : Nat) (x : VReg) : (c.setV r x).fmttrap = c.fmttrap := rfl
@[simp] theorem Ctx.setV_binds (c : Ctx) (r : Nat) (x : VReg) : (c.setV r x).binds = c.binds := rfl
@[simp] theorem Ctx.setV_obls (c : Ctx) (r : Nat) (x : VReg) : (c.setV r x).obls = c.obls := rfl
@[simp] theorem Ctx.setV_reserved (c : Ctx) (r : Nat) (x : VReg) : (c.setV r x).reserved = c.reserved := rfl
@[simp] theorem Ctx.setV_predC (c : Ctx) (r : Nat) (x : VReg) : (c.setV r x).predC = c.predC := rfl
@[simp] theorem Ctx.setV_predH (c : Ctx) (r : Nat) (x : VReg) : (c.setV r x).predH = c.predH := rfl
@[simp] theorem Ctx.setV_migMark (c : Ctx) (r : Nat) (x : VReg) : (c.setV r x).migMark = c.migMark := rfl
@[simp] theorem Ctx.setV_acqStamp (c : Ctx) (r : Nat) (x : VReg) : (c.setV r x).acqStamp = c.acqStamp := rfl
@[simp] theorem Ctx.setV_acqPod (c : Ctx) (r : Nat) (x : VReg) : (c.setV r x).acqPod = c.acqPod := rfl
@[simp] theorem Ctx.setV_st (c : Ctx) (r : Nat) (x : VReg) : (c.setV r x).st = c.st := rfl
@[simp] theorem Ctx.setV_wait (c : Ctx) (r : Nat) (x : VReg) : (c.setV r x).wait = c.wait := rfl
@[simp] theorem Ctx.setV_parkCycle (c : Ctx) (r : Nat) (x : VReg) : (c.setV r x).parkCycle = c.parkCycle := rfl
@[simp] theorem Ctx.setV_place (c : Ctx) (r : Nat) (x : VReg) : (c.setV r x).place = c.place := rfl
@[simp] theorem Ctx.setV_woken (c : Ctx) (r : Nat) (x : VReg) : (c.setV r x).woken = c.woken := rfl
@[simp] theorem Ctx.setV_readyAt (c : Ctx) (r : Nat) (x : VReg) : (c.setV r x).readyAt = c.readyAt := rfl
@[simp] theorem Ctx.setV_issuedAt (c : Ctx) (r : Nat) (x : VReg) : (c.setV r x).issuedAt = c.issuedAt := rfl
@[simp] theorem Ctx.setV_held (c : Ctx) (r : Nat) (x : VReg) : (c.setV r x).held = c.held := rfl
@[simp] theorem Ctx.setV_pend (c : Ctx) (r : Nat) (x : VReg) : (c.setV r x).pend = c.pend := rfl
@[simp] theorem Ctx.setV_due (c : Ctx) (r : Nat) (x : VReg) : (c.setV r x).due = c.due := rfl
@[simp] theorem Ctx.setV_parkPc (c : Ctx) (r : Nat) (x : VReg) : (c.setV r x).parkPc = c.parkPc := rfl
@[simp] theorem Ctx.setV_parkWord (c : Ctx) (r : Nat) (x : VReg) : (c.setV r x).parkWord = c.parkWord := rfl
@[simp] theorem Ctx.setV_csrOld (c : Ctx) (r : Nat) (x : VReg) : (c.setV r x).csrOld = c.csrOld := rfl
@[simp] theorem Ctx.setV_key (c : Ctx) (r : Nat) (x : VReg) : (c.setV r x).key = c.key := by simp [Ctx.key]

/-! ### `Ctx.setQ` -/

@[simp] theorem Ctx.setQ_uid (c : Ctx) (r : Nat) (x : BitVec 128) : (c.setQ r x).uid = c.uid := rfl
@[simp] theorem Ctx.setQ_start (c : Ctx) (r : Nat) (x : BitVec 128) : (c.setQ r x).start = c.start := rfl
@[simp] theorem Ctx.setQ_slot (c : Ctx) (r : Nat) (x : BitVec 128) : (c.setQ r x).slot = c.slot := rfl
@[simp] theorem Ctx.setQ_cur (c : Ctx) (r : Nat) (x : BitVec 128) : (c.setQ r x).cur = c.cur := rfl
@[simp] theorem Ctx.setQ_foot (c : Ctx) (r : Nat) (x : BitVec 128) : (c.setQ r x).foot = c.foot := rfl
@[simp] theorem Ctx.setQ_heavy (c : Ctx) (r : Nat) (x : BitVec 128) : (c.setQ r x).heavy = c.heavy := rfl
@[simp] theorem Ctx.setQ_sup (c : Ctx) (r : Nat) (x : BitVec 128) : (c.setQ r x).sup = c.sup := rfl
@[simp] theorem Ctx.setQ_backup (c : Ctx) (r : Nat) (x : BitVec 128) : (c.setQ r x).backup = c.backup := rfl
@[simp] theorem Ctx.setQ_migr (c : Ctx) (r : Nat) (x : BitVec 128) : (c.setQ r x).migr = c.migr := rfl
@[simp] theorem Ctx.setQ_chan (c : Ctx) (r : Nat) (x : BitVec 128) : (c.setQ r x).chan = c.chan := rfl
@[simp] theorem Ctx.setQ_prio (c : Ctx) (r : Nat) (x : BitVec 128) : (c.setQ r x).prio = c.prio := rfl
@[simp] theorem Ctx.setQ_pairClass (c : Ctx) (r : Nat) (x : BitVec 128) : (c.setQ r x).pairClass = c.pairClass := rfl
@[simp] theorem Ctx.setQ_mseq (c : Ctx) (r : Nat) (x : BitVec 128) : (c.setQ r x).mseq = c.mseq := rfl
@[simp] theorem Ctx.setQ_tclass (c : Ctx) (r : Nat) (x : BitVec 128) : (c.setQ r x).tclass = c.tclass := rfl
@[simp] theorem Ctx.setQ_leaseBase (c : Ctx) (r : Nat) (x : BitVec 128) : (c.setQ r x).leaseBase = c.leaseBase := rfl
@[simp] theorem Ctx.setQ_leaseSize (c : Ctx) (r : Nat) (x : BitVec 128) : (c.setQ r x).leaseSize = c.leaseSize := rfl
@[simp] theorem Ctx.setQ_leaseV (c : Ctx) (r : Nat) (x : BitVec 128) : (c.setQ r x).leaseV = c.leaseV := rfl
@[simp] theorem Ctx.setQ_launch (c : Ctx) (r : Nat) (x : BitVec 128) : (c.setQ r x).launch = c.launch := rfl
@[simp] theorem Ctx.setQ_net (c : Ctx) (r : Nat) (x : BitVec 128) : (c.setQ r x).net = c.net := rfl
@[simp] theorem Ctx.setQ_tenant (c : Ctx) (r : Nat) (x : BitVec 128) : (c.setQ r x).tenant = c.tenant := rfl
@[simp] theorem Ctx.setQ_firing (c : Ctx) (r : Nat) (x : BitVec 128) : (c.setQ r x).firing = c.firing := rfl
@[simp] theorem Ctx.setQ_startVals (c : Ctx) (r : Nat) (x : BitVec 128) : (c.setQ r x).startVals = c.startVals := rfl
@[simp] theorem Ctx.setQ_startTime (c : Ctx) (r : Nat) (x : BitVec 128) : (c.setQ r x).startTime = c.startTime := rfl
@[simp] theorem Ctx.setQ_port (c : Ctx) (r : Nat) (x : BitVec 128) : (c.setQ r x).port = c.port := rfl
@[simp] theorem Ctx.setQ_pc (c : Ctx) (r : Nat) (x : BitVec 128) : (c.setQ r x).pc = c.pc := rfl
@[simp] theorem Ctx.setQ_s (c : Ctx) (r : Nat) (x : BitVec 128) : (c.setQ r x).s = c.s := rfl
@[simp] theorem Ctx.setQ_v (c : Ctx) (r : Nat) (x : BitVec 128) : (c.setQ r x).v = c.v := rfl
@[simp] theorem Ctx.setQ_k (c : Ctx) (r : Nat) (x : BitVec 128) : (c.setQ r x).k = c.k := rfl
@[simp] theorem Ctx.setQ_o (c : Ctx) (r : Nat) (x : BitVec 128) : (c.setQ r x).o = c.o := rfl
@[simp] theorem Ctx.setQ_m (c : Ctx) (r : Nat) (x : BitVec 128) : (c.setQ r x).m = c.m := rfl
@[simp] theorem Ctx.setQ_slots (c : Ctx) (r : Nat) (x : BitVec 128) : (c.setQ r x).slots = c.slots := rfl
@[simp] theorem Ctx.setQ_xpc (c : Ctx) (r : Nat) (x : BitVec 128) : (c.setQ r x).xpc = c.xpc := rfl
@[simp] theorem Ctx.setQ_xcause (c : Ctx) (r : Nat) (x : BitVec 128) : (c.setQ r x).xcause = c.xcause := rfl
@[simp] theorem Ctx.setQ_xval (c : Ctx) (r : Nat) (x : BitVec 128) : (c.setQ r x).xval = c.xval := rfl
@[simp] theorem Ctx.setQ_intrap (c : Ctx) (r : Nat) (x : BitVec 128) : (c.setQ r x).intrap = c.intrap := rfl
@[simp] theorem Ctx.setQ_psup (c : Ctx) (r : Nat) (x : BitVec 128) : (c.setQ r x).psup = c.psup := rfl
@[simp] theorem Ctx.setQ_xhand (c : Ctx) (r : Nat) (x : BitVec 128) : (c.setQ r x).xhand = c.xhand := rfl
@[simp] theorem Ctx.setQ_rwc (c : Ctx) (r : Nat) (x : BitVec 128) : (c.setQ r x).rwc = c.rwc := rfl
@[simp] theorem Ctx.setQ_limit (c : Ctx) (r : Nat) (x : BitVec 128) : (c.setQ r x).limit = c.limit := rfl
@[simp] theorem Ctx.setQ_used (c : Ctx) (r : Nat) (x : BitVec 128) : (c.setQ r x).used = c.used := rfl
@[simp] theorem Ctx.setQ_waitlim (c : Ctx) (r : Nat) (x : BitVec 128) : (c.setQ r x).waitlim = c.waitlim := rfl
@[simp] theorem Ctx.setQ_fpflags (c : Ctx) (r : Nat) (x : BitVec 128) : (c.setQ r x).fpflags = c.fpflags := rfl
@[simp] theorem Ctx.setQ_fmttrap (c : Ctx) (r : Nat) (x : BitVec 128) : (c.setQ r x).fmttrap = c.fmttrap := rfl
@[simp] theorem Ctx.setQ_binds (c : Ctx) (r : Nat) (x : BitVec 128) : (c.setQ r x).binds = c.binds := rfl
@[simp] theorem Ctx.setQ_obls (c : Ctx) (r : Nat) (x : BitVec 128) : (c.setQ r x).obls = c.obls := rfl
@[simp] theorem Ctx.setQ_reserved (c : Ctx) (r : Nat) (x : BitVec 128) : (c.setQ r x).reserved = c.reserved := rfl
@[simp] theorem Ctx.setQ_predC (c : Ctx) (r : Nat) (x : BitVec 128) : (c.setQ r x).predC = c.predC := rfl
@[simp] theorem Ctx.setQ_predH (c : Ctx) (r : Nat) (x : BitVec 128) : (c.setQ r x).predH = c.predH := rfl
@[simp] theorem Ctx.setQ_migMark (c : Ctx) (r : Nat) (x : BitVec 128) : (c.setQ r x).migMark = c.migMark := rfl
@[simp] theorem Ctx.setQ_acqStamp (c : Ctx) (r : Nat) (x : BitVec 128) : (c.setQ r x).acqStamp = c.acqStamp := rfl
@[simp] theorem Ctx.setQ_acqPod (c : Ctx) (r : Nat) (x : BitVec 128) : (c.setQ r x).acqPod = c.acqPod := rfl
@[simp] theorem Ctx.setQ_st (c : Ctx) (r : Nat) (x : BitVec 128) : (c.setQ r x).st = c.st := rfl
@[simp] theorem Ctx.setQ_wait (c : Ctx) (r : Nat) (x : BitVec 128) : (c.setQ r x).wait = c.wait := rfl
@[simp] theorem Ctx.setQ_parkCycle (c : Ctx) (r : Nat) (x : BitVec 128) : (c.setQ r x).parkCycle = c.parkCycle := rfl
@[simp] theorem Ctx.setQ_place (c : Ctx) (r : Nat) (x : BitVec 128) : (c.setQ r x).place = c.place := rfl
@[simp] theorem Ctx.setQ_woken (c : Ctx) (r : Nat) (x : BitVec 128) : (c.setQ r x).woken = c.woken := rfl
@[simp] theorem Ctx.setQ_readyAt (c : Ctx) (r : Nat) (x : BitVec 128) : (c.setQ r x).readyAt = c.readyAt := rfl
@[simp] theorem Ctx.setQ_issuedAt (c : Ctx) (r : Nat) (x : BitVec 128) : (c.setQ r x).issuedAt = c.issuedAt := rfl
@[simp] theorem Ctx.setQ_held (c : Ctx) (r : Nat) (x : BitVec 128) : (c.setQ r x).held = c.held := rfl
@[simp] theorem Ctx.setQ_pend (c : Ctx) (r : Nat) (x : BitVec 128) : (c.setQ r x).pend = c.pend := rfl
@[simp] theorem Ctx.setQ_due (c : Ctx) (r : Nat) (x : BitVec 128) : (c.setQ r x).due = c.due := rfl
@[simp] theorem Ctx.setQ_parkPc (c : Ctx) (r : Nat) (x : BitVec 128) : (c.setQ r x).parkPc = c.parkPc := rfl
@[simp] theorem Ctx.setQ_parkWord (c : Ctx) (r : Nat) (x : BitVec 128) : (c.setQ r x).parkWord = c.parkWord := rfl
@[simp] theorem Ctx.setQ_csrOld (c : Ctx) (r : Nat) (x : BitVec 128) : (c.setQ r x).csrOld = c.csrOld := rfl
@[simp] theorem Ctx.setQ_key (c : Ctx) (r : Nat) (x : BitVec 128) : (c.setQ r x).key = c.key := by simp [Ctx.key]

/-! ### `Ctx.raise` -/

@[simp] theorem Ctx.raise_uid (c : Ctx) (f : Nat) : (c.raise f).uid = c.uid := rfl
@[simp] theorem Ctx.raise_start (c : Ctx) (f : Nat) : (c.raise f).start = c.start := rfl
@[simp] theorem Ctx.raise_slot (c : Ctx) (f : Nat) : (c.raise f).slot = c.slot := rfl
@[simp] theorem Ctx.raise_cur (c : Ctx) (f : Nat) : (c.raise f).cur = c.cur := rfl
@[simp] theorem Ctx.raise_foot (c : Ctx) (f : Nat) : (c.raise f).foot = c.foot := rfl
@[simp] theorem Ctx.raise_heavy (c : Ctx) (f : Nat) : (c.raise f).heavy = c.heavy := rfl
@[simp] theorem Ctx.raise_sup (c : Ctx) (f : Nat) : (c.raise f).sup = c.sup := rfl
@[simp] theorem Ctx.raise_backup (c : Ctx) (f : Nat) : (c.raise f).backup = c.backup := rfl
@[simp] theorem Ctx.raise_migr (c : Ctx) (f : Nat) : (c.raise f).migr = c.migr := rfl
@[simp] theorem Ctx.raise_chan (c : Ctx) (f : Nat) : (c.raise f).chan = c.chan := rfl
@[simp] theorem Ctx.raise_prio (c : Ctx) (f : Nat) : (c.raise f).prio = c.prio := rfl
@[simp] theorem Ctx.raise_pairClass (c : Ctx) (f : Nat) : (c.raise f).pairClass = c.pairClass := rfl
@[simp] theorem Ctx.raise_mseq (c : Ctx) (f : Nat) : (c.raise f).mseq = c.mseq := rfl
@[simp] theorem Ctx.raise_tclass (c : Ctx) (f : Nat) : (c.raise f).tclass = c.tclass := rfl
@[simp] theorem Ctx.raise_leaseBase (c : Ctx) (f : Nat) : (c.raise f).leaseBase = c.leaseBase := rfl
@[simp] theorem Ctx.raise_leaseSize (c : Ctx) (f : Nat) : (c.raise f).leaseSize = c.leaseSize := rfl
@[simp] theorem Ctx.raise_leaseV (c : Ctx) (f : Nat) : (c.raise f).leaseV = c.leaseV := rfl
@[simp] theorem Ctx.raise_launch (c : Ctx) (f : Nat) : (c.raise f).launch = c.launch := rfl
@[simp] theorem Ctx.raise_net (c : Ctx) (f : Nat) : (c.raise f).net = c.net := rfl
@[simp] theorem Ctx.raise_tenant (c : Ctx) (f : Nat) : (c.raise f).tenant = c.tenant := rfl
@[simp] theorem Ctx.raise_firing (c : Ctx) (f : Nat) : (c.raise f).firing = c.firing := rfl
@[simp] theorem Ctx.raise_startVals (c : Ctx) (f : Nat) : (c.raise f).startVals = c.startVals := rfl
@[simp] theorem Ctx.raise_startTime (c : Ctx) (f : Nat) : (c.raise f).startTime = c.startTime := rfl
@[simp] theorem Ctx.raise_port (c : Ctx) (f : Nat) : (c.raise f).port = c.port := rfl
@[simp] theorem Ctx.raise_pc (c : Ctx) (f : Nat) : (c.raise f).pc = c.pc := rfl
@[simp] theorem Ctx.raise_s (c : Ctx) (f : Nat) : (c.raise f).s = c.s := rfl
@[simp] theorem Ctx.raise_v (c : Ctx) (f : Nat) : (c.raise f).v = c.v := rfl
@[simp] theorem Ctx.raise_k (c : Ctx) (f : Nat) : (c.raise f).k = c.k := rfl
@[simp] theorem Ctx.raise_o (c : Ctx) (f : Nat) : (c.raise f).o = c.o := rfl
@[simp] theorem Ctx.raise_m (c : Ctx) (f : Nat) : (c.raise f).m = c.m := rfl
@[simp] theorem Ctx.raise_q (c : Ctx) (f : Nat) : (c.raise f).q = c.q := rfl
@[simp] theorem Ctx.raise_slots (c : Ctx) (f : Nat) : (c.raise f).slots = c.slots := rfl
@[simp] theorem Ctx.raise_xpc (c : Ctx) (f : Nat) : (c.raise f).xpc = c.xpc := rfl
@[simp] theorem Ctx.raise_xcause (c : Ctx) (f : Nat) : (c.raise f).xcause = c.xcause := rfl
@[simp] theorem Ctx.raise_xval (c : Ctx) (f : Nat) : (c.raise f).xval = c.xval := rfl
@[simp] theorem Ctx.raise_intrap (c : Ctx) (f : Nat) : (c.raise f).intrap = c.intrap := rfl
@[simp] theorem Ctx.raise_psup (c : Ctx) (f : Nat) : (c.raise f).psup = c.psup := rfl
@[simp] theorem Ctx.raise_xhand (c : Ctx) (f : Nat) : (c.raise f).xhand = c.xhand := rfl
@[simp] theorem Ctx.raise_rwc (c : Ctx) (f : Nat) : (c.raise f).rwc = c.rwc := rfl
@[simp] theorem Ctx.raise_limit (c : Ctx) (f : Nat) : (c.raise f).limit = c.limit := rfl
@[simp] theorem Ctx.raise_used (c : Ctx) (f : Nat) : (c.raise f).used = c.used := rfl
@[simp] theorem Ctx.raise_waitlim (c : Ctx) (f : Nat) : (c.raise f).waitlim = c.waitlim := rfl
@[simp] theorem Ctx.raise_fmttrap (c : Ctx) (f : Nat) : (c.raise f).fmttrap = c.fmttrap := rfl
@[simp] theorem Ctx.raise_binds (c : Ctx) (f : Nat) : (c.raise f).binds = c.binds := rfl
@[simp] theorem Ctx.raise_obls (c : Ctx) (f : Nat) : (c.raise f).obls = c.obls := rfl
@[simp] theorem Ctx.raise_reserved (c : Ctx) (f : Nat) : (c.raise f).reserved = c.reserved := rfl
@[simp] theorem Ctx.raise_predC (c : Ctx) (f : Nat) : (c.raise f).predC = c.predC := rfl
@[simp] theorem Ctx.raise_predH (c : Ctx) (f : Nat) : (c.raise f).predH = c.predH := rfl
@[simp] theorem Ctx.raise_migMark (c : Ctx) (f : Nat) : (c.raise f).migMark = c.migMark := rfl
@[simp] theorem Ctx.raise_acqStamp (c : Ctx) (f : Nat) : (c.raise f).acqStamp = c.acqStamp := rfl
@[simp] theorem Ctx.raise_acqPod (c : Ctx) (f : Nat) : (c.raise f).acqPod = c.acqPod := rfl
@[simp] theorem Ctx.raise_st (c : Ctx) (f : Nat) : (c.raise f).st = c.st := rfl
@[simp] theorem Ctx.raise_wait (c : Ctx) (f : Nat) : (c.raise f).wait = c.wait := rfl
@[simp] theorem Ctx.raise_parkCycle (c : Ctx) (f : Nat) : (c.raise f).parkCycle = c.parkCycle := rfl
@[simp] theorem Ctx.raise_place (c : Ctx) (f : Nat) : (c.raise f).place = c.place := rfl
@[simp] theorem Ctx.raise_woken (c : Ctx) (f : Nat) : (c.raise f).woken = c.woken := rfl
@[simp] theorem Ctx.raise_readyAt (c : Ctx) (f : Nat) : (c.raise f).readyAt = c.readyAt := rfl
@[simp] theorem Ctx.raise_issuedAt (c : Ctx) (f : Nat) : (c.raise f).issuedAt = c.issuedAt := rfl
@[simp] theorem Ctx.raise_held (c : Ctx) (f : Nat) : (c.raise f).held = c.held := rfl
@[simp] theorem Ctx.raise_pend (c : Ctx) (f : Nat) : (c.raise f).pend = c.pend := rfl
@[simp] theorem Ctx.raise_due (c : Ctx) (f : Nat) : (c.raise f).due = c.due := rfl
@[simp] theorem Ctx.raise_parkPc (c : Ctx) (f : Nat) : (c.raise f).parkPc = c.parkPc := rfl
@[simp] theorem Ctx.raise_parkWord (c : Ctx) (f : Nat) : (c.raise f).parkWord = c.parkWord := rfl
@[simp] theorem Ctx.raise_csrOld (c : Ctx) (f : Nat) : (c.raise f).csrOld = c.csrOld := rfl
@[simp] theorem Ctx.raise_key (c : Ctx) (f : Nat) : (c.raise f).key = c.key := by simp [Ctx.key]

/-! ### `Ctx.putSlot` -/

@[simp] theorem Ctx.putSlot_uid (c : Ctx) (x : Slot) : (c.putSlot x).uid = c.uid := rfl
@[simp] theorem Ctx.putSlot_start (c : Ctx) (x : Slot) : (c.putSlot x).start = c.start := rfl
@[simp] theorem Ctx.putSlot_slot (c : Ctx) (x : Slot) : (c.putSlot x).slot = c.slot := rfl
@[simp] theorem Ctx.putSlot_cur (c : Ctx) (x : Slot) : (c.putSlot x).cur = c.cur := rfl
@[simp] theorem Ctx.putSlot_foot (c : Ctx) (x : Slot) : (c.putSlot x).foot = c.foot := rfl
@[simp] theorem Ctx.putSlot_heavy (c : Ctx) (x : Slot) : (c.putSlot x).heavy = c.heavy := rfl
@[simp] theorem Ctx.putSlot_sup (c : Ctx) (x : Slot) : (c.putSlot x).sup = c.sup := rfl
@[simp] theorem Ctx.putSlot_backup (c : Ctx) (x : Slot) : (c.putSlot x).backup = c.backup := rfl
@[simp] theorem Ctx.putSlot_migr (c : Ctx) (x : Slot) : (c.putSlot x).migr = c.migr := rfl
@[simp] theorem Ctx.putSlot_chan (c : Ctx) (x : Slot) : (c.putSlot x).chan = c.chan := rfl
@[simp] theorem Ctx.putSlot_prio (c : Ctx) (x : Slot) : (c.putSlot x).prio = c.prio := rfl
@[simp] theorem Ctx.putSlot_pairClass (c : Ctx) (x : Slot) : (c.putSlot x).pairClass = c.pairClass := rfl
@[simp] theorem Ctx.putSlot_mseq (c : Ctx) (x : Slot) : (c.putSlot x).mseq = c.mseq := rfl
@[simp] theorem Ctx.putSlot_tclass (c : Ctx) (x : Slot) : (c.putSlot x).tclass = c.tclass := rfl
@[simp] theorem Ctx.putSlot_leaseBase (c : Ctx) (x : Slot) : (c.putSlot x).leaseBase = c.leaseBase := rfl
@[simp] theorem Ctx.putSlot_leaseSize (c : Ctx) (x : Slot) : (c.putSlot x).leaseSize = c.leaseSize := rfl
@[simp] theorem Ctx.putSlot_leaseV (c : Ctx) (x : Slot) : (c.putSlot x).leaseV = c.leaseV := rfl
@[simp] theorem Ctx.putSlot_launch (c : Ctx) (x : Slot) : (c.putSlot x).launch = c.launch := rfl
@[simp] theorem Ctx.putSlot_net (c : Ctx) (x : Slot) : (c.putSlot x).net = c.net := rfl
@[simp] theorem Ctx.putSlot_tenant (c : Ctx) (x : Slot) : (c.putSlot x).tenant = c.tenant := rfl
@[simp] theorem Ctx.putSlot_firing (c : Ctx) (x : Slot) : (c.putSlot x).firing = c.firing := rfl
@[simp] theorem Ctx.putSlot_startVals (c : Ctx) (x : Slot) : (c.putSlot x).startVals = c.startVals := rfl
@[simp] theorem Ctx.putSlot_startTime (c : Ctx) (x : Slot) : (c.putSlot x).startTime = c.startTime := rfl
@[simp] theorem Ctx.putSlot_port (c : Ctx) (x : Slot) : (c.putSlot x).port = c.port := rfl
@[simp] theorem Ctx.putSlot_pc (c : Ctx) (x : Slot) : (c.putSlot x).pc = c.pc := rfl
@[simp] theorem Ctx.putSlot_s (c : Ctx) (x : Slot) : (c.putSlot x).s = c.s := rfl
@[simp] theorem Ctx.putSlot_v (c : Ctx) (x : Slot) : (c.putSlot x).v = c.v := rfl
@[simp] theorem Ctx.putSlot_k (c : Ctx) (x : Slot) : (c.putSlot x).k = c.k := rfl
@[simp] theorem Ctx.putSlot_o (c : Ctx) (x : Slot) : (c.putSlot x).o = c.o := rfl
@[simp] theorem Ctx.putSlot_m (c : Ctx) (x : Slot) : (c.putSlot x).m = c.m := rfl
@[simp] theorem Ctx.putSlot_q (c : Ctx) (x : Slot) : (c.putSlot x).q = c.q := rfl
@[simp] theorem Ctx.putSlot_xpc (c : Ctx) (x : Slot) : (c.putSlot x).xpc = c.xpc := rfl
@[simp] theorem Ctx.putSlot_xcause (c : Ctx) (x : Slot) : (c.putSlot x).xcause = c.xcause := rfl
@[simp] theorem Ctx.putSlot_xval (c : Ctx) (x : Slot) : (c.putSlot x).xval = c.xval := rfl
@[simp] theorem Ctx.putSlot_intrap (c : Ctx) (x : Slot) : (c.putSlot x).intrap = c.intrap := rfl
@[simp] theorem Ctx.putSlot_psup (c : Ctx) (x : Slot) : (c.putSlot x).psup = c.psup := rfl
@[simp] theorem Ctx.putSlot_xhand (c : Ctx) (x : Slot) : (c.putSlot x).xhand = c.xhand := rfl
@[simp] theorem Ctx.putSlot_rwc (c : Ctx) (x : Slot) : (c.putSlot x).rwc = c.rwc := rfl
@[simp] theorem Ctx.putSlot_limit (c : Ctx) (x : Slot) : (c.putSlot x).limit = c.limit := rfl
@[simp] theorem Ctx.putSlot_used (c : Ctx) (x : Slot) : (c.putSlot x).used = c.used := rfl
@[simp] theorem Ctx.putSlot_waitlim (c : Ctx) (x : Slot) : (c.putSlot x).waitlim = c.waitlim := rfl
@[simp] theorem Ctx.putSlot_fpflags (c : Ctx) (x : Slot) : (c.putSlot x).fpflags = c.fpflags := rfl
@[simp] theorem Ctx.putSlot_fmttrap (c : Ctx) (x : Slot) : (c.putSlot x).fmttrap = c.fmttrap := rfl
@[simp] theorem Ctx.putSlot_binds (c : Ctx) (x : Slot) : (c.putSlot x).binds = c.binds := rfl
@[simp] theorem Ctx.putSlot_obls (c : Ctx) (x : Slot) : (c.putSlot x).obls = c.obls := rfl
@[simp] theorem Ctx.putSlot_reserved (c : Ctx) (x : Slot) : (c.putSlot x).reserved = c.reserved := rfl
@[simp] theorem Ctx.putSlot_predC (c : Ctx) (x : Slot) : (c.putSlot x).predC = c.predC := rfl
@[simp] theorem Ctx.putSlot_predH (c : Ctx) (x : Slot) : (c.putSlot x).predH = c.predH := rfl
@[simp] theorem Ctx.putSlot_migMark (c : Ctx) (x : Slot) : (c.putSlot x).migMark = c.migMark := rfl
@[simp] theorem Ctx.putSlot_acqStamp (c : Ctx) (x : Slot) : (c.putSlot x).acqStamp = c.acqStamp := rfl
@[simp] theorem Ctx.putSlot_acqPod (c : Ctx) (x : Slot) : (c.putSlot x).acqPod = c.acqPod := rfl
@[simp] theorem Ctx.putSlot_st (c : Ctx) (x : Slot) : (c.putSlot x).st = c.st := rfl
@[simp] theorem Ctx.putSlot_wait (c : Ctx) (x : Slot) : (c.putSlot x).wait = c.wait := rfl
@[simp] theorem Ctx.putSlot_parkCycle (c : Ctx) (x : Slot) : (c.putSlot x).parkCycle = c.parkCycle := rfl
@[simp] theorem Ctx.putSlot_place (c : Ctx) (x : Slot) : (c.putSlot x).place = c.place := rfl
@[simp] theorem Ctx.putSlot_woken (c : Ctx) (x : Slot) : (c.putSlot x).woken = c.woken := rfl
@[simp] theorem Ctx.putSlot_readyAt (c : Ctx) (x : Slot) : (c.putSlot x).readyAt = c.readyAt := rfl
@[simp] theorem Ctx.putSlot_issuedAt (c : Ctx) (x : Slot) : (c.putSlot x).issuedAt = c.issuedAt := rfl
@[simp] theorem Ctx.putSlot_held (c : Ctx) (x : Slot) : (c.putSlot x).held = c.held := rfl
@[simp] theorem Ctx.putSlot_pend (c : Ctx) (x : Slot) : (c.putSlot x).pend = c.pend := rfl
@[simp] theorem Ctx.putSlot_due (c : Ctx) (x : Slot) : (c.putSlot x).due = c.due := rfl
@[simp] theorem Ctx.putSlot_parkPc (c : Ctx) (x : Slot) : (c.putSlot x).parkPc = c.parkPc := rfl
@[simp] theorem Ctx.putSlot_parkWord (c : Ctx) (x : Slot) : (c.putSlot x).parkWord = c.parkWord := rfl
@[simp] theorem Ctx.putSlot_csrOld (c : Ctx) (x : Slot) : (c.putSlot x).csrOld = c.csrOld := rfl
@[simp] theorem Ctx.putSlot_key (c : Ctx) (x : Slot) : (c.putSlot x).key = c.key := by simp [Ctx.key]

/-! ### `Ctx.wake` -/

@[simp] theorem Ctx.wake_uid (c : Ctx) (t : Nat) : (c.wake t).uid = c.uid := rfl
@[simp] theorem Ctx.wake_start (c : Ctx) (t : Nat) : (c.wake t).start = c.start := rfl
@[simp] theorem Ctx.wake_slot (c : Ctx) (t : Nat) : (c.wake t).slot = c.slot := rfl
@[simp] theorem Ctx.wake_cur (c : Ctx) (t : Nat) : (c.wake t).cur = c.cur := rfl
@[simp] theorem Ctx.wake_foot (c : Ctx) (t : Nat) : (c.wake t).foot = c.foot := rfl
@[simp] theorem Ctx.wake_heavy (c : Ctx) (t : Nat) : (c.wake t).heavy = c.heavy := rfl
@[simp] theorem Ctx.wake_sup (c : Ctx) (t : Nat) : (c.wake t).sup = c.sup := rfl
@[simp] theorem Ctx.wake_backup (c : Ctx) (t : Nat) : (c.wake t).backup = c.backup := rfl
@[simp] theorem Ctx.wake_migr (c : Ctx) (t : Nat) : (c.wake t).migr = c.migr := rfl
@[simp] theorem Ctx.wake_chan (c : Ctx) (t : Nat) : (c.wake t).chan = c.chan := rfl
@[simp] theorem Ctx.wake_prio (c : Ctx) (t : Nat) : (c.wake t).prio = c.prio := rfl
@[simp] theorem Ctx.wake_pairClass (c : Ctx) (t : Nat) : (c.wake t).pairClass = c.pairClass := rfl
@[simp] theorem Ctx.wake_mseq (c : Ctx) (t : Nat) : (c.wake t).mseq = c.mseq := rfl
@[simp] theorem Ctx.wake_tclass (c : Ctx) (t : Nat) : (c.wake t).tclass = c.tclass := rfl
@[simp] theorem Ctx.wake_leaseBase (c : Ctx) (t : Nat) : (c.wake t).leaseBase = c.leaseBase := rfl
@[simp] theorem Ctx.wake_leaseSize (c : Ctx) (t : Nat) : (c.wake t).leaseSize = c.leaseSize := rfl
@[simp] theorem Ctx.wake_leaseV (c : Ctx) (t : Nat) : (c.wake t).leaseV = c.leaseV := rfl
@[simp] theorem Ctx.wake_launch (c : Ctx) (t : Nat) : (c.wake t).launch = c.launch := rfl
@[simp] theorem Ctx.wake_net (c : Ctx) (t : Nat) : (c.wake t).net = c.net := rfl
@[simp] theorem Ctx.wake_tenant (c : Ctx) (t : Nat) : (c.wake t).tenant = c.tenant := rfl
@[simp] theorem Ctx.wake_firing (c : Ctx) (t : Nat) : (c.wake t).firing = c.firing := rfl
@[simp] theorem Ctx.wake_startVals (c : Ctx) (t : Nat) : (c.wake t).startVals = c.startVals := rfl
@[simp] theorem Ctx.wake_startTime (c : Ctx) (t : Nat) : (c.wake t).startTime = c.startTime := rfl
@[simp] theorem Ctx.wake_port (c : Ctx) (t : Nat) : (c.wake t).port = c.port := rfl
@[simp] theorem Ctx.wake_pc (c : Ctx) (t : Nat) : (c.wake t).pc = c.pc := rfl
@[simp] theorem Ctx.wake_s (c : Ctx) (t : Nat) : (c.wake t).s = c.s := rfl
@[simp] theorem Ctx.wake_v (c : Ctx) (t : Nat) : (c.wake t).v = c.v := rfl
@[simp] theorem Ctx.wake_k (c : Ctx) (t : Nat) : (c.wake t).k = c.k := rfl
@[simp] theorem Ctx.wake_o (c : Ctx) (t : Nat) : (c.wake t).o = c.o := rfl
@[simp] theorem Ctx.wake_m (c : Ctx) (t : Nat) : (c.wake t).m = c.m := rfl
@[simp] theorem Ctx.wake_q (c : Ctx) (t : Nat) : (c.wake t).q = c.q := rfl
@[simp] theorem Ctx.wake_slots (c : Ctx) (t : Nat) : (c.wake t).slots = c.slots := rfl
@[simp] theorem Ctx.wake_xpc (c : Ctx) (t : Nat) : (c.wake t).xpc = c.xpc := rfl
@[simp] theorem Ctx.wake_xcause (c : Ctx) (t : Nat) : (c.wake t).xcause = c.xcause := rfl
@[simp] theorem Ctx.wake_xval (c : Ctx) (t : Nat) : (c.wake t).xval = c.xval := rfl
@[simp] theorem Ctx.wake_intrap (c : Ctx) (t : Nat) : (c.wake t).intrap = c.intrap := rfl
@[simp] theorem Ctx.wake_psup (c : Ctx) (t : Nat) : (c.wake t).psup = c.psup := rfl
@[simp] theorem Ctx.wake_xhand (c : Ctx) (t : Nat) : (c.wake t).xhand = c.xhand := rfl
@[simp] theorem Ctx.wake_rwc (c : Ctx) (t : Nat) : (c.wake t).rwc = c.rwc := rfl
@[simp] theorem Ctx.wake_limit (c : Ctx) (t : Nat) : (c.wake t).limit = c.limit := rfl
@[simp] theorem Ctx.wake_used (c : Ctx) (t : Nat) : (c.wake t).used = c.used := rfl
@[simp] theorem Ctx.wake_waitlim (c : Ctx) (t : Nat) : (c.wake t).waitlim = c.waitlim := rfl
@[simp] theorem Ctx.wake_fpflags (c : Ctx) (t : Nat) : (c.wake t).fpflags = c.fpflags := rfl
@[simp] theorem Ctx.wake_fmttrap (c : Ctx) (t : Nat) : (c.wake t).fmttrap = c.fmttrap := rfl
@[simp] theorem Ctx.wake_binds (c : Ctx) (t : Nat) : (c.wake t).binds = c.binds := rfl
@[simp] theorem Ctx.wake_obls (c : Ctx) (t : Nat) : (c.wake t).obls = c.obls := rfl
@[simp] theorem Ctx.wake_reserved (c : Ctx) (t : Nat) : (c.wake t).reserved = c.reserved := rfl
@[simp] theorem Ctx.wake_predC (c : Ctx) (t : Nat) : (c.wake t).predC = c.predC := rfl
@[simp] theorem Ctx.wake_predH (c : Ctx) (t : Nat) : (c.wake t).predH = c.predH := rfl
@[simp] theorem Ctx.wake_migMark (c : Ctx) (t : Nat) : (c.wake t).migMark = c.migMark := rfl
@[simp] theorem Ctx.wake_acqStamp (c : Ctx) (t : Nat) : (c.wake t).acqStamp = c.acqStamp := rfl
@[simp] theorem Ctx.wake_acqPod (c : Ctx) (t : Nat) : (c.wake t).acqPod = c.acqPod := rfl
@[simp] theorem Ctx.wake_parkCycle (c : Ctx) (t : Nat) : (c.wake t).parkCycle = c.parkCycle := rfl
@[simp] theorem Ctx.wake_place (c : Ctx) (t : Nat) : (c.wake t).place = c.place := rfl
@[simp] theorem Ctx.wake_issuedAt (c : Ctx) (t : Nat) : (c.wake t).issuedAt = c.issuedAt := rfl
@[simp] theorem Ctx.wake_held (c : Ctx) (t : Nat) : (c.wake t).held = c.held := rfl
@[simp] theorem Ctx.wake_pend (c : Ctx) (t : Nat) : (c.wake t).pend = c.pend := rfl
@[simp] theorem Ctx.wake_due (c : Ctx) (t : Nat) : (c.wake t).due = c.due := rfl
@[simp] theorem Ctx.wake_parkPc (c : Ctx) (t : Nat) : (c.wake t).parkPc = c.parkPc := rfl
@[simp] theorem Ctx.wake_parkWord (c : Ctx) (t : Nat) : (c.wake t).parkWord = c.parkWord := rfl
@[simp] theorem Ctx.wake_csrOld (c : Ctx) (t : Nat) : (c.wake t).csrOld = c.csrOld := rfl
@[simp] theorem Ctx.wake_key (c : Ctx) (t : Nat) : (c.wake t).key = c.key := by simp [Ctx.key]

/-! ### `Ctx.acquired` -/

@[simp] theorem Ctx.acquired_uid (c : Ctx) (a t : Nat) : (c.acquired a t).uid = c.uid := rfl
@[simp] theorem Ctx.acquired_start (c : Ctx) (a t : Nat) : (c.acquired a t).start = c.start := rfl
@[simp] theorem Ctx.acquired_slot (c : Ctx) (a t : Nat) : (c.acquired a t).slot = c.slot := rfl
@[simp] theorem Ctx.acquired_cur (c : Ctx) (a t : Nat) : (c.acquired a t).cur = c.cur := rfl
@[simp] theorem Ctx.acquired_foot (c : Ctx) (a t : Nat) : (c.acquired a t).foot = c.foot := rfl
@[simp] theorem Ctx.acquired_heavy (c : Ctx) (a t : Nat) : (c.acquired a t).heavy = c.heavy := rfl
@[simp] theorem Ctx.acquired_sup (c : Ctx) (a t : Nat) : (c.acquired a t).sup = c.sup := rfl
@[simp] theorem Ctx.acquired_backup (c : Ctx) (a t : Nat) : (c.acquired a t).backup = c.backup := rfl
@[simp] theorem Ctx.acquired_migr (c : Ctx) (a t : Nat) : (c.acquired a t).migr = c.migr := rfl
@[simp] theorem Ctx.acquired_chan (c : Ctx) (a t : Nat) : (c.acquired a t).chan = c.chan := rfl
@[simp] theorem Ctx.acquired_prio (c : Ctx) (a t : Nat) : (c.acquired a t).prio = c.prio := rfl
@[simp] theorem Ctx.acquired_pairClass (c : Ctx) (a t : Nat) : (c.acquired a t).pairClass = c.pairClass := rfl
@[simp] theorem Ctx.acquired_mseq (c : Ctx) (a t : Nat) : (c.acquired a t).mseq = c.mseq := rfl
@[simp] theorem Ctx.acquired_tclass (c : Ctx) (a t : Nat) : (c.acquired a t).tclass = c.tclass := rfl
@[simp] theorem Ctx.acquired_leaseBase (c : Ctx) (a t : Nat) : (c.acquired a t).leaseBase = c.leaseBase := rfl
@[simp] theorem Ctx.acquired_leaseSize (c : Ctx) (a t : Nat) : (c.acquired a t).leaseSize = c.leaseSize := rfl
@[simp] theorem Ctx.acquired_leaseV (c : Ctx) (a t : Nat) : (c.acquired a t).leaseV = c.leaseV := rfl
@[simp] theorem Ctx.acquired_launch (c : Ctx) (a t : Nat) : (c.acquired a t).launch = c.launch := rfl
@[simp] theorem Ctx.acquired_net (c : Ctx) (a t : Nat) : (c.acquired a t).net = c.net := rfl
@[simp] theorem Ctx.acquired_tenant (c : Ctx) (a t : Nat) : (c.acquired a t).tenant = c.tenant := rfl
@[simp] theorem Ctx.acquired_firing (c : Ctx) (a t : Nat) : (c.acquired a t).firing = c.firing := rfl
@[simp] theorem Ctx.acquired_startVals (c : Ctx) (a t : Nat) : (c.acquired a t).startVals = c.startVals := rfl
@[simp] theorem Ctx.acquired_startTime (c : Ctx) (a t : Nat) : (c.acquired a t).startTime = c.startTime := rfl
@[simp] theorem Ctx.acquired_port (c : Ctx) (a t : Nat) : (c.acquired a t).port = c.port := rfl
@[simp] theorem Ctx.acquired_pc (c : Ctx) (a t : Nat) : (c.acquired a t).pc = c.pc := rfl
@[simp] theorem Ctx.acquired_s (c : Ctx) (a t : Nat) : (c.acquired a t).s = c.s := rfl
@[simp] theorem Ctx.acquired_v (c : Ctx) (a t : Nat) : (c.acquired a t).v = c.v := rfl
@[simp] theorem Ctx.acquired_k (c : Ctx) (a t : Nat) : (c.acquired a t).k = c.k := rfl
@[simp] theorem Ctx.acquired_o (c : Ctx) (a t : Nat) : (c.acquired a t).o = c.o := rfl
@[simp] theorem Ctx.acquired_m (c : Ctx) (a t : Nat) : (c.acquired a t).m = c.m := rfl
@[simp] theorem Ctx.acquired_q (c : Ctx) (a t : Nat) : (c.acquired a t).q = c.q := rfl
@[simp] theorem Ctx.acquired_slots (c : Ctx) (a t : Nat) : (c.acquired a t).slots = c.slots := rfl
@[simp] theorem Ctx.acquired_xpc (c : Ctx) (a t : Nat) : (c.acquired a t).xpc = c.xpc := rfl
@[simp] theorem Ctx.acquired_xcause (c : Ctx) (a t : Nat) : (c.acquired a t).xcause = c.xcause := rfl
@[simp] theorem Ctx.acquired_xval (c : Ctx) (a t : Nat) : (c.acquired a t).xval = c.xval := rfl
@[simp] theorem Ctx.acquired_intrap (c : Ctx) (a t : Nat) : (c.acquired a t).intrap = c.intrap := rfl
@[simp] theorem Ctx.acquired_psup (c : Ctx) (a t : Nat) : (c.acquired a t).psup = c.psup := rfl
@[simp] theorem Ctx.acquired_xhand (c : Ctx) (a t : Nat) : (c.acquired a t).xhand = c.xhand := rfl
@[simp] theorem Ctx.acquired_rwc (c : Ctx) (a t : Nat) : (c.acquired a t).rwc = c.rwc := rfl
@[simp] theorem Ctx.acquired_limit (c : Ctx) (a t : Nat) : (c.acquired a t).limit = c.limit := rfl
@[simp] theorem Ctx.acquired_used (c : Ctx) (a t : Nat) : (c.acquired a t).used = c.used := rfl
@[simp] theorem Ctx.acquired_waitlim (c : Ctx) (a t : Nat) : (c.acquired a t).waitlim = c.waitlim := rfl
@[simp] theorem Ctx.acquired_fpflags (c : Ctx) (a t : Nat) : (c.acquired a t).fpflags = c.fpflags := rfl
@[simp] theorem Ctx.acquired_fmttrap (c : Ctx) (a t : Nat) : (c.acquired a t).fmttrap = c.fmttrap := rfl
@[simp] theorem Ctx.acquired_binds (c : Ctx) (a t : Nat) : (c.acquired a t).binds = c.binds := rfl
@[simp] theorem Ctx.acquired_obls (c : Ctx) (a t : Nat) : (c.acquired a t).obls = c.obls := rfl
@[simp] theorem Ctx.acquired_reserved (c : Ctx) (a t : Nat) : (c.acquired a t).reserved = c.reserved := rfl
@[simp] theorem Ctx.acquired_predC (c : Ctx) (a t : Nat) : (c.acquired a t).predC = c.predC := rfl
@[simp] theorem Ctx.acquired_predH (c : Ctx) (a t : Nat) : (c.acquired a t).predH = c.predH := rfl
@[simp] theorem Ctx.acquired_migMark (c : Ctx) (a t : Nat) : (c.acquired a t).migMark = c.migMark := rfl
@[simp] theorem Ctx.acquired_st (c : Ctx) (a t : Nat) : (c.acquired a t).st = c.st := rfl
@[simp] theorem Ctx.acquired_wait (c : Ctx) (a t : Nat) : (c.acquired a t).wait = c.wait := rfl
@[simp] theorem Ctx.acquired_parkCycle (c : Ctx) (a t : Nat) : (c.acquired a t).parkCycle = c.parkCycle := rfl
@[simp] theorem Ctx.acquired_place (c : Ctx) (a t : Nat) : (c.acquired a t).place = c.place := rfl
@[simp] theorem Ctx.acquired_woken (c : Ctx) (a t : Nat) : (c.acquired a t).woken = c.woken := rfl
@[simp] theorem Ctx.acquired_readyAt (c : Ctx) (a t : Nat) : (c.acquired a t).readyAt = c.readyAt := rfl
@[simp] theorem Ctx.acquired_issuedAt (c : Ctx) (a t : Nat) : (c.acquired a t).issuedAt = c.issuedAt := rfl
@[simp] theorem Ctx.acquired_held (c : Ctx) (a t : Nat) : (c.acquired a t).held = c.held := rfl
@[simp] theorem Ctx.acquired_pend (c : Ctx) (a t : Nat) : (c.acquired a t).pend = c.pend := rfl
@[simp] theorem Ctx.acquired_due (c : Ctx) (a t : Nat) : (c.acquired a t).due = c.due := rfl
@[simp] theorem Ctx.acquired_parkPc (c : Ctx) (a t : Nat) : (c.acquired a t).parkPc = c.parkPc := rfl
@[simp] theorem Ctx.acquired_parkWord (c : Ctx) (a t : Nat) : (c.acquired a t).parkWord = c.parkWord := rfl
@[simp] theorem Ctx.acquired_csrOld (c : Ctx) (a t : Nat) : (c.acquired a t).csrOld = c.csrOld := rfl
@[simp] theorem Ctx.acquired_key (c : Ctx) (a t : Nat) : (c.acquired a t).key = c.key := by simp [Ctx.key]

/-! ### Registers -/

@[simp] theorem Ctx.rs_zero (c : Ctx) : c.rs 0 = 0 := rfl

@[simp] theorem Ctx.getS_setS_same (c : Ctx) (r : Nat) (v : W64) (h : r < 32) (z : r ≠ 0) : (c.setS r v).getS r = v := by
  simp [Ctx.getS, Ctx.setS, z, h]

theorem Ctx.getS_setS_other (c : Ctx) (r t : Nat) (v : W64) (h : t ≠ r) : (c.setS r v).getS t = c.getS t := by
  by_cases z : r = 0
  · simp [Ctx.setS, z]
  · simp [Ctx.getS, Ctx.setS, z, h.symm]

@[simp] theorem Ctx.getS_raise (c : Ctx) (f r : Nat) : (c.raise f).getS r = c.getS r := rfl

theorem Ctx.getV_setV_same (c : Ctx) (r : Nat) (x : VReg) (h : r < 32) : (c.setV r x).getV r = x := by
  simp [Ctx.getV, Ctx.setV, h]

theorem Ctx.getV_setV_other (c : Ctx) (r t : Nat) (x : VReg) (h : t ≠ r) : (c.setV r x).getV t = c.getV t := by
  simp [Ctx.getV, Ctx.setV, h.symm]

@[simp] theorem Ctx.getK_zero (c : Ctx) : c.getK 0 = BitVec.allOnes 64 := rfl

theorem Ctx.getK_setK_same (c : Ctx) (r : Nat) (x : W64) (h : r < 8) (z : r ≠ 0) : (c.setK r x).getK r = x := by
  simp [Ctx.getK, Ctx.setK, z, h]

theorem Ctx.getK_setK_other (c : Ctx) (r t : Nat) (x : W64) (h : t ≠ r) : (c.setK r x).getK t = c.getK t := by
  by_cases z : r = 0
  · simp [Ctx.setK, z]
  · simp [Ctx.getK, Ctx.setK, z, h.symm]

theorem Ctx.getQ_setQ_same (c : Ctx) (r : Nat) (x : BitVec 128) (h : r < 4) : (c.setQ r x).getQ r = x := by
  simp [Ctx.getQ, Ctx.setQ, h]

theorem Ctx.getQ_setQ_other (c : Ctx) (r t : Nat) (x : BitVec 128) (h : t ≠ r) : (c.setQ r x).getQ t = c.getQ t := by
  simp [Ctx.getQ, Ctx.setQ, h.symm]

end Sys2Proof.Machine
end

