-- ==== Sys2Proof/Laws/Maps.lean ====
section
/-! SUPPORT. What the operations on maps and sets of numbers do. -/

namespace Sys2Proof.Machine

/-! ### Maps -/

@[simp] theorem Map.find_nil {α : Type} (k : Nat) : Map.find ([] : Map α) k = none := rfl

@[simp] theorem Map.find_put_same {α : Type} (m : Map α) (k : Nat) (v : α) : (m.put k v).find k = some v := by
  induction m with
  | nil => simp [Map.put, Map.find]
  | cons p m ih =>
    obtain ⟨j, u⟩ := p
    simp only [Map.put]
    split
    · simp [Map.find]
    · split
      · simp [Map.find]
      · rename_i h _
        simp [Map.find, h, ih]

theorem Map.find_put_other {α : Type} (m : Map α) {k j : Nat} (v : α) (h : j ≠ k) : (m.put k v).find j = m.find j := by
  induction m with
  | nil => simp [Map.put, Map.find, h.symm]
  | cons p m ih =>
    obtain ⟨i, u⟩ := p
    simp only [Map.put]
    split
    · rename_i e; subst e; simp [Map.find, h.symm]
    · split
      · simp [Map.find, h.symm]
      · simp only [Map.find, ih]

theorem Map.find_put {α : Type} (m : Map α) (k j : Nat) (v : α) : (m.put k v).find j = if j = k then some v else m.find j := by
  split
  · rename_i h; rw [h, Map.find_put_same]
  · rename_i h; exact Map.find_put_other m v h

@[simp] theorem Map.getD_put_same {α : Type} (m : Map α) (k : Nat) (v d : α) : (m.put k v).getD k d = v := by
  simp [Map.getD]

theorem Map.getD_put_other {α : Type} (m : Map α) {k j : Nat} (v d : α) (h : j ≠ k) : (m.put k v).getD j d = m.getD j d := by
  simp [Map.getD, Map.find_put_other m v h]

@[simp] theorem Map.find_del_same {α : Type} (m : Map α) (k : Nat) : (m.del k).find k = none := by
  induction m with
  | nil => rfl
  | cons p m ih =>
    obtain ⟨j, u⟩ := p
    by_cases h : j = k
    · subst h; simpa [Map.del] using ih
    · have : (Map.del ((j, u) :: m) k) = (j, u) :: Map.del m k := by simp [Map.del, h]
      rw [this]; simp [Map.find, h, ih]

theorem Map.find_del_other {α : Type} (m : Map α) {k j : Nat} (h : j ≠ k) : (m.del k).find j = m.find j := by
  induction m with
  | nil => rfl
  | cons p m ih =>
    obtain ⟨i, u⟩ := p
    by_cases e : i = k
    · subst e
      have : (Map.del ((i, u) :: m) i) = Map.del m i := by simp [Map.del]
      rw [this, ih]; simp [Map.find, h.symm]
    · have : (Map.del ((i, u) :: m) k) = (i, u) :: Map.del m k := by simp [Map.del, e]
      rw [this]; simp only [Map.find, ih]

/-- An entry that is found is in the map. -/
theorem Map.mem_of_find {α : Type} {m : Map α} {k : Nat} {v : α} (h : m.find k = some v) : (k, v) ∈ m := by
  induction m with
  | nil => simp [Map.find] at h
  | cons p m ih =>
    obtain ⟨j, u⟩ := p
    simp only [Map.find] at h
    split at h
    · rename_i e; cases h; subst e; simp
    · exact List.mem_cons_of_mem _ (ih h)

/-- What a written map holds is the written entry or an old one of another key. -/
theorem Map.mem_put {α : Type} {m : Map α} {k : Nat} {v : α} {p : Nat × α} (h : p ∈ m.put k v) : p = (k, v) ∨ p ∈ m := by
  induction m with
  | nil => simpa [Map.put] using h
  | cons q m ih =>
    obtain ⟨j, u⟩ := q
    simp only [Map.put] at h
    split at h
    · rcases List.mem_cons.1 h with h | h
      · exact Or.inl h
      · exact Or.inr (List.mem_cons_of_mem _ h)
    · split at h
      · rcases List.mem_cons.1 h with h | h
        · exact Or.inl h
        · exact Or.inr h
      · rcases List.mem_cons.1 h with h | h
        · exact Or.inr (by simp [h])
        · exact (ih h).imp id (List.mem_cons_of_mem _)

/-- Keys strictly rise. -/
abbrev Map.Rising {α : Type} (m : Map α) : Prop := (m.map Prod.fst).Pairwise (· < ·)

/-- Writing an entry keeps the keys rising. -/
theorem Map.rising_put {α : Type} {m : Map α} (k : Nat) (v : α) (h : m.Rising) : (m.put k v).Rising := by
  induction m with
  | nil => simp [Map.put, Map.Rising]
  | cons p m ih =>
    obtain ⟨j, u⟩ := p
    simp only [Map.Rising, List.map_cons, List.pairwise_cons] at h
    obtain ⟨hj, hm⟩ := h
    simp only [Map.put]
    split
    · rename_i e; subst e
      simpa only [Map.Rising, List.map_cons, List.pairwise_cons] using ⟨hj, hm⟩
    · rename_i e
      split
      · rename_i l
        simp only [Map.Rising, List.map_cons, List.pairwise_cons, List.mem_cons]
        refine ⟨?_, hj, hm⟩
        rintro x (rfl | hx)
        · exact l
        · exact Nat.lt_trans l (hj x hx)
      · rename_i l
        simp only [Map.Rising, List.map_cons, List.pairwise_cons]
        refine ⟨?_, ih hm⟩
        intro x hx
        obtain ⟨q, hq, rfl⟩ := List.mem_map.1 hx
        rcases Map.mem_put hq with rfl | hq
        · show j < k; omega
        · exact hj _ (List.mem_map_of_mem hq)

/-- Removing entries keeps the keys rising. -/
theorem Map.rising_filter {α : Type} {m : Map α} (f : Nat × α → Bool) (h : m.Rising) : Map.Rising (m.filter f) :=
  h.sublist (List.Sublist.map _ List.filter_sublist)

/-- In a map with rising keys, an entry is what is found under its key. -/
theorem Map.find_of_mem {α : Type} {m : Map α} {p : Nat × α} (h : m.Rising) (hp : p ∈ m) : m.find p.1 = some p.2 := by
  induction m with
  | nil => simp at hp
  | cons q m ih =>
    obtain ⟨j, u⟩ := q
    simp only [Map.Rising, List.map_cons, List.pairwise_cons] at h
    rcases List.mem_cons.1 hp with rfl | hp
    · simp [Map.find]
    · have := h.1 p.1 (List.mem_map_of_mem hp)
      simp [Map.find, Nat.ne_of_lt this, ih h.2 hp]

/-! ### Sets -/

@[simp] theorem NatSet.mem_add (m : NatSet) (k j : Nat) : j ∈ NatSet.add m k ↔ j = k ∨ j ∈ m := by
  induction m with
  | nil => simp [NatSet.add]
  | cons i m ih =>
    simp only [NatSet.add]
    split
    · rename_i e; subst e; simp
    · split
      · simp
      · simp only [List.mem_cons, ih]; tauto

@[simp] theorem NatSet.mem_del (m : NatSet) (k j : Nat) : j ∈ NatSet.del m k ↔ j ∈ m ∧ j ≠ k := by
  simp [NatSet.del]

end Sys2Proof.Machine
end

