-- ==== Sys2Proof/Laws/Mem.lean ====
section
/-! SUPPORT. What the operations on memory do: reads after writes, and the canonical form. -/

namespace Sys2Proof.Machine

/-! ### One byte -/

theorem Mem.read_write_same (m : Mem) (a : Nat) (b : Byte) (h : m.wf = true) : (m.write a b).read a = b := by
  suffices H : ∀ lo, Mem.wfFrom lo m = true → (m.write a b).read a = b from H none h
  clear h
  induction m with
  | nil => intro lo _; simp only [Mem.write]; split <;> rename_i e <;> simp [Mem.read, e]
  | cons p m ih =>
    obtain ⟨x, c⟩ := p
    intro lo h
    simp only [Mem.wfFrom, Bool.and_eq_true] at h
    obtain ⟨_, ht⟩ := h
    simp only [Mem.write]
    split
    · rename_i e; subst e
      split
      · rename_i hb
        subst hb
        cases m with
        | nil => rfl
        | cons q t =>
          obtain ⟨y, d⟩ := q
          simp only [Mem.wfFrom, Bool.and_eq_true, decide_eq_true_eq] at ht
          have : x < y := ht.1.1
          simp [Mem.read, Nat.ne_of_gt this, this]
      · simp [Mem.read]
    · rename_i e
      split
      · rename_i l
        split
        · rename_i hb; simp [Mem.read, e, l, hb]
        · simp [Mem.read]
      · rename_i l
        have := ih (some x) ht
        simp only [Mem.read]
        simp [e, l, this]

/-- An address below all entries reads as an unlisted one. -/
theorem Mem.read_below (m : Mem) (lo a : Nat) (h : Mem.wfFrom (some lo) m = true) (ha : a ≤ lo) : m.read a = Mem.rest := by
  cases m with
  | nil => rfl
  | cons q t =>
    obtain ⟨y, d⟩ := q
    simp only [Mem.wfFrom, Bool.and_eq_true, decide_eq_true_eq] at h
    have : a < y := by have := h.1.1; omega
    simp [Mem.read, Nat.ne_of_gt this, this]

theorem Mem.read_write_other (m : Mem) {a x : Nat} (b : Byte) (h : m.wf = true) (n : x ≠ a) : (m.write a b).read x = m.read x := by
  suffices H : ∀ lo, Mem.wfFrom lo m = true → (m.write a b).read x = m.read x from H none h
  clear h
  induction m with
  | nil =>
    intro lo _
    simp only [Mem.write]
    split
    · rfl
    · simp only [Mem.read]
      simp [n.symm]
  | cons p m ih =>
    obtain ⟨y, c⟩ := p
    intro lo h
    simp only [Mem.wfFrom, Bool.and_eq_true] at h
    obtain ⟨_, ht⟩ := h
    simp only [Mem.write]
    split
    · rename_i e; subst e
      split
      · simp only [Mem.read, n.symm, if_false]
        split
        · rename_i l; exact Mem.read_below m y x ht (Nat.le_of_lt l)
        · rfl
      · simp only [Mem.read, n.symm, if_false]
    · rename_i e
      split
      · rename_i l
        split
        · rfl
        · simp only [Mem.read, n.symm, if_false]
          by_cases hx : x < a
          · have : x < y := Nat.lt_trans hx l
            simp [hx, this, Nat.ne_of_gt this]
          · simp [hx]
      · simp only [Mem.read, ih (some y) ht]

/-! ### The canonical form -/

theorem Mem.wfFrom_cons {m : Mem} {lo : Option Nat} {x : Nat} {b : Byte} :
    Mem.wfFrom lo ((x, b) :: m) = true ↔ (∀ k, lo = some k → k < x) ∧ b ≠ Mem.rest ∧ Mem.wfFrom (some x) m = true := by
  cases lo <;> simp [Mem.wfFrom, and_assoc]

theorem Mem.wfFrom_mono {m : Mem} {lo : Nat} {hi : Option Nat} (h : Mem.wfFrom (some lo) m = true) (l : ∀ k, hi = some k → k ≤ lo) :
    Mem.wfFrom hi m = true := by
  cases m with
  | nil => rfl
  | cons p m =>
    rw [Mem.wfFrom_cons] at h ⊢
    exact ⟨fun k hk => Nat.lt_of_le_of_lt (l k hk) (h.1 lo rfl), h.2⟩

theorem Mem.wfFrom_write {m : Mem} {lo : Option Nat} (a : Nat) (b : Byte) (h : Mem.wfFrom lo m = true) (l : ∀ k, lo = some k → k < a) :
    Mem.wfFrom lo (m.write a b) = true := by
  induction m generalizing lo with
  | nil =>
    simp only [Mem.write]
    split
    · rfl
    · rename_i hb; exact Mem.wfFrom_cons.2 ⟨l, hb, rfl⟩
  | cons p m ih =>
    obtain ⟨x, c⟩ := p
    obtain ⟨hx, hc, ht⟩ := Mem.wfFrom_cons.1 h
    simp only [Mem.write]
    split
    · rename_i e; subst e
      split
      · exact Mem.wfFrom_mono ht fun k hk => Nat.le_of_lt (l k hk)
      · rename_i hb; exact Mem.wfFrom_cons.2 ⟨l, hb, ht⟩
    · rename_i e
      split
      · rename_i lt
        split
        · exact h
        · rename_i hb
          exact Mem.wfFrom_cons.2 ⟨l, hb, Mem.wfFrom_cons.2 ⟨fun k hk => by cases hk; exact lt, hc, ht⟩⟩
      · rename_i nlt
        exact Mem.wfFrom_cons.2 ⟨hx, hc, ih ht fun k hk => by cases hk; omega⟩

/-- Writing a byte keeps the canonical form. -/
theorem Mem.wf_write {m : Mem} (a : Nat) (b : Byte) (h : m.wf = true) : (m.write a b).wf = true :=
  Mem.wfFrom_write a b h (by simp)

/-- Writing bytes keeps the canonical form. -/
theorem Mem.wf_writeBytes {m : Mem} (a : Nat) (l : List Byte) (h : m.wf = true) : (m.writeBytes a l).wf = true := by
  induction l generalizing m a with
  | nil => exact h
  | cons b l ih => exact ih (a + 1) (Mem.wf_write a b h)

/-- Writing a number keeps the canonical form. -/
theorem Mem.wf_writeN {m : Mem} (a n v : Nat) (h : m.wf = true) : (m.writeN a n v).wf = true := Mem.wf_writeBytes a _ h

theorem Mem.wfFrom_filter {m : Mem} {lo : Option Nat} (f : Host.Cell → Bool) (h : Mem.wfFrom lo m = true) :
    Mem.wfFrom lo (m.filter f) = true := by
  induction m generalizing lo with
  | nil => rfl
  | cons p m ih =>
    obtain ⟨x, c⟩ := p
    obtain ⟨hx, hc, ht⟩ := Mem.wfFrom_cons.1 h
    rw [List.filter_cons]
    split
    · exact Mem.wfFrom_cons.2 ⟨hx, hc, ih ht⟩
    · exact Mem.wfFrom_mono (ih ht) fun k hk => Nat.le_of_lt (hx k hk)

/-- Clearing bytes keeps the canonical form. -/
theorem Mem.wf_filter {m : Mem} (f : Host.Cell → Bool) (h : m.wf = true) : Mem.wf (m.filter f) = true := Mem.wfFrom_filter f h

/-- Reading what is left of a memory at some addresses: the bytes there, and elsewhere what an unlisted address reads as. -/
theorem Mem.read_filter (m : Mem) (p : Nat → Bool) (a : Nat) (h : m.wf = true) :
    Mem.read (m.filter fun x => p x.1) a = if p a then m.read a else Mem.rest := by
  suffices H : ∀ lo, Mem.wfFrom lo m = true → Mem.read (m.filter fun x => p x.1) a = if p a then m.read a else Mem.rest from H none h
  clear h
  induction m with
  | nil => intro lo _; simp [Mem.read]
  | cons q t ih =>
    obtain ⟨x, b⟩ := q
    intro lo h
    simp only [Mem.wfFrom, Bool.and_eq_true] at h
    have hi := ih (some x) h.2
    have low : a < x → Mem.read t a = Mem.rest := fun l => Mem.read_below t x a h.2 (by omega)
    rcases Nat.lt_trichotomy a x with l | rfl | l
    · have := low l
      by_cases px : p x <;> simp [px, Mem.read, Nat.ne_of_gt l, l, hi, this]
    · by_cases px : p a
      · simp [px, Mem.read]
      · simp [px, hi]
    · have n : ¬ x = a := by omega
      have l' : ¬ a < x := by omega
      by_cases px : p x <;> simp [px, Mem.read, n, l', hi]

/-! ### Several bytes -/

/-- A write leaves every byte outside its range as it was. -/
theorem Mem.read_writeBytes_outside (m : Mem) (a x : Nat) (l : List Byte) (h : m.wf = true) (o : x < a ∨ a + l.length ≤ x) :
    (m.writeBytes a l).read x = m.read x := by
  induction l generalizing m a with
  | nil => rfl
  | cons b l ih =>
    simp only [List.length_cons] at o
    show ((m.write a b).writeBytes (a + 1) l).read x = m.read x
    rw [ih (m.write a b) (a + 1) (Mem.wf_write a b h) (by omega), Mem.read_write_other m b h (by omega)]

/-- A write puts its bytes in its range. -/
theorem Mem.read_writeBytes_inside (m : Mem) (a i : Nat) (l : List Byte) (h : m.wf = true) (o : i < l.length) :
    (m.writeBytes a l).read (a + i) = l[i] := by
  induction l generalizing m a i with
  | nil => simp at o
  | cons b l ih =>
    show ((m.write a b).writeBytes (a + 1) l).read (a + i) = _
    cases i with
    | zero =>
      rw [Mem.read_writeBytes_outside _ _ _ _ (Mem.wf_write a b h) (by omega), Nat.add_zero, Mem.read_write_same m a b h]
      rfl
    | succ i =>
      have := ih (m.write a b) (a + 1) i (Mem.wf_write a b h) (by simpa using o)
      rw [show a + (i + 1) = a + 1 + i by omega, this]
      rfl

@[simp] theorem Mem.readBytes_length (m : Mem) (a n : Nat) : (m.readBytes a n).length = n := by
  induction n generalizing a with
  | zero => rfl
  | succ n ih => simp [Mem.readBytes, ih]

theorem Mem.readBytes_get (m : Mem) (a n i : Nat) (h : i < n) : (m.readBytes a n)[i]? = some (m.read (a + i)) := by
  induction n generalizing a i with
  | zero => omega
  | succ n ih =>
    cases i with
    | zero => simp [Mem.readBytes]
    | succ i =>
      simp only [Mem.readBytes, List.getElem?_cons_succ]
      rw [ih (a + 1) i (by omega), show a + 1 + i = a + (i + 1) by omega]

/-- Read after write: the bytes written are the bytes read. -/
theorem Mem.readBytes_writeBytes (m : Mem) (a : Nat) (l : List Byte) (h : m.wf = true) : (m.writeBytes a l).readBytes a l.length = l := by
  apply List.ext_getElem?
  intro i
  by_cases hi : i < l.length
  · rw [Mem.readBytes_get _ _ _ _ hi, Mem.read_writeBytes_inside m a i l h hi]
    simp [hi]
  · rw [List.getElem?_eq_none (by simp; omega), List.getElem?_eq_none (by omega)]

@[simp] theorem bytesOf_length (n x : Nat) : (bytesOf n x).length = n := by
  induction n generalizing x with
  | zero => rfl
  | succ n ih => simp [bytesOf, ih]

/-- The number of the `n` bytes of a number. -/
theorem ofBytes_bytesOf (n x : Nat) : ofBytes (bytesOf n x) = x % 256 ^ n := by
  induction n generalizing x with
  | zero => simp [bytesOf, ofBytes, Nat.mod_one]
  | succ n ih =>
    simp only [bytesOf, ofBytes, ih, BitVec.toNat_ofNat]
    rw [show (256 : Nat) ^ (n + 1) = 256 * 256 ^ n by ring, Nat.mod_mul]

/-- Read after write of a number of `n` bytes (R3, R131). -/
theorem Mem.readN_writeN (m : Mem) (a n v : Nat) (h : m.wf = true) : (m.writeN a n v).readN a n = v % 256 ^ n := by
  have := Mem.readBytes_writeBytes m a (bytesOf n v) h
  rw [bytesOf_length] at this
  rw [Mem.readN, Mem.writeN, this, ofBytes_bytesOf]

/-- A write of a number leaves every byte outside its range as it was. -/
theorem Mem.read_writeN_outside (m : Mem) (a n v x : Nat) (h : m.wf = true) (o : x < a ∨ a + n ≤ x) : (m.writeN a n v).read x = m.read x :=
  Mem.read_writeBytes_outside m a x _ h (by simpa using o)

/-- The memory of the machine after reset is in its canonical form. -/
theorem reset_mem_wf : State.reset.mem.wf = true := rfl

/-- The local memory of a core after reset is in its canonical form. -/
theorem reset_lm_wf : Core.reset.lm.wf = true := rfl

end Sys2Proof.Machine
end

