-- ==== Sys2Proof/Laws/State.lean ====
section
/-! SUPPORT. What every update of the state leaves alone, field by field. -/

namespace Sys2Proof.Machine

/-! ### `State.setCore` -/

@[simp] theorem State.setCore_schedule (s : State) (c : Nat) (k : Core) : (s.setCore c k).schedule = s.schedule := rfl
@[simp] theorem State.setCore_turn (s : State) (c : Nat) (k : Core) : (s.setCore c k).turn = s.turn := rfl
@[simp] theorem State.setCore_focus (s : State) (c : Nat) (k : Core) : (s.setCore c k).focus = s.focus := rfl
@[simp] theorem State.setCore_item (s : State) (c : Nat) (k : Core) : (s.setCore c k).item = s.item := rfl
@[simp] theorem State.setCore_stamp (s : State) (c : Nat) (k : Core) : (s.setCore c k).stamp = s.stamp := rfl
@[simp] theorem State.setCore_frees (s : State) (c : Nat) (k : Core) : (s.setCore c k).frees = s.frees := rfl
@[simp] theorem State.setCore_pkg (s : State) (c : Nat) (k : Core) : (s.setCore c k).pkg = s.pkg := rfl
@[simp] theorem State.setCore_time (s : State) (c : Nat) (k : Core) : (s.setCore c k).time = s.time := rfl
@[simp] theorem State.setCore_podTime (s : State) (c : Nat) (k : Core) : (s.setCore c k).podTime = s.podTime := rfl
@[simp] theorem State.setCore_mem (s : State) (c : Nat) (k : Core) : (s.setCore c k).mem = s.mem := rfl
@[simp] theorem State.setCore_poison (s : State) (c : Nat) (k : Core) : (s.setCore c k).poison = s.poison := rfl
@[simp] theorem State.setCore_cfg (s : State) (c : Nat) (k : Core) : (s.setCore c k).cfg = s.cfg := rfl
@[simp] theorem State.setCore_ctxs (s : State) (c : Nat) (k : Core) : (s.setCore c k).ctxs = s.ctxs := rfl
@[simp] theorem State.setCore_clusters (s : State) (c : Nat) (k : Core) : (s.setCore c k).clusters = s.clusters := rfl
@[simp] theorem State.setCore_layers (s : State) (c : Nat) (k : Core) : (s.setCore c k).layers = s.layers := rfl
@[simp] theorem State.setCore_accs (s : State) (c : Nat) (k : Core) : (s.setCore c k).accs = s.accs := rfl
@[simp] theorem State.setCore_remotes (s : State) (c : Nat) (k : Core) : (s.setCore c k).remotes = s.remotes := rfl
@[simp] theorem State.setCore_stored (s : State) (c : Nat) (k : Core) : (s.setCore c k).stored = s.stored := rfl
@[simp] theorem State.setCore_walks (s : State) (c : Nat) (k : Core) : (s.setCore c k).walks = s.walks := rfl
@[simp] theorem State.setCore_engFaults (s : State) (c : Nat) (k : Core) : (s.setCore c k).engFaults = s.engFaults := rfl
@[simp] theorem State.setCore_peerLines (s : State) (c : Nat) (k : Core) : (s.setCore c k).peerLines = s.peerLines := rfl
@[simp] theorem State.setCore_slices (s : State) (c : Nat) (k : Core) : (s.setCore c k).slices = s.slices := rfl
@[simp] theorem State.setCore_dir (s : State) (c : Nat) (k : Core) : (s.setCore c k).dir = s.dir := rfl
@[simp] theorem State.setCore_copies (s : State) (c : Nat) (k : Core) : (s.setCore c k).copies = s.copies := rfl
@[simp] theorem State.setCore_nets (s : State) (c : Nat) (k : Core) : (s.setCore c k).nets = s.nets := rfl
@[simp] theorem State.setCore_launches (s : State) (c : Nat) (k : Core) : (s.setCore c k).launches = s.launches := rfl
@[simp] theorem State.setCore_nextLaunch (s : State) (c : Nat) (k : Core) : (s.setCore c k).nextLaunch = s.nextLaunch := rfl
@[simp] theorem State.setCore_samples (s : State) (c : Nat) (k : Core) : (s.setCore c k).samples = s.samples := rfl
@[simp] theorem State.setCore_firings (s : State) (c : Nat) (k : Core) : (s.setCore c k).firings = s.firings := rfl
@[simp] theorem State.setCore_tiles (s : State) (c : Nat) (k : Core) : (s.setCore c k).tiles = s.tiles := rfl
@[simp] theorem State.setCore_commits (s : State) (c : Nat) (k : Core) : (s.setCore c k).commits = s.commits := rfl
@[simp] theorem State.setCore_tenants (s : State) (c : Nat) (k : Core) : (s.setCore c k).tenants = s.tenants := rfl
@[simp] theorem State.setCore_streams (s : State) (c : Nat) (k : Core) : (s.setCore c k).streams = s.streams := rfl
@[simp] theorem State.setCore_kills (s : State) (c : Nat) (k : Core) : (s.setCore c k).kills = s.kills := rfl
@[simp] theorem State.setCore_toPlace (s : State) (c : Nat) (k : Core) : (s.setCore c k).toPlace = s.toPlace := rfl
@[simp] theorem State.setCore_msgs (s : State) (c : Nat) (k : Core) : (s.setCore c k).msgs = s.msgs := rfl
@[simp] theorem State.setCore_workReqs (s : State) (c : Nat) (k : Core) : (s.setCore c k).workReqs = s.workReqs := rfl
@[simp] theorem State.setCore_barges (s : State) (c : Nat) (k : Core) : (s.setCore c k).barges = s.barges := rfl
@[simp] theorem State.setCore_pushes (s : State) (c : Nat) (k : Core) : (s.setCore c k).pushes = s.pushes := rfl
@[simp] theorem State.setCore_powerReqs (s : State) (c : Nat) (k : Core) : (s.setCore c k).powerReqs = s.powerReqs := rfl
@[simp] theorem State.setCore_fab (s : State) (c : Nat) (k : Core) : (s.setCore c k).fab = s.fab := rfl
@[simp] theorem State.setCore_mbox (s : State) (c : Nat) (k : Core) : (s.setCore c k).mbox = s.mbox := rfl
@[simp] theorem State.setCore_fw (s : State) (c : Nat) (k : Core) : (s.setCore c k).fw = s.fw := rfl
@[simp] theorem State.setCore_own (s : State) (c : Nat) (k : Core) : (s.setCore c k).own = s.own := rfl
@[simp] theorem State.setCore_host (s : State) (c : Nat) (k : Core) : (s.setCore c k).host = s.host := rfl

/-! ### `State.modCore` -/

@[simp] theorem State.modCore_schedule (s : State) (c : Nat) (f : Core → Core) : (s.modCore c f).schedule = s.schedule := rfl
@[simp] theorem State.modCore_turn (s : State) (c : Nat) (f : Core → Core) : (s.modCore c f).turn = s.turn := rfl
@[simp] theorem State.modCore_focus (s : State) (c : Nat) (f : Core → Core) : (s.modCore c f).focus = s.focus := rfl
@[simp] theorem State.modCore_item (s : State) (c : Nat) (f : Core → Core) : (s.modCore c f).item = s.item := rfl
@[simp] theorem State.modCore_stamp (s : State) (c : Nat) (f : Core → Core) : (s.modCore c f).stamp = s.stamp := rfl
@[simp] theorem State.modCore_frees (s : State) (c : Nat) (f : Core → Core) : (s.modCore c f).frees = s.frees := rfl
@[simp] theorem State.modCore_pkg (s : State) (c : Nat) (f : Core → Core) : (s.modCore c f).pkg = s.pkg := rfl
@[simp] theorem State.modCore_time (s : State) (c : Nat) (f : Core → Core) : (s.modCore c f).time = s.time := rfl
@[simp] theorem State.modCore_podTime (s : State) (c : Nat) (f : Core → Core) : (s.modCore c f).podTime = s.podTime := rfl
@[simp] theorem State.modCore_mem (s : State) (c : Nat) (f : Core → Core) : (s.modCore c f).mem = s.mem := rfl
@[simp] theorem State.modCore_poison (s : State) (c : Nat) (f : Core → Core) : (s.modCore c f).poison = s.poison := rfl
@[simp] theorem State.modCore_cfg (s : State) (c : Nat) (f : Core → Core) : (s.modCore c f).cfg = s.cfg := rfl
@[simp] theorem State.modCore_ctxs (s : State) (c : Nat) (f : Core → Core) : (s.modCore c f).ctxs = s.ctxs := rfl
@[simp] theorem State.modCore_clusters (s : State) (c : Nat) (f : Core → Core) : (s.modCore c f).clusters = s.clusters := rfl
@[simp] theorem State.modCore_layers (s : State) (c : Nat) (f : Core → Core) : (s.modCore c f).layers = s.layers := rfl
@[simp] theorem State.modCore_accs (s : State) (c : Nat) (f : Core → Core) : (s.modCore c f).accs = s.accs := rfl
@[simp] theorem State.modCore_remotes (s : State) (c : Nat) (f : Core → Core) : (s.modCore c f).remotes = s.remotes := rfl
@[simp] theorem State.modCore_stored (s : State) (c : Nat) (f : Core → Core) : (s.modCore c f).stored = s.stored := rfl
@[simp] theorem State.modCore_walks (s : State) (c : Nat) (f : Core → Core) : (s.modCore c f).walks = s.walks := rfl
@[simp] theorem State.modCore_engFaults (s : State) (c : Nat) (f : Core → Core) : (s.modCore c f).engFaults = s.engFaults := rfl
@[simp] theorem State.modCore_peerLines (s : State) (c : Nat) (f : Core → Core) : (s.modCore c f).peerLines = s.peerLines := rfl
@[simp] theorem State.modCore_slices (s : State) (c : Nat) (f : Core → Core) : (s.modCore c f).slices = s.slices := rfl
@[simp] theorem State.modCore_dir (s : State) (c : Nat) (f : Core → Core) : (s.modCore c f).dir = s.dir := rfl
@[simp] theorem State.modCore_copies (s : State) (c : Nat) (f : Core → Core) : (s.modCore c f).copies = s.copies := rfl
@[simp] theorem State.modCore_nets (s : State) (c : Nat) (f : Core → Core) : (s.modCore c f).nets = s.nets := rfl
@[simp] theorem State.modCore_launches (s : State) (c : Nat) (f : Core → Core) : (s.modCore c f).launches = s.launches := rfl
@[simp] theorem State.modCore_nextLaunch (s : State) (c : Nat) (f : Core → Core) : (s.modCore c f).nextLaunch = s.nextLaunch := rfl
@[simp] theorem State.modCore_samples (s : State) (c : Nat) (f : Core → Core) : (s.modCore c f).samples = s.samples := rfl
@[simp] theorem State.modCore_firings (s : State) (c : Nat) (f : Core → Core) : (s.modCore c f).firings = s.firings := rfl
@[simp] theorem State.modCore_tiles (s : State) (c : Nat) (f : Core → Core) : (s.modCore c f).tiles = s.tiles := rfl
@[simp] theorem State.modCore_commits (s : State) (c : Nat) (f : Core → Core) : (s.modCore c f).commits = s.commits := rfl
@[simp] theorem State.modCore_tenants (s : State) (c : Nat) (f : Core → Core) : (s.modCore c f).tenants = s.tenants := rfl
@[simp] theorem State.modCore_streams (s : State) (c : Nat) (f : Core → Core) : (s.modCore c f).streams = s.streams := rfl
@[simp] theorem State.modCore_kills (s : State) (c : Nat) (f : Core → Core) : (s.modCore c f).kills = s.kills := rfl
@[simp] theorem State.modCore_toPlace (s : State) (c : Nat) (f : Core → Core) : (s.modCore c f).toPlace = s.toPlace := rfl
@[simp] theorem State.modCore_msgs (s : State) (c : Nat) (f : Core → Core) : (s.modCore c f).msgs = s.msgs := rfl
@[simp] theorem State.modCore_workReqs (s : State) (c : Nat) (f : Core → Core) : (s.modCore c f).workReqs = s.workReqs := rfl
@[simp] theorem State.modCore_barges (s : State) (c : Nat) (f : Core → Core) : (s.modCore c f).barges = s.barges := rfl
@[simp] theorem State.modCore_pushes (s : State) (c : Nat) (f : Core → Core) : (s.modCore c f).pushes = s.pushes := rfl
@[simp] theorem State.modCore_powerReqs (s : State) (c : Nat) (f : Core → Core) : (s.modCore c f).powerReqs = s.powerReqs := rfl
@[simp] theorem State.modCore_fab (s : State) (c : Nat) (f : Core → Core) : (s.modCore c f).fab = s.fab := rfl
@[simp] theorem State.modCore_mbox (s : State) (c : Nat) (f : Core → Core) : (s.modCore c f).mbox = s.mbox := rfl
@[simp] theorem State.modCore_fw (s : State) (c : Nat) (f : Core → Core) : (s.modCore c f).fw = s.fw := rfl
@[simp] theorem State.modCore_own (s : State) (c : Nat) (f : Core → Core) : (s.modCore c f).own = s.own := rfl
@[simp] theorem State.modCore_host (s : State) (c : Nat) (f : Core → Core) : (s.modCore c f).host = s.host := rfl

/-! ### `State.modCluster` -/

@[simp] theorem State.modCluster_schedule (s : State) (g : Nat) (f : Cluster → Cluster) : (s.modCluster g f).schedule = s.schedule := rfl
@[simp] theorem State.modCluster_turn (s : State) (g : Nat) (f : Cluster → Cluster) : (s.modCluster g f).turn = s.turn := rfl
@[simp] theorem State.modCluster_focus (s : State) (g : Nat) (f : Cluster → Cluster) : (s.modCluster g f).focus = s.focus := rfl
@[simp] theorem State.modCluster_item (s : State) (g : Nat) (f : Cluster → Cluster) : (s.modCluster g f).item = s.item := rfl
@[simp] theorem State.modCluster_stamp (s : State) (g : Nat) (f : Cluster → Cluster) : (s.modCluster g f).stamp = s.stamp := rfl
@[simp] theorem State.modCluster_frees (s : State) (g : Nat) (f : Cluster → Cluster) : (s.modCluster g f).frees = s.frees := rfl
@[simp] theorem State.modCluster_pkg (s : State) (g : Nat) (f : Cluster → Cluster) : (s.modCluster g f).pkg = s.pkg := rfl
@[simp] theorem State.modCluster_time (s : State) (g : Nat) (f : Cluster → Cluster) : (s.modCluster g f).time = s.time := rfl
@[simp] theorem State.modCluster_podTime (s : State) (g : Nat) (f : Cluster → Cluster) : (s.modCluster g f).podTime = s.podTime := rfl
@[simp] theorem State.modCluster_mem (s : State) (g : Nat) (f : Cluster → Cluster) : (s.modCluster g f).mem = s.mem := rfl
@[simp] theorem State.modCluster_poison (s : State) (g : Nat) (f : Cluster → Cluster) : (s.modCluster g f).poison = s.poison := rfl
@[simp] theorem State.modCluster_cfg (s : State) (g : Nat) (f : Cluster → Cluster) : (s.modCluster g f).cfg = s.cfg := rfl
@[simp] theorem State.modCluster_ctxs (s : State) (g : Nat) (f : Cluster → Cluster) : (s.modCluster g f).ctxs = s.ctxs := rfl
@[simp] theorem State.modCluster_cores (s : State) (g : Nat) (f : Cluster → Cluster) : (s.modCluster g f).cores = s.cores := rfl
@[simp] theorem State.modCluster_layers (s : State) (g : Nat) (f : Cluster → Cluster) : (s.modCluster g f).layers = s.layers := rfl
@[simp] theorem State.modCluster_accs (s : State) (g : Nat) (f : Cluster → Cluster) : (s.modCluster g f).accs = s.accs := rfl
@[simp] theorem State.modCluster_remotes (s : State) (g : Nat) (f : Cluster → Cluster) : (s.modCluster g f).remotes = s.remotes := rfl
@[simp] theorem State.modCluster_stored (s : State) (g : Nat) (f : Cluster → Cluster) : (s.modCluster g f).stored = s.stored := rfl
@[simp] theorem State.modCluster_walks (s : State) (g : Nat) (f : Cluster → Cluster) : (s.modCluster g f).walks = s.walks := rfl
@[simp] theorem State.modCluster_engFaults (s : State) (g : Nat) (f : Cluster → Cluster) : (s.modCluster g f).engFaults = s.engFaults := rfl
@[simp] theorem State.modCluster_peerLines (s : State) (g : Nat) (f : Cluster → Cluster) : (s.modCluster g f).peerLines = s.peerLines := rfl
@[simp] theorem State.modCluster_slices (s : State) (g : Nat) (f : Cluster → Cluster) : (s.modCluster g f).slices = s.slices := rfl
@[simp] theorem State.modCluster_dir (s : State) (g : Nat) (f : Cluster → Cluster) : (s.modCluster g f).dir = s.dir := rfl
@[simp] theorem State.modCluster_copies (s : State) (g : Nat) (f : Cluster → Cluster) : (s.modCluster g f).copies = s.copies := rfl
@[simp] theorem State.modCluster_nets (s : State) (g : Nat) (f : Cluster → Cluster) : (s.modCluster g f).nets = s.nets := rfl
@[simp] theorem State.modCluster_launches (s : State) (g : Nat) (f : Cluster → Cluster) : (s.modCluster g f).launches = s.launches := rfl
@[simp] theorem State.modCluster_nextLaunch (s : State) (g : Nat) (f : Cluster → Cluster) : (s.modCluster g f).nextLaunch = s.nextLaunch := rfl
@[simp] theorem State.modCluster_samples (s : State) (g : Nat) (f : Cluster → Cluster) : (s.modCluster g f).samples = s.samples := rfl
@[simp] theorem State.modCluster_firings (s : State) (g : Nat) (f : Cluster → Cluster) : (s.modCluster g f).firings = s.firings := rfl
@[simp] theorem State.modCluster_tiles (s : State) (g : Nat) (f : Cluster → Cluster) : (s.modCluster g f).tiles = s.tiles := rfl
@[simp] theorem State.modCluster_commits (s : State) (g : Nat) (f : Cluster → Cluster) : (s.modCluster g f).commits = s.commits := rfl
@[simp] theorem State.modCluster_tenants (s : State) (g : Nat) (f : Cluster → Cluster) : (s.modCluster g f).tenants = s.tenants := rfl
@[simp] theorem State.modCluster_streams (s : State) (g : Nat) (f : Cluster → Cluster) : (s.modCluster g f).streams = s.streams := rfl
@[simp] theorem State.modCluster_kills (s : State) (g : Nat) (f : Cluster → Cluster) : (s.modCluster g f).kills = s.kills := rfl
@[simp] theorem State.modCluster_toPlace (s : State) (g : Nat) (f : Cluster → Cluster) : (s.modCluster g f).toPlace = s.toPlace := rfl
@[simp] theorem State.modCluster_msgs (s : State) (g : Nat) (f : Cluster → Cluster) : (s.modCluster g f).msgs = s.msgs := rfl
@[simp] theorem State.modCluster_workReqs (s : State) (g : Nat) (f : Cluster → Cluster) : (s.modCluster g f).workReqs = s.workReqs := rfl
@[simp] theorem State.modCluster_barges (s : State) (g : Nat) (f : Cluster → Cluster) : (s.modCluster g f).barges = s.barges := rfl
@[simp] theorem State.modCluster_pushes (s : State) (g : Nat) (f : Cluster → Cluster) : (s.modCluster g f).pushes = s.pushes := rfl
@[simp] theorem State.modCluster_powerReqs (s : State) (g : Nat) (f : Cluster → Cluster) : (s.modCluster g f).powerReqs = s.powerReqs := rfl
@[simp] theorem State.modCluster_fab (s : State) (g : Nat) (f : Cluster → Cluster) : (s.modCluster g f).fab = s.fab := rfl
@[simp] theorem State.modCluster_mbox (s : State) (g : Nat) (f : Cluster → Cluster) : (s.modCluster g f).mbox = s.mbox := rfl
@[simp] theorem State.modCluster_fw (s : State) (g : Nat) (f : Cluster → Cluster) : (s.modCluster g f).fw = s.fw := rfl
@[simp] theorem State.modCluster_own (s : State) (g : Nat) (f : Cluster → Cluster) : (s.modCluster g f).own = s.own := rfl
@[simp] theorem State.modCluster_host (s : State) (g : Nat) (f : Cluster → Cluster) : (s.modCluster g f).host = s.host := rfl

/-! ### `State.modLayer` -/

@[simp] theorem State.modLayer_schedule (s : State) (l : Nat) (f : Layer → Layer) : (s.modLayer l f).schedule = s.schedule := rfl
@[simp] theorem State.modLayer_turn (s : State) (l : Nat) (f : Layer → Layer) : (s.modLayer l f).turn = s.turn := rfl
@[simp] theorem State.modLayer_focus (s : State) (l : Nat) (f : Layer → Layer) : (s.modLayer l f).focus = s.focus := rfl
@[simp] theorem State.modLayer_item (s : State) (l : Nat) (f : Layer → Layer) : (s.modLayer l f).item = s.item := rfl
@[simp] theorem State.modLayer_stamp (s : State) (l : Nat) (f : Layer → Layer) : (s.modLayer l f).stamp = s.stamp := rfl
@[simp] theorem State.modLayer_frees (s : State) (l : Nat) (f : Layer → Layer) : (s.modLayer l f).frees = s.frees := rfl
@[simp] theorem State.modLayer_pkg (s : State) (l : Nat) (f : Layer → Layer) : (s.modLayer l f).pkg = s.pkg := rfl
@[simp] theorem State.modLayer_time (s : State) (l : Nat) (f : Layer → Layer) : (s.modLayer l f).time = s.time := rfl
@[simp] theorem State.modLayer_podTime (s : State) (l : Nat) (f : Layer → Layer) : (s.modLayer l f).podTime = s.podTime := rfl
@[simp] theorem State.modLayer_mem (s : State) (l : Nat) (f : Layer → Layer) : (s.modLayer l f).mem = s.mem := rfl
@[simp] theorem State.modLayer_poison (s : State) (l : Nat) (f : Layer → Layer) : (s.modLayer l f).poison = s.poison := rfl
@[simp] theorem State.modLayer_cfg (s : State) (l : Nat) (f : Layer → Layer) : (s.modLayer l f).cfg = s.cfg := rfl
@[simp] theorem State.modLayer_ctxs (s : State) (l : Nat) (f : Layer → Layer) : (s.modLayer l f).ctxs = s.ctxs := rfl
@[simp] theorem State.modLayer_cores (s : State) (l : Nat) (f : Layer → Layer) : (s.modLayer l f).cores = s.cores := rfl
@[simp] theorem State.modLayer_clusters (s : State) (l : Nat) (f : Layer → Layer) : (s.modLayer l f).clusters = s.clusters := rfl
@[simp] theorem State.modLayer_accs (s : State) (l : Nat) (f : Layer → Layer) : (s.modLayer l f).accs = s.accs := rfl
@[simp] theorem State.modLayer_remotes (s : State) (l : Nat) (f : Layer → Layer) : (s.modLayer l f).remotes = s.remotes := rfl
@[simp] theorem State.modLayer_stored (s : State) (l : Nat) (f : Layer → Layer) : (s.modLayer l f).stored = s.stored := rfl
@[simp] theorem State.modLayer_walks (s : State) (l : Nat) (f : Layer → Layer) : (s.modLayer l f).walks = s.walks := rfl
@[simp] theorem State.modLayer_engFaults (s : State) (l : Nat) (f : Layer → Layer) : (s.modLayer l f).engFaults = s.engFaults := rfl
@[simp] theorem State.modLayer_peerLines (s : State) (l : Nat) (f : Layer → Layer) : (s.modLayer l f).peerLines = s.peerLines := rfl
@[simp] theorem State.modLayer_slices (s : State) (l : Nat) (f : Layer → Layer) : (s.modLayer l f).slices = s.slices := rfl
@[simp] theorem State.modLayer_dir (s : State) (l : Nat) (f : Layer → Layer) : (s.modLayer l f).dir = s.dir := rfl
@[simp] theorem State.modLayer_copies (s : State) (l : Nat) (f : Layer → Layer) : (s.modLayer l f).copies = s.copies := rfl
@[simp] theorem State.modLayer_nets (s : State) (l : Nat) (f : Layer → Layer) : (s.modLayer l f).nets = s.nets := rfl
@[simp] theorem State.modLayer_launches (s : State) (l : Nat) (f : Layer → Layer) : (s.modLayer l f).launches = s.launches := rfl
@[simp] theorem State.modLayer_nextLaunch (s : State) (l : Nat) (f : Layer → Layer) : (s.modLayer l f).nextLaunch = s.nextLaunch := rfl
@[simp] theorem State.modLayer_samples (s : State) (l : Nat) (f : Layer → Layer) : (s.modLayer l f).samples = s.samples := rfl
@[simp] theorem State.modLayer_firings (s : State) (l : Nat) (f : Layer → Layer) : (s.modLayer l f).firings = s.firings := rfl
@[simp] theorem State.modLayer_tiles (s : State) (l : Nat) (f : Layer → Layer) : (s.modLayer l f).tiles = s.tiles := rfl
@[simp] theorem State.modLayer_commits (s : State) (l : Nat) (f : Layer → Layer) : (s.modLayer l f).commits = s.commits := rfl
@[simp] theorem State.modLayer_tenants (s : State) (l : Nat) (f : Layer → Layer) : (s.modLayer l f).tenants = s.tenants := rfl
@[simp] theorem State.modLayer_streams (s : State) (l : Nat) (f : Layer → Layer) : (s.modLayer l f).streams = s.streams := rfl
@[simp] theorem State.modLayer_kills (s : State) (l : Nat) (f : Layer → Layer) : (s.modLayer l f).kills = s.kills := rfl
@[simp] theorem State.modLayer_toPlace (s : State) (l : Nat) (f : Layer → Layer) : (s.modLayer l f).toPlace = s.toPlace := rfl
@[simp] theorem State.modLayer_msgs (s : State) (l : Nat) (f : Layer → Layer) : (s.modLayer l f).msgs = s.msgs := rfl
@[simp] theorem State.modLayer_workReqs (s : State) (l : Nat) (f : Layer → Layer) : (s.modLayer l f).workReqs = s.workReqs := rfl
@[simp] theorem State.modLayer_barges (s : State) (l : Nat) (f : Layer → Layer) : (s.modLayer l f).barges = s.barges := rfl
@[simp] theorem State.modLayer_pushes (s : State) (l : Nat) (f : Layer → Layer) : (s.modLayer l f).pushes = s.pushes := rfl
@[simp] theorem State.modLayer_powerReqs (s : State) (l : Nat) (f : Layer → Layer) : (s.modLayer l f).powerReqs = s.powerReqs := rfl
@[simp] theorem State.modLayer_fab (s : State) (l : Nat) (f : Layer → Layer) : (s.modLayer l f).fab = s.fab := rfl
@[simp] theorem State.modLayer_mbox (s : State) (l : Nat) (f : Layer → Layer) : (s.modLayer l f).mbox = s.mbox := rfl
@[simp] theorem State.modLayer_fw (s : State) (l : Nat) (f : Layer → Layer) : (s.modLayer l f).fw = s.fw := rfl
@[simp] theorem State.modLayer_own (s : State) (l : Nat) (f : Layer → Layer) : (s.modLayer l f).own = s.own := rfl
@[simp] theorem State.modLayer_host (s : State) (l : Nat) (f : Layer → Layer) : (s.modLayer l f).host = s.host := rfl

/-! ### `State.modTenant` -/

@[simp] theorem State.modTenant_schedule (s : State) (t : Nat) (f : Tenant → Tenant) : (s.modTenant t f).schedule = s.schedule := rfl
@[simp] theorem State.modTenant_turn (s : State) (t : Nat) (f : Tenant → Tenant) : (s.modTenant t f).turn = s.turn := rfl
@[simp] theorem State.modTenant_focus (s : State) (t : Nat) (f : Tenant → Tenant) : (s.modTenant t f).focus = s.focus := rfl
@[simp] theorem State.modTenant_item (s : State) (t : Nat) (f : Tenant → Tenant) : (s.modTenant t f).item = s.item := rfl
@[simp] theorem State.modTenant_stamp (s : State) (t : Nat) (f : Tenant → Tenant) : (s.modTenant t f).stamp = s.stamp := rfl
@[simp] theorem State.modTenant_frees (s : State) (t : Nat) (f : Tenant → Tenant) : (s.modTenant t f).frees = s.frees := rfl
@[simp] theorem State.modTenant_pkg (s : State) (t : Nat) (f : Tenant → Tenant) : (s.modTenant t f).pkg = s.pkg := rfl
@[simp] theorem State.modTenant_time (s : State) (t : Nat) (f : Tenant → Tenant) : (s.modTenant t f).time = s.time := rfl
@[simp] theorem State.modTenant_podTime (s : State) (t : Nat) (f : Tenant → Tenant) : (s.modTenant t f).podTime = s.podTime := rfl
@[simp] theorem State.modTenant_mem (s : State) (t : Nat) (f : Tenant → Tenant) : (s.modTenant t f).mem = s.mem := rfl
@[simp] theorem State.modTenant_poison (s : State) (t : Nat) (f : Tenant → Tenant) : (s.modTenant t f).poison = s.poison := rfl
@[simp] theorem State.modTenant_cfg (s : State) (t : Nat) (f : Tenant → Tenant) : (s.modTenant t f).cfg = s.cfg := rfl
@[simp] theorem State.modTenant_ctxs (s : State) (t : Nat) (f : Tenant → Tenant) : (s.modTenant t f).ctxs = s.ctxs := rfl
@[simp] theorem State.modTenant_cores (s : State) (t : Nat) (f : Tenant → Tenant) : (s.modTenant t f).cores = s.cores := rfl
@[simp] theorem State.modTenant_clusters (s : State) (t : Nat) (f : Tenant → Tenant) : (s.modTenant t f).clusters = s.clusters := rfl
@[simp] theorem State.modTenant_layers (s : State) (t : Nat) (f : Tenant → Tenant) : (s.modTenant t f).layers = s.layers := rfl
@[simp] theorem State.modTenant_accs (s : State) (t : Nat) (f : Tenant → Tenant) : (s.modTenant t f).accs = s.accs := rfl
@[simp] theorem State.modTenant_remotes (s : State) (t : Nat) (f : Tenant → Tenant) : (s.modTenant t f).remotes = s.remotes := rfl
@[simp] theorem State.modTenant_stored (s : State) (t : Nat) (f : Tenant → Tenant) : (s.modTenant t f).stored = s.stored := rfl
@[simp] theorem State.modTenant_walks (s : State) (t : Nat) (f : Tenant → Tenant) : (s.modTenant t f).walks = s.walks := rfl
@[simp] theorem State.modTenant_engFaults (s : State) (t : Nat) (f : Tenant → Tenant) : (s.modTenant t f).engFaults = s.engFaults := rfl
@[simp] theorem State.modTenant_peerLines (s : State) (t : Nat) (f : Tenant → Tenant) : (s.modTenant t f).peerLines = s.peerLines := rfl
@[simp] theorem State.modTenant_slices (s : State) (t : Nat) (f : Tenant → Tenant) : (s.modTenant t f).slices = s.slices := rfl
@[simp] theorem State.modTenant_dir (s : State) (t : Nat) (f : Tenant → Tenant) : (s.modTenant t f).dir = s.dir := rfl
@[simp] theorem State.modTenant_copies (s : State) (t : Nat) (f : Tenant → Tenant) : (s.modTenant t f).copies = s.copies := rfl
@[simp] theorem State.modTenant_nets (s : State) (t : Nat) (f : Tenant → Tenant) : (s.modTenant t f).nets = s.nets := rfl
@[simp] theorem State.modTenant_launches (s : State) (t : Nat) (f : Tenant → Tenant) : (s.modTenant t f).launches = s.launches := rfl
@[simp] theorem State.modTenant_nextLaunch (s : State) (t : Nat) (f : Tenant → Tenant) : (s.modTenant t f).nextLaunch = s.nextLaunch := rfl
@[simp] theorem State.modTenant_samples (s : State) (t : Nat) (f : Tenant → Tenant) : (s.modTenant t f).samples = s.samples := rfl
@[simp] theorem State.modTenant_firings (s : State) (t : Nat) (f : Tenant → Tenant) : (s.modTenant t f).firings = s.firings := rfl
@[simp] theorem State.modTenant_tiles (s : State) (t : Nat) (f : Tenant → Tenant) : (s.modTenant t f).tiles = s.tiles := rfl
@[simp] theorem State.modTenant_commits (s : State) (t : Nat) (f : Tenant → Tenant) : (s.modTenant t f).commits = s.commits := rfl
@[simp] theorem State.modTenant_streams (s : State) (t : Nat) (f : Tenant → Tenant) : (s.modTenant t f).streams = s.streams := rfl
@[simp] theorem State.modTenant_kills (s : State) (t : Nat) (f : Tenant → Tenant) : (s.modTenant t f).kills = s.kills := rfl
@[simp] theorem State.modTenant_toPlace (s : State) (t : Nat) (f : Tenant → Tenant) : (s.modTenant t f).toPlace = s.toPlace := rfl
@[simp] theorem State.modTenant_msgs (s : State) (t : Nat) (f : Tenant → Tenant) : (s.modTenant t f).msgs = s.msgs := rfl
@[simp] theorem State.modTenant_workReqs (s : State) (t : Nat) (f : Tenant → Tenant) : (s.modTenant t f).workReqs = s.workReqs := rfl
@[simp] theorem State.modTenant_barges (s : State) (t : Nat) (f : Tenant → Tenant) : (s.modTenant t f).barges = s.barges := rfl
@[simp] theorem State.modTenant_pushes (s : State) (t : Nat) (f : Tenant → Tenant) : (s.modTenant t f).pushes = s.pushes := rfl
@[simp] theorem State.modTenant_powerReqs (s : State) (t : Nat) (f : Tenant → Tenant) : (s.modTenant t f).powerReqs = s.powerReqs := rfl
@[simp] theorem State.modTenant_fab (s : State) (t : Nat) (f : Tenant → Tenant) : (s.modTenant t f).fab = s.fab := rfl
@[simp] theorem State.modTenant_mbox (s : State) (t : Nat) (f : Tenant → Tenant) : (s.modTenant t f).mbox = s.mbox := rfl
@[simp] theorem State.modTenant_fw (s : State) (t : Nat) (f : Tenant → Tenant) : (s.modTenant t f).fw = s.fw := rfl
@[simp] theorem State.modTenant_own (s : State) (t : Nat) (f : Tenant → Tenant) : (s.modTenant t f).own = s.own := rfl
@[simp] theorem State.modTenant_host (s : State) (t : Nat) (f : Tenant → Tenant) : (s.modTenant t f).host = s.host := rfl

/-! ### `State.modStream` -/

@[simp] theorem State.modStream_schedule (s : State) (q : Nat) (f : Stream → Stream) : (s.modStream q f).schedule = s.schedule := rfl
@[simp] theorem State.modStream_turn (s : State) (q : Nat) (f : Stream → Stream) : (s.modStream q f).turn = s.turn := rfl
@[simp] theorem State.modStream_focus (s : State) (q : Nat) (f : Stream → Stream) : (s.modStream q f).focus = s.focus := rfl
@[simp] theorem State.modStream_item (s : State) (q : Nat) (f : Stream → Stream) : (s.modStream q f).item = s.item := rfl
@[simp] theorem State.modStream_stamp (s : State) (q : Nat) (f : Stream → Stream) : (s.modStream q f).stamp = s.stamp := rfl
@[simp] theorem State.modStream_frees (s : State) (q : Nat) (f : Stream → Stream) : (s.modStream q f).frees = s.frees := rfl
@[simp] theorem State.modStream_pkg (s : State) (q : Nat) (f : Stream → Stream) : (s.modStream q f).pkg = s.pkg := rfl
@[simp] theorem State.modStream_time (s : State) (q : Nat) (f : Stream → Stream) : (s.modStream q f).time = s.time := rfl
@[simp] theorem State.modStream_podTime (s : State) (q : Nat) (f : Stream → Stream) : (s.modStream q f).podTime = s.podTime := rfl
@[simp] theorem State.modStream_mem (s : State) (q : Nat) (f : Stream → Stream) : (s.modStream q f).mem = s.mem := rfl
@[simp] theorem State.modStream_poison (s : State) (q : Nat) (f : Stream → Stream) : (s.modStream q f).poison = s.poison := rfl
@[simp] theorem State.modStream_cfg (s : State) (q : Nat) (f : Stream → Stream) : (s.modStream q f).cfg = s.cfg := rfl
@[simp] theorem State.modStream_ctxs (s : State) (q : Nat) (f : Stream → Stream) : (s.modStream q f).ctxs = s.ctxs := rfl
@[simp] theorem State.modStream_cores (s : State) (q : Nat) (f : Stream → Stream) : (s.modStream q f).cores = s.cores := rfl
@[simp] theorem State.modStream_clusters (s : State) (q : Nat) (f : Stream → Stream) : (s.modStream q f).clusters = s.clusters := rfl
@[simp] theorem State.modStream_layers (s : State) (q : Nat) (f : Stream → Stream) : (s.modStream q f).layers = s.layers := rfl
@[simp] theorem State.modStream_accs (s : State) (q : Nat) (f : Stream → Stream) : (s.modStream q f).accs = s.accs := rfl
@[simp] theorem State.modStream_remotes (s : State) (q : Nat) (f : Stream → Stream) : (s.modStream q f).remotes = s.remotes := rfl
@[simp] theorem State.modStream_stored (s : State) (q : Nat) (f : Stream → Stream) : (s.modStream q f).stored = s.stored := rfl
@[simp] theorem State.modStream_walks (s : State) (q : Nat) (f : Stream → Stream) : (s.modStream q f).walks = s.walks := rfl
@[simp] theorem State.modStream_engFaults (s : State) (q : Nat) (f : Stream → Stream) : (s.modStream q f).engFaults = s.engFaults := rfl
@[simp] theorem State.modStream_peerLines (s : State) (q : Nat) (f : Stream → Stream) : (s.modStream q f).peerLines = s.peerLines := rfl
@[simp] theorem State.modStream_slices (s : State) (q : Nat) (f : Stream → Stream) : (s.modStream q f).slices = s.slices := rfl
@[simp] theorem State.modStream_dir (s : State) (q : Nat) (f : Stream → Stream) : (s.modStream q f).dir = s.dir := rfl
@[simp] theorem State.modStream_copies (s : State) (q : Nat) (f : Stream → Stream) : (s.modStream q f).copies = s.copies := rfl
@[simp] theorem State.modStream_nets (s : State) (q : Nat) (f : Stream → Stream) : (s.modStream q f).nets = s.nets := rfl
@[simp] theorem State.modStream_launches (s : State) (q : Nat) (f : Stream → Stream) : (s.modStream q f).launches = s.launches := rfl
@[simp] theorem State.modStream_nextLaunch (s : State) (q : Nat) (f : Stream → Stream) : (s.modStream q f).nextLaunch = s.nextLaunch := rfl
@[simp] theorem State.modStream_samples (s : State) (q : Nat) (f : Stream → Stream) : (s.modStream q f).samples = s.samples := rfl
@[simp] theorem State.modStream_firings (s : State) (q : Nat) (f : Stream → Stream) : (s.modStream q f).firings = s.firings := rfl
@[simp] theorem State.modStream_tiles (s : State) (q : Nat) (f : Stream → Stream) : (s.modStream q f).tiles = s.tiles := rfl
@[simp] theorem State.modStream_commits (s : State) (q : Nat) (f : Stream → Stream) : (s.modStream q f).commits = s.commits := rfl
@[simp] theorem State.modStream_tenants (s : State) (q : Nat) (f : Stream → Stream) : (s.modStream q f).tenants = s.tenants := rfl
@[simp] theorem State.modStream_kills (s : State) (q : Nat) (f : Stream → Stream) : (s.modStream q f).kills = s.kills := rfl
@[simp] theorem State.modStream_toPlace (s : State) (q : Nat) (f : Stream → Stream) : (s.modStream q f).toPlace = s.toPlace := rfl
@[simp] theorem State.modStream_msgs (s : State) (q : Nat) (f : Stream → Stream) : (s.modStream q f).msgs = s.msgs := rfl
@[simp] theorem State.modStream_workReqs (s : State) (q : Nat) (f : Stream → Stream) : (s.modStream q f).workReqs = s.workReqs := rfl
@[simp] theorem State.modStream_barges (s : State) (q : Nat) (f : Stream → Stream) : (s.modStream q f).barges = s.barges := rfl
@[simp] theorem State.modStream_pushes (s : State) (q : Nat) (f : Stream → Stream) : (s.modStream q f).pushes = s.pushes := rfl
@[simp] theorem State.modStream_powerReqs (s : State) (q : Nat) (f : Stream → Stream) : (s.modStream q f).powerReqs = s.powerReqs := rfl
@[simp] theorem State.modStream_fab (s : State) (q : Nat) (f : Stream → Stream) : (s.modStream q f).fab = s.fab := rfl
@[simp] theorem State.modStream_mbox (s : State) (q : Nat) (f : Stream → Stream) : (s.modStream q f).mbox = s.mbox := rfl
@[simp] theorem State.modStream_fw (s : State) (q : Nat) (f : Stream → Stream) : (s.modStream q f).fw = s.fw := rfl
@[simp] theorem State.modStream_own (s : State) (q : Nat) (f : Stream → Stream) : (s.modStream q f).own = s.own := rfl
@[simp] theorem State.modStream_host (s : State) (q : Nat) (f : Stream → Stream) : (s.modStream q f).host = s.host := rfl

/-! ### `State.setCtx` -/

@[simp] theorem State.setCtx_schedule (s : State) (c : Ctx) : (s.setCtx c).schedule = s.schedule := rfl
@[simp] theorem State.setCtx_turn (s : State) (c : Ctx) : (s.setCtx c).turn = s.turn := rfl
@[simp] theorem State.setCtx_focus (s : State) (c : Ctx) : (s.setCtx c).focus = s.focus := rfl
@[simp] theorem State.setCtx_item (s : State) (c : Ctx) : (s.setCtx c).item = s.item := rfl
@[simp] theorem State.setCtx_stamp (s : State) (c : Ctx) : (s.setCtx c).stamp = s.stamp := rfl
@[simp] theorem State.setCtx_frees (s : State) (c : Ctx) : (s.setCtx c).frees = s.frees := rfl
@[simp] theorem State.setCtx_pkg (s : State) (c : Ctx) : (s.setCtx c).pkg = s.pkg := rfl
@[simp] theorem State.setCtx_time (s : State) (c : Ctx) : (s.setCtx c).time = s.time := rfl
@[simp] theorem State.setCtx_podTime (s : State) (c : Ctx) : (s.setCtx c).podTime = s.podTime := rfl
@[simp] theorem State.setCtx_mem (s : State) (c : Ctx) : (s.setCtx c).mem = s.mem := rfl
@[simp] theorem State.setCtx_poison (s : State) (c : Ctx) : (s.setCtx c).poison = s.poison := rfl
@[simp] theorem State.setCtx_cfg (s : State) (c : Ctx) : (s.setCtx c).cfg = s.cfg := rfl
@[simp] theorem State.setCtx_cores (s : State) (c : Ctx) : (s.setCtx c).cores = s.cores := rfl
@[simp] theorem State.setCtx_clusters (s : State) (c : Ctx) : (s.setCtx c).clusters = s.clusters := rfl
@[simp] theorem State.setCtx_layers (s : State) (c : Ctx) : (s.setCtx c).layers = s.layers := rfl
@[simp] theorem State.setCtx_accs (s : State) (c : Ctx) : (s.setCtx c).accs = s.accs := rfl
@[simp] theorem State.setCtx_remotes (s : State) (c : Ctx) : (s.setCtx c).remotes = s.remotes := rfl
@[simp] theorem State.setCtx_stored (s : State) (c : Ctx) : (s.setCtx c).stored = s.stored := rfl
@[simp] theorem State.setCtx_walks (s : State) (c : Ctx) : (s.setCtx c).walks = s.walks := rfl
@[simp] theorem State.setCtx_engFaults (s : State) (c : Ctx) : (s.setCtx c).engFaults = s.engFaults := rfl
@[simp] theorem State.setCtx_peerLines (s : State) (c : Ctx) : (s.setCtx c).peerLines = s.peerLines := rfl
@[simp] theorem State.setCtx_slices (s : State) (c : Ctx) : (s.setCtx c).slices = s.slices := rfl
@[simp] theorem State.setCtx_dir (s : State) (c : Ctx) : (s.setCtx c).dir = s.dir := rfl
@[simp] theorem State.setCtx_copies (s : State) (c : Ctx) : (s.setCtx c).copies = s.copies := rfl
@[simp] theorem State.setCtx_nets (s : State) (c : Ctx) : (s.setCtx c).nets = s.nets := rfl
@[simp] theorem State.setCtx_launches (s : State) (c : Ctx) : (s.setCtx c).launches = s.launches := rfl
@[simp] theorem State.setCtx_nextLaunch (s : State) (c : Ctx) : (s.setCtx c).nextLaunch = s.nextLaunch := rfl
@[simp] theorem State.setCtx_samples (s : State) (c : Ctx) : (s.setCtx c).samples = s.samples := rfl
@[simp] theorem State.setCtx_firings (s : State) (c : Ctx) : (s.setCtx c).firings = s.firings := rfl
@[simp] theorem State.setCtx_tiles (s : State) (c : Ctx) : (s.setCtx c).tiles = s.tiles := rfl
@[simp] theorem State.setCtx_commits (s : State) (c : Ctx) : (s.setCtx c).commits = s.commits := rfl
@[simp] theorem State.setCtx_tenants (s : State) (c : Ctx) : (s.setCtx c).tenants = s.tenants := rfl
@[simp] theorem State.setCtx_streams (s : State) (c : Ctx) : (s.setCtx c).streams = s.streams := rfl
@[simp] theorem State.setCtx_kills (s : State) (c : Ctx) : (s.setCtx c).kills = s.kills := rfl
@[simp] theorem State.setCtx_toPlace (s : State) (c : Ctx) : (s.setCtx c).toPlace = s.toPlace := rfl
@[simp] theorem State.setCtx_msgs (s : State) (c : Ctx) : (s.setCtx c).msgs = s.msgs := rfl
@[simp] theorem State.setCtx_workReqs (s : State) (c : Ctx) : (s.setCtx c).workReqs = s.workReqs := rfl
@[simp] theorem State.setCtx_barges (s : State) (c : Ctx) : (s.setCtx c).barges = s.barges := rfl
@[simp] theorem State.setCtx_pushes (s : State) (c : Ctx) : (s.setCtx c).pushes = s.pushes := rfl
@[simp] theorem State.setCtx_powerReqs (s : State) (c : Ctx) : (s.setCtx c).powerReqs = s.powerReqs := rfl
@[simp] theorem State.setCtx_fab (s : State) (c : Ctx) : (s.setCtx c).fab = s.fab := rfl
@[simp] theorem State.setCtx_mbox (s : State) (c : Ctx) : (s.setCtx c).mbox = s.mbox := rfl
@[simp] theorem State.setCtx_fw (s : State) (c : Ctx) : (s.setCtx c).fw = s.fw := rfl
@[simp] theorem State.setCtx_own (s : State) (c : Ctx) : (s.setCtx c).own = s.own := rfl
@[simp] theorem State.setCtx_host (s : State) (c : Ctx) : (s.setCtx c).host = s.host := rfl

/-! ### `State.tickStamp` -/

@[simp] theorem State.tickStamp_schedule (s : State) : (s.tickStamp).schedule = s.schedule := rfl
@[simp] theorem State.tickStamp_turn (s : State) : (s.tickStamp).turn = s.turn := rfl
@[simp] theorem State.tickStamp_focus (s : State) : (s.tickStamp).focus = s.focus := rfl
@[simp] theorem State.tickStamp_item (s : State) : (s.tickStamp).item = s.item := rfl
@[simp] theorem State.tickStamp_frees (s : State) : (s.tickStamp).frees = s.frees := rfl
@[simp] theorem State.tickStamp_pkg (s : State) : (s.tickStamp).pkg = s.pkg := rfl
@[simp] theorem State.tickStamp_time (s : State) : (s.tickStamp).time = s.time := rfl
@[simp] theorem State.tickStamp_podTime (s : State) : (s.tickStamp).podTime = s.podTime := rfl
@[simp] theorem State.tickStamp_mem (s : State) : (s.tickStamp).mem = s.mem := rfl
@[simp] theorem State.tickStamp_poison (s : State) : (s.tickStamp).poison = s.poison := rfl
@[simp] theorem State.tickStamp_cfg (s : State) : (s.tickStamp).cfg = s.cfg := rfl
@[simp] theorem State.tickStamp_ctxs (s : State) : (s.tickStamp).ctxs = s.ctxs := rfl
@[simp] theorem State.tickStamp_cores (s : State) : (s.tickStamp).cores = s.cores := rfl
@[simp] theorem State.tickStamp_clusters (s : State) : (s.tickStamp).clusters = s.clusters := rfl
@[simp] theorem State.tickStamp_layers (s : State) : (s.tickStamp).layers = s.layers := rfl
@[simp] theorem State.tickStamp_accs (s : State) : (s.tickStamp).accs = s.accs := rfl
@[simp] theorem State.tickStamp_remotes (s : State) : (s.tickStamp).remotes = s.remotes := rfl
@[simp] theorem State.tickStamp_stored (s : State) : (s.tickStamp).stored = s.stored := rfl
@[simp] theorem State.tickStamp_walks (s : State) : (s.tickStamp).walks = s.walks := rfl
@[simp] theorem State.tickStamp_engFaults (s : State) : (s.tickStamp).engFaults = s.engFaults := rfl
@[simp] theorem State.tickStamp_peerLines (s : State) : (s.tickStamp).peerLines = s.peerLines := rfl
@[simp] theorem State.tickStamp_slices (s : State) : (s.tickStamp).slices = s.slices := rfl
@[simp] theorem State.tickStamp_dir (s : State) : (s.tickStamp).dir = s.dir := rfl
@[simp] theorem State.tickStamp_copies (s : State) : (s.tickStamp).copies = s.copies := rfl
@[simp] theorem State.tickStamp_nets (s : State) : (s.tickStamp).nets = s.nets := rfl
@[simp] theorem State.tickStamp_launches (s : State) : (s.tickStamp).launches = s.launches := rfl
@[simp] theorem State.tickStamp_nextLaunch (s : State) : (s.tickStamp).nextLaunch = s.nextLaunch := rfl
@[simp] theorem State.tickStamp_samples (s : State) : (s.tickStamp).samples = s.samples := rfl
@[simp] theorem State.tickStamp_firings (s : State) : (s.tickStamp).firings = s.firings := rfl
@[simp] theorem State.tickStamp_tiles (s : State) : (s.tickStamp).tiles = s.tiles := rfl
@[simp] theorem State.tickStamp_commits (s : State) : (s.tickStamp).commits = s.commits := rfl
@[simp] theorem State.tickStamp_tenants (s : State) : (s.tickStamp).tenants = s.tenants := rfl
@[simp] theorem State.tickStamp_streams (s : State) : (s.tickStamp).streams = s.streams := rfl
@[simp] theorem State.tickStamp_kills (s : State) : (s.tickStamp).kills = s.kills := rfl
@[simp] theorem State.tickStamp_toPlace (s : State) : (s.tickStamp).toPlace = s.toPlace := rfl
@[simp] theorem State.tickStamp_msgs (s : State) : (s.tickStamp).msgs = s.msgs := rfl
@[simp] theorem State.tickStamp_workReqs (s : State) : (s.tickStamp).workReqs = s.workReqs := rfl
@[simp] theorem State.tickStamp_barges (s : State) : (s.tickStamp).barges = s.barges := rfl
@[simp] theorem State.tickStamp_pushes (s : State) : (s.tickStamp).pushes = s.pushes := rfl
@[simp] theorem State.tickStamp_powerReqs (s : State) : (s.tickStamp).powerReqs = s.powerReqs := rfl
@[simp] theorem State.tickStamp_fab (s : State) : (s.tickStamp).fab = s.fab := rfl
@[simp] theorem State.tickStamp_mbox (s : State) : (s.tickStamp).mbox = s.mbox := rfl
@[simp] theorem State.tickStamp_fw (s : State) : (s.tickStamp).fw = s.fw := rfl
@[simp] theorem State.tickStamp_own (s : State) : (s.tickStamp).own = s.own := rfl
@[simp] theorem State.tickStamp_host (s : State) : (s.tickStamp).host = s.host := rfl

/-! ### `State.modLaunch` -/

@[simp] theorem State.modLaunch_schedule (s : State) (l : Nat) (f : Launch → Launch) : (s.modLaunch l f).schedule = s.schedule := by unfold State.modLaunch; split <;> rfl
@[simp] theorem State.modLaunch_turn (s : State) (l : Nat) (f : Launch → Launch) : (s.modLaunch l f).turn = s.turn := by unfold State.modLaunch; split <;> rfl
@[simp] theorem State.modLaunch_focus (s : State) (l : Nat) (f : Launch → Launch) : (s.modLaunch l f).focus = s.focus := by unfold State.modLaunch; split <;> rfl
@[simp] theorem State.modLaunch_item (s : State) (l : Nat) (f : Launch → Launch) : (s.modLaunch l f).item = s.item := by unfold State.modLaunch; split <;> rfl
@[simp] theorem State.modLaunch_stamp (s : State) (l : Nat) (f : Launch → Launch) : (s.modLaunch l f).stamp = s.stamp := by unfold State.modLaunch; split <;> rfl
@[simp] theorem State.modLaunch_frees (s : State) (l : Nat) (f : Launch → Launch) : (s.modLaunch l f).frees = s.frees := by unfold State.modLaunch; split <;> rfl
@[simp] theorem State.modLaunch_pkg (s : State) (l : Nat) (f : Launch → Launch) : (s.modLaunch l f).pkg = s.pkg := by unfold State.modLaunch; split <;> rfl
@[simp] theorem State.modLaunch_time (s : State) (l : Nat) (f : Launch → Launch) : (s.modLaunch l f).time = s.time := by unfold State.modLaunch; split <;> rfl
@[simp] theorem State.modLaunch_podTime (s : State) (l : Nat) (f : Launch → Launch) : (s.modLaunch l f).podTime = s.podTime := by unfold State.modLaunch; split <;> rfl
@[simp] theorem State.modLaunch_mem (s : State) (l : Nat) (f : Launch → Launch) : (s.modLaunch l f).mem = s.mem := by unfold State.modLaunch; split <;> rfl
@[simp] theorem State.modLaunch_poison (s : State) (l : Nat) (f : Launch → Launch) : (s.modLaunch l f).poison = s.poison := by unfold State.modLaunch; split <;> rfl
@[simp] theorem State.modLaunch_cfg (s : State) (l : Nat) (f : Launch → Launch) : (s.modLaunch l f).cfg = s.cfg := by unfold State.modLaunch; split <;> rfl
@[simp] theorem State.modLaunch_ctxs (s : State) (l : Nat) (f : Launch → Launch) : (s.modLaunch l f).ctxs = s.ctxs := by unfold State.modLaunch; split <;> rfl
@[simp] theorem State.modLaunch_cores (s : State) (l : Nat) (f : Launch → Launch) : (s.modLaunch l f).cores = s.cores := by unfold State.modLaunch; split <;> rfl
@[simp] theorem State.modLaunch_clusters (s : State) (l : Nat) (f : Launch → Launch) : (s.modLaunch l f).clusters = s.clusters := by unfold State.modLaunch; split <;> rfl
@[simp] theorem State.modLaunch_layers (s : State) (l : Nat) (f : Launch → Launch) : (s.modLaunch l f).layers = s.layers := by unfold State.modLaunch; split <;> rfl
@[simp] theorem State.modLaunch_accs (s : State) (l : Nat) (f : Launch → Launch) : (s.modLaunch l f).accs = s.accs := by unfold State.modLaunch; split <;> rfl
@[simp] theorem State.modLaunch_remotes (s : State) (l : Nat) (f : Launch → Launch) : (s.modLaunch l f).remotes = s.remotes := by unfold State.modLaunch; split <;> rfl
@[simp] theorem State.modLaunch_stored (s : State) (l : Nat) (f : Launch → Launch) : (s.modLaunch l f).stored = s.stored := by unfold State.modLaunch; split <;> rfl
@[simp] theorem State.modLaunch_walks (s : State) (l : Nat) (f : Launch → Launch) : (s.modLaunch l f).walks = s.walks := by unfold State.modLaunch; split <;> rfl
@[simp] theorem State.modLaunch_engFaults (s : State) (l : Nat) (f : Launch → Launch) : (s.modLaunch l f).engFaults = s.engFaults := by unfold State.modLaunch; split <;> rfl
@[simp] theorem State.modLaunch_peerLines (s : State) (l : Nat) (f : Launch → Launch) : (s.modLaunch l f).peerLines = s.peerLines := by unfold State.modLaunch; split <;> rfl
@[simp] theorem State.modLaunch_slices (s : State) (l : Nat) (f : Launch → Launch) : (s.modLaunch l f).slices = s.slices := by unfold State.modLaunch; split <;> rfl
@[simp] theorem State.modLaunch_dir (s : State) (l : Nat) (f : Launch → Launch) : (s.modLaunch l f).dir = s.dir := by unfold State.modLaunch; split <;> rfl
@[simp] theorem State.modLaunch_copies (s : State) (l : Nat) (f : Launch → Launch) : (s.modLaunch l f).copies = s.copies := by unfold State.modLaunch; split <;> rfl
@[simp] theorem State.modLaunch_nets (s : State) (l : Nat) (f : Launch → Launch) : (s.modLaunch l f).nets = s.nets := by unfold State.modLaunch; split <;> rfl
@[simp] theorem State.modLaunch_nextLaunch (s : State) (l : Nat) (f : Launch → Launch) : (s.modLaunch l f).nextLaunch = s.nextLaunch := by unfold State.modLaunch; split <;> rfl
@[simp] theorem State.modLaunch_samples (s : State) (l : Nat) (f : Launch → Launch) : (s.modLaunch l f).samples = s.samples := by unfold State.modLaunch; split <;> rfl
@[simp] theorem State.modLaunch_firings (s : State) (l : Nat) (f : Launch → Launch) : (s.modLaunch l f).firings = s.firings := by unfold State.modLaunch; split <;> rfl
@[simp] theorem State.modLaunch_tiles (s : State) (l : Nat) (f : Launch → Launch) : (s.modLaunch l f).tiles = s.tiles := by unfold State.modLaunch; split <;> rfl
@[simp] theorem State.modLaunch_commits (s : State) (l : Nat) (f : Launch → Launch) : (s.modLaunch l f).commits = s.commits := by unfold State.modLaunch; split <;> rfl
@[simp] theorem State.modLaunch_tenants (s : State) (l : Nat) (f : Launch → Launch) : (s.modLaunch l f).tenants = s.tenants := by unfold State.modLaunch; split <;> rfl
@[simp] theorem State.modLaunch_streams (s : State) (l : Nat) (f : Launch → Launch) : (s.modLaunch l f).streams = s.streams := by unfold State.modLaunch; split <;> rfl
@[simp] theorem State.modLaunch_kills (s : State) (l : Nat) (f : Launch → Launch) : (s.modLaunch l f).kills = s.kills := by unfold State.modLaunch; split <;> rfl
@[simp] theorem State.modLaunch_toPlace (s : State) (l : Nat) (f : Launch → Launch) : (s.modLaunch l f).toPlace = s.toPlace := by unfold State.modLaunch; split <;> rfl
@[simp] theorem State.modLaunch_msgs (s : State) (l : Nat) (f : Launch → Launch) : (s.modLaunch l f).msgs = s.msgs := by unfold State.modLaunch; split <;> rfl
@[simp] theorem State.modLaunch_workReqs (s : State) (l : Nat) (f : Launch → Launch) : (s.modLaunch l f).workReqs = s.workReqs := by unfold State.modLaunch; split <;> rfl
@[simp] theorem State.modLaunch_barges (s : State) (l : Nat) (f : Launch → Launch) : (s.modLaunch l f).barges = s.barges := by unfold State.modLaunch; split <;> rfl
@[simp] theorem State.modLaunch_pushes (s : State) (l : Nat) (f : Launch → Launch) : (s.modLaunch l f).pushes = s.pushes := by unfold State.modLaunch; split <;> rfl
@[simp] theorem State.modLaunch_powerReqs (s : State) (l : Nat) (f : Launch → Launch) : (s.modLaunch l f).powerReqs = s.powerReqs := by unfold State.modLaunch; split <;> rfl
@[simp] theorem State.modLaunch_fab (s : State) (l : Nat) (f : Launch → Launch) : (s.modLaunch l f).fab = s.fab := by unfold State.modLaunch; split <;> rfl
@[simp] theorem State.modLaunch_mbox (s : State) (l : Nat) (f : Launch → Launch) : (s.modLaunch l f).mbox = s.mbox := by unfold State.modLaunch; split <;> rfl
@[simp] theorem State.modLaunch_fw (s : State) (l : Nat) (f : Launch → Launch) : (s.modLaunch l f).fw = s.fw := by unfold State.modLaunch; split <;> rfl
@[simp] theorem State.modLaunch_own (s : State) (l : Nat) (f : Launch → Launch) : (s.modLaunch l f).own = s.own := by unfold State.modLaunch; split <;> rfl
@[simp] theorem State.modLaunch_host (s : State) (l : Nat) (f : Launch → Launch) : (s.modLaunch l f).host = s.host := by unfold State.modLaunch; split <;> rfl

/-! ### `State.modFiring` -/

@[simp] theorem State.modFiring_schedule (s : State) (l : Nat) (f : Firing → Firing) : (s.modFiring l f).schedule = s.schedule := by unfold State.modFiring; split <;> rfl
@[simp] theorem State.modFiring_turn (s : State) (l : Nat) (f : Firing → Firing) : (s.modFiring l f).turn = s.turn := by unfold State.modFiring; split <;> rfl
@[simp] theorem State.modFiring_focus (s : State) (l : Nat) (f : Firing → Firing) : (s.modFiring l f).focus = s.focus := by unfold State.modFiring; split <;> rfl
@[simp] theorem State.modFiring_item (s : State) (l : Nat) (f : Firing → Firing) : (s.modFiring l f).item = s.item := by unfold State.modFiring; split <;> rfl
@[simp] theorem State.modFiring_stamp (s : State) (l : Nat) (f : Firing → Firing) : (s.modFiring l f).stamp = s.stamp := by unfold State.modFiring; split <;> rfl
@[simp] theorem State.modFiring_frees (s : State) (l : Nat) (f : Firing → Firing) : (s.modFiring l f).frees = s.frees := by unfold State.modFiring; split <;> rfl
@[simp] theorem State.modFiring_pkg (s : State) (l : Nat) (f : Firing → Firing) : (s.modFiring l f).pkg = s.pkg := by unfold State.modFiring; split <;> rfl
@[simp] theorem State.modFiring_time (s : State) (l : Nat) (f : Firing → Firing) : (s.modFiring l f).time = s.time := by unfold State.modFiring; split <;> rfl
@[simp] theorem State.modFiring_podTime (s : State) (l : Nat) (f : Firing → Firing) : (s.modFiring l f).podTime = s.podTime := by unfold State.modFiring; split <;> rfl
@[simp] theorem State.modFiring_mem (s : State) (l : Nat) (f : Firing → Firing) : (s.modFiring l f).mem = s.mem := by unfold State.modFiring; split <;> rfl
@[simp] theorem State.modFiring_poison (s : State) (l : Nat) (f : Firing → Firing) : (s.modFiring l f).poison = s.poison := by unfold State.modFiring; split <;> rfl
@[simp] theorem State.modFiring_cfg (s : State) (l : Nat) (f : Firing → Firing) : (s.modFiring l f).cfg = s.cfg := by unfold State.modFiring; split <;> rfl
@[simp] theorem State.modFiring_ctxs (s : State) (l : Nat) (f : Firing → Firing) : (s.modFiring l f).ctxs = s.ctxs := by unfold State.modFiring; split <;> rfl
@[simp] theorem State.modFiring_cores (s : State) (l : Nat) (f : Firing → Firing) : (s.modFiring l f).cores = s.cores := by unfold State.modFiring; split <;> rfl
@[simp] theorem State.modFiring_clusters (s : State) (l : Nat) (f : Firing → Firing) : (s.modFiring l f).clusters = s.clusters := by unfold State.modFiring; split <;> rfl
@[simp] theorem State.modFiring_layers (s : State) (l : Nat) (f : Firing → Firing) : (s.modFiring l f).layers = s.layers := by unfold State.modFiring; split <;> rfl
@[simp] theorem State.modFiring_accs (s : State) (l : Nat) (f : Firing → Firing) : (s.modFiring l f).accs = s.accs := by unfold State.modFiring; split <;> rfl
@[simp] theorem State.modFiring_remotes (s : State) (l : Nat) (f : Firing → Firing) : (s.modFiring l f).remotes = s.remotes := by unfold State.modFiring; split <;> rfl
@[simp] theorem State.modFiring_stored (s : State) (l : Nat) (f : Firing → Firing) : (s.modFiring l f).stored = s.stored := by unfold State.modFiring; split <;> rfl
@[simp] theorem State.modFiring_walks (s : State) (l : Nat) (f : Firing → Firing) : (s.modFiring l f).walks = s.walks := by unfold State.modFiring; split <;> rfl
@[simp] theorem State.modFiring_engFaults (s : State) (l : Nat) (f : Firing → Firing) : (s.modFiring l f).engFaults = s.engFaults := by unfold State.modFiring; split <;> rfl
@[simp] theorem State.modFiring_peerLines (s : State) (l : Nat) (f : Firing → Firing) : (s.modFiring l f).peerLines = s.peerLines := by unfold State.modFiring; split <;> rfl
@[simp] theorem State.modFiring_slices (s : State) (l : Nat) (f : Firing → Firing) : (s.modFiring l f).slices = s.slices := by unfold State.modFiring; split <;> rfl
@[simp] theorem State.modFiring_dir (s : State) (l : Nat) (f : Firing → Firing) : (s.modFiring l f).dir = s.dir := by unfold State.modFiring; split <;> rfl
@[simp] theorem State.modFiring_copies (s : State) (l : Nat) (f : Firing → Firing) : (s.modFiring l f).copies = s.copies := by unfold State.modFiring; split <;> rfl
@[simp] theorem State.modFiring_nets (s : State) (l : Nat) (f : Firing → Firing) : (s.modFiring l f).nets = s.nets := by unfold State.modFiring; split <;> rfl
@[simp] theorem State.modFiring_launches (s : State) (l : Nat) (f : Firing → Firing) : (s.modFiring l f).launches = s.launches := by unfold State.modFiring; split <;> rfl
@[simp] theorem State.modFiring_nextLaunch (s : State) (l : Nat) (f : Firing → Firing) : (s.modFiring l f).nextLaunch = s.nextLaunch := by unfold State.modFiring; split <;> rfl
@[simp] theorem State.modFiring_samples (s : State) (l : Nat) (f : Firing → Firing) : (s.modFiring l f).samples = s.samples := by unfold State.modFiring; split <;> rfl
@[simp] theorem State.modFiring_tiles (s : State) (l : Nat) (f : Firing → Firing) : (s.modFiring l f).tiles = s.tiles := by unfold State.modFiring; split <;> rfl
@[simp] theorem State.modFiring_commits (s : State) (l : Nat) (f : Firing → Firing) : (s.modFiring l f).commits = s.commits := by unfold State.modFiring; split <;> rfl
@[simp] theorem State.modFiring_tenants (s : State) (l : Nat) (f : Firing → Firing) : (s.modFiring l f).tenants = s.tenants := by unfold State.modFiring; split <;> rfl
@[simp] theorem State.modFiring_streams (s : State) (l : Nat) (f : Firing → Firing) : (s.modFiring l f).streams = s.streams := by unfold State.modFiring; split <;> rfl
@[simp] theorem State.modFiring_kills (s : State) (l : Nat) (f : Firing → Firing) : (s.modFiring l f).kills = s.kills := by unfold State.modFiring; split <;> rfl
@[simp] theorem State.modFiring_toPlace (s : State) (l : Nat) (f : Firing → Firing) : (s.modFiring l f).toPlace = s.toPlace := by unfold State.modFiring; split <;> rfl
@[simp] theorem State.modFiring_msgs (s : State) (l : Nat) (f : Firing → Firing) : (s.modFiring l f).msgs = s.msgs := by unfold State.modFiring; split <;> rfl
@[simp] theorem State.modFiring_workReqs (s : State) (l : Nat) (f : Firing → Firing) : (s.modFiring l f).workReqs = s.workReqs := by unfold State.modFiring; split <;> rfl
@[simp] theorem State.modFiring_barges (s : State) (l : Nat) (f : Firing → Firing) : (s.modFiring l f).barges = s.barges := by unfold State.modFiring; split <;> rfl
@[simp] theorem State.modFiring_pushes (s : State) (l : Nat) (f : Firing → Firing) : (s.modFiring l f).pushes = s.pushes := by unfold State.modFiring; split <;> rfl
@[simp] theorem State.modFiring_powerReqs (s : State) (l : Nat) (f : Firing → Firing) : (s.modFiring l f).powerReqs = s.powerReqs := by unfold State.modFiring; split <;> rfl
@[simp] theorem State.modFiring_fab (s : State) (l : Nat) (f : Firing → Firing) : (s.modFiring l f).fab = s.fab := by unfold State.modFiring; split <;> rfl
@[simp] theorem State.modFiring_mbox (s : State) (l : Nat) (f : Firing → Firing) : (s.modFiring l f).mbox = s.mbox := by unfold State.modFiring; split <;> rfl
@[simp] theorem State.modFiring_fw (s : State) (l : Nat) (f : Firing → Firing) : (s.modFiring l f).fw = s.fw := by unfold State.modFiring; split <;> rfl
@[simp] theorem State.modFiring_own (s : State) (l : Nat) (f : Firing → Firing) : (s.modFiring l f).own = s.own := by unfold State.modFiring; split <;> rfl
@[simp] theorem State.modFiring_host (s : State) (l : Nat) (f : Firing → Firing) : (s.modFiring l f).host = s.host := by unfold State.modFiring; split <;> rfl

/-! ### `State.modTile` -/

@[simp] theorem State.modTile_schedule (s : State) (t : Nat) (f : Tile → Tile) : (s.modTile t f).schedule = s.schedule := by unfold State.modTile; split <;> rfl
@[simp] theorem State.modTile_turn (s : State) (t : Nat) (f : Tile → Tile) : (s.modTile t f).turn = s.turn := by unfold State.modTile; split <;> rfl
@[simp] theorem State.modTile_focus (s : State) (t : Nat) (f : Tile → Tile) : (s.modTile t f).focus = s.focus := by unfold State.modTile; split <;> rfl
@[simp] theorem State.modTile_item (s : State) (t : Nat) (f : Tile → Tile) : (s.modTile t f).item = s.item := by unfold State.modTile; split <;> rfl
@[simp] theorem State.modTile_stamp (s : State) (t : Nat) (f : Tile → Tile) : (s.modTile t f).stamp = s.stamp := by unfold State.modTile; split <;> rfl
@[simp] theorem State.modTile_frees (s : State) (t : Nat) (f : Tile → Tile) : (s.modTile t f).frees = s.frees := by unfold State.modTile; split <;> rfl
@[simp] theorem State.modTile_pkg (s : State) (t : Nat) (f : Tile → Tile) : (s.modTile t f).pkg = s.pkg := by unfold State.modTile; split <;> rfl
@[simp] theorem State.modTile_time (s : State) (t : Nat) (f : Tile → Tile) : (s.modTile t f).time = s.time := by unfold State.modTile; split <;> rfl
@[simp] theorem State.modTile_podTime (s : State) (t : Nat) (f : Tile → Tile) : (s.modTile t f).podTime = s.podTime := by unfold State.modTile; split <;> rfl
@[simp] theorem State.modTile_mem (s : State) (t : Nat) (f : Tile → Tile) : (s.modTile t f).mem = s.mem := by unfold State.modTile; split <;> rfl
@[simp] theorem State.modTile_poison (s : State) (t : Nat) (f : Tile → Tile) : (s.modTile t f).poison = s.poison := by unfold State.modTile; split <;> rfl
@[simp] theorem State.modTile_cfg (s : State) (t : Nat) (f : Tile → Tile) : (s.modTile t f).cfg = s.cfg := by unfold State.modTile; split <;> rfl
@[simp] theorem State.modTile_ctxs (s : State) (t : Nat) (f : Tile → Tile) : (s.modTile t f).ctxs = s.ctxs := by unfold State.modTile; split <;> rfl
@[simp] theorem State.modTile_cores (s : State) (t : Nat) (f : Tile → Tile) : (s.modTile t f).cores = s.cores := by unfold State.modTile; split <;> rfl
@[simp] theorem State.modTile_clusters (s : State) (t : Nat) (f : Tile → Tile) : (s.modTile t f).clusters = s.clusters := by unfold State.modTile; split <;> rfl
@[simp] theorem State.modTile_layers (s : State) (t : Nat) (f : Tile → Tile) : (s.modTile t f).layers = s.layers := by unfold State.modTile; split <;> rfl
@[simp] theorem State.modTile_accs (s : State) (t : Nat) (f : Tile → Tile) : (s.modTile t f).accs = s.accs := by unfold State.modTile; split <;> rfl
@[simp] theorem State.modTile_remotes (s : State) (t : Nat) (f : Tile → Tile) : (s.modTile t f).remotes = s.remotes := by unfold State.modTile; split <;> rfl
@[simp] theorem State.modTile_stored (s : State) (t : Nat) (f : Tile → Tile) : (s.modTile t f).stored = s.stored := by unfold State.modTile; split <;> rfl
@[simp] theorem State.modTile_walks (s : State) (t : Nat) (f : Tile → Tile) : (s.modTile t f).walks = s.walks := by unfold State.modTile; split <;> rfl
@[simp] theorem State.modTile_engFaults (s : State) (t : Nat) (f : Tile → Tile) : (s.modTile t f).engFaults = s.engFaults := by unfold State.modTile; split <;> rfl
@[simp] theorem State.modTile_peerLines (s : State) (t : Nat) (f : Tile → Tile) : (s.modTile t f).peerLines = s.peerLines := by unfold State.modTile; split <;> rfl
@[simp] theorem State.modTile_slices (s : State) (t : Nat) (f : Tile → Tile) : (s.modTile t f).slices = s.slices := by unfold State.modTile; split <;> rfl
@[simp] theorem State.modTile_dir (s : State) (t : Nat) (f : Tile → Tile) : (s.modTile t f).dir = s.dir := by unfold State.modTile; split <;> rfl
@[simp] theorem State.modTile_copies (s : State) (t : Nat) (f : Tile → Tile) : (s.modTile t f).copies = s.copies := by unfold State.modTile; split <;> rfl
@[simp] theorem State.modTile_nets (s : State) (t : Nat) (f : Tile → Tile) : (s.modTile t f).nets = s.nets := by unfold State.modTile; split <;> rfl
@[simp] theorem State.modTile_launches (s : State) (t : Nat) (f : Tile → Tile) : (s.modTile t f).launches = s.launches := by unfold State.modTile; split <;> rfl
@[simp] theorem State.modTile_nextLaunch (s : State) (t : Nat) (f : Tile → Tile) : (s.modTile t f).nextLaunch = s.nextLaunch := by unfold State.modTile; split <;> rfl
@[simp] theorem State.modTile_samples (s : State) (t : Nat) (f : Tile → Tile) : (s.modTile t f).samples = s.samples := by unfold State.modTile; split <;> rfl
@[simp] theorem State.modTile_firings (s : State) (t : Nat) (f : Tile → Tile) : (s.modTile t f).firings = s.firings := by unfold State.modTile; split <;> rfl
@[simp] theorem State.modTile_commits (s : State) (t : Nat) (f : Tile → Tile) : (s.modTile t f).commits = s.commits := by unfold State.modTile; split <;> rfl
@[simp] theorem State.modTile_tenants (s : State) (t : Nat) (f : Tile → Tile) : (s.modTile t f).tenants = s.tenants := by unfold State.modTile; split <;> rfl
@[simp] theorem State.modTile_streams (s : State) (t : Nat) (f : Tile → Tile) : (s.modTile t f).streams = s.streams := by unfold State.modTile; split <;> rfl
@[simp] theorem State.modTile_kills (s : State) (t : Nat) (f : Tile → Tile) : (s.modTile t f).kills = s.kills := by unfold State.modTile; split <;> rfl
@[simp] theorem State.modTile_toPlace (s : State) (t : Nat) (f : Tile → Tile) : (s.modTile t f).toPlace = s.toPlace := by unfold State.modTile; split <;> rfl
@[simp] theorem State.modTile_msgs (s : State) (t : Nat) (f : Tile → Tile) : (s.modTile t f).msgs = s.msgs := by unfold State.modTile; split <;> rfl
@[simp] theorem State.modTile_workReqs (s : State) (t : Nat) (f : Tile → Tile) : (s.modTile t f).workReqs = s.workReqs := by unfold State.modTile; split <;> rfl
@[simp] theorem State.modTile_barges (s : State) (t : Nat) (f : Tile → Tile) : (s.modTile t f).barges = s.barges := by unfold State.modTile; split <;> rfl
@[simp] theorem State.modTile_pushes (s : State) (t : Nat) (f : Tile → Tile) : (s.modTile t f).pushes = s.pushes := by unfold State.modTile; split <;> rfl
@[simp] theorem State.modTile_powerReqs (s : State) (t : Nat) (f : Tile → Tile) : (s.modTile t f).powerReqs = s.powerReqs := by unfold State.modTile; split <;> rfl
@[simp] theorem State.modTile_fab (s : State) (t : Nat) (f : Tile → Tile) : (s.modTile t f).fab = s.fab := by unfold State.modTile; split <;> rfl
@[simp] theorem State.modTile_mbox (s : State) (t : Nat) (f : Tile → Tile) : (s.modTile t f).mbox = s.mbox := by unfold State.modTile; split <;> rfl
@[simp] theorem State.modTile_fw (s : State) (t : Nat) (f : Tile → Tile) : (s.modTile t f).fw = s.fw := by unfold State.modTile; split <;> rfl
@[simp] theorem State.modTile_own (s : State) (t : Nat) (f : Tile → Tile) : (s.modTile t f).own = s.own := by unfold State.modTile; split <;> rfl
@[simp] theorem State.modTile_host (s : State) (t : Nat) (f : Tile → Tile) : (s.modTile t f).host = s.host := by unfold State.modTile; split <;> rfl

/-! ### `State.modNet` -/

@[simp] theorem State.modNet_schedule (s : State) (n : Nat) (f : Net → Net) : (s.modNet n f).schedule = s.schedule := by unfold State.modNet; split <;> rfl
@[simp] theorem State.modNet_turn (s : State) (n : Nat) (f : Net → Net) : (s.modNet n f).turn = s.turn := by unfold State.modNet; split <;> rfl
@[simp] theorem State.modNet_focus (s : State) (n : Nat) (f : Net → Net) : (s.modNet n f).focus = s.focus := by unfold State.modNet; split <;> rfl
@[simp] theorem State.modNet_item (s : State) (n : Nat) (f : Net → Net) : (s.modNet n f).item = s.item := by unfold State.modNet; split <;> rfl
@[simp] theorem State.modNet_stamp (s : State) (n : Nat) (f : Net → Net) : (s.modNet n f).stamp = s.stamp := by unfold State.modNet; split <;> rfl
@[simp] theorem State.modNet_frees (s : State) (n : Nat) (f : Net → Net) : (s.modNet n f).frees = s.frees := by unfold State.modNet; split <;> rfl
@[simp] theorem State.modNet_pkg (s : State) (n : Nat) (f : Net → Net) : (s.modNet n f).pkg = s.pkg := by unfold State.modNet; split <;> rfl
@[simp] theorem State.modNet_time (s : State) (n : Nat) (f : Net → Net) : (s.modNet n f).time = s.time := by unfold State.modNet; split <;> rfl
@[simp] theorem State.modNet_podTime (s : State) (n : Nat) (f : Net → Net) : (s.modNet n f).podTime = s.podTime := by unfold State.modNet; split <;> rfl
@[simp] theorem State.modNet_mem (s : State) (n : Nat) (f : Net → Net) : (s.modNet n f).mem = s.mem := by unfold State.modNet; split <;> rfl
@[simp] theorem State.modNet_poison (s : State) (n : Nat) (f : Net → Net) : (s.modNet n f).poison = s.poison := by unfold State.modNet; split <;> rfl
@[simp] theorem State.modNet_cfg (s : State) (n : Nat) (f : Net → Net) : (s.modNet n f).cfg = s.cfg := by unfold State.modNet; split <;> rfl
@[simp] theorem State.modNet_ctxs (s : State) (n : Nat) (f : Net → Net) : (s.modNet n f).ctxs = s.ctxs := by unfold State.modNet; split <;> rfl
@[simp] theorem State.modNet_cores (s : State) (n : Nat) (f : Net → Net) : (s.modNet n f).cores = s.cores := by unfold State.modNet; split <;> rfl
@[simp] theorem State.modNet_clusters (s : State) (n : Nat) (f : Net → Net) : (s.modNet n f).clusters = s.clusters := by unfold State.modNet; split <;> rfl
@[simp] theorem State.modNet_layers (s : State) (n : Nat) (f : Net → Net) : (s.modNet n f).layers = s.layers := by unfold State.modNet; split <;> rfl
@[simp] theorem State.modNet_accs (s : State) (n : Nat) (f : Net → Net) : (s.modNet n f).accs = s.accs := by unfold State.modNet; split <;> rfl
@[simp] theorem State.modNet_remotes (s : State) (n : Nat) (f : Net → Net) : (s.modNet n f).remotes = s.remotes := by unfold State.modNet; split <;> rfl
@[simp] theorem State.modNet_stored (s : State) (n : Nat) (f : Net → Net) : (s.modNet n f).stored = s.stored := by unfold State.modNet; split <;> rfl
@[simp] theorem State.modNet_walks (s : State) (n : Nat) (f : Net → Net) : (s.modNet n f).walks = s.walks := by unfold State.modNet; split <;> rfl
@[simp] theorem State.modNet_engFaults (s : State) (n : Nat) (f : Net → Net) : (s.modNet n f).engFaults = s.engFaults := by unfold State.modNet; split <;> rfl
@[simp] theorem State.modNet_peerLines (s : State) (n : Nat) (f : Net → Net) : (s.modNet n f).peerLines = s.peerLines := by unfold State.modNet; split <;> rfl
@[simp] theorem State.modNet_slices (s : State) (n : Nat) (f : Net → Net) : (s.modNet n f).slices = s.slices := by unfold State.modNet; split <;> rfl
@[simp] theorem State.modNet_dir (s : State) (n : Nat) (f : Net → Net) : (s.modNet n f).dir = s.dir := by unfold State.modNet; split <;> rfl
@[simp] theorem State.modNet_copies (s : State) (n : Nat) (f : Net → Net) : (s.modNet n f).copies = s.copies := by unfold State.modNet; split <;> rfl
@[simp] theorem State.modNet_launches (s : State) (n : Nat) (f : Net → Net) : (s.modNet n f).launches = s.launches := by unfold State.modNet; split <;> rfl
@[simp] theorem State.modNet_nextLaunch (s : State) (n : Nat) (f : Net → Net) : (s.modNet n f).nextLaunch = s.nextLaunch := by unfold State.modNet; split <;> rfl
@[simp] theorem State.modNet_samples (s : State) (n : Nat) (f : Net → Net) : (s.modNet n f).samples = s.samples := by unfold State.modNet; split <;> rfl
@[simp] theorem State.modNet_firings (s : State) (n : Nat) (f : Net → Net) : (s.modNet n f).firings = s.firings := by unfold State.modNet; split <;> rfl
@[simp] theorem State.modNet_tiles (s : State) (n : Nat) (f : Net → Net) : (s.modNet n f).tiles = s.tiles := by unfold State.modNet; split <;> rfl
@[simp] theorem State.modNet_commits (s : State) (n : Nat) (f : Net → Net) : (s.modNet n f).commits = s.commits := by unfold State.modNet; split <;> rfl
@[simp] theorem State.modNet_tenants (s : State) (n : Nat) (f : Net → Net) : (s.modNet n f).tenants = s.tenants := by unfold State.modNet; split <;> rfl
@[simp] theorem State.modNet_streams (s : State) (n : Nat) (f : Net → Net) : (s.modNet n f).streams = s.streams := by unfold State.modNet; split <;> rfl
@[simp] theorem State.modNet_kills (s : State) (n : Nat) (f : Net → Net) : (s.modNet n f).kills = s.kills := by unfold State.modNet; split <;> rfl
@[simp] theorem State.modNet_toPlace (s : State) (n : Nat) (f : Net → Net) : (s.modNet n f).toPlace = s.toPlace := by unfold State.modNet; split <;> rfl
@[simp] theorem State.modNet_msgs (s : State) (n : Nat) (f : Net → Net) : (s.modNet n f).msgs = s.msgs := by unfold State.modNet; split <;> rfl
@[simp] theorem State.modNet_workReqs (s : State) (n : Nat) (f : Net → Net) : (s.modNet n f).workReqs = s.workReqs := by unfold State.modNet; split <;> rfl
@[simp] theorem State.modNet_barges (s : State) (n : Nat) (f : Net → Net) : (s.modNet n f).barges = s.barges := by unfold State.modNet; split <;> rfl
@[simp] theorem State.modNet_pushes (s : State) (n : Nat) (f : Net → Net) : (s.modNet n f).pushes = s.pushes := by unfold State.modNet; split <;> rfl
@[simp] theorem State.modNet_powerReqs (s : State) (n : Nat) (f : Net → Net) : (s.modNet n f).powerReqs = s.powerReqs := by unfold State.modNet; split <;> rfl
@[simp] theorem State.modNet_fab (s : State) (n : Nat) (f : Net → Net) : (s.modNet n f).fab = s.fab := by unfold State.modNet; split <;> rfl
@[simp] theorem State.modNet_mbox (s : State) (n : Nat) (f : Net → Net) : (s.modNet n f).mbox = s.mbox := by unfold State.modNet; split <;> rfl
@[simp] theorem State.modNet_fw (s : State) (n : Nat) (f : Net → Net) : (s.modNet n f).fw = s.fw := by unfold State.modNet; split <;> rfl
@[simp] theorem State.modNet_own (s : State) (n : Nat) (f : Net → Net) : (s.modNet n f).own = s.own := by unfold State.modNet; split <;> rfl
@[simp] theorem State.modNet_host (s : State) (n : Nat) (f : Net → Net) : (s.modNet n f).host = s.host := by unfold State.modNet; split <;> rfl

/-! ### `State.modCtx` -/

@[simp] theorem State.modCtx_schedule (s : State) (k : Nat) (f : Ctx → Ctx) : (s.modCtx k f).schedule = s.schedule := by unfold State.modCtx; split <;> rfl
@[simp] theorem State.modCtx_turn (s : State) (k : Nat) (f : Ctx → Ctx) : (s.modCtx k f).turn = s.turn := by unfold State.modCtx; split <;> rfl
@[simp] theorem State.modCtx_focus (s : State) (k : Nat) (f : Ctx → Ctx) : (s.modCtx k f).focus = s.focus := by unfold State.modCtx; split <;> rfl
@[simp] theorem State.modCtx_item (s : State) (k : Nat) (f : Ctx → Ctx) : (s.modCtx k f).item = s.item := by unfold State.modCtx; split <;> rfl
@[simp] theorem State.modCtx_stamp (s : State) (k : Nat) (f : Ctx → Ctx) : (s.modCtx k f).stamp = s.stamp := by unfold State.modCtx; split <;> rfl
@[simp] theorem State.modCtx_frees (s : State) (k : Nat) (f : Ctx → Ctx) : (s.modCtx k f).frees = s.frees := by unfold State.modCtx; split <;> rfl
@[simp] theorem State.modCtx_pkg (s : State) (k : Nat) (f : Ctx → Ctx) : (s.modCtx k f).pkg = s.pkg := by unfold State.modCtx; split <;> rfl
@[simp] theorem State.modCtx_time (s : State) (k : Nat) (f : Ctx → Ctx) : (s.modCtx k f).time = s.time := by unfold State.modCtx; split <;> rfl
@[simp] theorem State.modCtx_podTime (s : State) (k : Nat) (f : Ctx → Ctx) : (s.modCtx k f).podTime = s.podTime := by unfold State.modCtx; split <;> rfl
@[simp] theorem State.modCtx_mem (s : State) (k : Nat) (f : Ctx → Ctx) : (s.modCtx k f).mem = s.mem := by unfold State.modCtx; split <;> rfl
@[simp] theorem State.modCtx_poison (s : State) (k : Nat) (f : Ctx → Ctx) : (s.modCtx k f).poison = s.poison := by unfold State.modCtx; split <;> rfl
@[simp] theorem State.modCtx_cfg (s : State) (k : Nat) (f : Ctx → Ctx) : (s.modCtx k f).cfg = s.cfg := by unfold State.modCtx; split <;> rfl
@[simp] theorem State.modCtx_cores (s : State) (k : Nat) (f : Ctx → Ctx) : (s.modCtx k f).cores = s.cores := by unfold State.modCtx; split <;> rfl
@[simp] theorem State.modCtx_clusters (s : State) (k : Nat) (f : Ctx → Ctx) : (s.modCtx k f).clusters = s.clusters := by unfold State.modCtx; split <;> rfl
@[simp] theorem State.modCtx_layers (s : State) (k : Nat) (f : Ctx → Ctx) : (s.modCtx k f).layers = s.layers := by unfold State.modCtx; split <;> rfl
@[simp] theorem State.modCtx_accs (s : State) (k : Nat) (f : Ctx → Ctx) : (s.modCtx k f).accs = s.accs := by unfold State.modCtx; split <;> rfl
@[simp] theorem State.modCtx_remotes (s : State) (k : Nat) (f : Ctx → Ctx) : (s.modCtx k f).remotes = s.remotes := by unfold State.modCtx; split <;> rfl
@[simp] theorem State.modCtx_stored (s : State) (k : Nat) (f : Ctx → Ctx) : (s.modCtx k f).stored = s.stored := by unfold State.modCtx; split <;> rfl
@[simp] theorem State.modCtx_walks (s : State) (k : Nat) (f : Ctx → Ctx) : (s.modCtx k f).walks = s.walks := by unfold State.modCtx; split <;> rfl
@[simp] theorem State.modCtx_engFaults (s : State) (k : Nat) (f : Ctx → Ctx) : (s.modCtx k f).engFaults = s.engFaults := by unfold State.modCtx; split <;> rfl
@[simp] theorem State.modCtx_peerLines (s : State) (k : Nat) (f : Ctx → Ctx) : (s.modCtx k f).peerLines = s.peerLines := by unfold State.modCtx; split <;> rfl
@[simp] theorem State.modCtx_slices (s : State) (k : Nat) (f : Ctx → Ctx) : (s.modCtx k f).slices = s.slices := by unfold State.modCtx; split <;> rfl
@[simp] theorem State.modCtx_dir (s : State) (k : Nat) (f : Ctx → Ctx) : (s.modCtx k f).dir = s.dir := by unfold State.modCtx; split <;> rfl
@[simp] theorem State.modCtx_copies (s : State) (k : Nat) (f : Ctx → Ctx) : (s.modCtx k f).copies = s.copies := by unfold State.modCtx; split <;> rfl
@[simp] theorem State.modCtx_nets (s : State) (k : Nat) (f : Ctx → Ctx) : (s.modCtx k f).nets = s.nets := by unfold State.modCtx; split <;> rfl
@[simp] theorem State.modCtx_launches (s : State) (k : Nat) (f : Ctx → Ctx) : (s.modCtx k f).launches = s.launches := by unfold State.modCtx; split <;> rfl
@[simp] theorem State.modCtx_nextLaunch (s : State) (k : Nat) (f : Ctx → Ctx) : (s.modCtx k f).nextLaunch = s.nextLaunch := by unfold State.modCtx; split <;> rfl
@[simp] theorem State.modCtx_samples (s : State) (k : Nat) (f : Ctx → Ctx) : (s.modCtx k f).samples = s.samples := by unfold State.modCtx; split <;> rfl
@[simp] theorem State.modCtx_firings (s : State) (k : Nat) (f : Ctx → Ctx) : (s.modCtx k f).firings = s.firings := by unfold State.modCtx; split <;> rfl
@[simp] theorem State.modCtx_tiles (s : State) (k : Nat) (f : Ctx → Ctx) : (s.modCtx k f).tiles = s.tiles := by unfold State.modCtx; split <;> rfl
@[simp] theorem State.modCtx_commits (s : State) (k : Nat) (f : Ctx → Ctx) : (s.modCtx k f).commits = s.commits := by unfold State.modCtx; split <;> rfl
@[simp] theorem State.modCtx_tenants (s : State) (k : Nat) (f : Ctx → Ctx) : (s.modCtx k f).tenants = s.tenants := by unfold State.modCtx; split <;> rfl
@[simp] theorem State.modCtx_streams (s : State) (k : Nat) (f : Ctx → Ctx) : (s.modCtx k f).streams = s.streams := by unfold State.modCtx; split <;> rfl
@[simp] theorem State.modCtx_kills (s : State) (k : Nat) (f : Ctx → Ctx) : (s.modCtx k f).kills = s.kills := by unfold State.modCtx; split <;> rfl
@[simp] theorem State.modCtx_toPlace (s : State) (k : Nat) (f : Ctx → Ctx) : (s.modCtx k f).toPlace = s.toPlace := by unfold State.modCtx; split <;> rfl
@[simp] theorem State.modCtx_msgs (s : State) (k : Nat) (f : Ctx → Ctx) : (s.modCtx k f).msgs = s.msgs := by unfold State.modCtx; split <;> rfl
@[simp] theorem State.modCtx_workReqs (s : State) (k : Nat) (f : Ctx → Ctx) : (s.modCtx k f).workReqs = s.workReqs := by unfold State.modCtx; split <;> rfl
@[simp] theorem State.modCtx_barges (s : State) (k : Nat) (f : Ctx → Ctx) : (s.modCtx k f).barges = s.barges := by unfold State.modCtx; split <;> rfl
@[simp] theorem State.modCtx_pushes (s : State) (k : Nat) (f : Ctx → Ctx) : (s.modCtx k f).pushes = s.pushes := by unfold State.modCtx; split <;> rfl
@[simp] theorem State.modCtx_powerReqs (s : State) (k : Nat) (f : Ctx → Ctx) : (s.modCtx k f).powerReqs = s.powerReqs := by unfold State.modCtx; split <;> rfl
@[simp] theorem State.modCtx_fab (s : State) (k : Nat) (f : Ctx → Ctx) : (s.modCtx k f).fab = s.fab := by unfold State.modCtx; split <;> rfl
@[simp] theorem State.modCtx_mbox (s : State) (k : Nat) (f : Ctx → Ctx) : (s.modCtx k f).mbox = s.mbox := by unfold State.modCtx; split <;> rfl
@[simp] theorem State.modCtx_fw (s : State) (k : Nat) (f : Ctx → Ctx) : (s.modCtx k f).fw = s.fw := by unfold State.modCtx; split <;> rfl
@[simp] theorem State.modCtx_own (s : State) (k : Nat) (f : Ctx → Ctx) : (s.modCtx k f).own = s.own := by unfold State.modCtx; split <;> rfl
@[simp] theorem State.modCtx_host (s : State) (k : Nat) (f : Ctx → Ctx) : (s.modCtx k f).host = s.host := by unfold State.modCtx; split <;> rfl

end Sys2Proof.Machine
end

