-- ==== Sys2Proof/Laws/Ops.lean ====
section
/-! SUPPORT. What the shared operations can do: reading units and contexts after writing them, how a group issues, and what each
operation leaves alone. -/

namespace Sys2Proof.Machine

/-! ### Units after a change -/

theorem State.core_modCore (s : State) (i j : Nat) (f : Core → Core) :
    (s.modCore i f).core j = if j = i then f (s.core i) else s.core j := by
  unfold State.modCore State.setCore State.core
  split
  · rename_i h; subst h; exact Map.getD_put_same _ _ _ _
  · rename_i h; exact Map.getD_put_other _ _ _ h

theorem State.cluster_modCluster (s : State) (i j : Nat) (f : Cluster → Cluster) :
    (s.modCluster i f).cluster j = if j = i then f (s.cluster i) else s.cluster j := by
  unfold State.modCluster State.cluster
  split
  · rename_i h; subst h; exact Map.getD_put_same _ _ _ _
  · rename_i h; exact Map.getD_put_other _ _ _ h

theorem State.layer_modLayer (s : State) (i j : Nat) (f : Layer → Layer) :
    (s.modLayer i f).layer j = if j = i then f (s.layer i) else s.layer j := by
  unfold State.modLayer State.layer
  split
  · rename_i h; subst h; exact Map.getD_put_same _ _ _ _
  · rename_i h; exact Map.getD_put_other _ _ _ h

theorem State.tenant_modTenant (s : State) (i j : Nat) (f : Tenant → Tenant) :
    (s.modTenant i f).tenant j = if j = i then f (s.tenant i) else s.tenant j := by
  unfold State.modTenant State.tenant
  split
  · rename_i h; subst h; exact Map.getD_put_same _ _ _ _
  · rename_i h; exact Map.getD_put_other _ _ _ h

theorem State.stream_modStream (s : State) (i j : Nat) (f : Stream → Stream) :
    (s.modStream i f).stream j = if j = i then f (s.stream i) else s.stream j := by
  unfold State.modStream State.stream
  split
  · rename_i h; subst h; exact Map.getD_put_same _ _ _ _
  · rename_i h; exact Map.getD_put_other _ _ _ h

theorem State.ctx_setCtx (s : State) (c : Ctx) (k : Nat) : (s.setCtx c).ctx k = if k = c.key then some c else s.ctx k :=
  Map.find_put s.ctxs c.key k c

@[simp] theorem State.ctx_setCtx_same (s : State) (c : Ctx) : (s.setCtx c).ctx c.key = some c := Map.find_put_same _ _ _

@[simp] theorem State.core_setCtx (s : State) (c : Ctx) (k : Nat) : (s.setCtx c).core k = s.core k := rfl

@[simp] theorem State.ctx_modCore (s : State) (i k : Nat) (f : Core → Core) : (s.modCore i f).ctx k = s.ctx k := rfl

@[simp] theorem State.ctx_modTenant (s : State) (i k : Nat) (f : Tenant → Tenant) : (s.modTenant i f).ctx k = s.ctx k := rfl

@[simp] theorem State.ctx_tickStamp (s : State) (k : Nat) : s.tickStamp.ctx k = s.ctx k := rfl

/-! ### How a group issues (R28, R36, R111) -/

/-- The issuer is the context that the focus names, and it can issue. -/
theorem State.issuer_eq_some {s : State} {c : Ctx} :
    s.issuer = some c ↔ ∃ k, s.focus = some k ∧ s.ctx k = some c ∧ c.canIssue = true := by
  unfold State.issuer
  cases s.focus with
  | none => simp
  | some k =>
    cases h : s.ctx k with
    | none => simp [h]
    | some d =>
      by_cases g : d.canIssue = true
      · simp only [h, g, if_true, Option.some.injEq, exists_eq_left']
        exact ⟨fun e => ⟨e, e ▸ g⟩, fun e => e.1⟩
      · simp only [h, g, Option.some.injEq, exists_eq_left']
        constructor
        · intro e; cases e
        · rintro ⟨rfl, e⟩; exact absurd e g

/-- Where contexts lie under their keys, the issuer lies under its own. -/
theorem State.ctx_issuer {s : State} {c : Ctx} (k : s.Keyed) (h : s.issuer = some c) : s.ctx c.key = some c := by
  obtain ⟨j, _, hc, _⟩ := State.issuer_eq_some.1 h
  have m := Map.mem_of_find hc
  have e : j = c.key := k.2 _ m
  rw [← e]; exact hc

/-- A group of `n` words whose registers are free does what its body says. -/
theorem issueWords_ready {free : Bool} {n : Nat} {w : W32} {blocked : State → Ctx → Bool} {body : State → Ctx → Eff} {s : State} {c : Ctx}
    (h : s.issuer = some c) (b : blocked s c = false) :
    issueWords free n w blocked body s = .next (settle s c n w (!free && decide (c.limit < c.used + n)) (body s c)) := by
  simp [issueWords, h, b]

/-- A group that names a register that awaits a result is held (R111). -/
theorem issueWords_held {free : Bool} {n : Nat} {w : W32} {blocked : State → Ctx → Bool} {body : State → Ctx → Eff} {s : State} {c : Ctx}
    (h : s.issuer = some c) (b : blocked s c = true) :
    issueWords free n w blocked body s = .next (s.setCtx { c with held := true }) := by
  simp [issueWords, h, b]

/-- Without an issuer nothing issues. -/
theorem issueWords_none {free : Bool} {n : Nat} {w : W32} {blocked : State → Ctx → Bool} {body : State → Ctx → Eff} {s : State}
    (h : s.issuer = none) : issueWords free n w blocked body s = .fault .noIssuer := by
  simp [issueWords, h]

/-- All that the issue of a group can answer. -/
theorem issueWords_next {free : Bool} {n : Nat} {w : W32} {blocked : State → Ctx → Bool} {body : State → Ctx → Eff} {s t : State}
    (h : issueWords free n w blocked body s = .next t) :
    ∃ c, s.issuer = some c ∧
      (blocked s c = true ∧ t = s.setCtx { c with held := true } ∨
       blocked s c = false ∧ t = settle s c n w (!free && decide (c.limit < c.used + n)) (body s c)) := by
  cases hi : s.issuer with
  | none => rw [issueWords_none hi] at h; cases h
  | some c =>
    refine ⟨c, rfl, ?_⟩
    cases hb : blocked s c with
    | true => rw [issueWords_held hi hb] at h; cases h; exact .inl ⟨rfl, rfl⟩
    | false => rw [issueWords_ready hi hb] at h; cases h; exact .inr ⟨rfl, rfl⟩

/-- An instruction that fits into its interval and names no awaited register does what its body says. -/
theorem issue_runs {s : State} {c : Ctx} {e : List Ext} {x v : List Nat} {w : W32} {body : State → Ctx → Eff} (h : Runs s c e x v) :
    issue e w (blocks x v) body s = .next (settle s c (groupWords e) w false (body s c)) := by
  have l : decide (c.limit < c.used + groupWords e) = false := by have := h.2.1; simp; omega
  simp only [issue, issueWith, issueWords_ready h.1 h.2.2, l, Bool.not_false, Bool.and_false]

/-! ### What a group leaves (R25, R36, R96) -/

section settle
variable (s u : State) (c d : Ctx) (n : Nat) (w : W32)

@[simp] theorem settle_done : settle s c n w false (.done u d) = u.retire d n (c.pc + BitVec.ofNat 57 (4 * n)) := rfl

@[simp] theorem settle_jump (t : BitVec 57) : settle s c n w false (.jump u d t) = u.retire d n t := rfl

@[simp] theorem settle_fault (code detail : Nat) (x : Option W64) :
    settle s c n w false (.fault code detail x) = s.programFault c code detail c.pc (x.getD (w.zeroExtend 64)) := rfl

@[simp] theorem settle_waits : settle s c n w false (.waits u d) = u.setCtx { d with held := true } := rfl

/-- What waits begins nothing where the yield interval refuses it (R36). -/
theorem settle_waits_late : settle s c n w true (.waits u d) = s.setCtx { c with due := some (.watchdog w) } := rfl

@[simp] theorem settle_held (l : Bool) : settle s c n w l (.held u d) = u.setCtx { d with held := true } := rfl

@[simp] theorem settle_park (l : Bool) (x : Wait) : settle s c n w l (.park u d x) = u.parkCtx (u.atYield d 4096 false) x w c.pc := rfl

@[simp] theorem settle_ended : settle s c n w false (.ended u) = u := rfl

end settle

/-! ### Local memory for a context (R297) -/

/-- The answer that a migrated context awaits is an access: nothing but those and the counter of events changes, and at home nothing at all. -/
theorem State.awaitBank_cases (s : State) (c : Ctx) :
    (c.cur = c.start ∧ s.awaitBank c = s) ∨ (c.cur ≠ c.start ∧ ∃ a : Access, a.uid = c.uid ∧ a.id = s.stamp ∧ a.dest = .none ∧
      s.awaitBank c = { s with accs := s.accs ++ [a], stamp := s.stamp + 1 }) := by
  unfold State.awaitBank
  by_cases h : c.cur = c.start
  · exact .inl ⟨h, by simp [h]⟩
  · exact .inr ⟨h, _, rfl, rfl, rfl, by simp [h]; rfl⟩

@[simp] theorem atBank_done (s : State) (c : Ctx) : atBank (.done s c) = .done (s.awaitBank c) c := rfl

/-- Nothing stands before a local access of a context without an acquire under way. -/
theorem localAccess_free {s : State} {c : Ctx} (go : Eff) (h : s.acquirePending c.uid = false) : localAccess s c go = atBank go := by
  simp [localAccess, afterAcquires, h]

/-- An acquire of the context that is under way holds every local access of it (R273). -/
theorem localAccess_held {s : State} {c : Ctx} (go : Eff) (h : s.acquirePending c.uid = true) : localAccess s c go = .held s c := by
  simp [localAccess, afterAcquires, h]

/-! ### Retirement -/

/-- Retiring changes contexts, tenants and the event counter only. -/
theorem State.retire_only (s : State) (c : Ctx) (n : Nat) (pc : BitVec 57) : s.onlyContexts (s.retire c n pc) := rfl

/-- The context behind a retired group. -/
theorem State.ctx_retire (s : State) (c : Ctx) (n : Nat) (pc : BitVec 57) :
    (s.retire c n pc).ctx c.key =
      some { c with pc := pc, rwc := c.rwc + n, used := c.used + n, held := false, place := none, woken := [], issuedAt := s.stamp } :=
  Map.find_put_same _ _ _

/-- The other contexts are as they were. -/
theorem State.ctx_retire_other (s : State) (c : Ctx) (n : Nat) (pc : BitVec 57) : s.othersKept (s.retire c n pc) c.key :=
  fun _ h => Map.find_put_other _ _ h

/-! ### Waking (R28, R133, R323) -/

/-- Waking changes contexts and the event counter only. -/
theorem State.wakeWhere_only (s : State) (p : Ctx → Bool) (f : Ctx → Ctx) :
    s.wakeWhere p f = { s with ctxs := (s.wakeWhere p f).ctxs, stamp := (s.wakeWhere p f).stamp } := by
  unfold State.wakeWhere
  generalize List.filter _ _ = l
  generalize s.stamp = n
  suffices H : ∀ (l : List Ctx) (t : State), t = { s with ctxs := t.ctxs, stamp := t.stamp } →
      let r := (l.foldl (fun s c => s.setCtx ((f c).wake n)) t).tickStamp
      r = { s with ctxs := r.ctxs, stamp := r.stamp } from H l s rfl
  intro l
  induction l with
  | nil => intro t h; rw [h]; rfl
  | cons c l ih =>
    intro t h
    apply ih
    rw [h]; rfl

@[simp] theorem State.wakeWhere_mem (s : State) (p : Ctx → Bool) (f : Ctx → Ctx) : (s.wakeWhere p f).mem = s.mem := by
  rw [State.wakeWhere_only]

@[simp] theorem State.wakeWhere_cores (s : State) (p : Ctx → Bool) (f : Ctx → Ctx) : (s.wakeWhere p f).cores = s.cores := by
  rw [State.wakeWhere_only]

@[simp] theorem State.wakeWhere_core (s : State) (p : Ctx → Bool) (f : Ctx → Ctx) (i : Nat) : (s.wakeWhere p f).core i = s.core i := by
  rw [State.wakeWhere_only]; rfl

/-- `t` is `s` but for contexts, the event counter and one core. -/
def State.onlyCore (s t : State) (i : Nat) : Prop :=
  t = { s with ctxs := t.ctxs, cores := t.cores, stamp := t.stamp } ∧ ∀ j, j ≠ i → t.core j = s.core j

/-- A changed core and the contexts that it wakes. -/
theorem State.modCore_wakeWhere_only (s : State) (i : Nat) (g : Core → Core) (p : Ctx → Bool) (f : Ctx → Ctx) :
    s.onlyCore ((s.modCore i g).wakeWhere p f) i := by
  constructor
  · rw [State.wakeWhere_only]; rfl
  · intro j h
    rw [State.wakeWhere_core, State.core_modCore, if_neg h]

/-- Changing granules changes one core and the contexts that wait for them (R133, R214). -/
theorem State.setGranules_only (s : State) (i : Nat) (g : List Nat) (full : Bool) : s.onlyCore (s.setGranules i g full) i := by
  unfold State.setGranules
  split
  · exact ⟨rfl, fun _ _ => rfl⟩
  · exact State.modCore_wakeWhere_only _ _ _ _ _

/-- A barrier step changes one core and the contexts that wait for the word (R216, R222). -/
theorem State.barWrite_only (s : State) (i a w : Nat) : s.onlyCore (s.barWrite i a w) i := State.modCore_wakeWhere_only _ _ _ _ _

/-- A returned lease changes one core and contexts (R39). -/
theorem State.returnLease_only (s : State) (i b : Nat) : s.onlyCore (s.returnLease i b) i := by
  unfold State.returnLease
  split
  · exact State.modCore_wakeWhere_only _ _ _ _ _
  · exact ⟨rfl, fun _ _ => rfl⟩

theorem State.onlyCore.trans {s t u : State} {i : Nat} (h : s.onlyCore t i) (k : t.onlyCore u i) : s.onlyCore u i := by
  refine ⟨?_, fun j hj => (k.2 j hj).trans (h.2 j hj)⟩
  have e := k.1
  rw [h.1] at e
  exact e

/-- Completing a context's obligations changes its start core and contexts (R219). -/
theorem State.breakObligations_only (s : State) (c : Ctx) : s.onlyCore (s.breakObligations c) c.start := by
  unfold State.breakObligations
  generalize c.obls.toList = l
  suffices H : ∀ (l : List Obligation) (t : State), s.onlyCore t c.start → s.onlyCore (l.foldl _ t) c.start from H l s ⟨rfl, fun _ _ => rfl⟩
  intro l
  induction l with
  | nil => exact fun t h => h
  | cons o l ih =>
    intro t h
    refine ih _ ?_
    cases o with
    | none => exact h
    | some a =>
      dsimp only
      split
      · exact h.trans (State.barWrite_only _ _ _ _)
      · exact h

/-! ### Contexts under their keys -/

theorem State.Keyed.setCtx {s : State} (h : s.Keyed) (c : Ctx) : (s.setCtx c).Keyed := by
  refine ⟨Map.rising_put _ _ h.1, fun p hp => ?_⟩
  rcases Map.mem_put hp with rfl | hp
  · rfl
  · exact h.2 p hp

/-- Only the contexts matter. -/
theorem State.Keyed.of_ctxs {s t : State} (h : s.Keyed) (e : t.ctxs = s.ctxs) : t.Keyed := by
  unfold State.Keyed; rw [e]; exact h

theorem State.Keyed.retire {s : State} (h : s.Keyed) (c : Ctx) (n : Nat) (pc : BitVec 57) : (s.retire c n pc).Keyed :=
  (h.setCtx { c with pc := pc, rwc := c.rwc + n, used := c.used + n, held := false, place := none, woken := [], issuedAt := s.stamp }).of_ctxs rfl

theorem State.Keyed.del {s t : State} (h : s.Keyed) (k : Nat) (e : t.ctxs = s.ctxs.del k) : t.Keyed := by
  unfold State.Keyed; rw [e]
  exact ⟨Map.rising_filter _ h.1, fun p hp => h.2 p (List.mem_filter.1 hp).1⟩

theorem State.Keyed.wakeWhere {s : State} (h : s.Keyed) (p : Ctx → Bool) (f : Ctx → Ctx) : (s.wakeWhere p f).Keyed := by
  unfold State.wakeWhere
  generalize List.filter _ _ = l
  generalize s.stamp = n
  induction l generalizing s with
  | nil => exact h.of_ctxs rfl
  | cons c l ih => exact ih (h.setCtx ((f c).wake n))

/-! ### Memory in its canonical form -/

theorem State.MemOk.core {s : State} (h : s.MemOk) (i : Nat) : (s.core i).lm.wf = true := by
  unfold State.core Map.getD
  cases e : s.cores.find i with
  | none => rfl
  | some k => exact h.2 _ (Map.mem_of_find e)

theorem State.MemOk.setCore {s : State} (h : s.MemOk) (i : Nat) {k : Core} (hk : k.lm.wf = true) : (s.setCore i k).MemOk := by
  refine ⟨h.1, fun p hp => ?_⟩
  rcases Map.mem_put hp with rfl | hp
  · exact hk
  · exact h.2 p hp

theorem State.MemOk.modCore {s : State} (h : s.MemOk) (i : Nat) {f : Core → Core} (hf : ∀ k : Core, k.lm.wf = true → (f k).lm.wf = true) :
    (s.modCore i f).MemOk := h.setCore i (hf _ (h.core i))

/-- Only memory and the cores matter. -/
theorem State.MemOk.of_eq {s t : State} (h : s.MemOk) (m : t.mem = s.mem) (c : t.cores = s.cores) : t.MemOk := by
  unfold State.MemOk; rw [m, c]; exact h

theorem State.MemOk.wakeWhere {s : State} (h : s.MemOk) (p : Ctx → Bool) (f : Ctx → Ctx) : (s.wakeWhere p f).MemOk :=
  h.of_eq (State.wakeWhere_mem s p f) (State.wakeWhere_cores s p f)

/-- A local write keeps the form. -/
theorem Core.wf_write {k : Core} (a : Nat) (l : List Byte) (h : k.lm.wf = true) : (k.write a l).lm.wf = true := Mem.wf_writeBytes a l h

/-- Clearing a local range keeps the form. -/
theorem Core.wf_clear {k : Core} (a n : Nat) (h : k.lm.wf = true) : (k.clear a n).lm.wf = true := Mem.wf_filter _ h

theorem State.MemOk.setGranules {s : State} (h : s.MemOk) (i : Nat) (g : List Nat) (full : Bool) : (s.setGranules i g full).MemOk := by
  unfold State.setGranules
  split
  · exact h
  · refine State.MemOk.wakeWhere (h.modCore i ?_) _ _
    exact fun _ hk => hk

/-- An engine's local write keeps the form. -/
theorem State.MemOk.deliver {s : State} (h : s.MemOk) (i a : Nat) (l : List Byte) : (s.deliver i a l).MemOk :=
  (h.modCore i fun _ hk => Core.wf_write a l hk).setGranules _ _ _

/-- A barrier step keeps the form. -/
theorem State.MemOk.barWrite {s : State} (h : s.MemOk) (i a w : Nat) : (s.barWrite i a w).MemOk :=
  (h.modCore i fun _ hk => Mem.wf_writeN a 8 w hk).wakeWhere _ _

/-- A returned lease keeps the form. -/
theorem State.MemOk.returnLease {s : State} (h : s.MemOk) (i b : Nat) : (s.returnLease i b).MemOk := by
  unfold State.returnLease
  split
  · refine State.MemOk.wakeWhere (h.modCore i ?_) _ _
    exact fun _ hk => Core.wf_clear _ _ hk
  · exact h

/-- Completing obligations keeps the form. -/
theorem State.MemOk.breakObligations {s : State} (h : s.MemOk) (c : Ctx) : (s.breakObligations c).MemOk := by
  unfold State.breakObligations
  generalize c.obls.toList = l
  induction l generalizing s with
  | nil => exact h
  | cons o l ih =>
    refine ih ?_
    cases o with
    | none => exact h
    | some a =>
      dsimp only
      split
      · exact h.barWrite _ _ _
      · exact h

/-- Dropping requests for tokens keeps the form. -/
theorem State.MemOk.dropTokenAsks {s : State} (h : s.MemOk) (l g : Nat) : (s.dropTokenAsks l g).MemOk := by
  unfold State.dropTokenAsks
  split
  · exact h
  · exact h.of_eq rfl rfl

/-- The end of a context keeps the form. -/
theorem State.MemOk.endCtx {s : State} (h : s.MemOk) (c : Ctx) (how : Ending) : (s.endCtx c how).MemOk := by
  obtain ⟨perf, keep, stop⟩ := how
  have h₁ := h.breakObligations c
  have h₂ : State.MemOk { s.breakObligations c with ctxs := (s.breakObligations c).ctxs.del c.key, kills := NatSet.del (s.breakObligations c).kills c.uid } :=
    h₁.of_eq rfl rfl
  have h₃ := h₂.modCore c.cur (f := fun k => { k with current := if k.current == some c.key then none else k.current }) fun _ hk => hk
  have h₄ := h₃.modCore c.start (f := fun k =>
    { k with
      recs := k.recs.filter fun r => r.uid != c.uid
      mq := if perf then k.mq else k.mq.filter fun m => m.uid != c.uid }) fun _ hk => hk
  -- what comes after touches neither memory nor cores, but for the requests for tokens and the lease
  have asks : ∀ (b : Bool) (t : State), t.MemOk → (if b then t else t.dropTokenAsks c.launch (clusterOf c.start)).MemOk := by
    intro b t ht; cases b
    · exact ht.dropTokenAsks _ _
    · exact ht
  have lease : ∀ (b : Bool) (t : State), t.MemOk → (if b then t.returnLease c.start c.uid else t).MemOk := by
    intro b t ht; cases b
    · exact ht
    · exact ht.returnLease _ _
  have pick : ∀ (b : Bool) (t u : State), t.MemOk → u.MemOk → (if b then t else u).MemOk := by
    intro b t u ht hu; cases b
    · exact hu
    · exact ht
  refine lease _ _ (asks _ _ (pick _ _ _ (State.MemOk.of_eq (t := State.modCluster _ _ _) ?_ rfl rfl) ?_)) <;>
    refine pick _ _ _ ?_ (State.MemOk.of_eq (s := _) ?_ rfl rfl) <;>
    exact pick _ _ _ (h₄.of_eq rfl rfl) (h₄.of_eq rfl rfl)

theorem State.MemOk.retire {s : State} (h : s.MemOk) (c : Ctx) (n : Nat) (pc : BitVec 57) : (s.retire c n pc).MemOk := h.of_eq rfl rfl

/-! ### Having a line at hand (R278, R283) -/

@[simp] theorem Ready.andThen_go (s : State) (f : State → Ready) : (Ready.go s).andThen f = f s := rfl
@[simp] theorem Ready.andThen_act (s : State) (f : State → Ready) : (Ready.act s).andThen f = .act s := rfl
@[simp] theorem Ready.andThen_wait (f : State → Ready) : Ready.wait.andThen f = .wait := rfl

/-- A line of this package is always at hand. -/
theorem State.lineHere_own {s : State} {pa : Nat} (since : Nat) (h : s.isPeer pa = false) : s.lineHere pa since = true := by
  simp [State.lineHere, h]

/-- What readying a line can do: nothing, since it is at hand; wait for an answer that is due; or ask the owner for it. -/
theorem State.readyLine_cases (s : State) (pa since tenant : Nat) :
    (s.lineHere pa since = true ∧ s.readyLine pa since tenant = .go s) ∨
    (s.lineHere pa since = false ∧ (s.lineAwaited (pa / 128) = true ∨ s.writeBackUnderWay (some (pa / 128)) = true) ∧
      s.readyLine pa since tenant = .wait) ∨
    (s.lineHere pa since = false ∧ s.lineAwaited (pa / 128) = false ∧ s.writeBackUnderWay (some (pa / 128)) = false ∧
      s.readyLine pa since tenant = .act (s.requestLine (pa / 128) tenant)) := by
  unfold State.readyLine
  cases s.lineHere pa since <;> cases s.lineAwaited (pa / 128) <;> cases s.writeBackUnderWay (some (pa / 128)) <;> simp

/-- Lines that are all at hand need nothing. -/
theorem State.readyLines_go (s : State) (since tenant : Nat) (l : List Nat) (h : ∀ pa ∈ l, s.lineHere pa since = true) :
    State.readyLines since tenant l s = .go s := by
  induction l with
  | nil => rfl
  | cons pa l ih =>
    simp [State.readyLines, State.readyLine, h pa (by simp), ih fun x hx => h x (by simp [hx])]

end Sys2Proof.Machine
end

