-- ==== Sys2Proof/Laws/PerInstr.lean ====
section
/-! SUPPORT. What holds of every instruction as syntax, constructor by constructor: the length of its encoding (R75, R91). -/

namespace Sys2Proof.Laws.Encoding
open Sys2Proof

/-- An instruction with a word is encoded as its `ext` words and one word; an event of the device has no words. -/
def Statement (i : Instr) : Prop := (encode i).length = if i.isWord then i.exts.length + 1 else 0

theorem of_word {i : Instr} {w : W32} (h : encodeTarget i = some w) (k : i.isWord = true) : Statement i := by
  simp [Statement, encode, h, k]

theorem of_event {i : Instr} (h : encodeTarget i = none) (k : i.isWord = false) : Statement i := by
  simp [Statement, encode, h, k]

theorem add (e : List Ext) (d : BitVec 5) (a : BitVec 5) (b : BitVec 5) : Statement (.add e d a b) := of_word rfl rfl
theorem sub (e : List Ext) (d : BitVec 5) (a : BitVec 5) (b : BitVec 5) : Statement (.sub e d a b) := of_word rfl rfl
theorem mul (e : List Ext) (d : BitVec 5) (a : BitVec 5) (b : BitVec 5) : Statement (.mul e d a b) := of_word rfl rfl
theorem mulh (e : List Ext) (d : BitVec 5) (a : BitVec 5) (b : BitVec 5) : Statement (.mulh e d a b) := of_word rfl rfl
theorem mulhz (e : List Ext) (d : BitVec 5) (a : BitVec 5) (b : BitVec 5) : Statement (.mulhz e d a b) := of_word rfl rfl
theorem div (e : List Ext) (d : BitVec 5) (a : BitVec 5) (b : BitVec 5) : Statement (.div e d a b) := of_word rfl rfl
theorem divz (e : List Ext) (d : BitVec 5) (a : BitVec 5) (b : BitVec 5) : Statement (.divz e d a b) := of_word rfl rfl
theorem rem (e : List Ext) (d : BitVec 5) (a : BitVec 5) (b : BitVec 5) : Statement (.rem e d a b) := of_word rfl rfl
theorem remz (e : List Ext) (d : BitVec 5) (a : BitVec 5) (b : BitVec 5) : Statement (.remz e d a b) := of_word rfl rfl
theorem and (e : List Ext) (d : BitVec 5) (a : BitVec 5) (b : BitVec 5) : Statement (.and e d a b) := of_word rfl rfl
theorem or (e : List Ext) (d : BitVec 5) (a : BitVec 5) (b : BitVec 5) : Statement (.or e d a b) := of_word rfl rfl
theorem xor (e : List Ext) (d : BitVec 5) (a : BitVec 5) (b : BitVec 5) : Statement (.xor e d a b) := of_word rfl rfl
theorem shl (e : List Ext) (d : BitVec 5) (a : BitVec 5) (b : BitVec 5) : Statement (.shl e d a b) := of_word rfl rfl
theorem shr (e : List Ext) (d : BitVec 5) (a : BitVec 5) (b : BitVec 5) : Statement (.shr e d a b) := of_word rfl rfl
theorem sra (e : List Ext) (d : BitVec 5) (a : BitVec 5) (b : BitVec 5) : Statement (.sra e d a b) := of_word rfl rfl
theorem min (e : List Ext) (d : BitVec 5) (a : BitVec 5) (b : BitVec 5) : Statement (.min e d a b) := of_word rfl rfl
theorem max (e : List Ext) (d : BitVec 5) (a : BitVec 5) (b : BitVec 5) : Statement (.max e d a b) := of_word rfl rfl
theorem minz (e : List Ext) (d : BitVec 5) (a : BitVec 5) (b : BitVec 5) : Statement (.minz e d a b) := of_word rfl rfl
theorem maxz (e : List Ext) (d : BitVec 5) (a : BitVec 5) (b : BitVec 5) : Statement (.maxz e d a b) := of_word rfl rfl
theorem seq (e : List Ext) (d : BitVec 5) (a : BitVec 5) (b : BitVec 5) : Statement (.seq e d a b) := of_word rfl rfl
theorem sne (e : List Ext) (d : BitVec 5) (a : BitVec 5) (b : BitVec 5) : Statement (.sne e d a b) := of_word rfl rfl
theorem slt (e : List Ext) (d : BitVec 5) (a : BitVec 5) (b : BitVec 5) : Statement (.slt e d a b) := of_word rfl rfl
theorem sltz (e : List Ext) (d : BitVec 5) (a : BitVec 5) (b : BitVec 5) : Statement (.sltz e d a b) := of_word rfl rfl
theorem clz (e : List Ext) (d : BitVec 5) (a : BitVec 5) : Statement (.clz e d a) := of_word rfl rfl
theorem ctz (e : List Ext) (d : BitVec 5) (a : BitVec 5) : Statement (.ctz e d a) := of_word rfl rfl
theorem popc (e : List Ext) (d : BitVec 5) (a : BitVec 5) : Statement (.popc e d a) := of_word rfl rfl
theorem addi (e : List Ext) (d : BitVec 5) (a : BitVec 5) (i : BitVec 15) : Statement (.addi e d a i) := of_word rfl rfl
theorem andi (e : List Ext) (d : BitVec 5) (a : BitVec 5) (i : BitVec 15) : Statement (.andi e d a i) := of_word rfl rfl
theorem ori (e : List Ext) (d : BitVec 5) (a : BitVec 5) (i : BitVec 15) : Statement (.ori e d a i) := of_word rfl rfl
theorem xori (e : List Ext) (d : BitVec 5) (a : BitVec 5) (i : BitVec 15) : Statement (.xori e d a i) := of_word rfl rfl
theorem slti (e : List Ext) (d : BitVec 5) (a : BitVec 5) (i : BitVec 15) : Statement (.slti e d a i) := of_word rfl rfl
theorem shli (e : List Ext) (d : BitVec 5) (a : BitVec 5) (n : BitVec 6) : Statement (.shli e d a n) := of_word rfl rfl
theorem shri (e : List Ext) (d : BitVec 5) (a : BitVec 5) (n : BitVec 6) : Statement (.shri e d a n) := of_word rfl rfl
theorem srai (e : List Ext) (d : BitVec 5) (a : BitVec 5) (n : BitVec 6) : Statement (.srai e d a n) := of_word rfl rfl
theorem lih (e : List Ext) (d : BitVec 5) (i : BitVec 20) : Statement (.lih e d i) := of_word rfl rfl
theorem addpc (e : List Ext) (d : BitVec 5) (i : BitVec 20) : Statement (.addpc e d i) := of_word rfl rfl
theorem sel (e : List Ext) (d : BitVec 5) (a : BitVec 5) (b : BitVec 5) (c : BitVec 5) : Statement (.sel e d a b c) := of_word rfl rfl
theorem fadd (e : List Ext) (d : BitVec 5) (a : BitVec 5) (b : BitVec 5) (r : BitVec 2) : Statement (.fadd e d a b r) := of_word rfl rfl
theorem fsub (e : List Ext) (d : BitVec 5) (a : BitVec 5) (b : BitVec 5) (r : BitVec 2) : Statement (.fsub e d a b r) := of_word rfl rfl
theorem fmul (e : List Ext) (d : BitVec 5) (a : BitVec 5) (b : BitVec 5) (r : BitVec 2) : Statement (.fmul e d a b r) := of_word rfl rfl
theorem fmin (e : List Ext) (d : BitVec 5) (a : BitVec 5) (b : BitVec 5) : Statement (.fmin e d a b) := of_word rfl rfl
theorem fmax (e : List Ext) (d : BitVec 5) (a : BitVec 5) (b : BitVec 5) : Statement (.fmax e d a b) := of_word rfl rfl
theorem fcmp (e : List Ext) (d : BitVec 5) (a : BitVec 5) (b : BitVec 5) (c : BitVec 3) : Statement (.fcmp e d a b c) := of_word rfl rfl
theorem fcvt (e : List Ext) (d : BitVec 5) (a : BitVec 5) (s : BitVec 4) (t : BitVec 4) (r : BitVec 2) : Statement (.fcvt e d a s t r) := of_word rfl rfl
theorem ffma (e : List Ext) (d : BitVec 5) (a : BitVec 5) (b : BitVec 5) (c : BitVec 5) (r : BitVec 2) : Statement (.ffma e d a b c r) := of_word rfl rfl
theorem beq (e : List Ext) (x : BitVec 5) (y : BitVec 5) (o : BitVec 15) : Statement (.beq e x y o) := of_word rfl rfl
theorem bne (e : List Ext) (x : BitVec 5) (y : BitVec 5) (o : BitVec 15) : Statement (.bne e x y o) := of_word rfl rfl
theorem blt (e : List Ext) (x : BitVec 5) (y : BitVec 5) (o : BitVec 15) : Statement (.blt e x y o) := of_word rfl rfl
theorem bge (e : List Ext) (x : BitVec 5) (y : BitVec 5) (o : BitVec 15) : Statement (.bge e x y o) := of_word rfl rfl
theorem bltz (e : List Ext) (x : BitVec 5) (y : BitVec 5) (o : BitVec 15) : Statement (.bltz e x y o) := of_word rfl rfl
theorem bgez (e : List Ext) (x : BitVec 5) (y : BitVec 5) (o : BitVec 15) : Statement (.bgez e x y o) := of_word rfl rfl
theorem jmp (e : List Ext) (o : BitVec 25) : Statement (.jmp e o) := of_word rfl rfl
theorem jal (e : List Ext) (o : BitVec 25) : Statement (.jal e o) := of_word rfl rfl
theorem jr (e : List Ext) (a : BitVec 5) : Statement (.jr e a) := of_word rfl rfl
theorem jalr (e : List Ext) (d : BitVec 5) (a : BitVec 5) : Statement (.jalr e d a) := of_word rfl rfl
theorem csrr (e : List Ext) (d : BitVec 5) (c : BitVec 12) : Statement (.csrr e d c) := of_word rfl rfl
theorem csrw (e : List Ext) (a : BitVec 5) (c : BitVec 12) : Statement (.csrw e a c) := of_word rfl rfl
theorem csrs (e : List Ext) (a : BitVec 5) (c : BitVec 12) : Statement (.csrs e a c) := of_word rfl rfl
theorem csrc (e : List Ext) (a : BitVec 5) (c : BitVec 12) : Statement (.csrc e a c) := of_word rfl rfl
theorem ldl (e : List Ext) (d : BitVec 5) (a : BitVec 5) (s : BitVec 2) (m : BitVec 2) (o : BitVec 11) : Statement (.ldl e d a s m o) := of_word rfl rfl
theorem stl (e : List Ext) (d : BitVec 5) (a : BitVec 5) (s : BitVec 2) (m : BitVec 2) (o : BitVec 11) : Statement (.stl e d a s m o) := of_word rfl rfl
theorem ldg (e : List Ext) (d : BitVec 5) (a : BitVec 5) (s : BitVec 2) (m : BitVec 2) (o : BitVec 11) : Statement (.ldg e d a s m o) := of_word rfl rfl
theorem stg (e : List Ext) (d : BitVec 5) (a : BitVec 5) (s : BitVec 2) (o : BitVec 11) : Statement (.stg e d a s o) := of_word rfl rfl
theorem ldx (e : List Ext) (d : BitVec 5) (a : BitVec 5) (b : BitVec 5) (m : BitVec 2) (s : BitVec 2) : Statement (.ldx e d a b m s) := of_word rfl rfl
theorem stx (e : List Ext) (d : BitVec 5) (a : BitVec 5) (b : BitVec 5) (s : BitVec 2) : Statement (.stx e d a b s) := of_word rfl rfl
theorem vadd (e : List Ext) (d : BitVec 5) (a : BitVec 5) (b : BitVec 5) (k : BitVec 3) (r : BitVec 2) : Statement (.vadd e d a b k r) := of_word rfl rfl
theorem vsub (e : List Ext) (d : BitVec 5) (a : BitVec 5) (b : BitVec 5) (k : BitVec 3) (r : BitVec 2) : Statement (.vsub e d a b k r) := of_word rfl rfl
theorem vmul (e : List Ext) (d : BitVec 5) (a : BitVec 5) (b : BitVec 5) (k : BitVec 3) (r : BitVec 2) : Statement (.vmul e d a b k r) := of_word rfl rfl
theorem vmin (e : List Ext) (d : BitVec 5) (a : BitVec 5) (b : BitVec 5) (k : BitVec 3) : Statement (.vmin e d a b k) := of_word rfl rfl
theorem vmax (e : List Ext) (d : BitVec 5) (a : BitVec 5) (b : BitVec 5) (k : BitVec 3) : Statement (.vmax e d a b k) := of_word rfl rfl
theorem vfma (e : List Ext) (d : BitVec 5) (a : BitVec 5) (b : BitVec 5) (c : BitVec 5) (k : BitVec 3) (r : BitVec 2) : Statement (.vfma e d a b c k r) := of_word rfl rfl
theorem vfms (e : List Ext) (d : BitVec 5) (a : BitVec 5) (b : BitVec 5) (c : BitVec 5) (k : BitVec 3) (r : BitVec 2) : Statement (.vfms e d a b c k r) := of_word rfl rfl
theorem vfnma (e : List Ext) (d : BitVec 5) (a : BitVec 5) (b : BitVec 5) (c : BitVec 5) (k : BitVec 3) (r : BitVec 2) : Statement (.vfnma e d a b c k r) := of_word rfl rfl
theorem vabs (e : List Ext) (d : BitVec 5) (a : BitVec 5) (k : BitVec 3) : Statement (.vabs e d a k) := of_word rfl rfl
theorem vneg (e : List Ext) (d : BitVec 5) (a : BitVec 5) (k : BitVec 3) : Statement (.vneg e d a k) := of_word rfl rfl
theorem vexp2 (e : List Ext) (d : BitVec 5) (a : BitVec 5) (k : BitVec 3) (r : BitVec 2) : Statement (.vexp2 e d a k r) := of_word rfl rfl
theorem vlog2 (e : List Ext) (d : BitVec 5) (a : BitVec 5) (k : BitVec 3) (r : BitVec 2) : Statement (.vlog2 e d a k r) := of_word rfl rfl
theorem vrcp (e : List Ext) (d : BitVec 5) (a : BitVec 5) (k : BitVec 3) (r : BitVec 2) : Statement (.vrcp e d a k r) := of_word rfl rfl
theorem vrsqrt (e : List Ext) (d : BitVec 5) (a : BitVec 5) (k : BitVec 3) (r : BitVec 2) : Statement (.vrsqrt e d a k r) := of_word rfl rfl
theorem vand (e : List Ext) (d : BitVec 5) (a : BitVec 5) (b : BitVec 5) (k : BitVec 3) : Statement (.vand e d a b k) := of_word rfl rfl
theorem vor (e : List Ext) (d : BitVec 5) (a : BitVec 5) (b : BitVec 5) (k : BitVec 3) : Statement (.vor e d a b k) := of_word rfl rfl
theorem vxor (e : List Ext) (d : BitVec 5) (a : BitVec 5) (b : BitVec 5) (k : BitVec 3) : Statement (.vxor e d a b k) := of_word rfl rfl
theorem vshl (e : List Ext) (d : BitVec 5) (a : BitVec 5) (b : BitVec 5) (k : BitVec 3) : Statement (.vshl e d a b k) := of_word rfl rfl
theorem vshr (e : List Ext) (d : BitVec 5) (a : BitVec 5) (b : BitVec 5) (k : BitVec 3) : Statement (.vshr e d a b k) := of_word rfl rfl
theorem vsra (e : List Ext) (d : BitVec 5) (a : BitVec 5) (b : BitVec 5) (k : BitVec 3) : Statement (.vsra e d a b k) := of_word rfl rfl
theorem vcmp (e : List Ext) (d : BitVec 5) (a : BitVec 5) (b : BitVec 5) (c : BitVec 3) (k : BitVec 3) : Statement (.vcmp e d a b c k) := of_word rfl rfl
theorem vsel (e : List Ext) (d : BitVec 5) (a : BitVec 5) (b : BitVec 5) (k : BitVec 3) : Statement (.vsel e d a b k) := of_word rfl rfl
theorem vcvt (e : List Ext) (d : BitVec 5) (a : BitVec 5) (t : BitVec 4) (k : BitVec 3) (r : BitVec 2) : Statement (.vcvt e d a t k r) := of_word rfl rfl
theorem vtag (e : List Ext) (d : BitVec 5) (a : BitVec 5) (t : BitVec 4) : Statement (.vtag e d a t) := of_word rfl rfl
theorem vmov (e : List Ext) (d : BitVec 5) (a : BitVec 5) (k : BitVec 3) : Statement (.vmov e d a k) := of_word rfl rfl
theorem vbcast (e : List Ext) (d : BitVec 5) (a : BitVec 5) (t : BitVec 4) (k : BitVec 3) : Statement (.vbcast e d a t k) := of_word rfl rfl
theorem vext (e : List Ext) (d : BitVec 5) (a : BitVec 5) (b : BitVec 5) : Statement (.vext e d a b) := of_word rfl rfl
theorem vins (e : List Ext) (d : BitVec 5) (a : BitVec 5) (b : BitVec 5) : Statement (.vins e d a b) := of_word rfl rfl
theorem vperm (e : List Ext) (d : BitVec 5) (a : BitVec 5) (b : BitVec 5) (k : BitVec 3) : Statement (.vperm e d a b k) := of_word rfl rfl
theorem vredsum (e : List Ext) (d : BitVec 5) (a : BitVec 5) (k : BitVec 3) (r : BitVec 2) : Statement (.vredsum e d a k r) := of_word rfl rfl
theorem vredmax (e : List Ext) (d : BitVec 5) (a : BitVec 5) (k : BitVec 3) : Statement (.vredmax e d a k) := of_word rfl rfl
theorem vredmin (e : List Ext) (d : BitVec 5) (a : BitVec 5) (k : BitVec 3) : Statement (.vredmin e d a k) := of_word rfl rfl
theorem vdotBf16 (e : List Ext) (d : BitVec 5) (a : BitVec 5) (b : BitVec 5) (c : BitVec 5) (k : BitVec 3) (r : BitVec 2) : Statement (.vdotBf16 e d a b c k r) := of_word rfl rfl
theorem vdotTd8 (e : List Ext) (d : BitVec 5) (a : BitVec 5) (b : BitVec 5) (c : BitVec 5) (k : BitVec 3) (r : BitVec 2) : Statement (.vdotTd8 e d a b c k r) := of_word rfl rfl
theorem kset (e : List Ext) (d : BitVec 5) (a : BitVec 5) : Statement (.kset e d a) := of_word rfl rfl
theorem kand (e : List Ext) (d : BitVec 5) (a : BitVec 5) (b : BitVec 5) : Statement (.kand e d a b) := of_word rfl rfl
theorem kor (e : List Ext) (d : BitVec 5) (a : BitVec 5) (b : BitVec 5) : Statement (.kor e d a b) := of_word rfl rfl
theorem knot (e : List Ext) (d : BitVec 5) (a : BitVec 5) : Statement (.knot e d a) := of_word rfl rfl
theorem kpop (e : List Ext) (d : BitVec 5) (a : BitVec 5) : Statement (.kpop e d a) := of_word rfl rfl
theorem sbindPop (e : List Ext) (d : BitVec 5) (a : BitVec 5) : Statement (.sbindPop e d a) := of_word rfl rfl
theorem sbindPush (e : List Ext) (d : BitVec 5) (a : BitVec 5) : Statement (.sbindPush e d a) := of_word rfl rfl
theorem sfree (e : List Ext) (d : BitVec 5) : Statement (.sfree e d) := of_word rfl rfl
theorem ckaccMod (e : List Ext) (d : BitVec 5) (a : BitVec 5) (k : BitVec 3) : Statement (.ckaccMod e d a k) := of_word rfl rfl
theorem ckaccFsum (e : List Ext) (d : BitVec 5) (a : BitVec 5) (k : BitVec 3) : Statement (.ckaccFsum e d a k) := of_word rfl rfl
theorem ckclr (e : List Ext) (d : BitVec 5) : Statement (.ckclr e d) := of_word rfl rfl
theorem ckrdLo (e : List Ext) (d : BitVec 5) (a : BitVec 5) : Statement (.ckrdLo e d a) := of_word rfl rfl
theorem ckrdHi (e : List Ext) (d : BitVec 5) (a : BitVec 5) : Statement (.ckrdHi e d a) := of_word rfl rfl
theorem check (e : List Ext) (d : BitVec 5) (a : BitVec 5) (b : BitVec 5) : Statement (.check e d a b) := of_word rfl rfl
theorem vld (e : List Ext) (d : BitVec 5) (a : BitVec 5) (t : BitVec 4) (m : BitVec 2) (o : BitVec 9) : Statement (.vld e d a t m o) := of_word rfl rfl
theorem vst (e : List Ext) (d : BitVec 5) (a : BitVec 5) (m : BitVec 2) (o : BitVec 9) : Statement (.vst e d a m o) := of_word rfl rfl
theorem vldg (e : List Ext) (d : BitVec 5) (a : BitVec 5) (t : BitVec 4) (o : BitVec 9) : Statement (.vldg e d a t o) := of_word rfl rfl
theorem vstg (e : List Ext) (d : BitVec 5) (a : BitVec 5) (o : BitVec 9) : Statement (.vstg e d a o) := of_word rfl rfl
theorem vgath (e : List Ext) (d : BitVec 5) (a : BitVec 5) (b : BitVec 5) (s : BitVec 1) (t : BitVec 4) (k : BitVec 3) : Statement (.vgath e d a b s t k) := of_word rfl rfl
theorem vscat (e : List Ext) (d : BitVec 5) (a : BitVec 5) (b : BitVec 5) (s : BitVec 1) (k : BitVec 3) : Statement (.vscat e d a b s k) := of_word rfl rfl
theorem mma (e : List Ext) (m : BitVec 4) (a : BitVec 3) (b : BitVec 3) (v : BitVec 5) (c : BitVec 1) : Statement (.mma e m a b v c) := of_word rfl rfl
theorem odset (e : List Ext) (d : BitVec 5) (a : BitVec 5) (b : BitVec 5) : Statement (.odset e d a b) := of_word rfl rfl
theorem mwin (e : List Ext) (d : BitVec 5) (a : BitVec 5) : Statement (.mwin e d a) := of_word rfl rfl
theorem mzero (e : List Ext) (d : BitVec 5) : Statement (.mzero e d) := of_word rfl rfl
theorem mld (e : List Ext) (d : BitVec 5) (a : BitVec 5) : Statement (.mld e d a) := of_word rfl rfl
theorem mst (e : List Ext) (d : BitVec 5) (a : BitVec 5) : Statement (.mst e d a) := of_word rfl rfl
theorem mstBf16 (e : List Ext) (d : BitVec 5) (a : BitVec 5) : Statement (.mstBf16 e d a) := of_word rfl rfl
theorem mstTd8 (e : List Ext) (d : BitVec 5) (a : BitVec 5) : Statement (.mstTd8 e d a) := of_word rfl rfl
theorem mchk (e : List Ext) (d : BitVec 5) (a : BitVec 5) (b : BitVec 5) : Statement (.mchk e d a b) := of_word rfl rfl
theorem mres (e : List Ext) (d : BitVec 5) (a : BitVec 5) : Statement (.mres e d a) := of_word rfl rfl
theorem mscale (e : List Ext) (d : BitVec 5) (a : BitVec 5) (b : BitVec 5) : Statement (.mscale e d a b) := of_word rfl rfl
theorem amoAdd (e : List Ext) (d : BitVec 5) (a : BitVec 5) (b : BitVec 5) (s : BitVec 2) : Statement (.amoAdd e d a b s) := of_word rfl rfl
theorem amoAnd (e : List Ext) (d : BitVec 5) (a : BitVec 5) (b : BitVec 5) (s : BitVec 2) : Statement (.amoAnd e d a b s) := of_word rfl rfl
theorem amoOr (e : List Ext) (d : BitVec 5) (a : BitVec 5) (b : BitVec 5) (s : BitVec 2) : Statement (.amoOr e d a b s) := of_word rfl rfl
theorem amoXor (e : List Ext) (d : BitVec 5) (a : BitVec 5) (b : BitVec 5) (s : BitVec 2) : Statement (.amoXor e d a b s) := of_word rfl rfl
theorem amoMin (e : List Ext) (d : BitVec 5) (a : BitVec 5) (b : BitVec 5) (s : BitVec 2) : Statement (.amoMin e d a b s) := of_word rfl rfl
theorem amoMax (e : List Ext) (d : BitVec 5) (a : BitVec 5) (b : BitVec 5) (s : BitVec 2) : Statement (.amoMax e d a b s) := of_word rfl rfl
theorem amoMinz (e : List Ext) (d : BitVec 5) (a : BitVec 5) (b : BitVec 5) (s : BitVec 2) : Statement (.amoMinz e d a b s) := of_word rfl rfl
theorem amoMaxz (e : List Ext) (d : BitVec 5) (a : BitVec 5) (b : BitVec 5) (s : BitVec 2) : Statement (.amoMaxz e d a b s) := of_word rfl rfl
theorem amoSwap (e : List Ext) (d : BitVec 5) (a : BitVec 5) (b : BitVec 5) (s : BitVec 2) : Statement (.amoSwap e d a b s) := of_word rfl rfl
theorem amoFadd (e : List Ext) (d : BitVec 5) (a : BitVec 5) (b : BitVec 5) : Statement (.amoFadd e d a b) := of_word rfl rfl
theorem redAdd (e : List Ext) (a : BitVec 5) (b : BitVec 5) (s : BitVec 2) : Statement (.redAdd e a b s) := of_word rfl rfl
theorem redAnd (e : List Ext) (a : BitVec 5) (b : BitVec 5) (s : BitVec 2) : Statement (.redAnd e a b s) := of_word rfl rfl
theorem redOr (e : List Ext) (a : BitVec 5) (b : BitVec 5) (s : BitVec 2) : Statement (.redOr e a b s) := of_word rfl rfl
theorem redXor (e : List Ext) (a : BitVec 5) (b : BitVec 5) (s : BitVec 2) : Statement (.redXor e a b s) := of_word rfl rfl
theorem redMin (e : List Ext) (a : BitVec 5) (b : BitVec 5) (s : BitVec 2) : Statement (.redMin e a b s) := of_word rfl rfl
theorem redMax (e : List Ext) (a : BitVec 5) (b : BitVec 5) (s : BitVec 2) : Statement (.redMax e a b s) := of_word rfl rfl
theorem redMinz (e : List Ext) (a : BitVec 5) (b : BitVec 5) (s : BitVec 2) : Statement (.redMinz e a b s) := of_word rfl rfl
theorem redMaxz (e : List Ext) (a : BitVec 5) (b : BitVec 5) (s : BitVec 2) : Statement (.redMaxz e a b s) := of_word rfl rfl
theorem redFadd (e : List Ext) (a : BitVec 5) (b : BitVec 5) : Statement (.redFadd e a b) := of_word rfl rfl
theorem amoc (e : List Ext) (d : BitVec 5) (a : BitVec 5) (b : BitVec 5) (c : BitVec 5) (s : BitVec 2) : Statement (.amoc e d a b c s) := of_word rfl rfl
theorem fence (e : List Ext) (d : BitVec 5) (p : BitVec 1) (s : BitVec 3) : Statement (.fence e d p s) := of_word rfl rfl
theorem qfence (e : List Ext) (q : BitVec 5) (s : BitVec 3) : Statement (.qfence e q s) := of_word rfl rfl
theorem acq (e : List Ext) (a : BitVec 5) (s : BitVec 3) : Statement (.acq e a s) := of_word rfl rfl
theorem rel (e : List Ext) (a : BitVec 5) (s : BitVec 3) : Statement (.rel e a s) := of_word rfl rfl
theorem rbind (e : List Ext) (d : BitVec 5) (a : BitVec 5) (b : BitVec 5) : Statement (.rbind e d a b) := of_word rfl rfl
theorem icinv (e : List Ext) (s : BitVec 3) : Statement (.icinv e s) := of_word rfl rfl
theorem feset (e : List Ext) (a : BitVec 5) : Statement (.feset e a) := of_word rfl rfl
theorem feclr (e : List Ext) (a : BitVec 5) : Statement (.feclr e a) := of_word rfl rfl
theorem fewait (e : List Ext) (a : BitVec 5) : Statement (.fewait e a) := of_word rfl rfl
theorem binit (e : List Ext) (a : BitVec 5) (b : BitVec 5) : Statement (.binit e a b) := of_word rfl rfl
theorem benrol (e : List Ext) (a : BitVec 5) (n : BitVec 2) : Statement (.benrol e a n) := of_word rfl rfl
theorem barrive (e : List Ext) (a : BitVec 5) (b : BitVec 5) (s : BitVec 3) : Statement (.barrive e a b s) := of_word rfl rfl
theorem bexpect (e : List Ext) (a : BitVec 5) (b : BitVec 5) : Statement (.bexpect e a b) := of_word rfl rfl
theorem bwait (e : List Ext) (d : BitVec 5) (a : BitVec 5) (s : BitVec 3) : Statement (.bwait e d a s) := of_word rfl rfl
theorem btest (e : List Ext) (d : BitVec 5) (a : BitVec 5) (s : BitVec 3) : Statement (.btest e d a s) := of_word rfl rfl
theorem cpy (e : List Ext) (d : BitVec 5) (a : BitVec 5) (b : BitVec 5) : Statement (.cpy e d a b) := of_word rfl rfl
theorem cpyx (e : List Ext) (d : BitVec 5) (a : BitVec 5) (b : BitVec 5) : Statement (.cpyx e d a b) := of_word rfl rfl
theorem cpwait (e : List Ext) (d : BitVec 5) : Statement (.cpwait e d) := of_word rfl rfl
theorem nalloc (e : List Ext) (d : BitVec 5) (a : BitVec 5) : Statement (.nalloc e d a) := of_word rfl rfl
theorem nfree (e : List Ext) (a : BitVec 5) : Statement (.nfree e a) := of_word rfl rfl
theorem nld (e : List Ext) (d : BitVec 5) (a : BitVec 5) (n : BitVec 3) : Statement (.nld e d a n) := of_word rfl rfl
theorem nst (e : List Ext) (d : BitVec 5) (a : BitVec 5) (n : BitVec 3) : Statement (.nst e d a n) := of_word rfl rfl
theorem plink (e : List Ext) (d : BitVec 5) (a : BitVec 5) (b : BitVec 5) : Statement (.plink e d a b) := of_word rfl rfl
theorem pget (e : List Ext) (d : BitVec 5) (a : BitVec 5) : Statement (.pget e d a) := of_word rfl rfl
theorem ppush (e : List Ext) (a : BitVec 5) (b : BitVec 5) : Statement (.ppush e a b) := of_word rfl rfl
theorem tend (e : List Ext) : Statement (.tend e) := of_word rfl rfl
theorem commit (e : List Ext) (d : BitVec 5) (a : BitVec 5) (b : BitVec 5) : Statement (.commit e d a b) := of_word rfl rfl
theorem hspawn (e : List Ext) (d : BitVec 5) (a : BitVec 5) (b : BitVec 5) : Statement (.hspawn e d a b) := of_word rfl rfl
theorem chsend (e : List Ext) (a : BitVec 5) (b : BitVec 5) : Statement (.chsend e a b) := of_word rfl rfl
theorem rtset (e : List Ext) (d : BitVec 5) (a : BitVec 5) (b : BitVec 5) : Statement (.rtset e d a b) := of_word rfl rfl
theorem yield (e : List Ext) (n : BitVec 12) : Statement (.yield e n) := of_word rfl rfl
theorem workq (e : List Ext) (a : BitVec 5) (b : BitVec 5) : Statement (.workq e a b) := of_word rfl rfl
theorem tver (e : List Ext) (d : BitVec 5) (a : BitVec 5) : Statement (.tver e d a) := of_word rfl rfl
theorem tnew (e : List Ext) (d : BitVec 5) (a : BitVec 5) : Statement (.tnew e d a) := of_word rfl rfl
theorem trap (e : List Ext) (a : BitVec 5) (n : BitVec 5) : Statement (.trap e a n) := of_word rfl rfl
theorem eret (e : List Ext) : Statement (.eret e) := of_word rfl rfl
theorem tstamp (e : List Ext) (d : BitVec 5) : Statement (.tstamp e d) := of_word rfl rfl
theorem dscr (e : List Ext) (d : BitVec 5) (a : BitVec 5) : Statement (.dscr e d a) := of_word rfl rfl
theorem pwreq (e : List Ext) (d : BitVec 5) (a : BitVec 5) : Statement (.pwreq e d a) := of_word rfl rfl
theorem pwrel (e : List Ext) (a : BitVec 5) : Statement (.pwrel e a) := of_word rfl rfl
theorem stripRefill (k : Nat) (slot : Nat) : Statement (.stripRefill k slot) := of_event rfl rfl
theorem stripPushWrite (k : Nat) (slot : Nat) : Statement (.stripPushWrite k slot) := of_event rfl rfl
theorem blockClear (g : Nat) (k : Nat) : Statement (.blockClear g k) := of_event rfl rfl
theorem powerTokenReturn (lid : Nat) (g : Nat) : Statement (.powerTokenReturn lid g) := of_event rfl rfl
theorem capChange (layer : Nat) (cap : Nat) : Statement (.capChange layer cap) := of_event rfl rfl
theorem cqdoor (w : Writer) (q : Nat) : Statement (.cqdoor w q) := of_event rfl rfl
theorem cqEnable (w : Writer) (q : Nat) (v : BitVec 64) : Statement (.cqEnable w q v) := of_event rfl rfl
theorem cqDisable (w : Writer) (q : Nat) (v : BitVec 64) : Statement (.cqDisable w q v) := of_event rfl rfl
theorem xlinv (w : Writer) (v : BitVec 64) : Statement (.xlinv w v) := of_event rfl rfl
theorem mxpart (w : Writer) (g : Nat) (v : BitVec 64) : Statement (.mxpart w g v) := of_event rfl rfl
theorem preempt (w : Writer) (g : Nat) : Statement (.preempt w g) := of_event rfl rfl
theorem resume (w : Writer) (g : Nat) : Statement (.resume w g) := of_event rfl rfl
theorem lmpool (w : Writer) (cid : Nat) (v : BitVec 64) : Statement (.lmpool w cid v) := of_event rfl rfl
theorem injArm (v : BitVec 64) : Statement (.injArm v) := of_event rfl rfl
theorem twbankArm (w : Writer) (v : BitVec 64) : Statement (.twbankArm w v) := of_event rfl rfl
theorem retire (w : Writer) : Statement (.retire w) := of_event rfl rfl
theorem relayBankWrite (w : Writer) (bank : Bool) (n : Nat) (v : BitVec 64) : Statement (.relayBankWrite w bank n v) := of_event rfl rfl
theorem ownclaim (m : Master) : Statement (.ownclaim m) := of_event rfl rfl
theorem owngive (m : Master) (target : BitVec 2) : Statement (.owngive m target) := of_event rfl rfl
theorem owntake (m : Master) : Statement (.owntake m) := of_event rfl rfl
theorem registerWrite (w : Writer) (off : Nat) (v : BitVec 64) : Statement (.registerWrite w off v) := of_event rfl rfl
theorem info (m : Master) : Statement (.info m) := of_event rfl rfl
theorem ownq (m : Master) : Statement (.ownq m) := of_event rfl rfl
theorem attest (m : Master) : Statement (.attest m) := of_event rfl rfl
theorem fwstage (m : Master) : Statement (.fwstage m) := of_event rfl rfl
theorem fwact (m : Master) : Statement (.fwact m) := of_event rfl rfl
theorem unitrst (m : Master) : Statement (.unitrst m) := of_event rfl rfl
theorem testst (m : Master) : Statement (.testst m) := of_event rfl rfl
theorem logrd (m : Master) : Statement (.logrd m) := of_event rfl rfl
theorem abort (m : Master) : Statement (.abort m) := of_event rfl rfl
theorem msg (p : Packet) : Statement (.msg p) := of_event rfl rfl
theorem lreq (p : Packet) : Statement (.lreq p) := of_event rfl rfl
theorem ldata (p : Packet) : Statement (.ldata p) := of_event rfl rfl
theorem lwb (p : Packet) : Statement (.lwb p) := of_event rfl rfl
theorem inv (p : Packet) : Statement (.inv p) := of_event rfl rfl
theorem recallPkt (p : Packet) : Statement (.recallPkt p) := of_event rfl rfl
theorem wreq (p : Packet) : Statement (.wreq p) := of_event rfl rfl
theorem areq (p : Packet) : Statement (.areq p) := of_event rfl rfl
theorem arsp (p : Packet) : Statement (.arsp p) := of_event rfl rfl
theorem cpydata (p : Packet) : Statement (.cpydata p) := of_event rfl rfl
theorem cpydone (p : Packet) : Statement (.cpydone p) := of_event rfl rfl
theorem qrep (p : Packet) : Statement (.qrep p) := of_event rfl rfl
theorem ctrl (p : Packet) : Statement (.ctrl p) := of_event rfl rfl
theorem ack (p : Packet) : Statement (.ack p) := of_event rfl rfl
theorem portTraining (p : Nat) (ver : Nat) : Statement (.portTraining p ver) := of_event rfl rfl
theorem hostRead (bar : Nat) (off : Nat) (n : Nat) : Statement (.hostRead bar off n) := of_event rfl rfl
theorem hostWrite (bar : Nat) (off : Nat) (data : List Byte) : Statement (.hostWrite bar off data) := of_event rfl rfl
theorem unassignedMajorOpcode (e : List Ext) (w : BitVec 32) : Statement (.unassignedMajorOpcode e w) := of_word rfl rfl
theorem relayReceive (p : Packet) : Statement (.relayReceive p) := of_event rfl rfl
theorem failurePacket (p : Packet) : Statement (.failurePacket p) := of_event rfl rfl
theorem sidebandHeartbeat (present : Bool) : Statement (.sidebandHeartbeat present) := of_event rfl rfl
theorem watchdog : Statement (.watchdog) := of_event rfl rfl
theorem waittime : Statement (.waittime) := of_event rfl rfl
theorem kill : Statement (.kill) := of_event rfl rfl
theorem currentContextSelect : Statement (.currentContextSelect) := of_event rfl rfl
theorem migration : Statement (.migration) := of_event rfl rfl
theorem startTask : Statement (.startTask) := of_event rfl rfl
theorem fill : Statement (.fill) := of_event rfl rfl
theorem resultWrite : Statement (.resultWrite) := of_event rfl rfl
theorem remoteAccess : Statement (.remoteAccess) := of_event rfl rfl
theorem remoteTargetCheck : Statement (.remoteTargetCheck) := of_event rfl rfl
theorem atomicPerform : Statement (.atomicPerform) := of_event rfl rfl
theorem reductionPerform : Statement (.reductionPerform) := of_event rfl rfl
theorem translationWalk : Statement (.translationWalk) := of_event rfl rfl
theorem copyDelivery : Statement (.copyDelivery) := of_event rfl rfl
theorem completionRecord : Statement (.completionRecord) := of_event rfl rfl
theorem nextCore : Statement (.nextCore) := of_event rfl rfl
theorem kStep : Statement (.kStep) := of_event rfl rfl
theorem matrixCommandPerform : Statement (.matrixCommandPerform) := of_event rfl rfl
theorem powerTokenAdmit : Statement (.powerTokenAdmit) := of_event rfl rfl
theorem nodeRefill : Statement (.nodeRefill) := of_event rfl rfl
theorem ringToBag : Statement (.ringToBag) := of_event rfl rfl
theorem layerReport : Statement (.layerReport) := of_event rfl rfl
theorem bargeArrival : Statement (.bargeArrival) := of_event rfl rfl
theorem taskPlacement : Statement (.taskPlacement) := of_event rfl rfl
theorem workqTake : Statement (.workqTake) := of_event rfl rfl
theorem workqSet : Statement (.workqSet) := of_event rfl rfl
theorem workqRead : Statement (.workqRead) := of_event rfl rfl
theorem messageArrival : Statement (.messageArrival) := of_event rfl rfl
theorem quiescenceSweep : Statement (.quiescenceSweep) := of_event rfl rfl
theorem launchPlacement : Statement (.launchPlacement) := of_event rfl rfl
theorem hedgeSample : Statement (.hedgeSample) := of_event rfl rfl
theorem weirCommit : Statement (.weirCommit) := of_event rfl rfl
theorem pullComplete : Statement (.pullComplete) := of_event rfl rfl
theorem pullFailed : Statement (.pullFailed) := of_event rfl rfl
theorem coreFailure : Statement (.coreFailure) := of_event rfl rfl
theorem matrixClusterFailure : Statement (.matrixClusterFailure) := of_event rfl rfl
theorem layerFailure : Statement (.layerFailure) := of_event rfl rfl
theorem portFailure : Statement (.portFailure) := of_event rfl rfl
theorem firmwareCoreFailure : Statement (.firmwareCoreFailure) := of_event rfl rfl
theorem scanTest : Statement (.scanTest) := of_event rfl rfl
theorem scanPass : Statement (.scanPass) := of_event rfl rfl
theorem scanFail : Statement (.scanFail) := of_event rfl rfl
theorem leaseRenewal : Statement (.leaseRenewal) := of_event rfl rfl
theorem leaderStop : Statement (.leaderStop) := of_event rfl rfl
theorem leaderTakeover : Statement (.leaderTakeover) := of_event rfl rfl
theorem launch : Statement (.launch) := of_event rfl rfl
theorem netSet : Statement (.netSet) := of_event rfl rfl
theorem netDrop : Statement (.netDrop) := of_event rfl rfl
theorem streamPoll : Statement (.streamPoll) := of_event rfl rfl
theorem xlinvComplete : Statement (.xlinvComplete) := of_event rfl rfl
theorem bankSwitch : Statement (.bankSwitch) := of_event rfl rfl
theorem handoverTimeout : Statement (.handoverTimeout) := of_event rfl rfl
theorem ownerLoss : Statement (.ownerLoss) := of_event rfl rfl
theorem icoalHoldoff : Statement (.icoalHoldoff) := of_event rfl rfl
theorem msixUnmask : Statement (.msixUnmask) := of_event rfl rfl
theorem attemptTimeout : Statement (.attemptTimeout) := of_event rfl rfl
theorem replyTimeout : Statement (.replyTimeout) := of_event rfl rfl
theorem relayForward : Statement (.relayForward) := of_event rfl rfl
theorem routeRetry : Statement (.routeRetry) := of_event rfl rfl
theorem scrub : Statement (.scrub) := of_event rfl rfl
theorem strongCodeSwitch : Statement (.strongCodeSwitch) := of_event rfl rfl
theorem droopAlarm : Statement (.droopAlarm) := of_event rfl rfl
theorem stretchEnd : Statement (.stretchEnd) := of_event rfl rfl
theorem halvedIssueEnd : Statement (.halvedIssueEnd) := of_event rfl rfl
theorem coreGate : Statement (.coreGate) := of_event rfl rfl
theorem coreWake : Statement (.coreWake) := of_event rfl rfl
theorem coreReset : Statement (.coreReset) := of_event rfl rfl
theorem packageReset : Statement (.packageReset) := of_event rfl rfl
theorem relayRefusal : Statement (.relayRefusal) := of_event rfl rfl
theorem hostLinkDown : Statement (.hostLinkDown) := of_event rfl rfl
theorem hostLinkTraining : Statement (.hostLinkTraining) := of_event rfl rfl

end Sys2Proof.Laws.Encoding
end

