-- ==== Sys2Proof/Tests/Slice0.lean ====
section
/-! SUPPORT. Small tests: words of every family, the refusals of `WellFormed`, single steps, and for every statement a state and operands
that meet its hypotheses. -/

namespace Sys2Proof.Tests
open Sys2Proof Sys2Proof.Machine

set_option Elab.async false

/-! ## Small states -/

/-- A light task on core 0 at 0x1000. -/
def light : Ctx := Ctx.fresh 1 0 0 0 1 0 0 (fetchStart 0 0x1000)

/-- The same at supervisor level. -/
def super : Ctx := { light with sup := true }

/-- A heavy task on core 0 that holds the lease 0x50000..0x50FFF. -/
def heavyTask : Ctx := Ctx.fresh 2 0 1 0 1 0 0x50000 { fetchStart 0 0x1000 with heavy := true, lease := 0x1000 }

/-- A context with some scalar registers set. -/
def regs (c : Ctx) (l : List (Nat × Nat)) : Ctx := l.foldl (fun c p => c.setS p.1 (BitVec.ofNat 64 p.2)) c

/-- A context with some vector registers set: bits and tag. -/
def vecs (c : Ctx) (l : List (Nat × Nat × Nat)) : Ctx := l.foldl (fun c p => c.setV p.1 ⟨BitVec.ofNat 2048 p.2.1, p.2.2⟩) c

/-- The state after reset in which a context issues, with a launch 0 that runs. -/
def at0 (c : Ctx) : State :=
  { State.reset with ctxs := [(c.key, c)], focus := some c.key, stamp := 10, launches := [(0, fetchLaunch)], nextLaunch := 1 }

/-- The next state of an answer. -/
def after (o : Out) : Option State :=
  match o with
  | .next s => some s
  | _ => none

/-- The context under key 0 after an answer. -/
def ctx0 (o : Out) : Option Ctx := (after o).bind fun s => s.ctx 0

/-! ## Words (R76 to R95): each written out from its encoding in the manual -/

/-- One word of every instruction of the family, its fields in the order of the encoding table. -/
theorem words_integer : ∀ p ∈ ([
    (0b0000001_00110_00011_00111_0000000000#32, .add [] 6 3 7),
    (0b0000001_00011_00001_00110_0000000001#32, .sub [] 3 1 6),
    (0b0000001_01000_00111_00011_0000000010#32, .mul [] 8 7 3),
    (0b0000001_00010_00011_01000_0000000011#32, .mulh [] 2 3 8),
    (0b0000001_01000_00110_00100_0000000100#32, .mulhz [] 8 6 4),
    (0b0000001_01000_00010_00110_0000000101#32, .div [] 8 2 6),
    (0b0000001_00111_00101_00001_0000000110#32, .divz [] 7 5 1),
    (0b0000001_00101_00100_00010_0000000111#32, .rem [] 5 4 2),
    (0b0000001_00010_00101_00111_0000001000#32, .remz [] 2 5 7),
    (0b0000001_00010_00110_00011_0000001001#32, .and [] 2 6 3),
    (0b0000001_00011_00101_00100_0000001010#32, .or [] 3 5 4),
    (0b0000001_00011_00100_00001_0000001011#32, .xor [] 3 4 1),
    (0b0000001_00001_01000_00010_0000001100#32, .shl [] 1 8 2),
    (0b0000001_00101_00011_00110_0000001101#32, .shr [] 5 3 6),
    (0b0000001_01000_00100_00110_0000001110#32, .sra [] 8 4 6),
    (0b0000001_00011_00100_00001_0000001111#32, .min [] 3 4 1),
    (0b0000001_00100_00011_01000_0000010000#32, .max [] 4 3 8),
    (0b0000001_00011_00110_00010_0000010001#32, .minz [] 3 6 2),
    (0b0000001_00011_00101_00100_0000010010#32, .maxz [] 3 5 4),
    (0b0000001_00101_00011_00110_0000010011#32, .seq [] 5 3 6),
    (0b0000001_00110_01000_00001_0000010100#32, .sne [] 6 8 1),
    (0b0000001_00111_00110_00001_0000010101#32, .slt [] 7 6 1),
    (0b0000001_01000_00011_00101_0000010110#32, .sltz [] 8 3 5),
    (0b0000001_00111_00110_000000000011000#32, .clz [] 7 6),
    (0b0000001_00101_00001_000000000011001#32, .ctz [] 5 1),
    (0b0000001_00111_00100_000000000011010#32, .popc [] 7 4),
    (0b0000010_00011_00101_000000000000010#32, .addi [] 3 5 2),
    (0b0000011_00101_00010_000000000000001#32, .andi [] 5 2 1),
    (0b0000100_00101_00111_000000000001000#32, .ori [] 5 7 8),
    (0b0000101_00101_00001_000000000000011#32, .xori [] 5 1 3),
    (0b0000110_00011_01000_000000000000010#32, .slti [] 3 8 2),
    (0b0000111_00010_00111_000000000_000101#32, .shli [] 2 7 5),
    (0b0000111_00011_00010_000000001_000001#32, .shri [] 3 2 1),
    (0b0000111_00001_00010_000000010_000101#32, .srai [] 1 2 5),
    (0b0001000_00101_00000000000000001000#32, .lih [] 5 8),
    (0b0001001_00101_00000000000000001000#32, .addpc [] 5 8),
    (0b0001010_00001_00011_00101_00110_00000#32, .sel [] 1 3 5 6)] : List (W32 × Instr)),
    decodeWords [p.1] = .ok (p.2, []) := by decide +kernel

/-- One word of every instruction of the family, its fields in the order of the encoding table. -/
theorem words_float_and_control : ∀ p ∈ ([
    (0b0001011_00101_00010_00011_00000000_11#32, .fadd [] 5 2 3 3),
    (0b0001011_00100_00011_01000_00000001_10#32, .fsub [] 4 3 8 2),
    (0b0001011_00100_00110_00001_00000010_01#32, .fmul [] 4 6 1 1),
    (0b0001011_00011_00110_00100_0000001100#32, .fmin [] 3 6 4),
    (0b0001011_00001_00111_00011_0000010000#32, .fmax [] 1 7 3),
    (0b0001011_01000_00001_00100_00001_101_00#32, .fcmp [] 8 1 4 5),
    (0b0001011_00110_00100_0_0010_0001_0001_11#32, .fcvt [] 6 4 2 1 3),
    (0b0001100_00011_01000_00110_00111_000_01#32, .ffma [] 3 8 6 7 1),
    (0b0010000_00101_00111_000000000000011#32, .beq [] 5 7 3),
    (0b0010001_00110_00101_000000000000011#32, .bne [] 6 5 3),
    (0b0010010_00010_00110_000000000000011#32, .blt [] 2 6 3),
    (0b0010011_00001_00011_000000000000111#32, .bge [] 1 3 7),
    (0b0010100_00111_00101_000000000000011#32, .bltz [] 7 5 3),
    (0b0010101_00001_00100_000000000000101#32, .bgez [] 1 4 5),
    (0b0010110_0000000000000000000000010#32, .jmp [] 2),
    (0b0010111_0000000000000000000000110#32, .jal [] 6),
    (0b001100000000_00001_000000000000000#32, .jr [] 1),
    (0b0011000_00110_00010_000000000000001#32, .jalr [] 6 2),
    (0b0011001_00110_00000000_000000000011#32, .csrr [] 6 3),
    (0b001100100000_00110_001_000000000100#32, .csrw [] 6 4),
    (0b001100100000_00110_010_000000000001#32, .csrs [] 6 1),
    (0b001100100000_00011_011_000000000010#32, .csrc [] 3 2)] : List (W32 × Instr)),
    decodeWords [p.1] = .ok (p.2, []) := by decide +kernel

/-- One word of every instruction of the family, its fields in the order of the encoding table. -/
theorem words_scalar_memory : ∀ p ∈ ([
    (0b0011010_00010_00101_10_01_00000000100#32, .ldl [] 2 5 2 1 4),
    (0b0011011_01000_00110_11_01_00000000101#32, .stl [] 8 6 3 1 5),
    (0b0011100_00010_11101_10_01_01111110110#32, .ldg [] 2 29 2 1 1014),
    (0b0011101_00001_00110_11_00_00000000101#32, .stg [] 1 6 3 5),
    (0b0011110_11101_01111_00010_00000_00_11_0#32, .ldx [] 29 15 2 0 3),
    (0b0011110_00100_01000_00110_0000000_01_1#32, .stx [] 4 8 6 1)] : List (W32 × Instr)),
    decodeWords [p.1] = .ok (p.2, []) := by decide +kernel

/-- One word of every instruction of the family, its fields in the order of the encoding table. -/
theorem words_vector : ∀ p ∈ ([
    (0b0100000_00110_00001_00010_00000_111_10#32, .vadd [] 6 1 2 7 2),
    (0b0100001_00010_00100_01000_00000_101_11#32, .vsub [] 2 4 8 5 3),
    (0b0100010_00111_00110_00010_00000_110_11#32, .vmul [] 7 6 2 6 3),
    (0b0100011_01000_00101_00111_00000_111_00#32, .vmin [] 8 5 7 7),
    (0b0100100_00100_00111_00011_00000_111_00#32, .vmax [] 4 7 3 7),
    (0b0100101_00101_00010_00100_00001_101_01#32, .vfma [] 5 2 4 1 5 1),
    (0b0100110_00110_00011_00111_00001_010_10#32, .vfms [] 6 3 7 1 2 2),
    (0b0100111_00010_01000_00111_00011_111_11#32, .vfnma [] 2 8 7 3 7 3),
    (0b0101000_00111_01000_0000000000_101_00#32, .vabs [] 7 8 5),
    (0b0101000_00111_00100_0000000001_100_00#32, .vneg [] 7 4 4),
    (0b0101000_00101_00001_0000000010_001_11#32, .vexp2 [] 5 1 1 3),
    (0b0101000_00001_01000_0000000011_010_10#32, .vlog2 [] 1 8 2 2),
    (0b0101000_00010_01000_0000000100_110_01#32, .vrcp [] 2 8 6 1),
    (0b0101000_00110_00001_0000000101_101_10#32, .vrsqrt [] 6 1 5 2),
    (0b0101001_00100_00110_00101_00000_010_00#32, .vand [] 4 6 5 2),
    (0b0101001_00110_01000_00101_00000_100_01#32, .vor [] 6 8 5 4),
    (0b0101001_01000_00001_00101_00000_111_10#32, .vxor [] 8 1 5 7),
    (0b0101010_00001_00110_00011_00000_110_00#32, .vshl [] 1 6 3 6),
    (0b0101010_00110_00001_00100_00000_010_01#32, .vshr [] 6 1 4 2),
    (0b0101010_00001_00101_00110_00000_111_10#32, .vsra [] 1 5 6 7),
    (0b0101011_00111_00100_01000_00_011_011_00#32, .vcmp [] 7 4 8 3 3),
    (0b0101100_00100_00011_00110_00000_111_00#32, .vsel [] 4 3 6 7),
    (0b0101101_00111_00010_000000_1000_111_10#32, .vcvt [] 7 2 8 7 2),
    (0b0101110_00011_00101_000000_0001_00000#32, .vtag [] 3 5 1),
    (0b0101111_00001_00100_0000000000_110_00#32, .vmov [] 1 4 6),
    (0b0101111_00111_00011_0_0001_00001_100_00#32, .vbcast [] 7 3 1 4),
    (0b0101111_00001_00101_00010_0001000000#32, .vext [] 1 5 2),
    (0b0101111_00100_00001_00011_0001100000#32, .vins [] 4 1 3),
    (0b0101111_00010_00011_00110_00100_101_00#32, .vperm [] 2 3 6 5),
    (0b0110000_00011_00110_0000000000_110_11#32, .vredsum [] 3 6 6 3),
    (0b0110000_00001_01000_0000000001_100_00#32, .vredmax [] 1 8 4),
    (0b0110000_00001_00110_0000000010_011_00#32, .vredmin [] 1 6 3),
    (0b0110001_01000_00111_00101_00010_110_01#32, .vdotBf16 [] 8 7 5 2 6 1),
    (0b0110010_01000_00111_00001_00100_010_11#32, .vdotTd8 [] 8 7 1 4 2 3)] : List (W32 × Instr)),
    decodeWords [p.1] = .ok (p.2, []) := by decide +kernel

/-- One word of every instruction of the family, its fields in the order of the encoding table. -/
theorem words_mask_stream_invariant : ∀ p ∈ ([
    (0b0110100_00110_00001_000000000000000#32, .kset [] 6 1),
    (0b0110100_00100_00011_00010_0000000001#32, .kand [] 4 3 2),
    (0b0110100_00110_00011_00001_0000000010#32, .kor [] 6 3 1),
    (0b0110100_00000_00001_000000000000011#32, .knot [] 0 1),
    (0b0110100_00111_00011_000000000000100#32, .kpop [] 7 3),
    (0b0110101_00110_00111_000000000000000#32, .sbindPop [] 6 7),
    (0b0110101_00011_00001_000000000000001#32, .sbindPush [] 3 1),
    (0b0110101_00101_00000000000000000010#32, .sfree [] 5),
    (0b0110110_00010_11000_0000000000_110_00#32, .ckaccMod [] 2 24 6),
    (0b0110110_00011_00110_0000000001_111_00#32, .ckaccFsum [] 3 6 7),
    (0b0110110_00010_00000000000001000000#32, .ckclr [] 2),
    (0b0110110_01000_00011_000000001100000#32, .ckrdLo [] 8 3),
    (0b0110110_00101_00011_000000010000000#32, .ckrdHi [] 5 3),
    (0b0110110_00010_00001_00011_0010100000#32, .check [] 2 1 3)] : List (W32 × Instr)),
    decodeWords [p.1] = .ok (p.2, []) := by decide +kernel

/-- One word of every instruction of the family, its fields in the order of the encoding table. -/
theorem words_vector_memory : ∀ p ∈ ([
    (0b0111000_00110_00011_0001_10_000000100#32, .vld [] 6 3 1 2 4),
    (0b0111001_00001_00110_0000_01_000000100#32, .vst [] 1 6 1 4),
    (0b0111010_00100_01000_0110_00_000000001#32, .vldg [] 4 8 6 1),
    (0b0111011_00100_00110_000000_000000101#32, .vstg [] 4 6 5),
    (0b0111100_00010_00101_00111_1_0110_101_00#32, .vgath [] 2 5 7 1 6 5),
    (0b0111100_00100_00011_01000_0_0000_110_01#32, .vscat [] 4 3 8 0 6)] : List (W32 × Instr)),
    decodeWords [p.1] = .ok (p.2, []) := by decide +kernel

/-- One word of every instruction of the family, its fields in the order of the encoding table. -/
theorem words_matrix : ∀ p ∈ ([
    (0b1000000_0101_010_100_00001_000000000_0#32, .mma [] 5 2 4 1 0),
    (0b1000001_00110_00111_00101_0000000000#32, .odset [] 6 7 5),
    (0b1000001_00111_00110_000000000000001#32, .mwin [] 7 6),
    (0b1000001_00011_00000000000000000010#32, .mzero [] 3),
    (0b1000001_00011_01000_000000000000011#32, .mld [] 3 8),
    (0b1000001_00110_00101_000000000000100#32, .mst [] 6 5),
    (0b1000001_00111_00010_000000000000101#32, .mstBf16 [] 7 2),
    (0b1000001_00100_00111_000000000000110#32, .mstTd8 [] 4 7),
    (0b1000001_00110_00011_00101_0000000111#32, .mchk [] 6 3 5),
    (0b1000001_00100_00011_000000000001000#32, .mres [] 4 3),
    (0b1000001_00110_00001_00101_0000001001#32, .mscale [] 6 1 5)] : List (W32 × Instr)),
    decodeWords [p.1] = .ok (p.2, []) := by decide +kernel

/-- One word of every instruction of the family, its fields in the order of the encoding table. -/
theorem words_atomic : ∀ p ∈ ([
    (0b1001000_00010_00101_01000_0000_01_0000#32, .amoAdd [] 2 5 8 1),
    (0b1001000_00011_00100_00110_0000_01_0001#32, .amoAnd [] 3 4 6 1),
    (0b1001000_00101_00100_00001_0000_01_0010#32, .amoOr [] 5 4 1 1),
    (0b1001000_00110_00010_00111_0000_01_0011#32, .amoXor [] 6 2 7 1),
    (0b1001000_01000_00010_00101_0000_01_0100#32, .amoMin [] 8 2 5 1),
    (0b1001000_00010_00100_00111_0000_01_0101#32, .amoMax [] 2 4 7 1),
    (0b1001000_11110_01100_00111_0000_01_0110#32, .amoMinz [] 30 12 7 1),
    (0b1001000_00001_00101_00100_0000_01_0111#32, .amoMaxz [] 1 5 4 1),
    (0b1001000_00010_00101_00001_0000_01_1000#32, .amoSwap [] 2 5 1 1),
    (0b1001000_00111_00100_00110_0000001001#32, .amoFadd [] 7 4 6),
    (0b100100100000_00101_00111_0000_01_0000#32, .redAdd [] 5 7 1),
    (0b100100100000_00010_00111_0000_01_0001#32, .redAnd [] 2 7 1),
    (0b100100100000_11000_00100_0000_00_0010#32, .redOr [] 24 4 0),
    (0b100100100000_10111_01100_0000_01_0011#32, .redXor [] 23 12 1),
    (0b100100100000_00010_00101_0000_01_0100#32, .redMin [] 2 5 1),
    (0b100100100000_00110_00010_0000_01_0101#32, .redMax [] 6 2 1),
    (0b100100100000_01000_01101_0000_00_0110#32, .redMinz [] 8 13 0),
    (0b100100100000_00101_00110_0000_01_0111#32, .redMaxz [] 5 6 1),
    (0b100100100000_00111_00101_0000001001#32, .redFadd [] 7 5),
    (0b1001010_10100_11111_10001_11000_000_01#32, .amoc [] 20 31 17 24 1)] : List (W32 × Instr)),
    decodeWords [p.1] = .ok (p.2, []) := by decide +kernel

/-- One word of every instruction of the family, its fields in the order of the encoding table. -/
theorem words_ordering : ∀ p ∈ ([
    (0b1001011_01110_000000000_1_110_0000000#32, .fence [] 14 1 6),
    (0b10010110000000000_00110_110_0000001#32, .qfence [] 6 6),
    (0b100101100000_00010_00000_011_0000010#32, .acq [] 2 3),
    (0b100101100000_01000_00000_101_0000011#32, .rel [] 8 5),
    (0b1001011_00010_00001_01000_0000000100#32, .rbind [] 2 1 8),
    (0b1001011000000000000000_110_0000101#32, .icinv [] 6),
    (0b100110000000_00101_000000000000000#32, .feset [] 5),
    (0b100110000000_00001_000000000000001#32, .feclr [] 1),
    (0b100110000000_01000_000000000000010#32, .fewait [] 8)] : List (W32 × Instr)),
    decodeWords [p.1] = .ok (p.2, []) := by decide +kernel

/-- One word of every instruction of the family, its fields in the order of the encoding table. -/
theorem words_barrier_copy : ∀ p ∈ ([
    (0b100110100000_00100_00110_0000000000#32, .binit [] 4 6),
    (0b100110100000_01000_000_10_0000000001#32, .benrol [] 8 2),
    (0b100110100000_01000_00110_0000_100_010#32, .barrive [] 8 6 4),
    (0b100110100000_00101_00100_0000000011#32, .bexpect [] 5 4),
    (0b1001101_01000_00001_000000000_010_100#32, .bwait [] 8 1 2),
    (0b1001101_00110_00010_000000000_010_101#32, .btest [] 6 2 2),
    (0b1001110_00101_00010_00100_0000000000#32, .cpy [] 5 2 4),
    (0b1001110_00100_01000_00010_0000000001#32, .cpyx [] 4 8 2),
    (0b1001110_00001_00000000000000000010#32, .cpwait [] 1)] : List (W32 × Instr)),
    decodeWords [p.1] = .ok (p.2, []) := by decide +kernel

/-- One word of every instruction of the family, its fields in the order of the encoding table. -/
theorem words_node : ∀ p ∈ ([
    (0b1010000_00111_00011_000000000000000#32, .nalloc [] 7 3),
    (0b101000000000_00100_000000000000001#32, .nfree [] 4),
    (0b1010000_00100_00101_00_011_0000000010#32, .nld [] 4 5 3),
    (0b1010000_00010_00001_00_011_0000000011#32, .nst [] 2 1 3),
    (0b1010001_01000_00001_00111_0000000000#32, .plink [] 8 1 7),
    (0b1010001_00110_00101_000000000000001#32, .pget [] 6 5),
    (0b101000100000_00001_00111_0000000010#32, .ppush [] 1 7)] : List (W32 × Instr)),
    decodeWords [p.1] = .ok (p.2, []) := by decide +kernel

/-- One word of every instruction of the family, its fields in the order of the encoding table. -/
theorem words_task_system : ∀ p ∈ ([
    (0b10100100000000000000000000000000#32, .tend []),
    (0b1010010_00111_00100_01000_0000000001#32, .commit [] 7 4 8),
    (0b1010010_00100_00110_00011_0000000010#32, .hspawn [] 4 6 3),
    (0b101001000000_00010_00001_0000000011#32, .chsend [] 2 1),
    (0b1010010_00011_00100_00111_0000000100#32, .rtset [] 3 4 7),
    (0b10100110000000000000_000000000010#32, .yield [] 2),
    (0b101010000000_00011_01000_0000000000#32, .workq [] 3 8),
    (0b1010100_00101_00110_000000000000001#32, .tver [] 5 6),
    (0b1010100_00011_01000_000000000000010#32, .tnew [] 3 8),
    (0b101100000000_00010_00111_0000000000#32, .trap [] 2 7),
    (0b10110000000000000000000000000001#32, .eret []),
    (0b1011000_00001_00000000000000000010#32, .tstamp [] 1),
    (0b1011000_00001_01000_000000000000011#32, .dscr [] 1 8),
    (0b1011000_00110_00010_000000000000100#32, .pwreq [] 6 2),
    (0b101100000000_00010_000000000000101#32, .pwrel [] 2)] : List (W32 × Instr)),
    decodeWords [p.1] = .ok (p.2, []) := by decide +kernel

/-- `ext` words before a target, in memory order, a word of an unassigned major, and the two words that R97 names as illegal. -/
theorem words_ext : decodeWords [0b1111111_000_0000000000000000000011#32, 0b1111111_000_0000000000000000000100#32,
      0b1111111_011_0100_000000000000000111#32, 0b0000010_00001_00010_000000000000101#32] =
        .ok (.addi [.imm 3, .imm 4, .hint 4 7] 1 2 5, []) ∧
    decodeWords [0b1111111_001_000000000000000_01_101_10#32, 0b1111111_010_0000000000000000000_110#32,
      0b0111010_00100_00101_0010_00_000000001#32] = .ok (.vldg [.mem 2 5 1, .mask 6] 4 5 2 1, []) ∧
    decodeWords [0#32] = .ok (.unassignedMajorOpcode [] 0, []) ∧
    decodeWords [0xFFFFFFFF#32, 0x02000000#32] = .error (.unassignedFunction 0xFFFFFFFF) ∧
    decodeWords [0x02000020#32] = .error (.unassignedFunction 0x02000020) := by decide +kernel

/-! ## What `WellFormed` refuses: one term for every check -/

/-- Register files, pairs, types, rounding, modes, sizes and scopes (R97: details 2 to 5). -/
theorem ill_formed_targets : ∀ i ∈ [
    Instr.fcvt [] 1 2 1 3 0, .fcvt [] 1 2 2 5 1, .ldl [] 1 2 3 1 0, .stl [] 1 2 0 2 0, .ldg [] 1 2 0 2 0, .ldg [] 1 2 3 1 0, .ldx [] 1 2 3 2 0,
    .ldx [] 1 2 3 1 3, .vcmp [] 8 1 2 0 0, .vcvt [] 1 2 0 0 0, .vcvt [] 1 2 5 0 1, .vtag [] 1 2 9, .vbcast [] 1 2 9 0, .kset [] 8 1,
    .kand [] 1 8 2, .kor [] 1 2 8, .knot [] 1 8, .kpop [] 1 8, .ckaccMod [] 4 1 0, .ckaccFsum [] 4 1 0, .ckclr [] 4, .ckrdLo [] 1 4,
    .ckrdHi [] 1 4, .check [] 1 4 0, .check [] 1 0 4, .vld [] 1 2 9 0 0, .vld [] 1 2 1 3 0, .vst [] 1 2 2 0, .vldg [] 1 2 9 0,
    .vgath [] 1 2 3 0 0 0, .odset [] 8 1 2, .mwin [] 16 1, .mzero [] 16, .mld [] 16 1, .mst [] 16 1, .mstBf16 [] 16 1, .mstTd8 [] 16 1,
    .mscale [] 16 1 2, .mchk [] 3 1 2, .mchk [] 2 16 2, .mres [] 1 16, .amoAdd [] 1 2 3 2, .amoAnd [] 1 2 3 2, .amoOr [] 1 2 3 2,
    .amoXor [] 1 2 3 2, .amoMin [] 1 2 3 2, .amoMax [] 1 2 3 2, .amoMinz [] 1 2 3 2, .amoMaxz [] 1 2 3 2, .amoSwap [] 1 2 3 2,
    .redAdd [] 1 2 2, .redAnd [] 1 2 2, .redOr [] 1 2 2, .redXor [] 1 2 2, .redMin [] 1 2 2, .redMax [] 1 2 2, .redMinz [] 1 2 2,
    .redMaxz [] 1 2 2, .amoc [] 1 2 4 6 2, .amoc [] 2 2 4 6 3, .fence [] 1 0 0, .fence [] 1 1 5, .fence [] 0 0 7, .qfence [] 0 5,
    .qfence [] 1 7, .acq [] 1 7, .rel [] 1 7, .icinv [] 7, .barrive [] 1 2 7, .bwait [] 1 2 7, .btest [] 1 2 7,
    .unassignedMajorOpcode [] 0x02000000, .unassignedMajorOpcode [.imm 0, .imm 0, .imm 0, .imm 0] 0], WellFormed i = false := by
  decide +kernel

/-- `ext` words: number, order, target, payload (R90 to R95). -/
theorem ill_formed_groups : ∀ i ∈ [
    Instr.addi [.imm 0, .imm 0, .imm 0] 1 2 3, .add [.imm 0] 1 2 3, .vldg [.mem 1 0 0, .mem 1 0 0] 1 2 1 0, .ldg [.mem 1 7 0] 1 2 0 0 0,
    .ldg [.mem 1 0 3] 1 2 0 0 0, .ldg [.mem 0 1 0] 1 2 0 0 0, .ldg [.mem 3 1 0] 1 2 0 0 0, .stg [.mem 2 1 0] 1 2 0 0, .add [.mem 1 0 0] 1 2 3,
    .vgath [.mem 1 0 0] 1 2 3 0 1 0, .amoAdd [.mem 1 0 1] 1 2 3 0, .redAdd [.mem 1 0 2] 1 2 0, .vld [.mask 1, .mask 2] 1 2 1 0 0,
    .vadd [.mask 1] 1 2 3 0 0, .add [.hint 5 0] 1 2 3, .add [.hint 0 1] 1 2 3, .add [.hint 4 0] 1 2 3, .add [.hint 0 0, .hint 1 0] 1 2 3,
    .vldg [.imm 0, .imm 0, .mask 1, .mem 1 0 0] 1 2 1 0], WellFormed i = false := by decide +kernel


/-! ## Witnesses: for every statement with hypotheses, states and operands that meet them -/

/-- A context with small values in `s1` to `s5`. -/
def small : Ctx := regs light [(1, 0x100), (2, 0x200), (3, 3), (4, 0xFFFFFFFFFFFFFFFF), (5, 0x8000000000000000)]

/-- The state in which an instruction word has been placed for core 0 (log 4). -/
def placed (w : Nat) : State := State.reset.withFetchWord 32 w

/-- The same after the choice to issue has been taken. -/
def taken (w : Nat) : State := { placed w with schedule := [] }

/-- The context of that state. -/
def placedCtx (w : Nat) : Ctx := ((placed w).ctx 0).getD light

/-- The state behind a fetch. -/
def behind (s : State) (c : Ctx) (pc : BitVec 57) : State :=
  match s.fetchGroup c 4 pc [] with
  | .words u _ => u
  | _ => s

/-- The state behind the fetch of the word. -/
def fetched (w : Nat) : State := behind (((taken w).select 0).getD (taken w)) (placedCtx w) (placedCtx w).pc

theorem witness_DecodeOfEncode : (Instr.vldg [.mem 2 5 1, .mask 6] 31 5 8 1).isWord = true ∧
    WellFormed (.vldg [.mem 2 5 1, .mask 6] 31 5 8 1) = true := by decide +kernel

theorem witness_EncodeOfDecode : decodeWords [0x02318001#32, 0#32] = .ok (.sub [] 3 3 0, [0#32]) ∧
    ∀ e w, Instr.sub [] 3 3 0 ≠ .unassignedMajorOpcode e w := ⟨by decide +kernel, fun _ _ h => by cases h⟩

theorem witness_StepRunsDecoded :
    (placed 0x02318001).schedule = [.issue 0] ∧ taken 0x02318001 = { placed 0x02318001 with schedule := [] } ∧
    (taken 0x02318001).mayIssue 0 = true ∧ (taken 0x02318001).issuerOn 0 = some (placedCtx 0x02318001) ∧
    ((placedCtx 0x02318001).migMark && (placedCtx 0x02318001).used == 0) = false ∧ (placedCtx 0x02318001).due = none ∧
    awaitCheck (((taken 0x02318001).select 0).getD (taken 0x02318001)) (placedCtx 0x02318001) = false ∧
    (((taken 0x02318001).select 0).getD (taken 0x02318001)).fetchGroup (placedCtx 0x02318001) 4 (placedCtx 0x02318001).pc [] =
      .words (fetched 0x02318001) [0x02318001] ∧
    decodeWords [0x02318001] = .ok (.sub [] 3 3 0, []) := by decide +kernel

theorem witness_StepRunsDecoded_illegal :
    (taken 0x02000020).issuerOn 0 = some (placedCtx 0x02000020) ∧ (placedCtx 0x02000020).due = none ∧
    (((taken 0x02000020).select 0).getD (taken 0x02000020)).fetchGroup (placedCtx 0x02000020) 4 (placedCtx 0x02000020).pc [] =
      .words (fetched 0x02000020) [0x02000020] ∧
    decodeWords [0x02000020] = .error (.unassignedFunction 0x02000020) ∧ (fetched 0x02000020).ctx 0 = some (placedCtx 0x02000020) ∧
    (placedCtx 0x02000020).key = 0 ∧ (placedCtx 0x02000020).canIssue = true ∧
    awaitCheck { fetched 0x02000020 with focus := some 0 } (placedCtx 0x02000020) = false ∧
    (placedCtx 0x02000020).used + 1 ≤ (placedCtx 0x02000020).limit := by decide +kernel

/-- A context that is `READY`, and a woken one whose turn has come, which leaves its wait. -/
theorem witness_StepRunsDecoded_rouse :
    (((taken 0x02318001).select 0).getD (taken 0x02318001)).rouse (placedCtx 0x02318001) =
      (((taken 0x02318001).select 0).getD (taken 0x02318001), placedCtx 0x02318001) ∧
    (let t := (taken 0x02318001).setCtx { placedCtx 0x02318001 with st := .parked }
     let r := ((t.select 0).getD t).rouse { placedCtx 0x02318001 with st := .parked }
     t.mayIssue 0 = true ∧ t.issuerOn 0 = some { placedCtx 0x02318001 with st := .parked } ∧ r.2 = placedCtx 0x02318001 ∧
       (r.2.migMark && r.2.used == 0) = false ∧ awaitCheck r.1 r.2 = false ∧
       r.1.fetchGroup r.2 4 r.2.pc [] = .words (behind r.1 r.2 r.2.pc) [0x02318001]) := by decide +kernel

/-- A group that is held, one that retires, and a context that has ended. -/
theorem witness_StepRunsDecoded_spend :
    (let c := { light with held := true }; (at0 c).ctx light.key = some c ∧ c.uid = light.uid ∧ c.held = true) ∧
    (at0 light).ctx light.key = some light ∧ light.held = false ∧ State.reset.ctx light.key = none := by decide +kernel

/-- The last word of a line: one that is no `ext` word, and one that is. -/
theorem witness_FetchReadsMemory : ∀ w ∈ [0, 0xFE000000],
    let s : State := { placed 0 with mem := Mem.writeN [] 0x10007C 4 w }
    s.cfg.ptEn = false ∧ s.cfg.injArm = false ∧ s.poison = [] ∧ s.slices = [] ∧ s.peerLines = [] ∧ (s.core light.cur).icache = [] ∧
    s.identity 0x10007C light.sup = some 0x10007C ∧ paSpace 0x10007C < 2 ∧ s.isPeer 0x10007C = false ∧ 0x10007C % 128 + 4 ≤ 128 ∧
    isExtWord (BitVec.ofNat 32 (s.mem.readN 0x10007C 4)) = (w != 0) := by decide +kernel

theorem witness_Keyed_MemOk : (at0 small).Keyed ∧ (at0 small).MemOk ∧ (placed 0x02318001).MemOk ∧
    (after (step (placed 0x02318001))).isSome = true := by decide +kernel

/-- Every scalar form: `s0` and `s31` among its registers, one word left in the interval. -/
theorem witness_scalar : Runs (at0 small) small [] [0, 31, 3, 4] [] ∧
    Runs (at0 { small with used := 4095 }) { small with used := 4095 } [] [1, 2, 3, 4] [] := by decide +kernel

theorem witness_ScalarFrame : (at0 small).issuer = some small ∧ (at0 small).ctx small.key = some small ∧
    (after (exec (.div [] 1 2 0) (at0 small))).isSome = true := by decide +kernel

/-! ### Floating point -/

/-- A finite pattern of each format, exact and inexact values, overflow, and operands of every kind. -/
theorem witness_Rounding : ∀ f ∈ [f32, bf16, f16],
    (∃ sg n d, f.value f.signBit = .fin sg n d) ∧ f.signBit < 2 * f.signBit ∧ (f.value (f.mag (f.round 1 true 3 4).val)).rat = 3 / 4 ∧
    (f.value (f.mag (f.round 1 true 1 3).val)).rat ≠ 1 / 3 ∧ f.mag (f.round 0 true (2 ^ 300) 1).val = f.inf ∧
    (f.value 1).finite = true ∧ f.isNaN f.nan = true ∧ f.isSNaN (f.inf + 1) = true ∧ f.mag (f.withSign true f.inf) = f.inf ∧
    f.mag f.signBit = 0 ∧ f.isNaN (f.inf - 1) = false ∧ f.neg f.signBit = true ∧ f.neg 1 = false ∧ f.inf + 1 < 2 * f.signBit := by
  intro f hf
  simp only [List.mem_cons, List.not_mem_nil, or_false] at hf
  rcases hf with rfl | rfl | rfl <;> exact ⟨⟨_, _, _, rfl⟩, by decide +kernel⟩

/-! ### Control, CSRs, memory -/

/-- Targets: aligned, misaligned, and the first one beyond the address space. -/
theorem witness_ControlTransfer : Runs (at0 small) small [] [1, 2] [] ∧ Runs (at0 small) small [] [31] [] ∧
    (small.rs 1).toNat % 4 = 0 ∧ (small.rs 1).toNat < 2 ^ 57 ∧ (small.rs 3).toNat % 4 ≠ 0 ∧
    2 ^ 57 ≤ ((regs light [(1, 2 ^ 57)]).rs 1).toNat := by decide +kernel

/-- `XPC`, `RWC`, an unassigned number, a droop register for a user and for a supervisor. -/
theorem witness_CsrForms : Runs (at0 small) small [] [1] [] ∧ (at0 small).readCsr small 1 0x000 = some 0 ∧ csrWritable 0x000 = true ∧
    (at0 small).readCsr small 1 0x7FF = none ∧ csrWritable 0x020 = false ∧ ((at0 small).readCsr small 1 0x800).isSome = true ∧
    small.sup = false ∧ super.sup = true ∧ csrWritable 0x800 = true := by decide +kernel

/-- A droop register before and after its read; an armed injector of each kind and the last byte of its word. -/
theorem witness_CsrForms_layers :
    (let c := { super with csrOld := some 5#64 }
     Runs (at0 c) c [] [1] [] ∧ ((at0 c).readCsr c 1 0x802).isSome = true ∧ csrWritable 0x802 = true ∧ c.csrOld = some 5#64) ∧
    Runs (at0 super) super [] [1] [] ∧ super.csrOld = none ∧
    ∀ k ∈ [1, 2, 3],
      let s : State := { State.reset with cfg := { MemCfg.reset with injKind := k, injArm := true, injAddr := 0x1000 } }
      s.cfg.injArm = true ∧ s.cfg.injKind = k ∧ 8 * (s.cfg.injAddr / 8) < 0x1007 + 1 ∧ 0x1007 < 8 * (s.cfg.injAddr / 8) + 8 ∧
        0x1008 ≥ 8 * (s.cfg.injAddr / 8) + 8 := by decide +kernel

/-- A load with acquire of `light` that is still to be performed. -/
def acquiring : Access :=
  { id := 5, grp := 5, uid := 1, key := 0, launch := 0, net := 0, tenant := 0, cid := 0, op := .load, elems := [⟨0x3000, 0x3000, 8, 0, 0⟩],
    ord := ⟨2, 5, 0⟩, dest := .sreg 7, sx := true, answer := none, sent := false }

/-- The last double word below the completion ring, while an acquire is under way. -/
theorem witness_LocalAccess_held :
    let c := regs light [(1, 0x7DFF8)]
    let s : State := { at0 c with accs := [acquiring] }
    Runs s c [] [2, 1] [] ∧ s.acquirePending c.uid = true ∧ c.mayTouch 0x7DFF8 8 ∧ 0x7DFF8 % 8 = 0 ∧ 0x7DFF8 + 8 ≤ 0x80000 ∧
      (s.core c.start).guarded c.uid 0x7DFF8 8 = false ∧ (s.core c.start).tagged 0x7DFF8 8 = false := by decide +kernel

/-- The last double word below the completion ring, and the last bytes of local memory. -/
theorem witness_LocalAccess :
    (let c := regs light [(1, 0x7FFF8), (2, 5), (3, 0)]
     RunsLocal (at0 c) c [] [2, 1, 1] [] ∧ ((c.rs 1 + wideImm (0#11) [] * BitVec.ofNat 64 8).toNat) = 0x7FFF8 ∧ 0x7FFF8 % 8 = 0 ∧
       0x7FFF8 + 8 ≤ 0x80000 ∧ ((at0 c).core 0).poisoned 0x7FFF8 8 = false ∧ validCid 0 = true ∧ (c.rs 3).toNat = c.start) ∧
    (let c := regs light [(1, 0x7DFF8), (2, 5), (3, 0)]
     RunsLocal (at0 c) c [] [2, 1, 3] [] ∧ c.mayTouch 0x7DFF8 8 ∧ (at0 c).mayStore c [(0x7DFF8, 8)] ∧ ((at0 c).core 0).lm.wf = true ∧
       ((at0 c).core 0).full.contains (0x7DFF8 / 16) = false) ∧
    (let c := regs light [(1, 0x100)]
     let s := (at0 c).modCore 0 fun k => { k with full := [0x10] }
     RunsLocal s c [] [2, 1] [] ∧ (s.core 0).full.contains (0x100 / 16) = true ∧ c.mayTouch 0x100 8) := by decide +kernel

/-- An empty and a full granule, which a load and a store await. -/
theorem witness_LocalAccess_parks :
    let c := regs light [(1, 0x100)]
    let s := (at0 c).modCore 0 fun k => { k with full := [0x10] }
    Yields (at0 c) c [2, 1] ∧ (at0 c).acquirePending c.uid = false ∧ 0x100 % 8 = 0 ∧ 0x100 + 8 ≤ 0x80000 ∧ 2 ≤ (3#2).toNat ∧ c.mayTouch 0x100 8 ∧
      ((at0 c).core c.start).full.contains (0x100 / 16) = false ∧ Yields s c [2, 1] ∧ s.acquirePending c.uid = false ∧
      (s.core c.start).guarded c.uid 0x100 8 = false ∧ (s.core c.start).tagged 0x100 8 = false ∧ (s.core c.start).full.contains (0x100 / 16) = true := by
  decide +kernel

/-- Below and above a lease, misaligned, just beyond local memory, in the completion ring, on a barrier word. -/
theorem witness_LocalFaults :
    (let c := regs heavyTask [(1, 0x4FFF8), (2, 0x51000)]
     Runs (at0 c) c [] [3, 1] [] ∧ c.heavy = true ∧ c.owns 0x4FFF8 8 = false ∧ c.owns 0x51000 8 = false ∧ c.owns 0x50FF8 8 = true) ∧
    (let c := regs light [(1, 0x101), (2, 0x80000), (3, 0x7E000), (4, 0x208)]
     let s := (at0 c).modCore 0 fun k => { k with tags := [(0x41, 0)] }
     Runs s c [] [5, 1] [] ∧ c.mayTouch 0x101 8 ∧ 0x101 % 8 ≠ 0 ∧ 0x80000 < 0x80000 + 8 ∧ (s.core 0).guarded c.uid 0x7E000 8 = true ∧
       (s.core 0).guarded c.uid 0x7DFF8 8 = false ∧ (s.core 0).guarded c.uid 0x208 8 = false ∧ (s.core 0).tagged 0x208 8 = true ∧
       (s.core 0).tagged 0x200 8 = false) := by decide +kernel

/-- Near DRAM, host memory, the device registers. -/
theorem witness_GlobalForms :
    (let c := regs light [(1, 0x1000), (2, 0x2000000000000), (3, 7)]
     Runs (at0 c) c [] [3, 1, 3] [] ∧ (at0 c).translateAll c .read [0x1000] = .all [0x1000] ∧
       (at0 c).translateAll c .write [0x1000] = .all [0x1000] ∧ (at0 c).translateAll c .atomic [0x1000] = .all [0x1000] ∧
       paSpace 0x1000 < 2 ∧ paSpace 0x400000000000 = 2 ∧
       (at0 c).translateAll c .atomic [0x400000000000] = .all [0x400000000000] ∧ c.heavy = false) ∧
    Runs (at0 small) small [] [2, 3, 1, 4, 5, 6, 7] [] ∧ (small.rs 1).toNat % 16 = 0 := by decide +kernel

/-- A heavy task, a misaligned address, one of 2^57 or more, host memory with an `and`, the device registers; and a vector of lanes. -/
theorem witness_GlobalForms_checks :
    (let c := regs heavyTask [(1, 0x1001)]
     (let s : State := { State.reset with ctxs := [(c.key, c)], focus := some c.key }; Runs s c [] [1] [5]) ∧ c.heavy = true ∧
       (c.rs 1).toNat % 16 ≠ 0 ∧ c.sources [5] [] [5] c) ∧
    (let c := regs light [(1, 0x1001), (2, 2 ^ 57), (3, 0x400000000000), (4, 0x600000000000)]
     Runs (at0 c) c [] [1, 2, 3, 4] [5] ∧ c.heavy = false ∧ (c.rs 1).toNat % 2 ≠ 0 ∧ (c.rs 2).toNat % 16 = 0 ∧ 5 < footLimit c.foot ∧
       c.sources [5] [] [5] c ∧
       (∀ k ∈ [XKind.read, .write, .atomic], (at0 c).translateAll c k [2 ^ 57] = .bad (2 ^ 57)) ∧
       (at0 c).translateAll c .read ((activeLanes (c.getK 0)).map fun l => (2 ^ 57 + 4 * l) % 2 ^ 64) = .bad (2 ^ 57) ∧
       (at0 c).translateAll c .atomic [0x400000000000] = .all [0x400000000000] ∧ paSpace 0x400000000000 = 2) ∧
    (let c := { regs super [(4, 0x600000000000)] with foot := 2 }
     Runs (at0 c) c [] [4] [] ∧ (at0 c).translateAll c .atomic [0x600000000000] = .all [0x600000000000] ∧ paSpace 0x600000000000 = 3) := by
  decide +kernel

/-! ### Vectors -/

/-- The bits of a register whose 64 lanes hold `x`. -/
def lanes (x : Nat) : Nat := ((List.range 64).map fun i => x * 2 ^ (32 * i)).sum

/-- Registers of several tags; `v7` the last of the smallest footprint; mask `k1`. -/
def vc : Ctx := { vecs (regs light [(1, 0x5A5A), (2, 70)]) [(1, lanes 0x40490FDB, 2), (2, lanes 0xBF800000, 2), (3, lanes 0x12345678, 1),
  (4, lanes 0x80000001, 7), (5, lanes 0x3F803F80, 3), (6, lanes 0x7F018102, 5), (7, lanes 0x80FF017F, 6), (31, lanes 0x7FA00001, 2)] with
  k := Vector.ofFn fun i => if i.val = 1 then 0x8000000000000001#64 else BitVec.ofNat 64 (0xF0F0 * i.val) }

/-- The same with `v1` bound to a pop stream of one local strip, which is staged, and `v2` to a push stream. -/
def sc : Ctx :=
  let h : Shape := { base := 0x1000, fmt := 2, space := 0, ver := 0, dims := [(64, 4)], toff := 0 }
  { vc with slots := [⟨1, false, h, 0, [(0, ⟨BitVec.ofNat 2048 (lanes 5), none, none, 3⟩)], 1, 3, []⟩, ⟨2, true, { h with base := 0x2000 }, 0, [], 0, 4, []⟩] }

/-- Operands of every kind for the functions, the encoding of TD8, the dot products and the reductions. -/
theorem witness_LaneWriting : f32.isNaN 0x7FA00001 = true ∧ f32.mag 0xFF800000 = f32.inf ∧ f32.mag 0x80000000 = 0 ∧ 0 < f32.mag 1 ∧
    f32.mag 0x7F7FFFFF < f32.inf ∧ f32.neg 0x80000001 = true ∧ f32.neg 1 = false ∧ bf16.isNaN 0x7FC0 = true ∧ 0x7FC0 < 2 * bf16.signBit ∧
    f32.isNaN 0x7F800000 = false ∧ bf16.value 0x7F80 ≠ .nan ∧ td8Value 0xFF ≠ .nan ∧ tagFmt 4 = some f16 ∧ (vc.getV 3).tag ∈ [1, 2, 3, 4, 5, 6, 7, 8] ∧
    activeElems 32 1 (vc.getV 1).bits ≠ [] ∧ activeElems 8 0 (vc.getV 6).bits = [] ∧ (∀ u ∈ activeElems 8 1 (vc.getV 6).bits, u ≠ 0x80) := by
  decide +kernel

/-- There is a tree of sums over any elements. -/
theorem witness_LaneWriting_tree (g : Nat → Option Nat) (add : Nat → Nat → Nat) :
    ∃ T : Nat → Nat → Option Nat, (∀ i, T 0 i = g i) ∧ ∀ l i, T (l + 1) i = match T l (2 * i), T l (2 * i + 1) with
      | some a, some b => some (add a b)
      | some a, none => some a
      | none, z => z :=
  ⟨fun l => l.rec g fun _ t i => match t (2 * i), t (2 * i + 1) with
    | some a, some b => some (add a b)
    | some a, none => some a
    | none, z => z, fun _ => rfl, fun _ _ => rfl⟩

/-- The greatest operands of one byte. -/
theorem witness_AtomicValues : 1 ≤ 1 ∧ 255 < 2 ^ (8 * 1) := by decide

theorem witness_VectorBinary : Runs (at0 vc) vc [] [] [0, 1, 31] ∧ vc.sources [0, 1, 31] [(0, 1, tagsFP + tagsINT), (1, 31, 2 ^ 2)] [1, 31] vc ∧
    (at0 vc).takesResult vc 0 ⟨5, 2⟩ (vc.setV 0 ⟨5, 2⟩) ∧ vc.sources [2, 3, 3] [(0, 3, tagsANY), (1, 3, tagsI32)] [3, 3] vc := by
  refine ⟨by decide +kernel, by decide +kernel, rfl, by decide +kernel⟩

/-- The registers of the smallest footprint and the next one, a first operand whose tag is not accepted, and a second one. -/
theorem witness_VectorBinary_faults :
    (let c := { vc with foot := 0 }
     Runs (at0 c) c [] [7, 1, 2] [7, 1, 2, 8] ∧ footLimit c.foot ≤ (8#5).toNat ∧ (∀ y ∈ [7#5, 1, 2], y.toNat < footLimit c.foot) ∧
       ¬ (c.tagOf 6 ≤ 8 ∧ (tagsFP + tagsINT).testBit (c.tagOf 6) = true) ∧
       (c.tagOf 1 ≤ 8 ∧ (tagsFP + tagsINT).testBit (c.tagOf 1) = true) ∧ ¬ (c.tagOf 3 ≤ 8 ∧ (2 ^ 2).testBit (c.tagOf 3) = true)) ∧
    (∀ t ∈ [1, 5, 6, 7, 8], (0x80 : Nat) < 2 ^ tagWidth t) := by decide +kernel

/-- The context behind the popping of `v1`. -/
def popped : Ctx :=
  match sc.popAll [] [1, 1] with
  | .ok x => x
  | _ => sc

/-- A pop-bound source gives its strip, and a push-bound destination takes the result. -/
theorem witness_streams : Runs (at0 sc) sc [] [] [2, 1, 1] ∧ sc.sources [2, 1, 1] [(0, 1, tagsFP + tagsINT), (1, 1, 2 ^ 2)] [1, 1] popped ∧
    (popped.getV 1).bits = BitVec.ofNat 2048 (lanes 5) ∧
    ∀ sl, popped.slotOf 2 = some sl → (at0 sc).takesResult popped 2 ⟨9, 2⟩ ((popped.setV 2 ⟨9, 2⟩).putSlot (sl.pushed (at0 sc) 9 [])) := by
  refine ⟨by decide +kernel, by decide +kernel, by decide +kernel, ?_⟩
  intro sl h
  cases h
  exact ⟨[], ⟨Or.inr rfl, by decide, Or.inl ⟨rfl, by decide +kernel, rfl⟩⟩, rfl⟩

theorem witness_VectorUnary : vc.sources [0, 1] [(0, 1, 4)] [1] vc ∧ vc.sources [0, 7] [(0, 7, tagsFP + tagsINT + tagsTD8)] [7] vc ∧
    Runs (at0 vc) vc [] [1] [31] ∧ vc.sources [31] [] [] vc ∧
    vc.sources [0, 1, 2, 31] [(0, 1, tagsFP), (1, 2, 2 ^ vc.tagOf 1), (2, 31, 2 ^ vc.tagOf 1)] [1, 2, 31] vc ∧
    vc.sources [0, 5, 5, 1] [(0, 5, 8), (1, 5, 8), (2, 1, 4)] [5, 5, 1] vc ∧
    vc.sources [0, 6, 6, 1] [(0, 6, 32), (1, 6, 32), (2, 1, 4)] [6, 6, 1] vc := by decide +kernel

theorem witness_VectorScalars : vc.sources [3, 3] [(0, 3, tagsFP + tagsINT + tagsTD8), (1, 3, 2 ^ vc.tagOf 3)] [3, 3] vc ∧
    vc.sources [4] [(0, 4, tagsANY)] [4] vc ∧ Runs (at0 vc) vc [] [2, 1] [4] ∧ vc.sources [0, 7] [(0, 7, tagsFP + tagsINT)] [7] vc ∧
    (vc.getV 3).tag ∈ [1, 6, 7, 8] ∧ activeElems 32 1 (vc.getV 3).bits ≠ [] := by decide +kernel

theorem witness_VectorFrame : (at0 vc).issuer = some vc ∧ (at0 vc).ctx vc.key = some vc ∧ vc.slots = [] ∧
    blocks [31, 1, 2] [31, 1, 2, 3] (at0 vc) vc = false ∧ (∀ y ∈ [31, 1, 2, 3], y < footLimit vc.foot) ∧ vc.used + groupWords [] ≤ vc.limit ∧
    ((after (exec (.vadd [] 31 1 2 1 0) (at0 vc))).bind fun t => t.ctx vc.key).isSome = true := by decide +kernel

theorem witness_MaskForms : Runs (at0 vc) vc [] [0, 7] [] := by decide +kernel

/-- Both kinds, an empty register, one of the kind, the trap and no trap. -/
theorem witness_Invariants : Runs (at0 vc) vc [] [] [3] ∧ vc.sources [3] [(0, 3, tagsANY)] [3] vc ∧ vc.getQ 0 = 0 ∧
    ((({ vc with q := vc.q.setIfInBounds 1 (2 ^ 96 + 2 ^ 64) } : Ctx).getQ 1).toNat / 2 ^ 96 % 2 = 1) ∧
    (compareQ 0 0 0).1 = false ∧ (compareQ 5 0 (4 : W64)).1 = true ∧ (compareQ 5 0 (5 : W64)).1 = false ∧
    ((at0 vc).past vc [] vc).ctx vc.key ≠ none ∧ qKind 5 = 0 := by decide +kernel

/-- Registers of both kinds, sums of every kind, and elements of each class. -/
theorem witness_Invariants_kinds : qKind 0 ≠ qKind (2 ^ 96) ∧ qKind (2 ^ 96) = 1 ∧ f64.value 0x7FF0000000000000 = .inf false ∧
    f64.value 0xFFF0000000000000 = .inf true ∧ f64.value 0x7FF8000000000000 = .nan ∧ (f64.value 0x8000000000000000).finite = true ∧
    (∀ n x d, FVal.fin true 1 3 = .fin n x d → 0 < d) ∧ (elemValue 5 0xFF).finite = true ∧ elemValue 3 0x7F80 = .inf false := by
  refine ⟨by decide +kernel, by decide +kernel, by decide +kernel, by decide +kernel, by decide +kernel, by decide +kernel, ?_, by decide +kernel, by decide +kernel⟩
  intro n x d h
  cases h
  decide

/-- Elements that a conversion turns, NaNs, infinities, the least integers; TD8 codes with and without a sign. -/
theorem witness_Conversions : (∀ f ∈ [f32, bf16, f16], f.isNaN (f.inf + 1) = true ∧ f.isSNaN (f.inf + 1) = true ∧ f.mag (f.signBit + f.inf) = f.inf ∧
      f.mag (f.inf - 1) < f.inf ∧ f.inf + 1 < 2 * f.signBit) ∧
    (∀ p ∈ [(1, 32), (6, 8), (7, 32), (8, 8), (5, 8)], (2 ^ p.2 - 1 : Nat) < 2 ^ tagWidth p.1) ∧ tagFmt 2 = some f32 ∧ tagFmt 3 = some bf16 ∧
    tagFmt 4 = some f16 ∧ td8Value 0x80 = .nan := by decide +kernel

/-! ### Streams, vector memory, matrix -/

/-- The 64 bytes of a shape record: address, format, space, four dimensions (R225). -/
def shapeBytes (base fmt space : Nat) (dims : List (Nat × Nat)) : List Byte :=
  bytesOf 64 (base + fmt * 2 ^ 64 + space * 2 ^ 68 + ((List.range 4).map fun i =>
    (dims.getD i (1, 0)).1 * 2 ^ (128 + 64 * i) + (dims.getD i (1, 0)).2 * 2 ^ (160 + 64 * i)).sum)

/-- A state with a shape record for 64 words of local memory at 0x2000 and another at 0x2040. -/
def recordState (c : Ctx) : State :=
  { at0 c with mem := (Mem.writeBytes [] 0x2000 (shapeBytes 0x1000 2 0 [(64, 4)])).writeBytes 0x2040 (shapeBytes 0x3000 2 0 [(64, 4)]) }

/-- What a plain read of a record gives. -/
def recordAt (s : State) (c : Ctx) (va : Nat) : State × List Byte := ((s.plainRead c va 64).1, bytesOf 64 (s.plainRead c va 64).2.1)

def bc : Ctx := regs light [(1, 0x2000), (2, 0x2040), (3, 0)]

theorem record_read (s : State) (c : Ctx) (va : Nat) (h : s.translateAll c .read [va] = .all [va]) (w : s.mustWait c.uid va = false)
    (p : s.lineHere va c.acqPod = true) (b : (s.plainRead c va 64).2.2 = false) : s.readsRecord c va 64 (recordAt s c va).1 (fun y => s.predictRead y va) (recordAt s c va).2 :=
  ⟨va, (s.plainRead c va 64).2.1, h, w, p, by rw [recordAt]; ext <;> simp [b], rfl, rfl⟩

theorem witness_StreamBindings : Runs (recordState bc) bc [] [1] [31] ∧ 31 < footLimit bc.foot ∧ bc.draining 31 = false ∧
    (recordState bc).unreached bc = false ∧ (bc.rs 1).toNat % 64 = 0 ∧
    (recordState bc).readsRecord bc 0x2000 64 (recordAt (recordState bc) bc 0x2000).1 (fun y => (recordState bc).predictRead y 0x2000)
      (recordAt (recordState bc) bc 0x2000).2 ∧
    rejectShape (recordAt (recordState bc) bc 0x2000).2 0x2000 = none ∧ bc.slots.length < 4 ∧
    (shapeOf (recordAt (recordState bc) bc 0x2000).2).space = 0 :=
  ⟨by decide +kernel, by decide, by decide +kernel, by decide +kernel, by decide +kernel,
    record_read _ _ _ (by decide +kernel) (by decide +kernel) (by decide +kernel) (by decide +kernel), by decide +kernel, by decide, by decide +kernel⟩

/-- Strips to be written, a store that its point has not reached, four slots, a tile, and a heavy task that pushes to global memory. -/
theorem witness_StreamBindings_others :
    (let c := { bc with slots := [⟨31, true, shapeOf (shapeBytes 0x1000 2 0 [(64, 4)]), 1, [(0, ⟨7, none, none, 4⟩)], 0, 4, []⟩] }
     Runs (recordState c) c [] [1] [31] ∧ c.draining 31 = true ∧ (c.slotOf 31).isSome = true ∧
       (recordState c).translateAll c .read [0x2000] = .all [0x2000] ∧ rejectShape (recordAt (recordState c) c 0x2000).2 0x2000 = none) ∧
    (let s : State := { recordState bc with accs := [{ acquiring with op := .store, ord := ⟨3, 5, 1⟩, dest := .none }] }
     Runs s bc [] [1] [31] ∧ s.unreached bc = true) ∧
    (let c := { bc with slots := [2, 3, 4, 5].map fun r => ⟨r, false, shapeOf (shapeBytes 0x1000 2 0 [(64, 4)]), 0, [], 0, r, []⟩ }
     Runs (recordState c) c [] [1] [31] ∧ (c.slotOf 31).isSome = false ∧ ¬ c.slots.length < 4 ∧
       (recordAt (recordState c) c 0x2000).2 = (recordAt (recordState bc) bc 0x2000).2) ∧
    rejectShape (shapeBytes 1 2 2 [(64, 4)]) 0x2000 = none ∧ (shapeOf (shapeBytes 1 2 2 [(64, 4)])).space = 2 ∧
    (let c := regs heavyTask [(1, 0x2000)]
     Runs (recordState c) c [] [1] [31] ∧ c.heavy = true ∧ rejectShape (shapeBytes 0x1000 2 1 [(64, 4)]) 0x2000 = none ∧
       (shapeOf (shapeBytes 0x1000 2 1 [(64, 4)])).space = 1 ∧ (shapeOf (shapeBytes 0x1000 2 0 [(64, 4)])).leavesLease c = true ∧
       (shapeOf (shapeBytes 0x50000 2 0 [(64, 4)])).leavesLease c = false) := by decide +kernel

/-- Addresses at the ends of local memory and below the completion ring; offsets 0, 4, 8, … in `v3`. -/
def mc : Ctx := vecs (regs light [(1, 0x7FF00), (2, 0x7DF00), (3, 0x10000)])
  [(1, lanes 7, 2), (3, ((List.range 64).map fun i => 4 * i * 2 ^ (32 * i)).sum, 1)]

/-- The lanes of a local or global vector access at `x`. -/
def lanesAt (x : Nat) (m : W64) : List (Nat × Nat) := (activeLanes m).map fun l => (l, (x + 4 * l) % 2 ^ 64)

theorem witness_VectorMemory_local : Runs (at0 mc) mc [] [1] [5] ∧ (at0 mc).acquirePending mc.uid = false ∧ 5 < footLimit mc.foot ∧ (mc.rs 1).toNat % 16 = 0 ∧ (mc.rs 1).toNat ≤ 0x7FF00 ∧
    (∀ p ∈ lanesAt 0x7FF00 (mc.getK 0), ((at0 mc).core 0).poisoned p.2 4 = false) ∧ Runs (at0 mc) mc [] [2] [1] ∧ mc.sources [1] [] [1] mc ∧
    (∀ p ∈ lanesAt 0x7DF00 (mc.getK 0), mc.mayTouch p.2 4) ∧ (at0 mc).mayStore mc ((lanesAt 0x7DF00 (mc.getK 0)).map fun p => (p.2, 4)) ∧
    (∀ z ∈ ((lanesAt 0x7DF00 (mc.getK 0)).map fun p => p.2 / 16).dedup, ((at0 mc).core 0).full.contains z = false) := by decide +kernel

theorem witness_VectorMemory_full : (∀ z ∈ ((lanesAt 0x1000 3).map fun p => p.2 / 16).dedup,
    (((at0 mc).modCore 0 fun k => { k with full := [0x100] }).core 0).full.contains z = true) ∧
    (at0 mc).takesResult mc 5 ⟨5, 2⟩ (mc.setV 5 ⟨5, 2⟩) ∧ (at0 mc).awaitsResult mc 5 2 mc := ⟨by decide +kernel, rfl, rfl⟩

/-- The last granule empty for a load, and the first one full for a store. -/
theorem witness_VectorMemory_parks :
    let ls := (activeLanes (mc.getK (maskReg []))).map fun l => (0x7DF00 + 4 * l) % 2 ^ 64
    let s := (at0 mc).modCore 0 fun k => { k with full := [0x7DF0] }
    s.issuer = some mc ∧ blocks [2] [1] s mc = false ∧ 1 < footLimit mc.foot ∧ s.acquirePending mc.uid = false ∧ (mc.rs 2).toNat = 0x7DF00 ∧
      (∀ p ∈ ls, mc.mayTouch p 4 ∧ (s.core 0).guarded mc.uid p 4 = false ∧ (s.core 0).tagged p 4 = false) ∧
      (∃ z ∈ (ls.map fun p => p / 16).dedup, (s.core 0).full.contains z = false) ∧
      (∃ z ∈ (ls.map fun p => p / 16).dedup, (s.core 0).full.contains z = true) ∧ mc.sources [1] [] [1] mc := by decide +kernel

theorem witness_VectorMemory_global : Runs (at0 mc) mc [] [3] [5, 3] ∧ lanesAt 0x10000 (mc.getK 0) ≠ [] ∧ lanesAt 0x10000 (mc.getK 1) = [] ∧
    (at0 mc).translateAll mc .read ((lanesAt 0x10000 (mc.getK 0)).map Prod.snd) = .all ((lanesAt 0x10000 (mc.getK 0)).map Prod.snd) ∧
    mc.sources [5, 3] [(1, 3, tagsI32)] [3] mc ∧ gatherLanes (mc.rs 3).toNat (mc.getV 3) (mc.getK 0) = lanesAt 0x10000 (mc.getK 0) ∧
    (∀ p ∈ lanesAt 0x10000 (mc.getK 0), p.2 % 4 = 0 ∧ p.2 ≤ 0x7FFFC ∧ p.2 < 2 ^ 57) ∧ mc.sources [1, 3] [(1, 3, tagsI32)] [1, 3] mc ∧
    (at0 mc).translateAll mc .write ((lanesAt 0x10000 (mc.getK 0)).map Prod.snd) = .all ((lanesAt 0x10000 (mc.getK 0)).map Prod.snd) ∧
    (at0 mc).mayStore mc ((lanesAt 0x10000 (mc.getK 0)).map fun p => (p.2, 4)) ∧ mc.heavy = false := by decide +kernel

/-- A window descriptor at row and column 0: rows, columns, format (R20). -/
def window (rows cols fmt : Nat) : Nat := rows * 2 ^ 18 + cols * 2 ^ 24 + fmt * 2 ^ 30

/-- An operand descriptor of 8 rows of 64 bytes (R19). -/
def operand (base fmt : Nat) : Nat := base + 64 * 2 ^ 20 + 8 * 2 ^ 36 + 64 * 2 ^ 48 + fmt * 2 ^ 64

/-- A context with windows `m1` (I32) and `m2` (F32), operands `o1` to `o3` (I8, BF16, TD8), indices in `v3`, factors in `v1`. -/
def wc : Ctx := { mc with
  s := (regs mc [(4, window 32 32 2), (5, 0x7F000), (6, operand 0x1000 3 % 2 ^ 64), (7, 3)]).s
  v := mc.v.setIfInBounds 3 ⟨BitVec.ofNat 2048 (7 + 2 * 2 ^ 32), 7⟩
  m := (mc.m.setIfInBounds 1 (BitVec.ofNat 64 (window 4 8 1))).setIfInBounds 2 (BitVec.ofNat 64 (window 4 8 2))
  o := ((mc.o.setIfInBounds 1 (BitVec.ofNat 128 (operand 0x1000 6))).setIfInBounds 2 (BitVec.ofNat 128 (operand 0x2000 3))).setIfInBounds 3
    (BitVec.ofNat 128 (operand 0x3000 5)) }

/-- A descriptor of no extent, a legal one, and the largest window. -/
theorem witness_MatrixForms_descriptors : Runs (at0 wc) wc [] [6, 7, 0, 4] [] ∧ odRows (wc.rs 0 ++ wc.rs 0) = 0 ∧
    odRows (wc.rs 7 ++ wc.rs 6) ≠ 0 ∧ odFault (wc.rs 7 ++ wc.rs 6) = none ∧ wRows (wc.rs 0) = 0 ∧ wRows (wc.rs 4) = 32 ∧ wFmt (wc.rs 4) = 2 ∧
    windowFits (wc.rs 4) ((((at0 wc).cluster 0).part[coreInCluster 0]?).getD 0) = true ∧
    ((at0 wc).cluster 0).claims.find ((at0 wc).blockOf 0 (wc.rs 4)) = none ∧ ((at0 wc).core 0).mq.length < 16 := by decide +kernel

/-- `mst` up to the completion ring, `mld` at the end of local memory. -/
theorem witness_MatrixForms_windows : Runs (at0 wc) wc [] [5, 4] [] ∧ wFmt (wc.getM 1) = 1 ∧ wFmt (wc.getM 2) = 2 ∧
    0x7FF80 % 16 = 0 ∧ 0x7FF80 + 4 * wRows (wc.getM 1) * wCols (wc.getM 1) ≤ 0x80000 ∧
    ((at0 wc).core 0).guarded wc.uid (0x7E000 - 4 * 32) (4 * 32) = false ∧ ((at0 wc).core 0).tagged (0x7E000 - 4 * 32) (4 * 32) = false ∧
    wc.mayTouch 0x7DF80 128 ∧ Runs (at0 wc) wc [] [] [31] ∧ 31 < footLimit wc.foot ∧ wc.slotOf 31 = none ∧
    wc.sources [1, 1] [(0, 1, 4), (1, 1, 4)] [1, 1] wc := by decide +kernel

/-- Integer and half precision; the last row as an index. -/
theorem witness_MatrixForms_mma : Runs (at0 wc) wc [] [] [3] ∧ wc.sources [3] [(2, 3, tagsI32)] [3] wc ∧ odFmt (wc.getO 1) = 6 ∧
    odFmt (wc.getO 2) = 3 ∧ odFmt (wc.getO 3) = 5 ∧ odScv (wc.getO 1) = false ∧ odRows (wc.getO 1) = 8 ∧ wCols (wc.getM 1) = 8 ∧
    (∀ i < wRows (wc.getM 1), 0 ≤ elemInt (wc.getV 3).tag (elem 32 (wc.getV 3).bits i) ∧
      elemInt (wc.getV 3).tag (elem 32 (wc.getV 3).bits i) < odRows (wc.getO 1)) := by decide +kernel

/-! ### Ordering, granules, barriers -/

theorem witness_Fences : Runs (at0 wc) wc [] [] [] ∧ (at0 wc).quiet wc = true ∧ ((at0 wc).releaseEffects wc 6).peersClean = true ∧
    Runs (at0 wc) wc [] [] [31] ∧ (at0 wc).joined 0 0x1F ((at0 wc).stamp) = true ∧ (at0 wc).mustFollow wc.uid = false ∧
    ((at0 wc).writeBackPeers).peersClean = true ∧
    bindRegion wc.binds 0x1000 0x2000 (2 ^ 32) = some [(0x1000, 0x2000, 2 ^ 32)] ∧ 2 ^ 32 % 128 = 0 := by decide +kernel

/-- A release and an acquire of an object at 0x1008 with a bound line. -/
def ac : Ctx := { regs light [(1, 0x1008)] with binds := [(0x1008, 0x2000, 128)] }

theorem witness_Fences_bound : Runs (at0 ac) ac [] [1] [] ∧ (ac.rs 1).toNat % 8 = 0 ∧
    (at0 ac).xlatePieces ac (ac.boundPieces 0x1008) = (at0 ac, .all [0x2000]) ∧ ac.heavy = false ∧
    (at0 ac).translateAll ac .atomic [0x1008] = .all [0x1008] ∧ paSpace 0x1008 ≠ 3 ∧ (at0 ac).quiet ac = true ∧
    ((at0 ac).releaseEffects ac 6).peersClean = true ∧ (at0 ac).mustFollow ac.uid = false ∧ (at0 ac).mustWait ac.uid 0x1008 = false ∧ (at0 ac).isPeer 0x1008 = false ∧
    (at0 ac).translateAll ac .read [0x1008] = .all [0x1008] ∧
    (((at0 ac).flushLine ((at0 ac).home 0x1008) (0x1008 / 128)).sRead 0x1008 8).2 = (0, false) ∧ paSpace 0x1008 < 2 := by decide +kernel

/-- An acquire of an object of package 33, whose slice copy was asked for when it began: at `.pod`, and at a smaller scope. -/
theorem witness_Fences_peer :
    let c := { regs light [(1, 33 * 2 ^ 47 + 8)] with place := some 4 }
    let s : State := { at0 c with peerLines := [⟨33 * 2 ^ 40, 5, 0, 0, 0, 4, true⟩] }
    Runs s c [] [1] [] ∧ s.translateAll c .read [33 * 2 ^ 47 + 8] = .all [33 * 2 ^ 47 + 8] ∧ s.mustFollow c.uid = false ∧
    s.mustWait c.uid (33 * 2 ^ 47 + 8) = false ∧ s.isPeer (33 * 2 ^ 47 + 8) = true ∧ c.place = some 4 ∧
    s.lineHere (33 * 2 ^ 47 + 8) 4 = true ∧ s.lineHere (33 * 2 ^ 47 + 8) c.acqPod = true ∧ paSpace (33 * 2 ^ 47 + 8) < 2 ∧
    ((s.flushLine (s.home (33 * 2 ^ 47 + 8)) (33 * 2 ^ 40)).sRead (33 * 2 ^ 47 + 8) 8).2 = (0, false) ∧
    (∀ p ∈ s.peerLines, p.dirty = 0 ∧ s.writeBackUnderWay (some p.line) = false) := by decide +kernel

/-- The last granule of local memory, empty and full. -/
def gc : Ctx := regs light [(1, 0x7FFFF), (2, 0x100), (3, 0x0003), (4, 2 ^ 24 - 1), (5, 2 ^ 24), (6, 2 ^ 63), (7, 1)]

/-- The same with a barrier word of two arrivals at 0x100 and one full granule. -/
def gs : State := (at0 gc).modCore 0 fun k => { k with full := [0x7FFF], tags := [(0x20, 0)], lm := Mem.writeN [] 0x100 8 (2 * 2 ^ 3 + 2 * 2 ^ 19) }

theorem witness_GranuleForms : (gc.rs 1).toNat < 0x80000 ∧ gs.acquirePending gc.uid = false ∧ (at0 gc).acquirePending gc.uid = false ∧ gc.mayTouch 0x7FFF0 16 ∧ Runs gs gc [] [1] [] ∧
    gs.matrixReads 0 [(0x7FFF0, 16)] = false ∧ Yields gs gc [1] ∧ (gs.core 0).full.contains 0x7FFF = true ∧
    ((at0 gc).core 0).full.contains 0x7FFF = false ∧ Yields (at0 gc) gc [1] := by decide +kernel

/-- `binit` of a new word and retirement, the greatest balance and one more, both outcomes of a wait. -/
theorem witness_BarrierForms : RunsLocal gs gc [] [2, 3, 4, 5, 6] [] ∧ ((at0 gc).core 0).tags.find (0x100 / 8) = none ∧ gc.mayTouch 0x100 8 ∧ 0x100 % 8 = 0 ∧ 0x100 ≤ 0x7FFF8 ∧
    (gs.core 0).guarded gc.uid 0x100 8 = false ∧ gs.obliged 0 0x100 = false ∧ (gc.rs 3).toNat / 2 ^ 16 % 2 ^ 47 = 0 ∧
    (gc.rs 6).toNat / 2 ^ 16 % 2 ^ 47 = 0 ∧ gs.matrixReads 0 [(0x100, 8)] = false ∧ (gc.rs 3).toNat < 2 ^ 63 ∧ 2 ^ 63 ≤ (gc.rs 6).toNat ∧
    gs.atBarrier gc 0x100 ∧ gs.quiet gc = true ∧ (gc.rs 0).toNat = gc.start ∧ validCid 0 = true ∧
    barPend (gs.barWord 0 0x100) + (gc.rs 4).toNat ≤ 2 ^ 24 - 1 ∧ 2 ^ 24 - 1 < barPend (gs.barWord 0 0x100) + ((gc.rs 5).toNat : Int) ∧
    Yields gs gc [7, 2] ∧ gs.mustFollow gc.uid = false ∧ barMet (gs.barWord 0 0x100) ((gc.rs 7).getLsbD 0) = true ∧
    barMet (gs.barWord 0 0x100) ((gc.rs 0).getLsbD 0) = false ∧ gs.barWord 0 0x100 / 2 % 2 = 0 ∧ (3 : Nat) / 2 % 2 = 1 := by decide +kernel

/-- The greatest fields. -/
theorem witness_BarrierFlip : (1 : Nat) < 2 ∧ (2 ^ 16 - 1 : Nat) < 2 ^ 16 ∧ (2 ^ 25 - 1 : Nat) < 2 ^ 25 := by decide

/-! ### Copies, nodes, tasks, requests, traps -/

/-- Two legal records at 0x2000 and 0x2040, `s3` a control word with tag 5, `s4` one that names core 1. -/
def pc : Ctx := regs light [(1, 0x2000), (2, 0x2040), (3, 5), (4, 5 + 1 * 2 ^ 37)]

/-- The state behind the reading of the first record, and the bytes of both. -/
def pu : State := (recordAt (recordState pc) pc 0x2000).1
def pv : State := (recordAt pu pc 0x2040).1
def pd : List Byte := (recordAt (recordState pc) pc 0x2000).2
def ps : List Byte := (recordAt pu pc 0x2040).2

theorem witness_CopyForms : Runs (recordState pc) pc [] [3, 1, 2, 4] [] ∧ (recordState pc).inFlight 0 < 128 ∧ (recordState pc).unreached pc = false ∧
    (recordState pc).readsRecord pc 0x2000 64 pu (fun y => (recordState pc).predictRead y 0x2000) pd ∧
    pu.readsRecord pc 0x2040 64 pv (fun y => pu.predictRead y 0x2040) ps ∧ rejectShape ps 0x2040 = none ∧
    rejectShape pd 0x2000 = none ∧ pc.heavy = false ∧ pv.copyFault pc 5 false 0x2000 (shapeOf pd) (shapeOf ps) = none ∧
    pv.copyFault pc (5 + 2 ^ 37) true 0x2000 (shapeOf pd) (shapeOf ps) = none :=
  ⟨by decide +kernel, by decide +kernel, by decide +kernel,
    record_read _ _ _ (by decide +kernel) (by decide +kernel) (by decide +kernel) (by decide +kernel),
    record_read _ _ _ (by decide +kernel) (by decide +kernel) (by decide +kernel) (by decide +kernel),
    by decide +kernel, by decide +kernel, rfl, by decide +kernel, by decide +kernel⟩

/-- `cpwait` with a record in the last slot of the ring, with neither record nor copy, and with a copy in flight. -/
theorem witness_CopyForms_wait :
    (let s := (at0 pc).modCore 0 fun k => { k with recs := [⟨255, pc.uid⟩] }
     Yields s pc [5] ∧ s.mustFollow pc.uid = false ∧ (s.core 0).recs.find? (fun r => r.uid == pc.uid) = some ⟨255, pc.uid⟩) ∧
    (Yields (at0 pc) pc [5] ∧ (∀ r ∈ ((at0 pc).core 0).recs, r.uid ≠ pc.uid) ∧ ∀ x ∈ (at0 pc).copies, x.uid = pc.uid → x.orphan = true) ∧
    (let s : State := { at0 pc with copies := [(at0 pc).newCopy pc 5 false (shapeOf pd) (shapeOf ps)] }
     Yields s pc [5] ∧ ∃ x ∈ s.copies, x.uid = pc.uid ∧ x.orphan = false) := by
  refine ⟨by decide +kernel, by decide +kernel, by decide +kernel, _, List.mem_singleton.mpr rfl, by decide +kernel, by decide +kernel⟩

/-- Two nodes of arity 1 and 2 at 0x10000 and 0x10040. -/
def nc : Ctx := regs light [(1, 0x10000), (2, 0x10040), (3, 0x10010), (4, 0x10058), (5, 0x1001)]

/-- Net 0 of tenant 0, whose channel 3 takes tasks at 0x9000. -/
def rn : Net :=
  { tenant := 0, chans := (List.range 16).map fun i => if i = 3 then ⟨0x9000, 2, 1, 4, 0, false⟩ else ⟨0, 0, 0, 0, 0, false⟩,
    classes := List.replicate 64 (0, 0), power := 0, efoot := 2, arenaBase := 0x100000, arenaSize := 0x10000, fresh := 0, free := [],
    table := none, xhand := 0, defLease := 0, history := [], held := [] }

/-- The state with both nodes in memory. -/
def ns : State := { at0 nc with mem := (Mem.writeN [] 0x10000 8 0x1001).writeN 0x10040 8 0x2002 }

theorem witness_NodeForms : Runs ns nc [] [5, 1, 2, 3, 4] [] ∧ nc.heavy = false ∧ (nc.rs 1).toNat % 64 = 0 ∧ (nc.rs 2).toNat % 64 = 0 ∧
    ns.translateAll nc .write [0x10000] = .all [0x10000] ∧ ns.nodeReady nc 0x10000 ∧ hdrClaimed (ns.headerOf 0x10000) = false ∧
    hdrOk (nc.rs 5).toNat = true ∧ (nc.rs 3).toNat ≠ (nc.rs 4).toNat ∧
    ns.translateAll nc .read [0x10010, 0x10058] = .all [0x10010, 0x10058] ∧ ns.nodeReady nc 0x10010 ∧ ns.nodeReady nc 0x10058 ∧
    ns.namesPort 0x10010 0x10010 ∧ ns.namesPort 0x10058 0x10058 ∧ portState (ns.nodeWord 0x10010) = 0 ∧ portState (ns.nodeWord 0x10058) = 0 ∧
    hdrClaimed (ns.headerOf 0x10058) = false ∧ ns.translateAll nc .read [0x10010] = .all [0x10010] ∧
    ns.translateAll nc .write [0x10000, 0x10040] = .all [0x10000, 0x10040] := by decide +kernel

theorem witness_NodeForms_nalloc :
    (((at0 nc).modCore 0 fun k => { k with freeNodes := some (0, [0x20000]) }).core nc.cur).freeNodes = some (nc.net, [0x20000]) ∧
    (at0 nc).translateAll nc .write [0x20000] = .all [0x20000] ∧ hdrOk (nc.rs 5).toNat = true ∧ ((at0 nc).core 0).freeNodes = none ∧
    Runs (at0 nc) nc [] [6, 5, 0] [] := by decide +kernel

/-- One rule entry at 0x2000 (R251): handler 0x8000, types 1 and 2. -/
def rc : Ctx := regs light [(1, 0x2000), (2, 1 + 16 * 2 ^ 32), (3, 0x4000)]

def rs : State := { at0 rc with mem := Mem.writeN [] 0x2000 16 (0x8000 + 1 * 2 ^ 64 + 2 * 2 ^ 76), nets := [(0, rn)] }

/-- The entries that are read, and the table they make. -/
def entries : State × List (List Byte) × Option Nat := rs.readEntries rc [(0x2000, 0x2000)]

theorem witness_NodeForms_rtset : Runs rs rc [] [3, 1, 2] [] ∧ rc.heavy = false ∧ rtsetReserved (1 + 16 * 2 ^ 32) 0x4000 = false ∧
    rs.translateAll rc .read (pagesOf [0x2000]) = .all [0x2000] ∧ rs.accs = [] ∧ rs.lineHere 0x2000 rc.acqPod = true ∧ entries.2.2 = none ∧
    checkRules 16 entries.2.1 [] = .ok [ruleOf (entries.2.1.headD [])] ∧ rtsetReserved 0 0 = false ∧ pagesOf [] = [] := by decide +kernel

/-- A descriptor of a rewriting-free commit at 0x50000: region 0x50100 of 256 bytes (R259). -/
def hc : Ctx := { regs heavyTask [(1, 7), (2, 0), (3, 0x50000), (4, 0x50F00)] with firing := some 0 }

def hs : State :=
  (at0 hc).modCore 0 fun k => k.write 0x50000 (bytesOf 64 (0x50100 + 256 * 2 ^ 20 + 2 ^ 63))

/-- A message for channel 3 of core 5 at the last place of local memory, a spawn of one lease unit, and the descriptor. -/
def tc : Ctx := regs light [(1, 3 + 5 * 2 ^ 4), (2, 0x7FFE0), (3, 0x8000), (4, 2016 * 2 ^ 16 + 2 * 2 ^ 6)]

/-- The same state with net 0, whose channel 3 takes tasks. -/
def ts : State := { at0 tc with nets := [(0, rn)] }

theorem witness_TaskForms : Yields ts tc [] ∧ ts.Keyed ∧ ts.working tc = false ∧ Runs ts tc [] [1, 2, 3, 4] [] ∧ tc.heavy = false ∧
    (tc.rs 1).toNat % 16 ≠ 15 ∧ (tc.rs 1).toNat / 2 ^ 26 % 2 ^ 38 = 0 ∧ validCid ((tc.rs 1).toNat / 2 ^ 4 % 2 ^ 12) = true ∧
    (tc.rs 2).toNat % 16 = 0 ∧ (tc.rs 2).toNat ≤ 0x7FFE0 ∧ ts.quiet tc = true ∧ (tc.rs 1).toNat / 2 ^ 25 % 2 = 0 ∧
    ts.channel 3 = some (0, ⟨0x9000, 2, 1, 4, 0, false⟩) ∧ (tc.rs 4).toNat / 2 ^ 6 % 4 ≠ 3 ∧ (tc.rs 4).toNat / 2 ^ 16 % 2 ^ 12 ≤ 2016 ∧
    (tc.rs 3).toNat % 4 = 0 := by decide +kernel

/-- A command of a context in the matrix queue of its core. -/
def busyWith (c : Ctx) (s : State) : State :=
  s.modCore 0 fun k => { k with mq := [{ id := 5, uid := c.uid, key := 0, launch := 0, heavy := c.heavy, op := .mzero 0 }] }

theorem witness_TaskForms_held : Yields (busyWith tc ts) tc [] ∧ (busyWith tc ts).working tc = true ∧ Yields (busyWith hc hs) hc [3, 1, 2] ∧
    (busyWith hc hs).working hc = true := by decide +kernel

theorem witness_TaskForms_commit : Yields hs hc [3, 1, 2] ∧ hc.heavy = true ∧ hc.owns 0x50000 64 = true ∧ (hc.rs 3).toNat % 64 = 0 ∧ (hc.rs 3).toNat ≤ 0x7FFC0 ∧ hs.Keyed ∧
    (hs.core 0).poisoned 0x50000 64 = false ∧
    commitOk 7 0 (descrOf ((hs.core 0).lm.readBytes 0x50000 64)) (hs.pairArity hc) = true ∧
    hc.owns (descrOf ((hs.core 0).lm.readBytes 0x50000 64)).rbase (descrOf ((hs.core 0).lm.readBytes 0x50000 64)).rlen = true ∧
    hs.working hc = false ∧ hs.quiet hc = true := by decide +kernel

/-- The greatest region and the zero form of `tnew`, the bounds of `pwreq`, the last granule for `workq`, discovery word 255. -/
theorem witness_RequestForms :
    (let c := regs light [(1, 0x70000 + 65536 * 2 ^ 20), (2, 16 * 2 ^ 20 + 2 ^ 63), (3, 255), (4, 0x7FFF0), (5, 7)]
     Runs (at0 c) c [] [6, 1, 2, 3, 4, 5] [] ∧ c.heavy = false ∧ (c.rs 1).toNat % 2 ^ 19 + (c.rs 1).toNat / 2 ^ 20 % 2 ^ 17 ≤ 0x80000 ∧
       (c.rs 1).toNat / 2 ^ 37 % 2 ^ 26 = 0 ∧ 2 ^ 63 ≤ (c.rs 2).toNat ∧ (c.rs 2).toNat % 2 ^ 19 = 0 ∧ (c.rs 3).toNat ≤ 255 ∧
       c.mayTouch ((c.rs 4).toNat / 16 * 16) 16 ∧ (c.rs 4).toNat % 16 = 0 ∧ (c.rs 4).toNat + 16 ≤ 0x80000 ∧ (c.rs 5).toNat / 2 ^ 4 % 4 ≠ 3) := by
  decide +kernel

/-- With a handler, inside it, and without one. -/
theorem witness_TrapForms :
    (let c := { small with xhand := 0x4000 }
     Runs (at0 c) c [] [1] [] ∧ c.intrap = false ∧ c.xhand ≠ 0) ∧
    (let c := { small with xhand := 0x4000, intrap := true, xpc := 0x1008 }
     Runs (at0 c) c [] [1] [] ∧ c.intrap = true ∧ ((at0 c).past c [] c).ctx c.key ≠ none) ∧
    (Runs (at0 small) small [] [1] [] ∧ small.intrap = false ∧ small.xhand = 0) := by decide +kernel

theorem witness_FaultEndsLaunch : (at0 small).Keyed ∧ small.firing = none ∧ (at0 small).launches.find small.launch = some fetchLaunch ∧
    fetchLaunch.phase = .live := by decide +kernel

/-! ### Translation, contexts, accesses -/

/-- Process 3 of tenant 9: its table at 0x100030, pointers, and an entry for the page 0x123456789A, which a context wants to read. -/
def wk : Walk := ⟨5, 3, 0x123456789A, 0, 9, [⟨1, 0, 0x123456789A * 65536 + 8, .read, false⟩], []⟩

/-- The tables of the walk and their entries, by level, with the last entry `q` at level `z`. -/
def wt (l : Nat) : Nat := 0x200000 + 0x1000 * (4 - l)
def wp (z q l : Nat) : Nat := if l = z then q else wt (l - 1) + 1

/-- The index of the walk's page at a level (R303). -/
def wi (l : Nat) : Nat := if l = 0 then 0x123456789A * 65536 / 2 ^ 16 % 32 else 0x123456789A * 65536 / 2 ^ (12 + 9 * l) % 512

def ws (z q : Nat) : State :=
  { at0 light with
    cfg := { MemCfg.reset with ptEn := true, ptBase := 0x100000 }, walks := [wk], item := 5
    mem := (List.range 5).foldl (fun m l => if l < z then m else Mem.writeN m (wt l + 8 * wi l) 8 (wp z q l))
      (Mem.writeN [] 0x100030 16 (1 + 0x200000 + 9 * 2 ^ 64)) }

/-- What the reading of the process table and of `n` levels behind it leaves. -/
def wread (s : State) : Nat → State
  | 0 => (s.tableRead (s.cfg.ptBase + 16 * wk.pid) 16).1
  | n + 1 => ((wread s n).tableRead (wt (4 - n) + 8 * wi (4 - n)) 8).1

/-- What a leaf at level `z` caches. -/
def wleaf (z q : Nat) : XEntry :=
  let n := if z = 0 then 16 else 12 + 9 * z
  ⟨3, n, 0x123456789A * 65536 / 2 ^ n, q / 2 ^ n, q / 2 ^ 2 % 2 == 1, q / 2 ^ 3 % 2 == 1, q / 2 ^ 4 % 2 == 1⟩

/-- Levels and entries: leaves at level 0, 1 and 2, an absent page, a leaf at level 4, and a leaf for the supervisor only. -/
def wcases : List (Nat × Nat) := [(0, 0x7650000 + 7), (1, 5 * 2 ^ 21 + 7), (2, 3 * 2 ^ 30 + 7), (2, 32), (4, 3), (0, 0x7650000 + 19)]

theorem witness_Translation : (at0 light).translate light 0x1234 .read = .at 0x1234 ∧
    (let s := (at0 light).installEntry 0 ⟨0, 16, 0x12, 0x34, true, true, false⟩
     ({ s with cfg := { s.cfg with ptEn := true } } : State).translate light 0x12FFFF .write = .at 0x34FFFF) ∧
    wt 4 = 0x200000 := by decide +kernel

theorem witness_Translation_walk : ∀ p ∈ wcases,
    let s := ws p.1 p.2
    let e := 1 + 0x200000 + 9 * 2 ^ 64
    s.walks.find? (fun x => x.id == s.item) = some wk ∧ s.walks.length ≤ 256 ∧ p.1 < 5 ∧
    s.tableRead (s.cfg.ptBase + 16 * wk.pid) 16 = (wread s 0, .data e) ∧ (e / 2 ^ 12 % 2 ^ 44 * 2 ^ 12 = wt 4 ∧ e / 2 % 2 ^ 11 = 0 ∧ e / 2 ^ 64 = wk.tenant) ∧
    (∀ l, l < 5 → p.1 ≤ l → (wread s (5 - (l + 1))).tableRead (wt l + 8 * wi l) 8 = (wread s (5 - l), .data (wp p.1 p.2 l)) ∧ paSpace (wt l + 8 * wi l) < 2 ∧
      s.isPeer (wt l + 8 * wi l) = false) ∧
    ∀ l, l < 5 → p.1 < l → wp p.1 p.2 l % 2 = 1 ∧ wp p.1 p.2 l / 2 % 2 = 0 ∧ wp p.1 p.2 l / 2 ^ 6 % 4 = 0 ∧ wp p.1 p.2 l < 2 ^ 56 ∧
      wp p.1 p.2 l / 2 ^ 8 % 2 ^ 4 = 0 ∧ wt (l - 1) = wp p.1 p.2 l / 2 ^ 8 * 2 ^ 8 := by decide +kernel

/-- The three good leaves serve the context that waits, the last one does not; a process table without an entry. -/
theorem witness_Translation_leaves :
    (∀ p ∈ wcases.take 3, p.2 % 2 = 1 ∧ p.2 / 2 % 2 = 1 ∧ p.2 < 2 ^ 56 ∧ p.2 / 2 ^ 6 % 4 = 0 ∧ p.2 % 2 ^ (wleaf p.1 p.2).pbits / 256 = 0 ∧
      ((wread (ws p.1 p.2) (5 - p.1)).useEntry (wleaf p.1 p.2) (0x123456789A * 65536 + 8) .read false).isSome = true) ∧
    ((wread (ws 0 (0x7650000 + 19)) 5).useEntry (wleaf 0 (0x7650000 + 19)) (0x123456789A * 65536 + 8) .read false).isSome = false ∧
    (let s : State := { ws 0 0 with mem := [] }; s.tableRead (s.cfg.ptBase + 16 * wk.pid) 16 = (wread s 0, .data 0)) := by decide +kernel

/-- A context that waits for a page, with words left and without. -/
theorem witness_Translation_waits : ∀ n ∈ [0, 4096],
    let c := { light with used := n }
    let s : State := { at0 c with cfg := { MemCfg.reset with ptEn := true } }
    let w : Waiter := ⟨1, c.issuedAt, 0x9000, .read, false⟩
    s.waiting w = some c ∧ s.launches.find c.launch = some fetchLaunch ∧
    (if n = 0 then c.used + (s.groupAt c).1 ≤ c.limit else c.limit < c.used + (s.groupAt c).1) ∧ freeWord (s.groupAt c).2 = false := by
  decide +kernel

/-- A page request that waits, a full queue, and one with room at its end. -/
theorem witness_Translation_requests :
    (State.reset.mem.readN (0 + 32 * ((0 + 0) % 128)) 32 = 0 ∧ 0 < min ((1 + 2 ^ 20 - 0) % 2 ^ 20) 128) ∧ 2 ^ (min MemCfg.reset.prqLog 12 + 7) = 128 ∧
    (∀ i, i < 128 → (Mem.readN [] (32 * (i % 128)) 32) ≠ 5) ∧ 128 ≤ (128 + 2 ^ 20 - 0) % 2 ^ 20 ∧ (0 + 2 ^ 20 - (2 ^ 20 - 127)) % 2 ^ 20 < 128 := by
  decide +kernel

/-- A context with a watchdog due, a parked one whose wait is over in the next cycle, and one marked for migration to core 1. -/
def due : Ctx := { light with due := some (.watchdog 7) }
def parked : Ctx := { light with st := .parked, wait := some (.fewait 3), waitlim := 9, parkPc := 0x1004 }
def marked : Ctx := { light with migMark := true, predC := 9, predH := some 1, foot := 0 }

theorem witness_ContextEvents : (at0 due).ctx (at0 due).item = some due ∧ (at0 parked).ctx (at0 parked).item = some parked ∧
    (at0 parked).inWait parked = true ∧ (at0 { parked with st := .spilled }).inWait { parked with st := .spilled } = true ∧
    (at0 marked).ctx (at0 marked).item = some marked ∧ (at0 marked).migrates marked = true ∧
    (let s : State := { at0 light with item := 1, kills := [1] }
     s.Keyed ∧ s.kills.contains s.item = true ∧ s.byUid s.item = some light ∧ light.firing = none) ∧
    ((at0 light).core 0).current = none ∧ (at0 light).readyOn 0 ≠ [] ∧
    (let other := { light with uid := 3, slot := 1 }
     let s : State := { State.reset with ctxs := [(light.key, light), (other.key, other)] }
     s.readyOn 0 = [light, other] ∧ light.readyAt = other.readyAt ∧ light.slot < other.slot) ∧
    (let c := { light with used := 4096 }
     (at0 c).issuer = some c ∧ c.limit < c.used + groupWords [] ∧ blocks [31, 1, 2] [] (at0 c) c = false ∧ (at0 c).ctx (at0 c).item = some c) := by
  decide +kernel

/-- A heavy firing's task at the launch port of core 0, and one of greater priority behind it. -/
def portTask (id prio lease : Nat) : Task :=
  { id := id, kind := .entry, launch := 0, net := 0, tenant := 0, prio := prio, handler := 0x8000, vals := [7, 8], foot := 2, heavy := lease != 0,
    tclass := 0, lease := lease, firing := none, dataAddr := 0x123480, apart := none, entered := 0 }

def ported : State := { at0 light with nets := [(0, rn)] }.modCore 0 fun k => { k with lport := [portTask 3 1 0, portTask 4 2 0x1000] }

theorem witness_ContextEvents_port : ported.Keyed ∧ ported.unitFree 0 = true ∧ ported.selectStart 0 = some (.source 16 (some 2)) ∧
    (ported.core 0).portItem = some (portTask 4 2 0x1000) ∧ ported.running 0 = true ∧ ported.mustClear 0 0 = false ∧
    ported.granulesOk 0 (footGranules 2) false = true := by decide +kernel

/-- A net whose rule takes types 2 and 1 to a heavy task, and a pair of nodes of types 1 and 2 in the bag of core 0. -/
def fireRule : Rule := ⟨0x8000, 2, 1, true, 5, 3, 2, 4⟩

def firingState : State :=
  { ns with nets := [(0, { rn with table := some [fireRule], chans := rn.chans.set 15 ⟨0, 1, 0, 4, 2, false⟩ })] }.modCore 0 fun k =>
    { k with bag := [⟨0x10000, 0x10040, 0, 0, 0⟩] }

theorem witness_ContextEvents_pair :
    let s := firingState
    let u := s.setCore s.item { s.core s.item with
      bag := [], clearing := none, unitAt := s.cyclesOf s.item + 4, idleSince := none, rr := (s.core s.item).rr.setIfInBounds 1 15 }
    s.item = 0 ∧ s.Keyed ∧ s.unitFree 0 = true ∧ s.selectStart 0 = some (.source 15 (some 1)) ∧ (s.core 0).bag = [⟨0x10000, 0x10040, 0, 0, 0⟩] ∧
    s.launches.find 0 = some fetchLaunch ∧ s.running 0 = true ∧ s.mustClear 0 0 = false ∧
    s.granulesOk 0 (footGranules 2) (s.hasBudget 15) = true ∧ s.firable ⟨0x10000, 0x10040, 0, 0, 0⟩ = some ⟨0x10000, 0x10040, some (0, fireRule)⟩ ∧
    u.firable ⟨0x10000, 0x10040, 0, 0, 0⟩ = some ⟨0x10000, 0x10040, some (0, fireRule)⟩ ∧ hdrType (u.nodeWord 0x10000) ≠ fireRule.typeA := by
  decide +kernel

/-- A context of core 0 to be filled. -/
def fillable : Ctx := { light with st := .spilled }

/-- A message for channel 3 of core 0, and the state in which it waits. -/
def letter : Msg := ⟨4, 0, 0, 0, 0, 0, 3, (List.range 32).map (BitVec.ofNat 8), 0, 6, 1, none, none⟩

def letters : State := (({ at0 light with nets := [(0, rn)] }).modCore 0 fun k => { k with chans := [(3, [letter])] })

theorem witness_ContextEvents_starts :
    ((at0 fillable).unitFree 0 = true ∧ (at0 fillable).selectStart 0 = some (.fill 0) ∧ (at0 fillable).ctx 0 = some fillable ∧
      ((at0 fillable).fillRoom (at0 fillable).item fillable).isSome = true) ∧
    (letters.Keyed ∧ letters.unitFree 0 = true ∧ letters.selectStart 0 = some (.source 3 (some 2)) ∧ (letters.core 0).chans.getD 3 [] = [letter] ∧
      letters.attrOf 3 = some ⟨0x9000, 2, 1, 4, 0, false⟩ ∧ letters.mustClear 0 letter.tenant = false ∧
      letters.granulesOk 0 (footGranules 0) (letters.hasBudget 3) = true) ∧
    (let s := { letters with ctxs := [] }.modCore 0 fun k => { k with lastTenant := some 7 }
     s.Keyed ∧ s.unitFree 0 = true ∧ s.selectStart 0 = some (.source 3 (some 2)) ∧ (s.core 0).chans.getD 3 [] = [letter] ∧
      s.attrOf 3 = some ⟨0x9000, 2, 1, 4, 0, false⟩ ∧ s.mustClear 0 letter.tenant = true ∧ (s.core 0).lm.wf = true) := by decide +kernel

/-- An access of `light` to a doubleword at 0x3000. -/
def acc (op : AccOp) (d : Dest) : Access :=
  { id := 5, grp := 5, uid := 1, key := 0, launch := 0, net := 0, tenant := 0, cid := 0, op := op, elems := [⟨0x3000, 0x3000, 8, 77, 0⟩],
    ord := ⟨0, 0, 0⟩, dest := d, sx := true, answer := none, sent := false }

/-- The state in which it is in flight. -/
def flying (a : Access) : State := { at0 light with accs := [a], item := 5, mem := Mem.writeN [] 0x3000 8 0x123456789ABCDEF0 }

/-- It may be performed. -/
abbrev performable (s : State) (a : Access) : Prop :=
  s.acc s.item = some a ∧ a.answer = none ∧ s.inOrder a = true ∧ ∀ x ∈ a.elems, s.isPeer x.pa = false

theorem witness_AccessEvents_performed :
    (let a := acc .load (.sreg 7); performable (flying a) a ∧
      ∀ x ∈ a.elems, ((flying a).readElem a x).2.2 = false) ∧
    (let a := acc .store .none; performable (flying a) a ∧ a.ord.ord ≠ 3) ∧
    (let a := acc (.nst 0) .none; performable (flying a) a ∧ a.ord.ord ≠ 3 ∧ (flying a).heldByOther 0 0x3000 = false) ∧
    (let a := acc (.amo 0) (.sreg 7); performable (flying a) a ∧ (flying a).hostLost 0x3000 = false ∧
      (((flying a).flushLine ((flying a).home 0x3000) (0x3000 / 128)).sRead 0x3000 8).2.2 = false) ∧
    (let a := { acc (.amo 0) (.sreg 7) with elems := [⟨2 ^ 46, 2 ^ 46, 8, 77, 0⟩] }; performable (flying a) a ∧
      (flying a).hostLost (2 ^ 46) = true) := by decide +kernel

/-- A comparing atomic of 8 and 16 bytes, a vector load of two lanes, and a poisoned word. -/
theorem witness_AccessEvents_others :
    (∀ p ∈ [(8, Dest.sreg 7), (16, .pair 6)],
      let a := { acc (.cas 5) p.2 with elems := [⟨0x3000, 0x3000, p.1, 77, 0⟩] }
      performable (flying a) a ∧ a.ord.ord ≠ 3 ∧ a.dest ≠ .none ∧ (flying a).hostLost 0x3000 = false ∧
        (((flying a).flushLine ((flying a).home 0x3000) (0x3000 / 128)).sRead 0x3000 p.1).2.2 = false) ∧
    (let a := { acc .load (.vreg 5 2) with elems := [⟨0x3000, 0x3000, 4, 0, 0⟩, ⟨0x3004, 0x3004, 4, 0, 63⟩] }
     performable (flying a) a ∧ (State.readElems a a.elems (flying a)).2.2 = none ∧
       ∀ bad ∈ [0x600], (State.readElems a a.elems { flying a with poison := [bad] }).2.2 = some 0x3000) := by decide +kernel

/-- A reduction of core 0 at the greatest doubleword of a host page, and one in memory. -/
def red (pa : Nat) : Red := ⟨5, 1, 0, pa, 0, 8, 77, ⟨0, 0, 0⟩, 0, false⟩

def reducing (pa : Nat) : State := (at0 light).modCore 0 fun k => { k with reds := [red pa] }

theorem witness_AccessEvents_reductions :
    (∀ pa ∈ [0x3000, 2 ^ 46 + 0xFFF8], ((reducing pa).core 0).reds = [red pa] ∧ (reducing pa).redInOrder (red pa) = true ∧
      (reducing pa).isPeer pa = false) ∧
    (reducing (2 ^ 46 + 0xFFF8)).hostLost (2 ^ 46 + 0xFFF8) = true ∧ (reducing 0x3000).hostLost 0x3000 = false ∧
    (((reducing 0x3000).flushLine ((reducing 0x3000).home 0x3000) (0x3000 / 128)).sRead 0x3000 8).2.2 = false := by decide +kernel

/-- Tile 1 of tenant 0 with its version 4. -/
def tile : Tile :=
  { tenant := 0, cur := 4, size := 4, vers := [(4, [1, 2, 3, 4])], bad := [], pins := [], pulling := none, heldC := [], cluster := 0, tainted := [] }

theorem witness_AccessEvents_results :
    (let a := { acc .load (.sreg 7) with answer := some (.val 3) }; (flying a).Keyed ∧ (flying a).acc 5 = some a ∧ (flying a).byUid a.uid = some light) ∧
    (let a := { acc .load (.sreg 7) with answer := some (.poisoned 3) }; (flying a).acc 5 = some a ∧ light.pend = none) ∧
    (let a := { acc (.tver 1) (.sreg 31) with elems := [] }
     let s : State := { flying a with tiles := [(1, tile)] }
     s.acc 5 = some a ∧ s.inOrder a = true ∧ s.tileOf a.tenant 1 = some tile) ∧
    (let a := { acc (.tnew 4 [1, 2, 3, 4] []) (.sreg 31) with elems := [] }
     (flying a).acc 5 = some a ∧ (flying a).tiles.length < 2 ^ 40 - 1) := by decide +kernel

/-- A line that a slice holds, or has room for; one that the home core's cache holds with a stored byte; and a line of another package. -/
def sliced : State := { at0 light with slices := [⟨0x60, 1, 0, 0⟩] }

def cached : State := (at0 light).modCore 7 fun k => { k with dcache := [⟨0x60, 5, 1, 0, 0, 9⟩] }

theorem witness_AccessEvents_memory :
    (at0 light).MemOk ∧ [1#8] ≠ [] ∧ 0x307F % 128 + [1#8].length ≤ 128 ∧ (at0 light).isPeer 0x307F = false ∧ paSpace 0x307F < 2 ∧
    canonPa 0x307F = 0x307F ∧ (at0 light).cfg.injArm = false ∧ (at0 light).poison = [] ∧ paSpace (2 ^ 46 + 8) = 2 ∧ canonPa (2 ^ 46 + 8) = 2 ^ 46 + 8 ∧
    ((at0 light).sliceLine (0x307F / 128) = none ∧
      ((at0 light).sliceSet (clusterOf ((at0 light).home 0x3000)) (0x60 % 1024)).length +
        (at0 light).transitWays (clusterOf ((at0 light).home 0x3000)) (0x60 % 1024) ≤ 15) ∧
    sliced.sliceLine (0x307F / 128) = some ⟨0x60, 1, 0, 0⟩ ∧ ((at0 light).isPeer (33 * 2 ^ 47 + 8) = true ∧
      ({ at0 light with peerLines := [⟨33 * 2 ^ 40, 5, 0, 0, 0, 0, true⟩] } : State).peerLine (33 * 2 ^ 40) =
        some ⟨33 * 2 ^ 40, 5, 0, 0, 0, 0, true⟩) ∧
    (cached.core 7).cached (0x307F / 128) = some ⟨0x60, 5, 1, 0, 0, 9⟩ ∧ cached.MemOk ∧ paSpace (128 * 0x60) < 2 ∧ cached.isPeer (128 * 0x60) = false := by
  decide +kernel

/-- A pair of registers, the first and last lane of a register that is not bound, and of one that is bound to a push stream. -/
theorem witness_AccessEvents_wide :
    (let a := { acc (.cas 5) (.pair 6) with answer := some (.pair 3 4) }
     (flying a).Keyed ∧ (flying a).acc 5 = some a ∧ (flying a).byUid a.uid = some light) ∧
    (let l : List (Nat × W32) := [(0, 5), (63, 6)]
     (l.map Prod.fst).Nodup ∧ (∀ p ∈ l, p.1 < 64) ∧
     (let a := { acc .load (.vreg 31 2) with answer := some (.lanes l) }; (flying a).acc 5 = some a ∧ light.slotOf 31 = none) ∧
     (let a := { acc .load (.vreg 2 2) with answer := some (.lanes l) }
      let s : State := { at0 sc with accs := [a], item := 5 }
      s.Keyed ∧ s.acc 5 = some a ∧ s.byUid a.uid = some sc ∧ ((sc.slotOf 2).map fun x => x.push) = some true ∧
        ∀ b ∈ s.accs, b.grp = a.grp → b.id = a.id)) := by decide +kernel

/-- A store of `light` on its way to core 1. -/
def remote : Remote := ⟨5, 1, 0, 1, 0x100, 8, 1, 77, false, 0, 1, 0x1234⟩

def remoteAt (f : Core → Core) : State := { at0 light with remotes := [remote], item := 5 }.modCore 1 f

theorem witness_AccessEvents_remote :
    (∀ f ∈ [fun k => k, fun k => { k with leases := [⟨0x100, 256, 9, 0⟩] }, fun k : Core => { k with tags := [(0x20, 0)] }],
      (remoteAt f).remotes.find? (fun x => x.id == (remoteAt f).item) = some remote ∧ (remoteAt f).byUid remote.uid = some light ∧
        ((remoteAt f).core 1).failed = false ∧ ((remoteAt f).core 1).gated = false) ∧
    ((remoteAt fun k => { k with failed := true }).core 1).failed = true ∧
    ((remoteAt fun k => { k with leases := [⟨0x100, 256, 9, 0⟩] }).core 1).guarded 1 0x100 8 = true ∧
    ((remoteAt fun k => { k with tags := [(0x20, 0)] }).core 1).guarded 1 0x100 8 = false ∧
    ((remoteAt fun k => { k with tags := [(0x20, 0)] }).core 1).tagged 0x100 8 = true ∧
    ((remoteAt fun k => k).core 1).guarded 1 0x100 8 = false ∧ ((remoteAt fun k => k).core 1).tagged 0x100 8 = false ∧
    (remoteAt fun k => k).matrixReads 1 [(0x100, 8)] = false := by
  refine ⟨?_, ?_⟩
  · intro f hf
    simp only [List.mem_cons, List.not_mem_nil, or_false] at hf
    rcases hf with rfl | rfl | rfl <;> decide +kernel
  · decide +kernel

/-- A load from core 1, and an arrival at a tagged word there and at one that is not. -/
theorem witness_AccessEvents_remote_others : ∀ p ∈ [(0, []), (2, []), (2, [(0x20, 0)])],
    let r := { remote with kind := p.1 }
    let s : State := { at0 light with remotes := [r], item := 5 }.modCore 1 fun k => { k with tags := p.2 }
    s.remotes.find? (fun x => x.id == s.item) = some r ∧ s.byUid r.uid = some light ∧ (s.core 1).failed = false ∧ (s.core 1).gated = false ∧
      ((s.core 1).tags.find (r.addr / 8)).isSome = !p.2.isEmpty := by decide +kernel

/-! ### Work of a launch, engines, hedging, the weir -/

/-- A pair of the launch 0. -/
def pair (n : Nat) : Pair := ⟨0x10000 + 64 * n, 0x20000 + 64 * n, 0, 0, 0⟩

/-- Core 0 with a bag and a ring. -/
def bagged (b r : Nat) : State :=
  (at0 light).modCore 0 fun k => { k with bag := (List.range b).map pair, ring := (List.range r).map fun i => pair (b + i) }

/-- A barge for core 1. -/
def barge : Barge := ⟨5, [pair 0, pair 1], 1, 0⟩

theorem witness_LaunchEvents_pairs :
    (((bagged 127 65).core (bagged 127 65).item).bag.length < 128 ∧ ((bagged 127 65).core 0).ring ≠ [] ∧ ∀ p ∈ (bagged 127 65).pushes, p.1 ≠ 0) ∧
    (let s : State := { bagged 3 60 with layers := [(0, { Layer.reset with cycles := 256 })] }
     (s.layer s.item).failed = false ∧ (s.layer s.item).reports < (s.layer s.item).cycles / 256 ∧
      ∀ p ∈ s.cores, layerOf p.1 = s.item → p.2.bag.length + p.2.ring.length < 64) ∧
    ((bagged 70 0).receiver 0 = some 1 ∧ ((bagged 70 0).core 0).bag ≠ []) ∧
    (let s : State := { (at0 light).modCore 1 (fun k => k) with barges := [barge], item := 5 }
     s.barges.find? (fun x => x.id == s.item) = some barge ∧ layerOf barge.dst = barge.srcLayer ∧ (s.core barge.dst).failed = false ∧
      (s.core barge.dst).gated = false ∧ (s.core barge.dst).bag.length + barge.pairs.length ≤ 256) := by decide +kernel

/-- An entry task whose data lies at 0x123480. -/
def entryTask : Task :=
  { id := 5, kind := .entry, launch := 0, net := 0, tenant := 0, prio := 1, handler := 0x8000, vals := [0x123480], foot := 2, heavy := false,
    tclass := 0, lease := 0, firing := none, dataAddr := 0x123480, apart := none, entered := 0 }

/-- A request for counter 15 of launch 0. -/
def ask (op : Nat) : WorkReq := ⟨5, 1, false, 0, 0, 15, op, 2 ^ 32 - 1, 63, 0x7FFF0⟩

/-- A launch of net 0 that has been accepted. -/
def accepted : Launch := { fetchLaunch with phase := .accepted, handler := 0x8000, payload := List.replicate 48 1, layers := [], tplace := none }

theorem witness_LaunchEvents_tasks :
    (let s : State := { at0 light with toPlace := [entryTask], item := 5 }
     s.toPlace.find? (fun x => x.id == s.item) = some entryTask ∧ s.roomAt entryTask (ownerOf entryTask.dataAddr) = true) ∧
    (∀ op, op < 3 → ∀ l ∈ [fetchLaunch, { fetchLaunch with phase := .ending }],
      let s : State := { at0 light with workReqs := [ask op], item := 5, launches := [(0, l)] }
      s.workReqs.find? (fun x => x.id == s.item) = some (ask op) ∧ (∀ x ∈ s.workReqs, x.uid = (ask op).uid → (ask op).id ≤ x.id) ∧
        (s.core (ask op).cid).gated = false ∧ s.running (ask op).launch = (l.phase == .live)) ∧
    (let s : State := { at0 light with msgs := [letter], item := 4 }
     s.msgs.find? (fun x => x.id == s.item) = some letter ∧
      (∀ x ∈ s.msgs, x.uid = letter.uid → x.cid = letter.cid → x.chan = letter.chan → letter.id ≤ x.id) ∧ (s.core letter.cid).gated = false ∧
      (s.core letter.cid).failed = false ∧ s.running letter.launch = true) ∧
    (let s : State := { State.reset with launches := [(0, accepted)] }
     s.launches.find s.item = some accepted ∧ accepted.isLaunch = true ∧ s.peersClean = true ∧ ∀ d ∈ accepted.deps, s.launches.find d = none) ∧
    (let s : State := { State.reset with launches := [(0, fetchLaunch)] }
     s.launches.find s.item = some fetchLaunch ∧ s.liveCount s.item = 0 ∧ (s.flushLaunch fetchLaunch).peersClean = true ∧
      ((s.counts s.item).map Prod.fst).sum = ((s.counts s.item).map Prod.snd).sum) ∧
    (let s : State := { State.reset with launches := [(0, { fetchLaunch with phase := .ending })] }
     s.liveCount s.item = 0) := by decide +kernel

/-- A copy of 64 words from 0x1000 to 0x3000. -/
def hop : Copy :=
  (at0 light).newCopy light 5 false ⟨0x3000, 2, 0, 0, [(64, 4)], 0⟩ ⟨0x1000, 2, 0, 0, [(64, 4)], 0⟩

def hopping (x : Copy) : State := { at0 light with copies := [x], item := 10 }

/-- The run of its first granule. -/
def run4 : List (Nat × Nat) := [(0x1000, 0x3000), (0x1004, 0x3004), (0x1008, 0x3008), (0x100C, 0x300C)]

theorem witness_CopyEvents :
    (let s := hopping hop
     s.copy s.item = some hop ∧ hop.status = none ∧ hop.stalled = none ∧ hop.sent = false ∧
      (∀ y ∈ s.copies, y.id < hop.id → y.sameQueue hop = true → y.status = none → y.sent = true ∧ y.xpkg = hop.xpkg) ∧ s.unordered hop.cid hop.claims = true ∧
      hop.src.space = 0 ∧ hop.dst.space = 0 ∧ hop.xpkg = none ∧ hop.bar = none ∧ hop.heavy = false ∧ (s.core hop.target).failed = false ∧
      (s.core hop.target).gated = false ∧
      ∀ m ∈ run4, (s.core hop.target).leased hop.uid m.2 4 = false ∧ (s.core hop.target).tagged m.2 4 = false) ∧
    (let x := { hop with src := ⟨1, 2, 2, 3, [(64, 4)], 0⟩ }
     let s : State := { hopping x with tiles := [(1, tile)] }
     s.copy s.item = some x ∧ s.tileOf x.tenant 1 = some tile ∧ (∀ p ∈ tile.pins, p.2 ≠ x.id) ∧ tile.vers.find 3 = none) ∧
    (let x := { hop with status := some (1, 9, 0x3000), next := 64 }
     let s := hopping x
     s.copy s.item = some x ∧ x.orphan = false ∧ x.norec = false ∧ (∀ y ∈ s.copies, y.sameQueue x = true → x.id ≤ y.id) ∧
      (s.core x.cid).recs.length < 256) := by decide +kernel

/-- An earlier copy to the same other package that has sent all, and a copy whose barrier word has lost its tag. -/
theorem witness_CopyEvents_waits :
    (let x := { hop with xpkg := some 33 }
     let y := { x with id := 9, sent := true }
     let s : State := { at0 light with copies := [y, x], item := 10 }
     s.copy s.item = some x ∧ y.id < x.id ∧ y.sameQueue x = true ∧ y.status = none ∧ x.sent = false ∧ y.sent = true ∧ y.xpkg = x.xpkg) ∧
    (let x := { hop with bar := some 0x100 }
     let s := hopping x
     s.copy s.item = some x ∧ x.src.space = 0 ∧ x.xpkg = none ∧ x.dst.space = 0 ∧ (s.core x.target).failed = false ∧ (s.core x.target).gated = false ∧
      (s.core x.barCore).tags.find (0x100 / 8) = none ∧ s.unordered x.cid x.claims = true) := by decide +kernel

theorem witness_CopyEvents_gone : (hopping { hop with bar := some 0x100 }).copyRun { hop with bar := some 0x100 } 16 hop.next [] = (run4, none) := rfl

theorem witness_CopyEvents_run : (hopping hop).copyRun hop 16 hop.next [] = (run4, none) := rfl

/-- A copy from the page at 0x10000, for which no walk has been made, or one that found it absent, or one that failed. -/
def lostCopy : Copy := { hop with src := ⟨0x10000, 2, 1, 0, [(64, 4)], 0⟩ }

def lost (l : List (EngAsk × Bool)) : State := { hopping lostCopy with cfg := { MemCfg.reset with ptEn := true }, engFaults := l }

theorem witness_CopyEvents_absent :
    (∀ l ∈ [[], [(⟨0, 0, 1, .read, false⟩, true)], [(⟨0, 0, 1, .read, false⟩, false)]], (lost l).copy (lost l).item = some lostCopy ∧
      (lost l).unordered 0 lostCopy.claims = true) ∧ lostCopy.src.space ≠ 2 ∧ lostCopy.xpkg = none ∧ lostCopy.own = none ∧
    (lost [(⟨0, 0, 1, .read, false⟩, true)]).copyRun lostCopy 16 lostCopy.next [] = ([], some (.absent 0x10000 .read)) ∧
    (lost []).copyRun lostCopy 16 lostCopy.next [] = ([], some (.miss 0x10000 .read)) ∧
    ((lost []).engineWalk ⟨0, 0, 1, .read, false⟩ 0).isSome = true ∧
    (lost [(⟨0, 0, 1, .read, false⟩, false)]).copyRun lostCopy 16 lostCopy.next [] = ([], some (.bad 1 0x0A 0x10000)) := by decide +kernel

/-- The same from 0x1FFF8: the first half of its first granule lies on a page whose station entry is there, the second half does not. -/
theorem witness_CopyEvents_split :
    let x := { hop with src := ⟨0x1FFF8, 2, 1, 0, [(64, 4)], 0⟩ }
    let s := fun l => { (hopping x).installEntry (stationOf 0) ⟨0, 16, 1, 1, true, true, false⟩ with
      cfg := { MemCfg.reset with ptEn := true }, engFaults := l }
    (s []).copyRun x 16 x.next [] = ([(0x1FFF8, 0x3000), (0x1FFFC, 0x3004)], some (.miss 0x20000 .read)) ∧
    ((s []).engineWalk ⟨0, 0, 2, .read, false⟩ 0).isSome = true ∧ (s []).unordered 0 x.claims = true ∧
    (s [(⟨0, 0, 2, .read, false⟩, true)]).copyRun x 16 x.next [] = ([(0x1FFF8, 0x3000), (0x1FFFC, 0x3004)], some (.absent 0x20000 .read)) := by
  decide +kernel

/-- `sc` before its first strip is staged, and after its first push. -/
def wanting : Ctx := { sc with slots := sc.slots.map fun x => { x with staged := [], pos := 0 } }
def pushed : Ctx := { sc with slots := sc.slots.map fun x => if x.push then { x with staged := [(0, ⟨7, none, none, 4⟩)], pos := 1 } else x }

/-- A core that lacks nodes of net 0, of which it holds `l`. -/
def lacking (l : List Nat) : State :=
  { at0 light with nets := [(0, rn)] }.modCore 0 fun k => { k with refill := [0, 7], freeNodes := some (0, l) }

/-- A context with a pop stream of one word of global memory, whose page has had no walk, or is absent. -/
def fetching : Ctx := { sc with slots := [⟨1, false, ⟨0x10000, 2, 1, 0, [(1, 4)], 0⟩, 0, [], 0, 3, []⟩] }

def strips (l : List (EngAsk × Bool)) : State := { at0 fetching with cfg := { MemCfg.reset with ptEn := true }, engFaults := l }

theorem witness_EngineEvents_global :
    (∀ l ∈ [[], [(⟨0, 0, 1, .read, false⟩, true)]], (strips l).Keyed ∧ (strips l).ctx 0 = some fetching ∧ (strips l).earlierPush 0 3 = false ∧ (strips l).unordered 0 ⟨3, [], []⟩ = true) ∧
    (∀ x ∈ fetching.slots, x.push = false ∧ x.shape.space = 1 ∧ x.wanted = some 0 ∧ x.shape.strip 0 = [(0x10000, 0)]) ∧
    (strips []).engineXlate 0 ((strips []).pidOf fetching) fetching.sup 0x10000 .read = .miss ∧
    ((strips []).engineWalk ⟨0, 0, 1, .read, false⟩ 0).isSome = true ∧
    (strips [(⟨0, 0, 1, .read, false⟩, true)]).engineXlate 0 0 false 0x10000 .read = .notPresent := by decide +kernel

/-- A strip of global memory that is all at hand, one whose line another package owns and which is not, and the same pushed. -/
theorem witness_EngineEvents_lines : ∀ a ∈ [0x10000, 33 * 2 ^ 47],
    let pop := { sc with slots := [⟨1, false, ⟨a, 2, 1, 0, [(1, 4)], 0⟩, 0, [], 0, 3, []⟩] }
    let push := { sc with slots := [⟨1, true, ⟨a, 2, 1, 0, [(1, 4)], 0⟩, 1, [(0, ⟨7, none, none, 4⟩)], 0, 3, [(0, a / 65536, a)]⟩] }
    (∀ x ∈ pop.slots, x.shape.strip 0 = [(a, 0)] ∧ x.wanted = some 0) ∧ (∀ x ∈ push.slots, x.paOf 0 a = a ∧ x.shape.strip 0 = [(a, 0)]) ∧
    (at0 pop).engineXlate 0 0 false a .read = .at a ∧ (at0 pop).lineHere a 0 = (a == 0x10000) ∧ (at0 pop).lineAwaited (a / 128) = false ∧
    (at0 pop).writeBackUnderWay (some (a / 128)) = false ∧ (at0 pop).earlierPush 0 3 = false ∧ (at0 pop).unordered 0 ⟨3, [], []⟩ = true ∧
    (at0 push).lineHere a 0 = (a == 0x10000) ∧ (at0 push).lineAwaited (a / 128) = false ∧ (at0 push).writeBackUnderWay (some (a / 128)) = false ∧
    (at0 push).earlierPush 0 4 = false ∧ (at0 push).earlierPop 0 4 = false ∧ (let s : State := { at0 pop with slices := [⟨0x200, 0, 0, 0⟩] }; (s.readAt 0x10000 4).1 = s ∧ (s.readAt 0x10000 4).2.2 = false) := by decide +kernel

/-- An empty arena, and a context that waits for one of its nodes. -/
theorem witness_EngineEvents_arena :
    let c := { light with st := .parked, wait := some (.node 0) }
    let n := { rn with arenaSize := 0 }
    let s : State := { at0 c with nets := [(0, n)] }.modCore 0 fun k => { k with refill := [0] }
    (s.core s.item).refill = [0] ∧ s.nets.find 0 = some n ∧ (s.core s.item).freeNodes = none ∧ n.take (min 32 (64 - 0)) = (n, []) ∧ s.Keyed ∧
      ((s.ctxs.map Prod.snd).filter fun c => c.start == s.item && c.wait == some (Wait.node 0)) = [c] ∧ s.byUid c.uid = some c := by
  decide +kernel

theorem witness_EngineEvents :
    (∀ x ∈ wanting.slots.head?, (at0 wanting).ctx 0 = some wanting ∧ wanting.slots[0]? = some x ∧ x.push = false ∧ x.shape.space = 0 ∧
      x.wanted = some 0 ∧ (at0 wanting).earlierPush 0 x.id = false ∧ (at0 wanting).unordered 0 ⟨x.id, (x.shape.strip 0).map (fun p => (p.1, x.shape.bytes)), []⟩ = true) ∧
    (∀ x ∈ pushed.slots[1]?, (at0 pushed).ctx 0 = some pushed ∧ x.push = true ∧ x.staged = [(0, ⟨7, none, none, 4⟩)] ∧ x.shape.space = 0 ∧
      (at0 pushed).earlierPush 0 4 = false ∧ (at0 pushed).earlierPop 0 4 = false ∧ (at0 pushed).unordered 0 ⟨4, [], (x.shape.strip 0).map fun p => (p.1, x.shape.bytes)⟩ = true ∧
      ∀ p ∈ x.shape.strip 0, ((at0 pushed).core 0).leased pushed.uid p.1 x.shape.bytes = false) ∧
    (∀ l ∈ [[], List.range 63], ((lacking l).core 0).refill = [0, 7] ∧ (lacking l).nets.find 0 = some rn ∧
      ((lacking l).core 0).freeNodes = some (0, l) ∧ l ++ (rn.take (min 32 (64 - l.length))).2 ≠ []) := by decide +kernel

/-- A class history of 16 completions of 100 ns and 1,000 units of work. -/
def hn : Net := { rn with history := [(0, List.replicate 16 ⟨100, 1000⟩)] }

/-- A copy of firing 3 that has run 8,192 ns. -/
def slow : Ctx := { heavyTask with firing := some 3, rwc := 7, slot := 0 }
def firing : Firing := { Firing.fresh 0 0 0 0x8000 0 0 2 0x1000 [] none with live := [2], waiting := 0 }

/-- Its tenant has done 10^6 units of work. -/
def hedged : State :=
  { at0 slow with
    nets := [(0, hn)], firings := [(3, firing)], time := 3 * 8192
    tenants := [(0, { Tenant.reset with buckets := [(0, (1000000, 0))] })] }

theorem witness_WeirEvents_samples : hedged.samples < hedged.time / 3 / 2048 ∧ (∀ p ∈ (at0 light).ctxs, (at0 light).behind p.2 8192 = false) ∧
    slow.firing = some 3 ∧ hedged.firings.find 3 = some firing ∧ hedged.curve slow = some (655360, 100, 1000) ∧ hedged.behind slow 8192 = true ∧
    hedged.mayBackup slow.tenant 1000 = true ∧ (hedged.backupPlace slow firing).isSome = true := by decide +kernel

/-- A commit of firing 3 for version 5 of tile 1. -/
def commit (base : Nat) : Commit :=
  { id := 5, launch := 0, net := 0, tenant := 0, firing := 3, uid := 2, cid := 0, tile := 1, base := base, rbase := 0x50000, rlen := 8, norw := true,
    hdr := 0, sealed := true, pay := [], joins := [], epoch := 0, age := 10, work := 20, leaseBase := 0x50000, tclass := 0, backup := false }

def weir (base : Nat) : State :=
  { at0 light with commits := [commit base], tiles := [(1, tile)], firings := [(3, { firing with commits := 1, live := [1, 2] })], item := 5 }

/-- The pull of a commit for the next version of tile 1. -/
def pulling (f : Core → Core) : State :=
  { at0 light with fw := { Firmware.reset with vacant := false, stopped := false }, tiles := [(1, { tile with pulling := some (commit 4) })], item := 1
                   firings := [(3, { firing with commits := 1, live := [1, 2] })] }.modCore 0 fun k => f { k with leases := [⟨0x50000, 0x1000, 2, 0⟩] }

theorem witness_WeirEvents :
    (∀ b ∈ [3, 4, 5], (weir b).commits.find? (fun x => x.id == (weir b).item) = some (commit b) ∧
      (weir b).tileOf (commit b).tenant (commit b).tile = some tile ∧ ((weir b).firings.find (commit b).firing).isSome = true ∧
      (weir b).tainted (commit b) = false ∧ (weir b).tiles.find 1 = some tile ∧ tile.tenant = (commit b).tenant) ∧
    tile.cur = 4 ∧
    (∀ f ∈ [fun k => k, fun k : Core => { k with lpoison := [0xA000] }, fun k : Core => { k with leases := [] }], (pulling f).tiles.find (pulling f).item =
        some { tile with pulling := some (commit 4) } ∧ (commit 4).tile = (pulling f).item ∧ (pulling f).tainted (commit 4) = false) ∧
    (pulling fun k => k).pullFails (commit 4) = false ∧ (pulling fun k => { k with lpoison := [0xA000] }).pullFails (commit 4) = true ∧
    (pulling fun k => k).leaseLost (commit 4) = false ∧ (pulling fun k => { k with leases := [] }).leaseLost (commit 4) = true ∧
    ((pulling fun k => k).firings.find (commit 4).firing).map (fun f => f.accepted) = some false ∧ (commit 4).norw = true ∧
    0 < ((pulling fun k => k).tenant tile.tenant).retain ∧ (pulling fun k => k).fw.leads (pulling fun k => k).time = true ∧
    (pulling fun k => k).Keyed := by
  refine ⟨by decide +kernel, rfl, ?_, by decide +kernel⟩
  intro f hf
  simp only [List.mem_cons, List.not_mem_nil, or_false] at hf
  rcases hf with rfl | rfl | rfl <;> decide +kernel

/-- A commit of a tainted epoch, of a firing for which one was accepted, and for a tile of another tenant. -/
theorem witness_WeirEvents_others :
    ((commit 4).epoch ∈ (((weir 4).modCluster 0 fun g => { g with tainted := [0] }).cluster (clusterOf (commit 4).cid)).tainted) ∧
    (let s : State := { weir 4 with firings := [(3, { firing with accepted := true })] }
     (commit 4).epoch ∉ (s.cluster (clusterOf (commit 4).cid)).tainted ∧ ∀ f ∈ s.firings.find 3, f.accepted = true) ∧
    (let t := { tile with pulling := some (commit 4) }
     (({ weir 4 with tiles := [(1, t)] } : State).tileOf (commit 4).tenant (commit 4).tile = some t) ∧ (commit 4).base = t.cur ∧ t.pulling.isSome = true) ∧
    (let s : State := { weir 4 with tiles := [(1, { tile with tenant := 7 })] }
     (s.firings.find 3).map (fun f => f.accepted) = some false ∧ ∀ t ∈ s.tiles.find (commit 4).tile, t.tenant ≠ (commit 4).tenant) := by
  decide +kernel

/-! ### The matrix unit, failures, firmware -/

/-- A command of `light` in the unit of cluster 0. -/
def inUnit (op : MOp) : Running := ⟨0, { id := 5, uid := 1, key := 0, launch := 0, heavy := false, op := op }, 0, none⟩

/-- The state in which it is in the unit, of an admitted launch. -/
def matrix (op : MOp) : State := (at0 light).modCluster 0 fun g => { g with running := some (inUnit op), admitted := [(0, 0)], acc := [(130, 0x3F800000)] }

/-- An `mma` of two rows and three columns in half precision, and one in I8. -/
def mmaF : MOp := .mma (BitVec.ofNat 64 (window 2 3 2)) (BitVec.ofNat 128 (operand 0x1000 3)) (BitVec.ofNat 128 (operand 0x2000 3)) [7, 0] true
def mmaI : MOp := .mma (BitVec.ofNat 64 (window 2 3 1)) (BitVec.ofNat 128 (operand 0x1000 6)) (BitVec.ofNat 128 (operand 0x2000 6)) [7, 0] false

theorem witness_KStep :
    (∀ op ∈ [mmaF, mmaI], ((matrix op).cluster (matrix op).item).running = some (inUnit op) ∧ ((matrix op).cluster 0).preempt = false ∧
      ((matrix op).cluster 0).failed = false ∧ ((matrix op).cluster 0).testing = none ∧
      (((matrix op).cluster 0).admitted.find (inUnit op).cmd.launch).isSome = true ∧ ((matrix op).cluster 0).stepped = false ∧
      ((matrix op).layer 0).issues = true) ∧
    (let pair := pairReads (BitVec.ofNat 64 (window 2 3 2)) (BitVec.ofNat 128 (operand 0x1000 3)) (BitVec.ofNat 128 (operand 0x2000 3)) [7, 0]
     (inUnit mmaF).ops = none ∧ ((matrix mmaF).core 0).poisonIn (pair 0) = none ∧ (∃ p ∈ pair 0, p.1 ≤ 0x1000 ∧ 0x1000 < p.1 + p.2) ∧
       ((matrix mmaF).core 0).lm.wf = true ∧
       let r := { inUnit mmaF with n := 1, ops := some (((matrix mmaF).core 0).messages (pair 0)) }
       (((matrix mmaF).modCluster 0 fun g => { g with running := some r }).cluster 0).running = some r ∧ r.ops ≠ none) ∧
    (((matrix mmaF).cluster 0).win 0 (BitVec.ofNat 64 (window 2 3 2))).nr = 2 ∧
    (((matrix mmaF).cluster 0).win 0 (BitVec.ofNat 64 (window 2 32 2))).col + (((matrix mmaF).cluster 0).win 0 (BitVec.ofNat 64 (window 2 32 2))).nc ≤ 128 := by
  decide +kernel

/-- Windows of both kinds with checksums, an element that is clamped and one that is not, and the context of the command. -/
theorem witness_KStep_sides :
    (∀ fmt ∈ [1, 2], let w := ((matrix mmaF).cluster 0).win 0 (BitVec.ofNat 64 (window 2 3 fmt + 2 ^ 34))
      w.ckv = true ∧ 0 < w.nr ∧ w.f32w = (fmt == 2) ∧ w.ccKey 0 < w.ccKey w.nr ∧ w.crKey 0 < w.crKey w.nc) ∧
    (accumI (2 ^ 31 - 1) (dotInts [1] [1])).2 = true ∧ (accumI (2 ^ 31 - 2) (dotInts [1] [1])).2 = false ∧
    (matrix mmaF).byUid (inUnit mmaF).cmd.uid = some light ∧ (matrix mmaF).ctx light.key = some light := by decide +kernel

/-- There is a summing tree over any values, and there are values of every kind. -/
theorem witness_KStep_tree (g : Nat → Option FVal) : ∃ T : Nat → Nat → Option FVal, (∀ i, T 0 i = g i) ∧ IsMatTree T :=
  ⟨fun l => l.rec g fun _ t i => match t (2 * i), t (2 * i + 1) with
    | some x, some y => some (f32.value (matRound (x.add y)))
    | some x, none => some x
    | none, z => z, fun _ => rfl, fun _ _ => rfl⟩

theorem witness_KStep_values : (∀ x ∈ [FVal.inf true, .fin true 1 3], ∀ n p d, x = .fin n p d → 0 < d) ∧ (FVal.fin false 0 1).finite = true ∧
    ([FVal.nan] : List FVal).length ≤ 32 := by
  refine ⟨?_, rfl, by decide⟩
  intro x hx n p d h
  simp only [List.mem_cons, List.not_mem_nil, or_false] at hx
  rcases hx with rfl | rfl <;> cases h
  decide

/-- The commands that the unit performs whole, with a window of two rows and three columns. -/
def others : List MOp :=
  [.mwin (BitVec.ofNat 64 (window 2 3 2)), .mzero (BitVec.ofNat 64 (window 2 3 2)), .mld (BitVec.ofNat 64 (window 2 3 2)) 0x1000,
    .mst (BitVec.ofNat 64 (window 2 3 2)) 0x1000 1, .mres (BitVec.ofNat 64 (window 2 3 2)) 4, .mchk (BitVec.ofNat 64 (window 2 3 2)) 1 2 0,
    .mscale (BitVec.ofNat 64 (window 2 3 2)) [0x40000000, 0x40400000] [0x3F000000, 0x3F800000, 0xBF800000]]

theorem witness_MatrixEvents :
    (∀ op ∈ others, ((matrix op).cluster (matrix op).item).running = some (inUnit op) ∧ (inUnit op).cmd.op.isMma = false ∧
      ((matrix op).cluster 0).failed = false ∧ ((matrix op).cluster 0).testing = none) ∧
    (let s := State.reset.modCluster 335 fun g => { g with claims := [(15, 1)], acc := [(127 * 128 + 127, 5), (0, 6)] }
     (s.cluster 335).claims.find 15 = some 1 ∧ s.matrixDone 335 1 = true) := by decide +kernel

/-- A load of a window whose last word is poisoned. -/
theorem witness_MatrixEvents_poison :
    let md := BitVec.ofNat 64 (window 2 3 2)
    let s := (matrix (.mld md 0x1000)).modCore 0 fun k => { k with lpoison := [0x1014 / 8] }
    (s.cluster s.item).running = some (inUnit (.mld md 0x1000)) ∧ s.byUid 1 = some light ∧
      (s.core (coreOf s.item 0)).poisonIn [(0x1000, 4 * (((s.cluster 0).win 0 md).nr * ((s.cluster 0).win 0 md).nc))] = some 0x1010 := by decide +kernel

/-- Windows of both formats, with checksums and without; a residue that is a NaN and one that is not. -/
theorem witness_MatrixEvents_checks : ∀ p ∈ [(1, false), (1, true), (2, false), (2, true)],
    let md := BitVec.ofNat 64 (window 2 3 p.1 + if p.2 then 2 ^ 34 else 0)
    let s := matrix (.mchk md 1 2 0)
    let w := (s.cluster 0).win 0 md
    w.ckv = p.2 ∧ w.f32w = (p.1 == 2) ∧ w.nr = 2 ∧ w.nc = 3 ∧ w.col + w.nc ≤ 128 ∧ s.byUid 1 = some light ∧ light.slotOf 4 = none ∧
      f32.isNaN (getZero ((s.cluster 0).setSums w (fun _ => 0x7FC00000) fun _ => 0).cc (w.ccKey 1)) = true := by decide +kernel

/-- A queue of core 1 whose head may begin. -/
def waiting : State :=
  (at0 light).modCore 1 fun k => { k with mq := [{ id := 5, uid := 1, key := 0, launch := 0, heavy := true, op := .mzero 0 }] }

theorem witness_ArbiterEvents :
    ((waiting.cluster 0).running = none ∧ (waiting.cluster 0).preempt = false ∧ (waiting.cluster 0).failed = false ∧
      (waiting.cluster 0).testing = none ∧
      nextCore (fun c => (waiting.pendingHead 0 c).isSome) (waiting.cluster 0) = some (1, Vector.replicate 8 1) ∧
      (waiting.pendingHead 0 1).isSome = true) ∧
    (Cluster.reset.credit[(Cluster.reset.last + 1 + 7) % 8]?).getD 0 ≠ 0 ∧
    (let g := { Cluster.reset with credit := Vector.replicate 8 0 }
     (∀ j, j < 8 → (g.credit[(g.last + 1 + j) % 8]?).getD 0 = 0) ∧ (g.wgt[(g.last + 1 + 7) % 8]?).getD 0 ≠ 0) ∧
    (let s : State := { at0 light with powerReqs := [⟨0, 20, none⟩], nets := [(0, { rn with power := 1 })] }
     s.powerReqs.map (fun r => r.g / 21) = [s.item] ∧ s.admits 0 20 = true) ∧
    (let s : State := { at0 light with
       powerReqs := [⟨1, 19, none⟩, ⟨0, 20, none⟩], nets := [(0, { rn with power := 1 }), (1, { rn with power := 0 })]
       launches := [(0, fetchLaunch), (1, { fetchLaunch with net := 1 })] }
     s.powerReqs = [⟨1, 19, none⟩] ++ ⟨0, 20, none⟩ :: [] ∧ (20 : Nat) / 21 = s.item ∧ s.admits 1 19 = false ∧ s.admits 0 20 = true ∧ s.admits 2 20 = true) ∧
    (∀ op ∈ [MOp.mzero 0, mmaF],
      let s := (waiting.modCore 1 fun k => { k with mq := [{ id := 5, uid := 1, key := 0, launch := 0, heavy := true, op := op }] }).modCluster 0
        fun g => { g with admitted := [(0, 9)] }
      nextCore (fun c => (s.pendingHead 0 c).isSome) (s.cluster 0) = some (1, Vector.replicate 8 1) ∧
      (s.pendingHead 0 1).map (fun m => m.op) = some op ∧ ((s.cluster 0).admitted.find 0).isSome = true) ∧
    (let s : State := { (State.reset.modCluster 335 fun g => { g with admitted := [(0, 1)] }) with layers := [(15, { Layer.reset with cycles := 256 })] }
     (s.cluster 335).admitted.find 0 = some 1 ∧ s.needsToken 0 335 = false ∧ 1 + 256 ≤ (s.layer 15).cycles + 1) ∧
    (let s : State := { State.reset with layers := [(15, { Layer.reset with droop := .stretch 0 true 64 })], item := 15 }
     s.item < 16 ∧ (s.layer s.item).droop = .stretch 0 true 64) ∧
    (let s : State := { State.reset with layers := [(15, { Layer.reset with droop := .halved 64 0 })], item := 15 }
     (s.layer s.item).droop = .halved 64 0) := by decide +kernel

/-- No core is pending, an `mma` asks for its first token; and each phase of a droop response. -/
theorem witness_ArbiterEvents_others :
    (let s := (at0 light).modCore (coreOf 0 7) fun k => { k with mq := [{ id := 5, uid := 1, key := 0, launch := 0, heavy := true, op := mmaF }] }
     (s.cluster s.item).running = none ∧ (∀ c, c < 8 → s.pendingHead s.item c = none) ∧ s.askTokens s.item = [⟨0, 0, none⟩] ∧
       (s.core (coreOf 0 7)).mq.head?.map (fun m => m.op) = some mmaF ∧ mmaF.isMma = true) ∧
    (let s := State.reset.modCluster 0 fun g => { g with credit := Vector.replicate 8 0 }
     (∀ c, c < 8 → s.pendingHead 0 c = none) ∧ (s.cluster 0).credit ≠ (s.cluster 0).wgt) ∧
    ∀ p ∈ [(Droop.normal, none), (.stretch 5 false 3, none), (.stretch 5 true 3, none), (.halved 4 3, none), (.halved 4 3, some (64, 64))],
      (({ State.reset with layers := [(15, { Layer.reset with droop := p.1, alarm := p.2 })] } : State).layer 15).droop = p.1 ∧
      (({ State.reset with layers := [(15, { Layer.reset with droop := p.1, alarm := p.2 })] } : State).layer 15).alarm = p.2 := by
  decide +kernel

/-- The last unit of each kind, in a state with a leader. -/
def unit (n : Nat) : State := { State.reset with item := n, fw := { Firmware.reset with vacant := false, stopped := false } }

theorem witness_FailureEvents :
    (validCid 0xFBD = true ∧ ((unit 0xFBD).core 0xFBD).failed = false) ∧ ((unit 335).cluster 335).failed = false ∧
    ((unit 15).layer 15).failed = false ∧ (({ unit 15 with fab := { Fabric.reset with up := [15] } } : State).fab.up.contains 15 = true) ∧
    (unit 17).fw.failedFw.contains 17 = false ∧
    (((unit 335).cluster 335).testing = none ∧ (unit 335).fw.leads (unit 335).time = true ∧ ((unit 335).cluster 335).stoppable = true ∧
      ∀ p ∈ (unit 335).clusters, p.1 / 21 = 335 / 21 → p.2.testing = none) ∧
    (((unit 335).modCluster 335 fun g => { g with testing := some false }).cluster 335).testing = some false := by decide +kernel

/-- Tests that are due, that have lasted their time, of a cluster that has been quiet; a port for which a packet waits; and a leader that fails. -/
theorem witness_FailureEvents_others :
    (let s : State := { unit 335 with time := 540000 * 3000000, fw := { (unit 335).fw with renewed := 540000 * 3000000 } }
     (s.cluster 335).passAt + 540000 * 3000000 ≤ s.time ∧ s.fw.leads s.time = true) ∧
    (let s : State := { (unit 335).modCluster 335 fun g => { g with quiet := some 5 } with time := 150005 }
     s.fw.leads s.time = true ∧ (s.cluster 335).quiet = some 5 ∧ 5 + 150000 ≤ s.time ∧ ∀ g, g < 336 → s.time < (s.cluster g).passAt + 540000 * 3000000) ∧
    (let s : State := { (unit 335).modCluster 335 fun g => { g with testing := some true, testAt := 5, log := [⟨1, 4, 2, 3, 0⟩], epoch := 7 } with
      time := 4500005, tiles := [(1, tile)] }
     (s.cluster 335).testing.isSome = true ∧ (s.cluster 335).testAt + 4500000 ≤ s.time ∧ (s.cluster 335).log.map (fun e => e.tile) = [1] ∧
       s.tiles.find 1 = some tile) ∧
    (let k : Kept := { id := 0, pkt := ⟨33, 0, false, false, 3, 6, 0, 0, 0, 0, .other⟩, tries := 1, since := 0, routed := 0, directly := false,
                       route := .relay 64 4 9, launch := none }
     k.route.waitsOn 0 k.pkt 4 5 = true ∧ ∀ p ∈ (at0 light).ctxs, p.2.heavy = false) ∧
    (let s := unit 0; s.fw.leader = s.item ∧ s.fw.vacant = false) ∧ (unit 17).fw.leader ≠ 17 ∧
    (let s : State := { unit 335 with tiles := [(1, { tile with cluster := 335, pins := [(4, 9)] })] }
     s.tiles.find 1 = some { tile with cluster := 335, pins := [(4, 9)] } ∧ ∀ x ∈ s.copies, x.id ≠ 9) := by decide +kernel

theorem witness_ServiceEvents :
    (unit (2 ^ 39 - 8)).ownsByte ((2 ^ 39 - 8) / 8 * 8) = true ∧
    (let s : State := { unit 0 with fw := { Firmware.reset with corrections := [(0, List.replicate 15 0 ++ [10800000000000])] } }
     s.item < 2048 ∧ s.fw.strong.find s.item = none ∧ sixteenInHour (s.fw.corrections.getD s.item []) = true) ∧
    (let s : State := { unit 2047 with fw := { Firmware.reset with strong := [(2047, 2 ^ 21 - 1)] } }
     s.fw.strong.find s.item = some (2 ^ 21 - 1)) ∧
    (∀ p ∈ [0, 2 ^ 36 - 1, 2 ^ 36, 2 ^ 36 + MemCfg.reset.farSize / 8 - 1],
      let next := if p < 2 ^ 36 then 8 * p else 2 ^ 45 + 8 * (p - 2 ^ 36)
      let s : State := { unit next with fw := { Firmware.reset with scrubPos := p } }
      s.ownsByte (s.item / 8 * 8) = true ∧ s.item / 8 * 8 = s.pkg * 2 ^ 47 + next) ∧
    (let s : State := { unit 0 with time := 12 * hour }; s.fw.scrubFrom + 12 * hour ≤ s.time) ∧
    (let s := (unit (coreOf 335 7)).modCluster 334 fun g => { g with fenced := true, failed := true }
     validCid s.item = true ∧ (s.cluster (clusterOf s.item)).fenced = false ∧ ∃ p ∈ s.clusters, p.2.fenced = true) ∧
    (∀ p ∈ (unit 0).clusters, p.2.fenced = false) ∧
    (let s : State := { unit 1 with fw := { (unit 1).fw with journal := [.accept 0 5 3 0x2000 []] } }
     .accept 0 5 3 0x2000 [] ∈ s.fw.journal ∧ s.launches.find 3 = none ∧ s.fw.recorded 3 = false) ∧
    (let s : State := { (unit 0xFBD).modCore 0xFBD (fun k => { k with idleSince := some 5 }) with time := 30005 }
     validCid s.item = true ∧ (s.core s.item).gated = false ∧ (s.core s.item).failed = false ∧ s.coreIdle s.item = true ∧
      s.arrivalAt s.item = false ∧ (s.core s.item).idleSince = some 5) ∧
    (let s : State := { (unit 0).modCore 0 (fun k => { k with gated := true }) with msgs := [letter] }
     (s.core s.item).gated = true ∧ s.arrivalAt s.item = true) ∧
    (let s : State := { unit 0 with time := 750000 }
     s.fw.vacant = false ∧ s.fw.stopped = false ∧ s.time < s.fw.renewed + 3000000 ∧ s.fw.renewed + 750000 ≤ s.time) ∧
    (let s : State := { unit 0 with time := 3000000 - 5 }; s.fw.renewed + 3000000 ≤ s.time + 5) ∧
    (let s : State := { unit 17 with time := 9000000 }
     s.item < 18 ∧ s.fw.failedFw.contains s.item = false ∧ s.fw.renewed + 9000000 ≤ s.time) := by decide +kernel

/-! ### Registers, ownership, the host, mailboxes -/

theorem witness_RegisterValues : 15 < 16 ∧ 255 < 256 ∧ 335 < 336 ∧ validCid 0xFBD = true ∧ (State.reset.stream 15).en = false := by decide

/-- The pod manager does not own the package; a core writes everywhere, and so does the owner outside the others' mailboxes. -/
theorem witness_RegisterEvents :
    (State.reset.own.owner ≠ masterNum .pod ∧ (0x2FF8 < mailboxAt .pod ∨ mailboxAt .pod + 0x400 ≤ 0x2FF8) ∧ (0x1000 < mailboxAt .pod)) ∧
    (∀ off, State.reset.mayWrite (.core 0) off = true) ∧
    (∀ off, ({ State.reset with own := { Owner.reset with owner := 2 } } : State).mayWrite (.master .mc) off = true) ∧
    ((16#64).getLsbD 4 = true ∧ (0#64).getLsbD 4 = false ∧ State.reset.cfg.busy = none) ∧
    (({ State.reset with cfg := { MemCfg.reset with busy := some 0 } } : State).cfg.busy.isSome = true) ∧
    ((State.reset.cluster 335).claims = [] ∧ ((State.reset.modCluster 335 fun g => { g with claims := [(0, 1)] }).cluster 335).claims ≠ []) ∧
    ((State.reset.core 0xFBD).leases = [] ∧ ((State.reset.modCore 0xFBD fun k => { k with leases := [⟨0x50000, 256, 1, 0⟩] }).core 0xFBD).leases ≠ []) ∧
    ((4#64).getLsbD 2 = true ∧ (4#64).getLsbD 3 = false) ∧
    (let f := { Fabric.reset with oldLive := true }
     f.counted (!f.cur) = 0 ∧ ({ f with basin := [⟨1, ⟨1, 2, true, true, 0, 0, 0, 0, 0, 0, .other⟩⟩] } : Fabric).counted (!f.cur) ≠ 0) := by
  refine ⟨by decide, fun _ => rfl, fun _ => rfl, by decide, by decide, by decide, by decide, by decide, by decide⟩

/-- The pod manager, as the owner, takes what it was offered, which makes it the owner anew, and there is no offer to it. -/
theorem witness_RegisterEvents_anew : ∀ pend ∈ [3, 0],
    let s : State := { State.reset with own := { Owner.reset with owner := 3, pend := pend } }
    let t := s.writeReg (.master .pod) (0x101F / 8 * 8) 0
    (∀ off, s.mayWrite (.master .pod) off = true) ∧ t.own.owner = 3 ∧ (t.own.gen ≠ s.own.gen ↔ pend = 3) ∧
    (s.own.pend = 0 ∨ s.own.pend ≠ s.own.owner ↔ pend = 0) := by
  intro pend h
  simp only [List.mem_cons, List.not_mem_nil, or_false] at h
  rcases h with rfl | rfl <;> exact ⟨fun _ => rfl, by decide, by decide, by decide⟩

/-- The host owns the package and offers it to the management controller at the last moment; its link is lost for `OWNTO`. -/
theorem witness_OwnerEvents :
    (let s : State := { State.reset with own := { Owner.reset with owner := 1, pend := 2 }, time := 300000000 }
     s.own.owner = masterNum .host ∧ s.own.owner ≠ masterNum .mc ∧ s.own.pend = masterNum .mc ∧ s.time ≤ s.own.pendSince + 300000000) ∧
    (let s : State := { State.reset with own := { Owner.reset with owner := 1, pend := 2 }, time := 300000001 }
     s.own.pend ≠ 0 ∧ s.own.pendSince + 300000000 < s.time) ∧
    (let s : State := { State.reset with own := { Owner.reset with owner := 1, lostSince := some 0 }, time := 3000000000 }
     s.own.lostSince = some 0 ∧ s.ownerLost = true ∧ 0 + 3000000 * s.own.timeout ≤ s.time) ∧
    (let s : State := { State.reset with own := { Owner.reset with owner := 1, hostUp := true } }
     s.own.hostUp = true ∧ s.own.owner = 1) ∧
    (let s : State := { State.reset with fab := { Fabric.reset with arm := true, armCycle := 2 ^ 32 - 1 }, podTime := 250 }
     s.fab.arm = true ∧ s.cycleAhead = false ∧ s.fab.armSlot < s.podTime / 250) := by decide

/-- A packet of version 1 and kind `k` with sequence number 0 for net 0, at the slot at 0x100000 of stream 0. -/
def packet (k : Nat) : Nat := 2 ^ 12 + k * 2 ^ 16 + (0x8000 / 4) * 2 ^ 66

def queue (k net : Nat) : State :=
  { State.reset with
    fw := { Firmware.reset with vacant := false, stopped := false }
    tenants := [(0, { Tenant.reset with en := true })], nets := [(0, rn)]
    streams := [(0, { Stream.reset with en := true, awake := true, cqbase := 0x100000, crbase := 0x200000 })]
    mem := Mem.writeN [] 0x100000 64 (packet k + net * 2 ^ 18 + 0x3000 * 2 ^ 128) }

/-- What stream 0 reads and accepts. -/
def taking (s : State) : State × Option Command := s.acceptable 0

theorem witness_HostEvents :
    (∀ k, k < 4 → ((queue k 0).fw.leads (queue k 0).time = true ∧ ((queue k 0).stream (queue k 0).item).en = true ∧ ((queue k 0).stream 0).awake = true ∧
      (taking (queue k 0)).2.map (fun c => c.kind) = some k)) ∧
    (∀ k ∈ [0, 1, 2], (taking (queue k 0)).2.map ((taking (queue k 0)).1.checkCommand 0) = some 0) ∧
    (∀ p ∈ [(0, 5), (3, 0), (2, 5)], (taking (queue p.1 p.2)).2.map (fun c => decide ((taking (queue p.1 p.2)).1.checkCommand 0 c ≠ 0)) = some true) ∧
    (∀ p ∈ (taking (queue 0 0)).1.launches, p.1 < (taking (queue 0 0)).1.nextLaunch) ∧
    (taking (queue 1 5)).1.netLive 5 = false ∧
    (taking (queue 1 5)).2.map (fun c => decide (c.net = 5 ∧ c.net ≠ 0 ∧ (taking (queue 1 5)).1.checkCommand 0 c = 0)) = some true ∧
    (State.tenantRead 0 3 (taking (queue 1 5)).1 0x3000 512).2.isSome = true ∧
    ((State.tenantRead 0 3 (taking (queue 1 5)).1 0x3000 512).2.map fun b => recordBad b false) = some true := by decide +kernel

/-- A record with `POWER` 1 at 0x3000. -/
def recorded : State := { queue 1 5 with mem := (queue 1 5).mem.writeN (0x3000 + 384) 1 1 }

theorem witness_HostEvents_netSet :
    ((State.tenantRead 0 3 (taking recorded).1 0x3000 512).2.map fun b => recordBad b false) = some false ∧
    ((taking recorded).2.map fun c => c.net) = some 5 ∧
    (((State.tenantRead 0 3 (taking recorded).1 0x3000 512).1.installNet 5
      (netOf (((State.tenantRead 0 3 (taking recorded).1 0x3000 512).2).getD []) 0 0 0)).isSome) = true := by decide +kernel

theorem witness_HostEvents_rest :
    (let s : State := { State.reset with streams := [(15, { Stream.reset with en := true, awake := true })], item := 15 }
     (s.stream s.item).en = true ∧ (s.stream s.item).awake = true ∧ (s.acceptable s.item).2 = none) ∧
    (let s : State := { State.reset with streams := [(15, { Stream.reset with en := true })], item := 15, time := 3000 }
     (s.stream s.item).awake = false ∧ (s.stream s.item).tested + 3000 ≤ s.time) ∧
    (let s : State := { State.reset with streams := [(15, { Stream.reset with unsig := 1, icDue := 9 })], item := 15, time := 9 }
     (s.stream s.item).unsig ≠ 0 ∧ (s.stream s.item).icDue ≤ s.time ∧ s.host.masked s.item = true ∧ s.host.pending.contains s.item = false ∧
      ({ s.host with msix := [] } : HostPort).masked s.item = false) ∧
    (let s : State := { State.reset with own := { Owner.reset with owner := 1 }, item := 63, host := { State.reset.host with pending := [63] } }
     s.host.masked s.item = true ∧ s.own.owner = 1 ∧ s.host.msix.wf = true ∧ s.host.pending.contains s.item = true) ∧
    (let s : State := { State.reset with own := { Owner.reset with owner := 1, hostUp := true }, cfg := { MemCfg.reset with farSize := 2 ^ 43 } }
     s.own.hostUp = true ∧ 2 ^ 26 - 4 + 4 ≤ 2 ^ 26 ∧ 2 ^ 39 - 64 + 64 ≤ 2 ^ 39 ∧ 2 ^ 42 - 64 + 64 ≤ min (2 ^ 42) s.cfg.farSize) := by decide +kernel

/-- A request of a master that owns the package: command, version, length, and the bytes from 8 on. -/
def request (m : Master) (cmd ver len : Nat) (rest : List Byte) : State :=
  { unit 0 with
    own := { Owner.reset with owner := masterNum m }
    mbox := (Vector.replicate 3 Mailbox.reset).setIfInBounds (masterNum m - 1)
      { Mailbox.reset with go := true, req := (Mem.writeN [] 0 8 (cmd + ver * 2 ^ 8 + len * 2 ^ 16)).writeBytes 8 rest } }

theorem witness_MailboxEvents :
    (∀ p ∈ [(0, 8), (1, 8), (2, 49), (3, 24), (4, 8), (5, 8), (6, 12), (7, 8), (8, 24)],
      (request .pod p.1 1 p.2 []).asked .pod p.1 p.2 ∧ (request .pod p.1 1 256 []).asked .pod p.1 p.2 ∧
      ((request .pod p.1 1 p.2 []).box .pod).working = none ∧ (request .pod p.1 1 p.2 []).own.owner = masterNum .pod ∧
      ({ request .pod p.1 1 p.2 [] with own := Owner.reset } : State).own.owner ≠ masterNum .pod ∧
      ((request .pod p.1 2 p.2 []).box .pod).req.readN 0 8 / 2 ^ 8 % 2 ^ 4 ≠ 1) ∧
    (let s := request .mc 3 1 24 (bytesOf 8 0x10000 ++ bytesOf 8 4097)
     s.firmwareReach ((s.box .mc).req.readN 8 8) ((s.box .mc).req.readN 16 8) = true ∧ (s.box .mc).req.readN 16 8 = 4097) ∧
    (validCid (request .mc 5 1 8 []).item = true) ∧
    (let s : State := { request .mc 6 1 12 [] with fw := { (unit 0).fw with taints := [⟨1, 2, 3, [⟨1, 2, 3, 4, 5⟩], false⟩] } }
     s.fw.taints[(s.box .mc).req.readN 8 2]? = some ⟨1, 2, 3, [⟨1, 2, 3, 4, 5⟩], false⟩) ∧
    (let s : State := { request .mc 8 1 24 [] with launches := [(0, fetchLaunch)] }
     (∀ b ∈ s.mbox.toList, b.working = none) ∧ (s.box .mc).req.readN 8 8 < 16 ∧
      s.launchOf ((s.box .mc).req.readN 8 8) ((s.box .mc).req.readN 16 8) = some (0, fetchLaunch)) ∧
    (let s := (request .mc 8 1 24 []).modBox .mc fun b => { b with working := some (.aborting 0 0) }
     (s.box .mc).working = some (.aborting 0 0) ∧ s.launchOf 0 0 = none ∧ s.fw.leads s.time = true) := by
  refine ⟨?_, by decide +kernel, by decide +kernel, by decide +kernel, by decide +kernel, by decide +kernel⟩
  intro p hp
  simp only [List.mem_cons, List.not_mem_nil, or_false] at hp
  rcases hp with rfl | rfl | rfl | rfl | rfl | rfl | rfl | rfl | rfl <;>
    exact ⟨⟨by decide +kernel, by decide +kernel, by decide +kernel, by decide +kernel, by decide +kernel, by decide +kernel, by decide +kernel⟩,
      ⟨by decide +kernel, by decide +kernel, by decide +kernel, by decide +kernel, by decide +kernel, by decide +kernel, by decide +kernel⟩,
      by decide +kernel, by decide +kernel, by decide +kernel, by decide +kernel⟩

/-- A command of another version and of a wrong length, one that is too short and one that is too long, and the least and the greatest unassigned code. -/
theorem witness_MailboxEvents_header :
    let head := fun (s : State) => (s.box .pod).req.readN 0 8
    head (request .pod 5 2 0 []) / 2 ^ 8 % 2 ^ 4 ≠ 1 ∧ head (request .pod 5 1 7 []) / 2 ^ 16 % 2 ^ 16 < 8 ∧
    256 < head (request .pod 5 1 257 []) / 2 ^ 16 % 2 ^ 16 ∧ head (request .pod 5 1 257 []) / 2 ^ 8 % 2 ^ 4 = 1 ∧
    ∀ n ∈ [9, 255], 8 < head (request .pod n 1 8 []) % 2 ^ 8 ∧ (request .pod n 1 8 []).fw.leads (request .pod n 1 8 []).time = true ∧
      ((request .pod n 1 8 []).box .pod).go = true ∧ ((request .pod n 1 8 []).box .pod).working = none := by decide +kernel

/-- No byte of the first megabyte of near DRAM is another package's. -/
theorem witness_MailboxEvents_own (a : Nat) (h : a < 2 ^ 20) : (request .mc 3 1 24 []).isPeer a = false := by
  have p : paPkg a = 0 := by unfold paPkg bits; omega
  simp [State.isPeer, p, request, unit, State.reset]

/-- Another master's attestation and abort in progress, an attestation of one's own, and the last cluster, fenced and not, and port to be reset. -/
theorem witness_MailboxEvents_others :
    (let s := (request .mc 2 1 49 []).modBox .pod fun b => { b with working := some .attesting }
     (s.box .mc).working = none ∧ (s.box .pod).working = some .attesting ∧ Master.pod ≠ Master.mc) ∧
    (let s := (request .mc 2 1 49 []).modBox .mc fun b => { b with working := some .attesting }
     (s.box .mc).working = some .attesting ∧ s.fw.leads s.time = true) ∧
    (let s := (request .mc 8 1 24 []).modBox .pod fun b => { b with working := some (.aborting 3 4) }
     (s.box .mc).working = none ∧ (s.box .pod).working = some (.aborting 3 4)) ∧
    (∀ f ∈ [false, true],
      let s : State := { (request .mc 5 1 8 []).modCluster 335 fun g => { g with fenced := f, failed := f } with item := 4096 + 335 }
      (s.cluster 335).fenced = f ∧ (s.cluster 335).failed = f ∧ (s.box .mc).go = true ∧ s.item = 4096 + 335) ∧
    (let s : State := { request .mc 5 1 8 [] with item := 8192 + 15 }; (s.box .mc).go = true ∧ s.item = 8192 + 15) := by decide +kernel

theorem fit_length (n : Nat) (l : List Byte) : (fit n l).length = n := by simp [fit]

/-- The evidence that the management controller asks for without the certificates goes to 0x10000. -/
theorem witness_MailboxEvents_attest :
    let s := request .mc 2 1 49 (List.replicate 32 0 ++ bytesOf 8 0x10000)
    let req := (s.box .mc).req
    let e := s.evidence (req.readBytes 8 32)
    let e := e ++ fit 3309 (Config.sign (Config.shake256 e)) ++ (if req.readN 48 1 % 2 = 1 then Config.certificates else [])
    s.firmwareReach (req.readN 40 8) e.length = true ∧ e.length ≤ 16384 := by
  intro s req e e'
  have h : ((s.box .mc).req.readN 48 1 % 2 = 1) = False := by
    have : ¬ ((s.box .mc).req.readN 48 1 % 2 = 1) := by decide +kernel
    simp only [this]
  have l : e'.length = 3493 := by
    simp only [e', req, h, if_false, List.append_nil, List.length_append, fit_length, e, State.evidence]
    rfl
  rw [l]
  decide +kernel

/-! ### The fabric -/

/-- A packet from package 33 for this one, package 0. -/
def fromPeer (kind : Nat) (body : Body) : Packet :=
  { dst := 0, src := 33, bank := false, relayed := false, len := 0, kind := kind, tenant := 0, reserved := 0, eseq := 0, tag := 0, body := body }

/-- This package as a member of a pod with packages 0, 33 and 64, all planes up. -/
def pod : State :=
  { State.reset with
    podTime := 250, nets := [(0, rn)]
    fab := { Fabric.reset with validA := true, up := List.range 16, bankA := [(0, 0xFFFF0001), (33, 0xFFFF0001), (64, 0xFFFF0001)] } }

/-- A packet that this package keeps until package 33 acknowledges it. -/
def keeping (route : Route) (tries : Nat) : Kept :=
  { id := 0, pkt := { fromPeer 6 (.wreq (33 * 2 ^ 47) 8 5) with dst := 33, src := 0 }, tries := tries, since := 0, routed := 0, directly := false, route := route, launch := none }

def keeper (route : Route) (tries : Nat) : State := { pod with fab := { pod.fab with kept := [keeping route tries] }, podTime := 20000 }

theorem witness_LinkEvents :
    (fromPeer 0 .other).dst = pod.pkg ∧ ({ fromPeer 0 .other with reserved := 1 } : Packet).reserved ≠ 0 ∧ 14 ≤ (fromPeer 14 .other).kind ∧
    (∀ p ∈ [(RxWin.mk 1 [], 0), (⟨1, [5]⟩, 5)],
      let s : State := { pod with fab := { pod.fab with rx := [(33, p.1)] } }
      (2 ^ 31 ≤ (p.2 + 2 ^ 32 - (s.fab.window 33).base) % 2 ^ 32 ∨ p.2 ∈ (s.fab.window 33).above) ∧ s.fab.validA = true) ∧
    4096 ≤ (4096 + 2 ^ 32 - (pod.fab.window 33).base) % 2 ^ 32 ∧ 4096 ∉ (pod.fab.window 33).above ∧
    (let p := { fromPeer 13 .other with dst := 64, len := 15 }
     p.dst ≠ pod.pkg ∧ p.reserved = 0 ∧ p.kind < 14 ∧ p.relayed = false ∧ (if p.bank then pod.fab.validB else pod.fab.validA) = true ∧
      pod.fab.share p.src + p.len + 1 ≤ 2048) ∧
    (let h : Held := ⟨0, { fromPeer 0 .other with dst := 33, relayed := true }⟩
     let s : State := { pod with fab := { pod.fab with basin := [h] } }
     s.fab.basin.find? (fun x => x.id == s.item) = some h ∧ (∀ x ∈ s.fab.basin, x.pkt.dst = h.pkt.dst → h.id ≤ x.id) ∧
      bankPresent (s.fab.bankOf h.pkt.bank) h.pkt.dst = true ∧
      s.fitsHere (s.fab.bankOf h.pkt.bank) h.pkt.dst s.podTime = some s.podTime) ∧
    (let h : Held := ⟨0, { fromPeer 0 .other with dst := 99, relayed := true }⟩
     let s : State := { pod with fab := { pod.fab with basin := [h] } }
     s.fab.basin.find? (fun x => x.id == s.item) = some h ∧ bankPresent (s.fab.bankOf h.pkt.bank) h.pkt.dst = false) ∧
    ((keeper .waiting 0).fab.unacked 33 < 4096 ∧ (keeping .waiting 0).pkt.dst = 33) ∧
    (let k := { keeping .waiting 1 with directly := true }
     k.directly = true ∧ bankPresent (pod.fab.bankOf k.pkt.bank) k.pkt.dst = true) ∧
    ((if ({ fromPeer 13 .other with bank := true } : Packet).bank then pod.fab.validB else pod.fab.validA) = false) ∧
    (let s : State := { pod with fab := { pod.fab with validA := false } }
     (keeping .waiting 1).directly = false ∧ (keeping .waiting 1).pkt.kind ≠ 12 ∧
       (if (keeping .waiting 1).pkt.bank then s.fab.validB else s.fab.validA) = false) ∧
    (fromPeer 13 .other).dst = pod.pkg ∧ (fromPeer 13 .other).reserved = 0 ∧ (fromPeer 13 .other).kind < 14 ∧
    ({ fromPeer 13 .other with tag := 64 } : Packet).tag % 512 ≠ pod.pkg ∧ (fromPeer 13 .other).tag % 512 = pod.pkg ∧
    (∀ x ∈ [(Route.waiting, 0), (Route.waiting, 1), (.waiting, 15), (.direct 0, 3), (.direct 0, 15), (.relay 64 2 0, 1), (.waiting, 16)],
      (keeper x.1 x.2).keptBy (keeper x.1 x.2).item = some (keeping x.1 x.2) ∧
        (keeping x.1 x.2).routed / 250 < (keeper x.1 x.2).podTime / 250 ∧
        (keeping x.1 x.2).since + (keeper x.1 x.2).fab.ato ≤ (keeper x.1 x.2).podTime) ∧
    (let a : Await := { id := 0, peer := 33, since := 0, acc := none, red := none, copy := none, line := none }
     let s : State := { pod with fab := { pod.fab with awaits := [a] }, podTime := 100000 }
     s.fab.awaits.find? (fun x => x.id == s.item) = some a ∧ a.since + 1000 * s.fab.rto ≤ s.podTime) := by decide +kernel

/-- A write-back that is not injected yet, and no earlier one of its line. -/
theorem witness_LinkEvents_writeback :
    let k := { keeping .waiting 0 with pkt := { (keeping .waiting 0).pkt with kind := 3, body := .lwb 5 1 [] 0 } }
    let s : State := { pod with fab := { pod.fab with kept := [{ keeping .waiting 1 with id := 7 }, k] }, podTime := 20000 }
    s.keptBy s.item = some k ∧ k.tries = 0 ∧ s.fab.unacked k.pkt.dst < 4096 ∧ ∀ y ∈ s.fab.kept, ¬ y.id < k.id := by decide +kernel

/-- A line of package 33, and how it is awaited. -/
def farLine : Nat := 33 * 2 ^ 40
def awaitLine : Await := { id := 0, peer := 33, since := 0, acc := none, red := none, copy := none, line := some farLine }
def dirtyLine : PeerLine := { line := farLine, data := 5, dirty := 1, poison := 0, filled := 0, carried := 0, valid := true }

theorem witness_PacketEvents :
    (∀ k, k < 13 → pod.takesPacket (fromPeer k .other) k) ∧ pod.fab.flows = [] ∧ pod.fab.rxCopies = [] ∧ pod.nets.find 0 = some rn ∧
    rn.tenant = 0 ∧ rn.chans[3]? = some ⟨0x9000, 2, 1, 4, 0, false⟩ ∧ validCid 0xFBD = true ∧ pod.ownsByte (128 * (2 ^ 32 - 1)) = true ∧
    pod.dirFull (2 ^ 32 - 1) = false ∧ pod.isPeer (128 * farLine) = true ∧
    (awaitLine.line = some farLine ∧ awaitLine.peer = 33 ∧ awaitLine.id % 2 ^ 32 = (fromPeer 2 .other).tag ∧
      awaitLine.id % 2 ^ 32 ≠ ({ fromPeer 2 .other with tag := 1 } : Packet).tag) ∧ pod.fab.awaits = [] ∧ (pod.holdersOf (2 ^ 32 - 1)).contains 33 = false ∧
    (let u := ({ pod with peerLines := [dirtyLine] } : State).acceptPacket (fromPeer 5 (.recallLine farLine))
     let w := u.flushLine (u.home (128 * farLine)) farLine
     w.peerLine farLine = some dirtyLine ∧ dirtyLine.dirty ≠ 0) ∧
    (let u := pod.acceptPacket (fromPeer 7 .other)
     ((u.flushLine (u.home 0x3000) (0x3000 / 128)).sRead 0x3000 8).2.2 = false) ∧
    (let a : Await := { id := 0, peer := 33, since := 0, acc := some 5, red := none, copy := none, line := none }
     [a].find? (fun a => a.peer == 33 && a.id % 2 ^ 32 == 0 && (a.acc.isSome || a.red.isSome)) = some a) ∧
    ((pod.core 5).gated = false ∧ pod.rxCheck 5 [(0x7DFFF, 1)] none = ([(0x7DFFF, 1)], none) ∧ (pod.core 5).lm.wf = true) ∧ (0x12048 / 8 * 8 ≠ 0x1008) := by
  refine ⟨?_, by decide +kernel⟩
  intro k hk
  have : k = 0 ∨ k = 1 ∨ k = 2 ∨ k = 3 ∨ k = 4 ∨ k = 5 ∨ k = 6 ∨ k = 7 ∨ k = 8 ∨ k = 9 ∨ k = 10 ∨ k = 11 ∨ k = 12 := by omega
  rcases this with rfl | rfl | rfl | rfl | rfl | rfl | rfl | rfl | rfl | rfl | rfl | rfl | rfl <;>
    exact ⟨rfl, rfl, rfl, Or.inr (Or.inl rfl), by decide +kernel⟩

/-- A channel that no net of the tenant owns, a clean line, and a poisoned word, asked for by an atomic and answered to one. -/
theorem witness_PacketEvents_others :
    (∀ n ∈ (rn.chans[0]?).toList, n.limit = 0) ∧
    (let l := { dirtyLine with dirty := 0 }
     let u := ({ pod with peerLines := [l] } : State).acceptPacket (fromPeer 5 (.recallLine farLine))
     (u.flushLine (u.home (128 * farLine)) farLine).peerLine farLine = some l) ∧
    (let u := ({ pod with poison := [0x600] } : State).acceptPacket (fromPeer 7 .other)
     ((u.flushLine (u.home 0x3000) (0x3000 / 128)).sRead 0x3000 8).2.2 = true) ∧
    (let x := acc (.amo 0) (.sreg 7)
     (flying x).acc 5 = some x ∧ x.elems ≠ [] ∧ (flying x).byUid x.uid = some light) := by decide +kernel

/-- A write-back that arrives while another holder's answer is awaited; and a message that was settled, and one that was not. -/
theorem witness_PacketEvents_settled :
    (let a := { awaitLine with peer := 64, line := some (2 ^ 32 - 1) }
     let s : State := { pod with fab := { pod.fab with awaits := [a] } }
     s.takesPacket (fromPeer 3 .other) 3 ∧ s.ownsByte (128 * (2 ^ 32 - 1)) = true ∧ s.lineAwaited (2 ^ 32 - 1) = true ∧ a.peer ≠ 33 ∧
       (s.holdersOf (2 ^ 32 - 1)).contains 33 = false ∧ pod.lineAwaited (2 ^ 32 - 1) = false) ∧
    (let s : State := { pod with fab := { pod.fab with settled := [(33, 7)] }, launches := [(0, fetchLaunch)] }
     (33, 7) ∈ s.fab.settled ∧ (33, 8) ∉ s.fab.settled ∧ (s.launches.find (15 / 16)).isSome = true ∧ s.launches.find (16 / 16) = none) := by
  refine ⟨⟨⟨rfl, rfl, rfl, Or.inr (Or.inl rfl), by decide +kernel⟩, by decide +kernel⟩, by decide +kernel⟩

/-! ## Single steps: each expected value comes from a worked example of the manual or is computed by hand from the rule named -/

/-- The fault recorded for launch 0 in an answer. -/
def fault0 (o : Out) : Option FaultRec := (after o).bind fun s => (s.launches.find 0).bind fun l => l.fault

/-- R114: sums wrap. -/
theorem test_add_wraps : (ctx0 (exec (.add [] 3 4 4) (at0 small))).map (fun c => c.rs 3) = some 0xFFFFFFFFFFFFFFFE := by decide +kernel

/-- R115: the quotient of the least value by −1, into its own source, with no flag. -/
theorem test_div_wraps : (ctx0 (exec (.div [] 5 5 4) (at0 small))).map (fun c => (c.rs 5, c.fpflags)) = some (0x8000000000000000, 0) := by
  decide +kernel

/-- R115: 7 divided by 0 leaves 7, and `DZ` is set. -/
theorem test_rem_zero : (ctx0 (exec (.rem [] 3 1 2) (at0 (regs light [(1, 7)])))).map (fun c => (c.rs 3, c.fpflags)) = some (7, 2) := by
  decide +kernel

/-- R115: −7 divided by 2, unsigned. -/
theorem test_remz : (ctx0 (exec (.divz [] 3 1 2) (at0 (regs light [(1, 0xFFFFFFFFFFFFFFF9), (2, 2)])))).map (fun c => c.rs 3) =
    some 0x7FFFFFFFFFFFFFFC := by decide +kernel

/-- R114: the high half of an unsigned product. -/
theorem test_mulhz : (ctx0 (exec (.mulhz [] 3 4 4) (at0 small))).map (fun c => c.rs 3) = some 0xFFFFFFFFFFFFFFFE := by decide +kernel

/-- The example behind R119: the upper part of a 64-bit constant. -/
theorem test_lih : (ctx0 (exec (.lih [.imm 0x9, .imm 0x068ACF] 1 0x1357A) (at0 light))).map (fun c => c.rs 1) = some 0x123456789ABD0000 := by
  decide +kernel

/-- The example behind R119: its lower part. -/
theorem test_addi : (ctx0 (exec (.addi [] 1 1 0x5EF0) (at0 (regs light [(1, 0x123456789ABD0000)])))).map (fun c => c.rs 1) =
    some 0x123456789ABCDEF0 := by decide +kernel

/-- R118: the sum wraps modulo 2^57. -/
theorem test_addpc : (ctx0 (exec (.addpc [] 1 0x80000) (at0 light))).map (fun c => c.rs 1) = some 0x1FFFFFFFFE01000 := by decide +kernel

/-- R119: all sources are read before the destination is written. -/
theorem test_sel : (ctx0 (exec (.sel [] 3 1 2 3) (at0 small))).map (fun c => c.rs 3) = some 0x100 := by decide +kernel

/-- Example of `fcvt.s32.f32.rz`: 2.75 gives 2 and `NX`; −2,500,000,000 gives the least value and only `NV`. -/
theorem test_fcvt : decodeWords [0x16320845] = .ok (.fcvt [] 3 4 2 1 1, []) ∧
    (ctx0 (exec (.fcvt [] 3 4 2 1 1) (at0 (regs light [(4, 0x40300000)])))).map (fun c => (c.rs 3, c.fpflags)) = some (2, 16) ∧
    (ctx0 (exec (.fcvt [] 3 4 2 1 1) (at0 (regs light [(4, 0xCF1502F9)])))).map (fun c => (c.rs 3, c.fpflags)) =
      some (0xFFFFFFFF80000000, 1) := by decide +kernel

/-- Examples of R62 and R150: four F32 values converted into TD8, and back. -/
theorem test_vcvt : (ctx0 (exec (.vcvt [] 6 5 5 0 0) (at0 (vecs light [(5, 0xC87424003E6800003F92000040533333, 2)])))).map
      (fun c => ((c.getV 6).bits, (c.getV 6).tag, c.fpflags)) = some (0x82644048, 5, 20) ∧
    (ctx0 (exec (.vcvt [] 7 6 2 0 0) (at0 (vecs light [(6, 0x82644048, 5)])))).map (fun c => ((c.getV 7).bits, (c.getV 7).tag, c.fpflags)) =
      some (0xC7C350003E59999A3F80000040500000, 2, 0) := by decide +kernel

/-- Example of R139: the record of a BF16 register where F32 is expected. -/
theorem test_fmttrap : formatRec 3 4 3 1 = 0x146043 ∧
    (fault0 (exec (.vadd [] 1 2 3 0 0) (at0 (vecs light [(2, 0, 2), (3, 0, 3)])))).map (fun f => (f.cause, f.xpc)) = some (4, 0x1000) := by
  decide +kernel

/-- Examples of R72: 0.5 + 10 + 1, exact; 0.4, rounded once. -/
theorem test_vdot : (ctx0 (exec (.vdotTd8 [] 4 1 2 3 0 0) (at0 (vecs light [(1, 0x6040, 5), (2, 0x40402020, 5), (3, 0x3F000000, 2)])))).map
      (fun c => ((c.getV 4).bits, (c.getV 4).tag, c.fpflags)) = some (0x41380000, 2, 0) ∧
    (ctx0 (exec (.vdotTd8 [] 4 1 2 3 0 0) (at0 (vecs light [(1, 0x60606060, 5), (2, 0x40404040, 5), (3, 0, 2)])))).map
      (fun c => ((c.getV 4).bits, c.fpflags)) = some (0x3ECCCCCD, 16) := by decide +kernel

/-- The run of the streamed sum (R165): the root of `vredsum` over its last vector is 76.5, without a flag. -/
theorem test_vredsum : (ctx0 (exec (.vredsum [] 3 2 0 0) (at0 (vecs light [(2, ((List.range 64).map fun i =>
      (if i < 8 then [0x3F800000, 0x40400000, 0xC0800000, 0x41080000] else [0x3F000000, 0x3FC00000, 0xC0000000, 0x40880000]).getD (i % 4) 0 *
        2 ^ (32 * i)).sum, 2)])))).map (fun c => ((c.getV 3).bits, (c.getV 3).tag, c.fpflags)) = some (0x42990000, 2, 0) := by decide +kernel

/-- Example of R168: `ckacc.mod` of four lanes. -/
theorem test_ckacc : (ctx0 (exec (.ckaccMod [] 0 4 1) (at0 { vecs light [(4, 0x000000030000000200000001FFFFFFFF, 1)] with
      k := light.k.setIfInBounds 1 0xF }))).map (fun c => c.q[0]) = some (0x00000004_0000000100000005#128) := by decide +kernel

/-- Example of R168: `ckrd.hi`. -/
theorem test_ckrd : (ctx0 (exec (.ckrdHi [] 9 0) (at0 (light.setQ 0 0x000000040000000100000005)))).map (fun c => c.rs 9) = some 4 := by
  decide +kernel

/-- Example of R168: a difference of 1 against a tolerance of 0 ends the launch, and one against 1 passes. -/
theorem test_check : (let c := (light.setQ 0 0x000000040000000100000005).setQ 1 0x000000040000000100000004
    (fault0 (exec (.check [] 0 0 1) (at0 c))).map (fun f => (f.cause, f.detail, f.xval)) = some (0x18, 4, 1) ∧
    (ctx0 (exec (.check [] 3 0 1) (at0 (regs c [(3, 1)])))).map (fun c => c.pc) = some 0x1004) := by decide +kernel

/-- The step of the example of R65, with one operand open. -/
def exampleStep (x : Nat) : FVal := stepValue 5 (([0x5F, x] ++ List.replicate 62 0).map td8Value) (([0x20, 0xC0] ++ List.replicate 62 0).map td8Value)

/-- Example of R65: one TD8 step with two products, and its accumulation; a NaN code. -/
theorem test_td8_step : accumF 0 (exampleStep 0x60) none = 0x42C22CCD ∧ accumF 0 (exampleStep 0x80) none = 0x7FC00000 := by decide +kernel

/-- Example of R67: the tree order of a BF16 step is part of its result. -/
theorem test_bf16_step : accumF 0 (stepValue 3 (([0x4B80, 0x3F80, 0x3F80, 0x4B80] ++ List.replicate 28 0).map bf16.value)
    (([0x3F80, 0x3F80, 0x3F80, 0xBF80] ++ List.replicate 28 0).map bf16.value)) none = 0x3F800000 := by decide +kernel

/-- Example of R12: travel between cores of two reticles. -/
theorem test_travel : travel 0x323 0xC7A = 82 := by decide

/-- Example of R291: the home core of a line of own near DRAM. -/
theorem test_home : State.reset.home (State.reset.pkg * 2 ^ 47 + 0x1234567880) = 0x308 := by decide +kernel

/-- Example of R301: the table indexes of an address. -/
theorem test_va_index : [4, 3, 2, 1, 0].map (vaIndex 0x4012345678) = [0, 0, 256, 145, 20] := by decide

/-- Example of R310: a launch packet. -/
theorem test_packet : (let c := commandOf (bytesOf 64 0x000000010000200000000541C00C1005)
    c.mark = 5 ∧ c.ver = 1 ∧ c.kind = 0 ∧ c.net = 3 ∧ c.tenant = 7 ∧ c.prio = 5 ∧ c.deps.headD 0 = 2 ∧ c.handler = 0x100002000) := by
  decide +kernel

/-- Example of R343: where two packages meet. -/
theorem test_meet : meetPlane 5 300 = 9 ∧ meetSlot 5 300 = 9 := by decide

/-- Examples of the CSR forms: a task-level write of `XCAUSE`, a read of `INJCTL`, a write of `RWC`. -/
theorem test_csr : decodeWords [0x32900030] = .ok (.csrr [] 9 0x030, []) ∧ decodeWords [0x32001023] = .ok (.csrw [] 0 0x023, []) ∧
    (ctx0 (exec (.csrw [] 0 0x023) (at0 { light with fpflags := 63 }))).map (fun c => c.fpflags) = some 0 := by decide +kernel

/-- R132: a store and the load behind it. -/
theorem test_store : ((after (exec (.stl [] 2 1 3 0 0) (at0 (regs light [(1, 0x100), (2, 0x1122334455667788)])))).bind fun s =>
    (ctx0 (exec (.ldl [] 3 1 2 0 0) s)).map fun c => c.rs 3) = some 0x55667788 := by decide +kernel


end Sys2Proof.Tests
end

section
namespace Sys2Proof.Machine

/-! # The fetch of a word that nothing caches -/

theorem ofBytes_append (l r : List Byte) : ofBytes (l ++ r) = ofBytes l + 256 ^ l.length * ofBytes r := by
  induction l with
  | nil => simp [ofBytes]
  | cons b l ih =>
    simp only [List.cons_append, ofBytes, ih, List.length_cons]
    ring

theorem Mem.readBytes_add (m : Mem) (a i n : Nat) : m.readBytes a (i + n) = m.readBytes a i ++ m.readBytes (a + i) n := by
  induction i generalizing a with
  | zero => simp [Mem.readBytes]
  | succ i ih =>
    rw [Nat.succ_add, Mem.readBytes, Mem.readBytes, ih, List.cons_append, Nat.add_assoc a 1 i, Nat.add_comm 1 i]

theorem ofBytes_lt (l : List Byte) : ofBytes l < 256 ^ l.length := by
  induction l with
  | nil => simp [ofBytes]
  | cons b l ih =>
    have hb := b.isLt
    rw [ofBytes, List.length_cons, pow_succ]
    omega

/-- Bytes are numbered lowest first (R3). -/
theorem Mem.readN_add (m : Mem) (a i n : Nat) : m.readN a (i + n) = m.readN a i + 256 ^ i * m.readN (a + i) n := by
  rw [Mem.readN, Mem.readBytes_add, ofBytes_append, Mem.readBytes_length]
  rfl

theorem Mem.readN_lt (m : Mem) (a n : Nat) : m.readN a n < 256 ^ n := by
  simpa [Mem.readN] using ofBytes_lt (m.readBytes a n)

theorem Mem.toNat_ofNat_readN (m : Mem) (a n : Nat) : (BitVec.ofNat (8 * n) (m.readN a n)).toNat = m.readN a n :=
  Nat.mod_eq_of_lt (lt_of_lt_of_eq (m.readN_lt a n) (pow_mul 2 8 n).symm)

/-- Some bytes of a range that was read are those that a read of their own finds. -/
theorem Mem.bits_readN (m : Mem) (a i n k : Nat) : bits (m.readN a (i + (n + k))) (8 * i) (8 * n) = m.readN (a + i) n := by
  have h256 (j : Nat) : 2 ^ (8 * j) = 256 ^ j := pow_mul 2 8 j
  rw [bits, h256, h256, m.readN_add a i, Nat.add_mul_div_left _ _ (Nat.pow_pos (by decide)), Nat.div_eq_of_lt (m.readN_lt a i), Nat.zero_add,
    m.readN_add (a + i) n, Nat.add_mul_mod_self_left, Nat.mod_eq_of_lt (m.readN_lt _ n)]

/-- A word within a line that was read whole. -/
theorem lineGet_readN (m : Mem) (pa : Nat) (h : pa % 128 + 4 ≤ 128) :
    lineGet (BitVec.ofNat 1024 (m.readN (128 * (pa / 128)) 128)) (pa % 128) 4 = m.readN pa 4 := by
  obtain ⟨k, hk⟩ : ∃ k, 128 = pa % 128 + (4 + k) := ⟨128 - (pa % 128 + 4), by omega⟩
  have hdata : (BitVec.ofNat 1024 (m.readN (128 * (pa / 128)) 128)).toNat = _ := m.toNat_ofNat_readN _ 128
  have hword := m.bits_readN (128 * (pa / 128)) (pa % 128) 4 k
  rw [← hk, Nat.div_add_mod] at hword
  rw [lineGet, hdata, hword]

/-- The fields of an address above its line offset are those of its line's address. -/
theorem bits_lineAddr (pa lo n : Nat) (h : 7 ≤ lo) : bits (128 * (pa / 128)) lo n = bits pa lo n := by
  obtain ⟨j, rfl⟩ := Nat.exists_eq_add_of_le h
  simp only [bits, pow_add, ← Nat.div_div_eq_div_mul]
  simp

theorem paSpace_lineAddr (pa : Nat) : paSpace (128 * (pa / 128)) = paSpace pa := bits_lineAddr pa 45 2 (by decide)

theorem State.isPeer_lineAddr (s : State) (pa : Nat) : s.isPeer (128 * (pa / 128)) = s.isPeer pa := by
  simp only [State.isPeer, paSpace_lineAddr, paPkg, bits_lineAddr pa 47 9 (by decide)]

/-- A state whose memory is unmarked, with no slice line and the injector not armed. -/
structure State.Uncached (s : State) : Prop where
  injArm : s.cfg.injArm = false
  poison : s.poison = []
  slices : s.slices = []
  peerLines : s.peerLines = []

variable {s : State}

/-- A fill then evicts no line and marks none (R298, R375). -/
theorem State.Uncached.sFill (h : s.Uncached) (line : Nat) : s.sFill line = { s with slices := [⟨line, 0, 0, 0⟩] } := by
  have hread : s.arrayRead (128 * line) 128 = s := by simp [State.arrayRead, State.injHits, h.injArm]
  have hroom : s.sliceRoom line = s := by simp [State.sliceRoom, State.fitSet, State.sliceSet, h.slices, h.peerLines]
  simp [State.sFill, State.sliceLine, hread, hroom, State.arrayMarks, h.slices, h.poison]

theorem State.Uncached.mem_sFill (h : s.Uncached) (line : Nat) : (s.sFill line).mem = s.mem := by rw [h.sFill]

theorem State.Uncached.sMarks_sFill (h : s.Uncached) {line : Nat} (hp : s.isPeer (128 * line) = false) : (s.sFill line).sMarks line = 0 := by
  have hown : (s.sFill line).isPeer (128 * line) = false := by rw [h.sFill]; exact hp
  rw [State.sMarks, hown, if_neg Bool.false_ne_true, h.sFill]
  simp [State.sliceLine]

/-- A read of the line at S then finds its bytes in memory, and no mark (R269, R298). -/
theorem State.Uncached.sRead (h : s.Uncached) {line : Nat} (hs : paSpace (128 * line) < 2) (hp : s.isPeer (128 * line) = false) :
    s.sRead (128 * line) 128 = (s.sFill line, s.mem.readN (128 * line) 128, false) := by
  have hline : 128 * line / 128 = line := Nat.mul_div_cancel_left _ (by decide)
  rw [State.sRead, hp, if_neg Bool.false_ne_true, if_pos hs]
  simp only [hline, h.mem_sFill, h.sMarks_sFill hp, lineBad]
  rfl

/-- So a word's line is fetched from memory, unmarked (R213). -/
theorem State.Uncached.fetchLine (h : s.Uncached) {cid pa : Nat} (hi : (s.core cid).icache = []) (hs : paSpace pa < 2)
    (hp : s.isPeer pa = false) :
    ∃ u, u.mem = s.mem ∧ s.fetchLine cid pa = (u, BitVec.ofNat 1024 (s.mem.readN (128 * (pa / 128)) 128), false) := by
  have hpeer : s.isPeer (128 * (pa / 128)) = false := (s.isPeer_lineAddr pa).trans hp
  have hread := h.sRead (lt_of_eq_of_lt (paSpace_lineAddr pa) hs) hpeer
  have hf : s.fetchLine cid pa = ((s.fetchLine cid pa).1, BitVec.ofNat 1024 (s.mem.readN (128 * (pa / 128)) 128), false) := by
    simp only [State.fetchLine, hi, List.find?_nil, hread, h.sMarks_sFill hpeer, lineBad]
    rfl
  refine ⟨_, ?_, hf⟩
  simpa only [State.fetchLine, hi, List.find?_nil, hread, State.modCore_mem] using h.mem_sFill _

/-- Settles O5: the line is filled from memory and the word is taken from it. -/
theorem fetchReadsMemory : Obligations.FetchReadsMemory := by
  intro s c pc hpt hinj hpoison hslices hpeers hi hid hs hp hoff w
  have h : s.Uncached := ⟨hinj, hpoison, hslices, hpeers⟩
  obtain ⟨u, hmem, hline⟩ := h.fetchLine hi hs hp
  have hat : s.translate c pc.toNat .fetch = .at pc.toNat := by
    simp [State.translate, hpt, hid, Nat.not_le.2 pc.isLt]
  have hdev : (paSpace pc.toNat == 3) = false := by simp; omega
  have hfetch (n : Nat) : s.fetchGroup c (n + 1) pc [] = if isExtWord w then u.fetchGroup c n (pc + 4) [w] else .words u [w] := by
    rw [State.fetchGroup, hat]
    simp only [hdev, State.lineHere_own 0 hp, hline, lineGet_readN _ _ hoff]
    rfl
  refine ⟨u, hmem, fun hw => ?_, fun hw => ?_⟩
  · rw [hfetch 3, hw, if_neg Bool.false_ne_true]
  · rw [hfetch 3, hw, if_pos rfl]

end Sys2Proof.Machine
end

section
/-! # Canonical memory

`State.MemOk` says that the bytes of the package's memory and of every core's local memory are kept in canonical form (R3). It speaks of
nothing else of a state, and the only writes to either are those of `Mem.writeBytes` and a clearing, which keep the form. So each function of
the model that gives a state keeps it, and one lemma per function says so, in the order of the model: it names the lemmas of the functions
that this one calls, and splits along its branches where they differ. What a function passes on beside a state (an effect, an outcome, a
fetched group) gets a predicate of its own, which asks `State.MemOk` of the states in it. -/

namespace Sys2Proof.Machine

variable {st : State}

/-- Both branches of a choice of states. -/
theorem State.MemOk.ite {c : Prop} [Decidable c] {t : State} (h : st.MemOk) (ht : t.MemOk) : (if c then st else t).MemOk := by
  split
  · exact h
  · exact ht

/-- A fold of steps that keep the form. -/
theorem State.MemOk.foldl {α : Type} {l : List α} {f : State → α → State} (h : st.MemOk) (hf : ∀ x t, t.MemOk → (f t x).MemOk) :
    (l.foldl f st).MemOk := by
  induction l generalizing st with
  | nil => exact h
  | cons x l ih => exact ih (hf x st h)

/-- The same with the step's result named, for a step that the kernel should not evaluate: `State.MemOk` is an abbreviation, so that two
spellings of one state may be compared by evaluating both. -/
theorem State.MemOk.foldlOf {α : Type} {l : List α} {f : State → α → State} (h : st.MemOk) (hf : ∀ x t u, t.MemOk → f t x = u → u.MemOk) :
    (l.foldl f st).MemOk := h.foldl fun x t ht => hf x t _ ht rfl

/-- A change of a core beside its local memory. -/
theorem State.MemOk.editCore (h : st.MemOk) {i : Nat} {f : Core → Core} (hf : ∀ k : Core, (f k).lm = k.lm := by exact fun _ => rfl) :
    (st.modCore i f).MemOk :=
  h.modCore i fun k hk => (hf k).symm ▸ hk

/-- Every core of a map changed alike, by a change that keeps the form of its local memory. -/
theorem State.MemOk.mapCores {t : State} {f : Nat × Core → Nat × Core} (h : st.MemOk) (m : t.mem = st.mem) (c : t.cores = st.cores.map f)
    (hf : ∀ p : Nat × Core, p.2.lm.wf = true → (f p).2.lm.wf = true) : t.MemOk := by
  refine ⟨m ▸ h.1, fun p hp => ?_⟩
  rw [c] at hp
  obtain ⟨q, hq, rfl⟩ := List.mem_map.1 hp
  exact hf q (h.2 q hq)

/-- The state of a pair that was taken apart. -/
theorem State.MemOk.of_fst {α : Type} {p : State × α} {x : α} (h : p.1.MemOk) (e : p = (st, x)) : st.MemOk := by
  subst e; exact h

/-- The states that an effect carries have canonical memory. -/
def Eff.MemOk : Eff → Prop
  | .done st _ => st.MemOk
  | .jump st _ _ => st.MemOk
  | .faulted st _ _ _ => st.MemOk
  | .held st _ => st.MemOk
  | .waits st _ => st.MemOk
  | .park st _ _ => st.MemOk
  | .trap st _ _ _ _ => st.MemOk
  | .yielded st _ _ _ _ => st.MemOk
  | .ended st => st.MemOk
  | .poison st _ => st.MemOk
  | .fault _ _ _ => True
  | .format _ => True

/-- So does the state with which an action begins, once what it reads is at hand. -/
def Ready.MemOk : Ready → Prop
  | .go st => st.MemOk
  | .act st => st.MemOk
  | .wait => True

/-- So does the state that a fetch leaves. -/
def Fetched.MemOk : Fetched → Prop
  | .words st _ => st.MemOk
  | .poison st _ => st.MemOk
  | _ => True

/-- So does the state that a rewrite of a net leaves. -/
def Applied.MemOk : Applied → Prop
  | .ok st => st.MemOk
  | .bad _ _ => True

/-- So does a state that there may be. -/
def OptMemOk : Option State → Prop
  | some st => st.MemOk
  | none => True

/-- So does a state that there may be beside something else. -/
def OptFstMemOk {α : Type} : Option (State × α) → Prop
  | some p => p.1.MemOk
  | none => True

/-- So does the state that a step answers. Inductive, so that elaboration does not evaluate the outcome. -/
inductive Out.MemOk : Out → Prop
  | next {st : State} (h : st.MemOk) : MemOk (.next st)
  | fault {f : Fault} : MemOk (.fault f)
  | refused {r : Refusal} : MemOk (.refused r)

theorem Eff.MemOk.of_eq {x y : Eff} (h : x.MemOk) (e : x = y) : y.MemOk := e ▸ h

theorem Ready.MemOk.of_eq {x y : Ready} (h : x.MemOk) (e : x = y) : y.MemOk := e ▸ h

theorem Fetched.MemOk.of_eq {x y : Fetched} (h : x.MemOk) (e : x = y) : y.MemOk := e ▸ h

theorem Applied.MemOk.of_eq {x y : Applied} (h : x.MemOk) (e : x = y) : y.MemOk := e ▸ h

theorem OptMemOk.of_eq {o : Option State} (h : OptMemOk o) (e : o = some st) : st.MemOk := by
  subst e; exact h

theorem OptMemOk.getD {o : Option State} (h : OptMemOk o) (hs : st.MemOk) : (o.getD st).MemOk := by
  cases o with
  | none => exact hs
  | some t => exact h

theorem OptFstMemOk.of_pair {α : Type} {o : Option (State × α)} {x : α} (h : OptFstMemOk o) (e : o = some (st, x)) : st.MemOk := by
  subst e; exact h

theorem Out.MemOk.of_next {x : Out} (h : Out.MemOk x) (e : x = .next st) : st.MemOk := by
  subst e
  cases h with
  | next h => exact h

theorem Out.MemOk.idle {mnemonic : String} : Out.MemOk (idle mnemonic) := .refused

end Sys2Proof.Machine
end

section
/-! # Canonical memory: the operations on the state and on global memory -/

namespace Sys2Proof.Machine

-- One proof at a time: each thread of an asynchronous one reserves a whole stack, and hundreds of them exceed the memory given.
set_option Elab.async false

variable {st : State}

/-! ## The shared operations: units, barriers, contexts, faults, and the wrapper through which a word issues and retires -/

theorem State.MemOk.modCluster (h : st.MemOk) {g f} : (st.modCluster g f).MemOk := h

theorem State.MemOk.modLayer (h : st.MemOk) {l f} : (st.modLayer l f).MemOk := h

theorem State.MemOk.modTenant (h : st.MemOk) {t f} : (st.modTenant t f).MemOk := h

theorem State.MemOk.modStream (h : st.MemOk) {q f} : (st.modStream q f).MemOk := h

theorem State.MemOk.modLaunch (h : st.MemOk) {l f} : (st.modLaunch l f).MemOk := by
  unfold State.modLaunch
  split <;> exact h

theorem State.MemOk.modFiring (h : st.MemOk) {l f} : (st.modFiring l f).MemOk := by
  unfold State.modFiring
  split <;> exact h

theorem State.MemOk.modTile (h : st.MemOk) {t f} : (st.modTile t f).MemOk := by
  unfold State.modTile
  split <;> exact h

theorem State.MemOk.dropPins (h : st.MemOk) {holder} : (st.dropPins holder).MemOk := h

theorem State.MemOk.dropCopies (h : st.MemOk) {gone} : (st.dropCopies gone).MemOk := h

theorem State.MemOk.modNet (h : st.MemOk) {n f} : (st.modNet n f).MemOk := by
  unfold State.modNet
  split <;> exact h

theorem State.MemOk.tickStamp (h : st.MemOk) : (st.tickStamp).MemOk := h

theorem State.MemOk.setCtx (h : st.MemOk) {c} : (st.setCtx c).MemOk := h

theorem State.MemOk.modCtx (h : st.MemOk) {k f} : (st.modCtx k f).MemOk := by
  unfold State.modCtx
  split <;> exact h

theorem State.MemOk.wakeGranules (h : st.MemOk) {cid} : (st.wakeGranules cid).MemOk := h.wakeWhere _ _

theorem State.MemOk.credit (h : st.MemOk) {k n} : (st.credit k n).MemOk := by
  unfold State.credit
  split
  · exact h.setCtx.modTenant
  · exact h

theorem State.MemOk.killLaunch (h : st.MemOk) {l} : (st.killLaunch l).MemOk := h

theorem State.MemOk.purge (h : st.MemOk) {l} : (st.purge l).MemOk := h.mapCores rfl rfl fun _ hk => hk

theorem State.MemOk.failLaunch (h : st.MemOk) {l r} : (st.failLaunch l r).MemOk := by
  unfold State.failLaunch
  split
  · split
    · refine State.MemOk.purge (State.MemOk.killLaunch ?_)
      exact h
    · exact h
  · exact h

theorem State.MemOk.rerun (h : st.MemOk) {f apart} : (st.rerun f apart).MemOk := by
  unfold State.rerun
  split
  · extract_lets +onlyGivenNames t₁
    refine State.MemOk.tickStamp (State.MemOk.modFiring ?_)
    exact h
  · exact h

theorem State.MemOk.copyGone (h : st.MemOk) {f uid} : (st.copyGone f uid).MemOk := h.modFiring

theorem State.MemOk.settleFiring (h : st.MemOk) {f how} : (st.settleFiring f how).MemOk := by
  unfold State.settleFiring
  split
  · split
    · exact h
    · extract_lets +onlyGivenNames f₁
      have h₁ : ∀ x₀, (f₁ x₀).MemOk := fun _ => h.rerun.ite h
      split
      · exact h₁ _
      · exact h.failLaunch
      · exact h₁ _
      · exact h
  · exact h

theorem State.MemOk.programFault (h : st.MemOk) {c code detail xpc xval} : (st.programFault c code detail xpc xval).MemOk := by
  unfold State.programFault
  extract_lets +onlyGivenNames r₁ st₁
  have h₁ : st₁.MemOk := h.endCtx _ _
  split
  · exact h₁.failLaunch
  · exact h₁.copyGone.modFiring.settleFiring

theorem State.MemOk.killCtx (h : st.MemOk) {c} : (st.killCtx c).MemOk := by
  unfold State.killCtx
  extract_lets +onlyGivenNames st₁
  have h₁ : st₁.MemOk := h.endCtx _ _
  split
  · exact h₁
  · exact h₁.copyGone.settleFiring

theorem State.MemOk.loseCtx (h : st.MemOk) {c unit xval apart} : (st.loseCtx c unit xval apart).MemOk := by
  unfold State.loseCtx
  extract_lets +onlyGivenNames st₁
  have h₁ : st₁.MemOk := h.endCtx _ _
  split
  · exact h₁.failLaunch
  · exact h₁.copyGone.settleFiring

theorem State.MemOk.consumePoison (h : st.MemOk) {c va} : (st.consumePoison c va).MemOk := by
  unfold State.consumePoison
  split
  · exact (h.endCtx _ _).failLaunch
  · split
    · split
      · exact (h.endCtx _ _).failLaunch
      · exact h.modFiring.loseCtx
    · exact h.endCtx _ _

theorem State.MemOk.takeTrap (h : st.MemOk) {c code detail val xpc next} : (st.takeTrap c code detail val xpc next).MemOk := by
  unfold State.takeTrap
  split
  · exact h.programFault
  · split
    · exact h.programFault
    · exact h.setCtx

theorem State.MemOk.uncurrent (h : st.MemOk) {c} : (st.uncurrent c).MemOk := h.editCore

theorem State.MemOk.parkCtx (h : st.MemOk) {c w word pc} : (st.parkCtx c w word pc).MemOk := h.setCtx.uncurrent.tickStamp

/-- What an effect carries is what its settling passes on (R25, R27, R40 to R45). -/
theorem State.MemOk.settle (h : st.MemOk) {x : Eff} (h₁ : x.MemOk) {c n w late} : (settle st c n w late x).MemOk := by
  unfold Machine.settle
  split
  · exact State.MemOk.setCtx h₁
  · exact State.MemOk.parkCtx h₁
  · split
    · exact h.setCtx
    · split
      · exact State.MemOk.setCtx h₁
      · exact State.MemOk.retire h₁ _ _ _
      · exact State.MemOk.retire h₁ _ _ _
      · exact h.programFault
      · exact State.MemOk.programFault h₁
      · exact h.programFault
      · extract_lets +onlyGivenNames next st₁
        have h₂ : st₁.MemOk := State.MemOk.retire h₁ _ _ _
        split
        · exact h₂.takeTrap
        · exact h₂
      · extract_lets +onlyGivenNames next st₁
        have h₂ : st₁.MemOk := State.MemOk.retire h₁ _ _ _
        split
        · extract_lets +onlyGivenNames c'
          split
          · exact h₂.parkCtx
          · exact h₂.setCtx.uncurrent.tickStamp
        · exact h₂
      · exact h₁
      · exact State.MemOk.consumePoison h₁
      · exact h

/-- Every instruction issues through here: it is left to show that its body keeps the form (R36, R97). -/
theorem State.MemOk.issueWords (h : st.MemOk) {body : State → Ctx → Eff} (hbody : ∀ t x₁, t.MemOk → (body t x₁).MemOk) {free n w blocked} :
    Out.MemOk (issueWords free n w blocked body st) := by
  unfold Machine.issueWords
  split
  · exact .fault
  · split
    · exact .next h
    · exact .next (h.settle (hbody _ _ h))

theorem State.MemOk.issueWith (h : st.MemOk) {body : State → Ctx → Eff} (hbody : ∀ t x₁, t.MemOk → (body t x₁).MemOk) {free e w blocked} :
    Out.MemOk (issueWith free e w blocked body st) :=
  h.issueWords hbody

theorem State.MemOk.issue (h : st.MemOk) {body : State → Ctx → Eff} (hbody : ∀ t x₁, t.MemOk → (body t x₁).MemOk) {e w blocked} :
    Out.MemOk (issue e w blocked body st) :=
  h.issueWith hbody

theorem State.MemOk.issueFree (h : st.MemOk) {body : State → Ctx → Eff} (hbody : ∀ t x₁, t.MemOk → (body t x₁).MemOk) {e w blocked} :
    Out.MemOk (issueFree e w blocked body st) :=
  h.issueWith hbody

theorem State.MemOk.afterAcquires (h : st.MemOk) {go : Eff} (h₁ : go.MemOk) {c} : (afterAcquires st c go).MemOk := by
  unfold Machine.afterAcquires
  split
  · exact h
  · exact h₁

theorem State.MemOk.awaitBank (h : st.MemOk) {c} : (st.awaitBank c).MemOk := by
  unfold State.awaitBank
  split
  · exact h
  · extract_lets +onlyGivenNames a₁
    refine State.MemOk.tickStamp ?_
    exact h

theorem Eff.MemOk.atBank {x : Eff} (h : x.MemOk) : (atBank x).MemOk := by
  unfold Machine.atBank
  split
  · next st₁ _ =>
      have h₁ : st₁.MemOk := h
      exact h₁.awaitBank
  · exact h

theorem State.MemOk.localAccess (h : st.MemOk) {go : Eff} (h₁ : go.MemOk) {c} : (localAccess st c go).MemOk := h.afterAcquires (Eff.MemOk.atBank h₁)

theorem State.MemOk.signal (h : st.MemOk) {v} : (st.signal v).MemOk := by
  unfold State.signal
  split <;> exact h

/-! ## Packets that are sent and kept (R341 to R354) -/

theorem State.MemOk.flagPeer (h : st.MemOk) {q} : (st.flagPeer q).MemOk := by
  unfold State.flagPeer
  split
  · exact h
  · exact h.signal.ite h

theorem State.MemOk.send (h : st.MemOk) {dst kind len tenant tag body launch} : (st.send dst kind len tenant tag body launch).MemOk := h

theorem State.MemOk.acknowledge (h : st.MemOk) {src eseq} : (st.acknowledge src eseq).MemOk := h

theorem State.MemOk.returnCredits (h : st.MemOk) : (st.returnCredits).MemOk := h

theorem State.MemOk.sendFailure (h : st.MemOk) {dst about} : (st.sendFailure dst about).MemOk := h

theorem State.MemOk.refuseRelay (h : st.MemOk) {p} : (st.refuseRelay p).MemOk := h

theorem State.MemOk.nextTag (h : st.MemOk) {flow} : (st.nextTag flow).1.MemOk := h

/-! ## Global memory at its points: the writes at S, slices, peer lines and data caches (R269 to R271, R298, R299) -/

theorem State.MemOk.logEvent (h : st.MemOk) {kind pa} : (st.logEvent kind pa).MemOk := h

theorem State.MemOk.correct (h : st.MemOk) {pa} : (st.correct pa).MemOk := by
  unfold State.correct
  extract_lets +onlyGivenNames st₁
  have h₁ : st₁.MemOk := h.logEvent
  split <;> exact h₁

theorem State.MemOk.arrayRead (h : st.MemOk) {pa n} : (st.arrayRead pa n).MemOk := by
  unfold State.arrayRead
  split
  · extract_lets +onlyGivenNames -merge w₁ _ st₁
    have h₁ : st₁.MemOk := h
    split
    · exact h₁.correct
    · split
      · exact h₁.correct
      · exact h₁
    · exact h₁
    · exact h₁
  · exact h

theorem State.MemOk.invalidateHolders (h : st.MemOk) {line keep tenant} : (st.invalidateHolders line keep tenant).MemOk := by
  unfold State.invalidateHolders
  extract_lets +onlyGivenNames x₁
  split
  · exact h
  · extract_lets +onlyGivenNames st₁
    have h₁ : st₁.MemOk := h.foldl fun _ _ h₂ => h₂.send
    split
    · split <;> exact h₁
    · exact h₁

/-- The one write to global memory (R269): its bytes go through `Mem.writeBytes`. -/
theorem State.MemOk.sWrite (h : st.MemOk) {pa l} : (st.sWrite pa l).MemOk := by
  unfold State.sWrite
  extract_lets +onlyGivenNames mask clean
  split
  · exact h
  · have hw : (st.mem.writeBytes (canonPa pa) l).wf = true := Mem.wf_writeBytes _ _ h.1
    split
    · refine State.MemOk.invalidateHolders ?_
      exact ⟨hw, h.2⟩
    · refine State.MemOk.invalidateHolders ?_
      exact ⟨hw, h.2⟩

theorem State.MemOk.sPoison (h : st.MemOk) {pa n} : (st.sPoison pa n).MemOk := by
  unfold State.sPoison
  extract_lets +onlyGivenNames mark₁
  split
  · exact h
  · split <;> exact h

/-- A line written back is written in runs of its dirty bytes (R270). -/
theorem State.MemOk.sWriteMasked (h : st.MemOk) {line data mask carried} : (st.sWriteMasked line data mask carried).MemOk := by
  unfold State.sWriteMasked
  extract_lets +onlyGivenNames -underBinder st₁
  have h₁ : st₁.MemOk := by
    unfold st₁
    refine h.foldl fun _ _ h₂ => ?_
    extract_lets +onlyGivenNames m₁
    split
    · exact h₂
    · extract_lets +onlyGivenNames a₁ st₂
      have h₃ : st₂.MemOk := h₂.sWrite.ite (h₂.foldl (fun _ _ h₄ => h₄.sWrite.ite h₄))
      split
      · exact h₃.sPoison
      · exact h₃
  exact h₁

theorem State.MemOk.requestLine (h : st.MemOk) {line tenant} : (st.requestLine line tenant).MemOk := by
  unfold State.requestLine
  split <;> exact h

theorem State.MemOk.writeBack (h : st.MemOk) {h₁ line} : (st.writeBack h₁ line).MemOk := by
  unfold State.writeBack
  split
  · split
    · exact h
    · exact h.sWriteMasked.editCore
  · exact h

theorem State.MemOk.flushLine (h : st.MemOk) {h₁ line} : (st.flushLine h₁ line).MemOk := by
  unfold State.flushLine
  split
  · exact h.writeBack.editCore
  · exact h

theorem State.MemOk.writeBackAs (h : st.MemOk) {p tenant tag} : (st.writeBackAs p tenant tag).MemOk := by
  unfold State.writeBackAs
  split
  · exact h
  · extract_lets +onlyGivenNames -merge _ st₁
    have h₁ : st₁.MemOk := h
    exact h₁.send

theorem State.MemOk.sendWriteBack (h : st.MemOk) {p} : (st.sendWriteBack p).MemOk := h.writeBackAs

theorem State.MemOk.forgetPeer (h : st.MemOk) {line} : (st.forgetPeer line).MemOk := h

theorem State.MemOk.dropPeerLine (h : st.MemOk) {line} : (st.dropPeerLine line).MemOk := by
  unfold State.dropPeerLine
  extract_lets +onlyGivenNames st₁
  have h₁ : st₁.MemOk := h.flushLine
  split
  · exact h₁.sendWriteBack.forgetPeer
  · exact h₁

theorem State.MemOk.arrayTake (h : st.MemOk) {l} : (st.arrayTake l).MemOk := h

theorem State.MemOk.dropSliceLine (h : st.MemOk) {line} : (st.dropSliceLine line).MemOk := by
  unfold State.dropSliceLine
  extract_lets +onlyGivenNames st₁
  have h₁ : st₁.MemOk := h.flushLine
  split <;> exact h₁

theorem State.MemOk.fitSet (h : st.MemOk) {g set ways} : (st.fitSet g set ways).MemOk := by
  unfold State.fitSet
  extract_lets +onlyGivenNames l₁
  split
  · exact h
  · split
    · exact (h.dropPeerLine.ite h.dropSliceLine).of_eq rfl rfl
    · exact h

theorem State.MemOk.sliceRoom (h : st.MemOk) {line} : (st.sliceRoom line).MemOk := h.fitSet

theorem State.MemOk.takeTransit (h : st.MemOk) {tile} : (st.takeTransit tile).MemOk := by
  unfold State.takeTransit
  split
  · exact h.foldl fun _ _ h₁ => h₁.fitSet
  · exact h

theorem State.MemOk.sFill (h : st.MemOk) {line} : (st.sFill line).MemOk := by
  unfold State.sFill
  split
  · exact h
  · exact h.arrayRead.sliceRoom

theorem State.MemOk.sRead (h : st.MemOk) {pa n} : (st.sRead pa n).1.MemOk := by
  unfold State.sRead
  split
  · split <;> exact h
  · split
    · exact h.sFill
    · exact h

theorem State.MemOk.behindRead (h : st.MemOk) {pa n} : (st.behindRead pa n).1.MemOk := by
  unfold State.behindRead
  split
  · exact h.sRead
  · exact h.arrayRead

theorem State.MemOk.makeRoom (h : st.MemOk) {h₁ line} : (st.makeRoom h₁ line).MemOk := by
  unfold State.makeRoom
  extract_lets +onlyGivenNames set₁
  split
  · exact h
  · split
    · exact h.flushLine.of_eq rfl rfl
    · exact h

theorem State.MemOk.lineAt (h : st.MemOk) {h₁ line since} : (st.lineAt h₁ line since).1.MemOk := by
  unfold State.lineAt
  extract_lets +onlyGivenNames -underBinder f₁
  have h₁ : ∀ s₀, s₀.MemOk → (f₁ s₀).1.MemOk := by
    refine fun _ h₂ => ?_
    exact h₂.sRead
  split
  · split
    · exact h
    · split
      next st₁ _ e =>
        have h₃ : st₁.MemOk := (h₁ _ h).of_fst e
        exact h₃.editCore
  · extract_lets +onlyGivenNames st₂
    have h₄ : st₂.MemOk := h.makeRoom
    split
    next st₃ _ e =>
      have h₅ : st₃.MemOk := (h₁ _ h₄).of_fst e
      exact h₅.editCore

theorem State.MemOk.hRead (h : st.MemOk) {h₁ pa n since} : (st.hRead h₁ pa n since).1.MemOk := by
  unfold State.hRead
  split
  next st₁ _ e =>
    have h₁ : st₁.MemOk := h.lineAt.of_fst e
    exact h₁

theorem State.MemOk.hWrite (h : st.MemOk) {h₁ pa l} : (st.hWrite h₁ pa l).MemOk := by
  unfold State.hWrite
  split
  next st₁ _ e =>
    have h₁ : st₁.MemOk := h.lineAt.of_fst e
    exact h₁.editCore

theorem Ready.MemOk.andThen {r : Ready} (h : r.MemOk) {f : State → Ready} (hf : ∀ t, t.MemOk → (f t).MemOk) : (Ready.andThen r f).MemOk := by
  unfold Machine.Ready.andThen
  split
  · next st₁ =>
      have h₁ : st₁.MemOk := h
      exact hf _ h₁
  · exact h

theorem State.MemOk.readyLine (h : st.MemOk) {pa since tenant} : (st.readyLine pa since tenant).MemOk := by
  unfold State.readyLine
  split
  · exact h
  · split
    · exact trivial
    · exact h.requestLine

theorem State.MemOk.readyLines (h : st.MemOk) {since tenant l} : (State.readyLines since tenant l st).MemOk := by
  induction l generalizing st with
  | nil => exact h
  | cons pa l ih => exact Ready.MemOk.andThen h.readyLine fun _ h₁ => ih h₁

theorem State.MemOk.readyOwner (h : st.MemOk) {pa} : (st.readyOwner pa).MemOk := by
  unfold State.readyOwner
  extract_lets +onlyGivenNames line₁ st₁
  have h₁ : st₁.MemOk := h.flushLine
  split
  · exact h₁.sendWriteBack
  · split
    · exact trivial
    · exact h₁

theorem State.MemOk.writeBackStored (h : st.MemOk) {uid} : (st.writeBackStored uid).MemOk := (h.foldl (fun _ _ h₁ => h₁.writeBack)).of_eq rfl rfl

theorem State.MemOk.writeBackPeers (h : st.MemOk) : (st.writeBackPeers).MemOk := h.foldl fun _ _ h₁ => h₁.sendWriteBack

theorem State.MemOk.flushLayer (h : st.MemOk) {l} : (st.flushLayer l).MemOk := h.foldl fun _ _ h₁ => h₁.foldl fun _ _ h₂ => h₂.writeBack

/-- A read over several lines, by induction on its fuel: each may fill a slice line (R298). -/
theorem State.MemOk.sReadBytes (h : st.MemOk) {k pa n} : (State.sReadBytes k st pa n).1.MemOk := by
  induction k generalizing st pa n with
  | zero => exact h
  | succ k ih =>
    unfold State.sReadBytes
    split
    · exact h
    · exact ih h.sRead

/-- A write over several lines, by induction on its fuel. -/
theorem State.MemOk.sWriteBytes (h : st.MemOk) {k pa l} : (State.sWriteBytes k st pa l).MemOk := by
  induction k generalizing st pa l with
  | zero => exact h
  | succ k ih =>
    unfold State.sWriteBytes
    split
    · exact h
    · exact ih h.sWrite

/-! ## Walks, station entries and page requests (R301 to R306) -/

theorem State.MemOk.tableRead (h : st.MemOk) {pa n} : (st.tableRead pa n).1.MemOk := by
  unfold State.tableRead
  split
  · exact h
  · split
    · exact h
    · split
      next st₁ _ _ e =>
        have h₁ : st₁.MemOk := h.sRead.of_fst e
        exact h₁

/-- A walk reads one table entry per level (R301). -/
theorem State.MemOk.walkLevels (h : st.MemOk) {pid va lvl t ok} : (State.walkLevels pid va lvl st t ok).1.MemOk := by
  induction lvl generalizing st t ok with
  | zero =>
    unfold State.walkLevels
    extract_lets +onlyGivenNames a
    split
    next st₁ _ e =>
    have h₁ : st₁.MemOk := h.tableRead.of_fst e
    split
    · exact h₁
    · exact h₁
    · extract_lets +onlyGivenNames ok₁
      split
      · exact h₁
      · split
        · exact h₁
        · split <;> exact h₁
  | succ l ih =>
    unfold State.walkLevels
    extract_lets +onlyGivenNames a
    split
    next st₁ _ e =>
    have h₁ : st₁.MemOk := h.tableRead.of_fst e
    split
    · exact h₁
    · exact h₁
    · extract_lets +onlyGivenNames ok₁
      split
      · exact h₁
      · split
        · exact h₁
        · split
          · exact h₁
          · exact ih h₁

theorem State.MemOk.walkNow (h : st.MemOk) {pid tenant va} : (st.walkNow pid tenant va).1.MemOk := by
  unfold State.walkNow
  extract_lets +onlyGivenNames a₁
  split
  next st₁ _ e =>
    have h₁ : st₁.MemOk := h.tableRead.of_fst e
    split
    · exact h₁
    · exact h₁
    · split
      · exact h₁
      · exact h₁.walkLevels

theorem State.MemOk.requestWalk (h : st.MemOk) {c va k} : (st.requestWalk c va k).MemOk := by
  unfold State.requestWalk
  extract_lets +onlyGivenNames stn₁ pid₁ w₁
  split
  · exact h
  · split
    · exact h
    · split <;> exact h

theorem State.MemOk.installEntry (h : st.MemOk) {stn e} : (st.installEntry stn e).MemOk := h

theorem State.MemOk.pageRequest (h : st.MemOk) {rec} : (st.pageRequest rec).MemOk := by
  unfold State.pageRequest
  extract_lets +onlyGivenNames m₁
  split
  · exact h
  · split
    · split
      · exact h
      · refine State.MemOk.signal ?_
        exact h
    · extract_lets +onlyGivenNames st₁
      have h₁ : st₁.MemOk := h.sWriteBytes
      refine State.MemOk.signal ?_
      exact h₁

theorem State.MemOk.contextRequest (h : st.MemOk) {c va k} : (st.contextRequest c va k).MemOk := h.pageRequest

theorem State.MemOk.engineWalk (h : st.MemOk) {a tenant} : OptMemOk (st.engineWalk a tenant) := by
  unfold State.engineWalk
  extract_lets +onlyGivenNames stn₁ mine₁
  split
  · exact trivial
  · split
    · exact h
    · split
      · exact trivial
      · exact h

theorem State.MemOk.toldEngine (h : st.MemOk) {cid pid sup k vas} : (st.toldEngine cid pid sup k vas).MemOk := by
  unfold State.toldEngine
  split <;> exact h

theorem State.MemOk.withXlate (h : st.MemOk) {go : List ℕ → Eff} (hgo : ∀ x₀, (go x₀).MemOk) {c k vas} : (withXlate st c k vas go).MemOk := by
  unfold Machine.withXlate
  split
  · exact hgo _
  · exact h.requestWalk
  · exact trivial

/-! ## Vector operands and their streams (R138 to R140, R160 to R162) -/

theorem State.MemOk.withVectors (h : st.MemOk) {go : Ctx → Eff} (hgo : ∀ x₀, (go x₀).MemOk) {c named checks srcs offs} :
    (withVectors st c named checks srcs offs go).MemOk := by
  unfold Machine.withVectors
  split
  · exact trivial
  · split
    · exact trivial
    · split
      · next x _ =>
        have h₁ := hgo x
        split
        · next e =>
          have h₂ := h₁.of_eq e
          exact h₂
        · next e =>
          have h₂ := h₁.of_eq e
          exact h₂
        · exact h₁
      · exact h
      · extract_lets +onlyGivenNames dry
        split
        · exact hgo _
        · split
          · exact trivial
          · exact h
          · exact h
          · exact h

theorem State.MemOk.withPush (h : st.MemOk) {go : Slot → Eff} (hgo : ∀ x₀, (go x₀).MemOk) {c x tag} : (withPush st c x tag go).MemOk := by
  unfold Machine.withPush
  split
  · exact trivial
  · split
    · exact h
    · extract_lets +onlyGivenNames l₁
      split
      · split
        · exact trivial
        · exact hgo _
      · exact h.withXlate fun _ => hgo _

theorem State.MemOk.writeVector (h : st.MemOk) {fin : Ctx → Eff} (hfin : ∀ x₀, (fin x₀).MemOk) {c d r} : (writeVector st c d r fin).MemOk := by
  unfold Machine.writeVector
  split
  · exact hfin _
  · split
    · exact hfin _
    · exact h.withPush fun _ => hfin _

end Sys2Proof.Machine
end

section
/-! # Canonical memory: the issue of an instruction, and scalar accesses -/

namespace Sys2Proof.Machine

-- One proof at a time: each thread of an asynchronous one reserves a whole stack, and hundreds of them exceed the memory given.
set_option Elab.async false

variable {st : State}

/-! ## The fetch of a group, and what ends it (R96, R97, R213) -/

theorem State.MemOk.select (h : st.MemOk) {cid} : OptMemOk (st.select cid) := by
  unfold State.select
  split
  · exact trivial
  · cases firstBy (fun c => c.readyAt) (st.readyOn cid) with
    | none => exact trivial
    | some c => exact h.editCore (i := cid) (f := fun k => { k with current := some c.key })

theorem State.MemOk.rouse (h : st.MemOk) {c} : (st.rouse c).1.MemOk := by
  unfold State.rouse
  split <;> exact h

theorem State.MemOk.fetchLine (h : st.MemOk) {cid pa} : (st.fetchLine cid pa).1.MemOk := by
  unfold State.fetchLine
  split
  · exact h
  · exact h.sRead.editCore

/-- By induction on the words that the group may still take (R91). -/
theorem State.MemOk.fetchGroup (h : st.MemOk) {c n pc acc} : (State.fetchGroup c n st pc acc).MemOk := by
  induction n generalizing st pc acc with
  | zero => exact h
  | succ n ih =>
    unfold State.fetchGroup
    split
    · exact trivial
    · exact trivial
    · split
      · exact trivial
      · split
        · exact trivial
        · split
          next st₁ _ _ e =>
          have h₁ : st₁.MemOk := h.fetchLine.of_fst e
          split
          · exact h₁
          · extract_lets +onlyGivenNames w
            split
            · exact ih h₁
            · exact h₁

theorem State.MemOk.stopFetch (h : st.MemOk) {fault : State} (h₁ : fault.MemOk) {c n} : (st.stopFetch c n fault).MemOk := by
  unfold State.stopFetch
  split
  · exact h.setCtx
  · exact h₁

theorem State.MemOk.issueIllegal (h : st.MemOk) {n w detail x} : Out.MemOk (issueIllegal n w detail x st) := by
  unfold Machine.issueIllegal
  refine h.issueWords fun _ _ h₁ => ?_
  exact trivial

theorem State.MemOk.takeDue (h : st.MemOk) {c} : (st.takeDue c).MemOk := by
  unfold State.takeDue
  split
  · exact h.programFault
  · exact h.takeTrap
  · exact h

/-! ## Loads and stores of local memory (R131 to R137) -/

theorem Eff.MemOk.checked {e : Eff} (h : e.MemOk) {l} : (checked l e).MemOk := by
  induction l with
  | nil => exact h
  | cons x l ih =>
    unfold Machine.checked
    split
    · exact trivial
    · exact ih

theorem State.MemOk.execLdl (h : st.MemOk) {e d a s m o} : Out.MemOk (execLdl e d a s m o st) := by
  unfold Machine.execLdl
  refine h.issue fun _ _ h₁ => ?_
  extract_lets +onlyGivenNames n₁ x₁ k₁
  refine Eff.MemOk.checked (h₁.localAccess ?_)
  split
  · exact h₁
  · split
    · exact h₁
    · split
      · exact h₁.setGranules _ _ _
      · exact h₁

/-- A local store writes local memory (R131). -/
theorem State.MemOk.execStl (h : st.MemOk) {e d a s m o} : Out.MemOk (execStl e d a s m o st) := by
  unfold Machine.execStl
  refine h.issue fun _ _ h₁ => ?_
  extract_lets +onlyGivenNames n₁ x₁ k₁
  refine Eff.MemOk.checked (h₁.localAccess ?_)
  split
  · exact h₁
  · split
    · exact h₁
    · extract_lets +onlyGivenNames st₁
      have h₂ : st₁.MemOk := by
        unfold st₁
        refine h₁.modCore _ fun _ hk => ?_
        exact Core.wf_write _ _ hk
      split
      · exact h₂.setGranules _ _ _
      · exact h₂

theorem State.MemOk.sendRemote (h : st.MemOk) {c words r} : (sendRemote st c words r).MemOk := by
  unfold Machine.sendRemote
  split <;> exact h

theorem State.MemOk.execLdx (h : st.MemOk) {e d a b m s} : Out.MemOk (execLdx e d a b m s st) := by
  unfold Machine.execLdx
  refine h.issue fun _ _ h₁ => ?_
  extract_lets +onlyGivenNames n₁ x₁ t₁
  refine Eff.MemOk.checked (h₁.afterAcquires ?_)
  split
  · split
    · exact h₁
    · refine Eff.MemOk.atBank ?_
      exact h₁
  · exact h₁.sendRemote

theorem State.MemOk.execStx (h : st.MemOk) {e d a b s} : Out.MemOk (execStx e d a b s st) := by
  unfold Machine.execStx
  refine h.issue fun _ _ h₁ => ?_
  extract_lets +onlyGivenNames n₁ x₁ t₁
  refine Eff.MemOk.checked ?_
  split
  · refine Eff.MemOk.checked (h₁.localAccess ?_)
    split
    · exact h₁
    · refine h₁.modCore _ fun _ hk => ?_
      exact Core.wf_write _ _ hk
  · exact h₁.afterAcquires h₁.sendRemote

/-! ## The acceptance of accesses to global memory (R135, R199, R294) -/

/-- An acceptance per line, each from the state and the context that the one before it left (R294). -/
theorem State.MemOk.acceptGroups (h : st.MemOk) {c op groups o d sx} : (st.acceptGroups c op groups o d sx).1.MemOk := by
  unfold State.acceptGroups
  generalize hp : (st, c) = p
  replace h : p.1.MemOk := hp ▸ h
  clear hp
  generalize st.stamp = n
  induction groups generalizing p with
  | nil => exact h
  | cons l ls ih => exact ih _ h

theorem State.MemOk.accept (h : st.MemOk) {c op elems o d sx} : (st.accept c op elems o d sx).1.MemOk := h.acceptGroups

theorem State.MemOk.acceptAll (h : st.MemOk) {c op groups o d sx} : (acceptAll st c op groups o d sx).MemOk := h.acceptGroups

theorem State.MemOk.acceptAs (h : st.MemOk) {c op elems o d sx} : (acceptAs st c op elems o d sx).MemOk := h.acceptAll

theorem State.MemOk.execLdg (h : st.MemOk) {e d a s m o} : Out.MemOk (execLdg e d a s m o st) :=
  h.issue fun _ _ h₁ => Eff.MemOk.checked (h₁.withXlate (fun _ => h₁.acceptAs))

theorem State.MemOk.execStg (h : st.MemOk) {e d a s o} : Out.MemOk (execStg e d a s o st) :=
  h.issue fun _ _ h₁ => Eff.MemOk.checked (h₁.withXlate (fun _ => h₁.acceptAs))

/-! ## Branches, jumps and CSRs (R23 to R26, R124 to R130) -/

theorem State.MemOk.branch (h : st.MemOk) {i e x y o t} : Out.MemOk (branch i e x y o t st) := by
  unfold Machine.branch
  refine h.issue fun _ _ h₁ => ?_
  split <;> exact h₁

theorem State.MemOk.execBeq (h : st.MemOk) {e x y o} : Out.MemOk (execBeq e x y o st) := h.branch

theorem State.MemOk.execBne (h : st.MemOk) {e x y o} : Out.MemOk (execBne e x y o st) := h.branch

theorem State.MemOk.execBlt (h : st.MemOk) {e x y o} : Out.MemOk (execBlt e x y o st) := h.branch

theorem State.MemOk.execBge (h : st.MemOk) {e x y o} : Out.MemOk (execBge e x y o st) := h.branch

theorem State.MemOk.execBltz (h : st.MemOk) {e x y o} : Out.MemOk (execBltz e x y o st) := h.branch

theorem State.MemOk.execBgez (h : st.MemOk) {e x y o} : Out.MemOk (execBgez e x y o st) := h.branch

theorem State.MemOk.execJmp (h : st.MemOk) {e o} : Out.MemOk (execJmp e o st) := by
  unfold Machine.execJmp
  refine h.issue fun _ _ h₁ => ?_
  exact h₁

theorem State.MemOk.execJal (h : st.MemOk) {e o} : Out.MemOk (execJal e o st) := by
  unfold Machine.execJal
  refine h.issue fun _ _ h₁ => ?_
  exact h₁

theorem State.MemOk.jumpTo (h : st.MemOk) {c t link} : (jumpTo st c t link).MemOk := by
  unfold Machine.jumpTo
  split
  · exact trivial
  · split
    · exact trivial
    · exact h

theorem State.MemOk.execJr (h : st.MemOk) {e a} : Out.MemOk (execJr e a st) := h.issue fun _ _ h₁ => h₁.jumpTo

theorem State.MemOk.execJalr (h : st.MemOk) {e d a} : Out.MemOk (execJalr e d a st) := h.issue fun _ _ h₁ => h₁.jumpTo

theorem State.MemOk.writeInjctl (h : st.MemOk) {v clear} : (st.writeInjctl v clear).MemOk := h

theorem State.MemOk.writeCsr (h : st.MemOk) {c n v clear} : (st.writeCsr c n v clear).1.MemOk := by
  unfold State.writeCsr
  split <;> exact h

theorem Eff.MemOk.withCsr {go : W64 → Eff} (hgo : ∀ x₀, (go x₀).MemOk) {c words n write} :
    (withCsr st c words n write go).MemOk := by
  unfold Machine.withCsr
  split
  · exact trivial
  · split
    · exact trivial
    · split
      · exact trivial
      · exact hgo _

theorem State.MemOk.csrWrite (h : st.MemOk) {i e a n clears f} : Out.MemOk (csrWrite i e a n clears f st) := by
  unfold Machine.csrWrite
  refine h.issue fun _ _ h₁ => ?_
  refine Eff.MemOk.withCsr fun _ => ?_
  exact h₁.writeCsr

theorem State.MemOk.csrUpdate (h : st.MemOk) {i e a n clears f} : Out.MemOk (csrUpdate i e a n clears f st) := by
  unfold Machine.csrUpdate
  split
  · exact h.csrWrite
  · refine h.issue fun _ _ h₁ => ?_
    refine Eff.MemOk.withCsr fun _ => ?_
    split
    · exact h₁
    · exact h₁.writeCsr

theorem State.MemOk.execCsrr (h : st.MemOk) {e d c} : Out.MemOk (execCsrr e d c st) := by
  unfold Machine.execCsrr
  refine h.issue fun _ _ h₁ => ?_
  refine Eff.MemOk.withCsr fun _ => ?_
  exact h₁

theorem State.MemOk.execCsrw (h : st.MemOk) {e a c} : Out.MemOk (execCsrw e a c st) := h.csrWrite

theorem State.MemOk.execCsrs (h : st.MemOk) {e a c} : Out.MemOk (execCsrs e a c st) := h.csrUpdate

theorem State.MemOk.execCsrc (h : st.MemOk) {e a c} : Out.MemOk (execCsrc e a c st) := h.csrUpdate

/-! ## Shape records (R159, R225 to R227) -/

theorem State.MemOk.plainRead (h : st.MemOk) {c pa n} : (st.plainRead c pa n).1.MemOk := by
  unfold State.plainRead
  split
  · exact h.hRead
  · exact h
  · exact h.sRead

theorem State.MemOk.withBytes (h : st.MemOk) {go : State → (Ctx → Ctx) → List Byte → Eff} (hgo : ∀ t x₁ x₂, t.MemOk → (go t x₁ x₂).MemOk) {c va n} :
    (withBytes st c va n go).MemOk := by
  unfold Machine.withBytes
  refine h.withXlate fun _ => ?_
  extract_lets +onlyGivenNames pa₁
  split
  · exact h
  · split
    · exact h.requestLine
    · extract_lets +onlyGivenNames st₁
      have h₁ : st₁.1.MemOk := h.plainRead
      split
      · exact h₁
      · exact hgo _ _ _ h₁

theorem Eff.MemOk.rejected {r} : (rejected r).MemOk := trivial

/-! ## Atomics, fences, releases, acquires and bindings (R203 to R213) -/

theorem State.MemOk.withAtomic (h : st.MemOk) {go : ℕ → Eff} (hgo : ∀ x₀, (go x₀).MemOk) {c a n host} : (withAtomic st c a n host go).MemOk := by
  unfold Machine.withAtomic
  refine Eff.MemOk.checked (h.withXlate (fun _ => ?_))
  extract_lets +onlyGivenNames pa₁
  split
  · exact trivial
  · exact hgo _

theorem State.MemOk.atomic (h : st.MemOk) {i e d a b op n} : Out.MemOk (atomic i e d a b op n st) :=
  h.issue fun _ _ h₁ => h₁.withAtomic fun _ => h₁.acceptAs

theorem State.MemOk.reduce (h : st.MemOk) {i e a b op n} : Out.MemOk (reduce i e a b op n st) := by
  unfold Machine.reduce
  refine h.issue fun _ _ h₁ => ?_
  extract_lets +onlyGivenNames x₁
  refine h₁.withAtomic fun _ => ?_
  exact h₁.editCore.tickStamp

theorem State.MemOk.execAmoAdd (h : st.MemOk) {e d a b s} : Out.MemOk (execAmoAdd e d a b s st) := h.atomic

theorem State.MemOk.execAmoAnd (h : st.MemOk) {e d a b s} : Out.MemOk (execAmoAnd e d a b s st) := h.atomic

theorem State.MemOk.execAmoOr (h : st.MemOk) {e d a b s} : Out.MemOk (execAmoOr e d a b s st) := h.atomic

theorem State.MemOk.execAmoXor (h : st.MemOk) {e d a b s} : Out.MemOk (execAmoXor e d a b s st) := h.atomic

theorem State.MemOk.execAmoMin (h : st.MemOk) {e d a b s} : Out.MemOk (execAmoMin e d a b s st) := h.atomic

theorem State.MemOk.execAmoMax (h : st.MemOk) {e d a b s} : Out.MemOk (execAmoMax e d a b s st) := h.atomic

theorem State.MemOk.execAmoMinz (h : st.MemOk) {e d a b s} : Out.MemOk (execAmoMinz e d a b s st) := h.atomic

theorem State.MemOk.execAmoMaxz (h : st.MemOk) {e d a b s} : Out.MemOk (execAmoMaxz e d a b s st) := h.atomic

theorem State.MemOk.execAmoSwap (h : st.MemOk) {e d a b s} : Out.MemOk (execAmoSwap e d a b s st) := h.atomic

theorem State.MemOk.execAmoFadd (h : st.MemOk) {e d a b} : Out.MemOk (execAmoFadd e d a b st) := h.atomic

theorem State.MemOk.execRedAdd (h : st.MemOk) {e a b s} : Out.MemOk (execRedAdd e a b s st) := h.reduce

theorem State.MemOk.execRedAnd (h : st.MemOk) {e a b s} : Out.MemOk (execRedAnd e a b s st) := h.reduce

theorem State.MemOk.execRedOr (h : st.MemOk) {e a b s} : Out.MemOk (execRedOr e a b s st) := h.reduce

theorem State.MemOk.execRedXor (h : st.MemOk) {e a b s} : Out.MemOk (execRedXor e a b s st) := h.reduce

theorem State.MemOk.execRedMin (h : st.MemOk) {e a b s} : Out.MemOk (execRedMin e a b s st) := h.reduce

theorem State.MemOk.execRedMax (h : st.MemOk) {e a b s} : Out.MemOk (execRedMax e a b s st) := h.reduce

theorem State.MemOk.execRedMinz (h : st.MemOk) {e a b s} : Out.MemOk (execRedMinz e a b s st) := h.reduce

theorem State.MemOk.execRedMaxz (h : st.MemOk) {e a b s} : Out.MemOk (execRedMaxz e a b s st) := h.reduce

theorem State.MemOk.execRedFadd (h : st.MemOk) {e a b} : Out.MemOk (execRedFadd e a b st) := h.reduce

theorem State.MemOk.execAmoc (h : st.MemOk) {e d a b c s} : Out.MemOk (execAmoc e d a b c s st) :=
  h.issue fun _ _ h₁ => h₁.withAtomic fun _ => h₁.acceptAs

theorem State.MemOk.releaseEffects (h : st.MemOk) {c s} : (st.releaseEffects c s).MemOk := by
  unfold State.releaseEffects
  extract_lets +onlyGivenNames st₁
  have h₁ : st₁.MemOk := h.writeBackStored.ite h
  split
  · exact h₁.writeBackPeers
  · exact h₁

theorem State.MemOk.dropPeers (h : st.MemOk) {s} : (st.dropPeers s).MemOk := by
  unfold State.dropPeers
  split
  · exact h.foldl (fun _ _ h₁ => h₁.flushLine)
  · exact h

theorem State.MemOk.withFence (h : st.MemOk) {go : State → Ctx → Eff} (hgo : ∀ t x₁, t.MemOk → (go t x₁).MemOk) {c s acquire} :
    (withFence st c s acquire go).MemOk := by
  unfold Machine.withFence
  split
  · exact h
  · extract_lets +onlyGivenNames st₁
    have h₁ : st₁.MemOk := h.releaseEffects
    split
    · exact h₁
    · split
      · exact hgo _ _ h₁.dropPeers.tickStamp
      · exact hgo _ _ h₁

theorem State.MemOk.execFence (h : st.MemOk) {e d p s} : Out.MemOk (execFence e d p s st) := by
  unfold Machine.execFence
  refine h.issue fun _ _ h₁ => ?_
  split
  · exact trivial
  · refine h₁.withFence fun _ _ h₂ => ?_
    split
    · refine h₂.writeVector fun _ => ?_
      exact h₂
    · exact h₂

theorem State.MemOk.withOwners (h : st.MemOk) {go : State → Eff} (hgo : ∀ t, t.MemOk → (go t).MemOk) {c s} : (withOwners st c s go).MemOk := by
  unfold Machine.withOwners
  split
  · exact hgo _ h
  · extract_lets +onlyGivenNames st₁
    have h₁ : st₁.MemOk := h.writeBackPeers
    split
    · exact hgo _ h₁
    · exact h₁

theorem State.MemOk.execQfence (h : st.MemOk) {e b s} : Out.MemOk (execQfence e b s st) := by
  unfold Machine.execQfence
  refine h.issue fun _ _ h₁ => ?_
  extract_lets +onlyGivenNames t₁ c₁
  split
  · exact h₁
  · refine h₁.withOwners fun _ h₂ => ?_
    exact h₂.dropPeers.tickStamp

theorem State.MemOk.execRbind (h : st.MemOk) {e d a b} : Out.MemOk (execRbind e d a b st) := by
  unfold Machine.execRbind
  refine h.issue fun _ _ h₁ => ?_
  extract_lets +onlyGivenNames o₁ x₁ n₁
  refine Eff.MemOk.checked ?_
  split
  · exact trivial
  · split
    · exact h₁
    · exact trivial

theorem State.MemOk.xlatePieces (h : st.MemOk) {c l} : (st.xlatePieces c l).1.MemOk := by
  induction l generalizing st with
  | nil => exact h
  | cons x l ih =>
    unfold State.xlatePieces
    extract_lets +onlyGivenNames r
    have h₁ : r.1.MemOk := by
      unfold r
      split
      · split <;> next e => exact h.walkNow.of_fst e
      · exact h
    clear_value r
    split
    · split
      · next e => exact (ih h₁).of_fst e
      · exact ih h₁
    · exact h₁
    · exact h₁

theorem State.MemOk.withRegions (h : st.MemOk) {go : State → List (ℕ × ℕ) → Eff} (hgo : ∀ t x₁, t.MemOk → (go t x₁).MemOk) {c o} :
    (withRegions st c o go).MemOk := by
  unfold Machine.withRegions
  extract_lets +onlyGivenNames l₁
  split
  · next st₁ _ e =>
      have h₁ : st₁.MemOk := h.xlatePieces.of_fst e
      exact hgo _ _ h₁
  · next st₂ _ e =>
      have h₂ : st₂.MemOk := h.xlatePieces.of_fst e
      exact h₂.requestWalk
  · next st₃ _ e =>
      have h₃ : st₃.MemOk := h.xlatePieces.of_fst e
      exact trivial

theorem State.MemOk.eachBound (h : st.MemOk) {f : State → ℕ → ℕ → State} (hf : ∀ t x₁ x₂, t.MemOk → (f t x₁ x₂).MemOk) {l} :
    (st.eachBound l f).MemOk :=
  h.foldl fun _ _ h₁ => h₁.foldl fun _ _ h₂ => (hf _ _ _ h₂).ite h₂

theorem State.MemOk.recallBound (h : st.MemOk) {l tenant} : (st.recallBound l tenant).MemOk := h.foldl fun _ _ h₁ => h₁.invalidateHolders.ite h₁

theorem State.MemOk.execRel (h : st.MemOk) {e a s} : Out.MemOk (execRel e a s st) := by
  unfold Machine.execRel
  refine h.issue fun _ _ h₁ => ?_
  extract_lets +onlyGivenNames o₁
  refine Eff.MemOk.checked (h₁.withXlate (fun _ => ?_))
  extract_lets +onlyGivenNames pa₁
  split
  · exact trivial
  · refine h₁.withRegions fun _ _ h₂ => ?_
    split
    · exact h₂
    · extract_lets +onlyGivenNames st₁
      have h₃ : st₁.MemOk := (h₂.eachBound (fun _ _ _ h₄ => h₄.writeBack)).ite h₂
      extract_lets +onlyGivenNames st₂
      have h₅ : st₂.MemOk := h₃.recallBound.ite h₃
      refine h₅.withFence fun _ _ h₆ => ?_
      exact h₆.accept

theorem State.MemOk.withObject (h : st.MemOk) {go : State → Ctx → Eff} (hgo : ∀ t x₁, t.MemOk → (go t x₁).MemOk) {c pa s} :
    (withObject st c pa s go).MemOk := by
  unfold Machine.withObject
  split
  · exact hgo _ _ h
  · extract_lets +onlyGivenNames st₁
    have h₁ : st₁.MemOk := by
      unfold st₁
      split
      · exact h.readyOwner
      · exact h
    clear_value st₁
    split
    · next st₂ =>
        have h₂ : st₂.MemOk := h₁
        exact h₂
    · exact h
    · next st₃ =>
        have h₃ : st₃.MemOk := h₁
        split
        · exact h₃.requestLine
        · refine iteInduction (fun _ => ?_) fun _ => ?_
          · exact hgo _ _ h₃
          · exact h₃.requestLine

theorem State.MemOk.execAcq (h : st.MemOk) {e a s} : Out.MemOk (execAcq e a s st) := by
  unfold Machine.execAcq
  refine h.issue fun _ _ h₁ => ?_
  extract_lets +onlyGivenNames o₁
  refine Eff.MemOk.checked (h₁.withXlate (fun _ => ?_))
  extract_lets +onlyGivenNames pa₁
  refine h₁.withRegions fun _ _ h₂ => ?_
  split
  · exact h₂
  · refine h₂.withObject fun _ _ h₃ => ?_
    extract_lets +onlyGivenNames st₁
    have h₄ : st₁.MemOk := h₃.flushLine.ite h₃
    extract_lets +onlyGivenNames st₂
    have h₅ : st₂.1.MemOk := by
      unfold st₂
      split
      · exact h₄
      · exact h₄.sRead
    split
    · exact h₅
    · extract_lets +onlyGivenNames st₃
      have h₆ : st₃.MemOk := (h₅.eachBound (fun _ _ _ h₇ => h₇.flushLine)).ite h₅
      extract_lets +onlyGivenNames st₄
      have h₈ : st₄.MemOk := (h₆.foldl (fun _ _ h₉ => h₉.sendWriteBack.ite h₉)).ite h₆
      split
      · exact h₈
      · exact h₈.dropPeers.tickStamp

theorem State.MemOk.execIcinv (h : st.MemOk) {e s} : Out.MemOk (execIcinv e s st) := by
  refine h.issue fun _ _ h₁ => ?_
  refine State.MemOk.mapCores h₁ rfl rfl fun p hp => ?_
  dsimp only
  split <;> exact hp

end Sys2Proof.Machine
end

section
/-! # Canonical memory: device registers and nodes -/

namespace Sys2Proof.Machine

-- One proof at a time: each thread of an asynchronous one reserves a whole stack, and hundreds of them exceed the memory given.
set_option Elab.async false

variable {st : State}

/-! ## The device registers (R4, R287, R289, R359, R366) -/

theorem State.MemOk.deny (h : st.MemOk) : (st.deny).MemOk := h

theorem State.MemOk.governed (h : st.MemOk) {f : State → State} (hf : ∀ t, t.MemOk → (f t).MemOk) {w off} : (st.governed w off f).MemOk := by
  unfold State.governed
  split
  · exact hf _ h
  · exact h.deny

theorem State.MemOk.setOwner (h : st.MemOk) {o} : (st.setOwner o).MemOk := by
  unfold State.setOwner
  refine State.MemOk.signal ?_
  exact h

theorem State.MemOk.claimOwner (h : st.MemOk) {m} : (st.claimOwner m).MemOk := by
  unfold State.claimOwner
  split
  · exact h.setOwner
  · exact h

theorem State.MemOk.giveOwner (h : st.MemOk) {t} : (st.giveOwner t).MemOk := by
  unfold State.giveOwner
  split
  · exact h.setOwner
  · split <;> exact h

theorem State.MemOk.takeOwner (h : st.MemOk) {m} : (st.takeOwner m).MemOk := by
  unfold State.takeOwner
  split
  · exact h.setOwner
  · exact h

theorem State.MemOk.asMaster (h : st.MemOk) {f : Master → State} (hf : ∀ x₀, (f x₀).MemOk) {w} : (asMaster w st f).MemOk := by
  unfold Machine.asMaster
  split
  · exact hf _
  · exact h

theorem State.MemOk.writeOwn (h : st.MemOk) {w o v} : (st.writeOwn w o v).MemOk := by
  unfold State.writeOwn
  split
  · split <;> exact h
  · exact h.asMaster fun _ => h.claimOwner
  · exact h.asMaster fun _ => h.giveOwner
  · exact h.asMaster fun _ => h.takeOwner
  · exact h
  · exact h

theorem State.MemOk.retryPages (h : st.MemOk) {x} : (st.retryPages x).MemOk := (h.wakeWhere _ _)

theorem State.MemOk.writeXlinv (h : st.MemOk) {v} : (st.writeXlinv v).MemOk := by
  unfold State.writeXlinv
  split
  · exact h
  · extract_lets +onlyGivenNames -merge -underBinder x₁ va₁ _ st₁
    have h₁ : st₁.MemOk := h
    split
    · exact h₁.retryPages
    · exact h₁

theorem State.MemOk.writeMem (h : st.MemOk) {o v} : (st.writeMem o v).MemOk := by
  unfold State.writeMem
  split
  · exact h
  · exact h
  · exact h
  · exact h
  · exact h.writeXlinv
  · exact h
  · exact h

theorem State.MemOk.resumeCluster (h : st.MemOk) {n} : (st.resumeCluster n).MemOk := by
  unfold State.resumeCluster
  extract_lets +onlyGivenNames g₁ st₁
  have h₁ : st₁.MemOk := h.modCluster
  split
  · split <;> exact h₁
  · exact h₁

theorem State.MemOk.stopCluster (h : st.MemOk) {n} : (st.stopCluster n).MemOk := by
  unfold State.stopCluster
  split <;> exact h

theorem State.MemOk.writeCluster (h : st.MemOk) {n o v} : (st.writeCluster n o v).MemOk := by
  unfold State.writeCluster
  split
  · exact h.modCluster
  · exact h.modCluster
  · extract_lets +onlyGivenNames st₁
    have h₁ : st₁.MemOk := h.modCluster.ite h
    split
    · exact h₁.stopCluster
    · exact h₁.resumeCluster
  · exact h

theorem Core.wf_writePool {k : Core} (h : k.lm.wf = true) {v} : (k.writePool v).lm.wf = true := by
  unfold Core.writePool
  extract_lets +onlyGivenNames k₁ b
  have h₁ : k₁.lm.wf = true := by
    unfold k₁
    split <;> exact h
  clear_value k₁
  split
  · exact h₁
  · split <;> exact h₁

theorem State.MemOk.writeCore (h : st.MemOk) {c o v} : (st.writeCore c o v).MemOk := by
  unfold State.writeCore
  split
  · exact h
  · split
    · exact h.modCore _ fun _ hk => Core.wf_writePool hk
    · exact h.editCore
    · exact h

theorem State.MemOk.writeMsix (h : st.MemOk) {o v} : (st.writeMsix o v).MemOk := by
  unfold State.writeMsix
  extract_lets +onlyGivenNames -merge n₁ due₁ _ st₁
  have h₁ : st₁.MemOk := h
  split
  · extract_lets +onlyGivenNames -merge _ st₂
    have h₂ : st₂.MemOk := by
      unfold st₂
      refine State.MemOk.signal ?_
      exact h₁
    split
    · exact h₂.modStream
    · exact h₂
  · exact h₁

theorem State.MemOk.writeReg (h : st.MemOk) {w off v} : (st.writeReg w off v).MemOk := by
  unfold State.writeReg
  refine iteInduction (fun _ => h.writeOwn) fun _ => ?_
  refine iteInduction (fun _ => ?_) fun _ => ?_
  · exact h
  refine iteInduction (fun _ => h.modStream) fun _ => ?_
  refine iteInduction (fun _ => h.modTenant.ite h) fun _ => ?_
  refine iteInduction (fun _ => h.writeMem) fun _ => ?_
  refine iteInduction (fun _ => ?_) fun _ => ?_
  · exact h
  refine iteInduction (fun _ => h.modStream) fun _ => ?_
  refine iteInduction (fun _ => ?_) fun _ => ?_
  · exact h
  refine iteInduction (fun _ => ?_) fun _ => ?_
  · exact h
  refine iteInduction (fun _ => h.writeMsix) fun _ => ?_
  refine iteInduction (fun _ => h.writeCluster) fun _ => ?_
  exact iteInduction (fun _ => h.writeCore) fun _ => h

theorem State.MemOk.writePiece (h : st.MemOk) {w off l} : (st.writePiece w off l).MemOk := by
  unfold State.writePiece
  extract_lets +onlyGivenNames r
  refine h.governed fun _ h₁ => ?_
  extract_lets +onlyGivenNames old keep
  exact h₁.writeReg

theorem State.MemOk.writeRegBytes (h : st.MemOk) {w k off l} : (State.writeRegBytes w k st off l).MemOk := by
  induction k generalizing st off l with
  | zero => exact h
  | succ k ih =>
    unfold State.writeRegBytes
    split
    · exact h
    · exact ih h.writePiece

theorem State.MemOk.putBytes (h : st.MemOk) {cid pa l} : (st.putBytes cid pa l).MemOk := by
  unfold State.putBytes
  split
  · exact h.writeRegBytes
  · exact h.sWriteBytes

theorem State.MemOk.notePod (h : st.MemOk) {before pkg} : (st.notePod before pkg).MemOk := by
  unfold State.notePod
  split <;> exact h

theorem State.MemOk.execRegisterWrite (h : st.MemOk) {w off v} : Out.MemOk (execRegisterWrite w off v st) :=
  .next (h.governed fun _ h₁ => h₁.writeReg).notePod

theorem State.MemOk.execCqdoor (h : st.MemOk) {w q} : Out.MemOk (execCqdoor w q st) := by
  unfold Machine.execCqdoor
  split
  · exact .idle
  · exact .next (h.governed (fun _ h₁ => h₁.writeReg))

theorem State.MemOk.execCqEnable (h : st.MemOk) {w q v} : Out.MemOk (execCqEnable w q v st) := by
  unfold Machine.execCqEnable
  split
  · exact .idle
  · exact .next (h.governed (fun _ h₁ => h₁.writeReg))

theorem State.MemOk.execCqDisable (h : st.MemOk) {w q v} : Out.MemOk (execCqDisable w q v st) := by
  unfold Machine.execCqDisable
  split
  · exact .idle
  · exact .next (h.governed (fun _ h₁ => h₁.writeReg))

theorem State.MemOk.execXlinv (h : st.MemOk) {w v} : Out.MemOk (execXlinv w v st) := .next (h.governed (fun _ h₁ => h₁.writeReg))

theorem State.MemOk.execXlinvComplete (h : st.MemOk) : Out.MemOk (execXlinvComplete st) := by
  unfold Machine.execXlinvComplete
  split
  · exact .next h
  · exact .idle

theorem State.MemOk.execMxpart (h : st.MemOk) {w g v} : Out.MemOk (execMxpart w g v st) := by
  unfold Machine.execMxpart
  split
  · exact .idle
  · exact .next (h.governed (fun _ h₁ => h₁.writeReg))

theorem State.MemOk.execPreempt (h : st.MemOk) {w g} : Out.MemOk (execPreempt w g st) := by
  unfold Machine.execPreempt
  split
  · exact .idle
  · exact .next (h.governed (fun _ h₁ => h₁.writeReg))

theorem State.MemOk.execResume (h : st.MemOk) {w g} : Out.MemOk (execResume w g st) := by
  unfold Machine.execResume
  split
  · exact .idle
  · exact .next (h.governed (fun _ h₁ => h₁.writeReg))

theorem State.MemOk.execLmpool (h : st.MemOk) {w cid v} : Out.MemOk (execLmpool w cid v st) := by
  unfold Machine.execLmpool
  split
  · exact .next (h.governed (fun _ h₁ => h₁.writeReg))
  · exact .idle

theorem State.MemOk.execInjArm (h : st.MemOk) {v} : Out.MemOk (execInjArm v st) := .next h

theorem State.MemOk.execTwbankArm (h : st.MemOk) {w v} : Out.MemOk (execTwbankArm w v st) := by
  unfold Machine.execTwbankArm
  split
  · exact .next (h.governed (fun _ h₁ => h₁.writeReg))
  · exact .idle

theorem State.MemOk.execRetire (h : st.MemOk) {w} : Out.MemOk (execRetire w st) := .next (h.governed (fun _ h₁ => h₁.writeReg))

theorem State.MemOk.execRelayBankWrite (h : st.MemOk) {w bank n v} : Out.MemOk (execRelayBankWrite w bank n v st) := by
  unfold Machine.execRelayBankWrite
  split
  · exact .idle
  · exact .next (h.governed (fun _ h₁ => h₁.writeReg))

theorem State.MemOk.execOwnclaim (h : st.MemOk) {m} : Out.MemOk (execOwnclaim m st) := .next (h.governed fun _ h₁ => h₁.writeReg).notePod

theorem State.MemOk.execOwngive (h : st.MemOk) {m target} : Out.MemOk (execOwngive m target st) := .next (h.governed (fun _ h₁ => h₁.writeReg))

theorem State.MemOk.execOwntake (h : st.MemOk) {m} : Out.MemOk (execOwntake m st) := .next (h.governed fun _ h₁ => h₁.writeReg).notePod

theorem State.MemOk.execHandoverTimeout (h : st.MemOk) : Out.MemOk (execHandoverTimeout st) := by
  unfold Machine.execHandoverTimeout
  split
  · exact .next h
  · exact .idle

/-! ## Nodes, joins and arenas (R237 to R250, R324) -/

theorem State.MemOk.nodeRead (h : st.MemOk) {pa} : (st.nodeRead pa).1.MemOk := by
  unfold State.nodeRead
  split
  · exact h.hRead
  · split
    · exact h
    · exact h.sRead

theorem State.MemOk.nodeWrite (h : st.MemOk) {pa v} : (st.nodeWrite pa v).MemOk := by
  unfold State.nodeWrite
  split
  · exact h.hWrite.writeBack
  · exact h.putBytes

theorem State.MemOk.nodeMod (h : st.MemOk) {pa f} : (st.nodeMod pa f).MemOk := h.nodeRead.nodeWrite

theorem State.MemOk.writeNode (h : st.MemOk) {pa ws} : (st.writeNode pa ws).MemOk := h.foldl fun _ _ h₁ => h₁.nodeWrite

theorem State.MemOk.giveNode (h : st.MemOk) {launch cid net va} : (st.giveNode launch cid net va).MemOk := by
  unfold State.giveNode
  split
  · extract_lets +onlyGivenNames st₁
    have h₁ : st₁.MemOk := h.modNet
    split
    · split
      · exact h₁.editCore
      · exact h₁.modNet
    · exact h₁.modNet
  · exact h

theorem State.MemOk.handOut (h : st.MemOk) {launch net va} : (st.handOut launch net va).MemOk := h.modNet

theorem State.MemOk.ownNode (h : st.MemOk) {launch net va} : (st.ownNode launch net va).MemOk := by
  unfold State.ownNode
  split
  · exact h
  · exact h.handOut

theorem State.MemOk.freeNode (h : st.MemOk) {launch cid va pa} : (st.freeNode launch cid va pa).MemOk := by
  unfold State.freeNode
  extract_lets +onlyGivenNames x₁
  split
  · exact h
  · exact h.nodeWrite.giveNode

theorem State.MemOk.enterPair (h : st.MemOk) {cid p} : (st.enterPair cid p).MemOk := by
  unfold State.enterPair
  extract_lets +onlyGivenNames cid₁ k₁ p₁
  split
  · exact h
  · split
    · exact h.failLaunch
    · split
      · exact h
      · split
        · exact h.editCore
        · split
          · exact h.editCore
          · exact h

theorem State.MemOk.pushPair (h : st.MemOk) {launch a apa b bpa} : (st.pushPair launch a apa b bpa).MemOk := h.nodeMod.nodeMod.enterPair

theorem State.MemOk.linkPorts (h : st.MemOk) {launch x y} : (st.linkPorts launch x y).1.MemOk := by
  unfold State.linkPorts
  extract_lets +onlyGivenNames st₁
  have h₁ : st₁.MemOk := h.nodeWrite.nodeWrite
  split
  · exact h₁.pushPair
  · exact h₁

theorem State.MemOk.join (h : st.MemOk) {launch p q} : (st.join launch p q).1.MemOk := by
  unfold State.join
  extract_lets +onlyGivenNames wp₁ wq₁ far₁
  split
  · exact h
  · split
    · exact h.nodeWrite.nodeWrite
    · split
      · exact h.linkPorts
      · split
        · split
          · exact h.nodeWrite.linkPorts
          · exact h
        · split
          · split
            · exact h.nodeWrite.linkPorts
            · exact h
          · split
            · exact h.nodeWrite.nodeWrite.linkPorts
            · exact h

/-! ## The node instructions (R239 to R252) -/

theorem State.MemOk.withNodes (h : st.MemOk) {go : Eff} (h₁ : go.MemOk) {c pas} : (withNodes st c pas go).MemOk := by
  unfold Machine.withNodes
  split
  · exact h
  · split
    · exact h.requestLine
    · exact h₁

theorem Core.wf_askNodes {k : Core} (h : k.lm.wf = true) {net} : (k.askNodes net).lm.wf = true := by
  unfold Core.askNodes
  split <;> exact h

theorem Core.wf_afterTake {k : Core} (h : k.lm.wf = true) {net l} : (k.afterTake net l).lm.wf = true := by
  unfold Core.afterTake
  extract_lets +onlyGivenNames k₁
  have h₁ : k₁.lm.wf = true := h
  split
  · exact Core.wf_askNodes h₁
  · exact h₁

theorem State.MemOk.execNalloc (h : st.MemOk) {e d a} : Out.MemOk (execNalloc e d a st) := by
  refine h.issue fun _ c h₁ => ?_
  extract_lets +onlyGivenNames v
  refine Eff.MemOk.checked ?_
  split
  · exact trivial
  · split
    · refine State.MemOk.modCore h₁ _ fun _ hk => ?_
      exact Core.wf_askNodes hk
    · refine h₁.withXlate fun _ => ?_
      extract_lets +onlyGivenNames st₁
      have h₂ : st₁.MemOk := by
        refine State.MemOk.handOut (h₁.modCore _ fun _ hk => ?_)
        exact Core.wf_afterTake hk
      exact h₂.acceptAs

theorem State.MemOk.execNfree (h : st.MemOk) {e a} : Out.MemOk (execNfree e a st) := by
  unfold Machine.execNfree
  refine h.issue fun _ _ h₁ => ?_
  extract_lets +onlyGivenNames va₁
  refine Eff.MemOk.checked (h₁.withXlate (fun _ => ?_))
  refine h₁.withNodes ?_
  split
  · exact trivial
  · exact h₁.acceptAs

theorem State.MemOk.execNld (h : st.MemOk) {e d a n} : Out.MemOk (execNld e d a n st) :=
  h.issue fun _ _ h₁ => Eff.MemOk.checked (h₁.withXlate (fun _ => h₁.acceptAs))

theorem State.MemOk.execNst (h : st.MemOk) {e d a n} : Out.MemOk (execNst e d a n st) := by
  unfold Machine.execNst
  refine h.issue fun _ _ h₁ => ?_
  extract_lets +onlyGivenNames va₁ v₁
  split
  · exact trivial
  · refine Eff.MemOk.checked (h₁.withXlate (fun _ => ?_))
    refine h₁.withNodes ?_
    split
    · exact trivial
    · split
      · exact trivial
      · exact h₁.acceptAs

theorem State.MemOk.withPorts (h : st.MemOk) {go : List ℕ → Eff} (hgo : ∀ x₀, (go x₀).MemOk) {c k refs} : (withPorts st c k refs go).MemOk := by
  unfold Machine.withPorts
  split
  · exact trivial
  · refine h.withXlate fun _ => ?_
    refine h.withNodes ?_
    split
    · exact trivial
    · exact hgo _

theorem State.MemOk.execPlink (h : st.MemOk) {e d a b} : Out.MemOk (execPlink e d a b st) := by
  unfold Machine.execPlink
  refine h.issue fun _ _ h₁ => ?_
  extract_lets +onlyGivenNames p₁ q₁
  refine Eff.MemOk.checked ?_
  split
  · exact trivial
  · refine h₁.withPorts fun _ => ?_
    split
    · split
      · exact trivial
      · exact Eff.MemOk.checked h₁.acceptAs
    · exact h₁

theorem State.MemOk.execPget (h : st.MemOk) {e d a} : Out.MemOk (execPget e d a st) := h.issue fun _ _ h₁ => h₁.withPorts fun _ => h₁.acceptAs

theorem State.MemOk.execPpush (h : st.MemOk) {e a b} : Out.MemOk (execPpush e a b st) := by
  unfold Machine.execPpush
  refine h.issue fun _ _ h₁ => ?_
  extract_lets +onlyGivenNames x₁ y₁
  refine Eff.MemOk.checked (h₁.withXlate (fun _ => ?_))
  split
  · exact h₁.acceptAs
  · exact h₁

theorem State.MemOk.readEntries (h : st.MemOk) {c l} : (st.readEntries c l).1.MemOk := by
  induction l generalizing st with
  | nil => exact h
  | cons x l ih =>
    unfold State.readEntries
    extract_lets +onlyGivenNames r
    have h₁ : r.1.MemOk := h.plainRead
    split
    · exact h₁
    · exact ih h₁

theorem State.MemOk.execRtset (h : st.MemOk) {e d a b} : Out.MemOk (execRtset e d a b st) := by
  unfold Machine.execRtset
  refine h.issue fun _ _ h₁ => ?_
  extract_lets +onlyGivenNames sa₁ sb₁ sd₁ vas₁
  refine Eff.MemOk.checked ?_
  split
  · exact trivial
  · split
    · exact trivial
    · extract_lets +onlyGivenNames pages₁
      refine h₁.withXlate fun _ => ?_
      extract_lets +onlyGivenNames at₁
      split
      · exact h₁
      · split
        · exact h₁.requestLine
        · split
          · next st₁ _ _ e =>
              have h₂ : st₁.MemOk := h₁.readEntries.of_fst e
              exact h₂
          · next st₂ _ e =>
              have h₃ : st₂.MemOk := h₁.readEntries.of_fst e
              split
              · exact trivial
              · exact h₃.modNet

end Sys2Proof.Machine
end

section
/-! # Canonical memory: vector and task instructions -/

namespace Sys2Proof.Machine

-- One proof at a time: each thread of an asynchronous one reserves a whole stack, and hundreds of them exceed the memory given.
set_option Elab.async false

variable {st : State}

/-! ## Vector arithmetic, moves and reductions (R138 to R156) -/

theorem State.MemOk.vectorOpAt (h : st.MemOk) {go : State → Ctx → Eff} (hgo : ∀ t x₁, t.MemOk → (go t x₁).MemOk) {i e scal named checks srcs offs} :
    Out.MemOk (vectorOpAt i e scal named checks srcs offs go st) :=
  h.issue fun _ _ h₁ => h₁.withVectors fun _ => hgo _ _ h₁

theorem State.MemOk.vectorOp (h : st.MemOk) {go : State → Ctx → Eff} (hgo : ∀ t x₁, t.MemOk → (go t x₁).MemOk) {i e scal named checks srcs} :
    Out.MemOk (vectorOp i e scal named checks srcs go st) :=
  h.vectorOpAt hgo

theorem State.MemOk.writeLanesEff (h : st.MemOk) {c d tag w m f} : (Machine.writeLanes st c d tag w m f).MemOk := by
  unfold Machine.writeLanes
  extract_lets +onlyGivenNames r₁
  refine h.writeVector fun _ => ?_
  exact h

theorem State.MemOk.unary (h : st.MemOk) {i e d a k accept f} : Out.MemOk (unary i e d a k accept f st) := h.vectorOp fun _ _ h₁ => h₁.writeLanesEff

theorem State.MemOk.binary (h : st.MemOk) {i e d a b k accept f} : Out.MemOk (binary i e d a b k accept f st) :=
  h.vectorOp fun _ _ h₁ => h₁.writeLanesEff

theorem State.MemOk.execVadd (h : st.MemOk) {e d a b k r} : Out.MemOk (execVadd e d a b k r st) := h.binary

theorem State.MemOk.execVsub (h : st.MemOk) {e d a b k r} : Out.MemOk (execVsub e d a b k r st) := h.binary

theorem State.MemOk.execVmul (h : st.MemOk) {e d a b k r} : Out.MemOk (execVmul e d a b k r st) := h.binary

theorem State.MemOk.execVmin (h : st.MemOk) {e d a b k} : Out.MemOk (execVmin e d a b k st) := h.binary

theorem State.MemOk.execVmax (h : st.MemOk) {e d a b k} : Out.MemOk (execVmax e d a b k st) := h.binary

theorem State.MemOk.fused (h : st.MemOk) {i e d a b z k r np nc} : Out.MemOk (fused i e d a b z k r np nc st) :=
  h.vectorOp fun _ _ h₁ => h₁.writeLanesEff

theorem State.MemOk.execVfma (h : st.MemOk) {e d a b c k r} : Out.MemOk (execVfma e d a b c k r st) := h.fused

theorem State.MemOk.execVfms (h : st.MemOk) {e d a b c k r} : Out.MemOk (execVfms e d a b c k r st) := h.fused

theorem State.MemOk.execVfnma (h : st.MemOk) {e d a b c k r} : Out.MemOk (execVfnma e d a b c k r st) := h.fused

theorem State.MemOk.execVabs (h : st.MemOk) {e d a k} : Out.MemOk (execVabs e d a k st) := h.unary

theorem State.MemOk.execVneg (h : st.MemOk) {e d a k} : Out.MemOk (execVneg e d a k st) := h.unary

theorem State.MemOk.execVexp2 (h : st.MemOk) {e d a k r} : Out.MemOk (execVexp2 e d a k r st) := h.unary

theorem State.MemOk.execVlog2 (h : st.MemOk) {e d a k r} : Out.MemOk (execVlog2 e d a k r st) := h.unary

theorem State.MemOk.execVrcp (h : st.MemOk) {e d a k r} : Out.MemOk (execVrcp e d a k r st) := h.unary

theorem State.MemOk.execVrsqrt (h : st.MemOk) {e d a k r} : Out.MemOk (execVrsqrt e d a k r st) := h.unary

theorem State.MemOk.logic (h : st.MemOk) {i e d a b k f} : Out.MemOk (logic i e d a b k f st) := h.vectorOp fun _ _ h₁ => h₁.writeLanesEff

theorem State.MemOk.execVand (h : st.MemOk) {e d a b k} : Out.MemOk (execVand e d a b k st) := h.logic

theorem State.MemOk.execVor (h : st.MemOk) {e d a b k} : Out.MemOk (execVor e d a b k st) := h.logic

theorem State.MemOk.execVxor (h : st.MemOk) {e d a b k} : Out.MemOk (execVxor e d a b k st) := h.logic

theorem State.MemOk.execVshl (h : st.MemOk) {e d a b k} : Out.MemOk (execVshl e d a b k st) := h.binary

theorem State.MemOk.execVshr (h : st.MemOk) {e d a b k} : Out.MemOk (execVshr e d a b k st) := h.binary

theorem State.MemOk.execVsra (h : st.MemOk) {e d a b k} : Out.MemOk (execVsra e d a b k st) := h.binary

theorem State.MemOk.execVcmp (h : st.MemOk) {e d a b c k} : Out.MemOk (execVcmp e d a b c k st) := by
  unfold Machine.execVcmp
  refine h.vectorOp fun _ _ h₁ => ?_
  exact h₁

theorem State.MemOk.execVsel (h : st.MemOk) {e d a b k} : Out.MemOk (execVsel e d a b k st) := h.vectorOp fun _ _ h₁ => h₁.writeLanesEff

theorem State.MemOk.execVcvt (h : st.MemOk) {e d a t k r} : Out.MemOk (execVcvt e d a t k r st) := h.vectorOp fun _ _ h₁ => h₁.writeLanesEff

theorem State.MemOk.execVtag (h : st.MemOk) {e d a t} : Out.MemOk (execVtag e d a t st) := by
  unfold Machine.execVtag
  refine h.vectorOp fun _ _ h₁ => ?_
  refine h₁.writeVector fun _ => ?_
  exact h₁

theorem State.MemOk.execVmov (h : st.MemOk) {e d a k} : Out.MemOk (execVmov e d a k st) := h.vectorOp fun _ _ h₁ => h₁.writeLanesEff

theorem State.MemOk.execVbcast (h : st.MemOk) {e d a t k} : Out.MemOk (execVbcast e d a t k st) := h.vectorOp fun _ _ h₁ => h₁.writeLanesEff

theorem State.MemOk.execVext (h : st.MemOk) {e d a b} : Out.MemOk (execVext e d a b st) := by
  unfold Machine.execVext
  refine h.vectorOp fun _ _ h₁ => ?_
  exact h₁

theorem State.MemOk.execVins (h : st.MemOk) {e d a b} : Out.MemOk (execVins e d a b st) := by
  unfold Machine.execVins
  refine h.vectorOp fun _ _ h₁ => ?_
  extract_lets +onlyGivenNames x₁ w₁ j₁
  refine h₁.writeVector fun _ => ?_
  exact h₁

theorem State.MemOk.execVperm (h : st.MemOk) {e d a b k} : Out.MemOk (execVperm e d a b k st) := h.vectorOp fun _ _ h₁ => h₁.writeLanesEff

theorem State.MemOk.reduction (h : st.MemOk) {i e d a accept f} : Out.MemOk (reduction i e d a accept f st) := by
  unfold Machine.reduction
  refine h.vectorOp fun _ _ h₁ => ?_
  extract_lets +onlyGivenNames r₁
  refine h₁.writeVector fun _ => ?_
  exact h₁

theorem State.MemOk.execVredsum (h : st.MemOk) {e d a k r} : Out.MemOk (execVredsum e d a k r st) := h.reduction

theorem State.MemOk.execVredmax (h : st.MemOk) {e d a k} : Out.MemOk (execVredmax e d a k st) := h.reduction

theorem State.MemOk.execVredmin (h : st.MemOk) {e d a k} : Out.MemOk (execVredmin e d a k st) := h.reduction

theorem State.MemOk.dot (h : st.MemOk) {i e d a b z k rm tag nan val} : Out.MemOk (dot i e d a b z k rm tag nan val st) :=
  h.vectorOp fun _ _ h₁ => h₁.writeLanesEff

theorem State.MemOk.execVdotBf16 (h : st.MemOk) {e d a b c k r} : Out.MemOk (execVdotBf16 e d a b c k r st) := h.dot

theorem State.MemOk.execVdotTd8 (h : st.MemOk) {e d a b c k r} : Out.MemOk (execVdotTd8 e d a b c k r st) := h.dot

theorem State.MemOk.writeLanes (h : st.MemOk) {c r tag l last} : (st.writeLanes c r tag l last).MemOk := by
  unfold State.writeLanes
  extract_lets +onlyGivenNames v₁
  split
  · exact h.setCtx
  · split
    · exact h
    · split
      · exact h.setCtx.tickStamp
      · exact h.setCtx

/-! ## Masks, stream bindings and invariant registers (R157 to R168) -/

theorem State.MemOk.maskOp (h : st.MemOk) {i e scal f} : Out.MemOk (maskOp i e scal f st) := by
  unfold Machine.maskOp
  refine h.issue fun _ _ h₁ => ?_
  exact h₁

theorem State.MemOk.execKset (h : st.MemOk) {e d a} : Out.MemOk (execKset e d a st) := h.maskOp

theorem State.MemOk.execKand (h : st.MemOk) {e d a b} : Out.MemOk (execKand e d a b st) := h.maskOp

theorem State.MemOk.execKor (h : st.MemOk) {e d a b} : Out.MemOk (execKor e d a b st) := h.maskOp

theorem State.MemOk.execKnot (h : st.MemOk) {e d a} : Out.MemOk (execKnot e d a st) := h.maskOp

theorem State.MemOk.execKpop (h : st.MemOk) {e d a} : Out.MemOk (execKpop e d a st) := h.maskOp

theorem State.MemOk.bindStream (h : st.MemOk) {i e d a push} : Out.MemOk (bindStream i e d a push st) := by
  unfold Machine.bindStream
  refine h.issue fun _ _ h₁ => ?_
  extract_lets +onlyGivenNames ra₁
  split
  · exact trivial
  · split
    · exact h₁
    · refine Eff.MemOk.checked (h₁.withBytes (fun _ _ _ h₂ => ?_))
      extract_lets +onlyGivenNames x₁
      split
      · exact Eff.MemOk.rejected
      · split
        · exact trivial
        · split
          · exact trivial
          · split
            · exact trivial
            · split <;> exact h₂

theorem State.MemOk.execSbindPop (h : st.MemOk) {e d a} : Out.MemOk (execSbindPop e d a st) := h.bindStream

theorem State.MemOk.execSbindPush (h : st.MemOk) {e d a} : Out.MemOk (execSbindPush e d a st) := h.bindStream

theorem State.MemOk.execSfree (h : st.MemOk) {e d} : Out.MemOk (execSfree e d st) := by
  unfold Machine.execSfree
  refine h.issue fun _ _ h₁ => ?_
  split
  · exact trivial
  · split <;> exact h₁

theorem State.MemOk.accumulate (h : st.MemOk) {i e d a k kind accept} : Out.MemOk (accumulate i e d a k kind accept st) := by
  unfold Machine.accumulate
  refine h.vectorOp fun _ _ h₁ => ?_
  extract_lets +onlyGivenNames q₁
  split
  · exact trivial
  · exact h₁

theorem State.MemOk.execCkaccMod (h : st.MemOk) {e d a k} : Out.MemOk (execCkaccMod e d a k st) := h.accumulate

theorem State.MemOk.execCkaccFsum (h : st.MemOk) {e d a k} : Out.MemOk (execCkaccFsum e d a k st) := h.accumulate

theorem State.MemOk.execCkclr (h : st.MemOk) {e d} : Out.MemOk (execCkclr e d st) := h.maskOp

theorem State.MemOk.execCkrdLo (h : st.MemOk) {e d a} : Out.MemOk (execCkrdLo e d a st) := h.maskOp

theorem State.MemOk.execCkrdHi (h : st.MemOk) {e d a} : Out.MemOk (execCkrdHi e d a st) := h.maskOp

theorem State.MemOk.execCheck (h : st.MemOk) {e d a b} : Out.MemOk (execCheck e d a b st) := by
  unfold Machine.execCheck
  refine h.issue fun _ _ h₁ => ?_
  extract_lets +onlyGivenNames r₁
  split <;> exact h₁

/-! ## Task flow, tiles and work counters (R255 to R263) -/

theorem State.MemOk.execYield (h : st.MemOk) {e n} : Out.MemOk (execYield e n st) := by
  unfold Machine.execYield
  refine h.issueFree fun _ _ h₁ => ?_
  exact h₁

theorem State.MemOk.copyEnded (h : st.MemOk) {c} : (st.copyEnded c).MemOk := by
  unfold State.copyEnded
  split
  · exact h.copyGone.settleFiring
  · exact h

theorem State.MemOk.execTend (h : st.MemOk) {e} : Out.MemOk (execTend e st) := by
  unfold Machine.execTend
  refine h.issueFree fun _ _ h₁ => ?_
  split
  · exact h₁
  · exact ((h₁.modTenant.endCtx _ _).copyEnded).tickStamp

theorem State.MemOk.countSent (h : st.MemOk) {l launch} : (st.countSent l launch).MemOk := h.modLayer

theorem State.MemOk.countRecv (h : st.MemOk) {l launch} : (st.countRecv l launch).MemOk := h.modLayer

theorem State.MemOk.sendMsg (h : st.MemOk) {c cid ch far bytes} : (st.sendMsg c cid ch far bytes).MemOk := by
  unfold State.sendMsg
  split
  · extract_lets +onlyGivenNames m₁ st₁
    have h₁ : st₁.MemOk := h.ite h.countSent
    refine State.MemOk.tickStamp ?_
    exact h₁
  · exact h.countSent.nextTag.send

theorem State.MemOk.execChsend (h : st.MemOk) {e a b} : Out.MemOk (execChsend e a b st) := by
  unfold Machine.execChsend
  refine h.issue fun _ _ h₁ => ?_
  extract_lets +onlyGivenNames v₁ x₁ ch₁ cid₁ far₁ own₁
  split
  · exact trivial
  · split
    · exact trivial
    · refine Eff.MemOk.checked (h₁.withFence (fun _ _ h₂ => ?_))
      refine Eff.MemOk.atBank ?_
      exact h₂.sendMsg

theorem State.MemOk.pinVersion (h : st.MemOk) {f tenant tile ver} : (st.pinVersion f tenant tile ver).MemOk := by
  unfold State.pinVersion
  split
  · split
    · exact h.modTile.modFiring
    · exact h
  · exact h

theorem State.MemOk.spawn (h : st.MemOk) {c handler ctl vals} : (st.spawn c handler ctl vals).MemOk := by
  unfold State.spawn
  extract_lets +onlyGivenNames f₁ prio₁ lease₁ val₁ st₁
  have h₁ : st₁.MemOk := h
  exact (h₁.pinVersion.ite h₁).pinVersion.ite (h₁.pinVersion.ite h₁)

theorem State.MemOk.execHspawn (h : st.MemOk) {e d a b} : Out.MemOk (execHspawn e d a b st) := by
  unfold Machine.execHspawn
  refine h.issue fun _ _ h₁ => ?_
  extract_lets +onlyGivenNames v₁ x₁ ctl₁
  refine Eff.MemOk.checked ?_
  split
  · exact trivial
  · refine Eff.MemOk.checked (h₁.withFence (fun _ _ h₂ => ?_))
    refine Eff.MemOk.atBank ?_
    exact h₂.spawn

theorem State.MemOk.execCommit (h : st.MemOk) {e d a b} : Out.MemOk (execCommit e d a b st) := by
  unfold Machine.execCommit
  refine h.issueFree fun _ _ h₁ => ?_
  extract_lets +onlyGivenNames x₁ k₁
  split
  · exact trivial
  · refine Eff.MemOk.checked ?_
    split
    · exact h₁
    · extract_lets +onlyGivenNames dd₁
      split
      · exact trivial
      · split
        · exact trivial
        · split
          · exact h₁
          · refine h₁.withFence fun _ _ h₂ => ?_
            extract_lets +onlyGivenNames st₁
            have h₃ : st₁.MemOk := by
              unfold st₁
              refine State.MemOk.tickStamp ?_
              exact h₂
            extract_lets +onlyGivenNames st₂
            have h₄ : st₂.MemOk := by
              unfold st₂
              split
              · exact h₃.modFiring
              · exact h₃
            exact h₄.endCtx _ _

theorem State.MemOk.acceptRequest (h : st.MemOk) {c op d} : (acceptRequest st c op d).MemOk := h

theorem State.MemOk.execTnew (h : st.MemOk) {e d a} : Out.MemOk (execTnew e d a st) := by
  unfold Machine.execTnew
  refine h.issue fun _ _ h₁ => ?_
  extract_lets +onlyGivenNames v₁ base₁ size₁ zero₁ k₁
  refine Eff.MemOk.checked ?_
  split
  · exact trivial
  · exact Eff.MemOk.checked (h₁.afterAcquires h₁.acceptRequest)

theorem State.MemOk.execTver (h : st.MemOk) {e d a} : Out.MemOk (execTver e d a st) := h.issue fun _ _ h₁ => h₁.acceptRequest

theorem State.MemOk.execWorkq (h : st.MemOk) {e a b} : Out.MemOk (execWorkq e a b st) := by
  unfold Machine.execWorkq
  refine h.issue fun _ _ h₁ => ?_
  extract_lets +onlyGivenNames v₁ x₁
  refine Eff.MemOk.checked ?_
  split
  · exact trivial
  · exact h₁

/-! ## Traps, time, discovery and power (R42, R81, R264 to R267) -/

theorem State.MemOk.execTrap (h : st.MemOk) {e a n} : Out.MemOk (execTrap e a n st) := by
  unfold Machine.execTrap
  refine h.issue fun _ _ h₁ => ?_
  exact h₁

theorem State.MemOk.execEret (h : st.MemOk) {e} : Out.MemOk (execEret e st) := by
  unfold Machine.execEret
  refine h.issue fun _ _ h₁ => ?_
  split
  · exact h₁
  · exact trivial

theorem State.MemOk.execTstamp (h : st.MemOk) {e d} : Out.MemOk (execTstamp e d st) := by
  unfold Machine.execTstamp
  refine h.issue fun _ _ h₁ => ?_
  exact h₁

theorem State.MemOk.execDscr (h : st.MemOk) {e d a} : Out.MemOk (execDscr e d a st) := by
  unfold Machine.execDscr
  refine h.issue fun _ _ h₁ => ?_
  exact h₁

theorem State.MemOk.execPwreq (h : st.MemOk) {e d a} : Out.MemOk (execPwreq e d a st) := by
  unfold Machine.execPwreq
  refine h.issue fun _ _ h₁ => ?_
  extract_lets +onlyGivenNames v₁
  split
  · exact trivial
  · extract_lets +onlyGivenNames r₁
    refine State.MemOk.acceptRequest ?_
    exact h₁

theorem State.MemOk.execPwrel (h : st.MemOk) {e a} : Out.MemOk (execPwrel e a st) := by
  unfold Machine.execPwrel
  refine h.issue fun _ _ h₁ => ?_
  exact h₁

theorem State.MemOk.execUnassignedMajorOpcode (h : st.MemOk) {e w} : Out.MemOk (execUnassignedMajorOpcode e w st) := by
  unfold Machine.execUnassignedMajorOpcode
  refine h.issue fun _ _ h₁ => ?_
  exact trivial

/-! ## Vector loads and stores, gather and scatter: the writes to local memory (R197 to R202) -/

theorem State.MemOk.execVld (h : st.MemOk) {e d a t m o} : Out.MemOk (execVld e d a t m o st) := by
  unfold Machine.execVld
  refine h.vectorOp fun _ _ h₁ => ?_
  extract_lets +onlyGivenNames x₁ ls₁ g₁ k₁
  refine Eff.MemOk.checked (h₁.localAccess ?_)
  split
  · exact h₁
  · split
    · exact h₁
    · extract_lets +onlyGivenNames v₁
      refine h₁.writeVector fun _ => ?_
      split
      · exact h₁.setGranules _ _ _
      · exact h₁

/-- Several pieces written into local memory. -/
theorem Core.wf_writeAll {k : Core} (h : k.lm.wf = true) {l} : (k.writeAll l).lm.wf = true := by
  unfold Core.writeAll
  generalize mergeRuns l = runs
  induction runs generalizing k with
  | nil => exact h
  | cons x l ih => exact ih (Core.wf_write _ _ h)

/-- A vector store writes local memory (R197). -/
theorem State.MemOk.execVst (h : st.MemOk) {e d a m o} : Out.MemOk (execVst e d a m o st) := by
  refine h.vectorOp fun _ c h₁ => ?_
  extract_lets +onlyGivenNames x ls g k
  refine Eff.MemOk.checked (h₁.localAccess ?_)
  split
  · exact h₁
  · split
    · exact h₁
    · extract_lets +onlyGivenNames st₁
      have h₂ : st₁.MemOk := by
        refine h₁.modCore _ fun _ hk => ?_
        exact Core.wf_writeAll hk
      exact (h₂.setGranules _ _ _).ite h₂

theorem State.MemOk.acceptLoad (h : st.MemOk) {c d tag o groups} : (acceptLoad st c d tag o groups).MemOk := by
  unfold Machine.acceptLoad
  split
  · refine h.writeVector fun _ => ?_
    exact h
  · extract_lets +onlyGivenNames f₁
    have h₁ : ∀ x₀, (f₁ x₀).MemOk := fun _ => h.acceptAll
    split
    · split
      · exact h.withPush fun _ => h₁ _
      · exact h₁ _
    · exact h₁ _

theorem State.MemOk.execVldg (h : st.MemOk) {e d a t o} : Out.MemOk (execVldg e d a t o st) :=
  h.vectorOp fun _ _ h₁ => Eff.MemOk.checked (h₁.withXlate (fun _ => h₁.acceptLoad))

theorem State.MemOk.execVstg (h : st.MemOk) {e d a o} : Out.MemOk (execVstg e d a o st) :=
  h.vectorOp fun _ _ h₁ => Eff.MemOk.checked (h₁.withXlate (fun _ => h₁.acceptAs))

theorem State.MemOk.execVgath (h : st.MemOk) {e d a b s t k} : Out.MemOk (execVgath e d a b s t k st) := by
  unfold Machine.execVgath
  refine h.vectorOpAt fun _ _ h₁ => ?_
  extract_lets +onlyGivenNames ls₁
  split
  · extract_lets +onlyGivenNames lc₁
    refine Eff.MemOk.checked (h₁.localAccess ?_)
    split
    · exact h₁
    · refine h₁.writeVector fun _ => ?_
      exact h₁
  · exact Eff.MemOk.checked (h₁.withXlate (fun _ => h₁.acceptLoad))

theorem State.MemOk.execVscat (h : st.MemOk) {e d a b s k} : Out.MemOk (execVscat e d a b s k st) := by
  refine h.vectorOpAt fun _ c h₁ => ?_
  extract_lets +onlyGivenNames ls v
  split
  · refine Eff.MemOk.checked (h₁.localAccess ?_)
    split
    · exact h₁
    · refine State.MemOk.modCore h₁ _ fun _ hk => ?_
      exact Core.wf_writeAll hk
  · exact Eff.MemOk.checked (h₁.withXlate fun _ => h₁.acceptAll)

end Sys2Proof.Machine
end

section
/-! # Canonical memory: accesses in flight, copies, the matrix unit -/

namespace Sys2Proof.Machine

-- One proof at a time: each thread of an asynchronous one reserves a whole stack, and hundreds of them exceed the memory given.
set_option Elab.async false

variable {st : State}

/-! ## Accesses in flight, and their performance at a point (R269 to R284, R294) -/

theorem State.MemOk.readyRelease (h : st.MemOk) {uid s} : (st.readyRelease uid s).MemOk := by
  unfold State.readyRelease
  split
  · exact h
  · extract_lets +onlyGivenNames st₁
    have h₁ : st₁.MemOk := h.writeBackStored
    split
    · exact h₁
    · split
      · exact h₁.writeBackPeers
      · exact trivial

theorem State.MemOk.setAcc (h : st.MemOk) {a} : (st.setAcc a).MemOk := h

theorem State.MemOk.dropAcc (h : st.MemOk) {a} : (st.dropAcc a).MemOk := h

theorem State.MemOk.modUid (h : st.MemOk) {u f} : (st.modUid u f).MemOk := by
  unfold State.modUid
  split
  · exact h.setCtx
  · exact h

theorem State.MemOk.finishAcquire (h : st.MemOk) {a} : (st.finishAcquire a).MemOk := by
  unfold State.finishAcquire
  split
  · exact h.dropPeers.tickStamp.modUid
  · exact h

theorem State.MemOk.answer (h : st.MemOk) {a x} : (st.answer a x).MemOk := h.setAcc.finishAcquire

theorem State.MemOk.readElem (h : st.MemOk) {a x} : (st.readElem a x).1.MemOk := by
  unfold State.readElem
  split
  · exact h.hRead
  · exact h.flushLine.sRead
  · exact h.flushLine.behindRead
  · exact h.behindRead
  · exact h
  · exact h.sRead

theorem State.MemOk.readElems (h : st.MemOk) {a l} : (State.readElems a l st).1.MemOk := by
  induction l generalizing st with
  | nil => exact h
  | cons x l ih => exact ih h.readElem

theorem State.MemOk.finishLoad (h : st.MemOk) {a} : (st.finishLoad a).MemOk := by
  unfold State.finishLoad
  extract_lets +onlyGivenNames st₁
  have h₁ : st₁.1.MemOk := h.readElems
  split <;> exact h₁.answer

theorem State.MemOk.performLoad (h : st.MemOk) {a} : (st.performLoad a).MemOk := by
  unfold State.performLoad
  split
  · split
    · split
      · exact trivial
      · refine Ready.MemOk.andThen h.readyLine fun _ h₁ => ?_
        exact h₁.finishLoad
    · refine Ready.MemOk.andThen h.readyOwner fun _ h₂ => ?_
      exact h₂.requestLine.setAcc
  · refine Ready.MemOk.andThen h.readyLines fun _ h₃ => ?_
    exact h₃.finishLoad

theorem State.MemOk.writeRun (h : st.MemOk) {a pa l} : (st.writeRun a pa l).MemOk := by
  unfold State.writeRun
  split
  · exact h.hWrite
  · exact h.flushLine.sWrite
  · exact h.flushLine.sWrite
  · exact h.putBytes

theorem State.MemOk.askPeer (h : st.MemOk) {a pa kind body} : (st.askPeer a pa kind body).MemOk := h

theorem State.MemOk.performStore (h : st.MemOk) {a} : (st.performStore a).MemOk := by
  unfold State.performStore
  refine Ready.MemOk.andThen ?_ fun _ h₁ => ?_
  · split
    · exact h.readyRelease
    · exact h
  · split
    · split
      · exact trivial
      · refine Ready.MemOk.andThen h₁.readyOwner fun _ h₂ => ?_
        exact (h₂.foldl (fun _ _ h₃ => h₃.askPeer)).setAcc
    · refine Ready.MemOk.andThen h₁.readyLines fun _ h₄ => ?_
      exact (h₄.foldl (fun _ _ h₅ => h₅.writeRun)).dropAcc

theorem State.MemOk.performNode (h : st.MemOk) {a} : (st.performNode a).MemOk := by
  unfold State.performNode
  refine Ready.MemOk.andThen h.readyLines fun _ h₁ => ?_
  refine Ready.MemOk.andThen ?_ fun _ h₂ => ?_
  · split
    · exact h₁.readyRelease
    · exact h₁
  · split
    · exact h₂.nodeRead.answer
    · extract_lets +onlyGivenNames st₁
      have h₃ : st₁.1.MemOk := h₂.nodeRead
      split
      · exact h₃.answer
      · split
        · exact trivial
        · exact h₃.answer
    · refine State.MemOk.dropAcc ?_
      split
      · exact h₂
      · split
        · exact h₂.nodeMod
        · exact h₂.nodeWrite
    · exact h₂.writeNode.dropAcc
    · exact h₂.freeNode.dropAcc
    · exact h₂.join.answer
    · exact (h₂.ite h₂.pushPair).dropAcc
    · exact trivial

theorem Ready.MemOk.out {x : Ready} (h : x.MemOk) {mnemonic} : Out.MemOk (Ready.out mnemonic x) := by
  unfold Machine.Ready.out
  split
  · next st₁ =>
      have h₁ : st₁.MemOk := h
      exact .next h₁
  · next st₂ =>
      have h₂ : st₂.MemOk := h
      exact .next h₂
  · exact .idle

theorem State.MemOk.execRemoteAccess (h : st.MemOk) : Out.MemOk (execRemoteAccess st) := by
  unfold Machine.execRemoteAccess
  split
  · split
    · exact .idle
    · refine Ready.MemOk.out ?_
      split
      · exact h.performLoad
      · exact h.performStore
      · exact trivial
      · exact trivial
      · exact trivial
      · exact trivial
      · exact trivial
      · exact h.performNode
  · exact .idle

theorem State.MemOk.finishAtomic (h : st.MemOk) {a x} : (st.finishAtomic a x).MemOk := by
  unfold State.finishAtomic
  split
  · exact h.dropAcc.modUid
  · exact h.answer

theorem State.MemOk.performAtomic (h : st.MemOk) {a x} : (st.performAtomic a x).MemOk := by
  unfold State.performAtomic
  refine Ready.MemOk.andThen ?_ fun _ h₁ => ?_
  · split
    · exact h.readyRelease
    · exact h
  · split
    · split
      · exact trivial
      · refine Ready.MemOk.andThen h₁.readyOwner fun _ h₂ => ?_
        exact h₂
    · split
      · exact h₁.finishAtomic
      · extract_lets +onlyGivenNames st₁
        have h₃ : st₁.MemOk := h₁.flushLine.ite h₁
        extract_lets +onlyGivenNames st₂
        have h₄ : st₂.1.MemOk := h₃.sRead
        split
        · exact h₄.answer
        · exact h₄.sWrite.finishAtomic

theorem State.MemOk.execAtomicPerform (h : st.MemOk) : Out.MemOk (execAtomicPerform st) := by
  unfold Machine.execAtomicPerform
  split
  · split
    · exact .idle
    · split
      · exact Ready.MemOk.out h.performAtomic
      · exact Ready.MemOk.out h.performAtomic
      · exact .idle
  · exact .idle

theorem State.MemOk.dropRed (h : st.MemOk) {cid id} : (st.dropRed cid id).MemOk := h.editCore

theorem State.MemOk.performRed (h : st.MemOk) {cid r} : (st.performRed cid r).MemOk := by
  unfold State.performRed
  refine Ready.MemOk.andThen ?_ fun _ h₁ => ?_
  · split
    · exact h.readyRelease
    · exact h
  · split
    · split
      · exact trivial
      · refine Ready.MemOk.andThen h₁.readyOwner fun _ h₂ => ?_
        extract_lets +onlyGivenNames w₁ tenant₁ st₁
        have h₃ : st₁.MemOk := h₂.send
        refine State.MemOk.editCore ?_
        exact h₃
    · split
      · exact h₁.dropRed
      · exact ((h₁.flushLine.ite h₁).sRead.logEvent.ite (h₁.flushLine.ite h₁).sRead.sWrite).dropRed

theorem State.MemOk.execReductionPerform (h : st.MemOk) : Out.MemOk (execReductionPerform st) := by
  unfold Machine.execReductionPerform
  split
  · split
    · exact Ready.MemOk.out h.performRed
    · exact .idle
  · exact .idle

theorem State.MemOk.journal (h : st.MemOk) {e} : (st.journal e).MemOk := h

theorem State.MemOk.newTile (h : st.MemOk) {tenant size bytes bad} : (st.newTile tenant size bytes bad).1.MemOk := by
  unfold State.newTile
  extract_lets +onlyGivenNames full₁ id₁ st₁
  have h₁ : st₁.MemOk := h
  split <;> exact h₁

theorem State.MemOk.writeAnswer (h : st.MemOk) {a x} : (st.writeAnswer a x).MemOk := by
  unfold State.writeAnswer
  extract_lets +onlyGivenNames st₁
  have h₁ : st₁.MemOk := h.dropAcc
  split
  · exact h₁
  · extract_lets +onlyGivenNames c₁
    split
    · exact h₁.consumePoison
    · exact h₁.setCtx
    · exact h₁.setCtx
    · exact h₁.writeLanes
    · exact h₁.setCtx

theorem State.MemOk.execResultWrite (h : st.MemOk) : Out.MemOk (execResultWrite st) := by
  unfold Machine.execResultWrite
  split
  · split
    · exact .next h.writeAnswer
    · split
      · exact .idle
      · exact .next h.tickStamp.modUid.writeAnswer
    · split
      · exact .idle
      · exact .next h.newTile.writeAnswer
    · exact .idle
  · exact .idle

theorem State.MemOk.acceptRemote (h : st.MemOk) {c r} : (st.acceptRemote c r).MemOk := h.retire _ _ _

/-- A store from another core writes the target's local memory. -/
theorem State.MemOk.performRemote (h : st.MemOk) {c r} : (st.performRemote c r).MemOk := by
  unfold State.performRemote
  split
  · extract_lets +onlyGivenNames k₁ a₁
    refine State.MemOk.acceptRemote (State.MemOk.tickStamp ?_)
    exact h
  · refine State.MemOk.acceptRemote (h.modCore _ (fun _ hk => ?_))
    exact Core.wf_write _ _ hk
  · exact (h.barWrite _ _ _).acceptRemote

theorem State.MemOk.execRemoteTargetCheck (h : st.MemOk) : Out.MemOk (execRemoteTargetCheck st) := by
  unfold Machine.execRemoteTargetCheck
  split
  · extract_lets +onlyGivenNames k₁ st₁
    have h₁ : st₁.MemOk := h
    split
    · exact .next h₁
    · split
      · exact .next ((h₁.endCtx _ _).failLaunch)
      · split
        · exact .idle
        · split
          · exact .next h₁.programFault
          · split
            · exact .idle
            · exact .next h₁.performRemote
  · exact .idle

/-! ## `cpy`, `cpyx` and `cpwait` (R225 to R234) -/

theorem State.MemOk.copyOp (h : st.MemOk) {i e d a b cross} : Out.MemOk (copyOp i e d a b cross st) := by
  unfold Machine.copyOp
  refine h.issue fun _ _ h₁ => ?_
  extract_lets +onlyGivenNames da₁ sa₁ ctl₁
  split
  · exact h₁
  · refine Eff.MemOk.checked (h₁.withBytes (fun _ _ _ h₂ => ?_))
    refine h₂.withBytes fun _ _ _ h₃ => ?_
    extract_lets +onlyGivenNames dst₁ src₁
    split
    · exact trivial
    · split
      · exact Eff.MemOk.rejected
      · exact Eff.MemOk.rejected
      · split
        · exact trivial
        · exact h₃

theorem State.MemOk.execCpy (h : st.MemOk) {e d a b} : Out.MemOk (execCpy e d a b st) := h.copyOp

theorem State.MemOk.execCpyx (h : st.MemOk) {e d a b} : Out.MemOk (execCpyx e d a b st) := h.copyOp

theorem State.MemOk.takeRecord (h : st.MemOk) {c} : OptFstMemOk (st.takeRecord c) := by
  unfold State.takeRecord
  split
  · exact h.editCore
  · split
    · exact trivial
    · exact h

theorem State.MemOk.execCpwait (h : st.MemOk) {e d} : Out.MemOk (execCpwait e d st) := by
  unfold Machine.execCpwait
  refine h.issueFree fun _ _ h₁ => ?_
  split
  · exact h₁
  · split
    · next st₁ _ e =>
        have h₂ : st₁.MemOk := h₁.takeRecord.of_pair e
        exact h₂
    · exact h₁

/-! ## Matrix instructions (R169 to R187) -/

theorem State.MemOk.enqueue (h : st.MemOk) {c op} : (enqueue st c op).MemOk := by
  unfold Machine.enqueue
  split
  · exact h
  · exact h.editCore.tickStamp

theorem State.MemOk.execMwin (h : st.MemOk) {e d a} : Out.MemOk (execMwin e d a st) := by
  unfold Machine.execMwin
  refine h.issue fun _ _ h₁ => ?_
  extract_lets +onlyGivenNames w₁ g₁ blk₁
  split
  · exact h₁
  · split
    · exact trivial
    · split
      · exact trivial
      · extract_lets +onlyGivenNames free₁
        split
        · exact trivial
        · split
          · exact h₁
          · exact h₁.modCluster.enqueue

theorem State.MemOk.execOdset (h : st.MemOk) {e d a b} : Out.MemOk (execOdset e d a b st) := by
  unfold Machine.execOdset
  refine h.issue fun _ _ h₁ => ?_
  extract_lets +onlyGivenNames o₁
  split
  · exact h₁
  · split
    · exact trivial
    · exact h₁

theorem State.MemOk.execMma (h : st.MemOk) {e m a b v c} : Out.MemOk (execMma e m a b v c st) := by
  unfold Machine.execMma
  refine h.issue fun _ _ h₁ => ?_
  extract_lets +onlyGivenNames md₁ oa₁ ob₁ acc₁
  split
  · exact trivial
  · split
    · exact trivial
    · refine h₁.withVectors fun _ => ?_
      split
      · exact trivial
      · split
        · exact trivial
        · exact h₁.enqueue

theorem State.MemOk.windowOp (h : st.MemOk) {go : State → Ctx → W64 → Eff} (hgo : ∀ t x₁ x₂, t.MemOk → (go t x₁ x₂).MemOk) {i e scal d opnd} :
    Out.MemOk (windowOp i e scal d opnd go st) := by
  unfold Machine.windowOp
  refine h.issue fun _ _ h₁ => ?_
  split
  · exact trivial
  · exact hgo _ _ _ h₁

theorem State.MemOk.execMzero (h : st.MemOk) {e d} : Out.MemOk (execMzero e d st) := h.windowOp fun _ _ _ h₁ => h₁.enqueue

theorem State.MemOk.execMld (h : st.MemOk) {e d a} : Out.MemOk (execMld e d a st) := h.windowOp fun _ _ _ h₁ => Eff.MemOk.checked h₁.enqueue

theorem State.MemOk.matrixStore (h : st.MemOk) {i e d a form} : Out.MemOk (matrixStore i e d a form st) :=
  h.windowOp fun _ _ _ h₁ => Eff.MemOk.checked h₁.enqueue

theorem State.MemOk.execMst (h : st.MemOk) {e d a} : Out.MemOk (execMst e d a st) := h.matrixStore

theorem State.MemOk.execMstBf16 (h : st.MemOk) {e d a} : Out.MemOk (execMstBf16 e d a st) := h.matrixStore

theorem State.MemOk.execMstTd8 (h : st.MemOk) {e d a} : Out.MemOk (execMstTd8 e d a st) := h.matrixStore

theorem State.MemOk.execMres (h : st.MemOk) {e d a} : Out.MemOk (execMres e d a st) := by
  unfold Machine.execMres
  refine h.issue fun _ _ h₁ => ?_
  extract_lets +onlyGivenNames m₁
  split
  · exact trivial
  · split
    · exact trivial
    · extract_lets +onlyGivenNames f₁
      have h₂ : ∀ x₀, (f₁ x₀).MemOk := fun _ => h₁.enqueue
      split
      · split
        · exact h₁.withPush fun _ => h₂ _
        · exact h₂ _
      · exact h₂ _

theorem State.MemOk.execMchk (h : st.MemOk) {e d a b} : Out.MemOk (execMchk e d a b st) := h.windowOp fun _ _ _ h₁ => h₁.enqueue

theorem State.MemOk.execMscale (h : st.MemOk) {e d a b} : Out.MemOk (execMscale e d a b st) := by
  unfold Machine.execMscale
  refine h.issue fun _ _ h₁ => ?_
  extract_lets +onlyGivenNames m₁
  split
  · exact trivial
  · split
    · exact trivial
    · exact h₁.withVectors fun _ => h₁.enqueue

/-! ## The matrix unit (R172 to R182, R189) -/

theorem State.MemOk.execKStep (h : st.MemOk) : Out.MemOk (execKStep st) := by
  unfold Machine.execKStep
  extract_lets +onlyGivenNames g₁
  split
  · split
    · split
      · exact .idle
      · extract_lets +onlyGivenNames cid₁ k₁
        split
        · extract_lets +onlyGivenNames st₁
          have h₁ : st₁.MemOk := h.modCluster
          split
          · exact .next h₁.consumePoison
          · exact .next h₁
        · extract_lets +onlyGivenNames w₁ ops₁ k₂ g₂ g₃ st₂
          have h₂ : st₂.MemOk := h.modCluster
          refine .next ?_
          split
          · exact h₂.credit
          · exact h₂
    · exact .idle
  · exact .idle

theorem State.MemOk.lateVector (h : st.MemOk) {u d x} : (st.lateVector u d x).MemOk := by
  unfold State.lateVector
  split
  · split
    · exact h.setCtx
    · split
      · exact h
      · exact h.setCtx.tickStamp
  · exact h

theorem State.MemOk.finishCheck (h : st.MemOk) {u g w man kd sb} : (st.finishCheck u g w man kd sb).MemOk := by
  unfold State.finishCheck
  split
  · split
    · exact h.setCtx
    · extract_lets +onlyGivenNames r₁ a₁ b₁ c₁
      split
      · exact h.setCtx
      · exact h.setCtx.takeTrap
  · exact h

theorem State.MemOk.matrixCommand (h : st.MemOk) {n c cmd} : (st.matrixCommand n c cmd).MemOk := by
  unfold State.matrixCommand
  extract_lets +onlyGivenNames g cid set
  have hset : ∀ g, (set g).MemOk := fun _ => h.modCluster
  clear_value set
  split
  · exact h
  · exact hset _
  · exact hset _
  · extract_lets +onlyGivenNames w
    split
    · cases st.byUid cmd.uid with
      | none => exact h
      | some c => exact h.consumePoison
    · exact hset _
  · extract_lets +onlyGivenNames w
    split
    · exact h
    · exact h.deliver _ _ _
  · exact h.lateVector
  · exact h.finishCheck
  · exact hset _

theorem State.MemOk.execMatrixCommandPerform (h : st.MemOk) : Out.MemOk (execMatrixCommandPerform st) := by
  unfold Machine.execMatrixCommandPerform
  extract_lets +onlyGivenNames g₁
  split
  · split
    · exact .idle
    · exact .next h.modCluster.matrixCommand
  · exact .idle

theorem State.MemOk.execNextCore (h : st.MemOk) : Out.MemOk (execNextCore st) := by
  unfold Machine.execNextCore
  extract_lets +onlyGivenNames n₁ g₁
  split
  · exact .idle
  · extract_lets +onlyGivenNames asks₁
    split
    · split
      · extract_lets +onlyGivenNames st₁
        have h₁ : st₁.MemOk := h
        extract_lets +onlyGivenNames st₂
        have h₂ : st₂.MemOk := h₁.editCore
        exact .next h₂
      · exact .idle
    · split
      · exact .idle
      · exact .next h

theorem State.MemOk.execBlockClear (h : st.MemOk) {g k} : Out.MemOk (execBlockClear g k st) := by
  unfold Machine.execBlockClear
  split
  · split
    · exact .next h
    · exact .idle
  · exact .idle

end Sys2Proof.Machine
end

section
/-! # Canonical memory: engines, starts and barriers -/

namespace Sys2Proof.Machine

-- One proof at a time: each thread of an asynchronous one reserves a whole stack, and hundreds of them exceed the memory given.
set_option Elab.async false

variable {st : State}

/-! ## The engines of a core: strips, copies, completion records, walks, refills (R160 to R162, R230 to R234, R301) -/

theorem State.MemOk.readAt (h : st.MemOk) {pa n} : (st.readAt pa n).1.MemOk := by
  unfold State.readAt
  split
  · exact h
  · exact h.sRead

theorem State.MemOk.stripElem (h : st.MemOk) {c h₁ a} : (st.stripElem c h₁ a).1.MemOk := by
  unfold State.stripElem
  split
  · exact h
  · split
    · exact h.readAt
    · exact h
    · exact h
  · split <;> exact h

theorem State.MemOk.stripRead (h : st.MemOk) {c x l} : (State.stripRead c x l st).1.MemOk := by
  induction l generalizing st with
  | nil => exact h
  | cons y l ih =>
    unfold State.stripRead
    extract_lets +onlyGivenNames r s
    have h₁ : s.1.MemOk := ih h.stripElem
    split <;> exact h₁

theorem State.MemOk.readyXlate (h : st.MemOk) {cid pid tenant sup k l} : (State.readyXlate cid pid tenant sup k l st).MemOk := by
  induction l with
  | nil => exact h
  | cons a l ih =>
    unfold State.readyXlate
    split
    · split
      · next e => exact h.engineWalk.of_eq e
      · exact trivial
    · exact ih

/-- Page requests for the pages that an engine found absent (R305). -/
theorem State.MemOk.pageRequests (h : st.MemOk) {l : List Nat} {rec : State → Nat → Nat} :
    (l.foldl (fun s va => s.pageRequest (rec s va)) st).MemOk := by
  refine h.foldlOf fun va t u ht e => ?_
  have e' : t.pageRequest (rec t va) = u := e
  exact e' ▸ ht.pageRequest

theorem State.MemOk.refill (h : st.MemOk) {c x k} : (st.refill c x k).MemOk := by
  unfold State.refill
  extract_lets +onlyGivenNames l₁ local₁ vas₁ pid₁
  split
  · exact trivial
  · apply Ready.MemOk.andThen h.readyXlate
    intro t h₁
    apply Ready.MemOk.andThen h₁.readyLines
    intro t₂ h₂
    extract_lets +onlyGivenNames absent r st₁ st₂
    have h₃ : r.1.MemOk := h₂.stripRead
    have h₄ : st₁.MemOk := h₃.pageRequests
    have h₅ : st₂.MemOk := h₄.toldEngine
    exact h₅.setCtx.tickStamp.credit

theorem State.MemOk.execStripRefill (h : st.MemOk) {k slot} : Out.MemOk (execStripRefill k slot st) := by
  unfold Machine.execStripRefill
  split
  · split
    · exact .idle
    · split
      · exact Ready.MemOk.out h.refill
      · exact .idle
  · exact .idle

/-- What a copy or an engine delivers is written to local memory. -/
theorem State.MemOk.deliverAll (h : st.MemOk) {cid l bad} : (st.deliverAll cid l bad).MemOk := by
  unfold State.deliverAll
  refine State.MemOk.setGranules ?_ _ _ _
  exact h.modCore _ fun _ hk => Core.wf_writeAll hk

theorem State.MemOk.drain (h : st.MemOk) {c x k s} : (st.drain c x k s).MemOk := by
  unfold State.drain
  extract_lets +onlyGivenNames w₁ l₁ rest₁
  split
  · exact trivial
  · split
    · split
      · exact trivial
      · exact h.deliverAll.modCtx.credit
    · extract_lets +onlyGivenNames l₂
      refine Ready.MemOk.andThen h.readyLines fun _ h₁ => ?_
      exact ((h₁.foldl (fun _ _ h₂ => h₂.putBytes)).modCtx).credit

theorem State.MemOk.execStripPushWrite (h : st.MemOk) {k slot} : Out.MemOk (execStripPushWrite k slot st) := by
  unfold Machine.execStripPushWrite
  split
  · split
    · exact Ready.MemOk.out h.drain
    · exact .idle
  · exact .idle

theorem State.MemOk.setCopy (h : st.MemOk) {x} : (st.setCopy x).MemOk := h

theorem State.MemOk.endCopy (h : st.MemOk) {x} : (st.endCopy x).MemOk := h.setCopy

theorem State.MemOk.copyRead (h : st.MemOk) {x a} : (st.copyRead x a).1.MemOk := by
  unfold State.copyRead
  extract_lets +onlyGivenNames w₁
  split
  · exact h
  · exact h.readAt
  · split <;> exact h

theorem State.MemOk.copyReads (h : st.MemOk) {x l} : (State.copyReads x l st).1.MemOk := by
  induction l generalizing st with
  | nil => exact h
  | cons y l ih => exact ih h.copyRead

theorem State.MemOk.countDelivery (h : st.MemOk) {cid bar n} : (st.countDelivery cid bar n).MemOk := by
  unfold State.countDelivery
  split
  · exact h.barWrite _ _ _
  · exact h

theorem State.MemOk.creditCopy (h : st.MemOk) {x got} : (st.creditCopy x got).MemOk := by
  unfold State.creditCopy
  split
  · split
    · exact h.credit
    · exact h
  · exact h

theorem State.MemOk.advance (h : st.MemOk) {x n b} : (st.advance x n b).MemOk := by
  unfold State.advance
  extract_lets +onlyGivenNames got₁ y₁ st₁
  have h₁ : st₁.MemOk := h.creditCopy
  split
  · exact h₁.endCopy
  · exact h₁.setCopy

theorem State.MemOk.sendGranule (h : st.MemOk) {x p l last} : (st.sendGranule x p l last).1.MemOk := by
  unfold State.sendGranule
  extract_lets +onlyGivenNames st₁
  have h₁ : st₁.1.MemOk := h.nextTag
  extract_lets +onlyGivenNames bytes₁ bad₁ st₂
  have h₂ : st₂.MemOk := h₁.send
  extract_lets +onlyGivenNames y₁
  split <;> exact h₂

theorem State.MemOk.stopCopy (h : st.MemOk) {x why} : (st.stopCopy x why).MemOk := by
  unfold State.stopCopy
  extract_lets +onlyGivenNames x₁
  split
  · exact h.sendGranule.setCopy
  · exact h.endCopy

theorem State.MemOk.deliverRun (h : st.MemOk) {x l} : (st.deliverRun x l).MemOk := by
  unfold State.deliverRun
  extract_lets +onlyGivenNames n₁ b₁ pieces₁ bad₁ k₁
  split
  · exact h.sendGranule.advance
  · split
    · exact h.dropCopies.failLaunch
    · split
      · exact trivial
      · split
        · exact h.advance
        · split
          · exact h.advance
          · split
            · exact ((h.foldl (fun _ _ h₁ => h₁.putBytes)).foldl (fun _ _ h₂ => h₂.sPoison.ite h₂)).countDelivery.advance
            · split
              · exact h.stopCopy
              · split
                · exact h.stopCopy
                · exact h.deliverAll.countDelivery.advance

theorem State.MemOk.beginTile (h : st.MemOk) {x} : OptMemOk (st.beginTile x) := by
  unfold State.beginTile
  split
  · split
    · exact trivial
    · split
      · exact h.modTile
      · exact h.stopCopy
  · exact h.stopCopy

theorem State.MemOk.copyStep (h : st.MemOk) {x} : (st.copyStep x).MemOk := by
  have hb : OptMemOk (if x.src.space == 2 && x.next == 0 then st.beginTile x else none) := by
    split
    · exact h.beginTile
    · exact trivial
  unfold State.copyStep
  split
  · next e => exact hb.of_eq e
  · split
    · split
      · next e => exact h.engineWalk.of_eq e
      · exact trivial
    · exact h.pageRequest.toldEngine.setCopy
    · exact h.toldEngine.toldEngine.stopCopy
    · exact Ready.MemOk.andThen h.readyLines fun _ h₁ => h₁.copyReads.deliverRun

theorem State.MemOk.execCopyDelivery (h : st.MemOk) : Out.MemOk (execCopyDelivery st) := by
  unfold Machine.execCopyDelivery
  split
  · split
    · exact .idle
    · exact Ready.MemOk.out h.copyStep
  · exact .idle

theorem State.MemOk.wakeCopyWait (h : st.MemOk) {u} : (st.wakeCopyWait u).MemOk := by
  unfold State.wakeCopyWait
  split
  · next c _ =>
    have hr : OptFstMemOk (if st.waitedOut c then none else st.takeRecord c) := by
      split
      · exact trivial
      · exact h.takeRecord
    split
    · split
      · next e => exact (hr.of_pair e).setCtx.tickStamp.tickStamp
      · exact h
    · exact h
  · exact h

theorem State.MemOk.retireCopy (h : st.MemOk) {x} : (st.retireCopy x).MemOk := by
  unfold State.retireCopy
  refine State.MemOk.wakeCopyWait (State.MemOk.dropPins ?_)
  exact h

theorem Core.wf_writeRecs {k : Core} (h : k.lm.wf = true) {a l r} : ({ k.write a l with recs := r } : Core).lm.wf = true :=
  Core.wf_write _ _ h

/-- The record is written into the ring of the core (R232). -/
theorem State.MemOk.execCompletionRecord (h : st.MemOk) : Out.MemOk (execCompletionRecord st) := by
  unfold Machine.execCompletionRecord
  split
  · next x _ =>
    split
    · exact .idle
    · split
      · exact .idle
      · split
        · exact .next h.retireCopy
        · extract_lets +onlyGivenNames free
          split
          · exact .idle
          · extract_lets +onlyGivenNames st₁
            have h₁ : st₁.MemOk := by
              refine h.modCore _ fun k hk => ?_
              exact Core.wf_writeRecs hk
            clear_value st₁
            have h₂ : State.MemOk { st₁ with frees := st₁.frees + 1 } := h₁
            exact .next h₂.retireCopy
  · exact .idle

theorem State.MemOk.failWaiter (h : st.MemOk) {absent w} : (st.failWaiter absent w).MemOk := by
  unfold State.failWaiter
  split
  · exact h
  · extract_lets +onlyGivenNames g₁
    split
    · exact h.contextRequest.parkCtx
    · split
      · exact h.setCtx
      · exact h.programFault

theorem State.MemOk.failEngines (h : st.MemOk) {l absent} : (st.failEngines l absent).MemOk := h

theorem State.MemOk.execTranslationWalk (h : st.MemOk) : Out.MemOk (execTranslationWalk st) := by
  unfold Machine.execTranslationWalk
  split
  · split
    · extract_lets +onlyGivenNames st₁
      have h₁ : st₁.1.MemOk := h.walkNow
      extract_lets +onlyGivenNames -merge _ st₂
      have h₂ : st₂.MemOk := h₁
      split
      · split
        · exact .next h₂
        · exact .next (h₂.failEngines.foldl (fun _ _ h₃ => h₃.failWaiter))
      · exact .next (h₂.failEngines.foldl (fun _ _ h₄ => h₄.failWaiter))
      · exact .next (h₂.failEngines.foldl (fun _ _ h₅ => h₅.failWaiter))
      · split
        · exact .idle
        · refine .next (State.MemOk.requestLine ?_)
          exact h₂
    · exact .idle
  · exact .idle

theorem State.MemOk.failNodeWaits (h : st.MemOk) {cid net} : (st.failNodeWaits cid net).MemOk := by
  unfold State.failNodeWaits
  refine h.foldl fun _ _ h₁ => ?_
  split
  · exact h₁.programFault
  · exact h₁

theorem State.MemOk.execNodeRefill (h : st.MemOk) : Out.MemOk (execNodeRefill st) := by
  unfold Machine.execNodeRefill
  extract_lets +onlyGivenNames cid₁ k₁
  split
  · exact .idle
  · split
    · exact .idle
    · extract_lets +onlyGivenNames held₁ st₁
      have h₁ : st₁.MemOk := by
        unfold st₁
        split
        · split
          · exact h
          · exact h.modNet
        · exact h
      split
      · extract_lets +onlyGivenNames st₂
        have h₂ : st₂.MemOk := by
          unfold st₂
          refine State.MemOk.editCore ?_
          exact h₁
        split
        · exact .next h₂.failNodeWaits
        · exact .next (h₂.wakeWhere _ _)
      · exact .next h₁.editCore

/-! ## Contexts at their boundaries and the start unit (R27 to R36, R253, R254, R290, R295 to R297) -/

theorem State.MemOk.execWatchdog (h : st.MemOk) : Out.MemOk (execWatchdog st) := by
  unfold Machine.execWatchdog
  split
  · split
    · exact .next h.takeDue
    · exact .idle
  · exact .idle

theorem State.MemOk.execWaittime (h : st.MemOk) : Out.MemOk (execWaittime st) := by
  unfold Machine.execWaittime
  split
  · split
    · exact .next h.programFault
    · exact .idle
  · exact .idle

theorem State.MemOk.execKill (h : st.MemOk) : Out.MemOk (execKill st) := by
  unfold Machine.execKill
  split
  · exact .idle
  · split
    · exact .next h.killCtx
    · exact .next h

theorem State.MemOk.execCurrentContextSelect (h : st.MemOk) : Out.MemOk (execCurrentContextSelect st) := by
  unfold Machine.execCurrentContextSelect
  split
  · next st₁ e =>
      have h₁ : st₁.MemOk := h.select.of_eq e
      exact .next h₁
  · exact .idle

theorem State.MemOk.tryMigrate (h : st.MemOk) {c} : (st.tryMigrate c).MemOk := by
  unfold State.tryMigrate
  split
  · exact h.uncurrent.setCtx
  · exact h.setCtx

theorem State.MemOk.execMigration (h : st.MemOk) : Out.MemOk (execMigration st) := by
  unfold Machine.execMigration
  split
  · split
    · exact .next h.tryMigrate.tickStamp
    · exact .idle
  · exact .idle

theorem State.MemOk.spillFor (h : st.MemOk) {cid ok f} : OptMemOk (State.spillFor cid ok f st) := by
  induction f generalizing st with
  | zero =>
    unfold State.spillFor
    split
    · exact h
    · exact trivial
  | succ f ih =>
    unfold State.spillFor
    split
    · exact h
    · split
      · exact ih h.uncurrent.setCtx
      · exact trivial

theorem State.MemOk.roomFor (h : st.MemOk) {cid n budgeted} : OptMemOk (st.roomFor cid n budgeted) := h.spillFor

theorem State.MemOk.fillRoom (h : st.MemOk) {cid c} : OptMemOk (st.fillRoom cid c) := h.spillFor

theorem State.MemOk.holdUnit (h : st.MemOk) {cid n} : (st.holdUnit cid n).MemOk := h.editCore

theorem State.MemOk.execFill (h : st.MemOk) : Out.MemOk (execFill st) := by
  unfold Machine.execFill
  extract_lets +onlyGivenNames cid₁
  split
  · split
    · split
      · next st₁ e =>
          have h₁ : st₁.MemOk := h.fillRoom.of_eq e
          exact .next h₁.setCtx.holdUnit.tickStamp
      · exact .idle
    · exact .idle
  · exact .idle

theorem State.MemOk.startTask (h : st.MemOk) {cid x} : (st.startTask cid x).MemOk := by
  unfold State.startTask
  split
  · exact h
  · extract_lets +onlyGivenNames uid₁ base₁ xhand₁ c₁ st₁
    have h₁ : st₁.MemOk := h.editCore
    extract_lets +onlyGivenNames st₂
    have h₂ : st₂.MemOk := by
      unfold st₂
      split
      · exact h₁.modFiring
      · exact h₁
    exact h₂.setCtx.modLaunch.of_eq rfl rfl

theorem State.MemOk.claimPair (h : st.MemOk) {a apa b bpa} : (st.claimPair a apa b bpa).MemOk := h.nodeMod.nodeMod.nodeWrite.nodeWrite

theorem State.MemOk.pinPayload (h : st.MemOk) {f tenant pa} : (st.pinPayload f tenant pa).MemOk := by
  unfold State.pinPayload
  split
  · exact h.pinVersion
  · exact h

theorem State.MemOk.firePair (h : st.MemOk) {cid p} : (st.firePair cid p).MemOk := by
  unfold State.firePair
  extract_lets +onlyGivenNames st₁
  have h₁ : st₁.MemOk := h.editCore
  split
  · exact h₁
  · split
    · exact h₁.failLaunch
    · split
      · exact h₁.failLaunch
      · extract_lets +onlyGivenNames ta₁ swap₁ left₁ right₁ st₂
        have h₂ : st₂.MemOk := h₁.nodeMod.nodeMod
        extract_lets +onlyGivenNames st₃
        have h₃ : st₃.MemOk := h₂.ownNode.ownNode
        extract_lets +onlyGivenNames word₁ vals₁ a₁ lease₁ x₁
        split
        · extract_lets +onlyGivenNames n₁ fr₁ st₄
          have h₄ : st₄.MemOk := h₃
          exact h₄.claimPair.pinPayload.pinPayload.startTask
        · exact h₃.startTask

theorem State.MemOk.startFrom (h : st.MemOk) {cid s} : (st.startFrom cid s).MemOk := by
  unfold State.startFrom
  extract_lets +onlyGivenNames k₁
  split
  · split
    · exact h.firePair
    · exact h
  · split
    · split
      · extract_lets +onlyGivenNames st₁
        have h₁ : st₁.MemOk := h.editCore
        extract_lets +onlyGivenNames f₁
        refine State.MemOk.startTask ?_
        exact h₁
      · exact h
    · split
      · exact h.editCore.startTask
      · exact h

/-- A start may first clear the local memory that another tenant used (R290, R319). -/
theorem State.MemOk.startOrClear (h : st.MemOk) {cid s turn n} : (st.startOrClear cid s turn n).MemOk := by
  unfold State.startOrClear
  extract_lets +onlyGivenNames st₁
  have h₁ : st₁.MemOk := by
    unfold st₁
    split
    · exact h.editCore
    · exact h
  split
  · extract_lets +onlyGivenNames k₁
    refine State.MemOk.holdUnit (State.MemOk.wakeGranules (h₁.modCore _ (fun _ hk => ?_)))
    exact Core.wf_clear _ _ hk
  · extract_lets +onlyGivenNames st₂
    have h₂ : st₂.MemOk := h₁.editCore.holdUnit
    split
    · split
      · next st₃ e =>
          have h₃ : st₃.MemOk := h₂.roomFor.of_eq e
          exact h₃.startFrom
      · exact h₂
    · exact h₂.startFrom

theorem State.MemOk.execStartTask (h : st.MemOk) : Out.MemOk (execStartTask st) := by
  unfold Machine.execStartTask
  extract_lets +onlyGivenNames cid₁
  split
  · split
    · exact .next h.startOrClear
    · exact .idle
  · exact .idle

/-! ## Full/empty instructions and delivery barriers (R214 to R223) -/

theorem Eff.MemOk.withGranule {go : ℕ → Eff} (hgo : ∀ x₀, (go x₀).MemOk) {c a} : (withGranule c a go).MemOk := Eff.MemOk.checked (hgo _)

theorem State.MemOk.markGranule (h : st.MemOk) {i e a full} : Out.MemOk (markGranule i e a full st) := by
  unfold Machine.markGranule
  refine h.issue fun _ _ h₁ => ?_
  refine Eff.MemOk.withGranule fun _ => ?_
  refine h₁.localAccess ?_
  split
  · exact h₁
  · exact h₁.setGranules _ _ _

theorem State.MemOk.execFeset (h : st.MemOk) {e a} : Out.MemOk (execFeset e a st) := h.markGranule

theorem State.MemOk.execFeclr (h : st.MemOk) {e a} : Out.MemOk (execFeclr e a st) := h.markGranule

theorem State.MemOk.execFewait (h : st.MemOk) {e a} : Out.MemOk (execFewait e a st) := by
  unfold Machine.execFewait
  refine h.issueFree fun _ _ h₁ => ?_
  refine Eff.MemOk.withGranule fun _ => ?_
  refine h₁.afterAcquires ?_
  exact h₁

theorem Eff.MemOk.withBarrier {go : ℕ → Eff} (hgo : ∀ x₀, (go x₀).MemOk) {c a far init} :
    (withBarrier st c a far init go).MemOk :=
  Eff.MemOk.checked (hgo _)

/-- `binit` writes the barrier's word (R218). -/
theorem State.MemOk.initBarrier (h : st.MemOk) {cid a launch target} : (st.initBarrier cid a launch target).MemOk := by
  unfold State.initBarrier
  refine State.MemOk.barWrite (h.modCore _ fun k hk => ?_) _ _ _
  exact Core.wf_write (k := k) _ _ hk

/-- A retired barrier's word is written with 0 (R218). -/
theorem Core.wf_retireBarrier {k : Core} (h : k.lm.wf = true) {a} : (k.retireBarrier a).lm.wf = true := Core.wf_write _ _ h

theorem State.MemOk.execBinit (h : st.MemOk) {e a b} : Out.MemOk (execBinit e a b st) := by
  refine h.issue fun _ _ h₁ => ?_
  refine Eff.MemOk.withBarrier fun _ => ?_
  extract_lets +onlyGivenNames v retire tagged
  refine Eff.MemOk.checked ?_
  split
  · exact trivial
  · split
    · exact h₁
    · refine Eff.MemOk.atBank ?_
      exact (h₁.modCore _ fun _ hk => Core.wf_retireBarrier hk).ite h₁.initBarrier

theorem State.MemOk.execBenrol (h : st.MemOk) {e a n} : Out.MemOk (execBenrol e a n st) := by
  unfold Machine.execBenrol
  refine h.issue fun _ _ h₁ => ?_
  refine Eff.MemOk.withBarrier fun _ => ?_
  refine Eff.MemOk.atBank ?_
  exact h₁

theorem State.MemOk.execBarrive (h : st.MemOk) {e a b s} : Out.MemOk (execBarrive e a b s st) := by
  unfold Machine.execBarrive
  refine h.issue fun _ _ h₁ => ?_
  extract_lets +onlyGivenNames far₁
  refine Eff.MemOk.withBarrier fun _ => ?_
  refine h₁.withFence fun _ _ h₂ => ?_
  extract_lets +onlyGivenNames t₁
  split
  · refine Eff.MemOk.atBank ?_
    exact h₂.barWrite _ _ _
  · exact h₂.sendRemote

theorem State.MemOk.execBexpect (h : st.MemOk) {e a b} : Out.MemOk (execBexpect e a b st) := by
  unfold Machine.execBexpect
  refine h.issue fun _ _ h₁ => ?_
  refine Eff.MemOk.withBarrier fun _ => ?_
  refine h₁.localAccess ?_
  extract_lets +onlyGivenNames n₁ w₁
  split
  · exact h₁
  · split <;> exact h₁.barWrite _ _ _

theorem State.MemOk.execBwait (h : st.MemOk) {e d a s} : Out.MemOk (execBwait e d a s st) := by
  unfold Machine.execBwait
  refine h.issueFree fun _ _ h₁ => ?_
  refine Eff.MemOk.withBarrier fun _ => ?_
  split
  · exact h₁
  · extract_lets +onlyGivenNames w₁ phase₁
    split
    · exact h₁.dropPeers.tickStamp
    · exact h₁

theorem State.MemOk.execBtest (h : st.MemOk) {e d a s} : Out.MemOk (execBtest e d a s st) := by
  unfold Machine.execBtest
  refine h.issue fun _ _ h₁ => ?_
  refine Eff.MemOk.withBarrier fun _ => ?_
  split
  · exact h₁
  · refine Eff.MemOk.atBank ?_
    exact h₁.dropPeers.tickStamp

end Sys2Proof.Machine
end

section
/-! # Canonical memory: launches, commands, the weir and failures -/

namespace Sys2Proof.Machine

-- One proof at a time: each thread of an asynchronous one reserves a whole stack, and hundreds of them exceed the memory given.
set_option Elab.async false

variable {st : State}

/-! ## Work of a launch on its way (R257, R263, R311 to R313, R317, R324 to R328) -/

theorem State.MemOk.admitPushes (h : st.MemOk) {cid} : (st.admitPushes cid).MemOk := by
  unfold State.admitPushes
  extract_lets +onlyGivenNames mine₁
  refine State.MemOk.foldl ?_ fun _ _ h₁ => h₁.enterPair
  exact h

theorem State.MemOk.execRingToBag (h : st.MemOk) : Out.MemOk (execRingToBag st) := by
  unfold Machine.execRingToBag
  extract_lets +onlyGivenNames cid₁ k₁
  split
  · exact .next h.editCore.admitPushes
  · split
    · exact .next h.admitPushes
    · exact .idle

theorem State.MemOk.sendBarge (h : st.MemOk) {d} : (st.sendBarge d).MemOk := by
  unfold State.sendBarge
  split
  · exact h
  · extract_lets +onlyGivenNames bag₁ n₁ pairs₁ st₁
    have h₁ : st₁.MemOk := h.editCore
    extract_lets +onlyGivenNames st₂
    have h₂ : st₂.MemOk := h₁.ite (h₁.foldl (fun _ _ h₃ => h₃.countSent))
    extract_lets +onlyGivenNames b₁
    split
    · exact h₂
    · refine State.MemOk.tickStamp ?_
      exact h₂

theorem State.MemOk.execLayerReport (h : st.MemOk) : Out.MemOk (execLayerReport st) := by
  unfold Machine.execLayerReport
  extract_lets +onlyGivenNames l y
  split
  · exact .idle
  · extract_lets +onlyGivenNames st₁ st₂ donors
    have h₁ : st₁.MemOk := by
      refine h.mapCores rfl rfl fun p hp => ?_
      dsimp only
      split <;> exact hp
    exact .next (State.MemOk.foldl (h₁.modLayer : st₂.MemOk) fun _ _ h₃ => h₃.sendBarge)

theorem State.MemOk.execBargeArrival (h : st.MemOk) : Out.MemOk (execBargeArrival st) := by
  unfold Machine.execBargeArrival
  split
  · extract_lets +onlyGivenNames st₁
    have h₁ : st₁.MemOk := h
    exact .next (h₁.foldl (fun _ _ h₂ => (h₂.ite h₂.countRecv).enterPair))
  · exact .idle

theorem State.MemOk.toPort (h : st.MemOk) {cid t} : (st.toPort cid t).MemOk := h.editCore.countSent.countRecv

theorem State.MemOk.execTaskPlacement (h : st.MemOk) : Out.MemOk (execTaskPlacement st) := by
  unfold Machine.execTaskPlacement
  split
  · split
    · exact .next h
    · split
      · refine .next (State.MemOk.toPort ?_)
        exact h
      · exact .idle
  · exact .idle

theorem State.MemOk.answerWork (h : st.MemOk) {r ans} : (st.answerWork r ans).MemOk := by
  unfold State.answerWork
  extract_lets +onlyGivenNames st₁
  have h₁ : st₁.MemOk := h
  extract_lets +onlyGivenNames k₁
  split
  · exact h₁
  · exact h₁.deliver _ _ _

theorem State.MemOk.workStep (h : st.MemOk) {op name f} : Out.MemOk (st.workStep op name f) := by
  unfold State.workStep
  split
  · split
    · exact .idle
    · split
      · exact .next h.answerWork
      · exact .next h.modLaunch.answerWork
  · exact .idle

theorem State.MemOk.execWorkqTake (h : st.MemOk) : Out.MemOk (execWorkqTake st) := h.workStep

theorem State.MemOk.execWorkqSet (h : st.MemOk) : Out.MemOk (execWorkqSet st) := h.workStep

theorem State.MemOk.execWorkqRead (h : st.MemOk) : Out.MemOk (execWorkqRead st) := h.workStep

theorem State.MemOk.enterMsg (h : st.MemOk) {m} : (st.enterMsg m).MemOk := by
  unfold State.enterMsg
  extract_lets +onlyGivenNames cid₁ k₁ n₁ m₁
  split
  · exact h.failLaunch
  · exact h.editCore

theorem State.MemOk.dropMsg (h : st.MemOk) {m} : (st.dropMsg m).MemOk := by
  unfold State.dropMsg
  split
  · exact h
  · exact h.editCore

theorem State.MemOk.execMessageArrival (h : st.MemOk) : Out.MemOk (execMessageArrival st) := by
  unfold Machine.execMessageArrival
  split
  · split
    · exact .idle
    · extract_lets +onlyGivenNames st₁
      have h₁ : st₁.MemOk := h
      extract_lets +onlyGivenNames st₂
      have h₂ : st₂.MemOk := h₁.ite h₁.countRecv
      split
      · exact .next h₂.enterMsg
      · exact .next h₂.dropMsg
  · exact .idle

theorem State.MemOk.signalStream (h : st.MemOk) {q} : (st.signalStream q).MemOk := by
  unfold State.signalStream
  split
  · exact h.signal
  · exact h.signal.modStream

theorem State.MemOk.countRecord (h : st.MemOk) {q} : (st.countRecord q).MemOk := by
  unfold State.countRecord
  extract_lets +onlyGivenNames -underBinder st₁
  have h₁ : st₁.MemOk := h.modStream
  split
  · exact h₁.signalStream
  · exact h₁

theorem State.MemOk.writeRecord (h : st.MemOk) {n l} : (st.writeRecord n l).MemOk := by
  unfold State.writeRecord
  extract_lets +onlyGivenNames s₁ rec₁ st₁
  have h₁ : st₁.MemOk := h.sWriteBytes.journal
  extract_lets +onlyGivenNames st₂
  have h₂ : st₂.MemOk := h₁.sWriteBytes
  refine State.MemOk.countRecord (State.MemOk.modStream ?_)
  exact h₂

theorem State.MemOk.writeRecords (h : st.MemOk) {q f} : (State.writeRecords q f st).MemOk := by
  induction f generalizing st with
  | zero => exact h
  | succ f ih =>
    unfold State.writeRecords
    split
    · split
      · exact ih h.writeRecord
      · exact h
    · exact h

/-- Every barrier of a launch is retired: a fold over its tags within each core. -/
theorem State.MemOk.retireTags (h : st.MemOk) {l} : (st.retireTags l).MemOk := by
  refine h.mapCores rfl rfl fun p hp => ?_
  dsimp only
  generalize p.2.tags.filter _ = ts
  generalize p.2 = k at hp
  induction ts generalizing k with
  | nil => exact hp
  | cons t ts ih => exact ih _ (Core.wf_retireBarrier hp)

theorem State.MemOk.unclaim (h : st.MemOk) {f} : (st.unclaim f).MemOk := by
  unfold State.unclaim
  split
  · exact h.nodeMod.nodeMod.nodeMod.nodeMod
  · exact h

theorem State.MemOk.endFirings (h : st.MemOk) {l} : (st.endFirings l).MemOk := (h.foldl (fun _ _ h₁ => (h₁.ite h₁.unclaim).dropPins))

theorem State.MemOk.cleanUp (h : st.MemOk) {l} : (st.cleanUp l).MemOk := h.retireTags.endFirings

theorem State.MemOk.endLaunch (h : st.MemOk) {l x} : (st.endLaunch l x).MemOk := by
  unfold State.endLaunch
  extract_lets +onlyGivenNames st₁
  have h₁ : st₁.MemOk := h.cleanUp
  split
  · refine State.MemOk.send ?_
    exact h₁
  · extract_lets +onlyGivenNames st₂
    have h₂ : st₂.MemOk := h₁
    exact h₂.writeRecords

theorem State.MemOk.flushLaunch (h : st.MemOk) {x} : (st.flushLaunch x).MemOk := (h.foldl (fun _ _ h₁ => h₁.flushLayer)).writeBackPeers

theorem State.MemOk.closeLaunch (h : st.MemOk) {l x} : Out.MemOk (st.closeLaunch l x) := by
  unfold State.closeLaunch
  extract_lets +onlyGivenNames st₁
  have h₁ : st₁.MemOk := h.flushLaunch
  split
  · exact .next h₁.endLaunch
  · split
    · exact .idle
    · exact .next h₁

theorem State.MemOk.execQuiescenceSweep (h : st.MemOk) : Out.MemOk (execQuiescenceSweep st) := by
  unfold Machine.execQuiescenceSweep
  split
  · split
    · split
      · exact .next h.modLaunch
      · exact .idle
    · split
      · exact h.closeLaunch
      · extract_lets +onlyGivenNames c₁
        split
        · split
          · exact .next h.modLaunch
          · exact .idle
        · split
          · exact h.closeLaunch
          · exact .next h.modLaunch
  · exact .idle

theorem State.MemOk.execLaunchPlacement (h : st.MemOk) : Out.MemOk (execLaunchPlacement st) := by
  unfold Machine.execLaunchPlacement
  split
  · split
    · exact .idle
    · split
      · split
        · exact .next h.writeBackPeers
        · exact .idle
      · extract_lets +onlyGivenNames st₁
        have h₁ : st₁.MemOk := h.dropPeers.ite h
        extract_lets +onlyGivenNames vals₁ t₁
        refine .next (State.MemOk.tickStamp (State.MemOk.modLaunch ?_))
        exact h₁
  · exact .idle

/-! ## Command streams (R309 to R316, R321, R329) -/

theorem State.MemOk.processorRead (h : st.MemOk) {pa n} : (st.processorRead pa n).1.MemOk := by
  unfold State.processorRead
  split
  · exact h
  · exact ((h.foldl (fun _ _ h₁ => h₁.writeBack)).ite h).sReadBytes

theorem State.MemOk.acceptable (h : st.MemOk) {q} : (st.acceptable q).1.MemOk := h.processorRead

theorem State.MemOk.acceptCommand (h : st.MemOk) {q c detail} : (st.acceptCommand q c detail).MemOk := by
  unfold State.acceptCommand
  extract_lets +onlyGivenNames n₁ s₁ x₁ st₁
  have h₁ : st₁.MemOk := h.journal.modStream
  refine State.MemOk.writeRecords ?_
  exact h₁

theorem State.MemOk.command (h : st.MemOk) {go : State → Command → State × ℕ} (hgo : ∀ t x₁, t.MemOk → (go t x₁).1.MemOk) {kinds name} :
    Out.MemOk (st.command kinds name go) := by
  unfold State.command
  extract_lets +onlyGivenNames q₁ s₁
  split
  · exact .idle
  · split
    · next st₁ _ e =>
        have h₁ : st₁.MemOk := h.acceptable.of_fst e
        split
        · exact .idle
        · extract_lets +onlyGivenNames d₁
          split
          · exact .next h₁.acceptCommand
          · exact .next (hgo _ _ h₁).acceptCommand
    · next st₂ e =>
        have h₂ : st₂.MemOk := h.acceptable.of_fst e
        exact .idle

theorem State.MemOk.execLaunch (h : st.MemOk) : Out.MemOk (execLaunch st) := by
  unfold Machine.execLaunch
  refine h.command fun _ _ h₁ => ?_
  exact h₁

theorem State.MemOk.tenantPa (h : st.MemOk) {tenant va} : (st.tenantPa tenant va).1.MemOk := by
  unfold State.tenantPa
  split
  · exact h
  · split
    · exact h
    · split
      · next st₁ _ e =>
          have h₁ : st₁.MemOk := h.walkNow.of_fst e
          exact h₁
      · next st₂ _ _ e =>
          have h₂ : st₂.MemOk := h.walkNow.of_fst e
          exact h₂

theorem State.MemOk.tenantRead (h : st.MemOk) {tenant k va n} : (State.tenantRead tenant k st va n).1.MemOk := by
  induction k generalizing st va n with
  | zero => exact h
  | succ k ih =>
    unfold State.tenantRead
    split
    · exact h
    · extract_lets +onlyGivenNames m
      split
      · next pa e =>
        have h₁ : (State.processorRead _ pa m).1.MemOk := (h.tenantPa.of_fst e).processorRead
        extract_lets +onlyGivenNames r
        split
        · next e₁ => exact (ih h₁).of_fst e₁
        · next e₁ => exact (ih h₁).of_fst e₁
      · next e => exact h.tenantPa.of_fst e

theorem State.MemOk.installNet (h : st.MemOk) {id n} : OptMemOk (st.installNet id n) := by
  unfold State.installNet
  extract_lets +onlyGivenNames st₁
  have h₁ : st₁.MemOk := by
    refine h.mapCores rfl rfl fun p hp => ?_
    dsimp only
    split
    · split <;> exact hp
    · exact hp
  clear_value st₁
  split
  · exact trivial
  · exact h₁

theorem State.MemOk.execNetSet (h : st.MemOk) : Out.MemOk (execNetSet st) := by
  unfold Machine.execNetSet
  refine h.command fun _ _ h₁ => ?_
  extract_lets +onlyGivenNames word₁
  split
  · exact h₁
  · split
    · next st₁ _ e =>
        have h₂ : st₁.MemOk := h₁.tenantRead.of_fst e
        split
        · exact h₂
        · split
          · next st₂ e =>
              have h₃ : st₂.MemOk := h₂.installNet.of_eq e
              exact h₃
          · exact h₂
    · next st₃ e =>
        have h₄ : st₃.MemOk := h₁.tenantRead.of_fst e
        exact h₄

theorem State.MemOk.execNetDrop (h : st.MemOk) : Out.MemOk (execNetDrop st) := by
  unfold Machine.execNetDrop
  refine h.command fun _ _ h₁ => ?_
  split <;> exact h₁

theorem State.MemOk.rebuildEntry (h : st.MemOk) {x} : (st.rebuildEntry x).MemOk := by
  unfold State.rebuildEntry
  split
  · split <;> exact h
  · exact h

theorem State.MemOk.rebuild (h : st.MemOk) : (st.rebuild).MemOk := (h.foldl (fun _ _ h₁ => h₁.rebuildEntry)).foldl fun _ _ h₂ => h₂.writeRecords

theorem State.MemOk.execLeaderTakeover (h : st.MemOk) : Out.MemOk (execLeaderTakeover st) := by
  unfold Machine.execLeaderTakeover
  extract_lets +onlyGivenNames f₁
  split
  · exact .idle
  · extract_lets +onlyGivenNames -merge _ fw₁
    refine .next (State.MemOk.rebuild ?_)
    exact h

theorem State.MemOk.execStreamPoll (h : st.MemOk) : Out.MemOk (execStreamPoll st) := by
  unfold Machine.execStreamPoll
  extract_lets +onlyGivenNames q₁ s₁
  split
  · exact .idle
  · split
    · split
      · next st₁ _ e =>
          have h₁ : st₁.MemOk := h.acceptable.of_fst e
          exact .idle
      · next st₂ e =>
          have h₂ : st₂.MemOk := h.acceptable.of_fst e
          exact .next h₂
    · split
      · exact .next h
      · exact .idle

theorem State.MemOk.execIcoalHoldoff (h : st.MemOk) : Out.MemOk (execIcoalHoldoff st) := by
  unfold Machine.execIcoalHoldoff
  split
  · exact .next h.signalStream
  · exact .idle

theorem State.MemOk.execMsixUnmask (h : st.MemOk) : Out.MemOk (execMsixUnmask st) := by
  unfold Machine.execMsixUnmask
  extract_lets +onlyGivenNames v₁
  split
  · exact .idle
  · exact .next (h.governed (fun _ h₁ => h₁.writeReg))

/-! ## Hedging and the weir (R329 to R338) -/

theorem State.MemOk.backUp (h : st.MemOk) {t c} : (st.backUp t c).MemOk := by
  unfold State.backUp
  split
  · split
    · split
      · exact h.toPort.modFiring.tickStamp
      · exact h
    · exact h
  · exact h

theorem State.MemOk.execHedgeSample (h : st.MemOk) : Out.MemOk (execHedgeSample st) := by
  unfold Machine.execHedgeSample
  extract_lets +onlyGivenNames n₁
  split
  · exact .idle
  · refine .next (State.MemOk.foldl ?_ (fun _ _ h₁ => h₁.backUp))
    exact h

theorem State.MemOk.answered (h : st.MemOk) {c} : (st.answered c).MemOk := h.copyGone.modFiring.returnLease _ _

theorem State.MemOk.cancelCommit (h : st.MemOk) {c how} : (st.cancelCommit c how).MemOk := h.answered.settleFiring

theorem State.MemOk.failCommit (h : st.MemOk) {c code detail xval} : (st.failCommit c code detail xval).MemOk := h.answered.failLaunch

theorem State.MemOk.nextPull (h : st.MemOk) {tile} : (st.nextPull tile).MemOk := h.modTile.takeTransit

theorem State.MemOk.execWeirCommit (h : st.MemOk) : Out.MemOk (execWeirCommit st) := by
  unfold Machine.execWeirCommit
  split
  · exact .idle
  · extract_lets +onlyGivenNames st₁
    have h₁ : st₁.MemOk := h
    split
    · exact .next h₁.cancelCommit
    · split
      · exact .next h₁.cancelCommit
      · split
        · exact .next h₁.failCommit
        · split
          · exact .next h₁.failCommit
          · split
            · exact .next h₁.cancelCommit
            · split
              · exact .next h₁.modTile
              · exact .next h₁.modTile.takeTransit

theorem State.MemOk.weirNode (h : st.MemOk) {cid launch net} : OptFstMemOk (st.weirNode cid launch net) := by
  unfold State.weirNode
  split
  · refine State.MemOk.handOut ?_
    exact h.modCore _ fun _ hk => Core.wf_afterTake hk
  · cases st.nets.find net with
    | none => exact trivial
    | some n =>
      simp only [Option.bind_some]
      split
      · refine State.MemOk.handOut ?_
        exact h
      · exact trivial

theorem State.MemOk.joinAll (h : st.MemOk) {launch left right node l} : (State.joinAll launch left right node l st).MemOk := by
  induction l generalizing st with
  | nil => exact h
  | cons x l ih =>
    unfold State.joinAll
    extract_lets +onlyGivenNames p q
    split
    · exact ih h.join
    · exact ih h

theorem State.MemOk.freePair (h : st.MemOk) {launch cid left right} : (st.freePair launch cid left right).MemOk := by
  unfold State.freePair
  extract_lets +onlyGivenNames f₁
  have h₁ : ∀ s₀ x₁, s₀.MemOk → (f₁ s₀ x₁).MemOk := fun _ _ h₂ => h₂.nodeMod.freeNode
  exact h₁ _ _ (h₁ _ _ h)

/-- The result node of a commit, where one is placed. -/
theorem State.MemOk.placeNode (h : st.MemOk) {c t p} (e : st.placeNode c t = .inl p) : p.1.MemOk := by
  unfold State.placeNode at e
  split at e
  · cases e
    exact h
  · split at e
    · cases e
    · next e₁ =>
      have h₁ := h.weirNode.of_pair e₁
      split at e
      · cases e
        exact h₁.writeNode
      · cases e

/-- A rewrite places the result node, joins and frees a pair. -/
theorem State.MemOk.rewrite (h : st.MemOk) {c t f} : Applied.MemOk (State.rewrite st c t f) := by
  unfold State.rewrite
  split
  · exact h
  · split
    · exact trivial
    · next e =>
      have h₁ := h.placeNode e
      split
      · exact h₁.joinAll.freePair
      · exact h₁

theorem State.MemOk.acceptFiring (h : st.MemOk) {f} : (st.acceptFiring f).MemOk := by
  unfold State.acceptFiring
  split
  · exact h
  · extract_lets +onlyGivenNames live st₁
    have h₁ : st₁.MemOk := h.mapCores rfl rfl fun _ hp => hp
    exact h₁.dropPins.modFiring

theorem State.MemOk.acceptCommitted (h : st.MemOk) {c t data} : (st.acceptCommitted c t data).MemOk :=
  h.modTile.journal.modCluster.modNet.answered.acceptFiring.foldl fun _ _ h₁ => h₁.cancelCommit

theorem State.MemOk.execPullComplete (h : st.MemOk) : Out.MemOk (execPullComplete st) := by
  unfold Machine.execPullComplete
  split
  · exact .idle
  · split
    · exact .idle
    · split
      · exact .idle
      · split
        · exact .next h.nextPull.cancelCommit
        · extract_lets +onlyGivenNames full₁ st₁
          have h₁ : st₁.MemOk := h
          extract_lets +onlyGivenNames f₁
          have h₂ : ∀ s₀ x₁ x₂, s₀.MemOk → Out.MemOk (f₁ s₀ x₁ x₂) := by
            refine fun _ _ _ h₃ => ?_
            exact .next h₃.nextPull.failCommit
          split
          · exact h₂ _ _ _ h₁
          · split
            · exact .next h₁.nextPull.cancelCommit
            · split
              · exact h₂ _ _ _ h₁
              · next st₂ e =>
                  have h₄ : st₂.MemOk := h₁.rewrite.of_eq e
                  exact .next h₄.acceptCommitted

theorem State.MemOk.execPullFailed (h : st.MemOk) : Out.MemOk (execPullFailed st) := by
  unfold Machine.execPullFailed
  split
  · exact .idle
  · split
    · exact .idle
    · split
      · exact .next h.nextPull.cancelCommit
      · exact .idle

/-! ## Failures of units, scans and soft errors (R337 to R340, R369 to R378) -/

theorem State.MemOk.failWork (h : st.MemOk) {l unit} : (st.failWork l unit).MemOk := h.failLaunch

theorem State.MemOk.loseContexts (h : st.MemOk) {p unit apart} : (st.loseContexts p unit apart).MemOk := by
  unfold State.loseContexts
  refine h.foldl fun _ _ h₁ => ?_
  split
  · exact h₁.loseCtx
  · exact h₁

theorem State.MemOk.moveTask (h : st.MemOk) {cid t} : (st.moveTask cid t).MemOk := by
  unfold State.moveTask
  extract_lets +onlyGivenNames c₁
  split
  · exact h.failWork
  · exact h.editCore

/-- What the failed core held is lost, moved to another core, or entered again (R339). -/
theorem State.MemOk.failCore (h : st.MemOk) {cid unit apart} : (st.failCore cid unit apart).MemOk := by
  unfold State.failCore
  extract_lets +onlyGivenNames -merge k failed lost mine dropped copied reduced emptied entered moved
  have hdropped : dropped.MemOk := h.editCore.loseContexts.dropCopies
  have hreduced : reduced.MemOk := (hdropped.foldl fun _ _ h₁ => h₁.ite h₁.failWork).foldl fun _ _ h₁ => h₁.failWork
  have hentered : entered.MemOk := hreduced.editCore.foldl fun _ _ h₁ => h₁.enterPair
  have hmoved : moved.MemOk := hentered.foldl fun _ _ h₁ => h₁.moveTask
  exact hmoved.foldl fun _ _ h₁ => h₁.enterMsg

theorem State.MemOk.failCores (h : st.MemOk) {cids unit scope} : (st.failCores cids unit scope).MemOk :=
  (h.foldl (fun _ _ h₁ => h₁.editCore)).foldl fun _ _ h₂ => h₂.failCore

theorem State.MemOk.execCoreFailure (h : st.MemOk) : Out.MemOk (execCoreFailure st) := by
  unfold Machine.execCoreFailure
  split
  · exact .next h.failCore
  · exact .idle

theorem State.MemOk.failCluster (h : st.MemOk) {g unit} : (st.failCluster g unit).MemOk := by
  unfold State.failCluster
  extract_lets +onlyGivenNames st₁
  have h₁ : st₁.MemOk := h.modCluster
  extract_lets +onlyGivenNames st₂
  have h₂ : st₂.MemOk := h₁
  exact h₂.failCores

theorem State.MemOk.execMatrixClusterFailure (h : st.MemOk) : Out.MemOk (execMatrixClusterFailure st) := by
  unfold Machine.execMatrixClusterFailure
  split
  · exact .next h.failCluster
  · exact .idle

theorem State.MemOk.execLayerFailure (h : st.MemOk) : Out.MemOk (execLayerFailure st) := by
  unfold Machine.execLayerFailure
  extract_lets +onlyGivenNames l₁
  split
  · exact .idle
  · exact .next ((h.foldl (fun _ _ h₁ => h₁.failWork)).modLayer.foldl (fun _ _ h₂ => h₂.ite h₂.failCluster))

theorem State.MemOk.execPortFailure (h : st.MemOk) : Out.MemOk (execPortFailure st) := by
  unfold Machine.execPortFailure
  extract_lets +onlyGivenNames p₁
  split
  · exact .idle
  · extract_lets +onlyGivenNames gone₁ owed₁ unsent₁ fab₁ fab₂ st₁
    have h₁ : st₁.MemOk := by
      unfold st₁
      refine State.MemOk.signal ?_
      exact h
    exact .next h₁.loseContexts

theorem State.MemOk.execFirmwareCoreFailure (h : st.MemOk) : Out.MemOk (execFirmwareCoreFailure st) := by
  unfold Machine.execFirmwareCoreFailure
  extract_lets +onlyGivenNames f₁
  split
  · exact .idle
  · exact .next h

theorem State.MemOk.execScanTest (h : st.MemOk) : Out.MemOk (execScanTest st) := by
  unfold Machine.execScanTest
  extract_lets +onlyGivenNames g₁
  split
  · exact .idle
  · exact .next h.stopCluster.modCluster

theorem State.MemOk.execScanPass (h : st.MemOk) : Out.MemOk (execScanPass st) := by
  unfold Machine.execScanPass
  extract_lets +onlyGivenNames g₁
  split
  · exact .next (h.modCluster.ite h.modCluster.resumeCluster)
  · exact .idle

theorem State.MemOk.execScanFail (h : st.MemOk) : Out.MemOk (execScanFail st) := by
  unfold Machine.execScanFail
  extract_lets +onlyGivenNames g₁ x₁
  split
  · exact .idle
  · extract_lets +onlyGivenNames st₁
    have h₁ : st₁.MemOk := h.modCluster
    extract_lets +onlyGivenNames st₂
    have h₂ : st₂.MemOk := h₁.loseContexts
    extract_lets +onlyGivenNames st₃
    have h₃ : st₃.MemOk := h₂.failCluster
    extract_lets +onlyGivenNames st₄
    have h₄ : st₄.MemOk := h₃.foldl fun _ _ h₅ => h₅.modTile
    extract_lets +onlyGivenNames t₁
    refine .next (State.MemOk.signal ?_)
    exact h₄

theorem State.MemOk.upsetArray (h : st.MemOk) {w n symbols} : (st.upsetArray w n symbols).MemOk := by
  unfold State.upsetArray
  split
  · exact h
  · refine iteInduction (fun _ => ?_) fun _ => ?_
    · exact h.correct
    · exact h

theorem State.MemOk.upset (h : st.MemOk) {u} : (st.upset u).MemOk := by
  unfold State.upset
  split
  · split
    · exact h.upsetArray
    · exact h
  · split <;> exact h
  · split
    · exact h
    · exact h.editCore
  · split
    · exact h.editCore
    · exact h
  · split
    · exact h.loseCtx
    · exact h
  · split
    · exact h.modCluster
    · exact h
  · split
    · exact h.modCluster
    · exact h
  · split
    · exact h.modCluster
    · exact h
  · exact h.modCtx
  · exact h.modCtx
  · exact h.modCtx
  · exact h.modCtx
  · exact h.modCtx
  · exact h.modCtx

end Sys2Proof.Machine
end

section
/-! # Canonical memory: the host port and the fabric -/

namespace Sys2Proof.Machine

-- One proof at a time: each thread of an asynchronous one reserves a whole stack, and hundreds of them exceed the memory given.
set_option Elab.async false

variable {st : State}

/-! ## The host port, the loss of an owner, the switch of relay banks (R353, R357, R358, R365, R366) -/

theorem State.MemOk.execHostRead (h : st.MemOk) {bar off n} : Out.MemOk (execHostRead bar off n st) := by
  unfold Machine.execHostRead
  split
  · exact .idle
  · split
    · exact .next h
    · exact .next (h.foldl (fun _ _ h₁ => h₁.writeBack)).sReadBytes

theorem State.MemOk.execHostWrite (h : st.MemOk) {bar off data} : Out.MemOk (execHostWrite bar off data st) := by
  unfold Machine.execHostWrite
  split
  · exact .idle
  · split
    · exact .next h.writeRegBytes
    · split
      · exact .next h
      · exact .next (h.foldl (fun _ _ h₁ => h₁.flushLine)).sWriteBytes

theorem State.MemOk.noteLoss (h : st.MemOk) : (st.noteLoss).MemOk := h

theorem State.MemOk.execHostLinkDown (h : st.MemOk) : Out.MemOk (execHostLinkDown st) := by
  unfold Machine.execHostLinkDown
  split
  · exact .next h
  · exact .idle

theorem State.MemOk.execHostLinkTraining (h : st.MemOk) : Out.MemOk (execHostLinkTraining st) := .next h

theorem State.MemOk.execSidebandHeartbeat (h : st.MemOk) {present} : Out.MemOk (execSidebandHeartbeat present st) := .next h

theorem State.MemOk.execOwnerLoss (h : st.MemOk) : Out.MemOk (execOwnerLoss st) := by
  unfold Machine.execOwnerLoss
  split
  · split
    · exact .next h.setOwner
    · exact .idle
  · exact .idle

theorem State.MemOk.execBankSwitch (h : st.MemOk) : Out.MemOk (execBankSwitch st) := by
  unfold Machine.execBankSwitch
  split
  · exact .next h
  · exact .idle

/-! ## The receipt of packets, and the relay (R343 to R356) -/

theorem State.MemOk.acceptPacket (h : st.MemOk) {p} : (st.acceptPacket p).MemOk := by
  unfold State.acceptPacket
  refine State.MemOk.acknowledge ?_
  exact h

theorem State.MemOk.badPacket (h : st.MemOk) : (st.badPacket).MemOk := h

theorem State.MemOk.receive (h : st.MemOk) {f : State → State} (hf : ∀ t, t.MemOk → (f t).MemOk) {p kind name} :
    Out.MemOk (st.receive p kind name f) := by
  unfold State.receive
  split
  · exact .idle
  · split
    · exact .next h
    · split
      · exact .idle
      · split
        · exact .next h
        · split
          · exact .next h
          · split
            · exact .next h
            · exact .next (hf _ h.acceptPacket)

theorem State.MemOk.joinFlow (h : st.MemOk) {src ctx chan p} : (st.joinFlow src ctx chan p).MemOk := h

theorem State.MemOk.setFlow (h : st.MemOk) {f} : (st.setFlow f).MemOk := h

/-- The packets of a flow in their order, by induction on the fuel. -/
theorem State.MemOk.drainFlow (h : st.MemOk) {go : State → Packet → State} (hgo : ∀ t x, t.MemOk → (go t x).MemOk) {can src ctx chan k} :
    (State.drainFlow can go src ctx chan k st).MemOk := by
  induction k generalizing st with
  | zero => exact h
  | succ k ih =>
    unfold State.drainFlow
    split
    · exact h
    · split
      · split
        · exact ih (hgo _ _ h.setFlow)
        · exact h
      · exact h

theorem State.MemOk.guestFor (h : st.MemOk) {src lid net tenant seq} : (st.guestFor src lid net tenant seq).1.MemOk := by
  unfold State.guestFor
  split
  · exact h.modLaunch
  · exact h

theorem State.MemOk.takeMsg (h : st.MemOk) {p} : (st.takeMsg p).MemOk := by
  unfold State.takeMsg
  split
  · extract_lets +onlyGivenNames lid₁ owned₁
    split
    · exact h.sendFailure.send
    · extract_lets +onlyGivenNames st₁
      have h₁ : st₁.1.MemOk := h.guestFor
      extract_lets +onlyGivenNames m₁
      refine State.MemOk.tickStamp ?_
      exact h₁
  · exact h

theorem State.MemOk.execMsg (h : st.MemOk) {p} : Out.MemOk (execMsg p st) := by
  unfold Machine.execMsg
  refine h.receive fun _ h₁ => ?_
  split
  · exact h₁.joinFlow.drainFlow fun _ _ h₂ => h₂.takeMsg
  · exact h₁

theorem State.MemOk.recallVictim (h : st.MemOk) {line tenant} : (st.recallVictim line tenant).MemOk := by
  unfold State.recallVictim
  extract_lets +onlyGivenNames g₁ l₁
  split
  · split
    · exact h
    · refine State.MemOk.foldl ?_ fun _ _ h₁ => ?_
      · exact h
      · exact h₁
  · exact h

theorem State.MemOk.dropHolder (h : st.MemOk) {line p} : (st.dropHolder line p).MemOk := by
  unfold State.dropHolder
  extract_lets +onlyGivenNames -merge _ st₁
  have h₁ : st₁.MemOk := h
  split
  · extract_lets +onlyGivenNames x₁
    split
    · exact h₁
    · split <;> exact h₁
  · exact h₁

theorem State.MemOk.readLine (h : st.MemOk) {line} : (st.readLine line).1.MemOk := h.sRead

theorem State.MemOk.execLreq (h : st.MemOk) {p} : Out.MemOk (execLreq p st) := by
  unfold Machine.execLreq
  split
  · split
    · exact .next h.recallVictim
    · refine h.receive fun _ h₁ => ?_
      split
      · exact h₁
      · exact h₁.readLine
  · exact h.receive fun _ h₁ => h₁

theorem State.MemOk.installLine (h : st.MemOk) {line data poison} : (st.installLine line data poison).MemOk := by
  unfold State.installLine
  extract_lets +onlyGivenNames asked₁ st₁
  have h₁ : st₁.MemOk := h.ite h.sliceRoom
  extract_lets +onlyGivenNames -underBinder n₁
  refine State.MemOk.tickStamp ?_
  exact h₁

theorem State.MemOk.execLdata (h : st.MemOk) {p} : Out.MemOk (execLdata p st) := by
  unfold Machine.execLdata
  refine h.receive fun _ h₁ => ?_
  split
  · split
    · exact h₁
    · split
      · exact h₁.dropHolder
      · split
        · exact h₁.installLine
        · exact h₁
  · exact h₁

theorem State.MemOk.execLwb (h : st.MemOk) {p} : Out.MemOk (execLwb p st) := by
  unfold Machine.execLwb
  refine h.receive fun _ h₁ => ?_
  split
  · split
    · exact h₁
    · extract_lets +onlyGivenNames held₁ st₁
      have h₂ : st₁.MemOk := h₁.invalidateHolders
      extract_lets +onlyGivenNames st₂
      have h₃ : st₂.MemOk := h₂
      extract_lets +onlyGivenNames st₃
      have h₄ : st₃.MemOk := h₃.sWriteMasked
      extract_lets +onlyGivenNames st₄
      have h₅ : st₄.MemOk := by
        unfold st₄
        split <;> exact h₄
      split
      · exact h₅.dropHolder
      · exact h₅
  · exact h₁

theorem State.MemOk.execInv (h : st.MemOk) {p} : Out.MemOk (execInv p st) := by
  unfold Machine.execInv
  refine h.receive fun _ h₁ => ?_
  split
  · split
    · exact h₁.dropPeerLine
    · exact h₁
  · exact h₁

theorem State.MemOk.execRecallPkt (h : st.MemOk) {p} : Out.MemOk (execRecallPkt p st) := by
  unfold Machine.execRecallPkt
  refine h.receive fun _ h₁ => ?_
  split
  · split
    · exact h₁
    · extract_lets +onlyGivenNames st₁
      have h₂ : st₁.MemOk := h₁.flushLine
      extract_lets +onlyGivenNames l₁
      split
      · exact h₂.writeBackAs.forgetPeer
      · exact h₂.forgetPeer.send
  · exact h₁

theorem State.MemOk.execWreq (h : st.MemOk) {p} : Out.MemOk (execWreq p st) := by
  unfold Machine.execWreq
  refine h.receive fun _ h₁ => ?_
  split
  · split
    · exact h₁.invalidateHolders.sWrite.send
    · exact h₁
  · exact h₁

theorem State.MemOk.execAreq (h : st.MemOk) {p} : Out.MemOk (execAreq p st) := by
  unfold Machine.execAreq
  refine h.receive fun _ h₁ => ?_
  split
  · split
    · exact h₁
    · extract_lets +onlyGivenNames st₁
      have h₂ : st₁.MemOk := h₁.flushLine
      extract_lets +onlyGivenNames st₂
      have h₃ : st₂.1.MemOk := h₂.sRead
      extract_lets +onlyGivenNames new₁
      split
      · split
        · exact h₃.logEvent.send
        · exact h₃.send
      · exact h₃.invalidateHolders.sWrite.send
  · exact h₁

theorem State.MemOk.settleMsg (h : st.MemOk) {dst lid n} : (st.settleMsg dst lid n).MemOk := by
  unfold State.settleMsg
  split
  · exact h
  · extract_lets +onlyGivenNames -merge _ st₁
    have h₁ : st₁.MemOk := h
    split
    · exact h₁.countRecv
    · exact h₁

theorem State.MemOk.dropAwait (h : st.MemOk) {a} : (st.dropAwait a).MemOk := h

theorem State.MemOk.answerAccess (h : st.MemOk) {n old lost} : (st.answerAccess n old lost).MemOk := by
  unfold State.answerAccess
  split
  · exact h
  · split
    · split
      · exact h
      · extract_lets +onlyGivenNames rest₁
        split
        · exact h.dropAcc
        · exact h.setAcc
    · exact h.finishAtomic
    · exact h

theorem State.MemOk.answerRed (h : st.MemOk) {n} : (st.answerRed n).MemOk := h.mapCores rfl rfl fun _ hp => hp

theorem State.MemOk.poisonedReply (h : st.MemOk) {n v} : (st.poisonedReply n v).MemOk := by
  unfold State.poisonedReply
  split
  · exact h
  · split
    · exact h.dropAcc.consumePoison
    · exact h.dropAcc

theorem State.MemOk.execArsp (h : st.MemOk) {p} : Out.MemOk (execArsp p st) := by
  unfold Machine.execArsp
  refine h.receive fun _ h₁ => ?_
  split
  · extract_lets +onlyGivenNames st₁
    have h₂ : st₁.MemOk := h₁.dropAwait
    split
    · split
      · exact h₂.poisonedReply
      · exact h₂.answerAccess
    · exact h₂.answerRed
    · exact h₂
  · exact h₁

theorem State.MemOk.endRemote (h : st.MemOk) {n why got} : (st.endRemote n why got).MemOk := by
  unfold State.endRemote
  split
  · exact (h.flagPeer.ite h).creditCopy.endCopy
  · exact h

theorem State.MemOk.loseRemote (h : st.MemOk) {n dropped} : (st.loseRemote n dropped).MemOk := by
  unfold State.loseRemote
  split
  · exact h.endRemote
  · exact h

theorem State.MemOk.failAwait (h : st.MemOk) {a} : (st.failAwait a).MemOk := by
  unfold State.failAwait
  extract_lets +onlyGivenNames st₁
  have h₁ : st₁.MemOk := h.flagPeer.dropAwait
  extract_lets +onlyGivenNames st₂
  have h₂ : st₂.MemOk := by
    unfold st₂
    split
    · exact h₁.answerAccess
    · exact h₁
  extract_lets +onlyGivenNames st₃
  have h₃ : st₃.MemOk := by
    unfold st₃
    split
    · exact h₂.answerRed
    · exact h₂
  extract_lets +onlyGivenNames st₄
  have h₄ : st₄.MemOk := by
    unfold st₄
    split
    · exact h₃.loseRemote
    · exact h₃
  split
  · split
    · refine State.MemOk.installLine ?_
      exact h₄
    · exact h₄.dropHolder
  · exact h₄

theorem State.MemOk.execReplyTimeout (h : st.MemOk) : Out.MemOk (execReplyTimeout st) := by
  unfold Machine.execReplyTimeout
  split
  · split
    · exact .next h.failAwait
    · exact .idle
  · exact .idle

theorem State.MemOk.setRx (h : st.MemOk) {x} : (st.setRx x).MemOk := h

theorem State.MemOk.tellCopy (h : st.MemOk) {tenant tag x} : (st.tellCopy tenant tag x).MemOk := by
  unfold State.tellCopy
  extract_lets +onlyGivenNames f₁
  refine State.MemOk.send ?_
  exact h

theorem State.MemOk.takeCopy (h : st.MemOk) {p} : (st.takeCopy p).MemOk := by
  unfold State.takeCopy
  split
  · refine iteInduction (fun _ => State.MemOk.tellCopy ?_) fun _ => State.MemOk.setRx ?_ <;>
    · refine iteInduction (motive := fun r : State × RxCopy => r.1.MemOk) (fun _ => h) fun _ => ?_
      refine iteInduction (motive := fun r : State × RxCopy => r.1.MemOk) (fun _ => h) fun _ => ?_
      exact h.deliverAll.countDelivery
  · exact h

theorem State.MemOk.execCpydata (h : st.MemOk) {p} : Out.MemOk (execCpydata p st) := by
  unfold Machine.execCpydata
  refine h.receive fun _ h₁ => ?_
  split
  · exact h₁.joinFlow.drainFlow fun _ _ h₂ => h₂.takeCopy
  · exact h₁

theorem State.MemOk.drainCopies (h : st.MemOk) : (st.drainCopies).MemOk := by
  have hflow (fuel : Nat) (f : Flow) (t : State) (ht : t.MemOk) :
      (State.drainFlow State.copyAwake State.takeCopy f.src f.srcCtx copyChan fuel t).MemOk :=
    ht.drainFlow fun _ _ h₂ => h₂.takeCopy
  exact h.foldl (hflow 4097)

theorem State.MemOk.execCpydone (h : st.MemOk) {p} : Out.MemOk (execCpydone p st) := by
  unfold Machine.execCpydone
  refine h.receive fun _ h₁ => ?_
  split
  · extract_lets +onlyGivenNames -merge id₁ _ st₁
    have h₂ : st₁.MemOk := h₁
    exact h₂.endRemote
  · exact h₁

theorem State.MemOk.execQrep (h : st.MemOk) {p} : Out.MemOk (execQrep p st) := by
  unfold Machine.execQrep
  refine h.receive fun _ h₁ => ?_
  split
  · exact h₁.foldl fun _ _ h₂ => h₂.settleMsg
  · exact h₁

theorem State.MemOk.execCtrl (h : st.MemOk) {p} : Out.MemOk (execCtrl p st) := by
  unfold Machine.execCtrl
  refine h.receive fun _ h₁ => ?_
  split
  · exact h₁.writeRegBytes.notePod
  · exact h₁.send
  · exact h₁

theorem State.MemOk.execAck (h : st.MemOk) {p} : Out.MemOk (execAck p st) := by
  unfold Machine.execAck
  split
  · exact .idle
  · split
    · exact .next h
    · split
      · split <;> exact .next h
      · exact .idle

theorem State.MemOk.execRelayReceive (h : st.MemOk) {p} : Out.MemOk (execRelayReceive p st) := by
  unfold Machine.execRelayReceive
  split
  · exact .idle
  · split
    · exact .next h
    · split
      · exact .next h
      · split
        · exact .next h
        · split
          · exact .idle
          · exact .next h

theorem State.MemOk.execRelayForward (h : st.MemOk) : Out.MemOk (execRelayForward st) := by
  unfold Machine.execRelayForward
  split
  · exact .idle
  · extract_lets b fits _ gone
    have h₁ : gone.MemOk := h
    clear_value gone fits
    split
    · exact .idle
    · split
      · exact .next h₁.sendFailure
      · split
        · exact .next h₁
        · exact .idle

theorem State.MemOk.setKept (h : st.MemOk) {k} : (st.setKept k).MemOk := h

theorem State.MemOk.failPacket (h : st.MemOk) {k} : (st.failPacket k).MemOk := by
  unfold State.failPacket
  extract_lets +onlyGivenNames -merge _ st₁
  have h₁ : st₁.MemOk := by
    unfold st₁
    refine State.MemOk.flagPeer ?_
    exact h
  extract_lets +onlyGivenNames byTag₁
  split
  · exact h₁.settleMsg
  · exact h₁.foldl fun _ _ h₂ => h₂.failAwait
  · exact h₁.foldl fun _ _ h₃ => h₃.failAwait
  · exact h₁.foldl fun _ _ h₄ => h₄.failAwait
  · exact h₁.foldl fun _ _ h₅ => h₅.failAwait
  · extract_lets +onlyGivenNames -merge _ st₂
    have h₆ : st₂.MemOk := h₁
    exact h₆.loseRemote
  · exact h₁

theorem State.MemOk.routeKept (h : st.MemOk) {k tries since} : (st.routeKept k tries since).MemOk := by
  unfold State.routeKept
  split
  · exact h.failPacket
  · exact h

theorem State.MemOk.execRouteRetry (h : st.MemOk) : Out.MemOk (execRouteRetry st) := by
  unfold Machine.execRouteRetry
  split
  · split
    · exact .idle
    · split
      · exact .next h.routeKept
      · split
        · exact .idle
        · exact .next h.routeKept
  · exact .idle

theorem State.MemOk.execAttemptTimeout (h : st.MemOk) : Out.MemOk (execAttemptTimeout st) := by
  unfold Machine.execAttemptTimeout
  split
  · split
    · exact .next h.failPacket
    · split
      · exact .idle
      · split
        · exact .next h.routeKept
        · exact .next h.failPacket
  · exact .idle

theorem State.MemOk.execRelayRefusal (h : st.MemOk) : Out.MemOk (execRelayRefusal st) := by
  unfold Machine.execRelayRefusal
  split
  · split
    · exact .next h
    · exact .idle
  · exact .idle

theorem State.MemOk.execFailurePacket (h : st.MemOk) {p} : Out.MemOk (execFailurePacket p st) := by
  unfold Machine.execFailurePacket
  split
  · exact .idle
  · split
    · exact .next h
    · split
      · exact .next h
      · exact .next h.flagPeer.noteLoss

theorem State.MemOk.execPortTraining (h : st.MemOk) {p ver} : Out.MemOk (execPortTraining p ver st) := by
  unfold Machine.execPortTraining
  split
  · exact .idle
  · exact .next h

end Sys2Proof.Machine
end

section
/-! # Canonical memory: firmware, power and scalar arithmetic -/

namespace Sys2Proof.Machine

-- One proof at a time: each thread of an asynchronous one reserves a whole stack, and hundreds of them exceed the memory given.
set_option Elab.async false

variable {st : State}

/-! ## Mailbox commands and images (R361, R364, R366, R380 to R383) -/

theorem State.MemOk.execLeaseRenewal (h : st.MemOk) : Out.MemOk (execLeaseRenewal st) := by
  unfold Machine.execLeaseRenewal
  split
  · exact .next h
  · exact .idle

theorem State.MemOk.execLeaderStop (h : st.MemOk) : Out.MemOk (execLeaderStop st) := by
  unfold Machine.execLeaderStop
  split
  · exact .next h
  · exact .idle

theorem State.MemOk.modBox (h : st.MemOk) {m f} : (st.modBox m f).MemOk := h

theorem State.MemOk.reply (h : st.MemOk) {m ver r} : (st.reply m ver r).MemOk := by
  unfold State.reply
  extract_lets +onlyGivenNames n₁ st₁
  have h₁ : st₁.MemOk := h.modBox
  split
  · exact h₁.signal
  · exact h₁

theorem State.MemOk.mailbox (h : st.MemOk) {f : State → Mem → Out} (hf : ∀ t x₁, t.MemOk → Out.MemOk (f t x₁)) {m cmd need name owner} :
    Out.MemOk (st.mailbox m cmd need name owner f) := by
  unfold State.mailbox
  extract_lets +onlyGivenNames b₁ w₁ ver₁ here₁
  split
  · exact .idle
  · split
    · exact .next h.reply
    · split
      · exact .next h.reply
      · split
        · exact .next h.reply
        · exact hf _ _ h

theorem State.MemOk.answerBox (h : st.MemOk) {f : State → Mem → State × Reply} (hf : ∀ t x₁, t.MemOk → (f t x₁).1.MemOk) {m cmd need name owner} :
    Out.MemOk (st.answerBox m cmd need name owner f) := by
  unfold State.answerBox
  refine h.mailbox fun _ _ h₁ => ?_
  exact .next (hf _ _ h₁).reply

theorem State.MemOk.execInfo (h : st.MemOk) {m} : Out.MemOk (execInfo m st) := by
  unfold Machine.execInfo
  refine h.answerBox fun _ _ h₁ => ?_
  exact h₁

theorem State.MemOk.execOwnq (h : st.MemOk) {m} : Out.MemOk (execOwnq m st) := by
  unfold Machine.execOwnq
  refine h.answerBox fun _ _ h₁ => ?_
  exact h₁

theorem State.MemOk.readyRange (h : st.MemOk) {pa n} : (st.readyRange pa n).MemOk := h.readyLines

theorem State.MemOk.attested (h : st.MemOk) {m} : Out.MemOk (st.attested m) := by
  unfold State.attested
  extract_lets +onlyGivenNames req₁ dst₁ e₁ e₂
  split
  · exact .next h.reply
  · refine Ready.MemOk.out (Ready.MemOk.andThen h.readyRange (fun _ h₁ => ?_))
    exact h₁.sWriteBytes.reply

theorem State.MemOk.execAttest (h : st.MemOk) {m} : Out.MemOk (execAttest m st) := by
  unfold Machine.execAttest
  split
  · split
    · exact h.attested
    · exact .idle
  · exact .idle
  · refine h.mailbox fun _ _ h₁ => ?_
    split
    · exact .next h₁.reply
    · exact .next h₁

theorem State.MemOk.execFwstage (h : st.MemOk) {m} : Out.MemOk (execFwstage m st) := by
  unfold Machine.execFwstage
  refine h.mailbox fun _ _ h₁ => ?_
  extract_lets +onlyGivenNames pa₁ n₁
  split
  · exact .next h₁.reply
  · refine Ready.MemOk.out (Ready.MemOk.andThen h₁.readyRange (fun _ h₂ => ?_))
    extract_lets +onlyGivenNames st₁
    have h₃ : st₁.1.MemOk := h₂.processorRead
    split
    · refine State.MemOk.reply ?_
      exact h₃
    · exact h₃.reply

theorem State.MemOk.execFwact (h : st.MemOk) {m} : Out.MemOk (execFwact m st) := by
  unfold Machine.execFwact
  refine h.answerBox fun _ _ h₁ => ?_
  split <;> exact h₁

/-- A core that is reset has the local memory of reset, which is empty. -/
theorem State.MemOk.resetCore (h : st.MemOk) {cid} : (st.resetCore cid).MemOk := by
  unfold State.resetCore
  extract_lets +onlyGivenNames st₁ st₂ st₃
  have h₁ : st₁.MemOk := h.ite h.failCore
  have h₂ : st₂.MemOk := h₁.foldl fun _ _ h₃ => h₃.writeBack
  have h₄ : st₃.MemOk := by
    unfold st₃
    split
    · exact h₂.modNet
    · exact h₂
  have h₅ : (st₃.setCore cid { Core.reset with born := st₃.cyclesOf cid }).MemOk := h₄.setCore _ rfl
  exact h₅.modLayer

theorem State.MemOk.execCoreReset (h : st.MemOk) : Out.MemOk (execCoreReset st) := by
  unfold Machine.execCoreReset
  split
  · exact .next h.resetCore
  · exact .idle

theorem State.MemOk.resetCluster (h : st.MemOk) {g} : (st.resetCluster g).1.MemOk := by
  unfold State.resetCluster
  extract_lets +onlyGivenNames x₁ st₁
  have h₁ : st₁.MemOk := h.ite h.failCluster
  extract_lets +onlyGivenNames ok₁ st₂
  have h₂ : st₂.MemOk := by
    unfold st₂
    split <;> exact h₁
  split
  · exact h₂.modCluster.foldl fun _ _ h₃ => h₃.resetCore
  · exact h₂

theorem State.MemOk.resetPort (h : st.MemOk) {p} : (st.resetPort p).MemOk := h

theorem State.MemOk.execUnitrst (h : st.MemOk) {m} : Out.MemOk (execUnitrst m st) := by
  unfold Machine.execUnitrst
  refine h.answerBox fun _ _ h₁ => ?_
  extract_lets +onlyGivenNames n₁
  split
  · split
    · exact h₁
    · exact h₁.resetCore
  · split
    · exact h₁.resetCluster
    · split <;> exact h₁

theorem State.MemOk.execTestst (h : st.MemOk) {m} : Out.MemOk (execTestst m st) := by
  unfold Machine.execTestst
  refine h.answerBox fun _ _ h₁ => ?_
  extract_lets +onlyGivenNames fenced₁ n₁
  split <;> exact h₁

theorem State.MemOk.execLogrd (h : st.MemOk) {m} : Out.MemOk (execLogrd m st) := by
  unfold Machine.execLogrd
  refine h.answerBox fun _ _ h₁ => ?_
  exact h₁

theorem State.MemOk.abortLaunch (h : st.MemOk) {l} : (st.abortLaunch l).MemOk := h.failLaunch.dropCopies.endFirings.modLaunch

theorem State.MemOk.execAbort (h : st.MemOk) {m} : Out.MemOk (execAbort m st) := by
  unfold Machine.execAbort
  split
  · exact .idle
  · split
    · exact .next h.reply
    · exact .idle
  · refine h.mailbox fun _ _ h₁ => ?_
    extract_lets +onlyGivenNames w₁ s₁
    split
    · exact .next h₁.reply
    · split
      · exact .next h₁.abortLaunch.modBox
      · exact .next h₁.reply

/-- Every core has the local memory of reset. -/
theorem State.MemOk.execPackageReset (h : st.MemOk) : Out.MemOk (execPackageReset st) := by
  unfold Machine.execPackageReset
  extract_lets +onlyGivenNames fenced st₁
  have h₁ : st₁.MemOk := h.foldl fun _ _ h₂ => h₂.dropSliceLine
  refine .next ⟨h₁.1, fun p hp => ?_⟩
  obtain ⟨c, _, rfl⟩ := List.mem_map.1 hp
  rfl

/-! ## Scrubbing, power tokens, gating and droop (R369, R375, R384 to R389) -/

theorem State.MemOk.scrubbed (h : st.MemOk) : (st.scrubbed).MemOk := by
  unfold State.scrubbed
  split <;> exact h

theorem State.MemOk.execScrub (h : st.MemOk) : Out.MemOk (execScrub st) := by
  unfold Machine.execScrub
  extract_lets +onlyGivenNames pa₁
  split
  · exact .next (h.arrayRead.scrubbed.ite h.arrayRead)
  · exact .idle

theorem State.MemOk.execStrongCodeSwitch (h : st.MemOk) : Out.MemOk (execStrongCodeSwitch st) := by
  unfold Machine.execStrongCodeSwitch
  extract_lets +onlyGivenNames -underBinder b₁ f₁
  have h₁ : ∀ x₀, Out.MemOk (f₁ x₀) := by
    refine fun _ => ?_
    exact .next h
  split
  · split
    · exact h₁ _
    · exact .idle
  · split
    · exact h₁ _
    · exact .idle

theorem State.MemOk.execDroopAlarm (h : st.MemOk) : Out.MemOk (execDroopAlarm st) := by
  unfold Machine.execDroopAlarm
  split
  · exact .idle
  · exact .next h

theorem State.MemOk.execStretchEnd (h : st.MemOk) : Out.MemOk (execStretchEnd st) := by
  unfold Machine.execStretchEnd
  split
  · exact .next h
  · exact .idle

theorem State.MemOk.execHalvedIssueEnd (h : st.MemOk) : Out.MemOk (execHalvedIssueEnd st) := by
  unfold Machine.execHalvedIssueEnd
  split
  · exact .next h
  · exact .idle

theorem State.MemOk.execCoreGate (h : st.MemOk) : Out.MemOk (execCoreGate st) := by
  unfold Machine.execCoreGate
  extract_lets +onlyGivenNames k₁
  split
  · exact .next h.editCore
  · exact .idle

theorem State.MemOk.execCoreWake (h : st.MemOk) : Out.MemOk (execCoreWake st) := by
  unfold Machine.execCoreWake
  split
  · exact .next h.editCore.admitPushes.drainCopies
  · exact .idle

theorem State.MemOk.execCapChange (h : st.MemOk) {layer cap} : Out.MemOk (execCapChange layer cap st) := by
  unfold Machine.execCapChange
  split
  · exact .idle
  · exact .next h

theorem State.MemOk.admitNow (h : st.MemOk) {l g} : (st.admitNow l g).MemOk := h.modCluster

theorem State.MemOk.answerPwreq (h : st.MemOk) {n yes} : (st.answerPwreq n yes).MemOk := by
  unfold State.answerPwreq
  split
  · exact (h.modUid.ite h).answer
  · exact h

theorem State.MemOk.execPowerTokenAdmit (h : st.MemOk) : Out.MemOk (execPowerTokenAdmit st) := by
  unfold Machine.execPowerTokenAdmit
  split
  · extract_lets +onlyGivenNames yes₁ st₁
    have h₁ : st₁.MemOk := h
    extract_lets +onlyGivenNames st₂
    have h₂ : st₂.MemOk := h₁.admitNow.ite h₁
    refine .next ?_
    split
    · exact h₂.answerPwreq
    · exact h₂
  · exact .idle

theorem State.MemOk.execPowerTokenReturn (h : st.MemOk) {lid g} : Out.MemOk (execPowerTokenReturn lid g st) := by
  unfold Machine.execPowerTokenReturn
  split
  · split
    · exact .next h
    · exact .idle
  · exact .idle

/-! ## Scalar arithmetic, constants and FP32 (R114 to R123) -/

theorem State.MemOk.scalarOp (h : st.MemOk) {i e named f} : Out.MemOk (scalarOp i e named f st) := by
  unfold Machine.scalarOp
  refine h.issue fun _ _ h₁ => ?_
  exact h₁

theorem State.MemOk.alu2 (h : st.MemOk) {i e d a b f} : Out.MemOk (alu2 i e d a b f st) := h.scalarOp

theorem State.MemOk.alu1 (h : st.MemOk) {i e d a f} : Out.MemOk (alu1 i e d a f st) := h.scalarOp

theorem State.MemOk.aluI (h : st.MemOk) {i e d a imm f} : Out.MemOk (aluI i e d a imm f st) := h.scalarOp

theorem State.MemOk.divOp (h : st.MemOk) {i e d a b f} : Out.MemOk (divOp i e d a b f st) := h.scalarOp

theorem State.MemOk.execAdd (h : st.MemOk) {e d a b} : Out.MemOk (execAdd e d a b st) := h.alu2

theorem State.MemOk.execSub (h : st.MemOk) {e d a b} : Out.MemOk (execSub e d a b st) := h.alu2

theorem State.MemOk.execMul (h : st.MemOk) {e d a b} : Out.MemOk (execMul e d a b st) := h.alu2

theorem State.MemOk.execMulh (h : st.MemOk) {e d a b} : Out.MemOk (execMulh e d a b st) := h.alu2

theorem State.MemOk.execMulhz (h : st.MemOk) {e d a b} : Out.MemOk (execMulhz e d a b st) := h.alu2

theorem State.MemOk.execDiv (h : st.MemOk) {e d a b} : Out.MemOk (execDiv e d a b st) := h.divOp

theorem State.MemOk.execDivz (h : st.MemOk) {e d a b} : Out.MemOk (execDivz e d a b st) := h.divOp

theorem State.MemOk.execRem (h : st.MemOk) {e d a b} : Out.MemOk (execRem e d a b st) := h.divOp

theorem State.MemOk.execRemz (h : st.MemOk) {e d a b} : Out.MemOk (execRemz e d a b st) := h.divOp

theorem State.MemOk.execAnd (h : st.MemOk) {e d a b} : Out.MemOk (execAnd e d a b st) := h.alu2

theorem State.MemOk.execOr (h : st.MemOk) {e d a b} : Out.MemOk (execOr e d a b st) := h.alu2

theorem State.MemOk.execXor (h : st.MemOk) {e d a b} : Out.MemOk (execXor e d a b st) := h.alu2

theorem State.MemOk.execShl (h : st.MemOk) {e d a b} : Out.MemOk (execShl e d a b st) := h.alu2

theorem State.MemOk.execShr (h : st.MemOk) {e d a b} : Out.MemOk (execShr e d a b st) := h.alu2

theorem State.MemOk.execSra (h : st.MemOk) {e d a b} : Out.MemOk (execSra e d a b st) := h.alu2

theorem State.MemOk.execMin (h : st.MemOk) {e d a b} : Out.MemOk (execMin e d a b st) := h.alu2

theorem State.MemOk.execMax (h : st.MemOk) {e d a b} : Out.MemOk (execMax e d a b st) := h.alu2

theorem State.MemOk.execMinz (h : st.MemOk) {e d a b} : Out.MemOk (execMinz e d a b st) := h.alu2

theorem State.MemOk.execMaxz (h : st.MemOk) {e d a b} : Out.MemOk (execMaxz e d a b st) := h.alu2

theorem State.MemOk.execSeq (h : st.MemOk) {e d a b} : Out.MemOk (execSeq e d a b st) := h.alu2

theorem State.MemOk.execSne (h : st.MemOk) {e d a b} : Out.MemOk (execSne e d a b st) := h.alu2

theorem State.MemOk.execSlt (h : st.MemOk) {e d a b} : Out.MemOk (execSlt e d a b st) := h.alu2

theorem State.MemOk.execSltz (h : st.MemOk) {e d a b} : Out.MemOk (execSltz e d a b st) := h.alu2

theorem State.MemOk.execClz (h : st.MemOk) {e d a} : Out.MemOk (execClz e d a st) := h.alu1

theorem State.MemOk.execCtz (h : st.MemOk) {e d a} : Out.MemOk (execCtz e d a st) := h.alu1

theorem State.MemOk.execPopc (h : st.MemOk) {e d a} : Out.MemOk (execPopc e d a st) := h.alu1

theorem State.MemOk.execAddi (h : st.MemOk) {e d a i} : Out.MemOk (execAddi e d a i st) := h.aluI

theorem State.MemOk.execAndi (h : st.MemOk) {e d a i} : Out.MemOk (execAndi e d a i st) := h.aluI

theorem State.MemOk.execOri (h : st.MemOk) {e d a i} : Out.MemOk (execOri e d a i st) := h.aluI

theorem State.MemOk.execXori (h : st.MemOk) {e d a i} : Out.MemOk (execXori e d a i st) := h.aluI

theorem State.MemOk.execSlti (h : st.MemOk) {e d a i} : Out.MemOk (execSlti e d a i st) := h.aluI

theorem State.MemOk.execShli (h : st.MemOk) {e d a n} : Out.MemOk (execShli e d a n st) := h.alu1

theorem State.MemOk.execShri (h : st.MemOk) {e d a n} : Out.MemOk (execShri e d a n st) := h.alu1

theorem State.MemOk.execSrai (h : st.MemOk) {e d a n} : Out.MemOk (execSrai e d a n st) := h.alu1

theorem State.MemOk.execLih (h : st.MemOk) {e d i} : Out.MemOk (execLih e d i st) := h.scalarOp

theorem State.MemOk.execAddpc (h : st.MemOk) {e d i} : Out.MemOk (execAddpc e d i st) := h.scalarOp

theorem State.MemOk.execSel (h : st.MemOk) {e d a b c} : Out.MemOk (execSel e d a b c st) := h.scalarOp

theorem State.MemOk.fp2 (h : st.MemOk) {i e d a b f} : Out.MemOk (fp2 i e d a b f st) := h.scalarOp

theorem State.MemOk.execFadd (h : st.MemOk) {e d a b r} : Out.MemOk (execFadd e d a b r st) := h.fp2

theorem State.MemOk.execFsub (h : st.MemOk) {e d a b r} : Out.MemOk (execFsub e d a b r st) := h.fp2

theorem State.MemOk.execFmul (h : st.MemOk) {e d a b r} : Out.MemOk (execFmul e d a b r st) := h.fp2

theorem State.MemOk.execFmin (h : st.MemOk) {e d a b} : Out.MemOk (execFmin e d a b st) := h.fp2

theorem State.MemOk.execFmax (h : st.MemOk) {e d a b} : Out.MemOk (execFmax e d a b st) := h.fp2

theorem State.MemOk.execFcmp (h : st.MemOk) {e d a b c} : Out.MemOk (execFcmp e d a b c st) := h.fp2

theorem State.MemOk.execFfma (h : st.MemOk) {e d a b c r} : Out.MemOk (execFfma e d a b c r st) := h.scalarOp

theorem State.MemOk.execFcvt (h : st.MemOk) {e d a s t r} : Out.MemOk (execFcvt e d a s t r st) := by
  unfold Machine.execFcvt
  refine h.issue fun _ _ h₁ => ?_
  split
  · exact h₁
  · exact trivial

end Sys2Proof.Machine
end

section
/-! # Canonical memory: the step -/

namespace Sys2Proof.Machine

-- One proof at a time: each thread of an asynchronous one reserves a whole stack, and hundreds of them exceed the memory given.
set_option Elab.async false

variable {st : State}

/-! ## Every instruction -/

/-- Every arm by the lemma of its function. -/
theorem State.MemOk.exec (h : st.MemOk) {i : Instr} : Out.MemOk (exec i st) := by
  cases i with
  | add => exact h.execAdd
  | sub => exact h.execSub
  | mul => exact h.execMul
  | mulh => exact h.execMulh
  | mulhz => exact h.execMulhz
  | div => exact h.execDiv
  | divz => exact h.execDivz
  | rem => exact h.execRem
  | remz => exact h.execRemz
  | and => exact h.execAnd
  | or => exact h.execOr
  | xor => exact h.execXor
  | shl => exact h.execShl
  | shr => exact h.execShr
  | sra => exact h.execSra
  | min => exact h.execMin
  | max => exact h.execMax
  | minz => exact h.execMinz
  | maxz => exact h.execMaxz
  | seq => exact h.execSeq
  | sne => exact h.execSne
  | slt => exact h.execSlt
  | sltz => exact h.execSltz
  | clz => exact h.execClz
  | ctz => exact h.execCtz
  | popc => exact h.execPopc
  | addi => exact h.execAddi
  | andi => exact h.execAndi
  | ori => exact h.execOri
  | xori => exact h.execXori
  | slti => exact h.execSlti
  | shli => exact h.execShli
  | shri => exact h.execShri
  | srai => exact h.execSrai
  | lih => exact h.execLih
  | addpc => exact h.execAddpc
  | sel => exact h.execSel
  | fadd => exact h.execFadd
  | fsub => exact h.execFsub
  | fmul => exact h.execFmul
  | fmin => exact h.execFmin
  | fmax => exact h.execFmax
  | fcmp => exact h.execFcmp
  | fcvt => exact h.execFcvt
  | ffma => exact h.execFfma
  | beq => exact h.execBeq
  | bne => exact h.execBne
  | blt => exact h.execBlt
  | bge => exact h.execBge
  | bltz => exact h.execBltz
  | bgez => exact h.execBgez
  | jmp => exact h.execJmp
  | jal => exact h.execJal
  | jr => exact h.execJr
  | jalr => exact h.execJalr
  | csrr => exact h.execCsrr
  | csrw => exact h.execCsrw
  | csrs => exact h.execCsrs
  | csrc => exact h.execCsrc
  | ldl => exact h.execLdl
  | stl => exact h.execStl
  | ldg => exact h.execLdg
  | stg => exact h.execStg
  | ldx => exact h.execLdx
  | stx => exact h.execStx
  | vadd => exact h.execVadd
  | vsub => exact h.execVsub
  | vmul => exact h.execVmul
  | vmin => exact h.execVmin
  | vmax => exact h.execVmax
  | vfma => exact h.execVfma
  | vfms => exact h.execVfms
  | vfnma => exact h.execVfnma
  | vabs => exact h.execVabs
  | vneg => exact h.execVneg
  | vexp2 => exact h.execVexp2
  | vlog2 => exact h.execVlog2
  | vrcp => exact h.execVrcp
  | vrsqrt => exact h.execVrsqrt
  | vand => exact h.execVand
  | vor => exact h.execVor
  | vxor => exact h.execVxor
  | vshl => exact h.execVshl
  | vshr => exact h.execVshr
  | vsra => exact h.execVsra
  | vcmp => exact h.execVcmp
  | vsel => exact h.execVsel
  | vcvt => exact h.execVcvt
  | vtag => exact h.execVtag
  | vmov => exact h.execVmov
  | vbcast => exact h.execVbcast
  | vext => exact h.execVext
  | vins => exact h.execVins
  | vperm => exact h.execVperm
  | vredsum => exact h.execVredsum
  | vredmax => exact h.execVredmax
  | vredmin => exact h.execVredmin
  | vdotBf16 => exact h.execVdotBf16
  | vdotTd8 => exact h.execVdotTd8
  | kset => exact h.execKset
  | kand => exact h.execKand
  | kor => exact h.execKor
  | knot => exact h.execKnot
  | kpop => exact h.execKpop
  | sbindPop => exact h.execSbindPop
  | sbindPush => exact h.execSbindPush
  | sfree => exact h.execSfree
  | ckaccMod => exact h.execCkaccMod
  | ckaccFsum => exact h.execCkaccFsum
  | ckclr => exact h.execCkclr
  | ckrdLo => exact h.execCkrdLo
  | ckrdHi => exact h.execCkrdHi
  | check => exact h.execCheck
  | vld => exact h.execVld
  | vst => exact h.execVst
  | vldg => exact h.execVldg
  | vstg => exact h.execVstg
  | vgath => exact h.execVgath
  | vscat => exact h.execVscat
  | mma => exact h.execMma
  | odset => exact h.execOdset
  | mwin => exact h.execMwin
  | mzero => exact h.execMzero
  | mld => exact h.execMld
  | mst => exact h.execMst
  | mstBf16 => exact h.execMstBf16
  | mstTd8 => exact h.execMstTd8
  | mchk => exact h.execMchk
  | mres => exact h.execMres
  | mscale => exact h.execMscale
  | amoAdd => exact h.execAmoAdd
  | amoAnd => exact h.execAmoAnd
  | amoOr => exact h.execAmoOr
  | amoXor => exact h.execAmoXor
  | amoMin => exact h.execAmoMin
  | amoMax => exact h.execAmoMax
  | amoMinz => exact h.execAmoMinz
  | amoMaxz => exact h.execAmoMaxz
  | amoSwap => exact h.execAmoSwap
  | amoFadd => exact h.execAmoFadd
  | redAdd => exact h.execRedAdd
  | redAnd => exact h.execRedAnd
  | redOr => exact h.execRedOr
  | redXor => exact h.execRedXor
  | redMin => exact h.execRedMin
  | redMax => exact h.execRedMax
  | redMinz => exact h.execRedMinz
  | redMaxz => exact h.execRedMaxz
  | redFadd => exact h.execRedFadd
  | amoc => exact h.execAmoc
  | fence => exact h.execFence
  | qfence => exact h.execQfence
  | acq => exact h.execAcq
  | rel => exact h.execRel
  | rbind => exact h.execRbind
  | icinv => exact h.execIcinv
  | feset => exact h.execFeset
  | feclr => exact h.execFeclr
  | fewait => exact h.execFewait
  | binit => exact h.execBinit
  | benrol => exact h.execBenrol
  | barrive => exact h.execBarrive
  | bexpect => exact h.execBexpect
  | bwait => exact h.execBwait
  | btest => exact h.execBtest
  | cpy => exact h.execCpy
  | cpyx => exact h.execCpyx
  | cpwait => exact h.execCpwait
  | nalloc => exact h.execNalloc
  | nfree => exact h.execNfree
  | nld => exact h.execNld
  | nst => exact h.execNst
  | plink => exact h.execPlink
  | pget => exact h.execPget
  | ppush => exact h.execPpush
  | tend => exact h.execTend
  | commit => exact h.execCommit
  | hspawn => exact h.execHspawn
  | chsend => exact h.execChsend
  | rtset => exact h.execRtset
  | yield => exact h.execYield
  | workq => exact h.execWorkq
  | tver => exact h.execTver
  | tnew => exact h.execTnew
  | trap => exact h.execTrap
  | eret => exact h.execEret
  | tstamp => exact h.execTstamp
  | dscr => exact h.execDscr
  | pwreq => exact h.execPwreq
  | pwrel => exact h.execPwrel
  | stripRefill => exact h.execStripRefill
  | stripPushWrite => exact h.execStripPushWrite
  | blockClear => exact h.execBlockClear
  | powerTokenReturn => exact h.execPowerTokenReturn
  | capChange => exact h.execCapChange
  | cqdoor => exact h.execCqdoor
  | cqEnable => exact h.execCqEnable
  | cqDisable => exact h.execCqDisable
  | xlinv => exact h.execXlinv
  | mxpart => exact h.execMxpart
  | preempt => exact h.execPreempt
  | resume => exact h.execResume
  | lmpool => exact h.execLmpool
  | injArm => exact h.execInjArm
  | twbankArm => exact h.execTwbankArm
  | retire => exact h.execRetire
  | relayBankWrite => exact h.execRelayBankWrite
  | ownclaim => exact h.execOwnclaim
  | owngive => exact h.execOwngive
  | owntake => exact h.execOwntake
  | registerWrite => exact h.execRegisterWrite
  | info => exact h.execInfo
  | ownq => exact h.execOwnq
  | attest => exact h.execAttest
  | fwstage => exact h.execFwstage
  | fwact => exact h.execFwact
  | unitrst => exact h.execUnitrst
  | testst => exact h.execTestst
  | logrd => exact h.execLogrd
  | abort => exact h.execAbort
  | msg => exact h.execMsg
  | lreq => exact h.execLreq
  | ldata => exact h.execLdata
  | lwb => exact h.execLwb
  | inv => exact h.execInv
  | recallPkt => exact h.execRecallPkt
  | wreq => exact h.execWreq
  | areq => exact h.execAreq
  | arsp => exact h.execArsp
  | cpydata => exact h.execCpydata
  | cpydone => exact h.execCpydone
  | qrep => exact h.execQrep
  | ctrl => exact h.execCtrl
  | ack => exact h.execAck
  | portTraining => exact h.execPortTraining
  | hostRead => exact h.execHostRead
  | hostWrite => exact h.execHostWrite
  | unassignedMajorOpcode => exact h.execUnassignedMajorOpcode
  | relayReceive => exact h.execRelayReceive
  | failurePacket => exact h.execFailurePacket
  | sidebandHeartbeat => exact h.execSidebandHeartbeat
  | watchdog => exact h.execWatchdog
  | waittime => exact h.execWaittime
  | kill => exact h.execKill
  | currentContextSelect => exact h.execCurrentContextSelect
  | migration => exact h.execMigration
  | startTask => exact h.execStartTask
  | fill => exact h.execFill
  | resultWrite => exact h.execResultWrite
  | remoteAccess => exact h.execRemoteAccess
  | remoteTargetCheck => exact h.execRemoteTargetCheck
  | atomicPerform => exact h.execAtomicPerform
  | reductionPerform => exact h.execReductionPerform
  | translationWalk => exact h.execTranslationWalk
  | copyDelivery => exact h.execCopyDelivery
  | completionRecord => exact h.execCompletionRecord
  | nextCore => exact h.execNextCore
  | kStep => exact h.execKStep
  | matrixCommandPerform => exact h.execMatrixCommandPerform
  | powerTokenAdmit => exact h.execPowerTokenAdmit
  | nodeRefill => exact h.execNodeRefill
  | ringToBag => exact h.execRingToBag
  | layerReport => exact h.execLayerReport
  | bargeArrival => exact h.execBargeArrival
  | taskPlacement => exact h.execTaskPlacement
  | workqTake => exact h.execWorkqTake
  | workqSet => exact h.execWorkqSet
  | workqRead => exact h.execWorkqRead
  | messageArrival => exact h.execMessageArrival
  | quiescenceSweep => exact h.execQuiescenceSweep
  | launchPlacement => exact h.execLaunchPlacement
  | hedgeSample => exact h.execHedgeSample
  | weirCommit => exact h.execWeirCommit
  | pullComplete => exact h.execPullComplete
  | pullFailed => exact h.execPullFailed
  | coreFailure => exact h.execCoreFailure
  | matrixClusterFailure => exact h.execMatrixClusterFailure
  | layerFailure => exact h.execLayerFailure
  | portFailure => exact h.execPortFailure
  | firmwareCoreFailure => exact h.execFirmwareCoreFailure
  | scanTest => exact h.execScanTest
  | scanPass => exact h.execScanPass
  | scanFail => exact h.execScanFail
  | leaseRenewal => exact h.execLeaseRenewal
  | leaderStop => exact h.execLeaderStop
  | leaderTakeover => exact h.execLeaderTakeover
  | launch => exact h.execLaunch
  | netSet => exact h.execNetSet
  | netDrop => exact h.execNetDrop
  | streamPoll => exact h.execStreamPoll
  | xlinvComplete => exact h.execXlinvComplete
  | bankSwitch => exact h.execBankSwitch
  | handoverTimeout => exact h.execHandoverTimeout
  | ownerLoss => exact h.execOwnerLoss
  | icoalHoldoff => exact h.execIcoalHoldoff
  | msixUnmask => exact h.execMsixUnmask
  | attemptTimeout => exact h.execAttemptTimeout
  | replyTimeout => exact h.execReplyTimeout
  | relayForward => exact h.execRelayForward
  | routeRetry => exact h.execRouteRetry
  | scrub => exact h.execScrub
  | strongCodeSwitch => exact h.execStrongCodeSwitch
  | droopAlarm => exact h.execDroopAlarm
  | stretchEnd => exact h.execStretchEnd
  | halvedIssueEnd => exact h.execHalvedIssueEnd
  | coreGate => exact h.execCoreGate
  | coreWake => exact h.execCoreWake
  | coreReset => exact h.execCoreReset
  | packageReset => exact h.execPackageReset
  | relayRefusal => exact h.execRelayRefusal
  | hostLinkDown => exact h.execHostLinkDown
  | hostLinkTraining => exact h.execHostLinkTraining

/-! ## The choices of a step, and its own order (R2, R387 to R389, R399) -/

theorem Out.MemOk.spend {x : Out} (h : Out.MemOk x) {c n} : Out.MemOk (spend c n x) := by
  unfold Machine.spend
  cases h with
  | next h => exact .next (h.ite h.editCore)
  | fault => exact .fault
  | refused => exact .refused

theorem State.MemOk.issueGroup (h : st.MemOk) {c} : Out.MemOk (st.issueGroup c) := by
  unfold State.issueGroup
  split
  · exact .next h.requestWalk.setCtx
  · exact .next (h.stopFetch h.programFault)
  · next st₁ _ e =>
      have h₁ : st₁.MemOk := h.fetchGroup.of_eq e
      exact .next (h₁.stopFetch h₁.consumePoison)
  · exact .next h.requestLine.setCtx
  · next st₂ _ e =>
      have h₂ : st₂.MemOk := h.fetchGroup.of_eq e
      extract_lets +onlyGivenNames st₃
      have h₃ : st₃.MemOk := h₂
      refine Out.MemOk.spend ?_
      split
      · exact h₃.exec
      · exact h₃.issueIllegal

theorem State.MemOk.issueFrom (h : st.MemOk) {c} : Out.MemOk (st.issueFrom c) := by
  unfold State.issueFrom
  split
  · exact .next h.tryMigrate.tickStamp
  · split
    · exact .next h.takeDue
    · split
      · exact .next h
      · exact h.issueGroup

theorem State.MemOk.issueOn (h : st.MemOk) {cid} : Out.MemOk (st.issueOn cid) := by
  unfold State.issueOn
  split
  · exact (h.select.getD h).rouse.issueFrom
  · exact .next h

theorem State.MemOk.tick (h : st.MemOk) : (st.tick).MemOk := by
  unfold State.tick
  extract_lets +onlyGivenNames t st₁
  have h₁ : st₁.MemOk := h.mapCores rfl rfl fun _ hp => hp
  exact (h₁.foldl fun _ _ h₂ => h₂.modLayer).noteLoss.returnCredits

theorem State.MemOk.pass (h : st.MemOk) : (st.pass).MemOk := by
  unfold State.pass
  split
  · exact h.tick
  · exact h

/-- The first event that is enabled. -/
theorem State.MemOk.tryFirst (h : st.MemOk) {l} : OptMemOk (tryFirst l st) := by
  induction l with
  | nil => exact trivial
  | cons x l ih =>
    unfold Machine.tryFirst
    split
    · next e =>
      have h₁ : State.MemOk { st with item := x.2, focus := none } := h
      exact h₁.exec.of_next e
    · exact ih

theorem State.MemOk.proceed (h : st.MemOk) : Out.MemOk (st.proceed) := by
  unfold State.proceed
  split
  · next st₁ e =>
      have h₁ : st₁.MemOk := h.tryFirst.of_eq e
      exact .next h₁
  · split
    · refine State.MemOk.issueOn ?_
      exact h
    · exact .next (h.pass.of_eq rfl rfl)

/-- The choices of the environment (R2). -/
theorem State.MemOk.choose (h : st.MemOk) {c} : Out.MemOk (st.choose c) := by
  unfold State.choose
  split
  · next i n =>
    split
    · next e =>
      have h₁ : State.MemOk { st with item := n, focus := none } := h
      exact .next (h₁.exec.of_next e)
    · exact .next h
  · exact h.issueOn
  · exact .next h.pass
  · exact .next h.flushLine
  · exact .next (h.editCore (f := fun k => { k with icache := _ }))
  · exact .next h.dropPeerLine
  · exact .next h.modLayer
  · refine .next (State.MemOk.modCore h _ fun k hk => ?_)
    split
    · exact iteInduction (motive := fun k : Core => k.lm.wf = true) (fun _ => Core.wf_askNodes hk) fun _ => hk
    · exact hk
  · refine .next (iteInduction (motive := State.MemOk) (fun _ => ?_) fun _ => h)
    exact h
  · exact .next h.upset

/-! ## One step -/

/-- A step is a choice of the schedule, or the model's own order. -/
theorem State.MemOk.step (h : st.MemOk) : Out.MemOk (step st) := by
  unfold Machine.step
  split
  · refine State.MemOk.choose ?_
    exact h
  · exact h.proceed

/-- Settles O8: the answer of a step carries canonical memory (`State.MemOk.step`). -/
theorem stepKeepsMemoryCanonical : Obligations.StepKeepsMemoryCanonical :=
  fun _ _ h e => h.step.of_next e

end Sys2Proof.Machine
end

section
/-! # Retirement, scalar operands, and what a group needs to issue -/

namespace Sys2Proof.Machine

/-! ## Retirement (R25, R36) -/

/-- The work of a retired group is credited to its tenant. -/
theorem State.tenant_retire (s : State) (c : Ctx) (n t : Nat) (pc : BitVec 57) :
    (s.retire c n pc).tenant t = if t = c.tenant then (s.tenant c.tenant).addWork s.time n c.backup else s.tenant t :=
  State.tenant_modTenant (s.setCtx _) c.tenant t fun x => x.addWork s.time n c.backup

/-- Settles O10: one write of the context, one of its tenant, and the event counter. -/
theorem retirement : Obligations.Retirement := by
  intro s c e
  refine ⟨s.retire_only c _ _, s.ctx_retire_other c _ _, s.ctx_retire c _ _, ?_, fun t ht => ?_⟩
  · exact (s.tenant_retire c _ _ _).trans (if_pos rfl)
  · exact (s.tenant_retire c _ _ _).trans (if_neg ht)

/-! ## Scalar operands (R16, R79, R92) -/

theorem Ctx.rs_wr (c : Ctx) (d r : R5) (v : W64) : (c.wr d v).rs r = if r = 0 then 0 else if r = d then v else c.rs r := by
  by_cases h0 : r = 0
  · rw [h0, if_pos rfl, Ctx.rs_zero]
  · rw [if_neg h0]
    by_cases hd : r = d
    · have hz : r.toNat ≠ 0 := fun h => h0 (BitVec.eq_of_toNat_eq h)
      rw [if_pos hd, ← hd]
      exact c.getS_setS_same r.toNat v r.isLt hz
    · rw [if_neg hd]
      exact c.getS_setS_other d.toNat r.toNat v fun h => hd (BitVec.eq_of_toNat_eq h)

/-- A written scalar register changes the register file and nothing else (R16). -/
theorem Ctx.setS_eq (c : Ctx) (r : Nat) (v : W64) : c.setS r v = { c with s := (c.setS r v).s } := by
  unfold Ctx.setS; split <;> rfl

/-- IMM words above a field: the value of the whole is that of the words times the field's range, plus the field (R92). -/
theorem toInt_signExtend_append {n w : Nat} (p : BitVec n) (f : BitVec w) (hn : n ≠ 0) (h : n + w ≤ 64) :
    ((p ++ f).signExtend 64).toInt = p.toInt * 2 ^ w + f.toNat := by
  rw [BitVec.toInt_signExtend_of_le h, BitVec.toInt_append]
  simp [hn, mul_comm]

/-- Settles O11. -/
theorem scalarOperands : Obligations.ScalarOperands := by
  refine ⟨fun c d r v => ⟨c.rs_wr d r v, c.setS_eq _ v⟩, fun w hw f p q => ?_⟩
  have hw64 : w ≤ 20 := by simp only [List.mem_cons, List.not_mem_nil, or_false] at hw; omega
  refine ⟨BitVec.toInt_signExtend_of_le (by omega), toInt_signExtend_append p f (by decide) (by omega), ?_⟩
  refine (toInt_signExtend_append (p ++ q) f (by decide) (by omega)).trans ?_
  have hpq : (p ++ q).toInt = p.toInt * 2 ^ 22 + q.toNat := by rw [BitVec.toInt_append]; simp [mul_comm]
  rw [hpq]

/-! ## Registers that await results (R111) -/

theorem awaitS_mono {l l' : List Nat} {s : State} {c : Ctx} (h : l ⊆ l') (b : awaitS l' s c = false) : awaitS l s c = false := by
  simp only [awaitS, List.any_eq_false, Bool.and_eq_true, List.any_eq_true, not_and, not_exists] at b ⊢
  exact fun a ha hu r hr => b a ha hu r (h hr)

theorem awaitV_mono {l l' : List Nat} {s : State} {c : Ctx} (h : l ⊆ l') (b : awaitV l' s c = false) : awaitV l s c = false := by
  simp only [awaitV, Bool.or_eq_false_iff, List.any_eq_false, Bool.and_eq_true, List.any_eq_true, not_and, not_exists] at b ⊢
  exact ⟨fun a ha hu r hr => b.1 a ha hu r (h hr), fun m hm hu r hr => b.2 m hm hu r (h hr)⟩

/-- What names fewer registers is held less often. -/
theorem blocks_mono {x x' v v' : List Nat} {s : State} {c : Ctx} (hx : x ⊆ x') (hv : v ⊆ v') (b : blocks x' v' s c = false) :
    blocks x v s c = false := by
  simp only [blocks, Bool.or_eq_false_iff] at b ⊢
  exact ⟨⟨b.1.1, awaitS_mono hx b.1.2⟩, awaitV_mono hv b.2⟩

theorem Runs.mono {x x' v v' : List Nat} {s : State} {c : Ctx} {e : List Ext} (h : Runs s c e x' v') (hx : x ⊆ x' := by simp)
    (hv : v ⊆ v' := by simp) : Runs s c e x v :=
  ⟨h.1, h.2.1, blocks_mono hx hv h.2.2⟩

/-- An explicit yield point does what its body says (R36). -/
theorem issueFree_yields {s : State} {c : Ctx} {e : List Ext} {x : List Nat} {w : W32} {body : State → Ctx → Eff} (h : Yields s c x) :
    issueFree e w (blocks x []) body s = .next (settle s c (groupWords e) w false (body s c)) := by
  simp only [issueFree, issueWith, issueWords_ready h.1 h.2, Bool.not_true, Bool.false_and]

/-- A group whose registers are free does what its body says, but for the watchdog (R36). -/
theorem issue_ready {s : State} {c : Ctx} {e : List Ext} {x v : List Nat} {w : W32} {body : State → Ctx → Eff} (h : s.issuer = some c)
    (b : blocks x v s c = false) :
    issue e w (blocks x v) body s = .next (settle s c (groupWords e) w (decide (c.limit < c.used + groupWords e)) (body s c)) := by
  simp only [issue, issueWith, issueWords_ready h b, Bool.not_false, Bool.true_and]

theorem Runs.fits {s : State} {c : Ctx} {e : List Ext} {x v : List Nat} (h : Runs s c e x v) : decide (c.limit < c.used + groupWords e) = false :=
  decide_eq_false (Nat.not_lt.2 h.2.1)

/-- A body that faults faults (R43). -/
theorem issue_faults {s : State} {c : Ctx} {e : List Ext} {x v : List Nat} {w : W32} {body : State → Ctx → Eff} {code detail : Nat}
    {xval : Option W64} (h : Runs s c e x v) (b : body s c = .fault code detail xval) :
    issue e w (blocks x v) body s = .next (s.programFault c code detail c.pc (xval.getD (w.zeroExtend 64))) := by
  rw [issue_runs h, b, settle_fault]

/-- A body that completes leaves the state behind its group. -/
theorem issue_done {s u : State} {c c' : Ctx} {e : List Ext} {x v : List Nat} {w : W32} {body : State → Ctx → Eff}
    (h : Runs s c e x v) (b : body s c = .done u c') :
    issue e w (blocks x v) body s = .next (u.past c e c') := by
  rw [issue_runs h, b]; rfl

end Sys2Proof.Machine
end

section
/-! # Local memory: the faults of `ldl` and `stl`, and their accesses -/

namespace Sys2Proof.Machine

/-! ## Checks (R41) -/

@[simp] theorem checked_nil (x : Eff) : checked [] x = x := rfl

@[simp] theorem checked_cons (b : Bool) (code : Nat) (v : Option W64) (l : List (Bool × Nat × Option W64)) (x : Eff) :
    checked ((b, code, v) :: l) x = if b then .fault code 0 v else checked l x := rfl

/-- Where no condition holds, the checks pass. -/
theorem checked_pass {l : List (Bool × Nat × Option W64)} {x : Eff} (h : ∀ p ∈ l, p.1 = false) : checked l x = x := by
  induction l with
  | nil => rfl
  | cons p l ih =>
    obtain ⟨hp, hl⟩ := List.forall_mem_cons.1 h
    rw [checked, hp, if_neg Bool.false_ne_true, ih hl]

/-- A heavy task that stays inside its lease raises no `SIDEEFF` (R38). -/
theorem Ctx.mayTouch.inLease {c : Ctx} {a n : Nat} (h : c.mayTouch a n) : ¬ (c.heavy = true ∧ c.owns a n = false) :=
  fun ⟨hh, ho⟩ => Bool.false_ne_true (ho.symm.trans (h hh))

theorem beyondLocal_eq (a n : Nat) : beyondLocal a n = decide (0x80000 < a + n) := rfl

/-! ## `ldl` and `stl` (R132, R133) -/

/-- What `ldl` does at `x` behind its checks. -/
def State.loadLocal (s : State) (c : Ctx) (d : R5) (x n : Nat) (m : BitVec 2) : Eff :=
  let k := s.core c.start
  if 2 ≤ m.toNat && !k.granulesAre [x / 16] true then .park s c (.granules [x / 16] true)
  else if k.poisoned x n then .poison s (x / 8 * 8)
  else .done (if m == 3 then s.setGranules c.start [x / 16] false else s) (c.wr d (extendLoad n (m == 1) (k.lm.readN x n)))

/-- What `stl` does at `x` behind its checks. -/
def State.storeLocal (s : State) (c : Ctx) (d : R5) (x n : Nat) (m : BitVec 2) : Eff :=
  if m == 1 && !(s.core c.start).granulesAre [x / 16] false then .park s c (.granules [x / 16] false)
  else if s.matrixReads c.start [(x, n)] then .held s c
  else
    let u := s.modCore c.start fun k => k.write x (bytesOf n (c.rs d).toNat)
    .done (if m == 1 then u.setGranules c.start [x / 16] true else u) c

section forms
variable {s : State} {c : Ctx} {e : List Ext} {d a : R5} {sz m : BitVec 2} {o : BitVec 11} {n x : Nat} (h : s.issuer = some c)
  (hb : blocks [d.toNat, a.toNat] [] s c = false) (hn : sizeBytes sz = n) (hx : effAddr c e a o n = x)
include h hb hn hx

theorem exec_ldl : exec (.ldl e d a sz m o) s =
    .next (settle s c (groupWords e) (wordOf (.ldl e d a sz m o)) (decide (c.limit < c.used + groupWords e))
      (checked [(c.heavy && m == 3 && !c.owns x n, 0x08, none), (x % n != 0, 0x05, addrVal x), (beyondLocal x n, 0x06, none)]
        (localAccess s c (s.loadLocal c d x n m)))) := by
  subst hx hn
  show execLdl e d a sz m o s = _
  exact issue_ready h hb

theorem exec_stl : exec (.stl e d a sz m o) s =
    .next (settle s c (groupWords e) (wordOf (.stl e d a sz m o)) (decide (c.limit < c.used + groupWords e))
      (checked [(c.heavy && !c.owns x n, 0x08, none), (x % n != 0, 0x05, addrVal x), (beyondLocal x n, 0x06, none),
          ((s.core c.start).guarded c.uid x n, 0x09, none), ((s.core c.start).tagged x n, 0x0C, none)]
        (localAccess s c (s.storeLocal c d x n m)))) := by
  subst hx hn
  show execStl e d a sz m o s = _
  exact issue_ready h hb

end forms

/-- Settles O19: the checks in their order, each met when those before it pass. -/
theorem localFaults : Obligations.LocalFaults := by
  intro s c e d a sz m o hr n x k fault word at' ld st
  have hld : exec ld s = _ := exec_ldl (n := n) (x := x) hr.1 hr.2.2 rfl rfl
  have hst : exec st s = _ := exec_stl (n := n) (x := x) hr.1 hr.2.2 rfl rfl
  rw [hr.fits, beyondLocal_eq] at hld hst
  have touch (h : c.mayTouch x n) : ¬ ((c.heavy = true ∧ m = 3#2) ∧ c.owns x n = false) := fun g => h.inLease ⟨g.1.1, g.2⟩
  refine ⟨fun hh ho => ⟨?_, fun hm => ?_⟩, fun ht ha => ?_, fun ht ha hl => ?_, fun ht ha hl hg => ?_, fun ht ha hl hg htag => ?_⟩
  · simp [fault, hst, hh, ho, word, st]
  · exact hld.trans (by rw [hh, ho, beq_iff_eq.2 hm]; rfl)
  · simp [fault, hst, hld, touch ht, ht.inLease, ha, addrVal, at']
  · simp [fault, hst, hld, touch ht, ht.inLease, ha, hl, word, st, ld]
  · simp [fault, hst, ht.inLease, ha, Nat.not_lt.2 hl, hg, word, k, st]
  · simp [fault, hst, ht.inLease, ha, Nat.not_lt.2 hl, hg, htag, word, k, st]

/-! ## What they complete with -/

/-- A loaded value: its number when its sign bit is clear or it is zero-extended, and else less the range (R131). -/
theorem extendLoad_eq {n v : Nat} (zx : Bool) (hv : v < 2 ^ (8 * n)) :
    extendLoad n zx v = BitVec.ofInt 64 (if zx || decide (v < 2 ^ (8 * n - 1)) then (v : Int) else (v : Int) - 2 ^ (8 * n)) := by
  cases zx
  · simp [extendLoad, signed, Nat.mod_eq_of_lt hv]
  · simp [extendLoad, Nat.mod_eq_of_lt hv]

theorem Mem.readN_lt_two_pow (m : Mem) (a n : Nat) : m.readN a n < 2 ^ (8 * n) := by
  rw [pow_mul]; exact m.readN_lt a n

@[simp] theorem State.core_tickStamp (s : State) (q : Nat) : s.tickStamp.core q = s.core q := rfl

/-- Taking a context out of its core's place as current changes that place only. -/
theorem State.core_uncurrent (s : State) (c : Ctx) (q : Nat) :
    (s.uncurrent c).core q = { s.core q with current := ((s.uncurrent c).core q).current } := by
  rw [State.uncurrent, State.core_modCore]
  split
  · next h => rw [h]
  · rfl

/-- A context that parks at its instruction changes itself and its core's current context (R28, R35, R133). -/
theorem State.parksAt_parkCtx (s : State) (c : Ctx) (wt : Wait) (w : W32) :
    s.parksAt (s.parkCtx (s.atYield c 4096 false) wt w c.pc) c wt := by
  refine ⟨⟨_, Map.find_put_same _ _ _, rfl, rfl, rfl, rfl, rfl, rfl, rfl, rfl, rfl, rfl⟩, fun q => ?_, rfl, fun j hj => Map.find_put_other _ _ hj⟩
  rw [State.parkCtx, State.core_tickStamp, State.core_uncurrent]
  exact ⟨rfl, rfl⟩

/-- A register names a core (R136). -/
theorem noUnit_eq_false {v : W64} {q : Nat} (hq : v.toNat = q) (hv : validCid q = true) (hlt : q < 4096) : noUnit v = false := by
  simp [noUnit, hq, hv, hlt]

theorem Core.granulesAre_singleton (k : Core) (g : Nat) (full : Bool) : k.granulesAre [g] full = (k.full.contains g == full) := by
  simp [Core.granulesAre]

/-- An access of local memory by a context without an acquire under way completes. -/
theorem settle_localAccess_done {s u : State} {c c' : Ctx} {e : List Ext} {w : W32} (h : s.acquirePending c.uid = false) :
    settle s c (groupWords e) w false (localAccess s c (.done u c')) = u.pastBank c e c' := by
  rw [localAccess_free _ h, atBank_done, settle_done]; rfl

/-! ## What they complete with -/

section ends
variable {s : State} {c : Ctx} {e : List Ext} {d a b : R5} {sz m : BitVec 2} {o : BitVec 11} {n x : Nat}

/-- The checks of `ldl` pass for an aligned access inside local memory, which in mode 3 stays inside the lease. -/
theorem checked_ldl {go : Eff} (hal : x % n = 0) (hin : x + n ≤ 0x80000) (ht : m = 3 → c.mayTouch x n) :
    checked [(c.heavy && m == 3 && !c.owns x n, 0x08, none), (x % n != 0, 0x05, addrVal x), (beyondLocal x n, 0x06, none)] go = go := by
  refine checked_pass ?_
  have hlease (hm : m = 3#2) := (ht hm).inLease
  simp [hal, beyondLocal_eq, hin]
  exact fun hh hm => by simpa [hh] using hlease hm

/-- The checks of `stl` pass for one that touches no lease, ring or barrier word either. -/
theorem checked_stl {go : Eff} {k : Core} (hal : x % n = 0) (hin : x + n ≤ 0x80000) (ht : c.mayTouch x n) (hg : k.guarded c.uid x n = false)
    (htag : k.tagged x n = false) :
    checked [(c.heavy && !c.owns x n, 0x08, none), (x % n != 0, 0x05, addrVal x), (beyondLocal x n, 0x06, none),
      (k.guarded c.uid x n, 0x09, none), (k.tagged x n, 0x0C, none)] go = go := by
  refine checked_pass ?_
  simp [hal, beyondLocal_eq, hin, hg, htag]
  exact ht

/-- A load of bytes whose granule is as its mode asks (R133). -/
theorem State.loadLocal_done (hp : (s.core c.start).poisoned x n = false)
    (hfull : 2 ≤ m.toNat → (s.core c.start).full.contains (x / 16) = true) :
    s.loadLocal c d x n m = .done (if m = 3 then s.setGranules c.start [x / 16] false else s)
      (c.wr d (extendLoad n (m == 1) ((s.core c.start).lm.readN x n))) := by
  rw [State.loadLocal, Core.granulesAre_singleton]
  by_cases h2 : 2 ≤ m.toNat
  · simp only [h2, hfull h2, hp, beq_iff_eq]; rfl
  · simp only [h2, hp, beq_iff_eq]; rfl

theorem State.loadLocal_park (h2 : 2 ≤ m.toNat) (hempty : (s.core c.start).full.contains (x / 16) = false) :
    s.loadLocal c d x n m = .park s c (.granules [x / 16] true) := by
  rw [State.loadLocal, Core.granulesAre_singleton, hempty]
  simp only [h2]; rfl

/-- A store to bytes whose granule is as its mode asks, and which no matrix command has still to read (R133, R187). -/
theorem State.storeLocal_done (hq : s.matrixReads c.start [(x, n)] = false)
    (hempty : m = 1 → (s.core c.start).full.contains (x / 16) = false) :
    s.storeLocal c d x n m = .done
      (if m = 1 then (s.modCore c.start fun k => k.write x (bytesOf n (c.rs d).toNat)).setGranules c.start [x / 16] true
        else s.modCore c.start fun k => k.write x (bytesOf n (c.rs d).toNat)) c := by
  rw [State.storeLocal, Core.granulesAre_singleton]
  by_cases h1 : m = 1
  · simp only [h1, hempty h1, hq]; rfl
  · simp only [h1, hq, beq_eq_false_iff_ne.2 h1]; rfl

theorem State.storeLocal_park (hfull : (s.core c.start).full.contains (x / 16) = true) :
    s.storeLocal c d x n 1 = .park s c (.granules [x / 16] false) := by
  rw [State.storeLocal, Core.granulesAre_singleton, hfull]; rfl

/-- `ldx` of the own core completes as `ldl` does (R136). -/
theorem exec_ldx_own (hr : RunsLocal s c e [d.toNat, a.toNat, b.toNat] []) (hn : sizeBytes sz = n) (hal : (c.rs b).toNat % n = 0)
    (hin : (c.rs b).toNat + n ≤ 0x80000) (hp : (s.core c.start).poisoned (c.rs b).toNat n = false) (hs : (c.rs a).toNat = c.start)
    (hv : validCid c.start = true) (hlt : c.start < 4096) :
    exec (.ldx e d a b m sz) s =
      .next (s.pastBank c e (c.wr d (extendLoad n (m == 1) ((s.core c.start).lm.readN (c.rs b).toNat n)))) := by
  show execLdx e d a b m sz s = _
  refine issue_done hr.1 ?_
  subst hn
  simp [noUnit_eq_false hs hv hlt, hal, beyondLocal_eq, hin, afterAcquires, hr.2, hs, hp]

/-- `stx` of the own core completes as `stl` does (R136). -/
theorem exec_stx_own (hr : RunsLocal s c e [d.toNat, a.toNat, b.toNat] []) (hn : sizeBytes sz = n) (hx : (c.rs b).toNat = x) (hal : x % n = 0)
    (hin : x + n ≤ 0x80000) (hh : c.heavy = false) (hs : (c.rs a).toNat = c.start) (hv : validCid c.start = true) (hlt : c.start < 4096)
    (hg : (s.core c.start).guarded c.uid x n = false) (htag : (s.core c.start).tagged x n = false)
    (hq : s.matrixReads c.start [(x, n)] = false) :
    exec (.stx e d a b sz) s = .next ((s.modCore c.start fun k => k.write x (bytesOf n (c.rs d).toNat)).pastBank c e c) := by
  show execStx e d a b sz s = _
  refine issue_done hr.1 ?_
  subst hn hx
  simp [noUnit_eq_false hs hv hlt, hal, beyondLocal_eq, hin, localAccess, afterAcquires, hr.2, hs, hh, hg, htag, hq]

end ends

/-! ## What a store leaves (R131) -/

theorem bytesOf_getElem (n v j : Nat) (h : j < (bytesOf n v).length) : (bytesOf n v)[j] = BitVec.ofNat 8 (v / 2 ^ (8 * j)) := by
  induction n generalizing v j with
  | zero => simp [bytesOf] at h
  | succ n ih =>
    cases j with
    | zero => simp [bytesOf]
    | succ j =>
      simp only [bytesOf, List.getElem_cons_succ, ih]
      rw [Nat.div_div_eq_div_mul, Nat.mul_succ, Nat.add_comm, pow_add]
      rfl

/-- The answer of the bank changes no core and no memory (R297). -/
@[simp] theorem State.core_pastBank (s : State) (c c' : Ctx) (e : List Ext) (q : Nat) : (s.pastBank c e c').core q = s.core q := by
  rcases s.awaitBank_cases c' with ⟨_, h⟩ | ⟨_, a, _, _, _, h⟩ <;> rw [State.pastBank, h] <;> rfl

@[simp] theorem State.mem_pastBank (s : State) (c c' : Ctx) (e : List Ext) : (s.pastBank c e c').mem = s.mem := by
  rcases s.awaitBank_cases c' with ⟨_, h⟩ | ⟨_, a, _, _, _, h⟩ <;> rw [State.pastBank, h] <;> rfl

/-- Granules change no byte. -/
theorem State.lm_setGranules (s : State) (i : Nat) (g : List Nat) (full : Bool) (q : Nat) :
    ((s.setGranules i g full).core q).lm = (s.core q).lm := by
  unfold State.setGranules
  split
  · rfl
  · rw [State.wakeGranules, State.wakeWhere_core, State.core_modCore]
    split
    · next h => rw [h]; rfl
    · rfl

/-- A store of bytes `l` at `x`, with the granules that it fills, writes them and nothing else. -/
theorem State.stored_bytes {s u t : State} {i x : Nat} {l : List Byte} (hwf : (s.core i).lm.wf = true)
    (hu : u = s.modCore i fun k => k.write x l) (ht : t = u ∨ ∃ g full, t = u.setGranules i g full) :
    (∀ j (h : j < l.length), (t.core i).lm.read (x + j) = l[j]) ∧
    (∀ y, y < x ∨ x + l.length ≤ y → (t.core i).lm.read y = (s.core i).lm.read y) ∧ (∀ q, q ≠ i → t.core q = s.core q) ∧ t.mem = s.mem := by
  have hlm : (t.core i).lm = (s.core i).lm.writeBytes x l := by
    have hw : (u.core i).lm = (s.core i).lm.writeBytes x l := by rw [hu, State.core_modCore, if_pos rfl]; rfl
    rcases ht with rfl | ⟨g, full, rfl⟩
    · exact hw
    · rw [State.lm_setGranules, hw]
  have honly : u.onlyCore t i := by
    rcases ht with rfl | ⟨g, full, rfl⟩
    · exact ⟨rfl, fun _ _ => rfl⟩
    · exact State.setGranules_only _ _ _ _
  refine ⟨fun j h => ?_, fun y hy => ?_, fun q hq => ?_, ?_⟩
  · rw [hlm, Mem.read_writeBytes_inside _ _ _ _ hwf h]
  · rw [hlm, Mem.read_writeBytes_outside _ _ _ _ hwf hy]
  · rw [honly.2 q hq, hu, State.core_modCore, if_neg hq]
  · rw [honly.1, hu]; rfl

/-- Settles O18. -/
theorem localAccess_holds : Obligations.LocalAccess := by
  refine ⟨?_, ?_, ?_, ?_⟩
  · intro s c e d a b sz m o hr n k value
    have hval (x : Nat) (zx : Bool) : value x zx = extendLoad n zx (k.lm.readN x n) := (extendLoad_eq zx (k.lm.readN_lt_two_pow x n)).symm
    have hrun : Runs s c e [d.toNat, a.toNat] [] := Runs.mono hr.1
    refine ⟨?_, ?_⟩
    · intro x hal hin hp hfull ht
      rw [exec_ldl (n := n) (x := x) hrun.1 hrun.2.2 rfl rfl, hrun.fits, checked_ldl hal hin ht, State.loadLocal_done hp hfull, hval]
      exact congrArg _ (settle_localAccess_done hr.2)
    · intro x hal hin hp hs hv hlt
      rw [hval]
      exact exec_ldx_own hr rfl hal hin hp hs hv hlt
  · intro s c e d a sz m o hr hacq n x ht hal hin
    refine ⟨?_, fun hg htag => ?_⟩
    · rw [exec_ldl (n := n) (x := x) hr.1 hr.2.2 rfl rfl, checked_ldl hal hin fun _ => ht, localAccess_held _ hacq]; rfl
    · rw [exec_stl (n := n) (x := x) hr.1 hr.2.2 rfl rfl, checked_stl hal hin ht hg htag, localAccess_held _ hacq]; rfl
  · intro s c e d a sz m o hy hacq n x k hal hin
    refine ⟨fun h2 ht hempty => ⟨_, ?_, s.parksAt_parkCtx c _ (wordOf (.ldl e d a sz m o))⟩,
      fun h1 ht hg htag hfull => ⟨_, ?_, s.parksAt_parkCtx c _ (wordOf (.stl e d a sz m o))⟩⟩
    · rw [exec_ldl (n := n) (x := x) hy.1 hy.2 rfl rfl, checked_ldl hal hin ht, localAccess_free _ hacq, State.loadLocal_park h2 hempty]
      rfl
    · subst h1
      rw [exec_stl (n := n) (x := x) hy.1 hy.2 rfl rfl, checked_stl hal hin ht hg htag, localAccess_free _ hacq, State.storeLocal_park hfull]
      rfl
  · intro s c e d a b sz m o i x hr n k hform hal hin hst hwf u
    obtain ⟨hfree, hq⟩ := hst
    obtain ⟨hg, htag⟩ := hfree (x, n) (List.mem_singleton_self _)
    have hexec : exec i s = .next ((if m = 1 then u.setGranules c.start [x / 16] true else u).pastBank c e c) := by
      rcases hform with ⟨rfl, hx, ht, hempty⟩ | ⟨rfl, hx, rfl, hh, hs, hv, hlt⟩
      · have hrun : Runs s c e [d.toNat, a.toNat] [] := Runs.mono hr.1
        rw [exec_stl (n := n) (x := x) hrun.1 hrun.2.2 rfl hx.symm, hrun.fits, checked_stl hal hin ht hg htag, State.storeLocal_done hq hempty]
        exact congrArg _ (settle_localAccess_done hr.2)
      · exact exec_stx_own hr rfl hx.symm hal hin hh hs hv hlt hg htag hq
    have hfull : (if m = 1 then u.setGranules c.start [x / 16] true else u) = u ∨
        ∃ g full, (if m = 1 then u.setGranules c.start [x / 16] true else u) = u.setGranules c.start g full := by
      split
      · exact .inr ⟨_, _, rfl⟩
      · exact .inl rfl
    obtain ⟨hinside, houtside, hcores, hmem⟩ := State.stored_bytes hwf (show u = _ from rfl) hfull
    refine ⟨_, hexec, rfl, ?_⟩
    simp only [State.core_pastBank, State.mem_pastBank]
    rw [bytesOf_length] at houtside
    refine ⟨fun j hj => ?_, houtside, hcores, hmem⟩
    rw [hinside j (by rwa [bytesOf_length]), bytesOf_getElem]

end Sys2Proof.Machine
end

section
/-! # Traps, and the frame of the scalar register forms -/

namespace Sys2Proof.Machine

/-! ## `trap` and `eret` (R42, R264) -/

section forms
variable {s : State} {c : Ctx} {e : List Ext} {a n : R5}

/-- A `trap` retires, and its context takes the trap behind its group. -/
theorem exec_trap (h : Runs s c e [a.toNat] []) {y : Ctx} (hy : (s.past c e c).ctx c.key = some y) :
    exec (.trap e a n) s = .next ((s.past c e c).takeTrap y 0x19 n.toNat (c.rs a) c.pc (c.nextPc e)) := by
  show execTrap e a n s = _
  refine (issue_runs h).trans (congrArg _ ?_)
  show (match (s.past c e c).ctx c.key with
    | some c'' => (s.past c e c).takeTrap c'' 0x19 n.toNat (c.rs a) c.pc (c.nextPc e)
    | none => s.past c e c) = _
  rw [hy]

theorem exec_eret_jumps (h : Runs s c e [] []) (hi : c.intrap = true) :
    exec (.eret e) s = .next (s.jumped e { c with intrap := false } (c.xpc.setWidth 57)) := by
  show execEret e s = _
  refine (issue_runs h).trans ?_
  simp only [Ctx.returnFromTrap, hi, if_true, settle_jump]
  rfl

theorem exec_eret_faults (h : Runs s c e [] []) (hi : c.intrap = false) :
    exec (.eret e) s = .next (s.programFault c 0x01 5 c.pc ((wordOf (.eret e)).zeroExtend 64)) := by
  show execEret e s = _
  refine issue_faults (xval := none) h ?_
  simp [Ctx.returnFromTrap, hi]

/-- The address behind a group, as a register holds it. -/
theorem Ctx.nextPc_zeroExtend (c : Ctx) (e : List Ext) :
    (c.nextPc e).zeroExtend 64 = BitVec.ofNat 64 ((c.pc.toNat + 4 * (e.length + 1)) % 2 ^ 57) := by
  apply BitVec.eq_of_toNat_eq
  simp [Ctx.nextPc, groupWords]

end forms

/-- Settles O40. -/
theorem trapForms : Obligations.TrapForms := by
  refine ⟨fun s c e a n hr => ⟨fun hi hh => ?_, exec_eret_jumps hr.mono⟩, fun s c e a n w hr => ⟨fun y hy => ?_, exec_eret_faults hr.mono, ?_⟩⟩
  · refine ⟨_, exec_trap hr (s.ctx_retire c _ _), ?_⟩
    have hh' : (c.xhand == 0) = false := by simpa using hh
    rw [State.takeTrap, hi, if_neg Bool.false_ne_true, hh', if_neg Bool.false_ne_true, Ctx.nextPc_zeroExtend]
    exact State.ctx_setCtx_same _ _
  · have hsame : y.intrap = c.intrap ∧ y.xhand = c.xhand := by
      cases hy.symm.trans (s.ctx_retire c _ _)
      exact ⟨rfl, rfl⟩
    rw [exec_trap hr hy, State.takeTrap, hsame.1, hsame.2]
    exact ⟨fun hi => by simp [hi], fun hi hh => by simp [hi, hh]⟩
  · show execUnassignedMajorOpcode e w s = _
    have hb : awaitCheck s c = false := by
      have := hr.2.2
      simp only [blocks, Bool.or_eq_false_iff] at this
      exact this.1.1
    rw [execUnassignedMajorOpcode, issue, issueWith, issueWords_ready hr.1 hb, hr.fits]
    rfl

/-! ## Scalar register forms (R16, R113) -/

/-- What the frame of a scalar form asks of the state `t` behind it: register `d`, the pc, work, scheduling and the flags `fl` may differ. -/
def State.scalarFrame (s t : State) (c : Ctx) (d : R5) (fl : BitVec 6) : Prop :=
  s.onlyContexts t ∧ s.othersKept t c.key ∧
    ∃ c', t.ctx c.key = some c' ∧ c.scalarOnly c' ∧ (∀ r : R5, r ≠ d → c'.rs r = c.rs r) ∧
      (c'.fpflags = c.fpflags ∨ c'.fpflags = c.fpflags ||| fl)

theorem Ctx.scalarOnly.key {c c' : Ctx} (h : c.scalarOnly c') : c'.key = c.key := by
  unfold Ctx.scalarOnly at h; rw [h]; rfl

/-- Retirement changes nothing beside these fields. -/
theorem Ctx.scalarOnly.retired {c c' : Ctx} (h : c.scalarOnly c') (pc : BitVec 57) (rwc used n : Nat) :
    c.scalarOnly { c' with pc := pc, rwc := rwc, used := used, held := false, place := none, woken := [], issuedAt := n } := by
  unfold Ctx.scalarOnly at h ⊢; rw [h]

theorem Ctx.scalarOnly_wr (c : Ctx) (d : R5) (v : W64) : c.scalarOnly (c.wr d v) := by
  unfold Ctx.wr Ctx.setS; split <;> rfl

/-- The context `c'` is `c` but for register `d`, the pc, work, scheduling, and the flags `fl`, which it gains. -/
structure Ctx.WritesScalar (c c' : Ctx) (d : R5) (fl : BitVec 6) : Prop where
  only : c.scalarOnly c'
  others : ∀ r : R5, r ≠ d → c'.rs r = c.rs r
  flags : c'.fpflags = c.fpflags ||| fl

theorem Ctx.writesScalar_raise (c : Ctx) (d : R5) (v : W64) (f : Nat) : c.WritesScalar ((c.wr d v).raise f) d (BitVec.ofNat 6 f) where
  only := by
    have h := c.scalarOnly_wr d v
    unfold Ctx.scalarOnly Ctx.raise at *; rw [h]
  others r hr := by
    rw [Ctx.rs, Ctx.getS_raise]
    exact c.getS_setS_other _ _ v fun h => hr (BitVec.eq_of_toNat_eq h)
  flags := congrArg (· ||| _) (c.setS_fpflags _ _)

theorem Ctx.writesScalar_wr (c : Ctx) (d : R5) (v : W64) : c.WritesScalar (c.wr d v) d 0 where
  only := c.scalarOnly_wr d v
  others r hr := c.getS_setS_other _ _ v fun h => hr (BitVec.eq_of_toNat_eq h)
  flags := by simp [Ctx.wr]

/-- An instruction that completes by writing one scalar register, or that is held or late, keeps the frame. -/
theorem issue_scalarFrame {s t : State} {c c' : Ctx} {e : List Ext} {d : R5} {fl : BitVec 6} {w : W32} {blocked : State → Ctx → Bool}
    {body : State → Ctx → Eff} (hi : s.issuer = some c) (ht : issue e w blocked body s = .next t)
    (hb : body s c = .done s c') (hc : c.WritesScalar c' d fl) : s.scalarFrame t c d fl := by
  obtain ⟨x, hx, h⟩ := issueWords_next ht
  cases hx.symm.trans hi
  rcases h with ⟨_, rfl⟩ | ⟨_, rfl⟩
  · exact ⟨rfl, fun _ hj => Map.find_put_other _ _ hj, _, State.ctx_setCtx_same _ _, rfl, fun _ _ => rfl, .inl rfl⟩
  · rw [hb]
    cases !false && decide (c.limit < c.used + groupWords e)
    · have hkey : c'.key = c.key := hc.only.key
      rw [settle_done, State.scalarFrame, ← hkey]
      exact ⟨s.retire_only _ _ _, s.ctx_retire_other _ _ _, _, s.ctx_retire _ _ _, hc.only.retired _ _ _ _, hc.others, .inr hc.flags⟩
    · exact ⟨rfl, fun _ hj => Map.find_put_other _ _ hj, _, State.ctx_setCtx_same _ _, rfl, fun _ _ => rfl, .inl rfl⟩

section frames
variable {s t : State} {c : Ctx} {i : Instr} {e : List Ext} {d a b : R5} (hi : s.issuer = some c)
include hi

theorem scalarOp_frame {named : List R5} {f : Ctx → Ctx} {fl : BitVec 6} (ht : scalarOp i e named f s = .next t)
    (hf : c.WritesScalar (f c) d fl) : s.scalarFrame t c d fl :=
  issue_scalarFrame (body := fun s c => .done s (f c)) hi ht rfl hf

theorem alu2_frame {f : W64 → W64 → W64} (ht : alu2 i e d a b f s = .next t) : s.scalarFrame t c d 0 :=
  scalarOp_frame hi ht (c.writesScalar_wr _ _)

theorem alu1_frame {f : W64 → W64} (ht : alu1 i e d a f s = .next t) : s.scalarFrame t c d 0 :=
  scalarOp_frame hi ht (c.writesScalar_wr _ _)

theorem aluI_frame {im : BitVec 15} {f : W64 → W64 → W64} (ht : aluI i e d a im f s = .next t) : s.scalarFrame t c d 0 :=
  scalarOp_frame hi ht (c.writesScalar_wr _ _)

theorem divOp_frame {f : W64 → W64 → W64} (ht : divOp i e d a b f s = .next t) :
    s.scalarFrame t c d (BitVec.ofNat 6 (divFlags (c.rs b))) :=
  scalarOp_frame hi ht (c.writesScalar_raise _ _ _)

end frames

/-- Settles O13. -/
theorem scalarFrame : Obligations.ScalarFrame := by
  intro s t c e d a b z i n j x hi hk hx ht
  have hform : s.scalarFrame t c d 0 ∨ s.scalarFrame t c d (BitVec.ofNat 6 (divFlags (c.rs b))) ∧
      x ∈ [.div e d a b, .divz e d a b, .rem e d a b, .remz e d a b] := by
    simp only [List.mem_cons, List.not_mem_nil, or_false] at hx
    rcases hx with rfl | rfl | rfl | rfl | rfl | rfl | rfl | rfl | rfl | rfl | rfl | rfl | rfl | rfl | rfl | rfl | rfl | rfl | rfl | rfl |
      rfl | rfl | rfl | rfl | rfl | rfl | rfl | rfl | rfl | rfl | rfl | rfl | rfl | hdiv
    · exact .inl (alu2_frame hi (show execAdd e d a b s = _ from ht))
    · exact .inl (alu2_frame hi (show execSub e d a b s = _ from ht))
    · exact .inl (alu2_frame hi (show execMul e d a b s = _ from ht))
    · exact .inl (alu2_frame hi (show execMulh e d a b s = _ from ht))
    · exact .inl (alu2_frame hi (show execMulhz e d a b s = _ from ht))
    · exact .inl (alu2_frame hi (show execAnd e d a b s = _ from ht))
    · exact .inl (alu2_frame hi (show execOr e d a b s = _ from ht))
    · exact .inl (alu2_frame hi (show execXor e d a b s = _ from ht))
    · exact .inl (alu2_frame hi (show execShl e d a b s = _ from ht))
    · exact .inl (alu2_frame hi (show execShr e d a b s = _ from ht))
    · exact .inl (alu2_frame hi (show execSra e d a b s = _ from ht))
    · exact .inl (alu2_frame hi (show execMin e d a b s = _ from ht))
    · exact .inl (alu2_frame hi (show execMax e d a b s = _ from ht))
    · exact .inl (alu2_frame hi (show execMinz e d a b s = _ from ht))
    · exact .inl (alu2_frame hi (show execMaxz e d a b s = _ from ht))
    · exact .inl (alu2_frame hi (show execSeq e d a b s = _ from ht))
    · exact .inl (alu2_frame hi (show execSne e d a b s = _ from ht))
    · exact .inl (alu2_frame hi (show execSlt e d a b s = _ from ht))
    · exact .inl (alu2_frame hi (show execSltz e d a b s = _ from ht))
    · exact .inl (alu1_frame hi (show execClz e d a s = _ from ht))
    · exact .inl (alu1_frame hi (show execCtz e d a s = _ from ht))
    · exact .inl (alu1_frame hi (show execPopc e d a s = _ from ht))
    · exact .inl (aluI_frame hi (show execAddi e d a i s = _ from ht))
    · exact .inl (aluI_frame hi (show execAndi e d a i s = _ from ht))
    · exact .inl (aluI_frame hi (show execOri e d a i s = _ from ht))
    · exact .inl (aluI_frame hi (show execXori e d a i s = _ from ht))
    · exact .inl (aluI_frame hi (show execSlti e d a i s = _ from ht))
    · exact .inl (alu1_frame hi (show execShli e d a n s = _ from ht))
    · exact .inl (alu1_frame hi (show execShri e d a n s = _ from ht))
    · exact .inl (alu1_frame hi (show execSrai e d a n s = _ from ht))
    · exact .inl (scalarOp_frame hi (show execLih e d j s = _ from ht) (c.writesScalar_wr _ _))
    · exact .inl (scalarOp_frame hi (show execAddpc e d j s = _ from ht) (c.writesScalar_wr _ _))
    · exact .inl (scalarOp_frame hi (show execSel e d a b z s = _ from ht) (c.writesScalar_wr _ _))
    rcases hdiv with rfl | rfl | rfl | rfl | rfl | rfl
    · exact .inr ⟨divOp_frame hi (show execDiv e d a b s = _ from ht), by simp⟩
    · exact .inr ⟨divOp_frame hi (show execDivz e d a b s = _ from ht), by simp⟩
    · exact .inr ⟨divOp_frame hi (show execRem e d a b s = _ from ht), by simp⟩
    · exact .inr ⟨divOp_frame hi (show execRemz e d a b s = _ from ht), by simp⟩
    · change execTstamp e d s = _ at ht
      unfold execTstamp at ht
      exact .inl (issue_scalarFrame hi ht rfl (c.writesScalar_wr _ _))
    · change execDscr e d a s = _ at ht
      unfold execDscr at ht
      exact .inl (issue_scalarFrame hi ht rfl (c.writesScalar_wr _ _))
  have hdz : BitVec.ofNat 6 (divFlags (c.rs b)) = 0 ∨ BitVec.ofNat 6 (divFlags (c.rs b)) = 2 := by
    unfold divFlags
    split
    · exact .inr rfl
    · exact .inl rfl
  rcases hform with ⟨hs, ho, c', hc, hsc, hrs, hf⟩ | ⟨⟨hs, ho, c', hc, hsc, hrs, hf⟩, hx⟩
  · exact ⟨hs, ho, c', hc, hsc, hrs, .inl (by simpa using hf)⟩
  · refine ⟨hs, ho, c', hc, hsc, hrs, ?_⟩
    rcases hdz with h | h
    · exact .inl (by simpa [h] using hf)
    · exact (h ▸ hf).imp_right fun hf => ⟨hf, hx⟩

end Sys2Proof.Machine
end

section
/-! # CSRs (R23 to R26, R128, R130, R375) -/

namespace Sys2Proof.Machine

/-! ## The values that are kept of a write -/

/-- A masked register value, by its bits. -/
theorem and_eq_ofNat {v m : W64} {y : Nat} (h : ∀ i, i < 64 → y.testBit i = (v.toNat.testBit i && m.getLsbD i)) : v &&& m = BitVec.ofNat 64 y := by
  refine BitVec.eq_of_getLsbD_eq fun i hi => ?_
  rw [BitVec.getLsbD_and, BitVec.getLsbD_ofNat, h i hi, BitVec.testBit_toNat]
  simp [hi]

/-- An address keeps bits [56:2] (R25). -/
theorem and_address (v : W64) : v &&& 0x01FFFFFFFFFFFFFC#64 = BitVec.ofNat 64 (v.toNat % 2 ^ 57 / 4 * 4) := by
  refine and_eq_ofNat fun i hi => ?_
  have hm : ∀ j : Fin 64, (0x01FFFFFFFFFFFFFC#64).getLsbD j = (decide (2 ≤ j.val) && decide (j.val < 57)) := by decide
  rw [hm ⟨i, hi⟩, show (4 : Nat) = 2 ^ 2 from rfl, Nat.testBit_mul_two_pow, Nat.testBit_div_two_pow, Nat.testBit_mod_two_pow]
  by_cases h2 : 2 ≤ i
  · simp [h2, Nat.sub_add_cancel h2, Bool.and_comm]
  · simp [h2]

/-- A cause keeps bits [31:16] and [10:0] (R25). -/
theorem and_cause (v : W64) : v &&& 0xFFFF07FF#64 = BitVec.ofNat 64 (v.toNat % 2 ^ 32 - v.toNat / 2 ^ 11 % 2 ^ 5 * 2 ^ 11) := by
  refine and_eq_ofNat fun i hi => ?_
  have hm : ∀ j : Fin 64, (0xFFFF07FF#64).getLsbD j =
      if j.val < 16 then decide (j.val < 11) else decide (j.val - 16 < 16) := by decide
  have hsum : v.toNat % 2 ^ 32 - v.toNat / 2 ^ 11 % 2 ^ 5 * 2 ^ 11 = 2 ^ 16 * (v.toNat / 2 ^ 16 % 2 ^ 16) + v.toNat % 2 ^ 11 := by omega
  rw [hm ⟨i, hi⟩, hsum, Nat.testBit_two_pow_mul_add _ (by omega), Nat.testBit_mod_two_pow, Nat.testBit_mod_two_pow, Nat.testBit_div_two_pow]
  by_cases h : i < 16
  · simp [h, Bool.and_comm]
  · simp [h, Nat.sub_add_cancel (Nat.le_of_not_lt h), Bool.and_comm]

theorem clamp_eq {lo hi x : Nat} (h : lo ≤ hi) : clamp lo hi x = max lo (min hi x) := by
  unfold clamp; split <;> [skip; split] <;> omega

/-- What a writable register reads behind a write of `v` (R25, R26, R128). -/
theorem State.readCsr_writeCsr (s : State) (c : Ctx) (v : W64) (k : Nat) (cl : Bool) :
    let x := v.toNat
    let lim := fun (lo hi n : Nat) => max lo (min hi n)
    ∀ p ∈ ([(0x000, x % 2 ^ 57 / 4 * 4), (0x001, x % 2 ^ 32 - x / 2 ^ 11 % 2 ^ 5 * 2 ^ 11), (0x002, x), (0x004, x % 2 ^ 57 / 4 * 4),
        (0x022, lim 1024 (if c.sup then 2 ^ 32 - 1 else 2 ^ 24) (x % 2 ^ 32)), (0x023, x % 64), (0x800, lim 10 200 (x % 2 ^ 10)),
        (0x801, lim 1 255 (x % 2 ^ 8)), (0x802, x % 2 ^ 16), (0x810, x % 2 ^ 56)] : List (Nat × Nat)),
      let r := s.writeCsr c p.1 v cl
      r.1.readCsr r.2 k p.1 = some (BitVec.ofNat 64 p.2) := by
  intro x lim
  have layer (f : Layer → Layer) : (s.modLayer (layerOf c.cur) f).layer (layerOf c.cur) = f (s.layer (layerOf c.cur)) :=
    (State.layer_modLayer ..).trans (if_pos rfl)
  simp only [List.forall_mem_cons, List.not_mem_nil, false_implies, implies_true, and_true]
  refine ⟨congrArg some (and_address v), congrArg some (and_cause v), congrArg some ?_, congrArg some (and_address v), ?_, ?_, ?_, ?_, ?_, rfl⟩
  · exact (BitVec.ofNat_toNat 64 v ▸ BitVec.setWidth_eq v).symm
  · show some (BitVec.ofNat 64 (clamp _ _ _)) = _
    rw [clamp_eq (by split <;> decide)]
  · refine congrArg some (BitVec.eq_of_toNat_eq ?_)
    show ((v.setWidth 6).zeroExtend 64).toNat = _
    simp [x]
  · show some (BitVec.ofNat 64 (Layer.droopTh ((s.modLayer (layerOf c.cur) _).layer (layerOf c.cur)))) = _
    rw [layer, clamp_eq (by decide)]
  · show some (BitVec.ofNat 64 (Layer.drStretch ((s.modLayer (layerOf c.cur) _).layer (layerOf c.cur)))) = _
    rw [layer, clamp_eq (by decide)]
  · show some (BitVec.ofNat 64 (Layer.drHalve ((s.modLayer (layerOf c.cur) _).layer (layerOf c.cur)))) = _
    rw [layer]

theorem b2n_eq (b : Bool) (n : Nat) : b2n b * n = if b then n else 0 := by cases b <;> simp [b2n]

/-- The layouts of the registers that are only read (R24, R25, R26). -/
theorem State.readCsr_layout (s : State) (c : Ctx) (k : Nat) :
    let bit := fun (b : Bool) (n : Nat) => if b then 2 ^ n else 0
    ∀ p ∈ ([(0x003, bit c.intrap 0 + bit c.psup 1),
        (0x010, c.slot + c.foot * 2 ^ 6 + bit c.heavy 8 + bit c.sup 9 + bit c.backup 10 + bit c.migr 11),
        (0x011, c.chan + c.prio * 2 ^ 4 + bit c.pairClass 7 + c.mseq % 2 ^ 32 * 2 ^ 32), (0x012, c.cur + s.pkg * 2 ^ 12),
        (0x013, c.tenant % 256), (0x014, c.tclass + bit c.heavy 6), (0x015, c.leaseBase + c.leaseSize * 2 ^ 20 + bit c.leaseV 63),
        (0x020, c.rwc), (0x021, c.limit + (c.used + k) * 2 ^ 16), (0x024, c.fmttrap), (0x030, s.cyclesOf c.start - (s.core c.start).born),
        (0x031, s.fab.peers.headD 0 + bit (!s.fab.peers.isEmpty) 9 + s.fab.peers.length * 2 ^ 16),
        (0x811, s.cfg.injKind + bit s.cfg.injArm 2 + bit s.cfg.injFired 3)] : List (Nat × Nat)),
      s.readCsr c k p.1 = some (BitVec.ofNat 64 p.2) := by
  intro bit
  have hbit (b : Bool) (n : Nat) : bit b n = b2n b * 2 ^ n := (b2n_eq b _).symm
  simp only [List.forall_mem_cons, List.not_mem_nil, false_implies, implies_true, and_true, hbit]
  refine ⟨congrArg (some <| BitVec.ofNat 64 ·) ?_, rfl, rfl, rfl, rfl, rfl, rfl, rfl, rfl, rfl, rfl, rfl, rfl⟩
  simp

/-! ## The injector (R375) -/

/-- A word is among those that some bytes touch when it shares a byte with them. -/
theorem mem_wordsTouched {a n w : Nat} : w ∈ wordsTouched a n ↔ 0 < n ∧ 8 * w < a + n ∧ a < 8 * w + 8 := by
  unfold wordsTouched
  by_cases hn : n = 0
  · simp [hn]
  · simp only [beq_iff_eq, hn, if_false, List.mem_map, List.mem_range]
    constructor
    · rintro ⟨i, hi, rfl⟩; omega
    · intro h; exact ⟨w - a / 8, by omega, by omega⟩

/-- The armed injector acts on the reads that touch its word. -/
theorem State.injHits_iff (s : State) (pa n : Nat) :
    s.injHits pa n = true ↔ s.cfg.injArm = true ∧ 0 < n ∧ 8 * (s.cfg.injAddr / 8) < pa + n ∧ pa < 8 * (s.cfg.injAddr / 8) + 8 := by
  simp only [State.injHits, Bool.and_eq_true, bne_iff_ne, List.contains_iff_mem, mem_wordsTouched]
  exact ⟨fun ⟨⟨h, _⟩, hw⟩ => ⟨h, hw⟩, fun ⟨h, hn, hw⟩ => ⟨⟨h, hn.ne'⟩, hn, hw⟩⟩

/-- A correction leaves the poison marks and the injector alone. -/
theorem State.correct_keeps (s : State) (pa : Nat) :
    (s.correct pa).mem = s.mem ∧ (s.correct pa).poison = s.poison ∧ (s.correct pa).cfg = s.cfg := by
  unfold State.correct
  split <;> exact ⟨rfl, rfl, rfl⟩

/-- The state in which the injector has acted. -/
def State.injected (s : State) : State := { s with cfg := { s.cfg with injArm := false, injFired := true } }

@[simp] theorem State.injected_poison (s : State) : s.injected.poison = s.poison := rfl
@[simp] theorem State.injected_injArm (s : State) : s.injected.cfg.injArm = false := rfl
@[simp] theorem State.injected_injFired (s : State) : s.injected.cfg.injFired = true := rfl
@[simp] theorem State.logEvent_cfg (s : State) (kind pa : Nat) : (s.logEvent kind pa).cfg = s.cfg := rfl

/-- What a read on which the injector acts can do, by the injector's kind. -/
theorem State.arrayRead_cases {s : State} {pa n : Nat} (h : s.injHits pa n = true) :
    let w := s.cfg.injAddr / 8
    (s.cfg.injKind = 1 ∧ s.arrayRead pa n = s.injected.correct (8 * w)) ∨
    (s.cfg.injKind = 2 ∧ s.strongAt (8 * w) = true ∧ s.arrayRead pa n = s.injected.correct (8 * w)) ∨
    (s.cfg.injKind = 2 ∧ s.strongAt (8 * w) = false ∧
      s.arrayRead pa n = { s.injected.logEvent 2 (8 * w) with poison := NatSet.add s.poison w }) ∨
    (s.cfg.injKind = 3 ∧ s.arrayRead pa n = { s.injected with poison := NatSet.add s.poison w }) ∨
    (s.cfg.injKind ≠ 1 ∧ s.cfg.injKind ≠ 2 ∧ s.cfg.injKind ≠ 3 ∧ s.arrayRead pa n = s.injected) := by
  intro w
  unfold State.arrayRead
  rw [if_pos h]
  dsimp only
  split
  case h_1 hk => exact .inl ⟨hk, rfl⟩
  case h_2 hk =>
    split
    · next hs => exact .inr (.inl ⟨hk, hs, rfl⟩)
    · next hs => exact .inr (.inr (.inl ⟨hk, Bool.eq_false_iff.2 hs, rfl⟩))
  case h_3 hk => exact .inr (.inr (.inr (.inl ⟨hk, rfl⟩)))
  case h_4 h1 h2 h3 => exact .inr (.inr (.inr (.inr ⟨h1, h2, h3, rfl⟩)))

theorem State.arrayRead_miss {s : State} {pa n : Nat} (h : s.injHits pa n = false) : s.arrayRead pa n = s := by
  rw [State.arrayRead, h, if_neg Bool.false_ne_true]

/-- The injector touches no byte. -/
theorem State.mem_arrayRead (s : State) (pa n : Nat) : (s.arrayRead pa n).mem = s.mem := by
  cases h : s.injHits pa n
  · rw [State.arrayRead_miss h]
  · rcases State.arrayRead_cases h with ⟨_, e⟩ | ⟨_, _, e⟩ | ⟨_, _, e⟩ | ⟨_, e⟩ | ⟨_, _, _, e⟩ <;> rw [e]
    · exact (s.injected.correct_keeps _).1
    · exact (s.injected.correct_keeps _).1
    all_goals rfl

/-- The armed injector acts on a read of its word, once (R375). -/
theorem State.arrayRead_injects {s : State} {pa n : Nat} (h : s.injHits pa n = true) :
    let w := s.cfg.injAddr / 8
    let t := s.arrayRead pa n
    t.cfg.injArm = false ∧ t.cfg.injFired = true ∧ (s.cfg.injKind = 1 → t.poison = s.poison) ∧
      (s.cfg.injKind = 3 → t.poison = NatSet.add s.poison w) ∧
      (s.cfg.injKind = 2 → t.poison = if s.strongAt (8 * w) then s.poison else NatSet.add s.poison w) := by
  intro w t
  obtain ⟨_, hp, hc⟩ := s.injected.correct_keeps (8 * w)
  rcases State.arrayRead_cases h with ⟨hk, e⟩ | ⟨hk, hs, e⟩ | ⟨hk, hs, e⟩ | ⟨hk, e⟩ | ⟨h1, h2, h3, e⟩ <;> simp only [t, e]
  · simp [hk, hp, hc, w]
  · simp [hk, hp, hc, hs, w]
  · simp [hk, hs, w]
  · simp [hk, w]
  · simp [h1, h2, h3, w]

/-- A write of `INJCTL` (R26, R375). -/
theorem State.writeCsr_injctl (s : State) (c : Ctx) (v : W64) (cl : Bool) :
    let t := (s.writeCsr c 0x811 v cl).1
    t = { s with cfg := { s.cfg with injKind := v.toNat % 4, injArm := t.cfg.injArm, injFired := s.cfg.injFired && !cl } } ∧
    (t.cfg.injArm = true ↔ v.getLsbD 2 = true ∧ v.toNat % 4 ≠ 0 ∧ paSpace s.cfg.injAddr < 2 ∧ paPkg s.cfg.injAddr = s.pkg ∧
      s.nonexistent s.cfg.injAddr = false) := by
  have hk : v.toNat % 8 % 4 = v.toNat % 4 := Nat.mod_mod_of_dvd _ (by decide)
  have hb : bit (v.toNat % 8) 2 = v.getLsbD 2 := by
    rw [← BitVec.testBit_toNat, Nat.testBit_eq_decide_div_mod_eq]
    unfold bit
    rw [Bool.eq_iff_iff]
    simp
    omega
  refine ⟨?_, ?_⟩
  · show s.writeInjctl (v.toNat % 8) cl = { s with cfg := { s.cfg with
      injKind := _, injArm := (s.writeInjctl (v.toNat % 8) cl).cfg.injArm, injFired := _ } }
    rw [← hk]
    rfl
  · show (s.writeInjctl (v.toNat % 8) cl).cfg.injArm = true ↔ _
    simp [State.writeInjctl, hk, hb, and_assoc]

/-! ## The forms (R23, R128, R130) -/

section checks
variable {s : State} {c : Ctx} {words n : Nat} {write : Bool} {go : W64 → Eff} {v : W64}

theorem withCsr_go (hv : s.readCsr c words n = some v) (hw : write = true → csrWritable n = true) (hl : n < 0x800 ∨ c.sup = true) :
    withCsr s c words n write go = go v := by
  have hl' : ¬ (0x800 ≤ n ∧ c.sup = false) := by rcases hl with h | h <;> simp [h]
  cases write <;> simp_all [withCsr]

theorem withCsr_unassigned (hv : s.readCsr c words n = none) : withCsr s c words n write go = .fault 0x01 7 none := by
  simp [withCsr, hv]

theorem withCsr_readOnly (hw : csrWritable n = false) : withCsr s c words n true go = .fault 0x01 7 none := by
  cases h : s.readCsr c words n <;> simp [withCsr, h, hw]

theorem withCsr_level (hv : s.readCsr c words n = some v) (hw : write = true → csrWritable n = true) (hn : 0x800 ≤ n) (hs : c.sup = false) :
    withCsr s c words n write go = .fault 0x03 0 none := by
  cases write <;> simp_all [withCsr]

end checks

/-- A written CSR leaves the context where it is. -/
theorem State.writeCsr_pc (s : State) (c : Ctx) (n : Nat) (v : W64) (cl : Bool) : (s.writeCsr c n v cl).2.pc = c.pc := by
  unfold State.writeCsr; split <;> rfl

section forms
variable {s : State} {c : Ctx} {i : Instr} {e : List Ext} {a d : R5} {n : BitVec 12} {clears : Bool} {f : W64 → W64 → W64} {v : W64}

/-- A group that leaves a written CSR goes on behind itself. -/
theorem issue_writes {cl : Bool} {c₀ : Ctx} {k : Nat} {w : W32} {x y : List Nat} {body : State → Ctx → Eff} (h : Runs s c e x y)
    (hpc : c₀.pc = c.pc) (hb : body s c = .done (s.writeCsr c₀ k v cl).1 (s.writeCsr c₀ k v cl).2) :
    issue e w (blocks x y) body s = .next ((s.writeCsr c₀ k v cl).1.past (s.writeCsr c₀ k v cl).2 e (s.writeCsr c₀ k v cl).2) := by
  rw [issue_runs h, hb, settle_done, ← hpc, ← s.writeCsr_pc c₀ k v cl]
  rfl

/-- An update of a register of the core's own is a write. -/
theorem csrUpdate_own (hn : csrOfLayer n.toNat = false) : csrUpdate i e a n clears f s = csrWrite i e a n clears f s := by
  rw [csrUpdate, hn]; rfl

variable (h : Runs s c e [a.toNat] [])
include h

theorem csrWrite_done (hv : s.readCsr c (groupWords e) n.toNat = some v) (hw : csrWritable n.toNat = true)
    (hl : n.toNat < 0x800 ∨ c.sup = true) :
    let r := s.writeCsr c n.toNat (f v (c.rs a)) (clears && (c.rs a).getLsbD 3)
    csrWrite i e a n clears f s = .next (r.1.past r.2 e r.2) :=
  issue_writes h rfl (withCsr_go hv (fun _ => hw) hl)

theorem csrUpdate_reads (hn : csrOfLayer n.toNat = true) (hv : s.readCsr c (groupWords e) n.toNat = some v)
    (hw : csrWritable n.toNat = true) (hl : n.toNat < 0x800 ∨ c.sup = true) (ho : c.csrOld = none) :
    csrUpdate i e a n clears f s = .next (s.holds { c with csrOld := some v }) := by
  rw [csrUpdate, hn]
  refine (issue_runs h).trans ?_
  rw [withCsr_go hv (fun _ => hw) hl, ho]
  rfl

theorem csrUpdate_writes {old : W64} (hn : csrOfLayer n.toNat = true) (hv : s.readCsr c (groupWords e) n.toNat = some v)
    (hw : csrWritable n.toNat = true) (hl : n.toNat < 0x800 ∨ c.sup = true) (ho : c.csrOld = some old) :
    let r := s.writeCsr { c with csrOld := none } n.toNat (f old (c.rs a)) false
    csrUpdate i e a n clears f s = .next (r.1.past r.2 e r.2) := by
  rw [csrUpdate, hn]
  refine issue_writes h rfl ?_
  rw [withCsr_go hv (fun _ => hw) hl, ho]

/-- Where the checks of a write fault, so do its forms. -/
theorem csrWrite_faults {code detail : Nat} (hf : ∀ go, withCsr s c (groupWords e) n.toNat true go = .fault code detail none) :
    csrWrite i e a n clears f s = .next (s.programFault c code detail c.pc ((wordOf i).zeroExtend 64)) :=
  issue_faults (xval := none) h (hf _)

theorem csrUpdate_faults {code detail : Nat} (hf : ∀ go, withCsr s c (groupWords e) n.toNat true go = .fault code detail none) :
    csrUpdate i e a n clears f s = .next (s.programFault c code detail c.pc ((wordOf i).zeroExtend 64)) := by
  cases hn : csrOfLayer n.toNat
  · rw [csrUpdate_own hn, csrWrite_faults h hf]
  · rw [csrUpdate, hn]
    exact issue_faults (xval := none) h (hf _)

end forms

theorem csrOfLayer_iff {n : Nat} : csrOfLayer n = true ↔ n = 0x800 ∨ n = 0x801 ∨ n = 0x802 := by
  simp [csrOfLayer, or_assoc]

/-- Every write form faults where the checks of its write fault. -/
theorem csr_writes_fault {s : State} {c : Ctx} {e : List Ext} {d : R5} {n : BitVec 12} {code detail : Nat} (h : Runs s c e [d.toNat] [])
    (hf : ∀ go, withCsr s c (groupWords e) n.toNat true go = .fault code detail none) :
    ∀ i ∈ [Instr.csrw e d n, .csrs e d n, .csrc e d n], exec i s = .next (s.programFault c code detail c.pc ((wordOf i).zeroExtend 64)) := by
  simp only [List.forall_mem_cons, List.not_mem_nil, false_implies, implies_true, and_true]
  refine ⟨?_, ?_, ?_⟩
  · show execCsrw e d n s = _
    exact csrWrite_faults h hf
  · show execCsrs e d n s = _
    exact csrUpdate_faults h hf
  · show execCsrc e d n s = _
    exact csrUpdate_faults h hf

/-- Settles O17. -/
theorem csrForms : Obligations.CsrForms := by
  refine ⟨fun s c e d n h => ?_, State.readCsr_writeCsr, State.readCsr_layout, State.writeCsr_injctl, fun s pa n => ?_⟩
  · intro writes word
    refine ⟨?_, ?_, fun hw => ?_, fun v hv hn hs => ⟨?_, fun hw => ?_⟩⟩
    · intro v hv hl layers
      refine ⟨?_, fun hw => ⟨?_, fun hlay => ⟨fun ho => ?_, fun old ho => ?_⟩⟩⟩
      · show execCsrr e d n s = _
        exact issue_done h (withCsr_go hv (by simp) hl)
      · simp only [List.forall_mem_cons, List.not_mem_nil, false_implies, implies_true, and_true]
        have own (i : Instr) (hi : i ≠ .csrw e d n) (hp : i = .csrw e d n ∨ ¬ layers) : csrOfLayer n.toNat = false :=
          Bool.eq_false_iff.2 fun hn => hp.resolve_left hi (csrOfLayer_iff.1 hn)
        refine ⟨fun _ => ?_, fun hp => ?_, fun hp => ?_⟩
        · show execCsrw e d n s = _
          exact csrWrite_done (f := fun _ v => v) h hv hw hl
        · show execCsrs e d n s = _
          rw [execCsrs, csrUpdate_own (own _ (by simp) hp)]
          exact csrWrite_done (f := fun o v => o ||| v) h hv hw hl
        · show execCsrc e d n s = _
          rw [execCsrc, csrUpdate_own (own _ (by simp) hp)]
          exact csrWrite_done (f := fun o v => o &&& ~~~v) h hv hw hl
      · simp only [List.forall_mem_cons, List.not_mem_nil, false_implies, implies_true, and_true]
        refine ⟨?_, ?_⟩
        · show execCsrs e d n s = _
          exact csrUpdate_reads h (csrOfLayer_iff.2 hlay) hv hw hl ho
        · show execCsrc e d n s = _
          exact csrUpdate_reads h (csrOfLayer_iff.2 hlay) hv hw hl ho
      · simp only [List.forall_mem_cons, List.not_mem_nil, false_implies, implies_true, and_true]
        refine ⟨?_, ?_⟩
        · show execCsrs e d n s = _
          exact csrUpdate_writes (f := fun o v => o ||| v) h (csrOfLayer_iff.2 hlay) hv hw hl ho
        · show execCsrc e d n s = _
          exact csrUpdate_writes (f := fun o v => o &&& ~~~v) h (csrOfLayer_iff.2 hlay) hv hw hl ho
    · intro hv
      refine List.forall_mem_cons.2 ⟨?_, csr_writes_fault h fun go => withCsr_unassigned hv⟩
      show execCsrr e d n s = _
      exact issue_faults (xval := none) h (withCsr_unassigned hv)
    · exact csr_writes_fault h fun go => withCsr_readOnly hw
    · show execCsrr e d n s = _
      exact issue_faults (xval := none) h (withCsr_level hv (by simp) hn hs)
    · exact csr_writes_fault h fun go => withCsr_level hv (fun _ => hw) hn hs
  · intro w t
    refine ⟨s.mem_arrayRead pa n, fun hno => State.arrayRead_miss (Bool.eq_false_iff.2 fun hh => ?_), fun ha hn hlt hle =>
      State.arrayRead_injects (s.injHits_iff pa n |>.2 ⟨ha, hn, hlt, hle⟩)⟩
    obtain ⟨ha, hn, hlt, hle⟩ := (s.injHits_iff pa n).1 hh
    rcases hno with h | h | h | h
    · exact Bool.false_ne_true (h.symm.trans ha)
    all_goals omega

end Sys2Proof.Machine
end

section
/-! # Waking, and the end of a context -/

namespace Sys2Proof.Machine

/-! ## Contexts that are written (R27, R28) -/

/-- In a keyed state a context is in the store when it is found under its key. -/
theorem State.Keyed.ctx_iff {s : State} (h : s.Keyed) {c : Ctx} : s.ctx c.key = some c ↔ c ∈ s.ctxs.map Prod.snd := by
  constructor
  · exact fun e => List.mem_map.2 ⟨_, Map.mem_of_find e, rfl⟩
  · intro e
    obtain ⟨p, hp, rfl⟩ := List.mem_map.1 e
    rw [← h.2 p hp]
    exact Map.find_of_mem h.1 hp

/-- A context that is found stands under its own key. -/
theorem State.Keyed.key_eq {s : State} (h : s.Keyed) {k : Nat} {c : Ctx} (e : s.ctx k = some c) : c.key = k :=
  (h.2 _ (Map.mem_of_find e)).symm

theorem State.Keyed.keys_nodup {s : State} (h : s.Keyed) : ((s.ctxs.map Prod.snd).map Ctx.key).Nodup := by
  have hkeys : (s.ctxs.map Prod.snd).map Ctx.key = s.ctxs.map Prod.fst := by
    rw [List.map_map]
    exact List.map_congr_left fun p hp => (h.2 p hp).symm
  rw [hkeys]
  exact h.1.imp Nat.ne_of_lt

/-- Writing contexts of different keys one after the other writes each, and no other. -/
theorem State.ctx_foldl_setCtx {g : Ctx → Ctx} (hg : ∀ c, (g c).key = c.key) (l : List Ctx) (hl : (l.map Ctx.key).Nodup) (s : State) (k : Nat) :
    (∀ c ∈ l, c.key = k → (l.foldl (fun s c => s.setCtx (g c)) s).ctx k = some (g c)) ∧
    ((∀ c ∈ l, c.key ≠ k) → (l.foldl (fun s c => s.setCtx (g c)) s).ctx k = s.ctx k) := by
  induction l generalizing s with
  | nil => simp
  | cons x l ih =>
    obtain ⟨hx, hl⟩ := List.nodup_cons.1 hl
    obtain ⟨hin, hout⟩ := ih hl (s.setCtx (g x))
    refine ⟨List.forall_mem_cons.2 ⟨fun hk => ?_, hin⟩, fun h => ?_⟩
    · have hne : ∀ c ∈ l, c.key ≠ k := fun c hc e => hx (List.mem_map.2 ⟨c, hc, e.trans hk.symm⟩)
      rw [List.foldl_cons, hout hne, State.ctx_setCtx, hg, if_pos hk.symm]
    · rw [List.forall_mem_cons] at h
      rw [List.foldl_cons, hout h.2, State.ctx_setCtx, hg, if_neg (Ne.symm h.1)]

/-- Is a context among those that a waking wakes? -/
def State.wakes (s : State) (p : Ctx → Bool) (c : Ctx) : Bool := c.wait != none && !s.waitedOut c && p c

/-- Waking changes the waiting contexts that it wakes, each under its key (R28). -/
theorem State.ctx_wakeWhere {s : State} (h : s.Keyed) (p : Ctx → Bool) {f : Ctx → Ctx} (hf : ∀ c, (f c).key = c.key) (k : Nat) :
    (s.wakeWhere p f).ctx k = (s.ctx k).map fun c => if s.wakes p c then (f c).wake s.stamp else c := by
  have hg (c : Ctx) : ((f c).wake s.stamp).key = c.key := hf c
  have hl : (((s.ctxs.map Prod.snd).filter (s.wakes p)).map Ctx.key).Nodup :=
    h.keys_nodup.sublist (List.Sublist.map _ List.filter_sublist)
  obtain ⟨hin, hout⟩ := State.ctx_foldl_setCtx hg _ hl s k
  show State.ctx (List.foldl _ s ((s.ctxs.map Prod.snd).filter (s.wakes p))) k = _
  cases hk : s.ctx k with
  | none =>
    rw [hout, hk]
    · rfl
    · intro c hc e
      have hc' := h.ctx_iff.2 (List.mem_filter.1 hc).1
      rw [e, hk] at hc'
      cases hc'
  | some c =>
    have hck := h.key_eq hk
    have hc : c ∈ s.ctxs.map Prod.snd := h.ctx_iff.1 (hck.symm ▸ hk)
    cases hw : s.wakes p c
    · rw [hout, hk]
      · simp [hw]
      · intro x hx e
        obtain ⟨hx, hwx⟩ := List.mem_filter.1 hx
        have hxc := h.ctx_iff.2 hx
        rw [e, hk] at hxc
        cases hxc
        exact Bool.false_ne_true (hw.symm.trans hwx)
    · rw [hin c (List.mem_filter.2 ⟨hc, hw⟩) hck]
      simp [hw]

/-! ## The end of a context (R45, R219, R256) -/

/-- `t` differs from `s` in nothing but the work of engines and units: cores, clusters, copies with their pins, stored lines and requests for
tokens. -/
def State.onlyWork (s t : State) : Prop :=
  t = { s with cores := t.cores, clusters := t.clusters, copies := t.copies, tiles := t.tiles, stored := t.stored, powerReqs := t.powerReqs }

theorem State.onlyWork.trans {s t u : State} (h : s.onlyWork t) (k : t.onlyWork u) : s.onlyWork u := by
  unfold State.onlyWork at h k
  rw [h] at k
  exact k

theorem State.onlyWork.ite {s t u : State} {p : Prop} [Decidable p] (h : s.onlyWork t) (k : s.onlyWork u) : s.onlyWork (if p then t else u) := by
  split
  · exact h
  · exact k

theorem State.dropTokenAsks_only (s : State) (l g : Nat) : s.onlyWork (s.dropTokenAsks l g) := by
  unfold State.dropTokenAsks; split <;> rfl

/-- What the end of a context can do: behind its obligations it leaves the store and the kills, then engine work, and last its lease goes back. -/
theorem State.endCtx_cases (s : State) (c : Ctx) (how : Ending) :
    let v : State := s.breakObligations c
    ∃ u, State.onlyWork { v with ctxs := v.ctxs.del c.key, kills := NatSet.del v.kills c.uid } u ∧
      (s.endCtx c how = u ∨ s.endCtx c how = u.returnLease c.start c.uid) := by
  intro v
  unfold State.endCtx
  extract_lets st₂ st₃ st₄ st₅ st₆ st₇ st₈
  have h₄ : st₂.onlyWork st₄ := by rfl
  have h₅ : st₂.onlyWork st₅ := h₄.trans (.ite rfl rfl)
  have h₆ : st₂.onlyWork st₆ := h₅.trans (.ite rfl rfl)
  have h₇ : st₂.onlyWork st₇ := h₆.trans (.ite rfl rfl)
  have h₈ : st₂.onlyWork st₈ := h₇.trans (.ite rfl (State.dropTokenAsks_only _ _ _))
  refine ⟨st₈, h₈, ?_⟩
  split
  · exact .inr rfl
  · exact .inl rfl

section endCtx
variable (s : State) (c : Ctx) (how : Ending)

/-- What the end of a context leaves alone, among much else. -/
theorem State.endCtx_only :
    (s.endCtx c how).launches = s.launches ∧ (s.endCtx c how).mem = s.mem ∧ (s.endCtx c how).kills = NatSet.del s.kills c.uid := by
  obtain ⟨u, hu, e⟩ := s.endCtx_cases c how
  have hl : u.launches = s.launches ∧ u.mem = s.mem ∧ u.kills = NatSet.del s.kills c.uid := by
    rw [hu, (s.breakObligations_only c).1]; exact ⟨rfl, rfl, rfl⟩
  rcases e with e | e <;> rw [e]
  · exact hl
  · rw [(u.returnLease_only _ _).1]; exact hl

end endCtx

/-! ## Contexts under their keys -/

section keyed
variable {s : State} (h : s.Keyed)
include h

theorem State.Keyed.modCore {i : Nat} {f : Core → Core} : (s.modCore i f).Keyed := h

theorem State.Keyed.wakeGranules {i : Nat} : (s.wakeGranules i).Keyed := h.wakeWhere _ _

theorem State.Keyed.setGranules (i : Nat) (g : List Nat) (full : Bool) : (s.setGranules i g full).Keyed := by
  unfold State.setGranules
  split
  · exact h
  · exact h.modCore.wakeGranules

theorem State.Keyed.barWrite (i a w : Nat) : (s.barWrite i a w).Keyed := h.modCore.wakeWhere _ _

theorem State.Keyed.returnLease (i b : Nat) : (s.returnLease i b).Keyed := by
  unfold State.returnLease
  split
  · exact h.modCore.wakeGranules
  · exact h

theorem State.Keyed.breakObligations (c : Ctx) : (s.breakObligations c).Keyed := by
  unfold State.breakObligations
  generalize c.obls.toList = l
  induction l generalizing s with
  | nil => exact h
  | cons o l ih =>
    refine ih ?_
    cases o with
    | none => exact h
    | some a =>
      dsimp only
      split
      · exact h.barWrite _ _ _
      · exact h

theorem State.Keyed.endCtx (c : Ctx) (how : Ending) : (s.endCtx c how).Keyed := by
  obtain ⟨u, hu, e⟩ := s.endCtx_cases c how
  have hk : u.Keyed := (h.breakObligations c).del c.key (by rw [hu])
  rcases e with e | e <;> rw [e]
  · exact hk
  · exact hk.returnLease _ _

/-- A returned lease starts no context. -/
theorem State.ctx_returnLease_none {i b k : Nat} (hk : s.ctx k = none) : (s.returnLease i b).ctx k = none := by
  unfold State.returnLease
  split
  · exact (State.ctx_wakeWhere h.modCore _ (fun _ => rfl) k).trans (congrArg _ hk)
  · exact hk

/-- A context that has ended is no longer in the store. -/
theorem State.ctx_endCtx (c : Ctx) (how : Ending) : (s.endCtx c how).ctx c.key = none := by
  obtain ⟨u, hu, e⟩ := s.endCtx_cases c how
  have hc : u.ctxs = (s.breakObligations c).ctxs.del c.key := by rw [hu]
  have hk : u.ctx c.key = none := by rw [State.ctx, hc, Map.find_del_same]
  rcases e with e | e <;> rw [e]
  · exact hk
  · exact State.ctx_returnLease_none ((h.breakObligations c).del c.key hc) hk

end keyed

/-! ## The end of a launch with a fault (R43) -/

/-- A live launch that fails is ending with its first fault, and its contexts are to be killed; other launches, contexts and memory stay. -/
theorem State.failLaunch_live {s : State} {l : Nat} {r : FaultRec} {x : Launch} (hx : s.launches.find l = some x) (hp : x.phase = .live) :
    (s.failLaunch l r).launches = s.launches.put l { x with phase := .ending, fault := some r } ∧ (s.failLaunch l r).ctxs = s.ctxs ∧
      (s.failLaunch l r).mem = s.mem ∧ ∀ p ∈ s.ctxs, p.2.launch = l → p.2.uid ∈ (s.failLaunch l r).kills := by
  unfold State.failLaunch
  simp only [hx, hp, beq_self_eq_true, Bool.true_or, if_true]
  refine ⟨rfl, rfl, rfl, fun p hp hl => ?_⟩
  have hmem : ∀ (m : List (Nat × Ctx)) (k : NatSet), p ∈ m ∨ p.2.uid ∈ k → p.2.uid ∈ m.foldl (fun s p => NatSet.add s p.2.uid) k := by
    intro m
    induction m with
    | nil => simp
    | cons q m ih =>
      intro k h
      refine ih _ ?_
      rcases h with h | h
      · rcases List.mem_cons.1 h with rfl | h
        · exact .inr ((NatSet.mem_add _ _ _).2 (.inl rfl))
        · exact .inl h
      · exact .inr ((NatSet.mem_add _ _ _).2 (.inr h))
  exact hmem _ _ (.inl (List.mem_filter.2 ⟨hp, by simpa using hl⟩))

/-- Settles O41: the context ends, and then its launch. -/
theorem faultEndsLaunch : Obligations.FaultEndsLaunch := by
  intro s c code detail xpc xval x hs hf hx hp t
  obtain ⟨hl, hm, _⟩ := s.endCtx_only c endFault
  obtain ⟨hlaunches, hctxs, hmem, hkills⟩ := State.failLaunch_live (r := ⟨1, code, detail, xpc.toNat, xval.toNat, s.gid c.start⟩)
    (s := s.endCtx c endFault) (hl.symm ▸ hx) hp
  have ht : t = (s.endCtx c endFault).failLaunch c.launch ⟨1, code, detail, xpc.toNat, xval.toNat, s.gid c.start⟩ := by
    simp only [t, State.programFault, hf]
  rw [← ht] at hlaunches hctxs hmem hkills
  refine ⟨?_, ?_, fun p hp hpl => hkills p (hctxs ▸ hp) hpl, fun l hne => ?_, hmem.trans hm⟩
  · rw [State.ctx, hctxs]; exact State.ctx_endCtx hs c _
  · rw [hlaunches, Map.find_put_same]
  · rw [hlaunches, Map.find_put_other _ _ hne, hl]

end Sys2Proof.Machine
end

section
/-! # Vector forms: sources, results, and the faults of both -/

namespace Sys2Proof.Machine

/-! ## Checked tags (R139) -/

/-- A bit of a number, as `Nat.testBit` reads it. -/
theorem bit_eq_testBit (x n : Nat) : bit x n = x.testBit n := by
  rw [bit, Nat.testBit_eq_decide_div_mod_eq]; rfl

/-- An operand whose tag is accepted. -/
abbrev Ctx.accepts (c : Ctx) (r acc : Nat) : Prop := c.tagOf r ≤ 8 ∧ acc.testBit (c.tagOf r) = true

theorem Ctx.formatFault_pass {c : Ctx} {o r acc : Nat} (h : c.accepts r acc) (l : List (Nat × Nat × Nat)) :
    c.formatFault ((o, r, acc) :: l) = c.formatFault l := by
  simp [Ctx.formatFault, bit_eq_testBit, h.1, h.2]

theorem Ctx.formatFault_fail {c : Ctx} {o r acc : Nat} (h : ¬ c.accepts r acc) (l : List (Nat × Nat × Nat)) :
    c.formatFault ((o, r, acc) :: l) = some (formatRec (c.tagOf r) acc r o) := by
  have : (decide (c.tagOf r ≤ 8) && acc.testBit (c.tagOf r)) = false := by simpa [Ctx.accepts] using h
  simp only [Ctx.formatFault, bit_eq_testBit, this, Bool.false_eq_true, if_false]

/-- The first operand whose tag is not accepted is the one recorded. -/
theorem Ctx.formatFault_first {c : Ctx} {l u : List (Nat × Nat × Nat)} {o r acc : Nat} (hl : ∀ q ∈ l, c.accepts q.2.1 q.2.2)
    (h : ¬ c.accepts r acc) : c.formatFault (l ++ (o, r, acc) :: u) = some (formatRec (c.tagOf r) acc r o) := by
  induction l with
  | nil => exact c.formatFault_fail h u
  | cons p l ih =>
    rw [List.forall_mem_cons] at hl
    exact (c.formatFault_pass hl.1 _).trans (ih hl.2)

/-! ## Reading the sources -/

section sources
variable {s : State} {c x : Ctx} {named : List Nat} {checks : List (Nat × Nat × Nat)} {srcs offs : List Nat} {go : Ctx → Eff}

theorem withVectors_footprint (h : ∃ r ∈ named, footLimit c.foot ≤ r) : withVectors s c named checks srcs offs go = .fault 0x02 0 none := by
  rw [withVectors, if_pos]
  simpa using h

theorem withVectors_format (h : ∀ r ∈ named, r < footLimit c.foot) {n : Nat} (hf : c.formatFault checks = some n) :
    withVectors s c named checks srcs offs go = .format n := by
  have : (named.any fun r => decide (footLimit c.foot ≤ r)) = false := by simpa using h
  rw [withVectors, this, if_neg Bool.false_ne_true, hf]

/-- A vector instruction whose sources can be read does what it does with them. -/
theorem withVectors_done {t : State} {y : Ctx} (h : c.sources named checks srcs x) (hg : go x = .done t y) :
    withVectors s c named checks srcs offs go = .done t y := by
  obtain ⟨hfoot, hformat, hpop⟩ := h
  have : (named.any fun r => decide (footLimit c.foot ≤ r)) = false := by simpa using hfoot
  rw [withVectors, this, if_neg Bool.false_ne_true, hformat, hpop]
  simp only [hg]

end sources

/-! ## Writing the result (R161, R162) -/

theorem withPush_admits {s : State} {c : Ctx} {x : Slot} {tag : Nat} {xl : List (Nat × Nat × Nat)} {go : Slot → Eff}
    (h : s.admitsPush c x tag xl) : withPush s c x tag go = go { x with xl := x.xl ++ xl } := by
  obtain ⟨htag, hroom, hplace⟩ := h
  have h1 : (x.shape.fmt != 0 && tag != x.shape.fmt) = false := by
    rcases htag with h | h <;> simp [h]
  rw [withPush, h1, if_neg Bool.false_ne_true, if_neg (by omega)]
  rcases hplace with ⟨hsp, hfree, rfl⟩ | ⟨hsp, pas, htr, rfl⟩
  · simp [hsp, hfree]
  · simp [hsp, withXlate, htr]

theorem writeVector_takes {s : State} {x y : Ctx} {d : Nat} {r : VReg} {fin : Ctx → Eff} (h : s.takesResult x d r y) :
    writeVector s x d r fin = fin y := by
  unfold State.takesResult at h
  unfold writeVector
  cases hs : x.slotOf d with
  | none => rw [hs] at h; rw [h]
  | some sl =>
    rw [hs] at h
    cases hp : sl.push with
    | false => simp only [hp, Bool.false_eq_true, if_false] at h ⊢; rw [h]; rfl
    | true =>
      simp only [hp, if_true] at h
      obtain ⟨xl, hadm, rfl⟩ := h
      simp only [hp, Bool.not_true, Bool.false_eq_true, if_false]
      exact withPush_admits hadm

/-! ## Vector instructions -/

section forms
variable {s : State} {c x : Ctx} {e : List Ext} {i : Instr} {scal named srcs offs : List R5} {chk : Ctx → List (Nat × Nat × Nat)}
  {go : State → Ctx → Eff}

/-- The causes of tier 2 of a vector instruction that names the registers `named` and checks the operands `checks` (R31, R41, R139). -/
def State.VectorFaults (s : State) (c : Ctx) (i : Instr) (named : List R5) (checks : List (Nat × R5 × Nat)) : Prop :=
  ((∃ y ∈ named, footLimit c.foot ≤ y.toNat) → exec i s = .next (s.programFault c 0x02 0 c.pc ((wordOf i).zeroExtend 64))) ∧
  ∀ l n y acc u, (∀ y ∈ named, y.toNat < footLimit c.foot) → checks = l ++ (n, y, acc) :: u → (∀ q ∈ l, c.accepts q.2.1.toNat q.2.2) →
    ¬ c.accepts y.toNat acc →
    exec i s = .next (s.programFault { c with fmttrap := c.tagOf y.toNat + acc * 2 ^ 4 + y.toNat * 2 ^ 13 + n * 2 ^ 18 + 2 ^ 20 } 0x04 0 c.pc
      ((wordOf i).zeroExtend 64))

theorem vectorOpAt_faults {checks : List (Nat × R5 × Nat)} (hx : exec i s = vectorOpAt i e scal named chk srcs offs go s)
    (hr : Runs s c e (scal.map BitVec.toNat) (named.map BitVec.toNat)) (hc : chk c = (checks.map fun q => (q.1, q.2.1.toNat, q.2.2)) := by rfl) :
    s.VectorFaults c i named checks := by
  refine ⟨fun h => ?_, fun l n y acc u hfoot hsplit hl hy => ?_⟩
  · refine hx.trans (issue_faults (xval := none) hr (withVectors_footprint ?_))
    simpa using h
  · refine hx.trans ((issue_runs hr).trans ?_)
    have hrec : c.formatFault (chk c) = some (formatRec (c.tagOf y.toNat) acc y.toNat n) := by
      rw [hc, hsplit, List.map_append, List.map_cons]
      exact Ctx.formatFault_first (List.forall_mem_map.2 hl) hy
    have hbody := withVectors_format (s := s) (srcs := srcs.map BitVec.toNat) (offs := offs.map BitVec.toNat) (go := go s)
      (named := named.map BitVec.toNat) (by simpa using hfoot) hrec
    rw [hbody]; rfl

theorem vectorOp_faults {checks : List (Nat × R5 × Nat)} (hx : exec i s = vectorOp i e scal named chk srcs go s)
    (hr : Runs s c e (scal.map BitVec.toNat) (named.map BitVec.toNat))
    (hc : chk c = (checks.map fun q => (q.1, q.2.1.toNat, q.2.2)) := by rfl) : s.VectorFaults c i named checks :=
  vectorOpAt_faults (offs := []) hx hr hc

/-- A vector instruction that writes a result, in a state where its sources can be read and its result is taken. -/
theorem vectorOp_writes {y z : Ctx} {r : VReg} {d : R5} {fin : Ctx → Eff} (hx : exec i s = vectorOp i e scal named chk srcs go s)
    (hr : Runs s c e (scal.map BitVec.toNat) (named.map BitVec.toNat)) (hc : c.sources (named.map BitVec.toNat) (chk c) (srcs.map BitVec.toNat) x)
    (hg : go s x = writeVector s x d.toNat r fin) (hy : s.takesResult x d.toNat r y) (hf : fin y = .done s z) :
    exec i s = .next (s.past c e z) :=
  hx.trans (issue_done (body := fun st c => withVectors st c (named.map BitVec.toNat) (chk c) (srcs.map BitVec.toNat) [] (go st)) hr
    (withVectors_done hc ((hg.trans (writeVector_takes hy)).trans hf)))

theorem vectorOp_writesLanes {d : R5} {tag w : Nat} {m : W64} {f g : Nat → Res} (hx : exec i s = vectorOp i e scal named chk srcs go s)
    (hr : Runs s c e (scal.map BitVec.toNat) (named.map BitVec.toNat)) (hc : c.sources (named.map BitVec.toNat) (chk c) (srcs.map BitVec.toNat) x)
    (hg : go s x = writeLanes s x d tag w m g) (hfg : f = g) : s.writesLanes c x e i d tag w m f := by
  subst hfg
  exact fun y hy => vectorOp_writes (fin := fun z => .done s (z.raise (lanewise w m (x.getV d.toNat).bits f).2)) hx hr hc hg hy rfl

end forms

/-! ## What popping leaves (R161) -/

theorem Ctx.slotOf_putSlot_other (c : Ctx) {x : Slot} {q : Nat} (h : q ≠ x.reg) : (c.putSlot x).slotOf q = c.slotOf q := by
  unfold Ctx.slotOf Ctx.putSlot
  induction c.slots with
  | nil => rfl
  | cons y l ih =>
    rw [List.map_cons, List.find?_cons, List.find?_cons, ih]
    by_cases hy : y.reg = x.reg
    · have hx : (x.reg == q) = false := by simpa using fun e => h e.symm
      rw [hy, hx]; simp [hx]
    · simp [hy]

/-- A register that has been read shows the tag that its check saw, and no other register is touched. -/
theorem Ctx.pop_ok {c x : Ctx} {r : Nat} (h : c.pop r = .ok x) :
    (r < 32 → (x.getV r).tag = c.tagOf r) ∧ ∀ q, q ≠ r → x.getV q = c.getV q ∧ x.slotOf q = c.slotOf q := by
  unfold Ctx.pop at h
  unfold Ctx.tagOf
  cases hs : c.slotOf r with
  | none =>
    rw [hs] at h
    cases h
    exact ⟨fun _ => rfl, fun _ _ => ⟨rfl, rfl⟩⟩
  | some sl =>
    have hreg : sl.reg = r := by simpa using List.find?_some hs
    rw [hs] at h
    dsimp only at h ⊢
    split at h
    · next hp =>
      cases h
      rw [if_pos hp]
      exact ⟨fun _ => rfl, fun _ _ => ⟨rfl, rfl⟩⟩
    · next hp =>
      rw [if_neg hp]
      split at h
      · cases h
        exact ⟨fun hr => by rw [Ctx.getV_setV_same _ _ _ hr], fun q hq => ⟨Ctx.getV_setV_other _ _ _ _ hq, rfl⟩⟩
      · split at h
        · cases h
        · split at h <;> cases h
          refine ⟨fun hr => ?_, fun q hq => ⟨Ctx.getV_setV_other _ _ _ _ hq, ?_⟩⟩
          · exact congrArg VReg.tag (Ctx.getV_setV_same _ _ _ hr)
          · exact Ctx.slotOf_putSlot_other (x := { sl with pos := sl.pos + 1, staged := Map.del sl.staged sl.pos }) _ (hreg ▸ hq)

/-- What is popped after another register keeps its own tag: each source shows the tag that its check saw. -/
theorem Ctx.popAll_tag {srcs seen : List Nat} {c x : Ctx} (h : c.popAll seen srcs = .ok x) :
    (∀ r ∈ srcs, r ∉ seen → r < 32 → (x.getV r).tag = c.tagOf r) ∧ ∀ r ∈ seen, x.getV r = c.getV r := by
  induction srcs generalizing seen c with
  | nil => cases h; simp
  | cons r l ih =>
    unfold Ctx.popAll at h
    by_cases hr : r ∈ seen
    · simp only [List.contains_eq_mem, hr, decide_true, if_true] at h
      obtain ⟨hnew, hold⟩ := ih h
      refine ⟨fun q hq hns => ?_, hold⟩
      rcases List.mem_cons.1 hq with rfl | hq
      · exact absurd hr hns
      · exact hnew q hq hns
    · simp only [List.contains_eq_mem, hr, decide_false, Bool.false_eq_true, if_false] at h
      cases hp : c.pop r with
      | ok y =>
        rw [hp] at h
        obtain ⟨hnew, hold⟩ := ih h
        obtain ⟨hsame, hother⟩ := Ctx.pop_ok hp
        refine ⟨fun q hq hns hq32 => ?_, fun q hq => ?_⟩
        · by_cases hqr : q = r
          · subst hqr
            rw [hold q (by simp), hsame hq32]
          · rw [hnew q (List.mem_of_ne_of_mem hqr hq) (by simp [hqr, hns]) hq32]
            unfold Ctx.tagOf
            rw [(hother q hqr).1, (hother q hqr).2]
        · have hqr : q ≠ r := fun e => hr (e ▸ hq)
          rw [hold q (by simp [hq]), (hother q hqr).1]
      | hold => rw [hp] at h; cases h
      | bad => rw [hp] at h; cases h
      | absent => rw [hp] at h; cases h
      | poison => rw [hp] at h; cases h

/-- The tag that a source register shows once it has been read. -/
theorem Ctx.sources.tag_eq {c x : Ctx} {named srcs : List Nat} {checks : List (Nat × Nat × Nat)} (h : c.sources named checks srcs x) {r : R5}
    (hr : r.toNat ∈ srcs) : (x.getV r.toNat).tag = c.tagOf r.toNat :=
  (Ctx.popAll_tag h.2.2).1 _ hr (by simp) r.isLt

end Sys2Proof.Machine
end

section
/-! # Two-source vector forms -/

namespace Sys2Proof.Machine

/-! ## The smaller and the larger of two elements (R144) -/

/-- A choice of the larger or the smaller of two by a linear order. -/
theorem choose_extreme {α : Type} [LinearOrder α] (v : Nat → α) (larger : Bool) (x y : Nat) :
    (if decide (v y < v x) == larger then x else y) ∈ [x, y] ∧
      v (if decide (v y < v x) == larger then x else y) = if larger then max (v x) (v y) else min (v x) (v y) := by
  refine ⟨by split <;> simp, ?_⟩
  rcases lt_or_ge (v y) (v x) with h | h <;> cases larger <;> simp [h, le_of_lt, not_lt_of_ge]

/-- A code of TD8 but 0x80 is a fraction. -/
theorem td8Value_fin {x : Nat} (h : x < 256) (hn : x ≠ 0x80) : ∃ s n d, td8Value x = .fin s n d ∧ 0 < d := by
  unfold td8Value
  split
  · next hx =>
    have : x = 0 := by simp at hx; omega
    exact ⟨false, 0, 1, by rw [this]; rfl, Nat.one_pos⟩
  · dsimp only
    split
    · exact ⟨_, _, _, rfl, by positivity⟩
    · exact ⟨_, _, _, rfl, by positivity⟩

theorem FVal.rat_fin (s : Bool) (n d : Nat) : (FVal.fin s n d).rat = ((FVal.fin s n d).frac.1 : ℚ) / d := by
  cases s <;> simp [FVal.rat, FVal.frac, neg_div]

/-- The order of fractions is that of the numbers that they are. -/
theorem FVal.lt_fin {s t : Bool} {n m d q : Nat} (hd : 0 < d) (hq : 0 < q) :
    (FVal.fin s n d).lt (.fin t m q) = decide ((FVal.fin s n d).rat < (FVal.fin t m q).rat) := by
  rw [FVal.rat_fin, FVal.rat_fin]
  refine decide_eq_decide.2 ?_
  rw [div_lt_div_iff₀ (by positivity) (by positivity)]
  norm_cast

theorem td8_lt {x y : Nat} (hx : x < 256) (hx' : x ≠ 0x80) (hy : y < 256) (hy' : y ≠ 0x80) :
    (td8Value y).lt (td8Value x) = decide ((td8Value y).rat < (td8Value x).rat) := by
  obtain ⟨s, n, d, ex, hd⟩ := td8Value_fin hx hx'
  obtain ⟨t, m, q, ey, hq⟩ := td8Value_fin hy hy'
  rw [ex, ey, FVal.lt_fin hq hd]

theorem minmaxElem_td8_nan (larger : Bool) {x y : Nat} (h : x = 0x80 ∨ y = 0x80) : minmaxElem larger 5 x y = ⟨0x80, 0⟩ := by
  rcases h with rfl | rfl <;> simp [minmaxElem, tagFmt]

theorem minmaxElem_td8 (larger : Bool) {x y : Nat} (hx : x < 256) (hx' : x ≠ 0x80) (hy : y < 256) (hy' : y ≠ 0x80) :
    minmaxElem larger 5 x y = ⟨if decide ((td8Value y).rat < (td8Value x).rat) == larger then x else y, 0⟩ := by
  simp [minmaxElem, tagFmt, hx', hy', td8_lt hx hx' hy hy']

theorem minmaxElem_int (larger : Bool) {t : Nat} (ht : t ∈ [1, 6, 7, 8]) (x y : Nat) :
    minmaxElem larger t x y = ⟨if decide (elemInt t y < elemInt t x) == larger then x else y, 0⟩ := by
  simp only [List.mem_cons, List.not_mem_nil, or_false] at ht
  rcases ht with rfl | rfl | rfl | rfl <;> rfl

/-- An element as an integer, by its tag (R17). -/
theorem elemInt_eq {t : Nat} (ht : t ∈ [1, 6, 7, 8]) {x : Nat} (hx : x < 2 ^ tagWidth t) :
    elemInt t x = if (t = 1 ∨ t = 6) ∧ 2 ^ (tagWidth t - 1) ≤ x then (x : Int) - 2 ^ tagWidth t else x := by
  simp only [List.mem_cons, List.not_mem_nil, or_false] at ht
  rcases ht with rfl | rfl | rfl | rfl <;> simp [elemInt, tagSigned, tagWidth, signed] at hx ⊢
  all_goals rw [Nat.mod_eq_of_lt hx]; split <;> split <;> omega

/-! ## Sources by shape of form -/

section shapes
variable {s : State} {c x : Ctx} {e : List Ext} {i : Instr} {d a b z : R5} {k : BitVec 3} {acc : Nat}

theorem binary_faults {f : Nat → Nat → Nat → Res} (hx : exec i s = binary i e d a b k acc f s)
    (hr : Runs s c e [] [d.toNat, a.toNat, b.toNat]) :
    s.VectorFaults c i [d, a, b] [(0, a, acc), (1, b, 2 ^ c.tagOf a.toNat)] := by
  unfold binary at hx
  exact vectorOp_faults hx hr

theorem unary_faults {f : Nat → Nat → Res} (hx : exec i s = unary i e d a k acc f s) (hr : Runs s c e [] [d.toNat, a.toNat]) :
    s.VectorFaults c i [d, a] [(0, a, acc)] := by
  unfold unary at hx
  exact vectorOp_faults hx hr

theorem logic_faults {f : Nat → Nat → Nat} (hx : exec i s = logic i e d a b k f s) (hr : Runs s c e [] [d.toNat, a.toNat, b.toNat]) :
    s.VectorFaults c i [d, a, b] [(0, a, tagsANY), (1, b, tagsANY)] := by
  unfold logic at hx
  exact vectorOp_faults hx hr

theorem fused_faults {r : BitVec 2} {np nc : Bool} (hx : exec i s = fused i e d a b z k r np nc s) (hr : Runs s c e [] [d.toNat, a.toNat, b.toNat, z.toNat]) :
    s.VectorFaults c i [d, a, b, z] [(0, a, tagsFP), (1, b, 2 ^ c.tagOf a.toNat), (2, z, 2 ^ c.tagOf a.toNat)] := by
  unfold fused at hx
  exact vectorOp_faults hx hr

theorem dot_faults {rm tag : Nat} {nan : Nat → Fmt × Nat} {val : Nat → FVal} (hx : exec i s = dot i e d a b z k rm tag nan val s) (hr : Runs s c e [] [d.toNat, a.toNat, b.toNat, z.toNat]) :
    s.VectorFaults c i [d, a, b, z] [(0, a, 2 ^ tag), (1, b, 2 ^ tag), (2, z, 4)] := by
  unfold dot at hx
  exact vectorOp_faults hx hr

theorem reduction_faults {f : Ctx → VReg → Res × Nat} (hx : exec i s = reduction i e d a acc f s) (hr : Runs s c e [] [d.toNat, a.toNat]) :
    s.VectorFaults c i [d, a] [(0, a, acc)] := by
  unfold reduction at hx
  exact vectorOp_faults hx hr

theorem accumulate_faults {kind : Nat} (hx : exec i s = accumulate i e d a k kind acc s) (hr : Runs s c e [] [a.toNat]) :
    s.VectorFaults c i [a] [(0, a, acc)] := by
  unfold accumulate at hx
  exact vectorOp_faults hx hr

/-- A form with two sources of one tag writes its value element by element. -/
theorem binary_writes {f : Nat → Nat → Nat → Res} {g : Nat → Nat → Res} (hx : exec i s = binary i e d a b k acc f s)
    (hr : Runs s c e [] [d.toNat, a.toNat, b.toNat]) (hfg : g = f (c.tagOf a.toNat))
    (hc : c.sources [d.toNat, a.toNat, b.toNat] [(0, a.toNat, acc), (1, b.toNat, 2 ^ c.tagOf a.toNat)] [a.toNat, b.toNat] x) :
    s.writesLanes c x e i d (x.getV a.toNat).tag (tagWidth (x.getV a.toNat).tag) (x.getK k.toNat) fun n =>
      g (elem (tagWidth (c.tagOf a.toNat)) (x.getV a.toNat).bits n) (elem (tagWidth (c.tagOf a.toNat)) (x.getV b.toNat).bits n) := by
  refine vectorOp_writesLanes hx hr hc rfl ?_
  rw [hfg, ← hc.tag_eq (r := a) (by simp)]
  rfl

theorem logic_writes {f : Nat → Nat → Nat} (hx : exec i s = logic i e d a b k f s) (hr : Runs s c e [] [d.toNat, a.toNat, b.toNat])
    (hc : c.sources [d.toNat, a.toNat, b.toNat] [(0, a.toNat, tagsANY), (1, b.toNat, tagsANY)] [a.toNat, b.toNat] x) :
    s.writesLanes c x e i d (x.getV a.toNat).tag 32 (x.getK k.toNat) fun n =>
      ⟨f (elem 32 (x.getV a.toNat).bits n) (elem 32 (x.getV b.toNat).bits n), 0⟩ := by
  unfold logic at hx
  exact vectorOp_writesLanes hx hr hc rfl rfl

end shapes

/-- Settles O23. -/
theorem vectorBinary : Obligations.VectorBinary := by
  refine ⟨?_, ?_, ?_, ?_, ?_⟩
  · intro s c e d a b z k r t cc sp m o hr num all same one two any three p hp
    have h2 : Runs s c e [] [d.toNat, a.toNat] := hr.mono
    have h3 : Runs s c e [] [d.toNat, a.toNat, b.toNat] := hr.mono
    have h4 : Runs s c e [] [d.toNat, a.toNat, b.toNat, z.toNat] := hr.mono
    have ha : Runs s c e [] [a.toNat] := hr.mono
    have hab : Runs s c e [] [a.toNat, b.toNat] := hr.mono
    have hdb : Runs s c e [d.toNat, b.toNat] [a.toNat] := hr.mono
    have hd : Runs s c e [a.toNat] [d.toNat] := hr.mono
    have hins : Runs s c e [a.toNat, b.toNat] [d.toNat] := hr.mono
    have hga : Runs s c e [a.toNat] [d.toNat, b.toNat] := hr.mono
    show s.VectorFaults c p.1 p.2.1 p.2.2
    revert p
    simp only [List.forall_mem_cons, List.not_mem_nil, false_implies, implies_true, and_true]
    refine ⟨?_, ?_, ?_, ?_, ?_, ?_, ?_, ?_, ?_, ?_, ?_, ?_, ?_, ?_, ?_, ?_, ?_, ?_, ?_, ?_, ?_, ?_, ?_, ?_, ?_, ?_, ?_, ?_, ?_, ?_, ?_, ?_, ?_, ?_, ?_, ?_, ?_, ?_, ?_, ?_, ?_, ?_⟩
    · exact binary_faults (show execVadd e d a b k r s = _ from rfl) h3
    · exact binary_faults (show execVsub e d a b k r s = _ from rfl) h3
    · exact binary_faults (show execVmul e d a b k r s = _ from rfl) h3
    · exact binary_faults (show execVmin e d a b k s = _ from rfl) h3
    · exact binary_faults (show execVmax e d a b k s = _ from rfl) h3
    · exact binary_faults (show execVshl e d a b k s = _ from rfl) h3
    · exact binary_faults (show execVshr e d a b k s = _ from rfl) h3
    · exact binary_faults (show execVsra e d a b k s = _ from rfl) h3
    · exact logic_faults (show execVand e d a b k s = _ from rfl) h3
    · exact logic_faults (show execVor e d a b k s = _ from rfl) h3
    · exact logic_faults (show execVxor e d a b k s = _ from rfl) h3
    · exact vectorOp_faults (show execVperm e d a b k s = _ from rfl) h3
    · exact vectorOp_faults (show execVsel e d a b k s = _ from rfl) h3
    · exact vectorOp_faults (show execVcmp e d a b cc k s = _ from rfl) hab
    · exact unary_faults (show execVabs e d a k s = _ from rfl) h2
    · exact unary_faults (show execVneg e d a k s = _ from rfl) h2
    · exact unary_faults (show execVexp2 e d a k r s = _ from rfl) h2
    · exact unary_faults (show execVlog2 e d a k r s = _ from rfl) h2
    · exact unary_faults (show execVrcp e d a k r s = _ from rfl) h2
    · exact unary_faults (show execVrsqrt e d a k r s = _ from rfl) h2
    · exact vectorOp_faults (show execVcvt e d a t k r s = _ from rfl) h2
    · exact vectorOp_faults (show execVtag e d a t s = _ from rfl) h2
    · exact vectorOp_faults (show execVmov e d a k s = _ from rfl) h2
    · exact vectorOp_faults (show execVext e d a b s = _ from rfl) hdb
    · exact reduction_faults (show execVredsum e d a k r s = _ from rfl) h2
    · exact reduction_faults (show execVredmax e d a k s = _ from rfl) h2
    · exact reduction_faults (show execVredmin e d a k s = _ from rfl) h2
    · exact fused_faults (show execVfma e d a b z k r s = _ from rfl) h4
    · exact fused_faults (show execVfms e d a b z k r s = _ from rfl) h4
    · exact fused_faults (show execVfnma e d a b z k r s = _ from rfl) h4
    · exact dot_faults (tag := 3) (show execVdotBf16 e d a b z k r s = _ from rfl) h4
    · exact dot_faults (tag := 5) (show execVdotTd8 e d a b z k r s = _ from rfl) h4
    · exact accumulate_faults (show execCkaccMod e d a k s = _ from rfl) ha
    · exact accumulate_faults (show execCkaccFsum e d a k s = _ from rfl) ha
    · exact vectorOp_faults (show execVbcast e d a t k s = _ from rfl) hd
    · exact vectorOp_faults (show execVins e d a b s = _ from rfl) hins
    · exact vectorOp_faults (show execVld e d a t m o s = _ from rfl) hd
    · exact vectorOp_faults (show execVst e d a m o s = _ from rfl) hd
    · exact vectorOp_faults (show execVldg e d a t o s = _ from rfl) hd
    · exact vectorOp_faults (show execVstg e d a o s = _ from rfl) hd
    · exact vectorOpAt_faults (show execVgath e d a b sp t k s = _ from rfl) hga
    · exact vectorOpAt_faults (show execVscat e d a b sp k s = _ from rfl) hga
  · intro t ht larger x y hx hy r
    by_cases h5 : t = 5
    · subst h5
      refine ⟨fun _ => minmaxElem_td8_nan larger, fun _ hx' hy' => ?_, fun h => absurd rfl h⟩
      obtain ⟨hmem, hval⟩ := choose_extreme (fun n => (td8Value n).rat) larger x y
      simp only [r, minmaxElem_td8 larger hx hx' hy hy']
      exact ⟨trivial, by simpa using hmem, hval⟩
    · have ht' : t ∈ [1, 6, 7, 8] := by
        simp only [List.mem_cons, List.not_mem_nil, or_false] at ht ⊢; omega
      refine ⟨fun h => absurd h h5, fun h => absurd h h5, fun _ => ⟨elemInt_eq ht' hx, ?_⟩⟩
      obtain ⟨hmem, hval⟩ := choose_extreme (elemInt t) larger x y
      simp only [r, minmaxElem_int larger ht']
      exact ⟨trivial, by simpa using hmem, hval⟩
  · intro f hf larger x y
    simp only [List.mem_cons, List.not_mem_nil, or_false] at hf
    rcases hf with rfl | rfl | rfl <;> rfl
  · intro s c x e d a b k r hr t w bin
    simp only [List.forall_mem_cons, List.not_mem_nil, false_implies, implies_true, and_true]
    refine ⟨?_, ?_, ?_, ?_, ?_, ?_, ?_, ?_⟩
    · exact binary_writes (show execVadd e d a b k r s = _ from rfl) hr rfl
    · exact binary_writes (show execVsub e d a b k r s = _ from rfl) hr rfl
    · exact binary_writes (show execVmul e d a b k r s = _ from rfl) hr rfl
    · exact binary_writes (show execVmin e d a b k s = _ from rfl) hr rfl
    · exact binary_writes (show execVmax e d a b k s = _ from rfl) hr rfl
    · exact binary_writes (g := fun u v => ⟨u * 2 ^ (v % w) % 2 ^ w, 0⟩) (show execVshl e d a b k s = _ from rfl) hr rfl
    · exact binary_writes (g := fun u v => ⟨u / 2 ^ (v % w), 0⟩) (show execVshr e d a b k s = _ from rfl) hr rfl
    · exact binary_writes (g := fun u v => ⟨wrap w (signed w u / (2 ^ (v % w) : Nat)), 0⟩) (show execVsra e d a b k s = _ from rfl) hr rfl
  · intro s c x e d a b k hr u v m
    simp only [List.forall_mem_cons, List.not_mem_nil, false_implies, implies_true, and_true]
    refine ⟨fun h => ?_, fun h => ?_, fun h => ?_, fun h => ?_, fun h => ?_⟩
    · exact logic_writes (show execVand e d a b k s = _ from rfl) hr h
    · exact logic_writes (show execVor e d a b k s = _ from rfl) hr h
    · exact logic_writes (show execVxor e d a b k s = _ from rfl) hr h
    · exact vectorOp_writesLanes (show execVperm e d a b k s = _ from rfl) hr h rfl rfl
    · refine vectorOp_writesLanes (show execVsel e d a b k s = _ from rfl) hr h rfl (funext fun n => ?_)
      cases m.getLsbD n <;> simp [u, v, Ctx.src]

end Sys2Proof.Machine
end

section
/-! # The frame of the vector register forms fails in a state whose contexts share a key -/

namespace Sys2Proof.Machine

theorem State.onlyContexts.core_eq {s t : State} (h : s.onlyContexts t) (q : Nat) : t.core q = s.core q := by
  rw [h]; rfl

/-- A task on core 0 that holds the lease of the granule at 0x50000. -/
def leaseHolder : Ctx :=
  { Ctx.fresh 2 0 0 0 1 0 0x50000 { fetchStart 0 0x1000 with lease := 16 } with leaseV := true }

/-- A task of the same core and slot that waits for granules and is woken by the return of any lease. -/
def keySharer : Ctx := { Ctx.fresh 3 0 0 0 1 0 0 (fetchStart 0 0x1000) with st := .parked, wait := some (.granules [] true) }

/-- The lease holder issues; the sharer of its key stands under another number, so that the state is not `Keyed`. -/
def sharedKey : State :=
  { State.reset with
    ctxs := [(0, leaseHolder), (1, keySharer)], focus := some 0, stamp := 10
    cores := State.reset.cores.put 0 { State.reset.core 0 with leases := [⟨0x50000, 16, 2, 0⟩] } }

/-- The next state of a `vadd` whose source register has tag 0 (R139). -/
def sharedKeyEnd : State := sharedKey.programFault { leaseHolder with fmttrap := formatRec 0 (tagsFP + tagsINT) 0 0 } 0x04 0 leaseHolder.pc
  ((wordOf (.vadd [] 0 0 0 0 0)).zeroExtend 64)

theorem exec_sharedKey : exec (.vadd [] 0 0 0 0 0) sharedKey = .next sharedKeyEnd := by
  have hr : Runs sharedKey leaseHolder [] [] [0, 0, 0] := ⟨by decide +kernel, by decide +kernel, by decide +kernel⟩
  have h := (binary_faults (i := .vadd [] 0 0 0 0 0) (s := sharedKey) (d := 0) (a := 0) (b := 0) (show execVadd [] 0 0 0 0 0 sharedKey = _ from rfl) hr).2
    [] 0 0 (tagsFP + tagsINT) _ (by decide) rfl (by simp) (by decide +kernel)
  exact h

/-- The sharer of the key is found under it behind the end of the lease holder. -/
theorem ctx_sharedKeyEnd : (sharedKeyEnd.ctx leaseHolder.key).isSome := by decide +kernel

/-- Its lease has been returned. -/
theorem leases_sharedKeyEnd : (sharedKeyEnd.core 0).leases = [] ∧ (sharedKey.core 0).leases ≠ [] := by decide +kernel

/-- Refutes O26: a `vadd` that faults `FORMAT` returns its task's lease, which changes the core, and wakes a context that stands under another
number with the key of the task, so that the key still finds a context. -/
theorem not_vectorFrame : ¬ Obligations.VectorFrame := by
  intro h
  obtain ⟨honly, -, -⟩ := h sharedKey sharedKeyEnd leaseHolder [] 0 0 0 0 0 0 0 _ (by decide +kernel) (by decide +kernel) rfl (by decide +kernel)
    (by decide) (by decide) (List.mem_cons_self ..) exec_sharedKey ctx_sharedKeyEnd
  have hcores := honly.core_eq 0
  exact leases_sharedKeyEnd.2 (hcores ▸ leases_sharedKeyEnd.1)

end Sys2Proof.Machine
end

section
/-! # Records that an instruction reads, and stream bindings -/

namespace Sys2Proof.Machine

/-! ## Records (R159, R227) -/

/-- A record at hand is what the instruction goes on with. -/
theorem withBytes_reads {s u : State} {c : Ctx} {va n : Nat} {f : Ctx → Ctx} {b : List Byte} {go : State → (Ctx → Ctx) → List Byte → Eff}
    (h : s.readsRecord c va n u f b) : withBytes s c va n go = go u f b := by
  obtain ⟨pa, v, htr, hwait, hline, hread, rfl, rfl⟩ := h
  simp [withBytes, withXlate, htr, hwait, hline, hread]

theorem Ctx.predict_slots (c : Ctx) (r : Option Nat) (own : Bool) : (c.predict r own).slots = c.slots := by
  unfold Ctx.predict; split <;> split <;> rfl

/-- The reading of a record changes no stream slot. -/
theorem State.readsRecord.slots_eq {s u : State} {c y : Ctx} {va n : Nat} {f : Ctx → Ctx} {b : List Byte} (h : s.readsRecord c va n u f b) :
    (f y).slots = y.slots := by
  obtain ⟨pa, v, -, -, -, -, rfl, -⟩ := h
  exact Ctx.predict_slots _ _ _

/-! ## Stream bindings (R159, R163, R164) -/

theorem Ctx.draining_iff (c : Ctx) (r : Nat) : c.draining r = true ↔ ∃ y ∈ c.slots, y.reg = r ∧ y.push = true ∧ y.staged ≠ [] := by
  simp [Ctx.draining, and_assoc]

section forms
variable {s u : State} {c : Ctx} {f : Ctx → Ctx} {e : List Ext} {d a : R5} {b : List Byte} {i : Instr} {push : Bool}
  (hx : exec i s = bindStream i e d a push s) (hr : Runs s c e [a.toNat] [d.toNat]) (hd : d.toNat < footLimit c.foot)

/-- What `sbind` does with the record's bytes, in the order of R159. -/
def bindRecord (c : Ctx) (d a : R5) (push : Bool) (u : State) (f : Ctx → Ctx) (b : List Byte) : Eff :=
  let h := shapeOf b
  if push && h.space == 2 then .fault 0x01 5 (addrVal (c.rs a).toNat)
  else if push && c.heavy && (h.space == 1 || h.leavesLease c) then .fault 0x08 0 none
  else if (c.slotOf d.toNat).isNone && 4 ≤ c.slots.length then .fault 0x01 4 none
  else if c.draining d.toNat then .held u c
  else
    let c := (f c).unbind d.toNat
    .done u.tickStamp { c with slots := c.slots ++ [⟨d.toNat, push, h, 0, [], 0, u.stamp, []⟩] }

include hx hr hd

theorem bindStream_unreached (hu : s.unreached c = true) : exec i s = .next (s.holds c) := by
  refine hx.trans ((issue_runs hr).trans (congrArg _ ?_))
  simp only [Nat.not_le.2 hd, if_false, hu, if_true]
  rfl

/-- `sbind` of a legal record that is at hand. -/
theorem bindStream_reads (hu : s.unreached c = false) (hal : (c.rs a).toNat % 64 = 0) (hrec : s.readsRecord c (c.rs a).toNat 64 u f b)
    (hok : rejectShape b (c.rs a).toNat = none) :
    exec i s = .next (settle s c (groupWords e) (wordOf i) false (bindRecord c d a push u f b)) := by
  refine hx.trans ((issue_runs hr).trans (congrArg (fun x => Host.Outcome.next (settle s c (groupWords e) (wordOf i) false x)) ?_))
  simp only [Nat.not_le.2 hd, if_false, hu, Bool.false_eq_true, hal, bne_self_eq_false, checked_cons, checked_nil, withBytes_reads hrec, hok]
  rfl

end forms

/-- Settles O29. -/
theorem streamBindings : Obligations.StreamBindings := by
  intro s u c f e d a b hr hd ra forms
  have hforms : ∀ p ∈ forms, exec p.1 s = bindStream p.1 e d a p.2 s := by
    intro p hp
    simp only [forms, List.mem_cons, List.not_mem_nil, or_false] at hp
    rcases hp with rfl | rfl <;> rfl
  refine ⟨c.draining_iff _, fun hq => ?_, fun hq => ?_, fun hu p hp => bindStream_unreached (hforms p hp) hr hd hu, fun hu hal hrec hok => ?_⟩
  · show execSfree e d s = _
    refine issue_done (x := []) (v := [d.toNat]) hr.mono ?_
    simp only [Nat.not_le.2 hd, if_false, hq, Bool.false_eq_true]
    rfl
  · show execSfree e d s = _
    refine (issue_runs (x := []) (v := [d.toNat]) hr.mono).trans (congrArg _ ?_)
    simp only [Nat.not_le.2 hd, if_false, hq, if_true]
    rfl
  · intro h room p hp outside
    rw [bindStream_reads (hforms p hp) hr hd hu hal hrec hok]
    unfold bindRecord
    have htile : (p.2 && (shapeOf b).space == 2) = decide (p.2 = true ∧ h.space = 2) := by
      rw [Bool.eq_iff_iff]; simp [h]
    have hlease : (p.2 && c.heavy && ((shapeOf b).space == 1 || (shapeOf b).leavesLease c)) = decide outside := by
      rw [Bool.eq_iff_iff]; simp [outside, h, and_assoc]
    have hfull : ((c.slotOf d.toNat).isNone && decide (4 ≤ c.slots.length)) = decide (¬ room) := by
      rw [Bool.eq_iff_iff]; simp [room]
    refine ⟨fun h1 h2 => ?_, fun hlocal => ?_⟩
    · dsimp only
      rw [htile, if_pos (decide_eq_true ⟨h1, h2⟩)]
      rfl
    · have hnot : ¬ (p.2 = true ∧ h.space = 2) := fun hp => hlocal hp.1 hp.2
      simp only [htile, hlease, hfull, hnot, decide_false, Bool.false_eq_true, if_false]
      refine ⟨fun hout => ?_, fun hout hroom => ?_, fun hout hroom => ⟨fun hq => ?_, fun hq => ?_⟩⟩
      · simp only [hout, decide_true, if_true]
        rfl
      · simp only [hout, hroom, not_false_eq_true, decide_true, decide_false, Bool.false_eq_true, if_false, if_true]
        rfl
      · simp only [hout, hroom, hq, not_true, decide_false, Bool.false_eq_true, if_false, if_true]
        rfl
      · simp only [hout, hroom, hq, not_true, decide_false, Bool.false_eq_true, if_false, settle_done, Ctx.unbind, hrec.slots_eq]
        rfl

end Sys2Proof.Machine
end

section
/-! # Descriptors and matrix commands -/

namespace Sys2Proof.Machine

/-! ## Entering the matrix queue (R185) -/

theorem enqueue_room {s : State} {c : Ctx} {op : MOp} (h : (s.core c.start).mq.length < 16) : enqueue s c op = .done (s.queued c op) c := by
  rw [enqueue, if_neg (by omega)]; rfl

/-- A format check whose operands all pass (R174). -/
theorem formatCheck_none {l : List (Nat × Nat × Nat × Nat)} (h : ∀ p ∈ l, p.2.2.1 ≤ 8 ∧ bit p.2.2.2 p.2.2.1 = true) : formatCheck l = none := by
  induction l with
  | nil => rfl
  | cons p l ih =>
    obtain ⟨⟨hle, hbit⟩, hl⟩ := List.forall_mem_cons.1 h
    simp [formatCheck, hle, hbit, ih hl]

theorem formatCheck_window {o r f : Nat} (h : f = 1 ∨ f = 2) : formatCheck [(o, r, f, fmtsWindow)] = none := by
  rcases h with rfl | rfl <;> rfl

/-- Popping a register leaves the core on which its context started. -/
theorem Ctx.pop_start {c x : Ctx} {r : Nat} (h : c.pop r = .ok x) : x.start = c.start := by
  unfold Ctx.pop at h
  split at h
  · cases h; rfl
  · split at h
    · cases h; rfl
    · split at h
      · cases h; rfl
      · split at h
        · cases h
        · split at h <;> cases h
          rfl

theorem Ctx.popAll_start {srcs seen : List Nat} {c x : Ctx} (h : c.popAll seen srcs = .ok x) : x.start = c.start := by
  induction srcs generalizing seen c with
  | nil => cases h; rfl
  | cons r l ih =>
    unfold Ctx.popAll at h
    split at h
    · exact ih h
    · split at h
      · next hp => exact (ih h).trans (Ctx.pop_start hp)
      · next hp => exact absurd h (hp x)

/-- The tags of checked operands are among those accepted. -/
theorem Ctx.accepts_of_formatFault {c : Ctx} {l : List (Nat × Nat × Nat)} (h : c.formatFault l = none) :
    ∀ p ∈ l, c.tagOf p.2.1 ≤ 8 ∧ bit p.2.2 (c.tagOf p.2.1) = true := by
  induction l with
  | nil => simp
  | cons p l ih =>
    unfold Ctx.formatFault at h
    dsimp only at h
    split at h
    · next hp =>
      rw [Bool.and_eq_true, decide_eq_true_eq] at hp
      exact List.forall_mem_cons.2 ⟨hp, ih h⟩
    · cases h

/-! ## Commands on windows (R177 to R183) -/

section windows
variable {s : State} {c x : Ctx} {e : List Ext} {i : Instr} {scal : List R5} {d a b : R5} {o : Nat} {go : State → Ctx → W64 → Eff} {op : MOp}

/-- A command on a window of an accepted format does what it does with the descriptor. -/
theorem windowOp_done {t : State} {y : Ctx} (hx : exec i s = windowOp i e scal d o go s) (hr : Runs s c e (scal.map BitVec.toNat) [])
    (hf : wFmt (c.getM d.toNat) = 1 ∨ wFmt (c.getM d.toNat) = 2) (hg : go s c (c.getM d.toNat) = .done t y) :
    exec i s = .next (t.past c e y) := by
  refine hx.trans (issue_done hr ?_)
  rw [formatCheck_window hf]
  exact hg

/-- An `mst` form whose range may be stored to. -/
theorem matrixStore_done {form : Nat} (hx : exec i s = matrixStore i e d a form s) (hr : Runs s c e [a.toNat] [])
    (hq : (s.core c.start).mq.length < 16) (hf : wFmt (c.getM d.toNat) = 1 ∨ wFmt (c.getM d.toNat) = 2) (hal : (c.rs a).toNat % 16 = 0)
    (hin : (c.rs a).toNat + mstBytes form * wRows (c.getM d.toNat) * wCols (c.getM d.toNat) ≤ 0x80000)
    (ht : c.mayTouch (c.rs a).toNat (mstBytes form * wRows (c.getM d.toNat) * wCols (c.getM d.toNat)))
    (hg : (s.core c.start).guarded c.uid (c.rs a).toNat (mstBytes form * wRows (c.getM d.toNat) * wCols (c.getM d.toNat)) = false)
    (htag : (s.core c.start).tagged (c.rs a).toNat (mstBytes form * wRows (c.getM d.toNat) * wCols (c.getM d.toNat)) = false) :
    exec i s = .next ((s.queued c (.mst (c.getM d.toNat) (c.rs a).toNat form)).past c e c) := by
  unfold matrixStore at hx
  refine windowOp_done (scal := [a]) hx hr hf ((checked_pass ?_).trans (enqueue_room hq))
  simp [hal, beyondLocal_eq, hin, hg, htag]
  exact ht

end windows

/-! ## Indices of an `mma` (R174) -/

theorem badIndex_none {x : VReg} {nr rows : Nat}
    (h : ∀ i, i < nr → 0 ≤ elemInt x.tag (elem 32 x.bits i) ∧ elemInt x.tag (elem 32 x.bits i) < rows) : badIndex x nr rows = none := by
  simp only [badIndex, Option.map_eq_none_iff, List.find?_eq_none, List.mem_range]
  intro i hi
  simpa using h i hi

/-- The formats of an `mma` that may run (R174). -/
theorem formatCheck_mma {oa ob : BitVec 128} {m a b v tag : Nat} {md : W64} (htag : tag ≤ 8 ∧ bit tagsI32 tag = true)
    (h : (odFmt oa = 6 ∨ odFmt oa = 8) ∧ (odFmt ob = 6 ∨ odFmt ob = 8) ∧ odScv oa = false ∧ odScv ob = false ∧ wFmt md = 1 ∨
      odFmt oa ∈ [3, 4, 5] ∧ odFmt ob = odFmt oa ∧ wFmt md = 2) :
    formatCheck [(0, a, odFmt oa, scaledSet oa fmtsOperand), (1, b, odFmt ob, scaledSet ob (pairOf (odFmt oa))), (2, v, tag, tagsI32),
      (3, m, wFmt md, if odFmt oa == 6 || odFmt oa == 8 then 2 else 4)] = none := by
  refine formatCheck_none ?_
  rcases h with ⟨ha, hb, hsa, hsb, hm⟩ | ⟨ha, hb, hm⟩
  · rcases ha with ha | ha <;> rcases hb with hb | hb <;> simp [scaledSet, ha, hb, hsa, hsb, hm, htag] <;> decide
  · simp only [List.mem_cons, List.not_mem_nil, or_false] at ha
    rcases ha with ha | ha | ha <;> simp [scaledSet, ha, hb, hm, htag] <;> decide

/-- Settles O31. -/
theorem matrixForms : Obligations.MatrixForms := by
  refine ⟨?_, ?_, ?_, ?_, ?_⟩
  · intro s c e d a b hr o w q
    refine ⟨fun h0 => ?_, fun h0 hok => ?_, fun h0 => ?_, fun h0 hfmt hfit hclaim hq => ?_⟩
    · show execOdset e d a b s = _
      refine issue_done hr ?_
      have : (odRows (c.rs b ++ c.rs a) == 0) = true := by simpa using h0
      simp only [this, if_true]
    · show execOdset e d a b s = _
      refine issue_done hr ?_
      have h1 : (odRows (c.rs b ++ c.rs a) == 0) = false := by simpa using h0
      have h2 : odFault (c.rs b ++ c.rs a) = none := hok
      simp only [h1, Bool.false_eq_true, if_false, h2]
      rfl
    · show execMwin e d a s = _
      refine issue_done (x := [a.toNat]) hr.mono ?_
      have : (wRows (c.rs a) == 0) = true := by simpa using h0
      simp only [this, if_true]
    · intro v u
      show execMwin e d a s = _
      refine issue_done (x := [a.toNat]) hr.mono ?_
      have h1 : (wRows (c.rs a) == 0) = false := by simpa using h0
      have h2 : (wFmt (c.rs a) != 1 && wFmt (c.rs a) != 2) = false := by rcases hfmt with h | h <;> simp [w, h]
      have h3 : ((s.cluster (clusterOf c.start)).claims.find (s.blockOf c.start (c.rs a)) != none &&
          (s.cluster (clusterOf c.start)).claims.find (s.blockOf c.start (c.rs a)) != some c.uid) = false := by
        rcases hclaim with h | h <;> simp [w, q, h]
      have h4 : windowFits (c.rs a) (((s.cluster (clusterOf c.start)).part[coreInCluster c.start]?).getD 0) = true := hfit
      simp only [h1, h2, h3, h4, Bool.false_eq_true, if_false, Bool.not_true, Bool.false_and, Bool.false_or, decide_eq_true_eq, not_le.2 hq]
      exact enqueue_room hq
  · intro s c e d a b hr hq m x n
    refine ⟨fun hf => ⟨?_, fun hal hin => ?_, fun hal p hp hin ht hg htag => ?_⟩, fun hf => ?_⟩
    · exact windowOp_done (scal := []) (show execMzero e d s = _ from rfl) hr.mono hf (enqueue_room hq)
    · refine windowOp_done (scal := [a]) (show execMld e d a s = _ from rfl) hr.mono hf ((checked_pass ?_).trans (enqueue_room hq))
      have hin' : (c.rs a).toNat + 4 * wRows (c.getM d.toNat) * wCols (c.getM d.toNat) ≤ 0x80000 := hin
      have hal' : (c.rs a).toNat % 16 = 0 := hal
      simp [hal', beyondLocal_eq, hin']
    · simp only [List.mem_cons, List.not_mem_nil, or_false] at hp
      rcases hp with rfl | rfl | rfl
      · exact matrixStore_done (form := 0) (show execMst e d a s = _ from rfl) hr.mono hq hf hal hin ht hg htag
      · exact matrixStore_done (form := 1) (show execMstBf16 e d a s = _ from rfl) hr.mono hq hf hal hin ht hg htag
      · exact matrixStore_done (form := 2) (show execMstTd8 e d a s = _ from rfl) hr.mono hq hf hal hin ht hg htag
    · exact windowOp_done (scal := [b]) (show execMchk e d a b s = _ from rfl) hr.mono hf (enqueue_room hq)
  · intro s c y e d a hr hq m hd hf hy
    show execMres e d a s = _
    refine issue_done (x := []) hr ?_
    have hcheck : formatCheck [(0, a.toNat, wFmt (c.getM a.toNat), fmtsWindow)] = none := formatCheck_window hf
    simp only [not_le.2 hd, if_false, hcheck]
    unfold State.awaitsResult at hy
    cases hs : c.slotOf d.toNat with
    | none =>
      rw [hs] at hy
      rw [show y = c from hy]
      exact enqueue_room hq
    | some sl =>
      rw [hs] at hy
      dsimp only at hy
      by_cases hp : sl.push = true
      · rw [if_pos hp] at hy
        obtain ⟨xl, hadm, hy⟩ := hy
        rw [hy]
        refine (if_pos hp).trans ((withPush_admits hadm).trans ?_)
        exact enqueue_room (c := c.putSlot { sl with xl := sl.xl ++ xl }) hq
      · rw [if_neg hp] at hy
        rw [show y = c from hy]
        exact (if_neg hp).trans (enqueue_room hq)
  · intro s c x e d a b hr hq m hc hf
    show execMscale e d a b s = _
    refine issue_done (x := []) hr ?_
    obtain ⟨hfoot, hformat, hpop⟩ := hc
    have htags := Ctx.accepts_of_formatFault hformat
    simp only [List.forall_mem_cons, List.not_mem_nil, false_implies, implies_true, and_true] at htags hfoot
    have h1 : ([a, b].any fun r => decide (footLimit c.foot ≤ r.toNat)) = false := by simp [hfoot]
    have h2 : formatCheck [(0, a.toNat, c.tagOf a.toNat, 4), (1, b.toNat, c.tagOf b.toNat, 4), (3, d.toNat, wFmt (c.getM d.toNat), 4)] = none := by
      refine formatCheck_none ?_
      have hf' : wFmt (c.getM d.toNat) = 2 := hf
      simp only [List.forall_mem_cons, List.not_mem_nil, false_implies, implies_true, and_true, hf']
      exact ⟨htags.1, htags.2, by decide⟩
    simp only [h1, Bool.false_eq_true, if_false, h2]
    exact withVectors_done (x := x) ⟨by simpa using hfoot, rfl, hpop⟩ (enqueue_room (by rw [Ctx.popAll_start hpop]; exact hq))
  · intro s c x e m a b v ck hr hq md oa ob int hc hfmt hidx hcols
    show execMma e m a b v ck s = _
    refine issue_done (x := []) hr ?_
    obtain ⟨hfoot, hformat, hpop⟩ := hc
    have hv : v.toNat < footLimit c.foot := hfoot _ (List.mem_singleton_self _)
    have htag := Ctx.accepts_of_formatFault hformat _ (List.mem_singleton_self _)
    have hcheck := formatCheck_mma (md := c.getM m.toNat) (oa := c.getO a.toNat) (ob := c.getO b.toNat) (m := m.toNat) (a := a.toNat)
      (b := b.toNat) (v := v.toNat) htag hfmt
    have hcols' : ¬ odRows (c.getO b.toNat) < wCols (c.getM m.toNat) := not_lt.2 hcols
    simp only [not_le.2 hv, if_false, hcheck]
    refine withVectors_done (x := x) ⟨hfoot, rfl, hpop⟩ ?_
    have hbad : badIndex (x.src v) (wRows (c.getM m.toNat)) (odRows (c.getO a.toNat)) = none := badIndex_none hidx
    simp only [hbad, hcols', if_false]
    exact enqueue_room (by rw [Ctx.popAll_start hpop]; exact hq)

end Sys2Proof.Machine
end

section
/-! # Contexts under their keys

`State.Keyed` says that every context stands under the key of its start core and slot, once (R27, R297). It speaks of nothing else of a state,
and a context is written in few ways: under its own key, taken out, or changed where it stands. So each function of the model that gives a
state keeps it, and one lemma per function says so, in the order of the model: it names the lemmas of the functions that this one calls, and
splits along its branches where they differ. What a function passes on beside a state (an effect, an outcome, a fetched group) gets a predicate
of its own, which asks `State.Keyed` of the states in it. -/

namespace Sys2Proof.Machine

variable {st : State}

/-- Both branches of a choice of states. -/
theorem State.Keyed.ite {c : Prop} [Decidable c] {t : State} (h : st.Keyed) (ht : t.Keyed) : (if c then st else t).Keyed := by
  split
  · exact h
  · exact ht

/-- A fold of steps that keep the keys. -/
theorem State.Keyed.foldl {α : Type} {l : List α} {f : State → α → State} (h : st.Keyed) (hf : ∀ x t, t.Keyed → (f t x).Keyed) :
    (l.foldl f st).Keyed := by
  induction l generalizing st with
  | nil => exact h
  | cons x l ih => exact ih (hf x st h)

/-- The same with the step's result named, for a step that the kernel should not evaluate: `State.Keyed` is an abbreviation, so that two
spellings of one state may be compared by evaluating both. -/
theorem State.Keyed.foldlOf {α : Type} {l : List α} {f : State → α → State} (h : st.Keyed) (hf : ∀ x t u, t.Keyed → f t x = u → u.Keyed) :
    (l.foldl f st).Keyed := h.foldl fun x t ht => hf x t _ ht rfl

/-- A context that is written stands under its key. -/
theorem State.Keyed.putCtx (h : st.Keyed) {c : Ctx} : (st.setCtx c).Keyed := h.setCtx c

/-- A context that is found and changed, but for its start core and slot. -/
theorem State.Keyed.modCtx (h : st.Keyed) {k : Nat} {f : Ctx → Ctx} (hf : ∀ c, (f c).key = c.key := by exact fun _ => rfl) :
    (st.modCtx k f).Keyed := by
  unfold State.modCtx
  split
  · next c e =>
      have h₁ := h.setCtx (f c)
      unfold State.setCtx at h₁
      rw [hf, h.key_eq e] at h₁
      exact h₁
  · exact h

/-- Contexts that are changed where they stand, but for their start core and slot. -/
theorem State.Keyed.mapCtxs {t : State} {f : Nat × Ctx → Nat × Ctx} (h : st.Keyed) (e : t.ctxs = st.ctxs.map f)
    (hf : ∀ p : Nat × Ctx, (f p).1 = p.1 ∧ (f p).2.key = p.2.key) : t.Keyed := by
  unfold State.Keyed
  rw [e, List.map_map]
  refine ⟨?_, fun p hp => ?_⟩
  · rw [show (Prod.fst ∘ f) = Prod.fst from funext fun p => (hf p).1]
    exact h.1
  · obtain ⟨q, hq, rfl⟩ := List.mem_map.1 hp
    rw [(hf q).1, (hf q).2]
    exact h.2 q hq

/-- The state of a pair that was taken apart. -/
theorem State.Keyed.of_fst {α : Type} {p : State × α} {x : α} (h : p.1.Keyed) (e : p = (st, x)) : st.Keyed := by
  subst e; exact h

/-- The contexts of the states that an effect carries stand under their keys. -/
def Eff.Keyed : Eff → Prop
  | .done st _ => st.Keyed
  | .jump st _ _ => st.Keyed
  | .faulted st _ _ _ => st.Keyed
  | .held st _ => st.Keyed
  | .waits st _ => st.Keyed
  | .park st _ _ => st.Keyed
  | .trap st _ _ _ _ => st.Keyed
  | .yielded st _ _ _ _ => st.Keyed
  | .ended st => st.Keyed
  | .poison st _ => st.Keyed
  | .fault _ _ _ => True
  | .format _ => True

/-- So do those of the state with which an action begins, once what it reads is at hand. -/
def Ready.Keyed : Ready → Prop
  | .go st => st.Keyed
  | .act st => st.Keyed
  | .wait => True

/-- So do those of the state that a fetch leaves. -/
def Fetched.Keyed : Fetched → Prop
  | .words st _ => st.Keyed
  | .poison st _ => st.Keyed
  | _ => True

/-- So do those of the state that a rewrite of a net leaves. -/
def Applied.Keyed : Applied → Prop
  | .ok st => st.Keyed
  | .bad _ _ => True

/-- So do those of a state that there may be. -/
def OptKeyed : Option State → Prop
  | some st => st.Keyed
  | none => True

/-- So do those of a state that there may be beside something else. -/
def OptFstKeyed {α : Type} : Option (State × α) → Prop
  | some p => p.1.Keyed
  | none => True

/-- So do those of the state that a step answers. Inductive, so that elaboration does not evaluate the outcome. -/
inductive Out.Keyed : Out → Prop
  | next {st : State} (h : st.Keyed) : Keyed (.next st)
  | fault {f : Fault} : Keyed (.fault f)
  | refused {r : Refusal} : Keyed (.refused r)

theorem Eff.Keyed.of_eq {x y : Eff} (h : x.Keyed) (e : x = y) : y.Keyed := e ▸ h

theorem Ready.Keyed.of_eq {x y : Ready} (h : x.Keyed) (e : x = y) : y.Keyed := e ▸ h

theorem Fetched.Keyed.of_eq {x y : Fetched} (h : x.Keyed) (e : x = y) : y.Keyed := e ▸ h

theorem Applied.Keyed.of_eq {x y : Applied} (h : x.Keyed) (e : x = y) : y.Keyed := e ▸ h

theorem OptKeyed.of_eq {o : Option State} (h : OptKeyed o) (e : o = some st) : st.Keyed := by
  subst e; exact h

theorem OptKeyed.getD {o : Option State} (h : OptKeyed o) (hs : st.Keyed) : (o.getD st).Keyed := by
  cases o with
  | none => exact hs
  | some t => exact h

theorem OptFstKeyed.of_pair {α : Type} {o : Option (State × α)} {x : α} (h : OptFstKeyed o) (e : o = some (st, x)) : st.Keyed := by
  subst e; exact h

theorem Out.Keyed.of_next {x : Out} (h : Out.Keyed x) (e : x = .next st) : st.Keyed := by
  subst e
  cases h with
  | next h => exact h

theorem Out.Keyed.idle {mnemonic : String} : Out.Keyed (idle mnemonic) := .refused

end Sys2Proof.Machine
end

section
/-! # Contexts under their keys: the operations on the state and on global memory -/

namespace Sys2Proof.Machine

-- One proof at a time: each thread of an asynchronous one reserves a whole stack, and hundreds of them exceed the memory given.
set_option Elab.async false

variable {st : State}

/-! ## The shared operations: units, barriers, contexts, faults, and the wrapper through which a word issues and retires -/

theorem State.Keyed.modCluster (h : st.Keyed) {g f} : (st.modCluster g f).Keyed := h

theorem State.Keyed.modLayer (h : st.Keyed) {l f} : (st.modLayer l f).Keyed := h

theorem State.Keyed.modTenant (h : st.Keyed) {t f} : (st.modTenant t f).Keyed := h

theorem State.Keyed.modStream (h : st.Keyed) {q f} : (st.modStream q f).Keyed := h

theorem State.Keyed.modLaunch (h : st.Keyed) {l f} : (st.modLaunch l f).Keyed := by
  unfold State.modLaunch
  split <;> exact h

theorem State.Keyed.modFiring (h : st.Keyed) {l f} : (st.modFiring l f).Keyed := by
  unfold State.modFiring
  split <;> exact h

theorem State.Keyed.modTile (h : st.Keyed) {t f} : (st.modTile t f).Keyed := by
  unfold State.modTile
  split <;> exact h

theorem State.Keyed.dropPins (h : st.Keyed) {holder} : (st.dropPins holder).Keyed := h

theorem State.Keyed.dropCopies (h : st.Keyed) {gone} : (st.dropCopies gone).Keyed := h

theorem State.Keyed.modNet (h : st.Keyed) {n f} : (st.modNet n f).Keyed := by
  unfold State.modNet
  split <;> exact h

theorem State.Keyed.tickStamp (h : st.Keyed) : (st.tickStamp).Keyed := h

theorem State.Keyed.deliver (h : st.Keyed) (i a : Nat) (l : List Byte) : (st.deliver i a l).Keyed :=
  h.modCore.setGranules _ _ _

theorem State.Keyed.dropTokenAsks (h : st.Keyed) (l g : Nat) : (st.dropTokenAsks l g).Keyed := by
  unfold State.dropTokenAsks
  split <;> exact h

theorem State.Keyed.credit (h : st.Keyed) {k n} : (st.credit k n).Keyed := by
  unfold State.credit
  split
  · exact h.putCtx.modTenant
  · exact h

theorem State.Keyed.killLaunch (h : st.Keyed) {l} : (st.killLaunch l).Keyed := h

theorem State.Keyed.purge (h : st.Keyed) {l} : (st.purge l).Keyed := h

theorem State.Keyed.failLaunch (h : st.Keyed) {l r} : (st.failLaunch l r).Keyed := by
  unfold State.failLaunch
  split
  · split
    · refine State.Keyed.purge (State.Keyed.killLaunch ?_)
      exact h
    · exact h
  · exact h

theorem State.Keyed.rerun (h : st.Keyed) {f apart} : (st.rerun f apart).Keyed := by
  unfold State.rerun
  split
  · extract_lets +onlyGivenNames t₁
    refine State.Keyed.tickStamp (State.Keyed.modFiring ?_)
    exact h
  · exact h

theorem State.Keyed.copyGone (h : st.Keyed) {f uid} : (st.copyGone f uid).Keyed := h.modFiring

theorem State.Keyed.settleFiring (h : st.Keyed) {f how} : (st.settleFiring f how).Keyed := by
  unfold State.settleFiring
  split
  · split
    · exact h
    · extract_lets +onlyGivenNames f₁
      have h₁ : ∀ x₀, (f₁ x₀).Keyed := fun _ => h.rerun.ite h
      split
      · exact h₁ _
      · exact h.failLaunch
      · exact h₁ _
      · exact h
  · exact h

theorem State.Keyed.programFault (h : st.Keyed) {c code detail xpc xval} : (st.programFault c code detail xpc xval).Keyed := by
  unfold State.programFault
  extract_lets +onlyGivenNames r₁ st₁
  have h₁ : st₁.Keyed := h.endCtx _ _
  split
  · exact h₁.failLaunch
  · exact h₁.copyGone.modFiring.settleFiring

theorem State.Keyed.killCtx (h : st.Keyed) {c} : (st.killCtx c).Keyed := by
  unfold State.killCtx
  extract_lets +onlyGivenNames st₁
  have h₁ : st₁.Keyed := h.endCtx _ _
  split
  · exact h₁
  · exact h₁.copyGone.settleFiring

theorem State.Keyed.loseCtx (h : st.Keyed) {c unit xval apart} : (st.loseCtx c unit xval apart).Keyed := by
  unfold State.loseCtx
  extract_lets +onlyGivenNames st₁
  have h₁ : st₁.Keyed := h.endCtx _ _
  split
  · exact h₁.failLaunch
  · exact h₁.copyGone.settleFiring

theorem State.Keyed.consumePoison (h : st.Keyed) {c va} : (st.consumePoison c va).Keyed := by
  unfold State.consumePoison
  split
  · exact (h.endCtx _ _).failLaunch
  · split
    · split
      · exact (h.endCtx _ _).failLaunch
      · exact h.modFiring.loseCtx
    · exact h.endCtx _ _

theorem State.Keyed.takeTrap (h : st.Keyed) {c code detail val xpc next} : (st.takeTrap c code detail val xpc next).Keyed := by
  unfold State.takeTrap
  split
  · exact h.programFault
  · split
    · exact h.programFault
    · exact h.putCtx

theorem State.Keyed.uncurrent (h : st.Keyed) {c} : (st.uncurrent c).Keyed := h.modCore

theorem State.Keyed.parkCtx (h : st.Keyed) {c w word pc} : (st.parkCtx c w word pc).Keyed := h.putCtx.uncurrent.tickStamp

/-- What an effect carries is what its settling passes on (R25, R27, R40 to R45). -/
theorem State.Keyed.settle (h : st.Keyed) {x : Eff} (h₁ : x.Keyed) {c n w late} : (settle st c n w late x).Keyed := by
  unfold Machine.settle
  split
  · exact State.Keyed.putCtx h₁
  · exact State.Keyed.parkCtx h₁
  · split
    · exact h.putCtx
    · split
      · exact State.Keyed.putCtx h₁
      · exact State.Keyed.retire h₁ _ _ _
      · exact State.Keyed.retire h₁ _ _ _
      · exact h.programFault
      · exact State.Keyed.programFault h₁
      · exact h.programFault
      · extract_lets +onlyGivenNames next st₁
        have h₂ : st₁.Keyed := State.Keyed.retire h₁ _ _ _
        split
        · exact h₂.takeTrap
        · exact h₂
      · extract_lets +onlyGivenNames next st₁
        have h₂ : st₁.Keyed := State.Keyed.retire h₁ _ _ _
        split
        · extract_lets +onlyGivenNames c'
          split
          · exact h₂.parkCtx
          · exact h₂.putCtx.uncurrent.tickStamp
        · exact h₂
      · exact h₁
      · exact State.Keyed.consumePoison h₁
      · exact h

/-- Every instruction issues through here: it is left to show that its body keeps the keys (R36, R97). -/
theorem State.Keyed.issueWords (h : st.Keyed) {body : State → Ctx → Eff} (hbody : ∀ t x₁, t.Keyed → (body t x₁).Keyed) {free n w blocked} :
    Out.Keyed (issueWords free n w blocked body st) := by
  unfold Machine.issueWords
  split
  · exact .fault
  · split
    · exact .next h.putCtx
    · exact .next (h.settle (hbody _ _ h))

theorem State.Keyed.issueWith (h : st.Keyed) {body : State → Ctx → Eff} (hbody : ∀ t x₁, t.Keyed → (body t x₁).Keyed) {free e w blocked} :
    Out.Keyed (issueWith free e w blocked body st) :=
  h.issueWords hbody

theorem State.Keyed.issue (h : st.Keyed) {body : State → Ctx → Eff} (hbody : ∀ t x₁, t.Keyed → (body t x₁).Keyed) {e w blocked} :
    Out.Keyed (issue e w blocked body st) :=
  h.issueWith hbody

theorem State.Keyed.issueFree (h : st.Keyed) {body : State → Ctx → Eff} (hbody : ∀ t x₁, t.Keyed → (body t x₁).Keyed) {e w blocked} :
    Out.Keyed (issueFree e w blocked body st) :=
  h.issueWith hbody

theorem State.Keyed.afterAcquires (h : st.Keyed) {go : Eff} (h₁ : go.Keyed) {c} : (afterAcquires st c go).Keyed := by
  unfold Machine.afterAcquires
  split
  · exact h
  · exact h₁

theorem State.Keyed.awaitBank (h : st.Keyed) {c} : (st.awaitBank c).Keyed := by
  unfold State.awaitBank
  split
  · exact h
  · extract_lets +onlyGivenNames a₁
    refine State.Keyed.tickStamp ?_
    exact h

theorem Eff.Keyed.atBank {x : Eff} (h : x.Keyed) : (atBank x).Keyed := by
  unfold Machine.atBank
  split
  · next st₁ _ =>
      have h₁ : st₁.Keyed := h
      exact h₁.awaitBank
  · exact h

theorem State.Keyed.localAccess (h : st.Keyed) {go : Eff} (h₁ : go.Keyed) {c} : (localAccess st c go).Keyed := h.afterAcquires (Eff.Keyed.atBank h₁)

theorem State.Keyed.signal (h : st.Keyed) {v} : (st.signal v).Keyed := by
  unfold State.signal
  split <;> exact h

/-! ## Packets that are sent and kept (R341 to R354) -/

theorem State.Keyed.flagPeer (h : st.Keyed) {q} : (st.flagPeer q).Keyed := by
  unfold State.flagPeer
  split
  · exact h
  · exact h.signal.ite h

theorem State.Keyed.send (h : st.Keyed) {dst kind len tenant tag body launch} : (st.send dst kind len tenant tag body launch).Keyed := h

theorem State.Keyed.acknowledge (h : st.Keyed) {src eseq} : (st.acknowledge src eseq).Keyed := h

theorem State.Keyed.returnCredits (h : st.Keyed) : (st.returnCredits).Keyed := h

theorem State.Keyed.sendFailure (h : st.Keyed) {dst about} : (st.sendFailure dst about).Keyed := h

theorem State.Keyed.refuseRelay (h : st.Keyed) {p} : (st.refuseRelay p).Keyed := h

theorem State.Keyed.nextTag (h : st.Keyed) {flow} : (st.nextTag flow).1.Keyed := h

/-! ## Global memory at its points: the writes at S, slices, peer lines and data caches (R269 to R271, R298, R299) -/

theorem State.Keyed.logEvent (h : st.Keyed) {kind pa} : (st.logEvent kind pa).Keyed := h

theorem State.Keyed.correct (h : st.Keyed) {pa} : (st.correct pa).Keyed := by
  unfold State.correct
  extract_lets +onlyGivenNames st₁
  have h₁ : st₁.Keyed := h.logEvent
  split <;> exact h₁

theorem State.Keyed.arrayRead (h : st.Keyed) {pa n} : (st.arrayRead pa n).Keyed := by
  unfold State.arrayRead
  split
  · extract_lets +onlyGivenNames -merge w₁ _ st₁
    have h₁ : st₁.Keyed := h
    split
    · exact h₁.correct
    · split
      · exact h₁.correct
      · exact h₁
    · exact h₁
    · exact h₁
  · exact h

theorem State.Keyed.invalidateHolders (h : st.Keyed) {line keep tenant} : (st.invalidateHolders line keep tenant).Keyed := by
  unfold State.invalidateHolders
  extract_lets +onlyGivenNames x₁
  split
  · exact h
  · extract_lets +onlyGivenNames st₁
    have h₁ : st₁.Keyed := h.foldl fun _ _ h₂ => h₂.send
    split
    · split <;> exact h₁
    · exact h₁

theorem State.Keyed.sWrite (h : st.Keyed) {pa l} : (st.sWrite pa l).Keyed := by
  unfold State.sWrite
  extract_lets +onlyGivenNames mask clean
  split
  · exact h
  · split
    · refine State.Keyed.invalidateHolders ?_
      exact h
    · refine State.Keyed.invalidateHolders ?_
      exact h

theorem State.Keyed.sPoison (h : st.Keyed) {pa n} : (st.sPoison pa n).Keyed := by
  unfold State.sPoison
  extract_lets +onlyGivenNames mark₁
  split
  · exact h
  · split <;> exact h

theorem State.Keyed.sWriteMasked (h : st.Keyed) {line data mask carried} : (st.sWriteMasked line data mask carried).Keyed := by
  unfold State.sWriteMasked
  extract_lets +onlyGivenNames -underBinder st₁
  have h₁ : st₁.Keyed := by
    unfold st₁
    refine h.foldl fun _ _ h₂ => ?_
    extract_lets +onlyGivenNames m₁
    split
    · exact h₂
    · extract_lets +onlyGivenNames a₁ st₂
      have h₃ : st₂.Keyed := h₂.sWrite.ite (h₂.foldl (fun _ _ h₄ => h₄.sWrite.ite h₄))
      split
      · exact h₃.sPoison
      · exact h₃
  exact h₁

theorem State.Keyed.requestLine (h : st.Keyed) {line tenant} : (st.requestLine line tenant).Keyed := by
  unfold State.requestLine
  split <;> exact h

theorem State.Keyed.writeBack (h : st.Keyed) {h₁ line} : (st.writeBack h₁ line).Keyed := by
  unfold State.writeBack
  split
  · split
    · exact h
    · exact h.sWriteMasked.modCore
  · exact h

theorem State.Keyed.flushLine (h : st.Keyed) {h₁ line} : (st.flushLine h₁ line).Keyed := by
  unfold State.flushLine
  split
  · exact h.writeBack.modCore
  · exact h

theorem State.Keyed.writeBackAs (h : st.Keyed) {p tenant tag} : (st.writeBackAs p tenant tag).Keyed := by
  unfold State.writeBackAs
  split
  · exact h
  · extract_lets +onlyGivenNames -merge _ st₁
    have h₁ : st₁.Keyed := h
    exact h₁.send

theorem State.Keyed.sendWriteBack (h : st.Keyed) {p} : (st.sendWriteBack p).Keyed := h.writeBackAs

theorem State.Keyed.forgetPeer (h : st.Keyed) {line} : (st.forgetPeer line).Keyed := h

theorem State.Keyed.dropPeerLine (h : st.Keyed) {line} : (st.dropPeerLine line).Keyed := by
  unfold State.dropPeerLine
  extract_lets +onlyGivenNames st₁
  have h₁ : st₁.Keyed := h.flushLine
  split
  · exact h₁.sendWriteBack.forgetPeer
  · exact h₁

theorem State.Keyed.arrayTake (h : st.Keyed) {l} : (st.arrayTake l).Keyed := h

theorem State.Keyed.dropSliceLine (h : st.Keyed) {line} : (st.dropSliceLine line).Keyed := by
  unfold State.dropSliceLine
  extract_lets +onlyGivenNames st₁
  have h₁ : st₁.Keyed := h.flushLine
  split <;> exact h₁

theorem State.Keyed.fitSet (h : st.Keyed) {g set ways} : (st.fitSet g set ways).Keyed := by
  unfold State.fitSet
  extract_lets +onlyGivenNames l₁
  split
  · exact h
  · split
    · exact (h.dropPeerLine.ite h.dropSliceLine).of_ctxs rfl
    · exact h

theorem State.Keyed.sliceRoom (h : st.Keyed) {line} : (st.sliceRoom line).Keyed := h.fitSet

theorem State.Keyed.takeTransit (h : st.Keyed) {tile} : (st.takeTransit tile).Keyed := by
  unfold State.takeTransit
  split
  · exact h.foldl fun _ _ h₁ => h₁.fitSet
  · exact h

theorem State.Keyed.sFill (h : st.Keyed) {line} : (st.sFill line).Keyed := by
  unfold State.sFill
  split
  · exact h
  · exact h.arrayRead.sliceRoom

theorem State.Keyed.sRead (h : st.Keyed) {pa n} : (st.sRead pa n).1.Keyed := by
  unfold State.sRead
  split
  · split <;> exact h
  · split
    · exact h.sFill
    · exact h

theorem State.Keyed.behindRead (h : st.Keyed) {pa n} : (st.behindRead pa n).1.Keyed := by
  unfold State.behindRead
  split
  · exact h.sRead
  · exact h.arrayRead

theorem State.Keyed.makeRoom (h : st.Keyed) {h₁ line} : (st.makeRoom h₁ line).Keyed := by
  unfold State.makeRoom
  extract_lets +onlyGivenNames set₁
  split
  · exact h
  · split
    · exact h.flushLine.of_ctxs rfl
    · exact h

theorem State.Keyed.lineAt (h : st.Keyed) {h₁ line since} : (st.lineAt h₁ line since).1.Keyed := by
  unfold State.lineAt
  extract_lets +onlyGivenNames -underBinder f₁
  have h₁ : ∀ s₀, s₀.Keyed → (f₁ s₀).1.Keyed := by
    refine fun _ h₂ => ?_
    exact h₂.sRead
  split
  · split
    · exact h
    · split
      next st₁ _ e =>
        have h₃ : st₁.Keyed := (h₁ _ h).of_fst e
        exact h₃.modCore
  · extract_lets +onlyGivenNames st₂
    have h₄ : st₂.Keyed := h.makeRoom
    split
    next st₃ _ e =>
      have h₅ : st₃.Keyed := (h₁ _ h₄).of_fst e
      exact h₅.modCore

theorem State.Keyed.hRead (h : st.Keyed) {h₁ pa n since} : (st.hRead h₁ pa n since).1.Keyed := by
  unfold State.hRead
  split
  next st₁ _ e =>
    have h₁ : st₁.Keyed := h.lineAt.of_fst e
    exact h₁

theorem State.Keyed.hWrite (h : st.Keyed) {h₁ pa l} : (st.hWrite h₁ pa l).Keyed := by
  unfold State.hWrite
  split
  next st₁ _ e =>
    have h₁ : st₁.Keyed := h.lineAt.of_fst e
    exact h₁.modCore

theorem Ready.Keyed.andThen {r : Ready} (h : r.Keyed) {f : State → Ready} (hf : ∀ t, t.Keyed → (f t).Keyed) : (Ready.andThen r f).Keyed := by
  unfold Machine.Ready.andThen
  split
  · next st₁ =>
      have h₁ : st₁.Keyed := h
      exact hf _ h₁
  · exact h

theorem State.Keyed.readyLine (h : st.Keyed) {pa since tenant} : (st.readyLine pa since tenant).Keyed := by
  unfold State.readyLine
  split
  · exact h
  · split
    · exact trivial
    · exact h.requestLine

theorem State.Keyed.readyLines (h : st.Keyed) {since tenant l} : (State.readyLines since tenant l st).Keyed := by
  induction l generalizing st with
  | nil => exact h
  | cons pa l ih => exact Ready.Keyed.andThen h.readyLine fun _ h₁ => ih h₁

theorem State.Keyed.readyOwner (h : st.Keyed) {pa} : (st.readyOwner pa).Keyed := by
  unfold State.readyOwner
  extract_lets +onlyGivenNames line₁ st₁
  have h₁ : st₁.Keyed := h.flushLine
  split
  · exact h₁.sendWriteBack
  · split
    · exact trivial
    · exact h₁

theorem State.Keyed.writeBackStored (h : st.Keyed) {uid} : (st.writeBackStored uid).Keyed := (h.foldl (fun _ _ h₁ => h₁.writeBack)).of_ctxs rfl

theorem State.Keyed.writeBackPeers (h : st.Keyed) : (st.writeBackPeers).Keyed := h.foldl fun _ _ h₁ => h₁.sendWriteBack

theorem State.Keyed.flushLayer (h : st.Keyed) {l} : (st.flushLayer l).Keyed := h.foldl fun _ _ h₁ => h₁.foldl fun _ _ h₂ => h₂.writeBack

/-- A read over several lines, by induction on its fuel: each may fill a slice line (R298). -/
theorem State.Keyed.sReadBytes (h : st.Keyed) {k pa n} : (State.sReadBytes k st pa n).1.Keyed := by
  induction k generalizing st pa n with
  | zero => exact h
  | succ k ih =>
    unfold State.sReadBytes
    split
    · exact h
    · exact ih h.sRead

/-- A write over several lines, by induction on its fuel. -/
theorem State.Keyed.sWriteBytes (h : st.Keyed) {k pa l} : (State.sWriteBytes k st pa l).Keyed := by
  induction k generalizing st pa l with
  | zero => exact h
  | succ k ih =>
    unfold State.sWriteBytes
    split
    · exact h
    · exact ih h.sWrite

/-! ## Walks, station entries and page requests (R301 to R306) -/

theorem State.Keyed.tableRead (h : st.Keyed) {pa n} : (st.tableRead pa n).1.Keyed := by
  unfold State.tableRead
  split
  · exact h
  · split
    · exact h
    · split
      next st₁ _ _ e =>
        have h₁ : st₁.Keyed := h.sRead.of_fst e
        exact h₁

/-- A walk reads one table entry per level (R301). -/
theorem State.Keyed.walkLevels (h : st.Keyed) {pid va lvl t ok} : (State.walkLevels pid va lvl st t ok).1.Keyed := by
  induction lvl generalizing st t ok with
  | zero =>
    unfold State.walkLevels
    extract_lets +onlyGivenNames a
    split
    next st₁ _ e =>
    have h₁ : st₁.Keyed := h.tableRead.of_fst e
    split
    · exact h₁
    · exact h₁
    · extract_lets +onlyGivenNames ok₁
      split
      · exact h₁
      · split
        · exact h₁
        · split <;> exact h₁
  | succ l ih =>
    unfold State.walkLevels
    extract_lets +onlyGivenNames a
    split
    next st₁ _ e =>
    have h₁ : st₁.Keyed := h.tableRead.of_fst e
    split
    · exact h₁
    · exact h₁
    · extract_lets +onlyGivenNames ok₁
      split
      · exact h₁
      · split
        · exact h₁
        · split
          · exact h₁
          · exact ih h₁

theorem State.Keyed.walkNow (h : st.Keyed) {pid tenant va} : (st.walkNow pid tenant va).1.Keyed := by
  unfold State.walkNow
  extract_lets +onlyGivenNames a₁
  split
  next st₁ _ e =>
    have h₁ : st₁.Keyed := h.tableRead.of_fst e
    split
    · exact h₁
    · exact h₁
    · split
      · exact h₁
      · exact h₁.walkLevels

theorem State.Keyed.requestWalk (h : st.Keyed) {c va k} : (st.requestWalk c va k).Keyed := by
  unfold State.requestWalk
  extract_lets +onlyGivenNames stn₁ pid₁ w₁
  split
  · exact h
  · split
    · exact h
    · split <;> exact h

theorem State.Keyed.installEntry (h : st.Keyed) {stn e} : (st.installEntry stn e).Keyed := h

theorem State.Keyed.pageRequest (h : st.Keyed) {rec} : (st.pageRequest rec).Keyed := by
  unfold State.pageRequest
  extract_lets +onlyGivenNames m₁
  split
  · exact h
  · split
    · split
      · exact h
      · refine State.Keyed.signal ?_
        exact h
    · extract_lets +onlyGivenNames st₁
      have h₁ : st₁.Keyed := h.sWriteBytes
      refine State.Keyed.signal ?_
      exact h₁

theorem State.Keyed.contextRequest (h : st.Keyed) {c va k} : (st.contextRequest c va k).Keyed := h.pageRequest

theorem State.Keyed.engineWalk (h : st.Keyed) {a tenant} : OptKeyed (st.engineWalk a tenant) := by
  unfold State.engineWalk
  extract_lets +onlyGivenNames stn₁ mine₁
  split
  · exact trivial
  · split
    · exact h
    · split
      · exact trivial
      · exact h

theorem State.Keyed.toldEngine (h : st.Keyed) {cid pid sup k vas} : (st.toldEngine cid pid sup k vas).Keyed := by
  unfold State.toldEngine
  split <;> exact h

theorem State.Keyed.withXlate (h : st.Keyed) {go : List ℕ → Eff} (hgo : ∀ x₀, (go x₀).Keyed) {c k vas} : (withXlate st c k vas go).Keyed := by
  unfold Machine.withXlate
  split
  · exact hgo _
  · exact h.requestWalk
  · exact trivial

/-! ## Vector operands and their streams (R138 to R140, R160 to R162) -/

theorem State.Keyed.withVectors (h : st.Keyed) {go : Ctx → Eff} (hgo : ∀ x₀, (go x₀).Keyed) {c named checks srcs offs} :
    (withVectors st c named checks srcs offs go).Keyed := by
  unfold Machine.withVectors
  split
  · exact trivial
  · split
    · exact trivial
    · split
      · next x _ =>
        have h₁ := hgo x
        split
        · next e =>
          have h₂ := h₁.of_eq e
          exact h₂
        · next e =>
          have h₂ := h₁.of_eq e
          exact h₂
        · exact h₁
      · exact h
      · extract_lets +onlyGivenNames dry
        split
        · exact hgo _
        · split
          · exact trivial
          · exact h
          · exact h
          · exact h

theorem State.Keyed.withPush (h : st.Keyed) {go : Slot → Eff} (hgo : ∀ x₀, (go x₀).Keyed) {c x tag} : (withPush st c x tag go).Keyed := by
  unfold Machine.withPush
  split
  · exact trivial
  · split
    · exact h
    · extract_lets +onlyGivenNames l₁
      split
      · split
        · exact trivial
        · exact hgo _
      · exact h.withXlate fun _ => hgo _

theorem State.Keyed.writeVector (h : st.Keyed) {fin : Ctx → Eff} (hfin : ∀ x₀, (fin x₀).Keyed) {c d r} : (writeVector st c d r fin).Keyed := by
  unfold Machine.writeVector
  split
  · exact hfin _
  · split
    · exact hfin _
    · exact h.withPush fun _ => hfin _

end Sys2Proof.Machine
end

section
/-! # Contexts under their keys: the issue of an instruction, and scalar accesses -/

namespace Sys2Proof.Machine

-- One proof at a time: each thread of an asynchronous one reserves a whole stack, and hundreds of them exceed the memory given.
set_option Elab.async false

variable {st : State}

/-! ## The fetch of a group, and what ends it (R96, R97, R213) -/

theorem State.Keyed.select (h : st.Keyed) {cid} : OptKeyed (st.select cid) := by
  unfold State.select
  split
  · exact trivial
  · cases firstBy (fun c => c.readyAt) (st.readyOn cid) with
    | none => exact trivial
    | some c => exact h.modCore

theorem State.Keyed.rouse (h : st.Keyed) {c} : (st.rouse c).1.Keyed := by
  unfold State.rouse
  split
  · exact h.putCtx
  · exact h

theorem State.Keyed.fetchLine (h : st.Keyed) {cid pa} : (st.fetchLine cid pa).1.Keyed := by
  unfold State.fetchLine
  split
  · exact h
  · exact h.sRead.modCore

/-- By induction on the words that the group may still take (R91). -/
theorem State.Keyed.fetchGroup (h : st.Keyed) {c n pc acc} : (State.fetchGroup c n st pc acc).Keyed := by
  induction n generalizing st pc acc with
  | zero => exact h
  | succ n ih =>
    unfold State.fetchGroup
    split
    · exact trivial
    · exact trivial
    · split
      · exact trivial
      · split
        · exact trivial
        · split
          next st₁ _ _ e =>
          have h₁ : st₁.Keyed := h.fetchLine.of_fst e
          split
          · exact h₁
          · extract_lets +onlyGivenNames w
            split
            · exact ih h₁
            · exact h₁

theorem State.Keyed.stopFetch (h : st.Keyed) {fault : State} (h₁ : fault.Keyed) {c n} : (st.stopFetch c n fault).Keyed := by
  unfold State.stopFetch
  split
  · exact h.putCtx
  · exact h₁

theorem State.Keyed.issueIllegal (h : st.Keyed) {n w detail x} : Out.Keyed (issueIllegal n w detail x st) := by
  unfold Machine.issueIllegal
  refine h.issueWords fun _ _ h₁ => ?_
  exact trivial

theorem State.Keyed.takeDue (h : st.Keyed) {c} : (st.takeDue c).Keyed := by
  unfold State.takeDue
  split
  · exact h.programFault
  · exact h.takeTrap
  · exact h

/-! ## Loads and stores of local memory (R131 to R137) -/

theorem Eff.Keyed.checked {e : Eff} (h : e.Keyed) {l} : (checked l e).Keyed := by
  induction l with
  | nil => exact h
  | cons x l ih =>
    unfold Machine.checked
    split
    · exact trivial
    · exact ih

theorem State.Keyed.execLdl (h : st.Keyed) {e d a s m o} : Out.Keyed (execLdl e d a s m o st) := by
  unfold Machine.execLdl
  refine h.issue fun _ _ h₁ => ?_
  extract_lets +onlyGivenNames n₁ x₁ k₁
  refine Eff.Keyed.checked (h₁.localAccess ?_)
  split
  · exact h₁
  · split
    · exact h₁
    · split
      · exact h₁.setGranules _ _ _
      · exact h₁

theorem State.Keyed.execStl (h : st.Keyed) {e d a s m o} : Out.Keyed (execStl e d a s m o st) := by
  unfold Machine.execStl
  refine h.issue fun _ _ h₁ => ?_
  extract_lets +onlyGivenNames n₁ x₁ k₁
  refine Eff.Keyed.checked (h₁.localAccess ?_)
  split
  · exact h₁
  · split
    · exact h₁
    · extract_lets +onlyGivenNames st₁
      have h₂ : st₁.Keyed := by
        unfold st₁
        exact h₁.modCore
      split
      · exact h₂.setGranules _ _ _
      · exact h₂

theorem State.Keyed.sendRemote (h : st.Keyed) {c words r} : (sendRemote st c words r).Keyed := by
  unfold Machine.sendRemote
  split <;> exact h

theorem State.Keyed.execLdx (h : st.Keyed) {e d a b m s} : Out.Keyed (execLdx e d a b m s st) := by
  unfold Machine.execLdx
  refine h.issue fun _ _ h₁ => ?_
  extract_lets +onlyGivenNames n₁ x₁ t₁
  refine Eff.Keyed.checked (h₁.afterAcquires ?_)
  split
  · split
    · exact h₁
    · refine Eff.Keyed.atBank ?_
      exact h₁
  · exact h₁.sendRemote

theorem State.Keyed.execStx (h : st.Keyed) {e d a b s} : Out.Keyed (execStx e d a b s st) := by
  unfold Machine.execStx
  refine h.issue fun _ _ h₁ => ?_
  extract_lets +onlyGivenNames n₁ x₁ t₁
  refine Eff.Keyed.checked ?_
  split
  · refine Eff.Keyed.checked (h₁.localAccess ?_)
    split
    · exact h₁
    · exact h₁.modCore
  · exact h₁.afterAcquires h₁.sendRemote

/-! ## The acceptance of accesses to global memory (R135, R199, R294) -/

/-- An acceptance per line, each from the state and the context that the one before it left (R294). -/
theorem State.Keyed.acceptGroups (h : st.Keyed) {c op groups o d sx} : (st.acceptGroups c op groups o d sx).1.Keyed := by
  unfold State.acceptGroups
  generalize hp : (st, c) = p
  replace h : p.1.Keyed := hp ▸ h
  clear hp
  generalize st.stamp = n
  induction groups generalizing p with
  | nil => exact h
  | cons l ls ih => exact ih _ h

theorem State.Keyed.accept (h : st.Keyed) {c op elems o d sx} : (st.accept c op elems o d sx).1.Keyed := h.acceptGroups

theorem State.Keyed.acceptAll (h : st.Keyed) {c op groups o d sx} : (acceptAll st c op groups o d sx).Keyed := h.acceptGroups

theorem State.Keyed.acceptAs (h : st.Keyed) {c op elems o d sx} : (acceptAs st c op elems o d sx).Keyed := h.acceptAll

theorem State.Keyed.execLdg (h : st.Keyed) {e d a s m o} : Out.Keyed (execLdg e d a s m o st) :=
  h.issue fun _ _ h₁ => Eff.Keyed.checked (h₁.withXlate (fun _ => h₁.acceptAs))

theorem State.Keyed.execStg (h : st.Keyed) {e d a s o} : Out.Keyed (execStg e d a s o st) :=
  h.issue fun _ _ h₁ => Eff.Keyed.checked (h₁.withXlate (fun _ => h₁.acceptAs))

/-! ## Branches, jumps and CSRs (R23 to R26, R124 to R130) -/

theorem State.Keyed.branch (h : st.Keyed) {i e x y o t} : Out.Keyed (branch i e x y o t st) := by
  unfold Machine.branch
  refine h.issue fun _ _ h₁ => ?_
  split <;> exact h₁

theorem State.Keyed.execBeq (h : st.Keyed) {e x y o} : Out.Keyed (execBeq e x y o st) := h.branch

theorem State.Keyed.execBne (h : st.Keyed) {e x y o} : Out.Keyed (execBne e x y o st) := h.branch

theorem State.Keyed.execBlt (h : st.Keyed) {e x y o} : Out.Keyed (execBlt e x y o st) := h.branch

theorem State.Keyed.execBge (h : st.Keyed) {e x y o} : Out.Keyed (execBge e x y o st) := h.branch

theorem State.Keyed.execBltz (h : st.Keyed) {e x y o} : Out.Keyed (execBltz e x y o st) := h.branch

theorem State.Keyed.execBgez (h : st.Keyed) {e x y o} : Out.Keyed (execBgez e x y o st) := h.branch

theorem State.Keyed.execJmp (h : st.Keyed) {e o} : Out.Keyed (execJmp e o st) := by
  unfold Machine.execJmp
  refine h.issue fun _ _ h₁ => ?_
  exact h₁

theorem State.Keyed.execJal (h : st.Keyed) {e o} : Out.Keyed (execJal e o st) := by
  unfold Machine.execJal
  refine h.issue fun _ _ h₁ => ?_
  exact h₁

theorem State.Keyed.jumpTo (h : st.Keyed) {c t link} : (jumpTo st c t link).Keyed := by
  unfold Machine.jumpTo
  split
  · exact trivial
  · split
    · exact trivial
    · exact h

theorem State.Keyed.execJr (h : st.Keyed) {e a} : Out.Keyed (execJr e a st) := h.issue fun _ _ h₁ => h₁.jumpTo

theorem State.Keyed.execJalr (h : st.Keyed) {e d a} : Out.Keyed (execJalr e d a st) := h.issue fun _ _ h₁ => h₁.jumpTo

theorem State.Keyed.writeInjctl (h : st.Keyed) {v clear} : (st.writeInjctl v clear).Keyed := h

theorem State.Keyed.writeCsr (h : st.Keyed) {c n v clear} : (st.writeCsr c n v clear).1.Keyed := by
  unfold State.writeCsr
  split <;> exact h

theorem Eff.Keyed.withCsr {go : W64 → Eff} (hgo : ∀ x₀, (go x₀).Keyed) {c words n write} :
    (withCsr st c words n write go).Keyed := by
  unfold Machine.withCsr
  split
  · exact trivial
  · split
    · exact trivial
    · split
      · exact trivial
      · exact hgo _

theorem State.Keyed.csrWrite (h : st.Keyed) {i e a n clears f} : Out.Keyed (csrWrite i e a n clears f st) := by
  unfold Machine.csrWrite
  refine h.issue fun _ _ h₁ => ?_
  refine Eff.Keyed.withCsr fun _ => ?_
  exact h₁.writeCsr

theorem State.Keyed.csrUpdate (h : st.Keyed) {i e a n clears f} : Out.Keyed (csrUpdate i e a n clears f st) := by
  unfold Machine.csrUpdate
  split
  · exact h.csrWrite
  · refine h.issue fun _ _ h₁ => ?_
    refine Eff.Keyed.withCsr fun _ => ?_
    split
    · exact h₁
    · exact h₁.writeCsr

theorem State.Keyed.execCsrr (h : st.Keyed) {e d c} : Out.Keyed (execCsrr e d c st) := by
  unfold Machine.execCsrr
  refine h.issue fun _ _ h₁ => ?_
  refine Eff.Keyed.withCsr fun _ => ?_
  exact h₁

theorem State.Keyed.execCsrw (h : st.Keyed) {e a c} : Out.Keyed (execCsrw e a c st) := h.csrWrite

theorem State.Keyed.execCsrs (h : st.Keyed) {e a c} : Out.Keyed (execCsrs e a c st) := h.csrUpdate

theorem State.Keyed.execCsrc (h : st.Keyed) {e a c} : Out.Keyed (execCsrc e a c st) := h.csrUpdate

/-! ## Shape records (R159, R225 to R227) -/

theorem State.Keyed.plainRead (h : st.Keyed) {c pa n} : (st.plainRead c pa n).1.Keyed := by
  unfold State.plainRead
  split
  · exact h.hRead
  · exact h
  · exact h.sRead

theorem State.Keyed.withBytes (h : st.Keyed) {go : State → (Ctx → Ctx) → List Byte → Eff} (hgo : ∀ t x₁ x₂, t.Keyed → (go t x₁ x₂).Keyed) {c va n} :
    (withBytes st c va n go).Keyed := by
  unfold Machine.withBytes
  refine h.withXlate fun _ => ?_
  extract_lets +onlyGivenNames pa₁
  split
  · exact h
  · split
    · exact h.requestLine
    · extract_lets +onlyGivenNames st₁
      have h₁ : st₁.1.Keyed := h.plainRead
      split
      · exact h₁
      · exact hgo _ _ _ h₁

theorem Eff.Keyed.rejected {r} : (rejected r).Keyed := trivial

/-! ## Atomics, fences, releases, acquires and bindings (R203 to R213) -/

theorem State.Keyed.withAtomic (h : st.Keyed) {go : ℕ → Eff} (hgo : ∀ x₀, (go x₀).Keyed) {c a n host} : (withAtomic st c a n host go).Keyed := by
  unfold Machine.withAtomic
  refine Eff.Keyed.checked (h.withXlate (fun _ => ?_))
  extract_lets +onlyGivenNames pa₁
  split
  · exact trivial
  · exact hgo _

theorem State.Keyed.atomic (h : st.Keyed) {i e d a b op n} : Out.Keyed (atomic i e d a b op n st) :=
  h.issue fun _ _ h₁ => h₁.withAtomic fun _ => h₁.acceptAs

theorem State.Keyed.reduce (h : st.Keyed) {i e a b op n} : Out.Keyed (reduce i e a b op n st) := by
  unfold Machine.reduce
  refine h.issue fun _ _ h₁ => ?_
  extract_lets +onlyGivenNames x₁
  refine h₁.withAtomic fun _ => ?_
  exact h₁.modCore.tickStamp

theorem State.Keyed.execAmoAdd (h : st.Keyed) {e d a b s} : Out.Keyed (execAmoAdd e d a b s st) := h.atomic

theorem State.Keyed.execAmoAnd (h : st.Keyed) {e d a b s} : Out.Keyed (execAmoAnd e d a b s st) := h.atomic

theorem State.Keyed.execAmoOr (h : st.Keyed) {e d a b s} : Out.Keyed (execAmoOr e d a b s st) := h.atomic

theorem State.Keyed.execAmoXor (h : st.Keyed) {e d a b s} : Out.Keyed (execAmoXor e d a b s st) := h.atomic

theorem State.Keyed.execAmoMin (h : st.Keyed) {e d a b s} : Out.Keyed (execAmoMin e d a b s st) := h.atomic

theorem State.Keyed.execAmoMax (h : st.Keyed) {e d a b s} : Out.Keyed (execAmoMax e d a b s st) := h.atomic

theorem State.Keyed.execAmoMinz (h : st.Keyed) {e d a b s} : Out.Keyed (execAmoMinz e d a b s st) := h.atomic

theorem State.Keyed.execAmoMaxz (h : st.Keyed) {e d a b s} : Out.Keyed (execAmoMaxz e d a b s st) := h.atomic

theorem State.Keyed.execAmoSwap (h : st.Keyed) {e d a b s} : Out.Keyed (execAmoSwap e d a b s st) := h.atomic

theorem State.Keyed.execAmoFadd (h : st.Keyed) {e d a b} : Out.Keyed (execAmoFadd e d a b st) := h.atomic

theorem State.Keyed.execRedAdd (h : st.Keyed) {e a b s} : Out.Keyed (execRedAdd e a b s st) := h.reduce

theorem State.Keyed.execRedAnd (h : st.Keyed) {e a b s} : Out.Keyed (execRedAnd e a b s st) := h.reduce

theorem State.Keyed.execRedOr (h : st.Keyed) {e a b s} : Out.Keyed (execRedOr e a b s st) := h.reduce

theorem State.Keyed.execRedXor (h : st.Keyed) {e a b s} : Out.Keyed (execRedXor e a b s st) := h.reduce

theorem State.Keyed.execRedMin (h : st.Keyed) {e a b s} : Out.Keyed (execRedMin e a b s st) := h.reduce

theorem State.Keyed.execRedMax (h : st.Keyed) {e a b s} : Out.Keyed (execRedMax e a b s st) := h.reduce

theorem State.Keyed.execRedMinz (h : st.Keyed) {e a b s} : Out.Keyed (execRedMinz e a b s st) := h.reduce

theorem State.Keyed.execRedMaxz (h : st.Keyed) {e a b s} : Out.Keyed (execRedMaxz e a b s st) := h.reduce

theorem State.Keyed.execRedFadd (h : st.Keyed) {e a b} : Out.Keyed (execRedFadd e a b st) := h.reduce

theorem State.Keyed.execAmoc (h : st.Keyed) {e d a b c s} : Out.Keyed (execAmoc e d a b c s st) :=
  h.issue fun _ _ h₁ => h₁.withAtomic fun _ => h₁.acceptAs

theorem State.Keyed.releaseEffects (h : st.Keyed) {c s} : (st.releaseEffects c s).Keyed := by
  unfold State.releaseEffects
  extract_lets +onlyGivenNames st₁
  have h₁ : st₁.Keyed := h.writeBackStored.ite h
  split
  · exact h₁.writeBackPeers
  · exact h₁

theorem State.Keyed.dropPeers (h : st.Keyed) {s} : (st.dropPeers s).Keyed := by
  unfold State.dropPeers
  split
  · exact h.foldl (fun _ _ h₁ => h₁.flushLine)
  · exact h

theorem State.Keyed.withFence (h : st.Keyed) {go : State → Ctx → Eff} (hgo : ∀ t x₁, t.Keyed → (go t x₁).Keyed) {c s acquire} :
    (withFence st c s acquire go).Keyed := by
  unfold Machine.withFence
  split
  · exact h
  · extract_lets +onlyGivenNames st₁
    have h₁ : st₁.Keyed := h.releaseEffects
    split
    · exact h₁
    · split
      · exact hgo _ _ h₁.dropPeers.tickStamp
      · exact hgo _ _ h₁

theorem State.Keyed.execFence (h : st.Keyed) {e d p s} : Out.Keyed (execFence e d p s st) := by
  unfold Machine.execFence
  refine h.issue fun _ _ h₁ => ?_
  split
  · exact trivial
  · refine h₁.withFence fun _ _ h₂ => ?_
    split
    · refine h₂.writeVector fun _ => ?_
      exact h₂
    · exact h₂

theorem State.Keyed.withOwners (h : st.Keyed) {go : State → Eff} (hgo : ∀ t, t.Keyed → (go t).Keyed) {c s} : (withOwners st c s go).Keyed := by
  unfold Machine.withOwners
  split
  · exact hgo _ h
  · extract_lets +onlyGivenNames st₁
    have h₁ : st₁.Keyed := h.writeBackPeers
    split
    · exact hgo _ h₁
    · exact h₁

theorem State.Keyed.execQfence (h : st.Keyed) {e b s} : Out.Keyed (execQfence e b s st) := by
  unfold Machine.execQfence
  refine h.issue fun _ _ h₁ => ?_
  extract_lets +onlyGivenNames t₁ c₁
  split
  · exact h₁
  · refine h₁.withOwners fun _ h₂ => ?_
    exact h₂.dropPeers.tickStamp

theorem State.Keyed.execRbind (h : st.Keyed) {e d a b} : Out.Keyed (execRbind e d a b st) := by
  unfold Machine.execRbind
  refine h.issue fun _ _ h₁ => ?_
  extract_lets +onlyGivenNames o₁ x₁ n₁
  refine Eff.Keyed.checked ?_
  split
  · exact trivial
  · split
    · exact h₁
    · exact trivial

theorem State.Keyed.xlatePieces (h : st.Keyed) {c l} : (st.xlatePieces c l).1.Keyed := by
  induction l generalizing st with
  | nil => exact h
  | cons x l ih =>
    unfold State.xlatePieces
    extract_lets +onlyGivenNames r
    have h₁ : r.1.Keyed := by
      unfold r
      split
      · split <;> next e => exact h.walkNow.of_fst e
      · exact h
    clear_value r
    split
    · split
      · next e => exact (ih h₁).of_fst e
      · exact ih h₁
    · exact h₁
    · exact h₁

theorem State.Keyed.withRegions (h : st.Keyed) {go : State → List (ℕ × ℕ) → Eff} (hgo : ∀ t x₁, t.Keyed → (go t x₁).Keyed) {c o} :
    (withRegions st c o go).Keyed := by
  unfold Machine.withRegions
  extract_lets +onlyGivenNames l₁
  split
  · next st₁ _ e =>
      have h₁ : st₁.Keyed := h.xlatePieces.of_fst e
      exact hgo _ _ h₁
  · next st₂ _ e =>
      have h₂ : st₂.Keyed := h.xlatePieces.of_fst e
      exact h₂.requestWalk
  · next st₃ _ e =>
      have h₃ : st₃.Keyed := h.xlatePieces.of_fst e
      exact trivial

theorem State.Keyed.eachBound (h : st.Keyed) {f : State → ℕ → ℕ → State} (hf : ∀ t x₁ x₂, t.Keyed → (f t x₁ x₂).Keyed) {l} :
    (st.eachBound l f).Keyed :=
  h.foldl fun _ _ h₁ => h₁.foldl fun _ _ h₂ => (hf _ _ _ h₂).ite h₂

theorem State.Keyed.recallBound (h : st.Keyed) {l tenant} : (st.recallBound l tenant).Keyed := h.foldl fun _ _ h₁ => h₁.invalidateHolders.ite h₁

theorem State.Keyed.execRel (h : st.Keyed) {e a s} : Out.Keyed (execRel e a s st) := by
  unfold Machine.execRel
  refine h.issue fun _ _ h₁ => ?_
  extract_lets +onlyGivenNames o₁
  refine Eff.Keyed.checked (h₁.withXlate (fun _ => ?_))
  extract_lets +onlyGivenNames pa₁
  split
  · exact trivial
  · refine h₁.withRegions fun _ _ h₂ => ?_
    split
    · exact h₂
    · extract_lets +onlyGivenNames st₁
      have h₃ : st₁.Keyed := (h₂.eachBound (fun _ _ _ h₄ => h₄.writeBack)).ite h₂
      extract_lets +onlyGivenNames st₂
      have h₅ : st₂.Keyed := h₃.recallBound.ite h₃
      refine h₅.withFence fun _ _ h₆ => ?_
      exact h₆.accept

theorem State.Keyed.withObject (h : st.Keyed) {go : State → Ctx → Eff} (hgo : ∀ t x₁, t.Keyed → (go t x₁).Keyed) {c pa s} :
    (withObject st c pa s go).Keyed := by
  unfold Machine.withObject
  split
  · exact hgo _ _ h
  · extract_lets +onlyGivenNames st₁
    have h₁ : st₁.Keyed := by
      unfold st₁
      split
      · exact h.readyOwner
      · exact h
    clear_value st₁
    split
    · next st₂ =>
        have h₂ : st₂.Keyed := h₁
        exact h₂
    · exact h
    · next st₃ =>
        have h₃ : st₃.Keyed := h₁
        split
        · exact h₃.requestLine
        · refine iteInduction (fun _ => ?_) fun _ => ?_
          · exact hgo _ _ h₃
          · exact h₃.requestLine

theorem State.Keyed.execAcq (h : st.Keyed) {e a s} : Out.Keyed (execAcq e a s st) := by
  unfold Machine.execAcq
  refine h.issue fun _ _ h₁ => ?_
  extract_lets +onlyGivenNames o₁
  refine Eff.Keyed.checked (h₁.withXlate (fun _ => ?_))
  extract_lets +onlyGivenNames pa₁
  refine h₁.withRegions fun _ _ h₂ => ?_
  split
  · exact h₂
  · refine h₂.withObject fun _ _ h₃ => ?_
    extract_lets +onlyGivenNames st₁
    have h₄ : st₁.Keyed := h₃.flushLine.ite h₃
    extract_lets +onlyGivenNames st₂
    have h₅ : st₂.1.Keyed := by
      unfold st₂
      split
      · exact h₄
      · exact h₄.sRead
    split
    · exact h₅
    · extract_lets +onlyGivenNames st₃
      have h₆ : st₃.Keyed := (h₅.eachBound (fun _ _ _ h₇ => h₇.flushLine)).ite h₅
      extract_lets +onlyGivenNames st₄
      have h₈ : st₄.Keyed := (h₆.foldl (fun _ _ h₉ => h₉.sendWriteBack.ite h₉)).ite h₆
      split
      · exact h₈
      · exact h₈.dropPeers.tickStamp

theorem State.Keyed.execIcinv (h : st.Keyed) {e s} : Out.Keyed (execIcinv e s st) := by
  refine h.issue fun _ _ h₁ => ?_
  exact h₁

end Sys2Proof.Machine
end

section
/-! # Contexts under their keys: device registers and nodes -/

namespace Sys2Proof.Machine

-- One proof at a time: each thread of an asynchronous one reserves a whole stack, and hundreds of them exceed the memory given.
set_option Elab.async false

variable {st : State}

/-! ## The device registers (R4, R287, R289, R359, R366) -/

theorem State.Keyed.deny (h : st.Keyed) : (st.deny).Keyed := h

theorem State.Keyed.governed (h : st.Keyed) {f : State → State} (hf : ∀ t, t.Keyed → (f t).Keyed) {w off} : (st.governed w off f).Keyed := by
  unfold State.governed
  split
  · exact hf _ h
  · exact h.deny

theorem State.Keyed.setOwner (h : st.Keyed) {o} : (st.setOwner o).Keyed := by
  unfold State.setOwner
  refine State.Keyed.signal ?_
  exact h

theorem State.Keyed.claimOwner (h : st.Keyed) {m} : (st.claimOwner m).Keyed := by
  unfold State.claimOwner
  split
  · exact h.setOwner
  · exact h

theorem State.Keyed.giveOwner (h : st.Keyed) {t} : (st.giveOwner t).Keyed := by
  unfold State.giveOwner
  split
  · exact h.setOwner
  · split <;> exact h

theorem State.Keyed.takeOwner (h : st.Keyed) {m} : (st.takeOwner m).Keyed := by
  unfold State.takeOwner
  split
  · exact h.setOwner
  · exact h

theorem State.Keyed.asMaster (h : st.Keyed) {f : Master → State} (hf : ∀ x₀, (f x₀).Keyed) {w} : (asMaster w st f).Keyed := by
  unfold Machine.asMaster
  split
  · exact hf _
  · exact h

theorem State.Keyed.writeOwn (h : st.Keyed) {w o v} : (st.writeOwn w o v).Keyed := by
  unfold State.writeOwn
  split
  · split <;> exact h
  · exact h.asMaster fun _ => h.claimOwner
  · exact h.asMaster fun _ => h.giveOwner
  · exact h.asMaster fun _ => h.takeOwner
  · exact h
  · exact h

theorem State.Keyed.retryPages (h : st.Keyed) {x} : (st.retryPages x).Keyed :=
  (h.wakeWhere _ _).mapCtxs rfl fun _ => ⟨rfl, rfl⟩

theorem State.Keyed.writeXlinv (h : st.Keyed) {v} : (st.writeXlinv v).Keyed := by
  unfold State.writeXlinv
  split
  · exact h
  · extract_lets +onlyGivenNames -merge -underBinder x₁ va₁ _ st₁
    have h₁ : st₁.Keyed := h
    split
    · exact h₁.retryPages
    · exact h₁

theorem State.Keyed.writeMem (h : st.Keyed) {o v} : (st.writeMem o v).Keyed := by
  unfold State.writeMem
  split
  · exact h
  · exact h
  · exact h
  · exact h
  · exact h.writeXlinv
  · exact h
  · exact h

theorem State.Keyed.resumeCluster (h : st.Keyed) {n} : (st.resumeCluster n).Keyed := by
  unfold State.resumeCluster
  extract_lets +onlyGivenNames g₁ st₁
  have h₁ : st₁.Keyed := h.modCluster
  split
  · split <;> exact h₁
  · exact h₁

theorem State.Keyed.stopCluster (h : st.Keyed) {n} : (st.stopCluster n).Keyed := by
  unfold State.stopCluster
  split <;> exact h

theorem State.Keyed.writeCluster (h : st.Keyed) {n o v} : (st.writeCluster n o v).Keyed := by
  unfold State.writeCluster
  split
  · exact h.modCluster
  · exact h.modCluster
  · extract_lets +onlyGivenNames st₁
    have h₁ : st₁.Keyed := h.modCluster.ite h
    split
    · exact h₁.stopCluster
    · exact h₁.resumeCluster
  · exact h

theorem State.Keyed.writeCore (h : st.Keyed) {c o v} : (st.writeCore c o v).Keyed := by
  unfold State.writeCore
  split
  · exact h
  · split
    · exact h.modCore
    · exact h.modCore
    · exact h

theorem State.Keyed.writeMsix (h : st.Keyed) {o v} : (st.writeMsix o v).Keyed := by
  unfold State.writeMsix
  extract_lets +onlyGivenNames -merge n₁ due₁ _ st₁
  have h₁ : st₁.Keyed := h
  split
  · extract_lets +onlyGivenNames -merge _ st₂
    have h₂ : st₂.Keyed := by
      unfold st₂
      refine State.Keyed.signal ?_
      exact h₁
    split
    · exact h₂.modStream
    · exact h₂
  · exact h₁

theorem State.Keyed.writeReg (h : st.Keyed) {w off v} : (st.writeReg w off v).Keyed := by
  unfold State.writeReg
  refine iteInduction (fun _ => h.writeOwn) fun _ => ?_
  refine iteInduction (fun _ => ?_) fun _ => ?_
  · exact h
  refine iteInduction (fun _ => h.modStream) fun _ => ?_
  refine iteInduction (fun _ => h.modTenant.ite h) fun _ => ?_
  refine iteInduction (fun _ => h.writeMem) fun _ => ?_
  refine iteInduction (fun _ => ?_) fun _ => ?_
  · exact h
  refine iteInduction (fun _ => h.modStream) fun _ => ?_
  refine iteInduction (fun _ => ?_) fun _ => ?_
  · exact h
  refine iteInduction (fun _ => ?_) fun _ => ?_
  · exact h
  refine iteInduction (fun _ => h.writeMsix) fun _ => ?_
  refine iteInduction (fun _ => h.writeCluster) fun _ => ?_
  exact iteInduction (fun _ => h.writeCore) fun _ => h

theorem State.Keyed.writePiece (h : st.Keyed) {w off l} : (st.writePiece w off l).Keyed := by
  unfold State.writePiece
  extract_lets +onlyGivenNames r
  refine h.governed fun _ h₁ => ?_
  extract_lets +onlyGivenNames old keep
  exact h₁.writeReg

theorem State.Keyed.writeRegBytes (h : st.Keyed) {w k off l} : (State.writeRegBytes w k st off l).Keyed := by
  induction k generalizing st off l with
  | zero => exact h
  | succ k ih =>
    unfold State.writeRegBytes
    split
    · exact h
    · exact ih h.writePiece

theorem State.Keyed.putBytes (h : st.Keyed) {cid pa l} : (st.putBytes cid pa l).Keyed := by
  unfold State.putBytes
  split
  · exact h.writeRegBytes
  · exact h.sWriteBytes

theorem State.Keyed.notePod (h : st.Keyed) {before pkg} : (st.notePod before pkg).Keyed := by
  unfold State.notePod
  split <;> exact h

theorem State.Keyed.execRegisterWrite (h : st.Keyed) {w off v} : Out.Keyed (execRegisterWrite w off v st) :=
  .next (h.governed fun _ h₁ => h₁.writeReg).notePod

theorem State.Keyed.execCqdoor (h : st.Keyed) {w q} : Out.Keyed (execCqdoor w q st) := by
  unfold Machine.execCqdoor
  split
  · exact .idle
  · exact .next (h.governed (fun _ h₁ => h₁.writeReg))

theorem State.Keyed.execCqEnable (h : st.Keyed) {w q v} : Out.Keyed (execCqEnable w q v st) := by
  unfold Machine.execCqEnable
  split
  · exact .idle
  · exact .next (h.governed (fun _ h₁ => h₁.writeReg))

theorem State.Keyed.execCqDisable (h : st.Keyed) {w q v} : Out.Keyed (execCqDisable w q v st) := by
  unfold Machine.execCqDisable
  split
  · exact .idle
  · exact .next (h.governed (fun _ h₁ => h₁.writeReg))

theorem State.Keyed.execXlinv (h : st.Keyed) {w v} : Out.Keyed (execXlinv w v st) := .next (h.governed (fun _ h₁ => h₁.writeReg))

theorem State.Keyed.execXlinvComplete (h : st.Keyed) : Out.Keyed (execXlinvComplete st) := by
  unfold Machine.execXlinvComplete
  split
  · exact .next h
  · exact .idle

theorem State.Keyed.execMxpart (h : st.Keyed) {w g v} : Out.Keyed (execMxpart w g v st) := by
  unfold Machine.execMxpart
  split
  · exact .idle
  · exact .next (h.governed (fun _ h₁ => h₁.writeReg))

theorem State.Keyed.execPreempt (h : st.Keyed) {w g} : Out.Keyed (execPreempt w g st) := by
  unfold Machine.execPreempt
  split
  · exact .idle
  · exact .next (h.governed (fun _ h₁ => h₁.writeReg))

theorem State.Keyed.execResume (h : st.Keyed) {w g} : Out.Keyed (execResume w g st) := by
  unfold Machine.execResume
  split
  · exact .idle
  · exact .next (h.governed (fun _ h₁ => h₁.writeReg))

theorem State.Keyed.execLmpool (h : st.Keyed) {w cid v} : Out.Keyed (execLmpool w cid v st) := by
  unfold Machine.execLmpool
  split
  · exact .next (h.governed (fun _ h₁ => h₁.writeReg))
  · exact .idle

theorem State.Keyed.execInjArm (h : st.Keyed) {v} : Out.Keyed (execInjArm v st) := .next h

theorem State.Keyed.execTwbankArm (h : st.Keyed) {w v} : Out.Keyed (execTwbankArm w v st) := by
  unfold Machine.execTwbankArm
  split
  · exact .next (h.governed (fun _ h₁ => h₁.writeReg))
  · exact .idle

theorem State.Keyed.execRetire (h : st.Keyed) {w} : Out.Keyed (execRetire w st) := .next (h.governed (fun _ h₁ => h₁.writeReg))

theorem State.Keyed.execRelayBankWrite (h : st.Keyed) {w bank n v} : Out.Keyed (execRelayBankWrite w bank n v st) := by
  unfold Machine.execRelayBankWrite
  split
  · exact .idle
  · exact .next (h.governed (fun _ h₁ => h₁.writeReg))

theorem State.Keyed.execOwnclaim (h : st.Keyed) {m} : Out.Keyed (execOwnclaim m st) := .next (h.governed fun _ h₁ => h₁.writeReg).notePod

theorem State.Keyed.execOwngive (h : st.Keyed) {m target} : Out.Keyed (execOwngive m target st) := .next (h.governed (fun _ h₁ => h₁.writeReg))

theorem State.Keyed.execOwntake (h : st.Keyed) {m} : Out.Keyed (execOwntake m st) := .next (h.governed fun _ h₁ => h₁.writeReg).notePod

theorem State.Keyed.execHandoverTimeout (h : st.Keyed) : Out.Keyed (execHandoverTimeout st) := by
  unfold Machine.execHandoverTimeout
  split
  · exact .next h
  · exact .idle

/-! ## Nodes, joins and arenas (R237 to R250, R324) -/

theorem State.Keyed.nodeRead (h : st.Keyed) {pa} : (st.nodeRead pa).1.Keyed := by
  unfold State.nodeRead
  split
  · exact h.hRead
  · split
    · exact h
    · exact h.sRead

theorem State.Keyed.nodeWrite (h : st.Keyed) {pa v} : (st.nodeWrite pa v).Keyed := by
  unfold State.nodeWrite
  split
  · exact h.hWrite.writeBack
  · exact h.putBytes

theorem State.Keyed.nodeMod (h : st.Keyed) {pa f} : (st.nodeMod pa f).Keyed := h.nodeRead.nodeWrite

theorem State.Keyed.writeNode (h : st.Keyed) {pa ws} : (st.writeNode pa ws).Keyed := h.foldl fun _ _ h₁ => h₁.nodeWrite

theorem State.Keyed.giveNode (h : st.Keyed) {launch cid net va} : (st.giveNode launch cid net va).Keyed := by
  unfold State.giveNode
  split
  · extract_lets +onlyGivenNames st₁
    have h₁ : st₁.Keyed := h.modNet
    split
    · split
      · exact h₁.modCore
      · exact h₁.modNet
    · exact h₁.modNet
  · exact h

theorem State.Keyed.handOut (h : st.Keyed) {launch net va} : (st.handOut launch net va).Keyed := h.modNet

theorem State.Keyed.ownNode (h : st.Keyed) {launch net va} : (st.ownNode launch net va).Keyed := by
  unfold State.ownNode
  split
  · exact h
  · exact h.handOut

theorem State.Keyed.freeNode (h : st.Keyed) {launch cid va pa} : (st.freeNode launch cid va pa).Keyed := by
  unfold State.freeNode
  extract_lets +onlyGivenNames x₁
  split
  · exact h
  · exact h.nodeWrite.giveNode

theorem State.Keyed.enterPair (h : st.Keyed) {cid p} : (st.enterPair cid p).Keyed := by
  unfold State.enterPair
  extract_lets +onlyGivenNames cid₁ k₁ p₁
  split
  · exact h
  · split
    · exact h.failLaunch
    · split
      · exact h
      · split
        · exact h.modCore
        · split
          · exact h.modCore
          · exact h

theorem State.Keyed.pushPair (h : st.Keyed) {launch a apa b bpa} : (st.pushPair launch a apa b bpa).Keyed := h.nodeMod.nodeMod.enterPair

theorem State.Keyed.linkPorts (h : st.Keyed) {launch x y} : (st.linkPorts launch x y).1.Keyed := by
  unfold State.linkPorts
  extract_lets +onlyGivenNames st₁
  have h₁ : st₁.Keyed := h.nodeWrite.nodeWrite
  split
  · exact h₁.pushPair
  · exact h₁

theorem State.Keyed.join (h : st.Keyed) {launch p q} : (st.join launch p q).1.Keyed := by
  unfold State.join
  extract_lets +onlyGivenNames wp₁ wq₁ far₁
  split
  · exact h
  · split
    · exact h.nodeWrite.nodeWrite
    · split
      · exact h.linkPorts
      · split
        · split
          · exact h.nodeWrite.linkPorts
          · exact h
        · split
          · split
            · exact h.nodeWrite.linkPorts
            · exact h
          · split
            · exact h.nodeWrite.nodeWrite.linkPorts
            · exact h

/-! ## The node instructions (R239 to R252) -/

theorem State.Keyed.withNodes (h : st.Keyed) {go : Eff} (h₁ : go.Keyed) {c pas} : (withNodes st c pas go).Keyed := by
  unfold Machine.withNodes
  split
  · exact h
  · split
    · exact h.requestLine
    · exact h₁

theorem State.Keyed.execNalloc (h : st.Keyed) {e d a} : Out.Keyed (execNalloc e d a st) := by
  refine h.issue fun _ c h₁ => ?_
  extract_lets +onlyGivenNames v
  refine Eff.Keyed.checked ?_
  split
  · exact trivial
  · split
    · exact State.Keyed.modCore h₁
    · refine h₁.withXlate fun _ => ?_
      extract_lets +onlyGivenNames st₁
      have h₂ : st₁.Keyed := by
        exact State.Keyed.handOut h₁.modCore
      exact h₂.acceptAs

theorem State.Keyed.execNfree (h : st.Keyed) {e a} : Out.Keyed (execNfree e a st) := by
  unfold Machine.execNfree
  refine h.issue fun _ _ h₁ => ?_
  extract_lets +onlyGivenNames va₁
  refine Eff.Keyed.checked (h₁.withXlate (fun _ => ?_))
  refine h₁.withNodes ?_
  split
  · exact trivial
  · exact h₁.acceptAs

theorem State.Keyed.execNld (h : st.Keyed) {e d a n} : Out.Keyed (execNld e d a n st) :=
  h.issue fun _ _ h₁ => Eff.Keyed.checked (h₁.withXlate (fun _ => h₁.acceptAs))

theorem State.Keyed.execNst (h : st.Keyed) {e d a n} : Out.Keyed (execNst e d a n st) := by
  unfold Machine.execNst
  refine h.issue fun _ _ h₁ => ?_
  extract_lets +onlyGivenNames va₁ v₁
  split
  · exact trivial
  · refine Eff.Keyed.checked (h₁.withXlate (fun _ => ?_))
    refine h₁.withNodes ?_
    split
    · exact trivial
    · split
      · exact trivial
      · exact h₁.acceptAs

theorem State.Keyed.withPorts (h : st.Keyed) {go : List ℕ → Eff} (hgo : ∀ x₀, (go x₀).Keyed) {c k refs} : (withPorts st c k refs go).Keyed := by
  unfold Machine.withPorts
  split
  · exact trivial
  · refine h.withXlate fun _ => ?_
    refine h.withNodes ?_
    split
    · exact trivial
    · exact hgo _

theorem State.Keyed.execPlink (h : st.Keyed) {e d a b} : Out.Keyed (execPlink e d a b st) := by
  unfold Machine.execPlink
  refine h.issue fun _ _ h₁ => ?_
  extract_lets +onlyGivenNames p₁ q₁
  refine Eff.Keyed.checked ?_
  split
  · exact trivial
  · refine h₁.withPorts fun _ => ?_
    split
    · split
      · exact trivial
      · exact Eff.Keyed.checked h₁.acceptAs
    · exact h₁

theorem State.Keyed.execPget (h : st.Keyed) {e d a} : Out.Keyed (execPget e d a st) := h.issue fun _ _ h₁ => h₁.withPorts fun _ => h₁.acceptAs

theorem State.Keyed.execPpush (h : st.Keyed) {e a b} : Out.Keyed (execPpush e a b st) := by
  unfold Machine.execPpush
  refine h.issue fun _ _ h₁ => ?_
  extract_lets +onlyGivenNames x₁ y₁
  refine Eff.Keyed.checked (h₁.withXlate (fun _ => ?_))
  split
  · exact h₁.acceptAs
  · exact h₁

theorem State.Keyed.readEntries (h : st.Keyed) {c l} : (st.readEntries c l).1.Keyed := by
  induction l generalizing st with
  | nil => exact h
  | cons x l ih =>
    unfold State.readEntries
    extract_lets +onlyGivenNames r
    have h₁ : r.1.Keyed := h.plainRead
    split
    · exact h₁
    · exact ih h₁

theorem State.Keyed.execRtset (h : st.Keyed) {e d a b} : Out.Keyed (execRtset e d a b st) := by
  unfold Machine.execRtset
  refine h.issue fun _ _ h₁ => ?_
  extract_lets +onlyGivenNames sa₁ sb₁ sd₁ vas₁
  refine Eff.Keyed.checked ?_
  split
  · exact trivial
  · split
    · exact trivial
    · extract_lets +onlyGivenNames pages₁
      refine h₁.withXlate fun _ => ?_
      extract_lets +onlyGivenNames at₁
      split
      · exact h₁
      · split
        · exact h₁.requestLine
        · split
          · next st₁ _ _ e =>
              have h₂ : st₁.Keyed := h₁.readEntries.of_fst e
              exact h₂
          · next st₂ _ e =>
              have h₃ : st₂.Keyed := h₁.readEntries.of_fst e
              split
              · exact trivial
              · exact h₃.modNet

end Sys2Proof.Machine
end

section
/-! # Contexts under their keys: vector and task instructions -/

namespace Sys2Proof.Machine

-- One proof at a time: each thread of an asynchronous one reserves a whole stack, and hundreds of them exceed the memory given.
set_option Elab.async false

variable {st : State}

/-! ## Vector arithmetic, moves and reductions (R138 to R156) -/

theorem State.Keyed.vectorOpAt (h : st.Keyed) {go : State → Ctx → Eff} (hgo : ∀ t x₁, t.Keyed → (go t x₁).Keyed) {i e scal named checks srcs offs} :
    Out.Keyed (vectorOpAt i e scal named checks srcs offs go st) :=
  h.issue fun _ _ h₁ => h₁.withVectors fun _ => hgo _ _ h₁

theorem State.Keyed.vectorOp (h : st.Keyed) {go : State → Ctx → Eff} (hgo : ∀ t x₁, t.Keyed → (go t x₁).Keyed) {i e scal named checks srcs} :
    Out.Keyed (vectorOp i e scal named checks srcs go st) :=
  h.vectorOpAt hgo

theorem State.Keyed.writeLanesEff (h : st.Keyed) {c d tag w m f} : (Machine.writeLanes st c d tag w m f).Keyed := by
  unfold Machine.writeLanes
  extract_lets +onlyGivenNames r₁
  refine h.writeVector fun _ => ?_
  exact h

theorem State.Keyed.unary (h : st.Keyed) {i e d a k accept f} : Out.Keyed (unary i e d a k accept f st) := h.vectorOp fun _ _ h₁ => h₁.writeLanesEff

theorem State.Keyed.binary (h : st.Keyed) {i e d a b k accept f} : Out.Keyed (binary i e d a b k accept f st) :=
  h.vectorOp fun _ _ h₁ => h₁.writeLanesEff

theorem State.Keyed.execVadd (h : st.Keyed) {e d a b k r} : Out.Keyed (execVadd e d a b k r st) := h.binary

theorem State.Keyed.execVsub (h : st.Keyed) {e d a b k r} : Out.Keyed (execVsub e d a b k r st) := h.binary

theorem State.Keyed.execVmul (h : st.Keyed) {e d a b k r} : Out.Keyed (execVmul e d a b k r st) := h.binary

theorem State.Keyed.execVmin (h : st.Keyed) {e d a b k} : Out.Keyed (execVmin e d a b k st) := h.binary

theorem State.Keyed.execVmax (h : st.Keyed) {e d a b k} : Out.Keyed (execVmax e d a b k st) := h.binary

theorem State.Keyed.fused (h : st.Keyed) {i e d a b z k r np nc} : Out.Keyed (fused i e d a b z k r np nc st) :=
  h.vectorOp fun _ _ h₁ => h₁.writeLanesEff

theorem State.Keyed.execVfma (h : st.Keyed) {e d a b c k r} : Out.Keyed (execVfma e d a b c k r st) := h.fused

theorem State.Keyed.execVfms (h : st.Keyed) {e d a b c k r} : Out.Keyed (execVfms e d a b c k r st) := h.fused

theorem State.Keyed.execVfnma (h : st.Keyed) {e d a b c k r} : Out.Keyed (execVfnma e d a b c k r st) := h.fused

theorem State.Keyed.execVabs (h : st.Keyed) {e d a k} : Out.Keyed (execVabs e d a k st) := h.unary

theorem State.Keyed.execVneg (h : st.Keyed) {e d a k} : Out.Keyed (execVneg e d a k st) := h.unary

theorem State.Keyed.execVexp2 (h : st.Keyed) {e d a k r} : Out.Keyed (execVexp2 e d a k r st) := h.unary

theorem State.Keyed.execVlog2 (h : st.Keyed) {e d a k r} : Out.Keyed (execVlog2 e d a k r st) := h.unary

theorem State.Keyed.execVrcp (h : st.Keyed) {e d a k r} : Out.Keyed (execVrcp e d a k r st) := h.unary

theorem State.Keyed.execVrsqrt (h : st.Keyed) {e d a k r} : Out.Keyed (execVrsqrt e d a k r st) := h.unary

theorem State.Keyed.logic (h : st.Keyed) {i e d a b k f} : Out.Keyed (logic i e d a b k f st) := h.vectorOp fun _ _ h₁ => h₁.writeLanesEff

theorem State.Keyed.execVand (h : st.Keyed) {e d a b k} : Out.Keyed (execVand e d a b k st) := h.logic

theorem State.Keyed.execVor (h : st.Keyed) {e d a b k} : Out.Keyed (execVor e d a b k st) := h.logic

theorem State.Keyed.execVxor (h : st.Keyed) {e d a b k} : Out.Keyed (execVxor e d a b k st) := h.logic

theorem State.Keyed.execVshl (h : st.Keyed) {e d a b k} : Out.Keyed (execVshl e d a b k st) := h.binary

theorem State.Keyed.execVshr (h : st.Keyed) {e d a b k} : Out.Keyed (execVshr e d a b k st) := h.binary

theorem State.Keyed.execVsra (h : st.Keyed) {e d a b k} : Out.Keyed (execVsra e d a b k st) := h.binary

theorem State.Keyed.execVcmp (h : st.Keyed) {e d a b c k} : Out.Keyed (execVcmp e d a b c k st) := by
  unfold Machine.execVcmp
  refine h.vectorOp fun _ _ h₁ => ?_
  exact h₁

theorem State.Keyed.execVsel (h : st.Keyed) {e d a b k} : Out.Keyed (execVsel e d a b k st) := h.vectorOp fun _ _ h₁ => h₁.writeLanesEff

theorem State.Keyed.execVcvt (h : st.Keyed) {e d a t k r} : Out.Keyed (execVcvt e d a t k r st) := h.vectorOp fun _ _ h₁ => h₁.writeLanesEff

theorem State.Keyed.execVtag (h : st.Keyed) {e d a t} : Out.Keyed (execVtag e d a t st) := by
  unfold Machine.execVtag
  refine h.vectorOp fun _ _ h₁ => ?_
  refine h₁.writeVector fun _ => ?_
  exact h₁

theorem State.Keyed.execVmov (h : st.Keyed) {e d a k} : Out.Keyed (execVmov e d a k st) := h.vectorOp fun _ _ h₁ => h₁.writeLanesEff

theorem State.Keyed.execVbcast (h : st.Keyed) {e d a t k} : Out.Keyed (execVbcast e d a t k st) := h.vectorOp fun _ _ h₁ => h₁.writeLanesEff

theorem State.Keyed.execVext (h : st.Keyed) {e d a b} : Out.Keyed (execVext e d a b st) := by
  unfold Machine.execVext
  refine h.vectorOp fun _ _ h₁ => ?_
  exact h₁

theorem State.Keyed.execVins (h : st.Keyed) {e d a b} : Out.Keyed (execVins e d a b st) := by
  unfold Machine.execVins
  refine h.vectorOp fun _ _ h₁ => ?_
  extract_lets +onlyGivenNames x₁ w₁ j₁
  refine h₁.writeVector fun _ => ?_
  exact h₁

theorem State.Keyed.execVperm (h : st.Keyed) {e d a b k} : Out.Keyed (execVperm e d a b k st) := h.vectorOp fun _ _ h₁ => h₁.writeLanesEff

theorem State.Keyed.reduction (h : st.Keyed) {i e d a accept f} : Out.Keyed (reduction i e d a accept f st) := by
  unfold Machine.reduction
  refine h.vectorOp fun _ _ h₁ => ?_
  extract_lets +onlyGivenNames r₁
  refine h₁.writeVector fun _ => ?_
  exact h₁

theorem State.Keyed.execVredsum (h : st.Keyed) {e d a k r} : Out.Keyed (execVredsum e d a k r st) := h.reduction

theorem State.Keyed.execVredmax (h : st.Keyed) {e d a k} : Out.Keyed (execVredmax e d a k st) := h.reduction

theorem State.Keyed.execVredmin (h : st.Keyed) {e d a k} : Out.Keyed (execVredmin e d a k st) := h.reduction

theorem State.Keyed.dot (h : st.Keyed) {i e d a b z k rm tag nan val} : Out.Keyed (dot i e d a b z k rm tag nan val st) :=
  h.vectorOp fun _ _ h₁ => h₁.writeLanesEff

theorem State.Keyed.execVdotBf16 (h : st.Keyed) {e d a b c k r} : Out.Keyed (execVdotBf16 e d a b c k r st) := h.dot

theorem State.Keyed.execVdotTd8 (h : st.Keyed) {e d a b c k r} : Out.Keyed (execVdotTd8 e d a b c k r st) := h.dot

theorem State.Keyed.writeLanes (h : st.Keyed) {c r tag l last} : (st.writeLanes c r tag l last).Keyed := by
  unfold State.writeLanes
  extract_lets +onlyGivenNames v₁
  split
  · exact h.putCtx
  · split
    · exact h
    · split
      · exact h.putCtx.tickStamp
      · exact h.putCtx

/-! ## Masks, stream bindings and invariant registers (R157 to R168) -/

theorem State.Keyed.maskOp (h : st.Keyed) {i e scal f} : Out.Keyed (maskOp i e scal f st) := by
  unfold Machine.maskOp
  refine h.issue fun _ _ h₁ => ?_
  exact h₁

theorem State.Keyed.execKset (h : st.Keyed) {e d a} : Out.Keyed (execKset e d a st) := h.maskOp

theorem State.Keyed.execKand (h : st.Keyed) {e d a b} : Out.Keyed (execKand e d a b st) := h.maskOp

theorem State.Keyed.execKor (h : st.Keyed) {e d a b} : Out.Keyed (execKor e d a b st) := h.maskOp

theorem State.Keyed.execKnot (h : st.Keyed) {e d a} : Out.Keyed (execKnot e d a st) := h.maskOp

theorem State.Keyed.execKpop (h : st.Keyed) {e d a} : Out.Keyed (execKpop e d a st) := h.maskOp

theorem State.Keyed.bindStream (h : st.Keyed) {i e d a push} : Out.Keyed (bindStream i e d a push st) := by
  unfold Machine.bindStream
  refine h.issue fun _ _ h₁ => ?_
  extract_lets +onlyGivenNames ra₁
  split
  · exact trivial
  · split
    · exact h₁
    · refine Eff.Keyed.checked (h₁.withBytes (fun _ _ _ h₂ => ?_))
      extract_lets +onlyGivenNames x₁
      split
      · exact Eff.Keyed.rejected
      · split
        · exact trivial
        · split
          · exact trivial
          · split
            · exact trivial
            · split <;> exact h₂

theorem State.Keyed.execSbindPop (h : st.Keyed) {e d a} : Out.Keyed (execSbindPop e d a st) := h.bindStream

theorem State.Keyed.execSbindPush (h : st.Keyed) {e d a} : Out.Keyed (execSbindPush e d a st) := h.bindStream

theorem State.Keyed.execSfree (h : st.Keyed) {e d} : Out.Keyed (execSfree e d st) := by
  unfold Machine.execSfree
  refine h.issue fun _ _ h₁ => ?_
  split
  · exact trivial
  · split <;> exact h₁

theorem State.Keyed.accumulate (h : st.Keyed) {i e d a k kind accept} : Out.Keyed (accumulate i e d a k kind accept st) := by
  unfold Machine.accumulate
  refine h.vectorOp fun _ _ h₁ => ?_
  extract_lets +onlyGivenNames q₁
  split
  · exact trivial
  · exact h₁

theorem State.Keyed.execCkaccMod (h : st.Keyed) {e d a k} : Out.Keyed (execCkaccMod e d a k st) := h.accumulate

theorem State.Keyed.execCkaccFsum (h : st.Keyed) {e d a k} : Out.Keyed (execCkaccFsum e d a k st) := h.accumulate

theorem State.Keyed.execCkclr (h : st.Keyed) {e d} : Out.Keyed (execCkclr e d st) := h.maskOp

theorem State.Keyed.execCkrdLo (h : st.Keyed) {e d a} : Out.Keyed (execCkrdLo e d a st) := h.maskOp

theorem State.Keyed.execCkrdHi (h : st.Keyed) {e d a} : Out.Keyed (execCkrdHi e d a st) := h.maskOp

theorem State.Keyed.execCheck (h : st.Keyed) {e d a b} : Out.Keyed (execCheck e d a b st) := by
  unfold Machine.execCheck
  refine h.issue fun _ _ h₁ => ?_
  extract_lets +onlyGivenNames r₁
  split <;> exact h₁

/-! ## Task flow, tiles and work counters (R255 to R263) -/

theorem State.Keyed.execYield (h : st.Keyed) {e n} : Out.Keyed (execYield e n st) := by
  unfold Machine.execYield
  refine h.issueFree fun _ _ h₁ => ?_
  exact h₁

theorem State.Keyed.copyEnded (h : st.Keyed) {c} : (st.copyEnded c).Keyed := by
  unfold State.copyEnded
  split
  · exact h.copyGone.settleFiring
  · exact h

theorem State.Keyed.execTend (h : st.Keyed) {e} : Out.Keyed (execTend e st) := by
  unfold Machine.execTend
  refine h.issueFree fun _ _ h₁ => ?_
  split
  · exact h₁
  · exact ((h₁.modTenant.endCtx _ _).copyEnded).tickStamp

theorem State.Keyed.countSent (h : st.Keyed) {l launch} : (st.countSent l launch).Keyed := h.modLayer

theorem State.Keyed.countRecv (h : st.Keyed) {l launch} : (st.countRecv l launch).Keyed := h.modLayer

theorem State.Keyed.sendMsg (h : st.Keyed) {c cid ch far bytes} : (st.sendMsg c cid ch far bytes).Keyed := by
  unfold State.sendMsg
  split
  · extract_lets +onlyGivenNames m₁ st₁
    have h₁ : st₁.Keyed := h.ite h.countSent
    refine State.Keyed.tickStamp ?_
    exact h₁
  · exact h.countSent.nextTag.send

theorem State.Keyed.execChsend (h : st.Keyed) {e a b} : Out.Keyed (execChsend e a b st) := by
  unfold Machine.execChsend
  refine h.issue fun _ _ h₁ => ?_
  extract_lets +onlyGivenNames v₁ x₁ ch₁ cid₁ far₁ own₁
  split
  · exact trivial
  · split
    · exact trivial
    · refine Eff.Keyed.checked (h₁.withFence (fun _ _ h₂ => ?_))
      refine Eff.Keyed.atBank ?_
      exact h₂.sendMsg

theorem State.Keyed.pinVersion (h : st.Keyed) {f tenant tile ver} : (st.pinVersion f tenant tile ver).Keyed := by
  unfold State.pinVersion
  split
  · split
    · exact h.modTile.modFiring
    · exact h
  · exact h

theorem State.Keyed.spawn (h : st.Keyed) {c handler ctl vals} : (st.spawn c handler ctl vals).Keyed := by
  unfold State.spawn
  extract_lets +onlyGivenNames f₁ prio₁ lease₁ val₁ st₁
  have h₁ : st₁.Keyed := h
  exact (h₁.pinVersion.ite h₁).pinVersion.ite (h₁.pinVersion.ite h₁)

theorem State.Keyed.execHspawn (h : st.Keyed) {e d a b} : Out.Keyed (execHspawn e d a b st) := by
  unfold Machine.execHspawn
  refine h.issue fun _ _ h₁ => ?_
  extract_lets +onlyGivenNames v₁ x₁ ctl₁
  refine Eff.Keyed.checked ?_
  split
  · exact trivial
  · refine Eff.Keyed.checked (h₁.withFence (fun _ _ h₂ => ?_))
    refine Eff.Keyed.atBank ?_
    exact h₂.spawn

theorem State.Keyed.execCommit (h : st.Keyed) {e d a b} : Out.Keyed (execCommit e d a b st) := by
  unfold Machine.execCommit
  refine h.issueFree fun _ _ h₁ => ?_
  extract_lets +onlyGivenNames x₁ k₁
  split
  · exact trivial
  · refine Eff.Keyed.checked ?_
    split
    · exact h₁
    · extract_lets +onlyGivenNames dd₁
      split
      · exact trivial
      · split
        · exact trivial
        · split
          · exact h₁
          · refine h₁.withFence fun _ _ h₂ => ?_
            extract_lets +onlyGivenNames st₁
            have h₃ : st₁.Keyed := by
              unfold st₁
              refine State.Keyed.tickStamp ?_
              exact h₂
            extract_lets +onlyGivenNames st₂
            have h₄ : st₂.Keyed := by
              unfold st₂
              split
              · exact h₃.modFiring
              · exact h₃
            exact h₄.endCtx _ _

theorem State.Keyed.acceptRequest (h : st.Keyed) {c op d} : (acceptRequest st c op d).Keyed := h

theorem State.Keyed.execTnew (h : st.Keyed) {e d a} : Out.Keyed (execTnew e d a st) := by
  unfold Machine.execTnew
  refine h.issue fun _ _ h₁ => ?_
  extract_lets +onlyGivenNames v₁ base₁ size₁ zero₁ k₁
  refine Eff.Keyed.checked ?_
  split
  · exact trivial
  · exact Eff.Keyed.checked (h₁.afterAcquires h₁.acceptRequest)

theorem State.Keyed.execTver (h : st.Keyed) {e d a} : Out.Keyed (execTver e d a st) := h.issue fun _ _ h₁ => h₁.acceptRequest

theorem State.Keyed.execWorkq (h : st.Keyed) {e a b} : Out.Keyed (execWorkq e a b st) := by
  unfold Machine.execWorkq
  refine h.issue fun _ _ h₁ => ?_
  extract_lets +onlyGivenNames v₁ x₁
  refine Eff.Keyed.checked ?_
  split
  · exact trivial
  · exact h₁

/-! ## Traps, time, discovery and power (R42, R81, R264 to R267) -/

theorem State.Keyed.execTrap (h : st.Keyed) {e a n} : Out.Keyed (execTrap e a n st) := by
  unfold Machine.execTrap
  refine h.issue fun _ _ h₁ => ?_
  exact h₁

theorem State.Keyed.execEret (h : st.Keyed) {e} : Out.Keyed (execEret e st) := by
  unfold Machine.execEret
  refine h.issue fun _ _ h₁ => ?_
  split
  · exact h₁
  · exact trivial

theorem State.Keyed.execTstamp (h : st.Keyed) {e d} : Out.Keyed (execTstamp e d st) := by
  unfold Machine.execTstamp
  refine h.issue fun _ _ h₁ => ?_
  exact h₁

theorem State.Keyed.execDscr (h : st.Keyed) {e d a} : Out.Keyed (execDscr e d a st) := by
  unfold Machine.execDscr
  refine h.issue fun _ _ h₁ => ?_
  exact h₁

theorem State.Keyed.execPwreq (h : st.Keyed) {e d a} : Out.Keyed (execPwreq e d a st) := by
  unfold Machine.execPwreq
  refine h.issue fun _ _ h₁ => ?_
  extract_lets +onlyGivenNames v₁
  split
  · exact trivial
  · extract_lets +onlyGivenNames r₁
    refine State.Keyed.acceptRequest ?_
    exact h₁

theorem State.Keyed.execPwrel (h : st.Keyed) {e a} : Out.Keyed (execPwrel e a st) := by
  unfold Machine.execPwrel
  refine h.issue fun _ _ h₁ => ?_
  exact h₁

theorem State.Keyed.execUnassignedMajorOpcode (h : st.Keyed) {e w} : Out.Keyed (execUnassignedMajorOpcode e w st) := by
  unfold Machine.execUnassignedMajorOpcode
  refine h.issue fun _ _ h₁ => ?_
  exact trivial

/-! ## Vector loads and stores, gather and scatter: the writes to local memory (R197 to R202) -/

theorem State.Keyed.execVld (h : st.Keyed) {e d a t m o} : Out.Keyed (execVld e d a t m o st) := by
  unfold Machine.execVld
  refine h.vectorOp fun _ _ h₁ => ?_
  extract_lets +onlyGivenNames x₁ ls₁ g₁ k₁
  refine Eff.Keyed.checked (h₁.localAccess ?_)
  split
  · exact h₁
  · split
    · exact h₁
    · extract_lets +onlyGivenNames v₁
      refine h₁.writeVector fun _ => ?_
      split
      · exact h₁.setGranules _ _ _
      · exact h₁

theorem State.Keyed.execVst (h : st.Keyed) {e d a m o} : Out.Keyed (execVst e d a m o st) := by
  refine h.vectorOp fun _ c h₁ => ?_
  extract_lets +onlyGivenNames x ls g k
  refine Eff.Keyed.checked (h₁.localAccess ?_)
  split
  · exact h₁
  · split
    · exact h₁
    · extract_lets +onlyGivenNames st₁
      have h₂ : st₁.Keyed := by
        exact h₁.modCore
      exact (h₂.setGranules _ _ _).ite h₂

theorem State.Keyed.acceptLoad (h : st.Keyed) {c d tag o groups} : (acceptLoad st c d tag o groups).Keyed := by
  unfold Machine.acceptLoad
  split
  · refine h.writeVector fun _ => ?_
    exact h
  · extract_lets +onlyGivenNames f₁
    have h₁ : ∀ x₀, (f₁ x₀).Keyed := fun _ => h.acceptAll
    split
    · split
      · exact h.withPush fun _ => h₁ _
      · exact h₁ _
    · exact h₁ _

theorem State.Keyed.execVldg (h : st.Keyed) {e d a t o} : Out.Keyed (execVldg e d a t o st) :=
  h.vectorOp fun _ _ h₁ => Eff.Keyed.checked (h₁.withXlate (fun _ => h₁.acceptLoad))

theorem State.Keyed.execVstg (h : st.Keyed) {e d a o} : Out.Keyed (execVstg e d a o st) :=
  h.vectorOp fun _ _ h₁ => Eff.Keyed.checked (h₁.withXlate (fun _ => h₁.acceptAs))

theorem State.Keyed.execVgath (h : st.Keyed) {e d a b s t k} : Out.Keyed (execVgath e d a b s t k st) := by
  unfold Machine.execVgath
  refine h.vectorOpAt fun _ _ h₁ => ?_
  extract_lets +onlyGivenNames ls₁
  split
  · extract_lets +onlyGivenNames lc₁
    refine Eff.Keyed.checked (h₁.localAccess ?_)
    split
    · exact h₁
    · refine h₁.writeVector fun _ => ?_
      exact h₁
  · exact Eff.Keyed.checked (h₁.withXlate (fun _ => h₁.acceptLoad))

theorem State.Keyed.execVscat (h : st.Keyed) {e d a b s k} : Out.Keyed (execVscat e d a b s k st) := by
  refine h.vectorOpAt fun _ c h₁ => ?_
  extract_lets +onlyGivenNames ls v
  split
  · refine Eff.Keyed.checked (h₁.localAccess ?_)
    split
    · exact h₁
    · exact h₁.modCore
  · exact Eff.Keyed.checked (h₁.withXlate fun _ => h₁.acceptAll)

end Sys2Proof.Machine
end

section
/-! # Contexts under their keys: accesses in flight, copies, the matrix unit -/

namespace Sys2Proof.Machine

-- One proof at a time: each thread of an asynchronous one reserves a whole stack, and hundreds of them exceed the memory given.
set_option Elab.async false

variable {st : State}

/-! ## Accesses in flight, and their performance at a point (R269 to R284, R294) -/

theorem State.Keyed.readyRelease (h : st.Keyed) {uid s} : (st.readyRelease uid s).Keyed := by
  unfold State.readyRelease
  split
  · exact h
  · extract_lets +onlyGivenNames st₁
    have h₁ : st₁.Keyed := h.writeBackStored
    split
    · exact h₁
    · split
      · exact h₁.writeBackPeers
      · exact trivial

theorem State.Keyed.setAcc (h : st.Keyed) {a} : (st.setAcc a).Keyed := h

theorem State.Keyed.dropAcc (h : st.Keyed) {a} : (st.dropAcc a).Keyed := h

theorem State.Keyed.modUid (h : st.Keyed) {u f} : (st.modUid u f).Keyed := by
  unfold State.modUid
  split
  · exact h.putCtx
  · exact h

theorem State.Keyed.finishAcquire (h : st.Keyed) {a} : (st.finishAcquire a).Keyed := by
  unfold State.finishAcquire
  split
  · exact h.dropPeers.tickStamp.modUid
  · exact h

theorem State.Keyed.answer (h : st.Keyed) {a x} : (st.answer a x).Keyed := h.setAcc.finishAcquire

theorem State.Keyed.readElem (h : st.Keyed) {a x} : (st.readElem a x).1.Keyed := by
  unfold State.readElem
  split
  · exact h.hRead
  · exact h.flushLine.sRead
  · exact h.flushLine.behindRead
  · exact h.behindRead
  · exact h
  · exact h.sRead

theorem State.Keyed.readElems (h : st.Keyed) {a l} : (State.readElems a l st).1.Keyed := by
  induction l generalizing st with
  | nil => exact h
  | cons x l ih => exact ih h.readElem

theorem State.Keyed.finishLoad (h : st.Keyed) {a} : (st.finishLoad a).Keyed := by
  unfold State.finishLoad
  extract_lets +onlyGivenNames st₁
  have h₁ : st₁.1.Keyed := h.readElems
  split <;> exact h₁.answer

theorem State.Keyed.performLoad (h : st.Keyed) {a} : (st.performLoad a).Keyed := by
  unfold State.performLoad
  split
  · split
    · split
      · exact trivial
      · refine Ready.Keyed.andThen h.readyLine fun _ h₁ => ?_
        exact h₁.finishLoad
    · refine Ready.Keyed.andThen h.readyOwner fun _ h₂ => ?_
      exact h₂.requestLine.setAcc
  · refine Ready.Keyed.andThen h.readyLines fun _ h₃ => ?_
    exact h₃.finishLoad

theorem State.Keyed.writeRun (h : st.Keyed) {a pa l} : (st.writeRun a pa l).Keyed := by
  unfold State.writeRun
  split
  · exact h.hWrite (l := l)
  · exact h.flushLine.sWrite
  · exact h.flushLine.sWrite
  · exact h.putBytes

theorem State.Keyed.askPeer (h : st.Keyed) {a pa kind body} : (st.askPeer a pa kind body).Keyed := h

theorem State.Keyed.performStore (h : st.Keyed) {a} : (st.performStore a).Keyed := by
  unfold State.performStore
  refine Ready.Keyed.andThen ?_ fun _ h₁ => ?_
  · split
    · exact h.readyRelease
    · exact h
  · split
    · split
      · exact trivial
      · refine Ready.Keyed.andThen h₁.readyOwner fun _ h₂ => ?_
        exact (h₂.foldl (fun _ _ h₃ => h₃.askPeer)).setAcc
    · refine Ready.Keyed.andThen h₁.readyLines fun _ h₄ => ?_
      exact (h₄.foldl (fun _ _ h₅ => h₅.writeRun)).dropAcc

theorem State.Keyed.performNode (h : st.Keyed) {a} : (st.performNode a).Keyed := by
  unfold State.performNode
  refine Ready.Keyed.andThen h.readyLines fun _ h₁ => ?_
  refine Ready.Keyed.andThen ?_ fun _ h₂ => ?_
  · split
    · exact h₁.readyRelease
    · exact h₁
  · split
    · exact h₂.nodeRead.answer
    · extract_lets +onlyGivenNames st₁
      have h₃ : st₁.1.Keyed := h₂.nodeRead
      split
      · exact h₃.answer
      · split
        · exact trivial
        · exact h₃.answer
    · refine State.Keyed.dropAcc ?_
      split
      · exact h₂
      · split
        · exact h₂.nodeMod
        · exact h₂.nodeWrite
    · exact h₂.writeNode.dropAcc
    · exact h₂.freeNode.dropAcc
    · exact h₂.join.answer
    · exact (h₂.ite h₂.pushPair).dropAcc
    · exact trivial

theorem Ready.Keyed.out {x : Ready} (h : x.Keyed) {mnemonic} : Out.Keyed (Ready.out mnemonic x) := by
  unfold Machine.Ready.out
  split
  · next st₁ =>
      have h₁ : st₁.Keyed := h
      exact .next h₁
  · next st₂ =>
      have h₂ : st₂.Keyed := h
      exact .next h₂
  · exact .idle

theorem State.Keyed.execRemoteAccess (h : st.Keyed) : Out.Keyed (execRemoteAccess st) := by
  unfold Machine.execRemoteAccess
  split
  · split
    · exact .idle
    · refine Ready.Keyed.out ?_
      split
      · exact h.performLoad
      · exact h.performStore
      · exact trivial
      · exact trivial
      · exact trivial
      · exact trivial
      · exact trivial
      · exact h.performNode
  · exact .idle

theorem State.Keyed.finishAtomic (h : st.Keyed) {a x} : (st.finishAtomic a x).Keyed := by
  unfold State.finishAtomic
  split
  · exact h.dropAcc.modUid
  · exact h.answer

theorem State.Keyed.performAtomic (h : st.Keyed) {a x} : (st.performAtomic a x).Keyed := by
  unfold State.performAtomic
  refine Ready.Keyed.andThen ?_ fun _ h₁ => ?_
  · split
    · exact h.readyRelease
    · exact h
  · split
    · split
      · exact trivial
      · refine Ready.Keyed.andThen h₁.readyOwner fun _ h₂ => ?_
        exact h₂
    · split
      · exact h₁.finishAtomic
      · extract_lets +onlyGivenNames st₁
        have h₃ : st₁.Keyed := h₁.flushLine.ite h₁
        extract_lets +onlyGivenNames st₂
        have h₄ : st₂.1.Keyed := h₃.sRead
        split
        · exact h₄.answer
        · exact h₄.sWrite.finishAtomic

theorem State.Keyed.execAtomicPerform (h : st.Keyed) : Out.Keyed (execAtomicPerform st) := by
  unfold Machine.execAtomicPerform
  split
  · split
    · exact .idle
    · split
      · exact Ready.Keyed.out h.performAtomic
      · exact Ready.Keyed.out h.performAtomic
      · exact .idle
  · exact .idle

theorem State.Keyed.dropRed (h : st.Keyed) {cid id} : (st.dropRed cid id).Keyed := h.modCore

theorem State.Keyed.performRed (h : st.Keyed) {cid r} : (st.performRed cid r).Keyed := by
  unfold State.performRed
  refine Ready.Keyed.andThen ?_ fun _ h₁ => ?_
  · split
    · exact h.readyRelease
    · exact h
  · split
    · split
      · exact trivial
      · refine Ready.Keyed.andThen h₁.readyOwner fun _ h₂ => ?_
        extract_lets +onlyGivenNames w₁ tenant₁ st₁
        have h₃ : st₁.Keyed := h₂.send
        refine State.Keyed.modCore ?_
        exact h₃
    · split
      · exact h₁.dropRed
      · exact ((h₁.flushLine.ite h₁).sRead.logEvent.ite (h₁.flushLine.ite h₁).sRead.sWrite).dropRed

theorem State.Keyed.execReductionPerform (h : st.Keyed) : Out.Keyed (execReductionPerform st) := by
  unfold Machine.execReductionPerform
  split
  · split
    · exact Ready.Keyed.out h.performRed
    · exact .idle
  · exact .idle

theorem State.Keyed.journal (h : st.Keyed) {e} : (st.journal e).Keyed := h

theorem State.Keyed.newTile (h : st.Keyed) {tenant size bytes bad} : (st.newTile tenant size bytes bad).1.Keyed := by
  unfold State.newTile
  extract_lets +onlyGivenNames full₁ id₁ st₁
  have h₁ : st₁.Keyed := h
  split <;> exact h₁

theorem State.Keyed.writeAnswer (h : st.Keyed) {a x} : (st.writeAnswer a x).Keyed := by
  unfold State.writeAnswer
  extract_lets +onlyGivenNames st₁
  have h₁ : st₁.Keyed := h.dropAcc
  split
  · exact h₁
  · extract_lets +onlyGivenNames c₁
    split
    · exact h₁.consumePoison
    · exact h₁.putCtx
    · exact h₁.putCtx
    · exact h₁.writeLanes
    · exact h₁.putCtx

theorem State.Keyed.execResultWrite (h : st.Keyed) : Out.Keyed (execResultWrite st) := by
  unfold Machine.execResultWrite
  split
  · split
    · exact .next h.writeAnswer
    · split
      · exact .idle
      · exact .next h.tickStamp.modUid.writeAnswer
    · split
      · exact .idle
      · exact .next h.newTile.writeAnswer
    · exact .idle
  · exact .idle

theorem State.Keyed.acceptRemote (h : st.Keyed) {c r} : (st.acceptRemote c r).Keyed := h.retire _ _ _

theorem State.Keyed.performRemote (h : st.Keyed) {c r} : (st.performRemote c r).Keyed := by
  unfold State.performRemote
  split
  · extract_lets +onlyGivenNames k₁ a₁
    refine State.Keyed.acceptRemote (State.Keyed.tickStamp ?_)
    exact h
  · exact State.Keyed.acceptRemote h.modCore
  · exact (h.barWrite _ _ _).acceptRemote

theorem State.Keyed.execRemoteTargetCheck (h : st.Keyed) : Out.Keyed (execRemoteTargetCheck st) := by
  unfold Machine.execRemoteTargetCheck
  split
  · extract_lets +onlyGivenNames k₁ st₁
    have h₁ : st₁.Keyed := h
    split
    · exact .next h₁
    · split
      · exact .next ((h₁.endCtx _ _).failLaunch)
      · split
        · exact .idle
        · split
          · exact .next h₁.programFault
          · split
            · exact .idle
            · exact .next h₁.performRemote
  · exact .idle

/-! ## `cpy`, `cpyx` and `cpwait` (R225 to R234) -/

theorem State.Keyed.copyOp (h : st.Keyed) {i e d a b cross} : Out.Keyed (copyOp i e d a b cross st) := by
  unfold Machine.copyOp
  refine h.issue fun _ _ h₁ => ?_
  extract_lets +onlyGivenNames da₁ sa₁ ctl₁
  split
  · exact h₁
  · refine Eff.Keyed.checked (h₁.withBytes (fun _ _ _ h₂ => ?_))
    refine h₂.withBytes fun _ _ _ h₃ => ?_
    extract_lets +onlyGivenNames dst₁ src₁
    split
    · exact trivial
    · split
      · exact Eff.Keyed.rejected
      · exact Eff.Keyed.rejected
      · split
        · exact trivial
        · exact h₃

theorem State.Keyed.execCpy (h : st.Keyed) {e d a b} : Out.Keyed (execCpy e d a b st) := h.copyOp

theorem State.Keyed.execCpyx (h : st.Keyed) {e d a b} : Out.Keyed (execCpyx e d a b st) := h.copyOp

theorem State.Keyed.takeRecord (h : st.Keyed) {c} : OptFstKeyed (st.takeRecord c) := by
  unfold State.takeRecord
  split
  · exact h.modCore
  · split
    · exact trivial
    · exact h

theorem State.Keyed.execCpwait (h : st.Keyed) {e d} : Out.Keyed (execCpwait e d st) := by
  unfold Machine.execCpwait
  refine h.issueFree fun _ _ h₁ => ?_
  split
  · exact h₁
  · split
    · next st₁ _ e =>
        have h₂ : st₁.Keyed := h₁.takeRecord.of_pair e
        exact h₂
    · exact h₁

/-! ## Matrix instructions (R169 to R187) -/

theorem State.Keyed.enqueue (h : st.Keyed) {c op} : (enqueue st c op).Keyed := by
  unfold Machine.enqueue
  split
  · exact h
  · exact h.modCore.tickStamp

theorem State.Keyed.execMwin (h : st.Keyed) {e d a} : Out.Keyed (execMwin e d a st) := by
  unfold Machine.execMwin
  refine h.issue fun _ _ h₁ => ?_
  extract_lets +onlyGivenNames w₁ g₁ blk₁
  split
  · exact h₁
  · split
    · exact trivial
    · split
      · exact trivial
      · extract_lets +onlyGivenNames free₁
        split
        · exact trivial
        · split
          · exact h₁
          · exact h₁.modCluster.enqueue

theorem State.Keyed.execOdset (h : st.Keyed) {e d a b} : Out.Keyed (execOdset e d a b st) := by
  unfold Machine.execOdset
  refine h.issue fun _ _ h₁ => ?_
  extract_lets +onlyGivenNames o₁
  split
  · exact h₁
  · split
    · exact trivial
    · exact h₁

theorem State.Keyed.execMma (h : st.Keyed) {e m a b v c} : Out.Keyed (execMma e m a b v c st) := by
  unfold Machine.execMma
  refine h.issue fun _ _ h₁ => ?_
  extract_lets +onlyGivenNames md₁ oa₁ ob₁ acc₁
  split
  · exact trivial
  · split
    · exact trivial
    · refine h₁.withVectors fun _ => ?_
      split
      · exact trivial
      · split
        · exact trivial
        · exact h₁.enqueue

theorem State.Keyed.windowOp (h : st.Keyed) {go : State → Ctx → W64 → Eff} (hgo : ∀ t x₁ x₂, t.Keyed → (go t x₁ x₂).Keyed) {i e scal d opnd} :
    Out.Keyed (windowOp i e scal d opnd go st) := by
  unfold Machine.windowOp
  refine h.issue fun _ _ h₁ => ?_
  split
  · exact trivial
  · exact hgo _ _ _ h₁

theorem State.Keyed.execMzero (h : st.Keyed) {e d} : Out.Keyed (execMzero e d st) := h.windowOp fun _ _ _ h₁ => h₁.enqueue

theorem State.Keyed.execMld (h : st.Keyed) {e d a} : Out.Keyed (execMld e d a st) := h.windowOp fun _ _ _ h₁ => Eff.Keyed.checked h₁.enqueue

theorem State.Keyed.matrixStore (h : st.Keyed) {i e d a form} : Out.Keyed (matrixStore i e d a form st) :=
  h.windowOp fun _ _ _ h₁ => Eff.Keyed.checked h₁.enqueue

theorem State.Keyed.execMst (h : st.Keyed) {e d a} : Out.Keyed (execMst e d a st) := h.matrixStore

theorem State.Keyed.execMstBf16 (h : st.Keyed) {e d a} : Out.Keyed (execMstBf16 e d a st) := h.matrixStore

theorem State.Keyed.execMstTd8 (h : st.Keyed) {e d a} : Out.Keyed (execMstTd8 e d a st) := h.matrixStore

theorem State.Keyed.execMres (h : st.Keyed) {e d a} : Out.Keyed (execMres e d a st) := by
  unfold Machine.execMres
  refine h.issue fun _ _ h₁ => ?_
  extract_lets +onlyGivenNames m₁
  split
  · exact trivial
  · split
    · exact trivial
    · extract_lets +onlyGivenNames f₁
      have h₂ : ∀ x₀, (f₁ x₀).Keyed := fun _ => h₁.enqueue
      split
      · split
        · exact h₁.withPush fun _ => h₂ _
        · exact h₂ _
      · exact h₂ _

theorem State.Keyed.execMchk (h : st.Keyed) {e d a b} : Out.Keyed (execMchk e d a b st) := h.windowOp fun _ _ _ h₁ => h₁.enqueue

theorem State.Keyed.execMscale (h : st.Keyed) {e d a b} : Out.Keyed (execMscale e d a b st) := by
  unfold Machine.execMscale
  refine h.issue fun _ _ h₁ => ?_
  extract_lets +onlyGivenNames m₁
  split
  · exact trivial
  · split
    · exact trivial
    · exact h₁.withVectors fun _ => h₁.enqueue

/-! ## The matrix unit (R172 to R182, R189) -/

theorem State.Keyed.execKStep (h : st.Keyed) : Out.Keyed (execKStep st) := by
  unfold Machine.execKStep
  extract_lets +onlyGivenNames g₁
  split
  · split
    · split
      · exact .idle
      · extract_lets +onlyGivenNames cid₁ k₁
        split
        · extract_lets +onlyGivenNames st₁
          have h₁ : st₁.Keyed := h.modCluster
          split
          · exact .next h₁.consumePoison
          · exact .next h₁
        · extract_lets +onlyGivenNames w₁ ops₁ k₂ g₂ g₃ st₂
          have h₂ : st₂.Keyed := h.modCluster
          refine .next ?_
          split
          · exact h₂.credit
          · exact h₂
    · exact .idle
  · exact .idle

theorem State.Keyed.lateVector (h : st.Keyed) {u d x} : (st.lateVector u d x).Keyed := by
  unfold State.lateVector
  split
  · split
    · exact h.putCtx
    · split
      · exact h
      · exact h.putCtx.tickStamp
  · exact h

theorem State.Keyed.finishCheck (h : st.Keyed) {u g w man kd sb} : (st.finishCheck u g w man kd sb).Keyed := by
  unfold State.finishCheck
  split
  · split
    · exact h.putCtx
    · extract_lets +onlyGivenNames r₁ a₁ b₁ c₁
      split
      · exact h.putCtx
      · exact h.putCtx.takeTrap
  · exact h

theorem State.Keyed.matrixCommand (h : st.Keyed) {n c cmd} : (st.matrixCommand n c cmd).Keyed := by
  unfold State.matrixCommand
  extract_lets +onlyGivenNames g cid set
  have hset : ∀ g, (set g).Keyed := fun _ => h.modCluster
  clear_value set
  split
  · exact h
  · exact hset _
  · exact hset _
  · extract_lets +onlyGivenNames w
    split
    · cases st.byUid cmd.uid with
      | none => exact h
      | some c => exact h.consumePoison
    · exact hset _
  · extract_lets +onlyGivenNames w
    split
    · exact h
    · exact h.deliver _ _ _
  · exact h.lateVector
  · exact h.finishCheck
  · exact hset _

theorem State.Keyed.execMatrixCommandPerform (h : st.Keyed) : Out.Keyed (execMatrixCommandPerform st) := by
  unfold Machine.execMatrixCommandPerform
  extract_lets +onlyGivenNames g₁
  split
  · split
    · exact .idle
    · exact .next h.modCluster.matrixCommand
  · exact .idle

theorem State.Keyed.execNextCore (h : st.Keyed) : Out.Keyed (execNextCore st) := by
  unfold Machine.execNextCore
  extract_lets +onlyGivenNames n₁ g₁
  split
  · exact .idle
  · extract_lets +onlyGivenNames asks₁
    split
    · split
      · extract_lets +onlyGivenNames st₁
        have h₁ : st₁.Keyed := h
        extract_lets +onlyGivenNames st₂
        have h₂ : st₂.Keyed := h₁.modCore
        exact .next h₂
      · exact .idle
    · split
      · exact .idle
      · exact .next h

theorem State.Keyed.execBlockClear (h : st.Keyed) {g k} : Out.Keyed (execBlockClear g k st) := by
  unfold Machine.execBlockClear
  split
  · split
    · exact .next h
    · exact .idle
  · exact .idle

end Sys2Proof.Machine
end

section
/-! # Contexts under their keys: engines, starts and barriers -/

namespace Sys2Proof.Machine

-- One proof at a time: each thread of an asynchronous one reserves a whole stack, and hundreds of them exceed the memory given.
set_option Elab.async false

variable {st : State}

/-! ## The engines of a core: strips, copies, completion records, walks, refills (R160 to R162, R230 to R234, R301) -/

theorem State.Keyed.readAt (h : st.Keyed) {pa n} : (st.readAt pa n).1.Keyed := by
  unfold State.readAt
  split
  · exact h
  · exact h.sRead

theorem State.Keyed.stripElem (h : st.Keyed) {c h₁ a} : (st.stripElem c h₁ a).1.Keyed := by
  unfold State.stripElem
  split
  · exact h
  · split
    · exact h.readAt
    · exact h
    · exact h
  · split <;> exact h

theorem State.Keyed.stripRead (h : st.Keyed) {c x l} : (State.stripRead c x l st).1.Keyed := by
  induction l generalizing st with
  | nil => exact h
  | cons y l ih =>
    unfold State.stripRead
    extract_lets +onlyGivenNames r s
    have h₁ : s.1.Keyed := ih h.stripElem
    split <;> exact h₁

theorem State.Keyed.readyXlate (h : st.Keyed) {cid pid tenant sup k l} : (State.readyXlate cid pid tenant sup k l st).Keyed := by
  induction l with
  | nil => exact h
  | cons a l ih =>
    unfold State.readyXlate
    split
    · split
      · next e => exact h.engineWalk.of_eq e
      · exact trivial
    · exact ih

/-- Page requests for the pages that an engine found absent (R305). -/
theorem State.Keyed.pageRequests (h : st.Keyed) {l : List Nat} {rec : State → Nat → Nat} :
    (l.foldl (fun s va => s.pageRequest (rec s va)) st).Keyed := by
  refine h.foldlOf fun va t u ht e => ?_
  have e' : t.pageRequest (rec t va) = u := e
  exact e' ▸ ht.pageRequest

theorem State.Keyed.refill (h : st.Keyed) {c x k} : (st.refill c x k).Keyed := by
  unfold State.refill
  extract_lets +onlyGivenNames l₁ local₁ vas₁ pid₁
  split
  · exact trivial
  · apply Ready.Keyed.andThen h.readyXlate
    intro t h₁
    apply Ready.Keyed.andThen h₁.readyLines
    intro t₂ h₂
    extract_lets +onlyGivenNames absent r st₁ st₂
    have h₃ : r.1.Keyed := h₂.stripRead
    have h₄ : st₁.Keyed := h₃.pageRequests
    have h₅ : st₂.Keyed := h₄.toldEngine
    exact h₅.putCtx.tickStamp.credit

theorem State.Keyed.execStripRefill (h : st.Keyed) {k slot} : Out.Keyed (execStripRefill k slot st) := by
  unfold Machine.execStripRefill
  split
  · split
    · exact .idle
    · split
      · exact Ready.Keyed.out h.refill
      · exact .idle
  · exact .idle

theorem State.Keyed.deliverAll (h : st.Keyed) {cid l bad} : (st.deliverAll cid l bad).Keyed := by
  unfold State.deliverAll
  refine State.Keyed.setGranules ?_ _ _ _
  exact h.modCore

theorem State.Keyed.drain (h : st.Keyed) {c x k s} : (st.drain c x k s).Keyed := by
  unfold State.drain
  extract_lets +onlyGivenNames w₁ l₁ rest₁
  split
  · exact trivial
  · split
    · split
      · exact trivial
      · exact h.deliverAll.modCtx.credit
    · extract_lets +onlyGivenNames l₂
      refine Ready.Keyed.andThen h.readyLines fun _ h₁ => ?_
      exact ((h₁.foldl (fun _ _ h₂ => h₂.putBytes)).modCtx).credit

theorem State.Keyed.execStripPushWrite (h : st.Keyed) {k slot} : Out.Keyed (execStripPushWrite k slot st) := by
  unfold Machine.execStripPushWrite
  split
  · split
    · exact Ready.Keyed.out h.drain
    · exact .idle
  · exact .idle

theorem State.Keyed.setCopy (h : st.Keyed) {x} : (st.setCopy x).Keyed := h

theorem State.Keyed.endCopy (h : st.Keyed) {x} : (st.endCopy x).Keyed := h.setCopy

theorem State.Keyed.copyRead (h : st.Keyed) {x a} : (st.copyRead x a).1.Keyed := by
  unfold State.copyRead
  extract_lets +onlyGivenNames w₁
  split
  · exact h
  · exact h.readAt
  · split <;> exact h

theorem State.Keyed.copyReads (h : st.Keyed) {x l} : (State.copyReads x l st).1.Keyed := by
  induction l generalizing st with
  | nil => exact h
  | cons y l ih => exact ih h.copyRead

theorem State.Keyed.countDelivery (h : st.Keyed) {cid bar n} : (st.countDelivery cid bar n).Keyed := by
  unfold State.countDelivery
  split
  · exact h.barWrite _ _ _
  · exact h

theorem State.Keyed.creditCopy (h : st.Keyed) {x got} : (st.creditCopy x got).Keyed := by
  unfold State.creditCopy
  split
  · split
    · exact h.credit
    · exact h
  · exact h

theorem State.Keyed.advance (h : st.Keyed) {x n b} : (st.advance x n b).Keyed := by
  unfold State.advance
  extract_lets +onlyGivenNames got₁ y₁ st₁
  have h₁ : st₁.Keyed := h.creditCopy
  split
  · exact h₁.endCopy
  · exact h₁.setCopy

theorem State.Keyed.sendGranule (h : st.Keyed) {x p l last} : (st.sendGranule x p l last).1.Keyed := by
  unfold State.sendGranule
  extract_lets +onlyGivenNames st₁
  have h₁ : st₁.1.Keyed := h.nextTag
  extract_lets +onlyGivenNames bytes₁ bad₁ st₂
  have h₂ : st₂.Keyed := h₁.send
  extract_lets +onlyGivenNames y₁
  split <;> exact h₂

theorem State.Keyed.stopCopy (h : st.Keyed) {x why} : (st.stopCopy x why).Keyed := by
  unfold State.stopCopy
  extract_lets +onlyGivenNames x₁
  split
  · exact h.sendGranule.setCopy
  · exact h.endCopy

theorem State.Keyed.deliverRun (h : st.Keyed) {x l} : (st.deliverRun x l).Keyed := by
  unfold State.deliverRun
  extract_lets +onlyGivenNames n₁ b₁ pieces₁ bad₁ k₁
  split
  · exact h.sendGranule.advance
  · split
    · exact h.dropCopies.failLaunch
    · split
      · exact trivial
      · split
        · exact h.advance
        · split
          · exact h.advance
          · split
            · exact ((h.foldl (fun _ _ h₁ => h₁.putBytes)).foldl (fun _ _ h₂ => h₂.sPoison.ite h₂)).countDelivery.advance
            · split
              · exact h.stopCopy
              · split
                · exact h.stopCopy
                · exact h.deliverAll.countDelivery.advance

theorem State.Keyed.beginTile (h : st.Keyed) {x} : OptKeyed (st.beginTile x) := by
  unfold State.beginTile
  split
  · split
    · exact trivial
    · split
      · exact h.modTile
      · exact h.stopCopy
  · exact h.stopCopy

theorem State.Keyed.copyStep (h : st.Keyed) {x} : (st.copyStep x).Keyed := by
  have hb : OptKeyed (if x.src.space == 2 && x.next == 0 then st.beginTile x else none) := by
    split
    · exact h.beginTile
    · exact trivial
  unfold State.copyStep
  split
  · next e => exact hb.of_eq e
  · split
    · split
      · next e => exact h.engineWalk.of_eq e
      · exact trivial
    · exact h.pageRequest.toldEngine.setCopy
    · exact h.toldEngine.toldEngine.stopCopy
    · exact Ready.Keyed.andThen h.readyLines fun _ h₁ => h₁.copyReads.deliverRun

theorem State.Keyed.execCopyDelivery (h : st.Keyed) : Out.Keyed (execCopyDelivery st) := by
  unfold Machine.execCopyDelivery
  split
  · split
    · exact .idle
    · exact Ready.Keyed.out h.copyStep
  · exact .idle

theorem State.Keyed.wakeCopyWait (h : st.Keyed) {u} : (st.wakeCopyWait u).Keyed := by
  unfold State.wakeCopyWait
  split
  · next c _ =>
    have hr : OptFstKeyed (if st.waitedOut c then none else st.takeRecord c) := by
      split
      · exact trivial
      · exact h.takeRecord
    split
    · split
      · next e => exact (hr.of_pair e).putCtx.tickStamp.tickStamp
      · exact h
    · exact h
  · exact h

theorem State.Keyed.retireCopy (h : st.Keyed) {x} : (st.retireCopy x).Keyed := by
  unfold State.retireCopy
  refine State.Keyed.wakeCopyWait (State.Keyed.dropPins ?_)
  exact h

theorem State.Keyed.execCompletionRecord (h : st.Keyed) : Out.Keyed (execCompletionRecord st) := by
  unfold Machine.execCompletionRecord
  split
  · next x _ =>
    split
    · exact .idle
    · split
      · exact .idle
      · split
        · exact .next h.retireCopy
        · extract_lets +onlyGivenNames free
          split
          · exact .idle
          · extract_lets +onlyGivenNames st₁
            have h₁ : st₁.Keyed := by
              exact h.modCore
            clear_value st₁
            have h₂ : State.Keyed { st₁ with frees := st₁.frees + 1 } := h₁
            exact .next h₂.retireCopy
  · exact .idle

theorem State.Keyed.failWaiter (h : st.Keyed) {absent w} : (st.failWaiter absent w).Keyed := by
  unfold State.failWaiter
  split
  · exact h
  · extract_lets +onlyGivenNames g₁
    split
    · exact h.contextRequest.parkCtx
    · split
      · exact h.putCtx
      · exact h.programFault

theorem State.Keyed.failEngines (h : st.Keyed) {l absent} : (st.failEngines l absent).Keyed := h

theorem State.Keyed.execTranslationWalk (h : st.Keyed) : Out.Keyed (execTranslationWalk st) := by
  unfold Machine.execTranslationWalk
  split
  · split
    · extract_lets +onlyGivenNames st₁
      have h₁ : st₁.1.Keyed := h.walkNow
      extract_lets +onlyGivenNames -merge _ st₂
      have h₂ : st₂.Keyed := h₁
      split
      · split
        · exact .next h₂
        · exact .next (h₂.failEngines.foldl (fun _ _ h₃ => h₃.failWaiter))
      · exact .next (h₂.failEngines.foldl (fun _ _ h₄ => h₄.failWaiter))
      · exact .next (h₂.failEngines.foldl (fun _ _ h₅ => h₅.failWaiter))
      · split
        · exact .idle
        · refine .next (State.Keyed.requestLine ?_)
          exact h₂
    · exact .idle
  · exact .idle

theorem State.Keyed.failNodeWaits (h : st.Keyed) {cid net} : (st.failNodeWaits cid net).Keyed := by
  unfold State.failNodeWaits
  refine h.foldl fun _ _ h₁ => ?_
  split
  · exact h₁.programFault
  · exact h₁

theorem State.Keyed.execNodeRefill (h : st.Keyed) : Out.Keyed (execNodeRefill st) := by
  unfold Machine.execNodeRefill
  extract_lets +onlyGivenNames cid₁ k₁
  split
  · exact .idle
  · split
    · exact .idle
    · extract_lets +onlyGivenNames held₁ st₁
      have h₁ : st₁.Keyed := by
        unfold st₁
        split
        · split
          · exact h
          · exact h.modNet
        · exact h
      split
      · extract_lets +onlyGivenNames st₂
        have h₂ : st₂.Keyed := by
          unfold st₂
          refine State.Keyed.modCore ?_
          exact h₁
        split
        · exact .next h₂.failNodeWaits
        · exact .next (h₂.wakeWhere _ _)
      · exact .next h₁.modCore

/-! ## Contexts at their boundaries and the start unit (R27 to R36, R253, R254, R290, R295 to R297) -/

theorem State.Keyed.execWatchdog (h : st.Keyed) : Out.Keyed (execWatchdog st) := by
  unfold Machine.execWatchdog
  split
  · split
    · exact .next h.takeDue
    · exact .idle
  · exact .idle

theorem State.Keyed.execWaittime (h : st.Keyed) : Out.Keyed (execWaittime st) := by
  unfold Machine.execWaittime
  split
  · split
    · exact .next h.programFault
    · exact .idle
  · exact .idle

theorem State.Keyed.execKill (h : st.Keyed) : Out.Keyed (execKill st) := by
  unfold Machine.execKill
  split
  · exact .idle
  · split
    · exact .next h.killCtx
    · exact .next h

theorem State.Keyed.execCurrentContextSelect (h : st.Keyed) : Out.Keyed (execCurrentContextSelect st) := by
  unfold Machine.execCurrentContextSelect
  split
  · next st₁ e =>
      have h₁ : st₁.Keyed := h.select.of_eq e
      exact .next h₁
  · exact .idle

theorem State.Keyed.tryMigrate (h : st.Keyed) {c} : (st.tryMigrate c).Keyed := by
  unfold State.tryMigrate
  split
  · exact h.uncurrent.putCtx
  · exact h.putCtx

theorem State.Keyed.execMigration (h : st.Keyed) : Out.Keyed (execMigration st) := by
  unfold Machine.execMigration
  split
  · split
    · exact .next h.tryMigrate.tickStamp
    · exact .idle
  · exact .idle

theorem State.Keyed.spillFor (h : st.Keyed) {cid ok f} : OptKeyed (State.spillFor cid ok f st) := by
  induction f generalizing st with
  | zero =>
    unfold State.spillFor
    split
    · exact h
    · exact trivial
  | succ f ih =>
    unfold State.spillFor
    split
    · exact h
    · split
      · exact ih h.uncurrent.putCtx
      · exact trivial

theorem State.Keyed.roomFor (h : st.Keyed) {cid n budgeted} : OptKeyed (st.roomFor cid n budgeted) := h.spillFor

theorem State.Keyed.fillRoom (h : st.Keyed) {cid c} : OptKeyed (st.fillRoom cid c) := h.spillFor

theorem State.Keyed.holdUnit (h : st.Keyed) {cid n} : (st.holdUnit cid n).Keyed := h.modCore

theorem State.Keyed.execFill (h : st.Keyed) : Out.Keyed (execFill st) := by
  unfold Machine.execFill
  extract_lets +onlyGivenNames cid₁
  split
  · split
    · split
      · next st₁ e =>
          have h₁ : st₁.Keyed := h.fillRoom.of_eq e
          exact .next h₁.putCtx.holdUnit.tickStamp
      · exact .idle
    · exact .idle
  · exact .idle

theorem State.Keyed.startTask (h : st.Keyed) {cid x} : (st.startTask cid x).Keyed := by
  unfold State.startTask
  split
  · exact h
  · extract_lets +onlyGivenNames uid₁ base₁ xhand₁ c₁ st₁
    have h₁ : st₁.Keyed := h.modCore
    extract_lets +onlyGivenNames st₂
    have h₂ : st₂.Keyed := by
      unfold st₂
      split
      · exact h₁.modFiring
      · exact h₁
    exact h₂.putCtx.modLaunch.of_ctxs rfl

theorem State.Keyed.claimPair (h : st.Keyed) {a apa b bpa} : (st.claimPair a apa b bpa).Keyed := h.nodeMod.nodeMod.nodeWrite.nodeWrite

theorem State.Keyed.pinPayload (h : st.Keyed) {f tenant pa} : (st.pinPayload f tenant pa).Keyed := by
  unfold State.pinPayload
  split
  · exact h.pinVersion
  · exact h

theorem State.Keyed.firePair (h : st.Keyed) {cid p} : (st.firePair cid p).Keyed := by
  unfold State.firePair
  extract_lets +onlyGivenNames st₁
  have h₁ : st₁.Keyed := h.modCore
  split
  · exact h₁
  · split
    · exact h₁.failLaunch
    · split
      · exact h₁.failLaunch
      · extract_lets +onlyGivenNames ta₁ swap₁ left₁ right₁ st₂
        have h₂ : st₂.Keyed := h₁.nodeMod.nodeMod
        extract_lets +onlyGivenNames st₃
        have h₃ : st₃.Keyed := h₂.ownNode.ownNode
        extract_lets +onlyGivenNames word₁ vals₁ a₁ lease₁ x₁
        split
        · extract_lets +onlyGivenNames n₁ fr₁ st₄
          have h₄ : st₄.Keyed := h₃
          exact h₄.claimPair.pinPayload.pinPayload.startTask
        · exact h₃.startTask

theorem State.Keyed.startFrom (h : st.Keyed) {cid s} : (st.startFrom cid s).Keyed := by
  unfold State.startFrom
  extract_lets +onlyGivenNames k₁
  split
  · split
    · exact h.firePair
    · exact h
  · split
    · split
      · extract_lets +onlyGivenNames st₁
        have h₁ : st₁.Keyed := h.modCore
        extract_lets +onlyGivenNames f₁
        refine State.Keyed.startTask ?_
        exact h₁
      · exact h
    · split
      · exact h.modCore.startTask
      · exact h

theorem State.Keyed.startOrClear (h : st.Keyed) {cid s turn n} : (st.startOrClear cid s turn n).Keyed := by
  unfold State.startOrClear
  extract_lets +onlyGivenNames st₁
  have h₁ : st₁.Keyed := by
    unfold st₁
    split
    · exact h.modCore
    · exact h
  split
  · extract_lets +onlyGivenNames k₁
    exact State.Keyed.holdUnit (State.Keyed.wakeGranules h₁.modCore)
  · extract_lets +onlyGivenNames st₂
    have h₂ : st₂.Keyed := h₁.modCore.holdUnit
    split
    · split
      · next st₃ e =>
          have h₃ : st₃.Keyed := h₂.roomFor.of_eq e
          exact h₃.startFrom
      · exact h₂
    · exact h₂.startFrom

theorem State.Keyed.execStartTask (h : st.Keyed) : Out.Keyed (execStartTask st) := by
  unfold Machine.execStartTask
  extract_lets +onlyGivenNames cid₁
  split
  · split
    · exact .next h.startOrClear
    · exact .idle
  · exact .idle

/-! ## Full/empty instructions and delivery barriers (R214 to R223) -/

theorem Eff.Keyed.withGranule {go : ℕ → Eff} (hgo : ∀ x₀, (go x₀).Keyed) {c a} : (withGranule c a go).Keyed := Eff.Keyed.checked (hgo _)

theorem State.Keyed.markGranule (h : st.Keyed) {i e a full} : Out.Keyed (markGranule i e a full st) := by
  unfold Machine.markGranule
  refine h.issue fun _ _ h₁ => ?_
  refine Eff.Keyed.withGranule fun _ => ?_
  refine h₁.localAccess ?_
  split
  · exact h₁
  · exact h₁.setGranules _ _ _

theorem State.Keyed.execFeset (h : st.Keyed) {e a} : Out.Keyed (execFeset e a st) := h.markGranule

theorem State.Keyed.execFeclr (h : st.Keyed) {e a} : Out.Keyed (execFeclr e a st) := h.markGranule

theorem State.Keyed.execFewait (h : st.Keyed) {e a} : Out.Keyed (execFewait e a st) := by
  unfold Machine.execFewait
  refine h.issueFree fun _ _ h₁ => ?_
  refine Eff.Keyed.withGranule fun _ => ?_
  refine h₁.afterAcquires ?_
  exact h₁

theorem Eff.Keyed.withBarrier {go : ℕ → Eff} (hgo : ∀ x₀, (go x₀).Keyed) {c a far init} :
    (withBarrier st c a far init go).Keyed :=
  Eff.Keyed.checked (hgo _)

theorem State.Keyed.initBarrier (h : st.Keyed) {cid a launch target} : (st.initBarrier cid a launch target).Keyed := by
  unfold State.initBarrier
  exact State.Keyed.barWrite h.modCore _ _ _

theorem State.Keyed.execBinit (h : st.Keyed) {e a b} : Out.Keyed (execBinit e a b st) := by
  refine h.issue fun _ _ h₁ => ?_
  refine Eff.Keyed.withBarrier fun _ => ?_
  extract_lets +onlyGivenNames v retire tagged
  refine Eff.Keyed.checked ?_
  split
  · exact trivial
  · split
    · exact h₁
    · refine Eff.Keyed.atBank ?_
      exact h₁.modCore.ite h₁.initBarrier

theorem State.Keyed.execBenrol (h : st.Keyed) {e a n} : Out.Keyed (execBenrol e a n st) := by
  unfold Machine.execBenrol
  refine h.issue fun _ _ h₁ => ?_
  refine Eff.Keyed.withBarrier fun _ => ?_
  refine Eff.Keyed.atBank ?_
  exact h₁

theorem State.Keyed.execBarrive (h : st.Keyed) {e a b s} : Out.Keyed (execBarrive e a b s st) := by
  unfold Machine.execBarrive
  refine h.issue fun _ _ h₁ => ?_
  extract_lets +onlyGivenNames far₁
  refine Eff.Keyed.withBarrier fun _ => ?_
  refine h₁.withFence fun _ _ h₂ => ?_
  extract_lets +onlyGivenNames t₁
  split
  · refine Eff.Keyed.atBank ?_
    exact h₂.barWrite _ _ _
  · exact h₂.sendRemote

theorem State.Keyed.execBexpect (h : st.Keyed) {e a b} : Out.Keyed (execBexpect e a b st) := by
  unfold Machine.execBexpect
  refine h.issue fun _ _ h₁ => ?_
  refine Eff.Keyed.withBarrier fun _ => ?_
  refine h₁.localAccess ?_
  extract_lets +onlyGivenNames n₁ w₁
  split
  · exact h₁
  · split <;> exact h₁.barWrite _ _ _

theorem State.Keyed.execBwait (h : st.Keyed) {e d a s} : Out.Keyed (execBwait e d a s st) := by
  unfold Machine.execBwait
  refine h.issueFree fun _ _ h₁ => ?_
  refine Eff.Keyed.withBarrier fun _ => ?_
  split
  · exact h₁
  · extract_lets +onlyGivenNames w₁ phase₁
    split
    · exact h₁.dropPeers.tickStamp
    · exact h₁

theorem State.Keyed.execBtest (h : st.Keyed) {e d a s} : Out.Keyed (execBtest e d a s st) := by
  unfold Machine.execBtest
  refine h.issue fun _ _ h₁ => ?_
  refine Eff.Keyed.withBarrier fun _ => ?_
  split
  · exact h₁
  · refine Eff.Keyed.atBank ?_
    exact h₁.dropPeers.tickStamp

end Sys2Proof.Machine
end

section
/-! # Contexts under their keys: launches, commands, the weir and failures -/

namespace Sys2Proof.Machine

-- One proof at a time: each thread of an asynchronous one reserves a whole stack, and hundreds of them exceed the memory given.
set_option Elab.async false

variable {st : State}

/-! ## Work of a launch on its way (R257, R263, R311 to R313, R317, R324 to R328) -/

theorem State.Keyed.admitPushes (h : st.Keyed) {cid} : (st.admitPushes cid).Keyed := by
  unfold State.admitPushes
  extract_lets +onlyGivenNames mine₁
  refine State.Keyed.foldl ?_ fun _ _ h₁ => h₁.enterPair
  exact h

theorem State.Keyed.execRingToBag (h : st.Keyed) : Out.Keyed (execRingToBag st) := by
  unfold Machine.execRingToBag
  extract_lets +onlyGivenNames cid₁ k₁
  split
  · exact .next h.modCore.admitPushes
  · split
    · exact .next h.admitPushes
    · exact .idle

theorem State.Keyed.sendBarge (h : st.Keyed) {d} : (st.sendBarge d).Keyed := by
  unfold State.sendBarge
  split
  · exact h
  · extract_lets +onlyGivenNames bag₁ n₁ pairs₁ st₁
    have h₁ : st₁.Keyed := h.modCore
    extract_lets +onlyGivenNames st₂
    have h₂ : st₂.Keyed := h₁.ite (h₁.foldl (fun _ _ h₃ => h₃.countSent))
    extract_lets +onlyGivenNames b₁
    split
    · exact h₂
    · refine State.Keyed.tickStamp ?_
      exact h₂

theorem State.Keyed.execLayerReport (h : st.Keyed) : Out.Keyed (execLayerReport st) := by
  unfold Machine.execLayerReport
  extract_lets +onlyGivenNames l y
  split
  · exact .idle
  · extract_lets +onlyGivenNames st₁ st₂ donors
    have h₁ : st₁.Keyed := h
    exact .next (State.Keyed.foldl (h₁.modLayer : st₂.Keyed) fun _ _ h₃ => h₃.sendBarge)

theorem State.Keyed.execBargeArrival (h : st.Keyed) : Out.Keyed (execBargeArrival st) := by
  unfold Machine.execBargeArrival
  split
  · extract_lets +onlyGivenNames st₁
    have h₁ : st₁.Keyed := h
    exact .next (h₁.foldl (fun _ _ h₂ => (h₂.ite h₂.countRecv).enterPair))
  · exact .idle

theorem State.Keyed.toPort (h : st.Keyed) {cid t} : (st.toPort cid t).Keyed := h.modCore.countSent.countRecv

theorem State.Keyed.execTaskPlacement (h : st.Keyed) : Out.Keyed (execTaskPlacement st) := by
  unfold Machine.execTaskPlacement
  split
  · split
    · exact .next h
    · split
      · refine .next (State.Keyed.toPort ?_)
        exact h
      · exact .idle
  · exact .idle

theorem State.Keyed.answerWork (h : st.Keyed) {r ans} : (st.answerWork r ans).Keyed := by
  unfold State.answerWork
  extract_lets +onlyGivenNames st₁
  have h₁ : st₁.Keyed := h
  extract_lets +onlyGivenNames k₁
  split
  · exact h₁
  · exact h₁.deliver _ _ _

theorem State.Keyed.workStep (h : st.Keyed) {op name f} : Out.Keyed (st.workStep op name f) := by
  unfold State.workStep
  split
  · split
    · exact .idle
    · split
      · exact .next h.answerWork
      · exact .next h.modLaunch.answerWork
  · exact .idle

theorem State.Keyed.execWorkqTake (h : st.Keyed) : Out.Keyed (execWorkqTake st) := h.workStep

theorem State.Keyed.execWorkqSet (h : st.Keyed) : Out.Keyed (execWorkqSet st) := h.workStep

theorem State.Keyed.execWorkqRead (h : st.Keyed) : Out.Keyed (execWorkqRead st) := h.workStep

theorem State.Keyed.enterMsg (h : st.Keyed) {m} : (st.enterMsg m).Keyed := by
  unfold State.enterMsg
  extract_lets +onlyGivenNames cid₁ k₁ n₁ m₁
  split
  · exact h.failLaunch
  · exact h.modCore

theorem State.Keyed.dropMsg (h : st.Keyed) {m} : (st.dropMsg m).Keyed := by
  unfold State.dropMsg
  split
  · exact h
  · exact h.modCore

theorem State.Keyed.execMessageArrival (h : st.Keyed) : Out.Keyed (execMessageArrival st) := by
  unfold Machine.execMessageArrival
  split
  · split
    · exact .idle
    · extract_lets +onlyGivenNames st₁
      have h₁ : st₁.Keyed := h
      extract_lets +onlyGivenNames st₂
      have h₂ : st₂.Keyed := h₁.ite h₁.countRecv
      split
      · exact .next h₂.enterMsg
      · exact .next h₂.dropMsg
  · exact .idle

theorem State.Keyed.signalStream (h : st.Keyed) {q} : (st.signalStream q).Keyed := by
  unfold State.signalStream
  split
  · exact h.signal
  · exact h.signal.modStream

theorem State.Keyed.countRecord (h : st.Keyed) {q} : (st.countRecord q).Keyed := by
  unfold State.countRecord
  extract_lets +onlyGivenNames -underBinder st₁
  have h₁ : st₁.Keyed := h.modStream
  split
  · exact h₁.signalStream
  · exact h₁

theorem State.Keyed.writeRecord (h : st.Keyed) {n l} : (st.writeRecord n l).Keyed := by
  unfold State.writeRecord
  extract_lets +onlyGivenNames s₁ rec₁ st₁
  have h₁ : st₁.Keyed := h.sWriteBytes.journal
  extract_lets +onlyGivenNames st₂
  have h₂ : st₂.Keyed := h₁.sWriteBytes
  refine State.Keyed.countRecord (State.Keyed.modStream ?_)
  exact h₂

theorem State.Keyed.writeRecords (h : st.Keyed) {q f} : (State.writeRecords q f st).Keyed := by
  induction f generalizing st with
  | zero => exact h
  | succ f ih =>
    unfold State.writeRecords
    split
    · split
      · exact ih h.writeRecord
      · exact h
    · exact h

theorem State.Keyed.retireTags (h : st.Keyed) {l} : (st.retireTags l).Keyed := h

theorem State.Keyed.unclaim (h : st.Keyed) {f} : (st.unclaim f).Keyed := by
  unfold State.unclaim
  split
  · exact h.nodeMod.nodeMod.nodeMod.nodeMod
  · exact h

theorem State.Keyed.endFirings (h : st.Keyed) {l} : (st.endFirings l).Keyed := (h.foldl (fun _ _ h₁ => (h₁.ite h₁.unclaim).dropPins))

theorem State.Keyed.cleanUp (h : st.Keyed) {l} : (st.cleanUp l).Keyed := h.retireTags.endFirings

theorem State.Keyed.endLaunch (h : st.Keyed) {l x} : (st.endLaunch l x).Keyed := by
  unfold State.endLaunch
  extract_lets +onlyGivenNames st₁
  have h₁ : st₁.Keyed := h.cleanUp
  split
  · refine State.Keyed.send ?_
    exact h₁
  · extract_lets +onlyGivenNames st₂
    have h₂ : st₂.Keyed := h₁
    exact h₂.writeRecords

theorem State.Keyed.flushLaunch (h : st.Keyed) {x} : (st.flushLaunch x).Keyed := (h.foldl (fun _ _ h₁ => h₁.flushLayer)).writeBackPeers

theorem State.Keyed.closeLaunch (h : st.Keyed) {l x} : Out.Keyed (st.closeLaunch l x) := by
  unfold State.closeLaunch
  extract_lets +onlyGivenNames st₁
  have h₁ : st₁.Keyed := h.flushLaunch
  split
  · exact .next h₁.endLaunch
  · split
    · exact .idle
    · exact .next h₁

theorem State.Keyed.execQuiescenceSweep (h : st.Keyed) : Out.Keyed (execQuiescenceSweep st) := by
  unfold Machine.execQuiescenceSweep
  split
  · split
    · split
      · exact .next h.modLaunch
      · exact .idle
    · split
      · exact h.closeLaunch
      · extract_lets +onlyGivenNames c₁
        split
        · split
          · exact .next h.modLaunch
          · exact .idle
        · split
          · exact h.closeLaunch
          · exact .next h.modLaunch
  · exact .idle

theorem State.Keyed.execLaunchPlacement (h : st.Keyed) : Out.Keyed (execLaunchPlacement st) := by
  unfold Machine.execLaunchPlacement
  split
  · split
    · exact .idle
    · split
      · split
        · exact .next h.writeBackPeers
        · exact .idle
      · extract_lets +onlyGivenNames st₁
        have h₁ : st₁.Keyed := h.dropPeers.ite h
        extract_lets +onlyGivenNames vals₁ t₁
        refine .next (State.Keyed.tickStamp (State.Keyed.modLaunch ?_))
        exact h₁
  · exact .idle

/-! ## Command streams (R309 to R316, R321, R329) -/

theorem State.Keyed.processorRead (h : st.Keyed) {pa n} : (st.processorRead pa n).1.Keyed := by
  unfold State.processorRead
  split
  · exact h
  · exact ((h.foldl (fun _ _ h₁ => h₁.writeBack)).ite h).sReadBytes

theorem State.Keyed.acceptable (h : st.Keyed) {q} : (st.acceptable q).1.Keyed := h.processorRead

theorem State.Keyed.acceptCommand (h : st.Keyed) {q c detail} : (st.acceptCommand q c detail).Keyed := by
  unfold State.acceptCommand
  extract_lets +onlyGivenNames n₁ s₁ x₁ st₁
  have h₁ : st₁.Keyed := h.journal.modStream
  refine State.Keyed.writeRecords ?_
  exact h₁

theorem State.Keyed.command (h : st.Keyed) {go : State → Command → State × ℕ} (hgo : ∀ t x₁, t.Keyed → (go t x₁).1.Keyed) {kinds name} :
    Out.Keyed (st.command kinds name go) := by
  unfold State.command
  extract_lets +onlyGivenNames q₁ s₁
  split
  · exact .idle
  · split
    · next st₁ _ e =>
        have h₁ : st₁.Keyed := h.acceptable.of_fst e
        split
        · exact .idle
        · extract_lets +onlyGivenNames d₁
          split
          · exact .next h₁.acceptCommand
          · exact .next (hgo _ _ h₁).acceptCommand
    · next st₂ e =>
        have h₂ : st₂.Keyed := h.acceptable.of_fst e
        exact .idle

theorem State.Keyed.execLaunch (h : st.Keyed) : Out.Keyed (execLaunch st) := by
  unfold Machine.execLaunch
  refine h.command fun _ _ h₁ => ?_
  exact h₁

theorem State.Keyed.tenantPa (h : st.Keyed) {tenant va} : (st.tenantPa tenant va).1.Keyed := by
  unfold State.tenantPa
  split
  · exact h
  · split
    · exact h
    · split
      · next st₁ _ e =>
          have h₁ : st₁.Keyed := h.walkNow.of_fst e
          exact h₁
      · next st₂ _ _ e =>
          have h₂ : st₂.Keyed := h.walkNow.of_fst e
          exact h₂

theorem State.Keyed.tenantRead (h : st.Keyed) {tenant k va n} : (State.tenantRead tenant k st va n).1.Keyed := by
  induction k generalizing st va n with
  | zero => exact h
  | succ k ih =>
    unfold State.tenantRead
    split
    · exact h
    · extract_lets +onlyGivenNames m
      split
      · next pa e =>
        have h₁ : (State.processorRead _ pa m).1.Keyed := (h.tenantPa.of_fst e).processorRead
        extract_lets +onlyGivenNames r
        split
        · next e₁ => exact (ih h₁).of_fst e₁
        · next e₁ => exact (ih h₁).of_fst e₁
      · next e => exact h.tenantPa.of_fst e

theorem State.Keyed.installNet (h : st.Keyed) {id n} : OptKeyed (st.installNet id n) := by
  unfold State.installNet
  extract_lets +onlyGivenNames st₁
  have h₁ : st₁.Keyed := h
  clear_value st₁
  split
  · exact trivial
  · exact h₁

theorem State.Keyed.execNetSet (h : st.Keyed) : Out.Keyed (execNetSet st) := by
  unfold Machine.execNetSet
  refine h.command fun _ _ h₁ => ?_
  extract_lets +onlyGivenNames word₁
  split
  · exact h₁
  · split
    · next st₁ _ e =>
        have h₂ : st₁.Keyed := h₁.tenantRead.of_fst e
        split
        · exact h₂
        · split
          · next st₂ e =>
              have h₃ : st₂.Keyed := h₂.installNet.of_eq e
              exact h₃
          · exact h₂
    · next st₃ e =>
        have h₄ : st₃.Keyed := h₁.tenantRead.of_fst e
        exact h₄

theorem State.Keyed.execNetDrop (h : st.Keyed) : Out.Keyed (execNetDrop st) := by
  unfold Machine.execNetDrop
  refine h.command fun _ _ h₁ => ?_
  split <;> exact h₁

theorem State.Keyed.rebuildEntry (h : st.Keyed) {x} : (st.rebuildEntry x).Keyed := by
  unfold State.rebuildEntry
  split
  · split <;> exact h
  · exact h

theorem State.Keyed.rebuild (h : st.Keyed) : (st.rebuild).Keyed := (h.foldl (fun _ _ h₁ => h₁.rebuildEntry)).foldl fun _ _ h₂ => h₂.writeRecords

theorem State.Keyed.execLeaderTakeover (h : st.Keyed) : Out.Keyed (execLeaderTakeover st) := by
  unfold Machine.execLeaderTakeover
  extract_lets +onlyGivenNames f₁
  split
  · exact .idle
  · extract_lets +onlyGivenNames -merge _ fw₁
    refine .next (State.Keyed.rebuild ?_)
    exact h

theorem State.Keyed.execStreamPoll (h : st.Keyed) : Out.Keyed (execStreamPoll st) := by
  unfold Machine.execStreamPoll
  extract_lets +onlyGivenNames q₁ s₁
  split
  · exact .idle
  · split
    · split
      · next st₁ _ e =>
          have h₁ : st₁.Keyed := h.acceptable.of_fst e
          exact .idle
      · next st₂ e =>
          have h₂ : st₂.Keyed := h.acceptable.of_fst e
          exact .next h₂
    · split
      · exact .next h
      · exact .idle

theorem State.Keyed.execIcoalHoldoff (h : st.Keyed) : Out.Keyed (execIcoalHoldoff st) := by
  unfold Machine.execIcoalHoldoff
  split
  · exact .next h.signalStream
  · exact .idle

theorem State.Keyed.execMsixUnmask (h : st.Keyed) : Out.Keyed (execMsixUnmask st) := by
  unfold Machine.execMsixUnmask
  extract_lets +onlyGivenNames v₁
  split
  · exact .idle
  · exact .next (h.governed (fun _ h₁ => h₁.writeReg))

/-! ## Hedging and the weir (R329 to R338) -/

theorem State.Keyed.backUp (h : st.Keyed) {t c} : (st.backUp t c).Keyed := by
  unfold State.backUp
  split
  · split
    · split
      · exact h.toPort.modFiring.tickStamp
      · exact h
    · exact h
  · exact h

theorem State.Keyed.execHedgeSample (h : st.Keyed) : Out.Keyed (execHedgeSample st) := by
  unfold Machine.execHedgeSample
  extract_lets +onlyGivenNames n₁
  split
  · exact .idle
  · refine .next (State.Keyed.foldl ?_ (fun _ _ h₁ => h₁.backUp))
    exact h

theorem State.Keyed.answered (h : st.Keyed) {c} : (st.answered c).Keyed := h.copyGone.modFiring.returnLease _ _

theorem State.Keyed.cancelCommit (h : st.Keyed) {c how} : (st.cancelCommit c how).Keyed := h.answered.settleFiring

theorem State.Keyed.failCommit (h : st.Keyed) {c code detail xval} : (st.failCommit c code detail xval).Keyed := h.answered.failLaunch

theorem State.Keyed.nextPull (h : st.Keyed) {tile} : (st.nextPull tile).Keyed := h.modTile.takeTransit

theorem State.Keyed.execWeirCommit (h : st.Keyed) : Out.Keyed (execWeirCommit st) := by
  unfold Machine.execWeirCommit
  split
  · exact .idle
  · extract_lets +onlyGivenNames st₁
    have h₁ : st₁.Keyed := h
    split
    · exact .next h₁.cancelCommit
    · split
      · exact .next h₁.cancelCommit
      · split
        · exact .next h₁.failCommit
        · split
          · exact .next h₁.failCommit
          · split
            · exact .next h₁.cancelCommit
            · split
              · exact .next h₁.modTile
              · exact .next h₁.modTile.takeTransit

theorem State.Keyed.weirNode (h : st.Keyed) {cid launch net} : OptFstKeyed (st.weirNode cid launch net) := by
  unfold State.weirNode
  split
  · refine State.Keyed.handOut ?_
    exact h.modCore
  · cases st.nets.find net with
    | none => exact trivial
    | some n =>
      simp only [Option.bind_some]
      split
      · refine State.Keyed.handOut ?_
        exact h
      · exact trivial

theorem State.Keyed.joinAll (h : st.Keyed) {launch left right node l} : (State.joinAll launch left right node l st).Keyed := by
  induction l generalizing st with
  | nil => exact h
  | cons x l ih =>
    unfold State.joinAll
    extract_lets +onlyGivenNames p q
    split
    · exact ih h.join
    · exact ih h

theorem State.Keyed.freePair (h : st.Keyed) {launch cid left right} : (st.freePair launch cid left right).Keyed := by
  unfold State.freePair
  extract_lets +onlyGivenNames f₁
  have h₁ : ∀ s₀ x₁, s₀.Keyed → (f₁ s₀ x₁).Keyed := fun _ _ h₂ => h₂.nodeMod.freeNode
  exact h₁ _ _ (h₁ _ _ h)

/-- The result node of a commit, where one is placed. -/
theorem State.Keyed.placeNode (h : st.Keyed) {c t p} (e : st.placeNode c t = .inl p) : p.1.Keyed := by
  unfold State.placeNode at e
  split at e
  · cases e
    exact h
  · split at e
    · cases e
    · next e₁ =>
      have h₁ := h.weirNode.of_pair e₁
      split at e
      · cases e
        exact h₁.writeNode
      · cases e

/-- A rewrite places the result node, joins and frees a pair. -/
theorem State.Keyed.rewrite (h : st.Keyed) {c t f} : Applied.Keyed (State.rewrite st c t f) := by
  unfold State.rewrite
  split
  · exact h
  · split
    · exact trivial
    · next e =>
      have h₁ := h.placeNode e
      split
      · exact h₁.joinAll.freePair
      · exact h₁

theorem State.Keyed.acceptFiring (h : st.Keyed) {f} : (st.acceptFiring f).Keyed := by
  unfold State.acceptFiring
  split
  · exact h
  · extract_lets +onlyGivenNames live st₁
    have h₁ : st₁.Keyed := h
    exact h₁.dropPins.modFiring

theorem State.Keyed.acceptCommitted (h : st.Keyed) {c t data} : (st.acceptCommitted c t data).Keyed :=
  h.modTile.journal.modCluster.modNet.answered.acceptFiring.foldl fun _ _ h₁ => h₁.cancelCommit

theorem State.Keyed.execPullComplete (h : st.Keyed) : Out.Keyed (execPullComplete st) := by
  unfold Machine.execPullComplete
  split
  · exact .idle
  · split
    · exact .idle
    · split
      · exact .idle
      · split
        · exact .next h.nextPull.cancelCommit
        · extract_lets +onlyGivenNames full₁ st₁
          have h₁ : st₁.Keyed := h
          extract_lets +onlyGivenNames f₁
          have h₂ : ∀ s₀ x₁ x₂, s₀.Keyed → Out.Keyed (f₁ s₀ x₁ x₂) := by
            refine fun _ _ _ h₃ => ?_
            exact .next h₃.nextPull.failCommit
          split
          · exact h₂ _ _ _ h₁
          · split
            · exact .next h₁.nextPull.cancelCommit
            · split
              · exact h₂ _ _ _ h₁
              · next st₂ e =>
                  have h₄ : st₂.Keyed := h₁.rewrite.of_eq e
                  exact .next h₄.acceptCommitted

theorem State.Keyed.execPullFailed (h : st.Keyed) : Out.Keyed (execPullFailed st) := by
  unfold Machine.execPullFailed
  split
  · exact .idle
  · split
    · exact .idle
    · split
      · exact .next h.nextPull.cancelCommit
      · exact .idle

/-! ## Failures of units, scans and soft errors (R337 to R340, R369 to R378) -/

theorem State.Keyed.failWork (h : st.Keyed) {l unit} : (st.failWork l unit).Keyed := h.failLaunch

theorem State.Keyed.loseContexts (h : st.Keyed) {p unit apart} : (st.loseContexts p unit apart).Keyed := by
  unfold State.loseContexts
  refine h.foldl fun _ _ h₁ => ?_
  split
  · exact h₁.loseCtx
  · exact h₁

theorem State.Keyed.moveTask (h : st.Keyed) {cid t} : (st.moveTask cid t).Keyed := by
  unfold State.moveTask
  extract_lets +onlyGivenNames c₁
  split
  · exact h.failWork
  · exact h.modCore

/-- What the failed core held is lost, moved to another core, or entered again (R339). -/
theorem State.Keyed.failCore (h : st.Keyed) {cid unit apart} : (st.failCore cid unit apart).Keyed := by
  unfold State.failCore
  extract_lets +onlyGivenNames -merge k failed lost mine dropped copied reduced emptied entered moved
  have hdropped : dropped.Keyed := h.modCore.loseContexts.dropCopies
  have hreduced : reduced.Keyed := (hdropped.foldl fun _ _ h₁ => h₁.ite h₁.failWork).foldl fun _ _ h₁ => h₁.failWork
  have hentered : entered.Keyed := hreduced.modCore.foldl fun _ _ h₁ => h₁.enterPair
  have hmoved : moved.Keyed := hentered.foldl fun _ _ h₁ => h₁.moveTask
  exact hmoved.foldl fun _ _ h₁ => h₁.enterMsg

theorem State.Keyed.failCores (h : st.Keyed) {cids unit scope} : (st.failCores cids unit scope).Keyed :=
  (h.foldl (fun _ _ h₁ => h₁.modCore)).foldl fun _ _ h₂ => h₂.failCore

theorem State.Keyed.execCoreFailure (h : st.Keyed) : Out.Keyed (execCoreFailure st) := by
  unfold Machine.execCoreFailure
  split
  · exact .next h.failCore
  · exact .idle

theorem State.Keyed.failCluster (h : st.Keyed) {g unit} : (st.failCluster g unit).Keyed := by
  unfold State.failCluster
  extract_lets +onlyGivenNames st₁
  have h₁ : st₁.Keyed := h.modCluster
  extract_lets +onlyGivenNames st₂
  have h₂ : st₂.Keyed := h₁
  exact h₂.failCores

theorem State.Keyed.execMatrixClusterFailure (h : st.Keyed) : Out.Keyed (execMatrixClusterFailure st) := by
  unfold Machine.execMatrixClusterFailure
  split
  · exact .next h.failCluster
  · exact .idle

theorem State.Keyed.execLayerFailure (h : st.Keyed) : Out.Keyed (execLayerFailure st) := by
  unfold Machine.execLayerFailure
  extract_lets +onlyGivenNames l₁
  split
  · exact .idle
  · exact .next ((h.foldl (fun _ _ h₁ => h₁.failWork)).modLayer.foldl (fun _ _ h₂ => h₂.ite h₂.failCluster))

theorem State.Keyed.execPortFailure (h : st.Keyed) : Out.Keyed (execPortFailure st) := by
  unfold Machine.execPortFailure
  extract_lets +onlyGivenNames p₁
  split
  · exact .idle
  · extract_lets +onlyGivenNames gone₁ owed₁ unsent₁ fab₁ fab₂ st₁
    have h₁ : st₁.Keyed := by
      unfold st₁
      refine State.Keyed.signal ?_
      exact h
    exact .next h₁.loseContexts

theorem State.Keyed.execFirmwareCoreFailure (h : st.Keyed) : Out.Keyed (execFirmwareCoreFailure st) := by
  unfold Machine.execFirmwareCoreFailure
  extract_lets +onlyGivenNames f₁
  split
  · exact .idle
  · exact .next h

theorem State.Keyed.execScanTest (h : st.Keyed) : Out.Keyed (execScanTest st) := by
  unfold Machine.execScanTest
  extract_lets +onlyGivenNames g₁
  split
  · exact .idle
  · exact .next h.stopCluster.modCluster

theorem State.Keyed.execScanPass (h : st.Keyed) : Out.Keyed (execScanPass st) := by
  unfold Machine.execScanPass
  extract_lets +onlyGivenNames g₁
  split
  · exact .next (h.modCluster.ite h.modCluster.resumeCluster)
  · exact .idle

theorem State.Keyed.execScanFail (h : st.Keyed) : Out.Keyed (execScanFail st) := by
  unfold Machine.execScanFail
  extract_lets +onlyGivenNames g₁ x₁
  split
  · exact .idle
  · extract_lets +onlyGivenNames st₁
    have h₁ : st₁.Keyed := h.modCluster
    extract_lets +onlyGivenNames st₂
    have h₂ : st₂.Keyed := h₁.loseContexts
    extract_lets +onlyGivenNames st₃
    have h₃ : st₃.Keyed := h₂.failCluster
    extract_lets +onlyGivenNames st₄
    have h₄ : st₄.Keyed := h₃.foldl fun _ _ h₅ => h₅.modTile
    extract_lets +onlyGivenNames t₁
    refine .next (State.Keyed.signal ?_)
    exact h₄

theorem State.Keyed.upsetArray (h : st.Keyed) {w n symbols} : (st.upsetArray w n symbols).Keyed := by
  unfold State.upsetArray
  split
  · exact h
  · refine iteInduction (fun _ => ?_) fun _ => ?_
    · exact h.correct
    · exact h

theorem State.Keyed.upset (h : st.Keyed) {u} : (st.upset u).Keyed := by
  unfold State.upset
  split
  · split
    · exact h.upsetArray
    · exact h
  · split <;> exact h
  · split
    · exact h
    · exact h.modCore
  · split
    · exact h.modCore
    · exact h
  · split
    · exact h.loseCtx
    · exact h
  · split
    · exact h.modCluster
    · exact h
  · split
    · exact h.modCluster
    · exact h
  · split
    · exact h.modCluster
    · exact h
  · exact h.modCtx
  · exact h.modCtx
  · exact h.modCtx
  · exact h.modCtx
  · exact h.modCtx
  · exact h.modCtx

end Sys2Proof.Machine
end

section
/-! # Contexts under their keys: the host port and the fabric -/

namespace Sys2Proof.Machine

-- One proof at a time: each thread of an asynchronous one reserves a whole stack, and hundreds of them exceed the memory given.
set_option Elab.async false

variable {st : State}

/-! ## The host port, the loss of an owner, the switch of relay banks (R353, R357, R358, R365, R366) -/

theorem State.Keyed.execHostRead (h : st.Keyed) {bar off n} : Out.Keyed (execHostRead bar off n st) := by
  unfold Machine.execHostRead
  split
  · exact .idle
  · split
    · exact .next h
    · exact .next (h.foldl (fun _ _ h₁ => h₁.writeBack)).sReadBytes

theorem State.Keyed.execHostWrite (h : st.Keyed) {bar off data} : Out.Keyed (execHostWrite bar off data st) := by
  unfold Machine.execHostWrite
  split
  · exact .idle
  · split
    · exact .next h.writeRegBytes
    · split
      · exact .next h
      · exact .next (h.foldl (fun _ _ h₁ => h₁.flushLine)).sWriteBytes

theorem State.Keyed.noteLoss (h : st.Keyed) : (st.noteLoss).Keyed := h

theorem State.Keyed.execHostLinkDown (h : st.Keyed) : Out.Keyed (execHostLinkDown st) := by
  unfold Machine.execHostLinkDown
  split
  · exact .next h
  · exact .idle

theorem State.Keyed.execHostLinkTraining (h : st.Keyed) : Out.Keyed (execHostLinkTraining st) := .next h

theorem State.Keyed.execSidebandHeartbeat (h : st.Keyed) {present} : Out.Keyed (execSidebandHeartbeat present st) := .next h

theorem State.Keyed.execOwnerLoss (h : st.Keyed) : Out.Keyed (execOwnerLoss st) := by
  unfold Machine.execOwnerLoss
  split
  · split
    · exact .next h.setOwner
    · exact .idle
  · exact .idle

theorem State.Keyed.execBankSwitch (h : st.Keyed) : Out.Keyed (execBankSwitch st) := by
  unfold Machine.execBankSwitch
  split
  · exact .next h
  · exact .idle

/-! ## The receipt of packets, and the relay (R343 to R356) -/

theorem State.Keyed.acceptPacket (h : st.Keyed) {p} : (st.acceptPacket p).Keyed := by
  unfold State.acceptPacket
  refine State.Keyed.acknowledge ?_
  exact h

theorem State.Keyed.badPacket (h : st.Keyed) : (st.badPacket).Keyed := h

theorem State.Keyed.receive (h : st.Keyed) {f : State → State} (hf : ∀ t, t.Keyed → (f t).Keyed) {p kind name} :
    Out.Keyed (st.receive p kind name f) := by
  unfold State.receive
  split
  · exact .idle
  · split
    · exact .next h
    · split
      · exact .idle
      · split
        · exact .next h
        · split
          · exact .next h
          · split
            · exact .next h
            · exact .next (hf _ h.acceptPacket)

theorem State.Keyed.joinFlow (h : st.Keyed) {src ctx chan p} : (st.joinFlow src ctx chan p).Keyed := h

theorem State.Keyed.setFlow (h : st.Keyed) {f} : (st.setFlow f).Keyed := h

/-- The packets of a flow in their order, by induction on the fuel. -/
theorem State.Keyed.drainFlow (h : st.Keyed) {go : State → Packet → State} (hgo : ∀ t x, t.Keyed → (go t x).Keyed) {can src ctx chan k} :
    (State.drainFlow can go src ctx chan k st).Keyed := by
  induction k generalizing st with
  | zero => exact h
  | succ k ih =>
    unfold State.drainFlow
    split
    · exact h
    · split
      · split
        · exact ih (hgo _ _ h.setFlow)
        · exact h
      · exact h

theorem State.Keyed.guestFor (h : st.Keyed) {src lid net tenant seq} : (st.guestFor src lid net tenant seq).1.Keyed := by
  unfold State.guestFor
  split
  · exact h.modLaunch
  · exact h

theorem State.Keyed.takeMsg (h : st.Keyed) {p} : (st.takeMsg p).Keyed := by
  unfold State.takeMsg
  split
  · extract_lets +onlyGivenNames lid₁ owned₁
    split
    · exact h.sendFailure.send
    · extract_lets +onlyGivenNames st₁
      have h₁ : st₁.1.Keyed := h.guestFor
      extract_lets +onlyGivenNames m₁
      refine State.Keyed.tickStamp ?_
      exact h₁
  · exact h

theorem State.Keyed.execMsg (h : st.Keyed) {p} : Out.Keyed (execMsg p st) := by
  unfold Machine.execMsg
  refine h.receive fun _ h₁ => ?_
  split
  · exact h₁.joinFlow.drainFlow fun _ _ h₂ => h₂.takeMsg
  · exact h₁

theorem State.Keyed.recallVictim (h : st.Keyed) {line tenant} : (st.recallVictim line tenant).Keyed := by
  unfold State.recallVictim
  extract_lets +onlyGivenNames g₁ l₁
  split
  · split
    · exact h
    · refine State.Keyed.foldl ?_ fun _ _ h₁ => ?_
      · exact h
      · exact h₁
  · exact h

theorem State.Keyed.dropHolder (h : st.Keyed) {line p} : (st.dropHolder line p).Keyed := by
  unfold State.dropHolder
  extract_lets +onlyGivenNames -merge _ st₁
  have h₁ : st₁.Keyed := h
  split
  · extract_lets +onlyGivenNames x₁
    split
    · exact h₁
    · split <;> exact h₁
  · exact h₁

theorem State.Keyed.readLine (h : st.Keyed) {line} : (st.readLine line).1.Keyed := h.sRead

theorem State.Keyed.execLreq (h : st.Keyed) {p} : Out.Keyed (execLreq p st) := by
  unfold Machine.execLreq
  split
  · split
    · exact .next h.recallVictim
    · refine h.receive fun _ h₁ => ?_
      split
      · exact h₁
      · exact h₁.readLine
  · exact h.receive fun _ h₁ => h₁

theorem State.Keyed.installLine (h : st.Keyed) {line data poison} : (st.installLine line data poison).Keyed := by
  unfold State.installLine
  extract_lets +onlyGivenNames asked₁ st₁
  have h₁ : st₁.Keyed := h.ite h.sliceRoom
  extract_lets +onlyGivenNames -underBinder n₁
  refine State.Keyed.tickStamp ?_
  exact h₁

theorem State.Keyed.execLdata (h : st.Keyed) {p} : Out.Keyed (execLdata p st) := by
  unfold Machine.execLdata
  refine h.receive fun _ h₁ => ?_
  split
  · split
    · exact h₁
    · split
      · exact h₁.dropHolder
      · split
        · exact h₁.installLine
        · exact h₁
  · exact h₁

theorem State.Keyed.execLwb (h : st.Keyed) {p} : Out.Keyed (execLwb p st) := by
  unfold Machine.execLwb
  refine h.receive fun _ h₁ => ?_
  split
  · split
    · exact h₁
    · extract_lets +onlyGivenNames held₁ st₁
      have h₂ : st₁.Keyed := h₁.invalidateHolders
      extract_lets +onlyGivenNames st₂
      have h₃ : st₂.Keyed := h₂
      extract_lets +onlyGivenNames st₃
      have h₄ : st₃.Keyed := h₃.sWriteMasked
      extract_lets +onlyGivenNames st₄
      have h₅ : st₄.Keyed := by
        unfold st₄
        split <;> exact h₄
      split
      · exact h₅.dropHolder
      · exact h₅
  · exact h₁

theorem State.Keyed.execInv (h : st.Keyed) {p} : Out.Keyed (execInv p st) := by
  unfold Machine.execInv
  refine h.receive fun _ h₁ => ?_
  split
  · split
    · exact h₁.dropPeerLine
    · exact h₁
  · exact h₁

theorem State.Keyed.execRecallPkt (h : st.Keyed) {p} : Out.Keyed (execRecallPkt p st) := by
  unfold Machine.execRecallPkt
  refine h.receive fun _ h₁ => ?_
  split
  · split
    · exact h₁
    · extract_lets +onlyGivenNames st₁
      have h₂ : st₁.Keyed := h₁.flushLine
      extract_lets +onlyGivenNames l₁
      split
      · exact h₂.writeBackAs.forgetPeer
      · exact h₂.forgetPeer.send
  · exact h₁

theorem State.Keyed.execWreq (h : st.Keyed) {p} : Out.Keyed (execWreq p st) := by
  unfold Machine.execWreq
  refine h.receive fun _ h₁ => ?_
  split
  · split
    · exact h₁.invalidateHolders.sWrite.send
    · exact h₁
  · exact h₁

theorem State.Keyed.execAreq (h : st.Keyed) {p} : Out.Keyed (execAreq p st) := by
  unfold Machine.execAreq
  refine h.receive fun _ h₁ => ?_
  split
  · split
    · exact h₁
    · extract_lets +onlyGivenNames st₁
      have h₂ : st₁.Keyed := h₁.flushLine
      extract_lets +onlyGivenNames st₂
      have h₃ : st₂.1.Keyed := h₂.sRead
      extract_lets +onlyGivenNames new₁
      split
      · split
        · exact h₃.logEvent.send
        · exact h₃.send
      · exact h₃.invalidateHolders.sWrite.send
  · exact h₁

theorem State.Keyed.settleMsg (h : st.Keyed) {dst lid n} : (st.settleMsg dst lid n).Keyed := by
  unfold State.settleMsg
  split
  · exact h
  · extract_lets +onlyGivenNames -merge _ st₁
    have h₁ : st₁.Keyed := h
    split
    · exact h₁.countRecv
    · exact h₁

theorem State.Keyed.dropAwait (h : st.Keyed) {a} : (st.dropAwait a).Keyed := h

theorem State.Keyed.answerAccess (h : st.Keyed) {n old lost} : (st.answerAccess n old lost).Keyed := by
  unfold State.answerAccess
  split
  · exact h
  · split
    · split
      · exact h
      · extract_lets +onlyGivenNames rest₁
        split
        · exact h.dropAcc
        · exact h.setAcc
    · exact h.finishAtomic
    · exact h

theorem State.Keyed.answerRed (h : st.Keyed) {n} : (st.answerRed n).Keyed := h

theorem State.Keyed.poisonedReply (h : st.Keyed) {n v} : (st.poisonedReply n v).Keyed := by
  unfold State.poisonedReply
  split
  · exact h
  · split
    · exact h.dropAcc.consumePoison
    · exact h.dropAcc

theorem State.Keyed.execArsp (h : st.Keyed) {p} : Out.Keyed (execArsp p st) := by
  unfold Machine.execArsp
  refine h.receive fun _ h₁ => ?_
  split
  · extract_lets +onlyGivenNames st₁
    have h₂ : st₁.Keyed := h₁.dropAwait
    split
    · split
      · exact h₂.poisonedReply
      · exact h₂.answerAccess
    · exact h₂.answerRed
    · exact h₂
  · exact h₁

theorem State.Keyed.endRemote (h : st.Keyed) {n why got} : (st.endRemote n why got).Keyed := by
  unfold State.endRemote
  split
  · exact (h.flagPeer.ite h).creditCopy.endCopy
  · exact h

theorem State.Keyed.loseRemote (h : st.Keyed) {n dropped} : (st.loseRemote n dropped).Keyed := by
  unfold State.loseRemote
  split
  · exact h.endRemote
  · exact h

theorem State.Keyed.failAwait (h : st.Keyed) {a} : (st.failAwait a).Keyed := by
  unfold State.failAwait
  extract_lets +onlyGivenNames st₁
  have h₁ : st₁.Keyed := h.flagPeer.dropAwait
  extract_lets +onlyGivenNames st₂
  have h₂ : st₂.Keyed := by
    unfold st₂
    split
    · exact h₁.answerAccess
    · exact h₁
  extract_lets +onlyGivenNames st₃
  have h₃ : st₃.Keyed := by
    unfold st₃
    split
    · exact h₂.answerRed
    · exact h₂
  extract_lets +onlyGivenNames st₄
  have h₄ : st₄.Keyed := by
    unfold st₄
    split
    · exact h₃.loseRemote
    · exact h₃
  split
  · split
    · refine State.Keyed.installLine ?_
      exact h₄
    · exact h₄.dropHolder
  · exact h₄

theorem State.Keyed.execReplyTimeout (h : st.Keyed) : Out.Keyed (execReplyTimeout st) := by
  unfold Machine.execReplyTimeout
  split
  · split
    · exact .next h.failAwait
    · exact .idle
  · exact .idle

theorem State.Keyed.setRx (h : st.Keyed) {x} : (st.setRx x).Keyed := h

theorem State.Keyed.tellCopy (h : st.Keyed) {tenant tag x} : (st.tellCopy tenant tag x).Keyed := by
  unfold State.tellCopy
  extract_lets +onlyGivenNames f₁
  refine State.Keyed.send ?_
  exact h

theorem State.Keyed.takeCopy (h : st.Keyed) {p} : (st.takeCopy p).Keyed := by
  unfold State.takeCopy
  split
  · refine iteInduction (fun _ => State.Keyed.tellCopy ?_) fun _ => State.Keyed.setRx ?_ <;>
    · refine iteInduction (motive := fun r : State × RxCopy => r.1.Keyed) (fun _ => h) fun _ => ?_
      refine iteInduction (motive := fun r : State × RxCopy => r.1.Keyed) (fun _ => h) fun _ => ?_
      exact h.deliverAll.countDelivery
  · exact h

theorem State.Keyed.execCpydata (h : st.Keyed) {p} : Out.Keyed (execCpydata p st) := by
  unfold Machine.execCpydata
  refine h.receive fun _ h₁ => ?_
  split
  · exact h₁.joinFlow.drainFlow fun _ _ h₂ => h₂.takeCopy
  · exact h₁

theorem State.Keyed.drainCopies (h : st.Keyed) : (st.drainCopies).Keyed := by
  have hflow (fuel : Nat) (f : Flow) (t : State) (ht : t.Keyed) :
      (State.drainFlow State.copyAwake State.takeCopy f.src f.srcCtx copyChan fuel t).Keyed :=
    ht.drainFlow fun _ _ h₂ => h₂.takeCopy
  exact h.foldl (hflow 4097)

theorem State.Keyed.execCpydone (h : st.Keyed) {p} : Out.Keyed (execCpydone p st) := by
  unfold Machine.execCpydone
  refine h.receive fun _ h₁ => ?_
  split
  · extract_lets +onlyGivenNames -merge id₁ _ st₁
    have h₂ : st₁.Keyed := h₁
    exact h₂.endRemote
  · exact h₁

theorem State.Keyed.execQrep (h : st.Keyed) {p} : Out.Keyed (execQrep p st) := by
  unfold Machine.execQrep
  refine h.receive fun _ h₁ => ?_
  split
  · exact h₁.foldl fun _ _ h₂ => h₂.settleMsg
  · exact h₁

theorem State.Keyed.execCtrl (h : st.Keyed) {p} : Out.Keyed (execCtrl p st) := by
  unfold Machine.execCtrl
  refine h.receive fun _ h₁ => ?_
  split
  · exact h₁.writeRegBytes.notePod
  · exact h₁.send
  · exact h₁

theorem State.Keyed.execAck (h : st.Keyed) {p} : Out.Keyed (execAck p st) := by
  unfold Machine.execAck
  split
  · exact .idle
  · split
    · exact .next h
    · split
      · split <;> exact .next h
      · exact .idle

theorem State.Keyed.execRelayReceive (h : st.Keyed) {p} : Out.Keyed (execRelayReceive p st) := by
  unfold Machine.execRelayReceive
  split
  · exact .idle
  · split
    · exact .next h
    · split
      · exact .next h
      · split
        · exact .next h
        · split
          · exact .idle
          · exact .next h

theorem State.Keyed.execRelayForward (h : st.Keyed) : Out.Keyed (execRelayForward st) := by
  unfold Machine.execRelayForward
  split
  · exact .idle
  · extract_lets b fits _ gone
    have h₁ : gone.Keyed := h
    clear_value gone fits
    split
    · exact .idle
    · split
      · exact .next h₁.sendFailure
      · split
        · exact .next h₁
        · exact .idle

theorem State.Keyed.setKept (h : st.Keyed) {k} : (st.setKept k).Keyed := h

theorem State.Keyed.failPacket (h : st.Keyed) {k} : (st.failPacket k).Keyed := by
  unfold State.failPacket
  extract_lets +onlyGivenNames -merge _ st₁
  have h₁ : st₁.Keyed := by
    unfold st₁
    refine State.Keyed.flagPeer ?_
    exact h
  extract_lets +onlyGivenNames byTag₁
  split
  · exact h₁.settleMsg
  · exact h₁.foldl fun _ _ h₂ => h₂.failAwait
  · exact h₁.foldl fun _ _ h₃ => h₃.failAwait
  · exact h₁.foldl fun _ _ h₄ => h₄.failAwait
  · exact h₁.foldl fun _ _ h₅ => h₅.failAwait
  · extract_lets +onlyGivenNames -merge _ st₂
    have h₆ : st₂.Keyed := h₁
    exact h₆.loseRemote
  · exact h₁

theorem State.Keyed.routeKept (h : st.Keyed) {k tries since} : (st.routeKept k tries since).Keyed := by
  unfold State.routeKept
  split
  · exact h.failPacket
  · exact h

theorem State.Keyed.execRouteRetry (h : st.Keyed) : Out.Keyed (execRouteRetry st) := by
  unfold Machine.execRouteRetry
  split
  · split
    · exact .idle
    · split
      · exact .next h.routeKept
      · split
        · exact .idle
        · exact .next h.routeKept
  · exact .idle

theorem State.Keyed.execAttemptTimeout (h : st.Keyed) : Out.Keyed (execAttemptTimeout st) := by
  unfold Machine.execAttemptTimeout
  split
  · split
    · exact .next h.failPacket
    · split
      · exact .idle
      · split
        · exact .next h.routeKept
        · exact .next h.failPacket
  · exact .idle

theorem State.Keyed.execRelayRefusal (h : st.Keyed) : Out.Keyed (execRelayRefusal st) := by
  unfold Machine.execRelayRefusal
  split
  · split
    · exact .next h
    · exact .idle
  · exact .idle

theorem State.Keyed.execFailurePacket (h : st.Keyed) {p} : Out.Keyed (execFailurePacket p st) := by
  unfold Machine.execFailurePacket
  split
  · exact .idle
  · split
    · exact .next h
    · split
      · exact .next h
      · exact .next h.flagPeer.noteLoss

theorem State.Keyed.execPortTraining (h : st.Keyed) {p ver} : Out.Keyed (execPortTraining p ver st) := by
  unfold Machine.execPortTraining
  split
  · exact .idle
  · exact .next h

end Sys2Proof.Machine
end

section
/-! # Contexts under their keys: firmware, power and scalar arithmetic -/

namespace Sys2Proof.Machine

-- One proof at a time: each thread of an asynchronous one reserves a whole stack, and hundreds of them exceed the memory given.
set_option Elab.async false

variable {st : State}

/-! ## Mailbox commands and images (R361, R364, R366, R380 to R383) -/

theorem State.Keyed.execLeaseRenewal (h : st.Keyed) : Out.Keyed (execLeaseRenewal st) := by
  unfold Machine.execLeaseRenewal
  split
  · exact .next h
  · exact .idle

theorem State.Keyed.execLeaderStop (h : st.Keyed) : Out.Keyed (execLeaderStop st) := by
  unfold Machine.execLeaderStop
  split
  · exact .next h
  · exact .idle

theorem State.Keyed.modBox (h : st.Keyed) {m f} : (st.modBox m f).Keyed := h

theorem State.Keyed.reply (h : st.Keyed) {m ver r} : (st.reply m ver r).Keyed := by
  unfold State.reply
  extract_lets +onlyGivenNames n₁ st₁
  have h₁ : st₁.Keyed := h.modBox
  split
  · exact h₁.signal
  · exact h₁

theorem State.Keyed.mailbox (h : st.Keyed) {f : State → Mem → Out} (hf : ∀ t x₁, t.Keyed → Out.Keyed (f t x₁)) {m cmd need name owner} :
    Out.Keyed (st.mailbox m cmd need name owner f) := by
  unfold State.mailbox
  extract_lets +onlyGivenNames b₁ w₁ ver₁ here₁
  split
  · exact .idle
  · split
    · exact .next h.reply
    · split
      · exact .next h.reply
      · split
        · exact .next h.reply
        · exact hf _ _ h

theorem State.Keyed.answerBox (h : st.Keyed) {f : State → Mem → State × Reply} (hf : ∀ t x₁, t.Keyed → (f t x₁).1.Keyed) {m cmd need name owner} :
    Out.Keyed (st.answerBox m cmd need name owner f) := by
  unfold State.answerBox
  refine h.mailbox fun _ _ h₁ => ?_
  exact .next (hf _ _ h₁).reply

theorem State.Keyed.execInfo (h : st.Keyed) {m} : Out.Keyed (execInfo m st) := by
  unfold Machine.execInfo
  refine h.answerBox fun _ _ h₁ => ?_
  exact h₁

theorem State.Keyed.execOwnq (h : st.Keyed) {m} : Out.Keyed (execOwnq m st) := by
  unfold Machine.execOwnq
  refine h.answerBox fun _ _ h₁ => ?_
  exact h₁

theorem State.Keyed.readyRange (h : st.Keyed) {pa n} : (st.readyRange pa n).Keyed := h.readyLines

theorem State.Keyed.attested (h : st.Keyed) {m} : Out.Keyed (st.attested m) := by
  unfold State.attested
  extract_lets +onlyGivenNames req₁ dst₁ e₁ e₂
  split
  · exact .next h.reply
  · refine Ready.Keyed.out (Ready.Keyed.andThen h.readyRange (fun _ h₁ => ?_))
    exact h₁.sWriteBytes.reply

theorem State.Keyed.execAttest (h : st.Keyed) {m} : Out.Keyed (execAttest m st) := by
  unfold Machine.execAttest
  split
  · split
    · exact h.attested
    · exact .idle
  · exact .idle
  · refine h.mailbox fun _ _ h₁ => ?_
    split
    · exact .next h₁.reply
    · exact .next h₁

theorem State.Keyed.execFwstage (h : st.Keyed) {m} : Out.Keyed (execFwstage m st) := by
  unfold Machine.execFwstage
  refine h.mailbox fun _ _ h₁ => ?_
  extract_lets +onlyGivenNames pa₁ n₁
  split
  · exact .next h₁.reply
  · refine Ready.Keyed.out (Ready.Keyed.andThen h₁.readyRange (fun _ h₂ => ?_))
    extract_lets +onlyGivenNames st₁
    have h₃ : st₁.1.Keyed := h₂.processorRead
    split
    · refine State.Keyed.reply ?_
      exact h₃
    · exact h₃.reply

theorem State.Keyed.execFwact (h : st.Keyed) {m} : Out.Keyed (execFwact m st) := by
  unfold Machine.execFwact
  refine h.answerBox fun _ _ h₁ => ?_
  split <;> exact h₁

theorem State.Keyed.resetCore (h : st.Keyed) {cid} : (st.resetCore cid).Keyed := by
  unfold State.resetCore
  extract_lets +onlyGivenNames st₁ st₂ st₃
  have h₁ : st₁.Keyed := h.ite h.failCore
  have h₂ : st₂.Keyed := h₁.foldl fun _ _ h₃ => h₃.writeBack
  have h₄ : st₃.Keyed := by
    unfold st₃
    split
    · exact h₂.modNet
    · exact h₂
  have h₅ : (st₃.setCore cid { Core.reset with born := st₃.cyclesOf cid }).Keyed := h₄
  exact h₅.modLayer

theorem State.Keyed.execCoreReset (h : st.Keyed) : Out.Keyed (execCoreReset st) := by
  unfold Machine.execCoreReset
  split
  · exact .next h.resetCore
  · exact .idle

theorem State.Keyed.resetCluster (h : st.Keyed) {g} : (st.resetCluster g).1.Keyed := by
  unfold State.resetCluster
  extract_lets +onlyGivenNames x₁ st₁
  have h₁ : st₁.Keyed := h.ite h.failCluster
  extract_lets +onlyGivenNames ok₁ st₂
  have h₂ : st₂.Keyed := by
    unfold st₂
    split <;> exact h₁
  split
  · exact h₂.modCluster.foldl fun _ _ h₃ => h₃.resetCore
  · exact h₂

theorem State.Keyed.resetPort (h : st.Keyed) {p} : (st.resetPort p).Keyed := h

theorem State.Keyed.execUnitrst (h : st.Keyed) {m} : Out.Keyed (execUnitrst m st) := by
  unfold Machine.execUnitrst
  refine h.answerBox fun _ _ h₁ => ?_
  extract_lets +onlyGivenNames n₁
  split
  · split
    · exact h₁
    · exact h₁.resetCore
  · split
    · exact h₁.resetCluster
    · split <;> exact h₁

theorem State.Keyed.execTestst (h : st.Keyed) {m} : Out.Keyed (execTestst m st) := by
  unfold Machine.execTestst
  refine h.answerBox fun _ _ h₁ => ?_
  extract_lets +onlyGivenNames fenced₁ n₁
  split <;> exact h₁

theorem State.Keyed.execLogrd (h : st.Keyed) {m} : Out.Keyed (execLogrd m st) := by
  unfold Machine.execLogrd
  refine h.answerBox fun _ _ h₁ => ?_
  exact h₁

theorem State.Keyed.abortLaunch (h : st.Keyed) {l} : (st.abortLaunch l).Keyed := h.failLaunch.dropCopies.endFirings.modLaunch

theorem State.Keyed.execAbort (h : st.Keyed) {m} : Out.Keyed (execAbort m st) := by
  unfold Machine.execAbort
  split
  · exact .idle
  · split
    · exact .next h.reply
    · exact .idle
  · refine h.mailbox fun _ _ h₁ => ?_
    extract_lets +onlyGivenNames w₁ s₁
    split
    · exact .next h₁.reply
    · split
      · exact .next h₁.abortLaunch.modBox
      · exact .next h₁.reply

/-- No context is left. -/
theorem State.Keyed.execPackageReset (_ : st.Keyed) : Out.Keyed (execPackageReset st) := by
  unfold Machine.execPackageReset
  exact .next ⟨List.Pairwise.nil, fun _ hp => absurd hp List.not_mem_nil⟩

/-! ## Scrubbing, power tokens, gating and droop (R369, R375, R384 to R389) -/

theorem State.Keyed.scrubbed (h : st.Keyed) : (st.scrubbed).Keyed := by
  unfold State.scrubbed
  split <;> exact h

theorem State.Keyed.execScrub (h : st.Keyed) : Out.Keyed (execScrub st) := by
  unfold Machine.execScrub
  extract_lets +onlyGivenNames pa₁
  split
  · exact .next (h.arrayRead.scrubbed.ite h.arrayRead)
  · exact .idle

theorem State.Keyed.execStrongCodeSwitch (h : st.Keyed) : Out.Keyed (execStrongCodeSwitch st) := by
  unfold Machine.execStrongCodeSwitch
  extract_lets +onlyGivenNames -underBinder b₁ f₁
  have h₁ : ∀ x₀, Out.Keyed (f₁ x₀) := by
    refine fun _ => ?_
    exact .next h
  split
  · split
    · exact h₁ _
    · exact .idle
  · split
    · exact h₁ _
    · exact .idle

theorem State.Keyed.execDroopAlarm (h : st.Keyed) : Out.Keyed (execDroopAlarm st) := by
  unfold Machine.execDroopAlarm
  split
  · exact .idle
  · exact .next h

theorem State.Keyed.execStretchEnd (h : st.Keyed) : Out.Keyed (execStretchEnd st) := by
  unfold Machine.execStretchEnd
  split
  · exact .next h
  · exact .idle

theorem State.Keyed.execHalvedIssueEnd (h : st.Keyed) : Out.Keyed (execHalvedIssueEnd st) := by
  unfold Machine.execHalvedIssueEnd
  split
  · exact .next h
  · exact .idle

theorem State.Keyed.execCoreGate (h : st.Keyed) : Out.Keyed (execCoreGate st) := by
  unfold Machine.execCoreGate
  extract_lets +onlyGivenNames k₁
  split
  · exact .next h.modCore
  · exact .idle

theorem State.Keyed.execCoreWake (h : st.Keyed) : Out.Keyed (execCoreWake st) := by
  unfold Machine.execCoreWake
  split
  · exact .next h.modCore.admitPushes.drainCopies
  · exact .idle

theorem State.Keyed.execCapChange (h : st.Keyed) {layer cap} : Out.Keyed (execCapChange layer cap st) := by
  unfold Machine.execCapChange
  split
  · exact .idle
  · exact .next h

theorem State.Keyed.admitNow (h : st.Keyed) {l g} : (st.admitNow l g).Keyed := h.modCluster

theorem State.Keyed.answerPwreq (h : st.Keyed) {n yes} : (st.answerPwreq n yes).Keyed := by
  unfold State.answerPwreq
  split
  · exact (h.modUid.ite h).answer
  · exact h

theorem State.Keyed.execPowerTokenAdmit (h : st.Keyed) : Out.Keyed (execPowerTokenAdmit st) := by
  unfold Machine.execPowerTokenAdmit
  split
  · extract_lets +onlyGivenNames yes₁ st₁
    have h₁ : st₁.Keyed := h
    extract_lets +onlyGivenNames st₂
    have h₂ : st₂.Keyed := h₁.admitNow.ite h₁
    refine .next ?_
    split
    · exact h₂.answerPwreq
    · exact h₂
  · exact .idle

theorem State.Keyed.execPowerTokenReturn (h : st.Keyed) {lid g} : Out.Keyed (execPowerTokenReturn lid g st) := by
  unfold Machine.execPowerTokenReturn
  split
  · split
    · exact .next h
    · exact .idle
  · exact .idle

/-! ## Scalar arithmetic, constants and FP32 (R114 to R123) -/

theorem State.Keyed.scalarOp (h : st.Keyed) {i e named f} : Out.Keyed (scalarOp i e named f st) := by
  unfold Machine.scalarOp
  refine h.issue fun _ _ h₁ => ?_
  exact h₁

theorem State.Keyed.alu2 (h : st.Keyed) {i e d a b f} : Out.Keyed (alu2 i e d a b f st) := h.scalarOp

theorem State.Keyed.alu1 (h : st.Keyed) {i e d a f} : Out.Keyed (alu1 i e d a f st) := h.scalarOp

theorem State.Keyed.aluI (h : st.Keyed) {i e d a imm f} : Out.Keyed (aluI i e d a imm f st) := h.scalarOp

theorem State.Keyed.divOp (h : st.Keyed) {i e d a b f} : Out.Keyed (divOp i e d a b f st) := h.scalarOp

theorem State.Keyed.execAdd (h : st.Keyed) {e d a b} : Out.Keyed (execAdd e d a b st) := h.alu2

theorem State.Keyed.execSub (h : st.Keyed) {e d a b} : Out.Keyed (execSub e d a b st) := h.alu2

theorem State.Keyed.execMul (h : st.Keyed) {e d a b} : Out.Keyed (execMul e d a b st) := h.alu2

theorem State.Keyed.execMulh (h : st.Keyed) {e d a b} : Out.Keyed (execMulh e d a b st) := h.alu2

theorem State.Keyed.execMulhz (h : st.Keyed) {e d a b} : Out.Keyed (execMulhz e d a b st) := h.alu2

theorem State.Keyed.execDiv (h : st.Keyed) {e d a b} : Out.Keyed (execDiv e d a b st) := h.divOp

theorem State.Keyed.execDivz (h : st.Keyed) {e d a b} : Out.Keyed (execDivz e d a b st) := h.divOp

theorem State.Keyed.execRem (h : st.Keyed) {e d a b} : Out.Keyed (execRem e d a b st) := h.divOp

theorem State.Keyed.execRemz (h : st.Keyed) {e d a b} : Out.Keyed (execRemz e d a b st) := h.divOp

theorem State.Keyed.execAnd (h : st.Keyed) {e d a b} : Out.Keyed (execAnd e d a b st) := h.alu2

theorem State.Keyed.execOr (h : st.Keyed) {e d a b} : Out.Keyed (execOr e d a b st) := h.alu2

theorem State.Keyed.execXor (h : st.Keyed) {e d a b} : Out.Keyed (execXor e d a b st) := h.alu2

theorem State.Keyed.execShl (h : st.Keyed) {e d a b} : Out.Keyed (execShl e d a b st) := h.alu2

theorem State.Keyed.execShr (h : st.Keyed) {e d a b} : Out.Keyed (execShr e d a b st) := h.alu2

theorem State.Keyed.execSra (h : st.Keyed) {e d a b} : Out.Keyed (execSra e d a b st) := h.alu2

theorem State.Keyed.execMin (h : st.Keyed) {e d a b} : Out.Keyed (execMin e d a b st) := h.alu2

theorem State.Keyed.execMax (h : st.Keyed) {e d a b} : Out.Keyed (execMax e d a b st) := h.alu2

theorem State.Keyed.execMinz (h : st.Keyed) {e d a b} : Out.Keyed (execMinz e d a b st) := h.alu2

theorem State.Keyed.execMaxz (h : st.Keyed) {e d a b} : Out.Keyed (execMaxz e d a b st) := h.alu2

theorem State.Keyed.execSeq (h : st.Keyed) {e d a b} : Out.Keyed (execSeq e d a b st) := h.alu2

theorem State.Keyed.execSne (h : st.Keyed) {e d a b} : Out.Keyed (execSne e d a b st) := h.alu2

theorem State.Keyed.execSlt (h : st.Keyed) {e d a b} : Out.Keyed (execSlt e d a b st) := h.alu2

theorem State.Keyed.execSltz (h : st.Keyed) {e d a b} : Out.Keyed (execSltz e d a b st) := h.alu2

theorem State.Keyed.execClz (h : st.Keyed) {e d a} : Out.Keyed (execClz e d a st) := h.alu1

theorem State.Keyed.execCtz (h : st.Keyed) {e d a} : Out.Keyed (execCtz e d a st) := h.alu1

theorem State.Keyed.execPopc (h : st.Keyed) {e d a} : Out.Keyed (execPopc e d a st) := h.alu1

theorem State.Keyed.execAddi (h : st.Keyed) {e d a i} : Out.Keyed (execAddi e d a i st) := h.aluI

theorem State.Keyed.execAndi (h : st.Keyed) {e d a i} : Out.Keyed (execAndi e d a i st) := h.aluI

theorem State.Keyed.execOri (h : st.Keyed) {e d a i} : Out.Keyed (execOri e d a i st) := h.aluI

theorem State.Keyed.execXori (h : st.Keyed) {e d a i} : Out.Keyed (execXori e d a i st) := h.aluI

theorem State.Keyed.execSlti (h : st.Keyed) {e d a i} : Out.Keyed (execSlti e d a i st) := h.aluI

theorem State.Keyed.execShli (h : st.Keyed) {e d a n} : Out.Keyed (execShli e d a n st) := h.alu1

theorem State.Keyed.execShri (h : st.Keyed) {e d a n} : Out.Keyed (execShri e d a n st) := h.alu1

theorem State.Keyed.execSrai (h : st.Keyed) {e d a n} : Out.Keyed (execSrai e d a n st) := h.alu1

theorem State.Keyed.execLih (h : st.Keyed) {e d i} : Out.Keyed (execLih e d i st) := h.scalarOp

theorem State.Keyed.execAddpc (h : st.Keyed) {e d i} : Out.Keyed (execAddpc e d i st) := h.scalarOp

theorem State.Keyed.execSel (h : st.Keyed) {e d a b c} : Out.Keyed (execSel e d a b c st) := h.scalarOp

theorem State.Keyed.fp2 (h : st.Keyed) {i e d a b f} : Out.Keyed (fp2 i e d a b f st) := h.scalarOp

theorem State.Keyed.execFadd (h : st.Keyed) {e d a b r} : Out.Keyed (execFadd e d a b r st) := h.fp2

theorem State.Keyed.execFsub (h : st.Keyed) {e d a b r} : Out.Keyed (execFsub e d a b r st) := h.fp2

theorem State.Keyed.execFmul (h : st.Keyed) {e d a b r} : Out.Keyed (execFmul e d a b r st) := h.fp2

theorem State.Keyed.execFmin (h : st.Keyed) {e d a b} : Out.Keyed (execFmin e d a b st) := h.fp2

theorem State.Keyed.execFmax (h : st.Keyed) {e d a b} : Out.Keyed (execFmax e d a b st) := h.fp2

theorem State.Keyed.execFcmp (h : st.Keyed) {e d a b c} : Out.Keyed (execFcmp e d a b c st) := h.fp2

theorem State.Keyed.execFfma (h : st.Keyed) {e d a b c r} : Out.Keyed (execFfma e d a b c r st) := h.scalarOp

theorem State.Keyed.execFcvt (h : st.Keyed) {e d a s t r} : Out.Keyed (execFcvt e d a s t r st) := by
  unfold Machine.execFcvt
  refine h.issue fun _ _ h₁ => ?_
  split
  · exact h₁
  · exact trivial

end Sys2Proof.Machine
end

section
/-! # Contexts under their keys: the step -/

namespace Sys2Proof.Machine

-- One proof at a time: each thread of an asynchronous one reserves a whole stack, and hundreds of them exceed the memory given.
set_option Elab.async false

variable {st : State}

/-! ## Every instruction -/

/-- Every arm by the lemma of its function. -/
theorem State.Keyed.exec (h : st.Keyed) {i : Instr} : Out.Keyed (exec i st) := by
  cases i with
  | add => exact h.execAdd
  | sub => exact h.execSub
  | mul => exact h.execMul
  | mulh => exact h.execMulh
  | mulhz => exact h.execMulhz
  | div => exact h.execDiv
  | divz => exact h.execDivz
  | rem => exact h.execRem
  | remz => exact h.execRemz
  | and => exact h.execAnd
  | or => exact h.execOr
  | xor => exact h.execXor
  | shl => exact h.execShl
  | shr => exact h.execShr
  | sra => exact h.execSra
  | min => exact h.execMin
  | max => exact h.execMax
  | minz => exact h.execMinz
  | maxz => exact h.execMaxz
  | seq => exact h.execSeq
  | sne => exact h.execSne
  | slt => exact h.execSlt
  | sltz => exact h.execSltz
  | clz => exact h.execClz
  | ctz => exact h.execCtz
  | popc => exact h.execPopc
  | addi => exact h.execAddi
  | andi => exact h.execAndi
  | ori => exact h.execOri
  | xori => exact h.execXori
  | slti => exact h.execSlti
  | shli => exact h.execShli
  | shri => exact h.execShri
  | srai => exact h.execSrai
  | lih => exact h.execLih
  | addpc => exact h.execAddpc
  | sel => exact h.execSel
  | fadd => exact h.execFadd
  | fsub => exact h.execFsub
  | fmul => exact h.execFmul
  | fmin => exact h.execFmin
  | fmax => exact h.execFmax
  | fcmp => exact h.execFcmp
  | fcvt => exact h.execFcvt
  | ffma => exact h.execFfma
  | beq => exact h.execBeq
  | bne => exact h.execBne
  | blt => exact h.execBlt
  | bge => exact h.execBge
  | bltz => exact h.execBltz
  | bgez => exact h.execBgez
  | jmp => exact h.execJmp
  | jal => exact h.execJal
  | jr => exact h.execJr
  | jalr => exact h.execJalr
  | csrr => exact h.execCsrr
  | csrw => exact h.execCsrw
  | csrs => exact h.execCsrs
  | csrc => exact h.execCsrc
  | ldl => exact h.execLdl
  | stl => exact h.execStl
  | ldg => exact h.execLdg
  | stg => exact h.execStg
  | ldx => exact h.execLdx
  | stx => exact h.execStx
  | vadd => exact h.execVadd
  | vsub => exact h.execVsub
  | vmul => exact h.execVmul
  | vmin => exact h.execVmin
  | vmax => exact h.execVmax
  | vfma => exact h.execVfma
  | vfms => exact h.execVfms
  | vfnma => exact h.execVfnma
  | vabs => exact h.execVabs
  | vneg => exact h.execVneg
  | vexp2 => exact h.execVexp2
  | vlog2 => exact h.execVlog2
  | vrcp => exact h.execVrcp
  | vrsqrt => exact h.execVrsqrt
  | vand => exact h.execVand
  | vor => exact h.execVor
  | vxor => exact h.execVxor
  | vshl => exact h.execVshl
  | vshr => exact h.execVshr
  | vsra => exact h.execVsra
  | vcmp => exact h.execVcmp
  | vsel => exact h.execVsel
  | vcvt => exact h.execVcvt
  | vtag => exact h.execVtag
  | vmov => exact h.execVmov
  | vbcast => exact h.execVbcast
  | vext => exact h.execVext
  | vins => exact h.execVins
  | vperm => exact h.execVperm
  | vredsum => exact h.execVredsum
  | vredmax => exact h.execVredmax
  | vredmin => exact h.execVredmin
  | vdotBf16 => exact h.execVdotBf16
  | vdotTd8 => exact h.execVdotTd8
  | kset => exact h.execKset
  | kand => exact h.execKand
  | kor => exact h.execKor
  | knot => exact h.execKnot
  | kpop => exact h.execKpop
  | sbindPop => exact h.execSbindPop
  | sbindPush => exact h.execSbindPush
  | sfree => exact h.execSfree
  | ckaccMod => exact h.execCkaccMod
  | ckaccFsum => exact h.execCkaccFsum
  | ckclr => exact h.execCkclr
  | ckrdLo => exact h.execCkrdLo
  | ckrdHi => exact h.execCkrdHi
  | check => exact h.execCheck
  | vld => exact h.execVld
  | vst => exact h.execVst
  | vldg => exact h.execVldg
  | vstg => exact h.execVstg
  | vgath => exact h.execVgath
  | vscat => exact h.execVscat
  | mma => exact h.execMma
  | odset => exact h.execOdset
  | mwin => exact h.execMwin
  | mzero => exact h.execMzero
  | mld => exact h.execMld
  | mst => exact h.execMst
  | mstBf16 => exact h.execMstBf16
  | mstTd8 => exact h.execMstTd8
  | mchk => exact h.execMchk
  | mres => exact h.execMres
  | mscale => exact h.execMscale
  | amoAdd => exact h.execAmoAdd
  | amoAnd => exact h.execAmoAnd
  | amoOr => exact h.execAmoOr
  | amoXor => exact h.execAmoXor
  | amoMin => exact h.execAmoMin
  | amoMax => exact h.execAmoMax
  | amoMinz => exact h.execAmoMinz
  | amoMaxz => exact h.execAmoMaxz
  | amoSwap => exact h.execAmoSwap
  | amoFadd => exact h.execAmoFadd
  | redAdd => exact h.execRedAdd
  | redAnd => exact h.execRedAnd
  | redOr => exact h.execRedOr
  | redXor => exact h.execRedXor
  | redMin => exact h.execRedMin
  | redMax => exact h.execRedMax
  | redMinz => exact h.execRedMinz
  | redMaxz => exact h.execRedMaxz
  | redFadd => exact h.execRedFadd
  | amoc => exact h.execAmoc
  | fence => exact h.execFence
  | qfence => exact h.execQfence
  | acq => exact h.execAcq
  | rel => exact h.execRel
  | rbind => exact h.execRbind
  | icinv => exact h.execIcinv
  | feset => exact h.execFeset
  | feclr => exact h.execFeclr
  | fewait => exact h.execFewait
  | binit => exact h.execBinit
  | benrol => exact h.execBenrol
  | barrive => exact h.execBarrive
  | bexpect => exact h.execBexpect
  | bwait => exact h.execBwait
  | btest => exact h.execBtest
  | cpy => exact h.execCpy
  | cpyx => exact h.execCpyx
  | cpwait => exact h.execCpwait
  | nalloc => exact h.execNalloc
  | nfree => exact h.execNfree
  | nld => exact h.execNld
  | nst => exact h.execNst
  | plink => exact h.execPlink
  | pget => exact h.execPget
  | ppush => exact h.execPpush
  | tend => exact h.execTend
  | commit => exact h.execCommit
  | hspawn => exact h.execHspawn
  | chsend => exact h.execChsend
  | rtset => exact h.execRtset
  | yield => exact h.execYield
  | workq => exact h.execWorkq
  | tver => exact h.execTver
  | tnew => exact h.execTnew
  | trap => exact h.execTrap
  | eret => exact h.execEret
  | tstamp => exact h.execTstamp
  | dscr => exact h.execDscr
  | pwreq => exact h.execPwreq
  | pwrel => exact h.execPwrel
  | stripRefill => exact h.execStripRefill
  | stripPushWrite => exact h.execStripPushWrite
  | blockClear => exact h.execBlockClear
  | powerTokenReturn => exact h.execPowerTokenReturn
  | capChange => exact h.execCapChange
  | cqdoor => exact h.execCqdoor
  | cqEnable => exact h.execCqEnable
  | cqDisable => exact h.execCqDisable
  | xlinv => exact h.execXlinv
  | mxpart => exact h.execMxpart
  | preempt => exact h.execPreempt
  | resume => exact h.execResume
  | lmpool => exact h.execLmpool
  | injArm => exact h.execInjArm
  | twbankArm => exact h.execTwbankArm
  | retire => exact h.execRetire
  | relayBankWrite => exact h.execRelayBankWrite
  | ownclaim => exact h.execOwnclaim
  | owngive => exact h.execOwngive
  | owntake => exact h.execOwntake
  | registerWrite => exact h.execRegisterWrite
  | info => exact h.execInfo
  | ownq => exact h.execOwnq
  | attest => exact h.execAttest
  | fwstage => exact h.execFwstage
  | fwact => exact h.execFwact
  | unitrst => exact h.execUnitrst
  | testst => exact h.execTestst
  | logrd => exact h.execLogrd
  | abort => exact h.execAbort
  | msg => exact h.execMsg
  | lreq => exact h.execLreq
  | ldata => exact h.execLdata
  | lwb => exact h.execLwb
  | inv => exact h.execInv
  | recallPkt => exact h.execRecallPkt
  | wreq => exact h.execWreq
  | areq => exact h.execAreq
  | arsp => exact h.execArsp
  | cpydata => exact h.execCpydata
  | cpydone => exact h.execCpydone
  | qrep => exact h.execQrep
  | ctrl => exact h.execCtrl
  | ack => exact h.execAck
  | portTraining => exact h.execPortTraining
  | hostRead => exact h.execHostRead
  | hostWrite => exact h.execHostWrite
  | unassignedMajorOpcode => exact h.execUnassignedMajorOpcode
  | relayReceive => exact h.execRelayReceive
  | failurePacket => exact h.execFailurePacket
  | sidebandHeartbeat => exact h.execSidebandHeartbeat
  | watchdog => exact h.execWatchdog
  | waittime => exact h.execWaittime
  | kill => exact h.execKill
  | currentContextSelect => exact h.execCurrentContextSelect
  | migration => exact h.execMigration
  | startTask => exact h.execStartTask
  | fill => exact h.execFill
  | resultWrite => exact h.execResultWrite
  | remoteAccess => exact h.execRemoteAccess
  | remoteTargetCheck => exact h.execRemoteTargetCheck
  | atomicPerform => exact h.execAtomicPerform
  | reductionPerform => exact h.execReductionPerform
  | translationWalk => exact h.execTranslationWalk
  | copyDelivery => exact h.execCopyDelivery
  | completionRecord => exact h.execCompletionRecord
  | nextCore => exact h.execNextCore
  | kStep => exact h.execKStep
  | matrixCommandPerform => exact h.execMatrixCommandPerform
  | powerTokenAdmit => exact h.execPowerTokenAdmit
  | nodeRefill => exact h.execNodeRefill
  | ringToBag => exact h.execRingToBag
  | layerReport => exact h.execLayerReport
  | bargeArrival => exact h.execBargeArrival
  | taskPlacement => exact h.execTaskPlacement
  | workqTake => exact h.execWorkqTake
  | workqSet => exact h.execWorkqSet
  | workqRead => exact h.execWorkqRead
  | messageArrival => exact h.execMessageArrival
  | quiescenceSweep => exact h.execQuiescenceSweep
  | launchPlacement => exact h.execLaunchPlacement
  | hedgeSample => exact h.execHedgeSample
  | weirCommit => exact h.execWeirCommit
  | pullComplete => exact h.execPullComplete
  | pullFailed => exact h.execPullFailed
  | coreFailure => exact h.execCoreFailure
  | matrixClusterFailure => exact h.execMatrixClusterFailure
  | layerFailure => exact h.execLayerFailure
  | portFailure => exact h.execPortFailure
  | firmwareCoreFailure => exact h.execFirmwareCoreFailure
  | scanTest => exact h.execScanTest
  | scanPass => exact h.execScanPass
  | scanFail => exact h.execScanFail
  | leaseRenewal => exact h.execLeaseRenewal
  | leaderStop => exact h.execLeaderStop
  | leaderTakeover => exact h.execLeaderTakeover
  | launch => exact h.execLaunch
  | netSet => exact h.execNetSet
  | netDrop => exact h.execNetDrop
  | streamPoll => exact h.execStreamPoll
  | xlinvComplete => exact h.execXlinvComplete
  | bankSwitch => exact h.execBankSwitch
  | handoverTimeout => exact h.execHandoverTimeout
  | ownerLoss => exact h.execOwnerLoss
  | icoalHoldoff => exact h.execIcoalHoldoff
  | msixUnmask => exact h.execMsixUnmask
  | attemptTimeout => exact h.execAttemptTimeout
  | replyTimeout => exact h.execReplyTimeout
  | relayForward => exact h.execRelayForward
  | routeRetry => exact h.execRouteRetry
  | scrub => exact h.execScrub
  | strongCodeSwitch => exact h.execStrongCodeSwitch
  | droopAlarm => exact h.execDroopAlarm
  | stretchEnd => exact h.execStretchEnd
  | halvedIssueEnd => exact h.execHalvedIssueEnd
  | coreGate => exact h.execCoreGate
  | coreWake => exact h.execCoreWake
  | coreReset => exact h.execCoreReset
  | packageReset => exact h.execPackageReset
  | relayRefusal => exact h.execRelayRefusal
  | hostLinkDown => exact h.execHostLinkDown
  | hostLinkTraining => exact h.execHostLinkTraining

/-! ## The choices of a step, and its own order (R2, R387 to R389, R399) -/

theorem Out.Keyed.spend {x : Out} (h : Out.Keyed x) {c n} : Out.Keyed (spend c n x) := by
  unfold Machine.spend
  cases h with
  | next h => exact .next (h.ite h.modCore)
  | fault => exact .fault
  | refused => exact .refused

theorem State.Keyed.issueGroup (h : st.Keyed) {c} : Out.Keyed (st.issueGroup c) := by
  unfold State.issueGroup
  split
  · exact .next h.requestWalk.putCtx
  · exact .next (h.stopFetch h.programFault)
  · next st₁ _ e =>
      have h₁ : st₁.Keyed := h.fetchGroup.of_eq e
      exact .next (h₁.stopFetch h₁.consumePoison)
  · exact .next h.requestLine.putCtx
  · next st₂ _ e =>
      have h₂ : st₂.Keyed := h.fetchGroup.of_eq e
      extract_lets +onlyGivenNames st₃
      have h₃ : st₃.Keyed := h₂
      refine Out.Keyed.spend ?_
      split
      · exact h₃.exec
      · exact h₃.issueIllegal

theorem State.Keyed.issueFrom (h : st.Keyed) {c} : Out.Keyed (st.issueFrom c) := by
  unfold State.issueFrom
  split
  · exact .next h.tryMigrate.tickStamp
  · split
    · exact .next h.takeDue
    · split
      · exact .next h.putCtx
      · exact h.issueGroup

theorem State.Keyed.issueOn (h : st.Keyed) {cid} : Out.Keyed (st.issueOn cid) := by
  unfold State.issueOn
  split
  · exact (h.select.getD h).rouse.issueFrom
  · exact .next h

theorem State.Keyed.tick (h : st.Keyed) : (st.tick).Keyed := by
  unfold State.tick
  extract_lets +onlyGivenNames t st₁
  have h₁ : st₁.Keyed := h.mapCtxs rfl fun _ => ⟨rfl, rfl⟩
  exact (h₁.foldl fun _ _ h₂ => h₂.modLayer).noteLoss.returnCredits

theorem State.Keyed.pass (h : st.Keyed) : (st.pass).Keyed := by
  unfold State.pass
  split
  · exact h.tick
  · exact h

/-- The first event that is enabled. -/
theorem State.Keyed.tryFirst (h : st.Keyed) {l} : OptKeyed (tryFirst l st) := by
  induction l with
  | nil => exact trivial
  | cons x l ih =>
    unfold Machine.tryFirst
    split
    · next e =>
      have h₁ : State.Keyed { st with item := x.2, focus := none } := h
      exact h₁.exec.of_next e
    · exact ih

theorem State.Keyed.proceed (h : st.Keyed) : Out.Keyed (st.proceed) := by
  unfold State.proceed
  split
  · next st₁ e =>
      have h₁ : st₁.Keyed := h.tryFirst.of_eq e
      exact .next h₁
  · split
    · refine State.Keyed.issueOn ?_
      exact h
    · exact .next (h.pass.of_ctxs rfl)

/-- The choices of the environment (R2). -/
theorem State.Keyed.choose (h : st.Keyed) {c} : Out.Keyed (st.choose c) := by
  unfold State.choose
  split
  · next i n =>
    split
    · next e =>
      have h₁ : State.Keyed { st with item := n, focus := none } := h
      exact .next (h₁.exec.of_next e)
    · exact .next h
  · exact h.issueOn
  · exact .next h.pass
  · exact .next h.flushLine
  · exact .next (h.modCore)
  · exact .next h.dropPeerLine
  · exact .next h.modLayer
  · exact .next h.modCore
  · refine .next (iteInduction (motive := State.Keyed) (fun _ => ?_) fun _ => h)
    exact h
  · exact .next h.upset

/-! ## One step -/

/-- A step is a choice of the schedule, or the model's own order. -/
theorem State.Keyed.step (h : st.Keyed) : Out.Keyed (step st) := by
  unfold Machine.step
  split
  · refine State.Keyed.choose ?_
    exact h
  · exact h.proceed

/-- Settles O7: the answer of a step keeps the keys (`State.Keyed.step`). -/
theorem stepKeepsKeyed : Obligations.StepKeepsKeyed :=
  fun _ _ h e => h.step.of_next e

end Sys2Proof.Machine
end

section
/-! # Every instruction word answers a next state (R27, R40 to R45)

A word instruction is an issue of a group by some shape of form. An issue answers a next state whenever there is an issuer. The decoder gives
word instructions only, and a core issues from a context that can. -/

namespace Sys2Proof.Machine

/-- An outcome that is a next state. Inductive, so that elaboration does not evaluate the outcome. -/
inductive Out.Answers : Out → Prop
  | next {t : State} : Answers (.next t)

theorem Out.Answers.exists_next {x : Out} (h : x.Answers) : ∃ t, x = .next t := by
  cases h with
  | next => exact ⟨_, rfl⟩

/-! ## The shapes of form -/

section shapes
variable {s : State} (h : s.issuer.isSome = true)
include h

theorem issueWords_answers {free : Bool} {n : Nat} {w : W32} {blocked : State → Ctx → Bool} {body : State → Ctx → Eff} :
    Out.Answers (issueWords free n w blocked body s) := by
  obtain ⟨c, hc⟩ := Option.isSome_iff_exists.1 h
  unfold issueWords
  rw [hc]
  dsimp only
  split <;> exact .next

theorem issue_answers {e : List Ext} {w : W32} {blocked : State → Ctx → Bool} {body : State → Ctx → Eff} : Out.Answers (issue e w blocked body s) :=
  issueWords_answers h

theorem issueFree_answers {e : List Ext} {w : W32} {blocked : State → Ctx → Bool} {body : State → Ctx → Eff} :
    Out.Answers (issueFree e w blocked body s) :=
  issueWords_answers h

theorem issueIllegal_answers {n : Nat} {w : W32} {detail : Nat} {x : W32} : Out.Answers (issueIllegal n w detail x s) :=
  issueWords_answers h

theorem scalarOp_answers {i : Instr} {e : List Ext} {named : List R5} {f : Ctx → Ctx} : Out.Answers (scalarOp i e named f s) :=
  issue_answers h

theorem alu2_answers {i : Instr} {e : List Ext} {d a b : R5} {f : W64 → W64 → W64} : Out.Answers (alu2 i e d a b f s) :=
  scalarOp_answers h

theorem alu1_answers {i : Instr} {e : List Ext} {d a : R5} {f : W64 → W64} : Out.Answers (alu1 i e d a f s) :=
  scalarOp_answers h

theorem divOp_answers {i : Instr} {e : List Ext} {d a b : R5} {f : W64 → W64 → W64} : Out.Answers (divOp i e d a b f s) :=
  scalarOp_answers h

theorem aluI_answers {i : Instr} {e : List Ext} {d a : R5} {imm : BitVec 15} {f : W64 → W64 → W64} : Out.Answers (aluI i e d a imm f s) :=
  scalarOp_answers h

theorem fp2_answers {i : Instr} {e : List Ext} {d a b : R5} {f : Nat → Nat → Res} : Out.Answers (fp2 i e d a b f s) :=
  scalarOp_answers h

theorem branch_answers {i : Instr} {e : List Ext} {x y : R5} {o : BitVec 15} {t : W64 → W64 → Bool} : Out.Answers (branch i e x y o t s) :=
  issue_answers h

theorem csrWrite_answers {i : Instr} {e : List Ext} {a : R5} {n : BitVec 12} {clears : Bool} {f : W64 → W64 → W64} :
    Out.Answers (csrWrite i e a n clears f s) :=
  issue_answers h

theorem vectorOpAt_answers {i : Instr} {e : List Ext} {scal named : List R5} {checks : Ctx → List (Nat × Nat × Nat)} {srcs offs : List R5} {go : State → Ctx → Eff} :
    Out.Answers (vectorOpAt i e scal named checks srcs offs go s) :=
  issue_answers h

theorem vectorOp_answers {i : Instr} {e : List Ext} {scal named : List R5} {checks : Ctx → List (Nat × Nat × Nat)} {srcs : List R5} {go : State → Ctx → Eff} :
    Out.Answers (vectorOp i e scal named checks srcs go s) :=
  vectorOpAt_answers h

theorem binary_answers {i : Instr} {e : List Ext} {d a b : R5} {k : BitVec 3} {accept : Nat} {f : Nat → Nat → Nat → Res} :
    Out.Answers (binary i e d a b k accept f s) :=
  vectorOp_answers h

theorem fused_answers {i : Instr} {e : List Ext} {d a b z : R5} {k : BitVec 3} {r : BitVec 2} {np nc : Bool} :
    Out.Answers (fused i e d a b z k r np nc s) :=
  vectorOp_answers h

theorem unary_answers {i : Instr} {e : List Ext} {d a : R5} {k : BitVec 3} {accept : Nat} {f : Nat → Nat → Res} :
    Out.Answers (unary i e d a k accept f s) :=
  vectorOp_answers h

theorem logic_answers {i : Instr} {e : List Ext} {d a b : R5} {k : BitVec 3} {f : Nat → Nat → Nat} : Out.Answers (logic i e d a b k f s) :=
  vectorOp_answers h

theorem reduction_answers {i : Instr} {e : List Ext} {d a : R5} {accept : Nat} {f : Ctx → VReg → Res × Nat} :
    Out.Answers (reduction i e d a accept f s) :=
  vectorOp_answers h

theorem dot_answers {i : Instr} {e : List Ext} {d a b z : R5} {k : BitVec 3} {rm tag : Nat} {nan : Nat → Fmt × Nat} {val : Nat → FVal} :
    Out.Answers (dot i e d a b z k rm tag nan val s) :=
  vectorOp_answers h

theorem accumulate_answers {i : Instr} {e : List Ext} {d a : R5} {k : BitVec 3} {kind accept : Nat} :
    Out.Answers (accumulate i e d a k kind accept s) :=
  vectorOp_answers h

theorem maskOp_answers {i : Instr} {e : List Ext} {scal : List R5} {f : Ctx → Ctx} : Out.Answers (maskOp i e scal f s) :=
  issue_answers h

theorem bindStream_answers {i : Instr} {e : List Ext} {d a : R5} {push : Bool} : Out.Answers (bindStream i e d a push s) :=
  issue_answers h

theorem windowOp_answers {i : Instr} {e : List Ext} {scal : List R5} {d : R5} {opnd : Nat} {go : State → Ctx → W64 → Eff} :
    Out.Answers (windowOp i e scal d opnd go s) :=
  issue_answers h

theorem matrixStore_answers {i : Instr} {e : List Ext} {d a : R5} {form : Nat} : Out.Answers (matrixStore i e d a form s) :=
  windowOp_answers h

theorem atomic_answers {i : Instr} {e : List Ext} {d a b : R5} {op n : Nat} : Out.Answers (atomic i e d a b op n s) :=
  issue_answers h

theorem reduce_answers {i : Instr} {e : List Ext} {a b : R5} {op n : Nat} : Out.Answers (reduce i e a b op n s) :=
  issue_answers h

theorem markGranule_answers {i : Instr} {e : List Ext} {a : R5} {full : Bool} : Out.Answers (markGranule i e a full s) :=
  issue_answers h

theorem copyOp_answers {i : Instr} {e : List Ext} {d a b : R5} {cross : Bool} : Out.Answers (copyOp i e d a b cross s) :=
  issue_answers h

theorem csrUpdate_answers {i : Instr} {e : List Ext} {a : R5} {n : BitVec 12} {clears : Bool} {f : W64 → W64 → W64} :
    Out.Answers (csrUpdate i e a n clears f s) := by
  unfold csrUpdate
  split
  · exact csrWrite_answers h
  · exact issue_answers h

end shapes

/-- Every instruction word, by its shape. -/
theorem exec_answers {s : State} (h : s.issuer.isSome = true) {i : Instr} (hw : i.isWord = true) : Out.Answers (exec i s) := by
  cases i with
  | add x0 x1 x2 x3 => exact (show Out.Answers (execAdd x0 x1 x2 x3 s) from alu2_answers h)
  | sub x0 x1 x2 x3 => exact (show Out.Answers (execSub x0 x1 x2 x3 s) from alu2_answers h)
  | mul x0 x1 x2 x3 => exact (show Out.Answers (execMul x0 x1 x2 x3 s) from alu2_answers h)
  | mulh x0 x1 x2 x3 => exact (show Out.Answers (execMulh x0 x1 x2 x3 s) from alu2_answers h)
  | mulhz x0 x1 x2 x3 => exact (show Out.Answers (execMulhz x0 x1 x2 x3 s) from alu2_answers h)
  | div x0 x1 x2 x3 => exact (show Out.Answers (execDiv x0 x1 x2 x3 s) from divOp_answers h)
  | divz x0 x1 x2 x3 => exact (show Out.Answers (execDivz x0 x1 x2 x3 s) from divOp_answers h)
  | rem x0 x1 x2 x3 => exact (show Out.Answers (execRem x0 x1 x2 x3 s) from divOp_answers h)
  | remz x0 x1 x2 x3 => exact (show Out.Answers (execRemz x0 x1 x2 x3 s) from divOp_answers h)
  | and x0 x1 x2 x3 => exact (show Out.Answers (execAnd x0 x1 x2 x3 s) from alu2_answers h)
  | or x0 x1 x2 x3 => exact (show Out.Answers (execOr x0 x1 x2 x3 s) from alu2_answers h)
  | xor x0 x1 x2 x3 => exact (show Out.Answers (execXor x0 x1 x2 x3 s) from alu2_answers h)
  | shl x0 x1 x2 x3 => exact (show Out.Answers (execShl x0 x1 x2 x3 s) from alu2_answers h)
  | shr x0 x1 x2 x3 => exact (show Out.Answers (execShr x0 x1 x2 x3 s) from alu2_answers h)
  | sra x0 x1 x2 x3 => exact (show Out.Answers (execSra x0 x1 x2 x3 s) from alu2_answers h)
  | min x0 x1 x2 x3 => exact (show Out.Answers (execMin x0 x1 x2 x3 s) from alu2_answers h)
  | max x0 x1 x2 x3 => exact (show Out.Answers (execMax x0 x1 x2 x3 s) from alu2_answers h)
  | minz x0 x1 x2 x3 => exact (show Out.Answers (execMinz x0 x1 x2 x3 s) from alu2_answers h)
  | maxz x0 x1 x2 x3 => exact (show Out.Answers (execMaxz x0 x1 x2 x3 s) from alu2_answers h)
  | seq x0 x1 x2 x3 => exact (show Out.Answers (execSeq x0 x1 x2 x3 s) from alu2_answers h)
  | sne x0 x1 x2 x3 => exact (show Out.Answers (execSne x0 x1 x2 x3 s) from alu2_answers h)
  | slt x0 x1 x2 x3 => exact (show Out.Answers (execSlt x0 x1 x2 x3 s) from alu2_answers h)
  | sltz x0 x1 x2 x3 => exact (show Out.Answers (execSltz x0 x1 x2 x3 s) from alu2_answers h)
  | clz x0 x1 x2 => exact (show Out.Answers (execClz x0 x1 x2 s) from alu1_answers h)
  | ctz x0 x1 x2 => exact (show Out.Answers (execCtz x0 x1 x2 s) from alu1_answers h)
  | popc x0 x1 x2 => exact (show Out.Answers (execPopc x0 x1 x2 s) from alu1_answers h)
  | addi x0 x1 x2 x3 => exact (show Out.Answers (execAddi x0 x1 x2 x3 s) from aluI_answers h)
  | andi x0 x1 x2 x3 => exact (show Out.Answers (execAndi x0 x1 x2 x3 s) from aluI_answers h)
  | ori x0 x1 x2 x3 => exact (show Out.Answers (execOri x0 x1 x2 x3 s) from aluI_answers h)
  | xori x0 x1 x2 x3 => exact (show Out.Answers (execXori x0 x1 x2 x3 s) from aluI_answers h)
  | slti x0 x1 x2 x3 => exact (show Out.Answers (execSlti x0 x1 x2 x3 s) from aluI_answers h)
  | shli x0 x1 x2 x3 => exact (show Out.Answers (execShli x0 x1 x2 x3 s) from alu1_answers h)
  | shri x0 x1 x2 x3 => exact (show Out.Answers (execShri x0 x1 x2 x3 s) from alu1_answers h)
  | srai x0 x1 x2 x3 => exact (show Out.Answers (execSrai x0 x1 x2 x3 s) from alu1_answers h)
  | lih x0 x1 x2 => exact (show Out.Answers (execLih x0 x1 x2 s) from scalarOp_answers h)
  | addpc x0 x1 x2 => exact (show Out.Answers (execAddpc x0 x1 x2 s) from scalarOp_answers h)
  | sel x0 x1 x2 x3 x4 => exact (show Out.Answers (execSel x0 x1 x2 x3 x4 s) from scalarOp_answers h)
  | fadd x0 x1 x2 x3 x4 => exact (show Out.Answers (execFadd x0 x1 x2 x3 x4 s) from fp2_answers h)
  | fsub x0 x1 x2 x3 x4 => exact (show Out.Answers (execFsub x0 x1 x2 x3 x4 s) from fp2_answers h)
  | fmul x0 x1 x2 x3 x4 => exact (show Out.Answers (execFmul x0 x1 x2 x3 x4 s) from fp2_answers h)
  | fmin x0 x1 x2 x3 => exact (show Out.Answers (execFmin x0 x1 x2 x3 s) from fp2_answers h)
  | fmax x0 x1 x2 x3 => exact (show Out.Answers (execFmax x0 x1 x2 x3 s) from fp2_answers h)
  | fcmp x0 x1 x2 x3 x4 => exact (show Out.Answers (execFcmp x0 x1 x2 x3 x4 s) from fp2_answers h)
  | fcvt x0 x1 x2 x3 x4 x5 => exact (show Out.Answers (execFcvt x0 x1 x2 x3 x4 x5 s) from issue_answers h)
  | ffma x0 x1 x2 x3 x4 x5 => exact (show Out.Answers (execFfma x0 x1 x2 x3 x4 x5 s) from scalarOp_answers h)
  | beq x0 x1 x2 x3 => exact (show Out.Answers (execBeq x0 x1 x2 x3 s) from branch_answers h)
  | bne x0 x1 x2 x3 => exact (show Out.Answers (execBne x0 x1 x2 x3 s) from branch_answers h)
  | blt x0 x1 x2 x3 => exact (show Out.Answers (execBlt x0 x1 x2 x3 s) from branch_answers h)
  | bge x0 x1 x2 x3 => exact (show Out.Answers (execBge x0 x1 x2 x3 s) from branch_answers h)
  | bltz x0 x1 x2 x3 => exact (show Out.Answers (execBltz x0 x1 x2 x3 s) from branch_answers h)
  | bgez x0 x1 x2 x3 => exact (show Out.Answers (execBgez x0 x1 x2 x3 s) from branch_answers h)
  | jmp x0 x1 => exact (show Out.Answers (execJmp x0 x1 s) from issue_answers h)
  | jal x0 x1 => exact (show Out.Answers (execJal x0 x1 s) from issue_answers h)
  | jr x0 x1 => exact (show Out.Answers (execJr x0 x1 s) from issue_answers h)
  | jalr x0 x1 x2 => exact (show Out.Answers (execJalr x0 x1 x2 s) from issue_answers h)
  | csrr x0 x1 x2 => exact (show Out.Answers (execCsrr x0 x1 x2 s) from issue_answers h)
  | csrw x0 x1 x2 => exact (show Out.Answers (execCsrw x0 x1 x2 s) from csrWrite_answers h)
  | csrs x0 x1 x2 => exact (show Out.Answers (execCsrs x0 x1 x2 s) from csrUpdate_answers h)
  | csrc x0 x1 x2 => exact (show Out.Answers (execCsrc x0 x1 x2 s) from csrUpdate_answers h)
  | ldl x0 x1 x2 x3 x4 x5 => exact (show Out.Answers (execLdl x0 x1 x2 x3 x4 x5 s) from issue_answers h)
  | stl x0 x1 x2 x3 x4 x5 => exact (show Out.Answers (execStl x0 x1 x2 x3 x4 x5 s) from issue_answers h)
  | ldg x0 x1 x2 x3 x4 x5 => exact (show Out.Answers (execLdg x0 x1 x2 x3 x4 x5 s) from issue_answers h)
  | stg x0 x1 x2 x3 x4 => exact (show Out.Answers (execStg x0 x1 x2 x3 x4 s) from issue_answers h)
  | ldx x0 x1 x2 x3 x4 x5 => exact (show Out.Answers (execLdx x0 x1 x2 x3 x4 x5 s) from issue_answers h)
  | stx x0 x1 x2 x3 x4 => exact (show Out.Answers (execStx x0 x1 x2 x3 x4 s) from issue_answers h)
  | vadd x0 x1 x2 x3 x4 x5 => exact (show Out.Answers (execVadd x0 x1 x2 x3 x4 x5 s) from binary_answers h)
  | vsub x0 x1 x2 x3 x4 x5 => exact (show Out.Answers (execVsub x0 x1 x2 x3 x4 x5 s) from binary_answers h)
  | vmul x0 x1 x2 x3 x4 x5 => exact (show Out.Answers (execVmul x0 x1 x2 x3 x4 x5 s) from binary_answers h)
  | vmin x0 x1 x2 x3 x4 => exact (show Out.Answers (execVmin x0 x1 x2 x3 x4 s) from binary_answers h)
  | vmax x0 x1 x2 x3 x4 => exact (show Out.Answers (execVmax x0 x1 x2 x3 x4 s) from binary_answers h)
  | vfma x0 x1 x2 x3 x4 x5 x6 => exact (show Out.Answers (execVfma x0 x1 x2 x3 x4 x5 x6 s) from fused_answers h)
  | vfms x0 x1 x2 x3 x4 x5 x6 => exact (show Out.Answers (execVfms x0 x1 x2 x3 x4 x5 x6 s) from fused_answers h)
  | vfnma x0 x1 x2 x3 x4 x5 x6 => exact (show Out.Answers (execVfnma x0 x1 x2 x3 x4 x5 x6 s) from fused_answers h)
  | vabs x0 x1 x2 x3 => exact (show Out.Answers (execVabs x0 x1 x2 x3 s) from unary_answers h)
  | vneg x0 x1 x2 x3 => exact (show Out.Answers (execVneg x0 x1 x2 x3 s) from unary_answers h)
  | vexp2 x0 x1 x2 x3 x4 => exact (show Out.Answers (execVexp2 x0 x1 x2 x3 x4 s) from unary_answers h)
  | vlog2 x0 x1 x2 x3 x4 => exact (show Out.Answers (execVlog2 x0 x1 x2 x3 x4 s) from unary_answers h)
  | vrcp x0 x1 x2 x3 x4 => exact (show Out.Answers (execVrcp x0 x1 x2 x3 x4 s) from unary_answers h)
  | vrsqrt x0 x1 x2 x3 x4 => exact (show Out.Answers (execVrsqrt x0 x1 x2 x3 x4 s) from unary_answers h)
  | vand x0 x1 x2 x3 x4 => exact (show Out.Answers (execVand x0 x1 x2 x3 x4 s) from logic_answers h)
  | vor x0 x1 x2 x3 x4 => exact (show Out.Answers (execVor x0 x1 x2 x3 x4 s) from logic_answers h)
  | vxor x0 x1 x2 x3 x4 => exact (show Out.Answers (execVxor x0 x1 x2 x3 x4 s) from logic_answers h)
  | vshl x0 x1 x2 x3 x4 => exact (show Out.Answers (execVshl x0 x1 x2 x3 x4 s) from binary_answers h)
  | vshr x0 x1 x2 x3 x4 => exact (show Out.Answers (execVshr x0 x1 x2 x3 x4 s) from binary_answers h)
  | vsra x0 x1 x2 x3 x4 => exact (show Out.Answers (execVsra x0 x1 x2 x3 x4 s) from binary_answers h)
  | vcmp x0 x1 x2 x3 x4 x5 => exact (show Out.Answers (execVcmp x0 x1 x2 x3 x4 x5 s) from vectorOp_answers h)
  | vsel x0 x1 x2 x3 x4 => exact (show Out.Answers (execVsel x0 x1 x2 x3 x4 s) from vectorOp_answers h)
  | vcvt x0 x1 x2 x3 x4 x5 => exact (show Out.Answers (execVcvt x0 x1 x2 x3 x4 x5 s) from vectorOp_answers h)
  | vtag x0 x1 x2 x3 => exact (show Out.Answers (execVtag x0 x1 x2 x3 s) from vectorOp_answers h)
  | vmov x0 x1 x2 x3 => exact (show Out.Answers (execVmov x0 x1 x2 x3 s) from vectorOp_answers h)
  | vbcast x0 x1 x2 x3 x4 => exact (show Out.Answers (execVbcast x0 x1 x2 x3 x4 s) from vectorOp_answers h)
  | vext x0 x1 x2 x3 => exact (show Out.Answers (execVext x0 x1 x2 x3 s) from vectorOp_answers h)
  | vins x0 x1 x2 x3 => exact (show Out.Answers (execVins x0 x1 x2 x3 s) from vectorOp_answers h)
  | vperm x0 x1 x2 x3 x4 => exact (show Out.Answers (execVperm x0 x1 x2 x3 x4 s) from vectorOp_answers h)
  | vredsum x0 x1 x2 x3 x4 => exact (show Out.Answers (execVredsum x0 x1 x2 x3 x4 s) from reduction_answers h)
  | vredmax x0 x1 x2 x3 => exact (show Out.Answers (execVredmax x0 x1 x2 x3 s) from reduction_answers h)
  | vredmin x0 x1 x2 x3 => exact (show Out.Answers (execVredmin x0 x1 x2 x3 s) from reduction_answers h)
  | vdotBf16 x0 x1 x2 x3 x4 x5 x6 => exact (show Out.Answers (execVdotBf16 x0 x1 x2 x3 x4 x5 x6 s) from dot_answers h)
  | vdotTd8 x0 x1 x2 x3 x4 x5 x6 => exact (show Out.Answers (execVdotTd8 x0 x1 x2 x3 x4 x5 x6 s) from dot_answers h)
  | kset x0 x1 x2 => exact (show Out.Answers (execKset x0 x1 x2 s) from maskOp_answers h)
  | kand x0 x1 x2 x3 => exact (show Out.Answers (execKand x0 x1 x2 x3 s) from maskOp_answers h)
  | kor x0 x1 x2 x3 => exact (show Out.Answers (execKor x0 x1 x2 x3 s) from maskOp_answers h)
  | knot x0 x1 x2 => exact (show Out.Answers (execKnot x0 x1 x2 s) from maskOp_answers h)
  | kpop x0 x1 x2 => exact (show Out.Answers (execKpop x0 x1 x2 s) from maskOp_answers h)
  | sbindPop x0 x1 x2 => exact (show Out.Answers (execSbindPop x0 x1 x2 s) from bindStream_answers h)
  | sbindPush x0 x1 x2 => exact (show Out.Answers (execSbindPush x0 x1 x2 s) from bindStream_answers h)
  | sfree x0 x1 => exact (show Out.Answers (execSfree x0 x1 s) from issue_answers h)
  | ckaccMod x0 x1 x2 x3 => exact (show Out.Answers (execCkaccMod x0 x1 x2 x3 s) from accumulate_answers h)
  | ckaccFsum x0 x1 x2 x3 => exact (show Out.Answers (execCkaccFsum x0 x1 x2 x3 s) from accumulate_answers h)
  | ckclr x0 x1 => exact (show Out.Answers (execCkclr x0 x1 s) from maskOp_answers h)
  | ckrdLo x0 x1 x2 => exact (show Out.Answers (execCkrdLo x0 x1 x2 s) from maskOp_answers h)
  | ckrdHi x0 x1 x2 => exact (show Out.Answers (execCkrdHi x0 x1 x2 s) from maskOp_answers h)
  | check x0 x1 x2 x3 => exact (show Out.Answers (execCheck x0 x1 x2 x3 s) from issue_answers h)
  | vld x0 x1 x2 x3 x4 x5 => exact (show Out.Answers (execVld x0 x1 x2 x3 x4 x5 s) from vectorOp_answers h)
  | vst x0 x1 x2 x3 x4 => exact (show Out.Answers (execVst x0 x1 x2 x3 x4 s) from vectorOp_answers h)
  | vldg x0 x1 x2 x3 x4 => exact (show Out.Answers (execVldg x0 x1 x2 x3 x4 s) from vectorOp_answers h)
  | vstg x0 x1 x2 x3 => exact (show Out.Answers (execVstg x0 x1 x2 x3 s) from vectorOp_answers h)
  | vgath x0 x1 x2 x3 x4 x5 x6 => exact (show Out.Answers (execVgath x0 x1 x2 x3 x4 x5 x6 s) from vectorOpAt_answers h)
  | vscat x0 x1 x2 x3 x4 x5 => exact (show Out.Answers (execVscat x0 x1 x2 x3 x4 x5 s) from vectorOpAt_answers h)
  | mma x0 x1 x2 x3 x4 x5 => exact (show Out.Answers (execMma x0 x1 x2 x3 x4 x5 s) from issue_answers h)
  | odset x0 x1 x2 x3 => exact (show Out.Answers (execOdset x0 x1 x2 x3 s) from issue_answers h)
  | mwin x0 x1 x2 => exact (show Out.Answers (execMwin x0 x1 x2 s) from issue_answers h)
  | mzero x0 x1 => exact (show Out.Answers (execMzero x0 x1 s) from windowOp_answers h)
  | mld x0 x1 x2 => exact (show Out.Answers (execMld x0 x1 x2 s) from windowOp_answers h)
  | mst x0 x1 x2 => exact (show Out.Answers (execMst x0 x1 x2 s) from matrixStore_answers h)
  | mstBf16 x0 x1 x2 => exact (show Out.Answers (execMstBf16 x0 x1 x2 s) from matrixStore_answers h)
  | mstTd8 x0 x1 x2 => exact (show Out.Answers (execMstTd8 x0 x1 x2 s) from matrixStore_answers h)
  | mchk x0 x1 x2 x3 => exact (show Out.Answers (execMchk x0 x1 x2 x3 s) from windowOp_answers h)
  | mres x0 x1 x2 => exact (show Out.Answers (execMres x0 x1 x2 s) from issue_answers h)
  | mscale x0 x1 x2 x3 => exact (show Out.Answers (execMscale x0 x1 x2 x3 s) from issue_answers h)
  | amoAdd x0 x1 x2 x3 x4 => exact (show Out.Answers (execAmoAdd x0 x1 x2 x3 x4 s) from atomic_answers h)
  | amoAnd x0 x1 x2 x3 x4 => exact (show Out.Answers (execAmoAnd x0 x1 x2 x3 x4 s) from atomic_answers h)
  | amoOr x0 x1 x2 x3 x4 => exact (show Out.Answers (execAmoOr x0 x1 x2 x3 x4 s) from atomic_answers h)
  | amoXor x0 x1 x2 x3 x4 => exact (show Out.Answers (execAmoXor x0 x1 x2 x3 x4 s) from atomic_answers h)
  | amoMin x0 x1 x2 x3 x4 => exact (show Out.Answers (execAmoMin x0 x1 x2 x3 x4 s) from atomic_answers h)
  | amoMax x0 x1 x2 x3 x4 => exact (show Out.Answers (execAmoMax x0 x1 x2 x3 x4 s) from atomic_answers h)
  | amoMinz x0 x1 x2 x3 x4 => exact (show Out.Answers (execAmoMinz x0 x1 x2 x3 x4 s) from atomic_answers h)
  | amoMaxz x0 x1 x2 x3 x4 => exact (show Out.Answers (execAmoMaxz x0 x1 x2 x3 x4 s) from atomic_answers h)
  | amoSwap x0 x1 x2 x3 x4 => exact (show Out.Answers (execAmoSwap x0 x1 x2 x3 x4 s) from atomic_answers h)
  | amoFadd x0 x1 x2 x3 => exact (show Out.Answers (execAmoFadd x0 x1 x2 x3 s) from atomic_answers h)
  | redAdd x0 x1 x2 x3 => exact (show Out.Answers (execRedAdd x0 x1 x2 x3 s) from reduce_answers h)
  | redAnd x0 x1 x2 x3 => exact (show Out.Answers (execRedAnd x0 x1 x2 x3 s) from reduce_answers h)
  | redOr x0 x1 x2 x3 => exact (show Out.Answers (execRedOr x0 x1 x2 x3 s) from reduce_answers h)
  | redXor x0 x1 x2 x3 => exact (show Out.Answers (execRedXor x0 x1 x2 x3 s) from reduce_answers h)
  | redMin x0 x1 x2 x3 => exact (show Out.Answers (execRedMin x0 x1 x2 x3 s) from reduce_answers h)
  | redMax x0 x1 x2 x3 => exact (show Out.Answers (execRedMax x0 x1 x2 x3 s) from reduce_answers h)
  | redMinz x0 x1 x2 x3 => exact (show Out.Answers (execRedMinz x0 x1 x2 x3 s) from reduce_answers h)
  | redMaxz x0 x1 x2 x3 => exact (show Out.Answers (execRedMaxz x0 x1 x2 x3 s) from reduce_answers h)
  | redFadd x0 x1 x2 => exact (show Out.Answers (execRedFadd x0 x1 x2 s) from reduce_answers h)
  | amoc x0 x1 x2 x3 x4 x5 => exact (show Out.Answers (execAmoc x0 x1 x2 x3 x4 x5 s) from issue_answers h)
  | fence x0 x1 x2 x3 => exact (show Out.Answers (execFence x0 x1 x2 x3 s) from issue_answers h)
  | qfence x0 x1 x2 => exact (show Out.Answers (execQfence x0 x1 x2 s) from issue_answers h)
  | acq x0 x1 x2 => exact (show Out.Answers (execAcq x0 x1 x2 s) from issue_answers h)
  | rel x0 x1 x2 => exact (show Out.Answers (execRel x0 x1 x2 s) from issue_answers h)
  | rbind x0 x1 x2 x3 => exact (show Out.Answers (execRbind x0 x1 x2 x3 s) from issue_answers h)
  | icinv x0 x1 => exact (show Out.Answers (execIcinv x0 x1 s) from issue_answers h)
  | feset x0 x1 => exact (show Out.Answers (execFeset x0 x1 s) from markGranule_answers h)
  | feclr x0 x1 => exact (show Out.Answers (execFeclr x0 x1 s) from markGranule_answers h)
  | fewait x0 x1 => exact (show Out.Answers (execFewait x0 x1 s) from issueFree_answers h)
  | binit x0 x1 x2 => exact (show Out.Answers (execBinit x0 x1 x2 s) from issue_answers h)
  | benrol x0 x1 x2 => exact (show Out.Answers (execBenrol x0 x1 x2 s) from issue_answers h)
  | barrive x0 x1 x2 x3 => exact (show Out.Answers (execBarrive x0 x1 x2 x3 s) from issue_answers h)
  | bexpect x0 x1 x2 => exact (show Out.Answers (execBexpect x0 x1 x2 s) from issue_answers h)
  | bwait x0 x1 x2 x3 => exact (show Out.Answers (execBwait x0 x1 x2 x3 s) from issueFree_answers h)
  | btest x0 x1 x2 x3 => exact (show Out.Answers (execBtest x0 x1 x2 x3 s) from issue_answers h)
  | cpy x0 x1 x2 x3 => exact (show Out.Answers (execCpy x0 x1 x2 x3 s) from copyOp_answers h)
  | cpyx x0 x1 x2 x3 => exact (show Out.Answers (execCpyx x0 x1 x2 x3 s) from copyOp_answers h)
  | cpwait x0 x1 => exact (show Out.Answers (execCpwait x0 x1 s) from issueFree_answers h)
  | nalloc x0 x1 x2 => exact (show Out.Answers (execNalloc x0 x1 x2 s) from issue_answers h)
  | nfree x0 x1 => exact (show Out.Answers (execNfree x0 x1 s) from issue_answers h)
  | nld x0 x1 x2 x3 => exact (show Out.Answers (execNld x0 x1 x2 x3 s) from issue_answers h)
  | nst x0 x1 x2 x3 => exact (show Out.Answers (execNst x0 x1 x2 x3 s) from issue_answers h)
  | plink x0 x1 x2 x3 => exact (show Out.Answers (execPlink x0 x1 x2 x3 s) from issue_answers h)
  | pget x0 x1 x2 => exact (show Out.Answers (execPget x0 x1 x2 s) from issue_answers h)
  | ppush x0 x1 x2 => exact (show Out.Answers (execPpush x0 x1 x2 s) from issue_answers h)
  | tend x0 => exact (show Out.Answers (execTend x0 s) from issueFree_answers h)
  | commit x0 x1 x2 x3 => exact (show Out.Answers (execCommit x0 x1 x2 x3 s) from issueFree_answers h)
  | hspawn x0 x1 x2 x3 => exact (show Out.Answers (execHspawn x0 x1 x2 x3 s) from issue_answers h)
  | chsend x0 x1 x2 => exact (show Out.Answers (execChsend x0 x1 x2 s) from issue_answers h)
  | rtset x0 x1 x2 x3 => exact (show Out.Answers (execRtset x0 x1 x2 x3 s) from issue_answers h)
  | yield x0 x1 => exact (show Out.Answers (execYield x0 x1 s) from issueFree_answers h)
  | workq x0 x1 x2 => exact (show Out.Answers (execWorkq x0 x1 x2 s) from issue_answers h)
  | tver x0 x1 x2 => exact (show Out.Answers (execTver x0 x1 x2 s) from issue_answers h)
  | tnew x0 x1 x2 => exact (show Out.Answers (execTnew x0 x1 x2 s) from issue_answers h)
  | trap x0 x1 x2 => exact (show Out.Answers (execTrap x0 x1 x2 s) from issue_answers h)
  | eret x0 => exact (show Out.Answers (execEret x0 s) from issue_answers h)
  | tstamp x0 x1 => exact (show Out.Answers (execTstamp x0 x1 s) from issue_answers h)
  | dscr x0 x1 x2 => exact (show Out.Answers (execDscr x0 x1 x2 s) from issue_answers h)
  | pwreq x0 x1 x2 => exact (show Out.Answers (execPwreq x0 x1 x2 s) from issue_answers h)
  | pwrel x0 x1 => exact (show Out.Answers (execPwrel x0 x1 s) from issue_answers h)
  | unassignedMajorOpcode x0 x1 => exact (show Out.Answers (execUnassignedMajorOpcode x0 x1 s) from issue_answers h)
  | _ => exact (Bool.false_ne_true hw).elim

end Sys2Proof.Machine
end

section
/-! # The contexts behind a fetch, and the step of a keyed state -/

namespace Sys2Proof.Machine

variable {st : State}

/-! ## Reading memory changes no context (R269, R298) -/

theorem State.foldl_ctxs {α : Type} {f : State → α → State} (hf : ∀ t x, (f t x).ctxs = t.ctxs) (l : List α) (st : State) :
    (l.foldl f st).ctxs = st.ctxs := by
  induction l generalizing st with
  | nil => rfl
  | cons x l ih => exact (ih _).trans (hf st x)

@[simp] theorem State.correct_ctxs {pa : Nat} : (st.correct pa).ctxs = st.ctxs := by
  unfold State.correct
  extract_lets st₁
  split <;> rfl

@[simp] theorem State.arrayRead_ctxs {pa n : Nat} : (st.arrayRead pa n).ctxs = st.ctxs := by
  unfold State.arrayRead
  split
  · extract_lets w t st₁
    have h₁ : st₁.ctxs = st.ctxs := rfl
    split
    · exact State.correct_ctxs.trans h₁
    · split
      · exact State.correct_ctxs.trans h₁
      · exact h₁
    · exact h₁
    · exact h₁
  · rfl

@[simp] theorem State.invalidateHolders_ctxs {line : Nat} {keep : Option Nat} {tenant : Nat} :
    (st.invalidateHolders line keep tenant).ctxs = st.ctxs := by
  unfold State.invalidateHolders
  extract_lets held st₁
  have h₁ : st₁.ctxs = st.ctxs :=
    State.foldl_ctxs (f := fun s p => s.send p 4 0 tenant 0 (.inv line) none) (fun _ _ => rfl) _ _
  split
  · rfl
  · split
    · split <;> exact h₁
    · exact h₁

@[simp] theorem State.sWrite_ctxs {pa : Nat} {l : List Byte} : (st.sWrite pa l).ctxs = st.ctxs := by
  unfold State.sWrite
  extract_lets mask clean
  split
  · rfl
  · split <;> simp

@[simp] theorem State.sPoison_ctxs {pa n : Nat} : (st.sPoison pa n).ctxs = st.ctxs := by
  unfold State.sPoison
  extract_lets mark
  split
  · rfl
  · split <;> rfl

@[simp] theorem State.sWriteMasked_ctxs {line : Nat} {data : BitVec 1024} {mask : BitVec 128} {carried : BitVec 16} :
    (st.sWriteMasked line data mask carried).ctxs = st.ctxs := by
  refine State.foldl_ctxs (fun t w => ?_) _ _
  extract_lets m a u
  have hu : u.ctxs = t.ctxs := by
    unfold u
    split
    · exact State.sWrite_ctxs
    · refine State.foldl_ctxs (fun v i => ?_) _ _
      split
      · exact State.sWrite_ctxs
      · rfl
  split
  · rfl
  · split
    · exact State.sPoison_ctxs.trans hu
    · exact hu

@[simp] theorem State.writeBack_ctxs {q line : Nat} : (st.writeBack q line).ctxs = st.ctxs := by
  unfold State.writeBack
  split
  · split
    · rfl
    · simp
  · rfl

@[simp] theorem State.flushLine_ctxs {q line : Nat} : (st.flushLine q line).ctxs = st.ctxs := by
  unfold State.flushLine
  split
  · simp
  · rfl

@[simp] theorem State.writeBackAs_ctxs {p : PeerLine} {tenant tag : Nat} : (st.writeBackAs p tenant tag).ctxs = st.ctxs := by
  unfold State.writeBackAs
  split <;> rfl

@[simp] theorem State.dropPeerLine_ctxs {line : Nat} : (st.dropPeerLine line).ctxs = st.ctxs := by
  unfold State.dropPeerLine
  extract_lets st₁
  have h₁ : st₁.ctxs = st.ctxs := State.flushLine_ctxs
  split
  · exact State.writeBackAs_ctxs.trans h₁
  · exact h₁

@[simp] theorem State.dropSliceLine_ctxs {line : Nat} : (st.dropSliceLine line).ctxs = st.ctxs := by
  unfold State.dropSliceLine
  extract_lets st₁
  have h₁ : st₁.ctxs = st.ctxs := State.flushLine_ctxs
  split <;> exact h₁

@[simp] theorem State.fitSet_ctxs {g set ways : Nat} : (st.fitSet g set ways).ctxs = st.ctxs := by
  unfold State.fitSet
  extract_lets l
  split
  · rfl
  · split
    · dsimp only
      split <;> simp
    · rfl

@[simp] theorem State.sFill_ctxs {line : Nat} : (st.sFill line).ctxs = st.ctxs := by
  unfold State.sFill State.sliceRoom
  split
  · rfl
  · simp

@[simp] theorem State.sRead_ctxs {pa n : Nat} : (st.sRead pa n).1.ctxs = st.ctxs := by
  unfold State.sRead
  split
  · split <;> rfl
  · split
    · exact State.sFill_ctxs
    · rfl

@[simp] theorem State.fetchLine_ctxs {cid pa : Nat} : (st.fetchLine cid pa).1.ctxs = st.ctxs := by
  unfold State.fetchLine
  split
  · rfl
  · simp

/-- A fetched group leaves every context as it was. -/
theorem State.fetchGroup_ctxs {c : Ctx} {n : Nat} {t : State} {pc : BitVec 57} {acc ws : List W32}
    (h : State.fetchGroup c n st pc acc = .words t ws) : t.ctxs = st.ctxs := by
  induction n generalizing st pc acc with
  | zero => cases h; rfl
  | succ n ih =>
    unfold State.fetchGroup at h
    split at h
    · cases h
    · cases h
    · split at h
      · cases h
      · split at h
        · cases h
        · split at h
          next u line bad e =>
          have hu : u.ctxs = st.ctxs := (congrArg (·.1.ctxs) e).symm.trans State.fetchLine_ctxs
          split at h
          · cases h
          · dsimp only at h
            split at h
            · exact (ih h).trans hu
            · cases h; exact hu

/-! ## What the decoder reads is a word instruction (R75 to R97) -/

/-- A decoded target, if there is one, is a word instruction. -/
structure TargetIsWord (x : Except Nat Instr) : Prop where
  isWord : ∀ i, x = .ok i → i.isWord = true

@[simp] theorem TargetIsWord.error {d : Nat} : TargetIsWord (.error d) := ⟨fun _ h => nomatch h⟩

theorem TargetIsWord.ok {i : Instr} (h : i.isWord = true) : TargetIsWord (.ok i) := by
  refine ⟨fun j hj => ?_⟩
  cases hj; exact h

theorem TargetIsWord.of_finish {w : W32} {a b c : List (Nat × Nat)} {i : Instr} (h : i.isWord = true) :
    TargetIsWord (finish w a b c i) := by
  unfold finish
  split
  · exact .ok h
  · exact .error

/-- Every major's table names word instructions only. -/
theorem decodeTarget_isWord (e : List Ext) (w : W32) : TargetIsWord (decodeTarget e w) := by
  unfold decodeTarget decodeMajor01 decodeMajor07 decodeMajor0B decodeMajor18 decodeMajor19 decodeMajor1E decodeMajor28 decodeMajor29
    decodeMajor2A decodeMajor2F decodeMajor30 decodeMajor34 decodeMajor35 decodeMajor36 decodeMajor3C decodeMajor41 decodeMajor48 decodeMajor49
    decodeMajor4B decodeMajor4C decodeMajor4D decodeMajor4E decodeMajor50 decodeMajor51 decodeMajor52 decodeMajor54 decodeMajor58
  extract_lets op
  repeat' split
  any_goals exact .of_finish (by rfl)
  any_goals exact .ok rfl
  all_goals exact .error

theorem decodeGroup_isWord {es : List W32} {w : W32} {i : Instr} (h : decodeGroup es w = .ok i) : i.isWord = true := by
  unfold decodeGroup at h
  have ht := decodeTarget_isWord (es.filterMap fun x => (parseExt x).1) w
  split at h
  · split at h <;> cases h
  · dsimp only at h
    split at h
    · split at h <;> cases h
    · next e =>
      split at h
      · cases h; exact ht.isWord _ e
      · cases h
    · next e _ =>
      split at h
      · cases h
      · cases h; exact ht.isWord _ ‹_›

theorem decodeWords_isWord {ws rest : List W32} {i : Instr} (h : decodeWords ws = .ok (i, rest)) : i.isWord = true := by
  unfold decodeWords at h
  split at h
  · cases h
  · split at h
    · next e => cases h; exact decodeGroup_isWord e
    · cases h

/-! ## The context from which a core issues (R28, R111, R399) -/

theorem foldl_least_mem {α : Type} (f : α → Nat) (l : List α) (a : α) : l.foldl (fun b c => if f c < f b then c else b) a ∈ a :: l := by
  induction l generalizing a with
  | nil => simp
  | cons x l ih =>
    rw [List.foldl_cons]
    rcases List.mem_cons.1 (ih (if f x < f a then x else a)) with h | h
    · rw [h]
      split <;> simp
    · exact List.mem_cons_of_mem _ (List.mem_cons_of_mem _ h)

theorem mem_of_leastBy {α : Type} {f : α → Nat} {l : List α} {a : α} (h : leastBy f l = some a) : a ∈ l := by
  cases l with
  | nil => cases h
  | cons x l => cases h; exact foldl_least_mem f l x

theorem mem_insertBy {α : Type} {f : α → Nat} {a b : α} {l : List α} (h : b ∈ insertBy f a l) : b = a ∨ b ∈ l := by
  induction l with
  | nil => exact List.mem_cons.1 h
  | cons x l ih =>
    unfold insertBy at h
    split at h
    · exact List.mem_cons.1 h
    · rcases List.mem_cons.1 h with h | h
      · exact .inr (h ▸ List.mem_cons_self ..)
      · exact (ih h).imp_right (List.mem_cons_of_mem _)

theorem mem_sortBy {α : Type} {f : α → Nat} {b : α} {l : List α} (h : b ∈ sortBy f l) : b ∈ l := by
  have key : ∀ (l acc : List α), b ∈ l.foldl (fun acc a => insertBy f a acc) acc → b ∈ acc ∨ b ∈ l := by
    intro l
    induction l with
    | nil => exact fun _ h => .inl h
    | cons x l ih =>
      intro acc h
      rcases ih _ h with h | h
      · rcases mem_insertBy h with rfl | h
        · exact .inr (List.mem_cons_self ..)
        · exact .inl h
      · exact .inr (List.mem_cons_of_mem _ h)
  exact (key l [] h).resolve_left List.not_mem_nil

theorem mem_of_firstBy {f : Ctx → Nat} {l : List Ctx} {c : Ctx} (h : firstBy f l = some c) : c ∈ l := mem_sortBy (mem_of_leastBy h)

theorem State.mem_readyOn (h : st.Keyed) {cid : Nat} {c : Ctx} (hc : c ∈ st.readyOn cid) : st.ctx c.key = some c ∧ st.isReady c = true := by
  obtain ⟨hmem, hp⟩ := List.mem_filter.1 hc
  simp only [Bool.and_eq_true] at hp
  exact ⟨h.ctx_iff.2 hmem, hp.1.2⟩

/-- What a core's current context can be. -/
theorem State.currentOn_ready (h : st.Keyed) {cid : Nat} {c : Ctx} (hc : st.currentOn cid = some c) :
    st.ctx c.key = some c ∧ st.isReady c = true := by
  unfold State.currentOn at hc
  split at hc
  · obtain ⟨hk, hp⟩ := Option.filter_eq_some_iff.1 hc
    simp only [Bool.and_eq_true] at hp
    exact ⟨(h.key_eq hk).symm ▸ hk, hp.2⟩
  · exact State.mem_readyOn h (mem_of_firstBy hc)

/-- What a core issues from is a context of the store that is `READY` and awaits no acceptance. -/
theorem State.issuerOn_ready (h : st.Keyed) {cid : Nat} {c : Ctx} (hc : st.issuerOn cid = some c) :
    (st.ctx c.key = some c ∧ st.isReady c = true) ∧ c.unheld = true := by
  unfold State.issuerOn at hc
  split at hc
  · next e =>
    cases hc
    obtain ⟨hk, hp⟩ := Option.filter_eq_some_iff.1 e
    exact ⟨State.currentOn_ready h hk, hp⟩
  · obtain ⟨hmem, hp⟩ := List.mem_filter.1 (mem_of_firstBy hc)
    exact ⟨State.mem_readyOn h hmem, hp⟩

theorem State.select_ctxs {cid : Nat} : ((st.select cid).getD st).ctxs = st.ctxs := by
  unfold State.select
  split
  · rfl
  · cases firstBy (fun c => c.readyAt) (st.readyOn cid) <;> rfl

/-- Roused, a context is found under its key in the state `READY`. -/
theorem State.ctx_rouse {c : Ctx} (hc : st.ctx c.key = some c) (hr : c.st = .ready ∨ c.st = .parked) :
    (st.rouse c).1.ctx (st.rouse c).2.key = some (st.rouse c).2 ∧ (st.rouse c).2.st = .ready ∧ (st.rouse c).2.pend = c.pend := by
  rcases hr with hr | hr
  · rw [State.rouse, hr]
    exact ⟨hc, hr, rfl⟩
  · rw [State.rouse, hr]
    exact ⟨State.ctx_setCtx_same _ _, rfl, rfl⟩

/-! ## One step -/

theorem Out.Answers.spend {x : Out} (h : x.Answers) {c : Ctx} {n : Nat} : (spend c n x).Answers := by
  cases h with
  | next => exact .next

theorem State.issueGroup_answers {c : Ctx} (hc : st.ctx c.key = some c) (hi : c.canIssue = true) : (st.issueGroup c).Answers := by
  unfold State.issueGroup
  split
  · exact .next
  · exact .next
  · exact .next
  · exact .next
  · next t ws e =>
    have hissuer : State.issuer { t with focus := some c.key } = some c :=
      State.issuer_eq_some.2 ⟨c.key, rfl, by rw [State.ctx, State.fetchGroup_ctxs e]; exact hc, hi⟩
    have hsome := Option.isSome_iff_exists.2 ⟨c, hissuer⟩
    refine Out.Answers.spend ?_
    split
    · next e => exact exec_answers hsome (decodeWords_isWord e)
    · exact issueIllegal_answers hsome

theorem State.issueFrom_answers {c : Ctx} (hc : st.ctx c.key = some c) (hr : c.st = .ready) (hp : c.pend = none) :
    (st.issueFrom c).Answers := by
  unfold State.issueFrom
  split
  · exact .next
  · split
    · exact .next
    · split
      · exact .next
      · next hdue _ => exact State.issueGroup_answers hc (by simpa [Ctx.canIssue, hr, hp] using hdue)

theorem State.issueOn_answers (h : st.Keyed) {cid : Nat} : (st.issueOn cid).Answers := by
  unfold State.issueOn
  split
  · next c e =>
    have hissuer : st.issuerOn cid = some c := by
      split at e
      · exact e
      · cases e
    obtain ⟨⟨hc, hready⟩, hunheld⟩ := State.issuerOn_ready h hissuer
    have hst : c.st = .ready ∨ c.st = .parked := by
      simp only [State.isReady, State.inTurn, Bool.or_eq_true, Bool.and_eq_true, beq_iff_eq] at hready
      exact hready.imp_right fun h => h.1.1
    have hpend : c.pend = none := by
      simp only [Ctx.unheld, Bool.and_eq_true, beq_iff_eq] at hunheld
      exact hunheld.2
    have hsel : ((st.select cid).getD st).ctx c.key = some c := by rw [State.ctx, State.select_ctxs]; exact hc
    obtain ⟨hc', hst', hp'⟩ := State.ctx_rouse hsel hst
    exact State.issueFrom_answers hc' hst' (hp'.trans hpend)
  · exact .next

theorem State.proceed_answers (h : st.Keyed) : st.proceed.Answers := by
  unfold State.proceed
  split
  · exact .next
  · split
    · refine State.issueOn_answers ?_
      exact h
    · exact .next

theorem State.choose_answers (h : st.Keyed) {c : Choice} : (st.choose c).Answers := by
  cases c with
  | event i n =>
    unfold State.choose
    dsimp only
    split <;> exact .next
  | issue cid => exact State.issueOn_answers h
  | tick => exact .next
  | evictData => exact .next
  | evictCode => exact .next
  | evictPeer => exact .next
  | dropEntry => exact .next
  | askNodes => exact .next
  | credits => exact .next
  | upset => exact .next

/-- Settles O6. -/
theorem stepAnswersNext : Obligations.StepAnswersNext := by
  intro s h
  refine Out.Answers.exists_next ?_
  unfold step
  split
  · refine State.choose_answers ?_
    exact h
  · exact State.proceed_answers h

end Sys2Proof.Machine
end

section
/-! # Yield points, ends of tasks, messages and firings -/

namespace Sys2Proof.Machine

/-! ## Fields of a number (R3) -/

theorem bits_zero (x n : Nat) : bits x 0 n = x % 2 ^ n := by simp [bits]

theorem bit_eq (x n : Nat) : bit x n = decide (x / 2 ^ n % 2 = 1) := by
  rw [Bool.eq_iff_iff]; simp [bit]

/-! ## Yield points (R35, R36) -/

/-- A yield point without a wait goes on behind itself with its new limit. -/
theorem settle_yielded {s : State} {c : Ctx} {e : List Ext} {w : W32} {limit : Nat} {plain : Bool} :
    (settle s c (groupWords e) w false (.yielded s c limit none plain)).yieldsTo c c e limit := by
  have hy := s.ctx_retire c (groupWords e) (c.pc + BitVec.ofNat 57 (4 * groupWords e))
  unfold settle
  simp only [Bool.false_eq_true, if_false, hy]
  exact ⟨_, State.ctx_setCtx_same _ _, rfl, rfl, rfl, rfl, rfl, rfl, rfl, rfl, rfl⟩

/-! ## Releases (R209, R278) -/

theorem withFence_releases {s u : State} {c : Ctx} {sc : Nat} {go : State → Ctx → Eff} (h : s.releases c sc u) :
    withFence s c sc false go = go u c := by
  obtain ⟨hq, rfl, hclean⟩ := h
  have : (sc == 6 && !(s.releaseEffects c sc).peersClean) = false := by
    by_cases h6 : sc = 6
    · simp [hclean h6]
    · simp [h6]
  simp only [withFence, hq, Bool.not_true, Bool.false_eq_true, if_false, this]

theorem State.releases.keyed {s u : State} {c : Ctx} {sc : Nat} (h : s.releases c sc u) (hk : s.Keyed) : u.Keyed :=
  h.2.1 ▸ hk.releaseEffects

/-- A body that the start core's bank performs, behind its release. -/
theorem issue_bank {s u t : State} {c : Ctx} {e : List Ext} {x v : List Nat} {w : W32} {body : State → Ctx → Eff} {sc : Nat}
    {go : State → Ctx → Eff} (h : Runs s c e x v) (hu : s.releases c sc u) (hb : body s c = withFence s c sc false go)
    (hg : go u c = atBank (.done t c)) : issue e w (blocks x v) body s = .next (t.pastBank c e c) :=
  issue_done h ((hb.trans (withFence_releases hu)).trans hg)

/-! ## The end of a heavy copy (R256, R336) -/

theorem State.failLaunch_ctxs (s : State) (l : Nat) (r : FaultRec) : (s.failLaunch l r).ctxs = s.ctxs := by
  unfold State.failLaunch
  split
  · split <;> rfl
  · rfl

theorem State.rerun_ctxs (s : State) (f : Nat) (apart : Option (Nat × Nat)) : (s.rerun f apart).ctxs = s.ctxs := by
  unfold State.rerun
  split
  · exact State.modFiring_ctxs _ _ _
  · rfl

theorem State.settleFiring_ctxs (s : State) (f : Nat) (how : CopyEnd) : (s.settleFiring f how).ctxs = s.ctxs := by
  unfold State.settleFiring
  split
  · split
    · rfl
    · extract_lets again
      have hagain : ∀ apart, (again apart).ctxs = s.ctxs := by
        intro apart
        unfold again
        split
        · exact s.rerun_ctxs _ _
        · rfl
      split
      · exact hagain _
      · exact s.failLaunch_ctxs _ _
      · exact hagain _
      · rfl
  · rfl

theorem State.copyEnded_ctxs (s : State) (c : Ctx) : (s.copyEnded c).ctxs = s.ctxs := by
  unfold State.copyEnded
  split
  · exact (State.settleFiring_ctxs _ _ _).trans (State.modFiring_ctxs _ _ _)
  · rfl

section tasks
variable {s u : State} {c : Ctx} {e : List Ext} {d a b : R5}

theorem exec_tend (h : Yields s c []) : exec (.tend e) s = .next (settle s c (groupWords e) (wordOf (.tend e)) false
    (if s.working c then .held s c
     else .ended ((((s.modTenant c.tenant fun t => t.addWork s.time (groupWords e) c.backup).endCtx c endTend).copyEnded c).tickStamp))) := by
  show execTend e s = _
  exact issueFree_yields h

/-- A `chsend` that passes its checks sends once it has released (R257). -/
theorem exec_chsend {v x cid ch : Nat} {far : Option Nat} (hr : Runs s c e [a.toNat, b.toNat] []) (hv : (c.rs a).toNat = v) (hx : (c.rs b).toNat = x)
    (hch : bits v 0 4 = ch) (hcid : bits v 4 12 = cid)
    (hfar : (if bit v 25 && bits v 16 9 != s.pkg then some (bits v 16 9) else none) = far) (hh : c.heavy = false) (h15 : ch ≠ 15)
    (hres : bits v 26 38 = 0) (hvalid : validCid cid = true) (hal : x % 16 = 0) (hin : x ≤ 0x7FFE0)
    (hown : far = none → ∃ k, s.channel ch = some (c.net, k) ∧ (k.sup = true → c.sup = true))
    (hrel : s.releases c (if far = none then 5 else 6) u) :
    exec (.chsend e a b) s = .next ((u.sendMsg c cid ch far ((u.core c.start).lm.readBytes x 32)).pastBank c e c) := by
  show execChsend e a b s = _
  refine issue_bank (go := fun st c => atBank (.done (st.sendMsg c cid ch far ((st.core c.start).lm.readBytes x 32)) c)) hr hrel ?_ rfl
  have hbad : (ch == 15 || bits v 26 38 != 0 || (far.isNone && ((s.channel ch).filter fun p => p.1 == c.net).isNone)) = false := by
    cases far with
    | some p => simp [h15, hres]
    | none =>
      obtain ⟨k, hk, -⟩ := hown rfl
      simp [h15, hres, hk]
  have hpriv : (far.isNone && ((s.channel ch).filter fun p => p.1 == c.net).any (fun p => p.2.sup) && !c.sup) = false := by
    cases far with
    | some p => rfl
    | none =>
      obtain ⟨k, hk, hs⟩ := hown rfl
      cases hks : k.sup with
      | false => simp [hk, hks]
      | true => simp [hs hks]
  have hscope : (if far.isSome then 6 else 5) = if far = none then 5 else 6 := by cases far <;> rfl
  simp only [hv, hx, hch, hcid, hfar, hh, hbad, Bool.false_eq_true, if_false, hscope]
  refine checked_pass ?_
  simp only [List.forall_mem_cons, List.not_mem_nil, false_implies, implies_true, and_true]
  exact ⟨hpriv, by simp [hvalid], by simp [hal], by simp [hin]⟩

/-- An `hspawn` that passes its checks starts a firing once it has released (R258). -/
theorem exec_hspawn {v x ctl : Nat} (hr : Runs s c e [d.toNat, a.toNat, b.toNat] []) (hv : (c.rs a).toNat = v) (hx : (c.rs b).toNat = x)
    (hctl : (c.rs d).toNat = ctl) (hh : c.heavy = false) (hfoot : bits ctl 6 2 ≠ 3) (hlow : bits ctl 10 6 = 0) (hhigh : bits ctl 28 36 = 0)
    (h1 : 1 ≤ bits ctl 16 12) (h2 : bits ctl 16 12 ≤ 2016) (hal : v % 4 = 0) (hal' : x % 16 = 0) (hin : x ≤ 0x7FFE0)
    (hrel : s.releases c 5 u) :
    exec (.hspawn e d a b) s = .next ((u.spawn c v ctl (fourWords ((u.core c.start).lm.readBytes x 32))).pastBank c e c) := by
  show execHspawn e d a b s = _
  refine issue_bank (go := fun st c => atBank (.done (st.spawn c v ctl (fourWords ((st.core c.start).lm.readBytes x 32))) c)) hr hrel ?_ rfl
  have hbad : (bits ctl 6 2 == 3 || bits ctl 16 12 == 0 || decide (2016 < bits ctl 16 12) || bits ctl 10 6 != 0 || bits ctl 28 36 != 0) = false := by
    simp [hfoot, hlow, hhigh, h2]
    omega
  simp only [hv, hx, hctl, hh, checked_cons, checked_nil, hbad, Bool.false_eq_true, if_false]
  simp [hal, hal', hin]

/-- The state behind a commit that leaves for the weir, before its context ends (R260). -/
def State.committing (u : State) (c : Ctx) (v w : Nat) (dd : Descr) : State :=
  let sent : State := ({ u with commits := u.commits ++ [u.newCommit c v w dd] } : State).tickStamp
  match c.firing with
  | some f => sent.modFiring f fun y => { y with commits := y.commits + 1 }
  | none => sent

theorem State.Keyed.committing (h : u.Keyed) (c : Ctx) (v w : Nat) (dd : Descr) : (u.committing c v w dd).Keyed := by
  unfold State.committing
  extract_lets sent
  have hsent : sent.Keyed := h
  split
  · exact hsent.modFiring
  · exact hsent

/-- A `commit` with a good descriptor waits for what its task has under way, releases and ends the task (R259, R260). -/
theorem exec_commit {x v w : Nat} {dd : Descr} (hy : Yields s c [d.toNat, a.toNat, b.toNat]) (hx : (c.rs d).toNat = x) (hv : (c.rs a).toNat = v)
    (hw : (c.rs b).toNat = w) (hdd : descrOf ((s.core c.start).lm.readBytes x 64) = dd) (hh : c.heavy = true) (howns : c.owns x 64 = true)
    (hal : x % 64 = 0) (hin : x ≤ 0x7FFC0) (hpois : (s.core c.start).poisoned x 64 = false) (hok : commitOk v w dd (s.pairArity c) = true)
    (hrange : c.owns dd.rbase dd.rlen = true) :
    exec (.commit e d a b) s = .next (settle s c (groupWords e) (wordOf (.commit e d a b)) false
      (if s.working c then .held s c
       else withFence s c 5 false fun st c => .ended ((st.committing c v w dd).endCtx c endCommit))) := by
  show execCommit e d a b s = _
  refine (issueFree_yields hy).trans (congrArg (fun x => Host.Outcome.next (settle s c (groupWords e) (wordOf (.commit e d a b)) false x)) ?_)
  subst hx hv hw hdd
  simp only [hh, howns, hpois, hok, hrange, Bool.not_true, Bool.false_eq_true, if_false]
  exact checked_pass (by simp [hal, hin])

end tasks

/-- Settles O38. -/
theorem taskForms : Obligations.TaskForms := by
  refine ⟨?_, ?_⟩
  · intro s u c e d a b n v x ctl bytes cid pkg far
    refine ⟨fun hy => ?_, fun hy hk hw => ?_, fun hy hw => ?_, ?_, ?_⟩
    · refine ⟨_, (show execYield e n s = _ from issueFree_yields hy), ?_⟩
      have : (if n == 0 then 4096 else n.toNat) = if n = 0 then 4096 else n.toNat := by simp
      rw [← this]
      exact settle_yielded
    · refine ⟨_, exec_tend hy, ?_⟩
      simp only [hw, Bool.false_eq_true, if_false, settle_ended]
      refine ⟨?_, rfl⟩
      exact (congrArg (Map.find · c.key) (State.copyEnded_ctxs _ c)).trans (State.ctx_endCtx hk.modTenant c endTend)
    · rw [exec_tend hy, hw]
      rfl
    · intro hr hh h15 hres hcid hal hin hfar hrel
      have hfar' : (if bit v 25 && bits v 16 9 != s.pkg then some (bits v 16 9) else none) = far := by
        simp [far, pkg, bit_eq, bits]
      exact exec_chsend hr rfl rfl (bits_zero v 4) rfl hfar' hh h15 hres hcid hal hin hfar hrel
    · intro hr hh hfoot hres hres' h1 h2 hv hal hin hrel
      exact exec_hspawn hr rfl rfl rfl hh hfoot hres hres' h1 h2 hv hal hin hrel
  · intro s u c e d a b hy x v w dd hh howns hal hin hpois hok hrange
    have hexec := exec_commit (e := e) hy rfl rfl rfl rfl hh howns hal hin hpois hok hrange
    refine ⟨fun hw => ?_, fun hw hk hrel => ?_⟩
    · rw [hexec, hw]; rfl
    · intro sent counted
      refine ⟨rfl, rfl, rfl, _, ?_, State.ctx_endCtx ((hrel.keyed hk).committing c v w dd) c endCommit, rfl⟩
      rw [hexec, hw, if_neg Bool.false_ne_true, withFence_releases hrel]
      rfl

end Sys2Proof.Machine
end

section
/-! # A refused group may name a register that its word does not (R36, R111) -/

namespace Sys2Proof.Machine

/-- A task on core 0 that has used up its yield interval. -/
def spentTask : Ctx := { Ctx.fresh 2 0 0 0 1 0 0 (fetchStart 0 0x1000) with used := 4096 }

/-- A load of the task into `s31`, the link register, under way. -/
def linkLoad : Access :=
  { id := 5, grp := 5, uid := 2, key := 0, launch := 0, net := 0, tenant := 0, cid := 0, op := .load, elems := [], ord := ⟨0, 0, 0⟩,
    dest := .sreg 31, sx := false, answer := none, sent := false }

/-- The task issues while its load is under way. -/
def linkAwaited : State := { State.reset with ctxs := [(0, spentTask)], focus := some 0, item := 0, stamp := 10, accs := [linkLoad] }

/-- A `jal` writes `s31`, so that the task is held until its load is answered. -/
theorem exec_linkAwaited : exec (.jal [] 0) linkAwaited = .next (linkAwaited.setCtx { spentTask with held := true }) := by
  show execJal [] 0 linkAwaited = _
  have hissuer : linkAwaited.issuer = some spentTask := by decide +kernel
  have hblocks : blocks [31] [] linkAwaited spentTask = true := by decide +kernel
  unfold execJal issue issueWith
  exact issueWords_held hissuer hblocks

/-- Refutes O43: a `jal` beyond the yield interval whose link register awaits a load is held, as R111 says, and has no fault due; the
clause on the yield interval asks only that the registers of the other forms, here `s0`, are free. -/
theorem not_contextEvents : ¬ Obligations.ContextEvents := by
  intro h
  obtain ⟨-, hlate, -⟩ := h.1 linkAwaited spentTask (by decide +kernel)
  have hdue := hlate [] 0 0 0 0 0 (.jal [] 0) (by decide +kernel) (by decide +kernel) (by simp) (by decide +kernel)
  rw [exec_linkAwaited] at hdue
  have hheld : some true = some false := congrArg (fun t => (t.ctx spentTask.key).map Ctx.held) (Host.Outcome.next.inj hdue)
  cases hheld

end Sys2Proof.Machine
end

section
/-! # The numbers of the matrix unit: rounding, exact values, trees and clamps -/

namespace Sys2Proof.Machine

/-! ## `RoundMat` (R63) -/

theorem Fmt.withSign_lt {f : Fmt} {neg : Bool} {m : Nat} (h : m < f.signBit) : f.withSign neg m < 2 * f.signBit := by
  unfold Fmt.withSign
  split <;> omega

theorem Fmt.inf_lt_signBit (f : Fmt) : f.inf < f.signBit := by
  have hw : 0 < 2 ^ f.fw := Nat.two_pow_pos _
  have hm : 2 ^ f.ew - 1 < 2 ^ f.ew := Nat.sub_lt (Nat.two_pow_pos _) Nat.one_pos
  unfold Fmt.inf Fmt.signBit
  rw [Nat.pow_add]
  exact (Nat.mul_lt_mul_right hw).2 hm

/-- A rounded number is a pattern of its format. -/
theorem Fmt.round_lt (f : Fmt) (rm : Nat) (neg : Bool) (num den : Nat) : (f.round rm neg num den).val < 2 * f.signBit := by
  have hinf := f.inf_lt_signBit
  unfold Fmt.round
  split
  · exact Fmt.withSign_lt (by omega)
  · extract_lets e emin top mi p toInf free tiny
    split
    · refine Fmt.withSign_lt ?_
      split <;> omega
    · exact Fmt.withSign_lt (by omega)

theorem roundVal_f32_lt (v : FVal) : (f32.roundVal 0 v).val < 2 ^ 32 := by
  cases v with
  | nan => decide
  | inf s => cases s <;> decide
  | fin s n d => exact f32.round_lt 0 s n d

theorem matRound_lt (v : FVal) : matRound v < 2 ^ 32 := by
  have := roundVal_f32_lt v
  unfold matRound
  extract_lets r
  split <;> omega

theorem matRound_ne (v : FVal) : matRound v ≠ 0x80000000 := by
  unfold matRound
  extract_lets r
  split
  · decide
  · next h => exact fun e => h (by rw [e]; decide)

theorem matRound_of_ne {v : FVal} (h : (f32.roundVal 0 v).val ≠ 0x80000000) : matRound v = (f32.roundVal 0 v).val := by
  have hs : f32.signBit = 0x80000000 := by decide
  simp [matRound, hs, h]

/-! ## Integers (R66) -/

theorem wrap_lt (n : Nat) (z : Int) : wrap n z < 2 ^ n := by
  have hn : (0 : Int) < (2 ^ n : Nat) := by exact_mod_cast Nat.two_pow_pos n
  have h0 := Int.emod_nonneg z hn.ne'
  have h1 := Int.emod_lt_of_pos z hn
  unfold wrap
  omega

theorem signed_wrap {z : Int} (hl : -2 ^ 31 ≤ z) (hu : z < 2 ^ 31) : signed 32 (wrap 32 z) = z := by
  unfold signed wrap
  split <;> omega

/-- An integer accumulation clamps to 32 bits and tells whether it did. -/
theorem accumI_clamps (c : Nat) (p : Int) :
    let x := signed 32 c + p
    signed 32 (accumI c p).1 = max (-2 ^ 31) (min (2 ^ 31 - 1) x) ∧ ((accumI c p).2 = true ↔ x < -2 ^ 31 ∨ 2 ^ 31 - 1 < x) := by
  intro x
  refine ⟨?_, ?_⟩
  · show signed 32 (wrap 32 (if x < -(2 ^ 31) then -(2 ^ 31) else if 2 ^ 31 - 1 < x then 2 ^ 31 - 1 else x)) = _
    rw [signed_wrap]
    all_goals split <;> try split
    all_goals omega
  · simp [accumI, x]

theorem accumI_lt (c : Nat) (p : Int) : (accumI c p).1 < 2 ^ 32 := wrap_lt _ _

/-! ## Exact values (R63) -/

/-- Every finite value has a positive denominator. -/
def FVal.sound (a : FVal) : Prop := ∀ n p d, a = .fin n p d → 0 < d

theorem FVal.add_fin (s t : Bool) (n m d k : Nat) : ∃ z : Int, z = (FVal.fin s n d).frac.1 * k + (FVal.fin t m k).frac.1 * d ∧
    (FVal.fin s n d).add (.fin t m k) = .fin (decide (z < 0)) z.natAbs (d * k) := ⟨_, rfl, rfl⟩

theorem FVal.add_rat {s t : Bool} {n m d k : Nat} (hd : 0 < d) (hk : 0 < k) :
    ((FVal.fin s n d).add (.fin t m k)).rat = (FVal.fin s n d).rat + (FVal.fin t m k).rat := by
  obtain ⟨z, hz, e⟩ := FVal.add_fin s t n m d k
  have hfrac : (FVal.fin (decide (z < 0)) z.natAbs (d * k)).frac.1 = z := by
    rcases lt_or_ge z 0 with h | h
    · simp [FVal.frac, h, abs_of_neg h]
    · simp [FVal.frac, not_lt_of_ge h, abs_of_nonneg h]
  have hd' : (d : ℚ) ≠ 0 := by positivity
  have hk' : (k : ℚ) ≠ 0 := by positivity
  rw [e, FVal.rat_fin, FVal.rat_fin s, FVal.rat_fin t, hfrac, hz, div_add_div _ _ hd' hk']
  push_cast
  ring

theorem FVal.times_rat (s t : Bool) (n m d k : Nat) :
    ((FVal.fin s n d).times (.fin t m k)).rat = (FVal.fin s n d).rat * (FVal.fin t m k).rat := by
  show (FVal.fin (s != t) (n * m) (d * k)).rat = _
  rw [FVal.rat, FVal.rat, FVal.rat]
  push_cast
  rw [mul_mul_mul_comm, div_mul_div_comm]
  cases s <;> cases t <;> norm_num

/-- An infinity beside another value. -/
theorem FVal.inf_cases (n : Bool) (b : FVal) :
    (b.finite = true → (FVal.inf n).add b = .inf n ∧ b.add (.inf n) = .inf n ∧
      (FVal.inf n).times b = (if b.isZero then .nan else .inf (n != b.sign)) ∧ b.times (.inf n) = (FVal.inf n).times b) ∧
    ∀ m, b = .inf m → (FVal.inf n).add b = (if n = m then .inf n else .nan) ∧ (FVal.inf n).times b = .inf (n != m) := by
  refine ⟨fun hb => ?_, ?_⟩
  · cases b with
    | nan => cases hb
    | inf m => cases hb
    | fin t m k =>
      refine ⟨rfl, rfl, ?_, ?_⟩
      · by_cases hm : m = 0 <;> simp [FVal.times, FVal.mul, FVal.isZero, FVal.sign, hm]
      · by_cases hm : m = 0 <;> simp [FVal.times, FVal.mul, hm, Bool.xor_comm]
  · rintro m rfl
    refine ⟨?_, rfl⟩
    simp [FVal.add]

/-! ## The tree of R67 -/

section tree
variable {α : Type} (f : α → α → α × Nat)

/-- What a node of the tree holds: its children's values combined, or the only one (R67). -/
def joined : Option α → Option α → Option α
  | some x, some y => some (f x y).1
  | some x, none => some x
  | none, z => z

theorem treeLevel_map (n : Nat) (T : Nat → Option α) :
    (treeLevel f ((List.range (2 * n)).map T)).1 = (List.range n).map fun i => joined f (T (2 * i)) (T (2 * i + 1)) := by
  induction n generalizing T with
  | zero => rfl
  | succ n ih =>
    have hl : (List.range (2 * (n + 1))).map T = T 0 :: T 1 :: (List.range (2 * n)).map fun i => T (i + 2) := by
      rw [Nat.mul_add, List.range_succ_eq_map, List.range_succ_eq_map]
      simp [Function.comp_def]
    rw [hl, List.range_succ_eq_map, List.map_cons, List.map_map]
    have hrest := ih fun i => T (i + 2)
    unfold treeLevel
    cases T 0 <;> cases T 1 <;> simp [hrest, joined, Function.comp_def, Nat.mul_add]

/-- The root of the tree over 2^n leaves. -/
theorem treeFold_map (n l : Nat) (T : Nat → Nat → Option α) (hT : ∀ l i, T (l + 1) i = joined f (T l (2 * i)) (T l (2 * i + 1))) :
    (treeFold f n ((List.range (2 ^ n)).map (T l))).1 = T (l + n) 0 := by
  induction n generalizing l with
  | zero => rfl
  | succ n ih =>
    have hlevel : (treeLevel f ((List.range (2 ^ (n + 1))).map (T l))).1 = (List.range (2 ^ n)).map (T (l + 1)) := by
      rw [pow_succ', treeLevel_map]
      exact List.map_congr_left fun i _ => (hT l i).symm
    rw [treeFold]
    dsimp only
    rw [hlevel, ih, Nat.add_right_comm, Nat.add_assoc]

end tree

/-- The products of a half-precision step stand at the leaves of its tree. -/
theorem stepLeaves {a b : List FVal} {T : Nat → Option FVal} (ha : a.length ≤ 32)
    (hT : ∀ i, T i = match a[i]?, b[i]? with
      | some x, some y => some (x.times y)
      | _, _ => none) :
    let p := (a.zip b).map fun x => some (x.1.times x.2)
    p ++ List.replicate (32 - p.length) none = (List.range 32).map T := by
  intro p
  have hp : p.length ≤ 32 := by simp [p]; omega
  refine List.ext_getElem? fun i => ?_
  rcases Nat.lt_or_ge i 32 with hi | hi
  · rw [List.getElem?_map, List.getElem?_range hi, Option.map_some, hT, List.getElem?_append, List.getElem?_replicate]
    have hlen : p.length = min a.length b.length := by simp [p]
    by_cases h : i < a.length ∧ i < b.length
    · simp [h.1, h.2, p]
    · have hge : ¬ i < p.length := by omega
      rw [if_neg hge, if_pos (by omega)]
      rcases Nat.lt_or_ge i a.length with ha | ha
      · rw [List.getElem?_eq_none (l := b) (by omega)]
        cases a[i]? <;> rfl
      · rw [List.getElem?_eq_none ha]
  · rw [List.getElem?_eq_none (by simp; omega), List.getElem?_eq_none (by simp [hi])]

theorem stepValue_half {f : Nat} (hf : f ∈ [3, 4]) {a b : List FVal} {T : Nat → Nat → Option FVal} (ha : a.length ≤ 32) (hT : IsMatTree T)
    (h0 : ∀ i, T 0 i = match a[i]?, b[i]? with
      | some x, some y => some (x.times y)
      | _, _ => none) :
    stepValue f a b = match T 5 0 with
      | some v => f32.value (matRound v)
      | none => .fin false 0 1 := by
  have hf5 : (f == 5) = false := by
    simp only [List.mem_cons, List.not_mem_nil, or_false] at hf
    rcases hf with rfl | rfl <;> rfl
  have hroot : (treeFold (fun x y : FVal => (matVal (x.add y), 0)) 5 ((List.range 32).map (T 0))).1 = T 5 0 :=
    treeFold_map _ 5 0 T fun l i => by rw [hT l i]; cases T l (2 * i) <;> cases T l (2 * i + 1) <;> rfl
  unfold stepValue
  rw [hf5, if_neg Bool.false_ne_true]
  dsimp only
  rw [stepLeaves ha h0, hroot]
  rfl

end Sys2Proof.Machine
end

section
/-! # K-steps: what they write, and where -/

namespace Sys2Proof.Machine

/-! ## Stores of elements that read zero where unlisted (R170) -/

theorem getZero_putZero (m : Map W32) (k v n : Nat) : getZero (putZero m k v) n = if n = k then v % 2 ^ 32 else getZero m n := by
  unfold putZero getZero Map.getD
  split
  · next hv =>
    by_cases hn : n = k
    · subst hn
      rw [Map.find_del_same, if_pos rfl, eq_of_beq hv]
      rfl
    · rw [Map.find_del_other _ hn, if_neg hn]
  · rw [Map.find_put]
    split
    · exact BitVec.toNat_ofNat v 32
    · rfl

section fold
variable {ι : Type} (key val : ι → Nat)

theorem getZero_foldl_other {l : List ι} {n : Nat} (m : Map W32) (h : ∀ i ∈ l, key i ≠ n) :
    getZero (l.foldl (fun m i => putZero m (key i) (val i)) m) n = getZero m n := by
  induction l generalizing m with
  | nil => rfl
  | cons x l ih =>
    rw [List.forall_mem_cons] at h
    rw [List.foldl_cons, ih _ h.2, getZero_putZero, if_neg (Ne.symm h.1)]

/-- What is written under a key of its own is read there. -/
theorem getZero_foldl_mem {l : List ι} {i : ι} (m : Map W32) (hi : i ∈ l) (hkey : ∀ j ∈ l, key j = key i → j = i) :
    getZero (l.foldl (fun m i => putZero m (key i) (val i)) m) (key i) = val i % 2 ^ 32 := by
  induction l generalizing m with
  | nil => cases hi
  | cons x l ih =>
    rw [List.forall_mem_cons] at hkey
    rw [List.foldl_cons]
    by_cases hl : i ∈ l
    · exact ih _ hl hkey.2
    · obtain rfl := (List.mem_cons.1 hi).resolve_right hl
      rw [getZero_foldl_other _ _ _ fun j hj e => hl (hkey.2 j hj e ▸ hj), getZero_putZero, if_pos rfl]

end fold

/-- The key of element (i, j) of a window. -/
def Win.elKey (w : Win) (p : Nat × Nat) : Nat := (w.row + p.1) * 128 + w.col + p.2

theorem Win.elKey_inj {w : Win} (hcol : w.col + w.nc ≤ 128) {p q : Nat × Nat} (hp : p.2 < w.nc) (hq : q.2 < w.nc) (h : w.elKey p = w.elKey q) :
    p = q := by
  unfold Win.elKey at h
  refine Prod.ext ?_ ?_ <;> omega

/-- The places of a window, row by row. -/
def Win.places (w : Win) : List (Nat × Nat) := (List.range w.nr).flatMap fun i => (List.range w.nc).map fun j => (i, j)

theorem Win.mem_places {w : Win} {p : Nat × Nat} : p ∈ w.places ↔ p.1 < w.nr ∧ p.2 < w.nc := by
  obtain ⟨i, j⟩ := p
  simp [Win.places]

theorem Cluster.setWin_acc (g : Cluster) (w : Win) (f : Nat → Nat → Nat) :
    (g.setWin w f).acc = w.places.foldl (fun m p => putZero m (w.elKey p) (f p.1 p.2)) g.acc := by
  simp only [Cluster.setWin, Win.places, Win.elKey, List.foldl_flatMap, List.foldl_map]

section window
variable (g : Cluster) {w : Win} (hcol : w.col + w.nc ≤ 128)
include hcol

theorem Cluster.setWin_el (f : Nat → Nat → Nat) {i j : Nat} (hi : i < w.nr) (hj : j < w.nc) :
    (g.setWin w f).el w i j = f i j % 2 ^ 32 := by
  unfold Cluster.el
  rw [Cluster.setWin_acc]
  exact getZero_foldl_mem w.elKey (fun p => f p.1 p.2) (i := (i, j)) g.acc (Win.mem_places.2 ⟨hi, hj⟩) fun p hp e =>
    Win.elKey_inj hcol (Win.mem_places.1 hp).2 hj e

theorem Cluster.setWin_outside (f : Nat → Nat → Nat) {n : Nat}
    (hn : n / 128 < w.row ∨ w.row + w.nr ≤ n / 128 ∨ n % 128 < w.col ∨ w.col + w.nc ≤ n % 128) :
    getZero (g.setWin w f).acc n = getZero g.acc n := by
  rw [Cluster.setWin_acc]
  refine getZero_foldl_other w.elKey (fun p => f p.1 p.2) g.acc fun p hp e => ?_
  have hp := Win.mem_places.1 hp
  simp only [Win.elKey] at e
  omega

end window

section sums
variable (g : Cluster) (w : Win) (f h : Nat → Nat)

theorem Cluster.setSums_cc {i : Nat} (hi : i < w.nr) : getZero (g.setSums w f h).cc (w.ccKey i) = f i % 2 ^ 32 :=
  getZero_foldl_mem w.ccKey f g.cc (List.mem_range.2 hi) fun j _ e => by unfold Win.ccKey at e; omega

theorem Cluster.setSums_cr {j : Nat} (hj : j < w.nc) : getZero (g.setSums w f h).cr (w.crKey j) = h j % 2 ^ 32 :=
  getZero_foldl_mem w.crKey h g.cr (List.mem_range.2 hj) fun i _ e => by unfold Win.crKey at e; omega

theorem Cluster.setSums_cc_outside {n : Nat} (hn : n < w.ccKey 0 ∨ w.ccKey w.nr ≤ n) : getZero (g.setSums w f h).cc n = getZero g.cc n :=
  getZero_foldl_other w.ccKey f g.cc fun i hi => by have := List.mem_range.1 hi; unfold Win.ccKey at *; omega

theorem Cluster.setSums_cr_outside {n : Nat} (hn : n < w.crKey 0 ∨ w.crKey w.nc ≤ n) : getZero (g.setSums w f h).cr n = getZero g.cr n :=
  getZero_foldl_other w.crKey h g.cr fun i hi => by have := List.mem_range.1 hi; unfold Win.crKey at *; omega

end sums

/-! ## The operands of a K-step and what it accumulates from them (R64 to R70, R175, R176) -/

theorem Core.kRow_length (k : Core) (f b b' n kb : Nat) : (k.kRow f b n kb).length = (k.kRow f b' n kb).length := by simp [Core.kRow]

section operands
variable (g : Cluster) (k : Core) (w : Win) (oa ob : BitVec 128) (idx : List Nat) (n : Nat)

/-- The elements of row `x` of operand a. -/
def Core.aRow (x : Nat) : List Nat := k.kRow (odFmt oa) (odBase oa + x * odPitch oa) n (min (odKB oa) (odKB ob))

/-- The elements of row `j` of operand b, the window's column `j`. -/
def Core.bRow (j : Nat) : List Nat := k.kRow (if w.f32w then odFmt oa else odFmt ob) (odBase ob + j * odPitch ob) n (min (odKB oa) (odKB ob))

def Core.aVals (x : Nat) : List FVal := (k.aRow oa ob n x).map (elemValue (odFmt oa))

def Core.bVals (j : Nat) : List FVal := (k.bRow w oa ob n j).map (elemValue (odFmt oa))

def Core.aInts (x : Nat) : List Int := (k.aRow oa ob n x).map (elemInt (odFmt oa))

def Core.bInts (j : Nat) : List Int := (k.bRow w oa ob n j).map (elemInt (odFmt ob))

/-- The sums over the rows of operand a, at each place of K, with their scales. -/
def Core.aSums : List FVal := (List.range (k.aRow oa ob n 0).length).map fun y =>
  matVal (sumVals (idx.map fun x => (k.scaleOf oa x).times (((k.aVals oa ob n x)[y]?).getD (.fin false 0 1))))

/-- The sums over the rows of operand b, at each place of K, with their scales. -/
def Core.bSums : List FVal := (List.range (k.aRow oa ob n 0).length).map fun y =>
  matVal (sumVals ((List.range w.nc).map fun j => (k.scaleOf ob j).times (((k.bVals w oa ob n j)[y]?).getD (.fin false 0 1))))

def Core.aIntSums : List Int := (List.range (k.aRow oa ob n 0).length).map fun y => (idx.map fun x => ((k.aInts oa ob n x)[y]?).getD 0).sum

def Core.bIntSums : List Int := (List.range (k.aRow oa ob n 0).length).map fun y =>
  ((List.range w.nc).map fun j => ((k.bInts w oa ob n j)[y]?).getD 0).sum

/-- Element (i, j) behind a K-step, for row `x` of operand a. -/
def Cluster.stepEl (i j x : Nat) : Nat :=
  if w.f32w then accumF (g.el w i j) (stepValue (odFmt oa) (k.aVals oa ob n x) (k.bVals w oa ob n j))
    (if odScv oa || odScv ob then some (matVal ((k.scaleOf oa x).times (k.scaleOf ob j))) else none)
  else (accumI (g.el w i j) (dotInts (k.aInts oa ob n x) (k.bInts w oa ob n j))).1

/-- The checksum of row i behind a K-step, for row `x` of operand a. -/
def Cluster.stepCc (i x : Nat) : Nat :=
  if w.f32w then
    matRound ((f32.value (getZero g.cc (w.ccKey i))).add (matVal ((k.scaleOf oa x).times (dotVals (k.aVals oa ob n x) (k.bSums w oa ob n)))))
  else (((getZero g.cc (w.ccKey i) : Int) + dotInts (k.aInts oa ob n x) (k.bIntSums w oa ob n)) % 2 ^ 32).toNat

/-- The checksum of column j behind a K-step. -/
def Cluster.stepCr (j : Nat) : Nat :=
  if w.f32w then
    matRound ((f32.value (getZero g.cr (w.crKey j))).add (matVal ((k.scaleOf ob j).times (dotVals (k.aSums oa ob idx n) (k.bVals w oa ob n j)))))
  else (((getZero g.cr (w.crKey j) : Int) + dotInts (k.aIntSums oa ob idx n) (k.bInts w oa ob n j)) % 2 ^ 32).toNat

/-- An element is clamped in a K-step (R66). -/
def Cluster.stepClamps : Prop :=
  w.f32w = false ∧ ∃ i j x, idx[i]? = some x ∧ j < w.nc ∧ (accumI (g.el w i j) (dotInts (k.aInts oa ob n x) (k.bInts w oa ob n j))).2 = true

end operands

/-! ## What a K-step writes -/

/-- `y` is the cluster behind a K-step of `g`: elements, checksums and saturation. -/
structure Cluster.Stepped (g y : Cluster) (k : Core) (w : Win) (oa ob : BitVec 128) (idx : List Nat) (ck : Bool) (n : Nat) : Prop where
  el : ∀ i j x, idx[i]? = some x → j < w.nc → y.el w i j = g.stepEl k w oa ob n i j x
  outside : ∀ m, (m / 128 < w.row ∨ w.row + w.nr ≤ m / 128 ∨ m % 128 < w.col ∨ w.col + w.nc ≤ m % 128) → getZero y.acc m = getZero g.acc m
  sums : ck = true → w.ckv = true → 0 < w.nr →
    (∀ i x, idx[i]? = some x → getZero y.cc (w.ccKey i) = g.stepCc k w oa ob n i x) ∧
    (∀ j, j < w.nc → getZero y.cr (w.crKey j) = g.stepCr k w oa ob idx n j) ∧
    ∀ m, ((m < w.ccKey 0 ∨ w.ccKey w.nr ≤ m) → getZero y.cc m = getZero g.cc m) ∧
      ((m < w.crKey 0 ∨ w.crKey w.nc ≤ m) → getZero y.cr m = getZero g.cr m)
  plain : ck = false ∨ w.ckv = false → y.cc = g.cc ∧ y.cr = g.cr
  sat : (g.stepClamps k w oa ob idx n → y.sat = NatSet.add g.sat w.blk) ∧ (¬ g.stepClamps k w oa ob idx n → y.sat = g.sat)

section step
variable {g : Cluster} {k : Core} {w : Win} {oa ob : BitVec 128} {idx : List Nat} {ck : Bool} {n : Nat}

theorem Cluster.stepEl_lt (i j x : Nat) : g.stepEl k w oa ob n i j x < 2 ^ 32 := by
  unfold Cluster.stepEl
  split
  · exact matRound_lt _
  · exact accumI_lt _ _

theorem exists_head (h : 0 < idx.length) : ∃ x, idx.head? = some x :=
  Option.isSome_iff_exists.1 (List.isSome_head?.2 (List.ne_nil_of_length_pos h))

theorem toNat_emod_lt (z : Int) : (z % 2 ^ 32).toNat < 2 ^ 32 := by omega

theorem Cluster.stepCc_lt (i x : Nat) : g.stepCc k w oa ob n i x < 2 ^ 32 := by
  unfold Cluster.stepCc
  split
  · exact matRound_lt _
  · exact toNat_emod_lt _

theorem Cluster.stepCr_lt (j : Nat) : g.stepCr k w oa ob idx n j < 2 ^ 32 := by
  unfold Cluster.stepCr
  split
  · exact matRound_lt _
  · exact toNat_emod_lt _

/-- A cluster whose window, and whose checksums where they count, are written with the values of a K-step. -/
theorem Cluster.Stepped.of_writes {y z : Cluster} {f : Nat → Nat → Nat} {c r : Nat → Nat} (hlen : idx.length = w.nr) (hcol : w.col + w.nc ≤ 128)
    (hy : y = if ck && w.ckv then z.setSums w c r else z) (hacc : z.acc = (g.setWin w f).acc) (hcc : z.cc = g.cc) (hcr : z.cr = g.cr)
    (hf : ∀ i j x, idx[i]? = some x → j < w.nc → f i j = g.stepEl k w oa ob n i j x)
    (hc : 0 < w.nr → ∀ i x, idx[i]? = some x → c i = g.stepCc k w oa ob n i x)
    (hr : 0 < w.nr → ∀ j, j < w.nc → r j = g.stepCr k w oa ob idx n j)
    (hsat : (g.stepClamps k w oa ob idx n → z.sat = NatSet.add g.sat w.blk) ∧ (¬ g.stepClamps k w oa ob idx n → z.sat = g.sat)) :
    g.Stepped y k w oa ob idx ck n := by
  have hlt {i x : Nat} (h : idx[i]? = some x) : i < w.nr := hlen ▸ (List.getElem?_eq_some_iff.1 h).1
  have hyacc : y.acc = (g.setWin w f).acc := by
    rw [hy, ← hacc]
    split <;> rfl
  have hysat : y.sat = z.sat := by
    rw [hy]
    split <;> rfl
  refine ⟨fun i j x hx hj => ?_, fun m hm => ?_, fun h1 h2 hn => ?_, fun h => ?_, hysat.symm ▸ hsat⟩
  · have h := g.setWin_el hcol f (hlt hx) hj
    rw [hf i j x hx hj, Nat.mod_eq_of_lt (Cluster.stepEl_lt i j x)] at h
    rw [← h, Cluster.el, hyacc]
    rfl
  · rw [hyacc, g.setWin_outside hcol f hm]
  · rw [h1, h2, Bool.and_self, if_pos rfl] at hy
    subst hy
    refine ⟨fun i x hx => ?_, fun j hj => ?_, fun m => ⟨fun hm => ?_, fun hm => ?_⟩⟩
    · rw [z.setSums_cc w c r (hlt hx), hc hn i x hx, Nat.mod_eq_of_lt (Cluster.stepCc_lt i x)]
    · rw [z.setSums_cr w c r hj, hr hn j hj, Nat.mod_eq_of_lt (Cluster.stepCr_lt j)]
    · rw [z.setSums_cc_outside w c r hm, hcc]
    · rw [z.setSums_cr_outside w c r hm, hcr]
  · have hoff : (ck && w.ckv) = false := by rcases h with h | h <;> simp [h]
    rw [hy, hoff, if_neg Bool.false_ne_true]
    exact ⟨hcc, hcr⟩

/-- A floating-point K-step. -/
theorem Cluster.stepF_steps (hf : w.f32w = true) (hlen : idx.length = w.nr) (hcol : w.col + w.nc ≤ 128) :
    g.Stepped (g.stepF k w oa ob idx ck n) k w oa ob idx ck n := by
  have hclamps : ¬ g.stepClamps k w oa ob idx n := fun h => Bool.false_ne_true (h.1.symm.trans hf)
  unfold Cluster.stepF
  extract_lets kb t a b scaled row col g' width at' sas sbs
  have hrow {i x : Nat} (hx : idx[i]? = some x) : row i = (k.aVals oa ob n x, k.scaleOf oa x) := by
    simp only [row, a, List.getElem?_map, hx, Option.map_some, Option.getD_some]
    rfl
  have hcolv {j : Nat} (hj : j < w.nc) : col j = (k.bVals w oa ob n j, k.scaleOf ob j) := by
    simp only [col, b, List.getElem?_map, List.getElem?_range hj, Option.map_some, Option.getD_some, Core.bVals, Core.bRow, hf, if_true]
    rfl
  have hwidth (hn : 0 < w.nr) : width = (k.aRow oa ob n 0).length := by
    obtain ⟨x, hx⟩ := exists_head (hlen ▸ hn)
    simp only [width, a, List.head?_map, hx, Option.map_some, Option.getD_some, List.length_map]
    exact Core.kRow_length _ _ _ _ _ _
  have hsas (hn : 0 < w.nr) : sas = k.aSums oa ob idx n := by
    simp only [sas, a, hwidth hn, List.map_map]
    rfl
  have hsbs (hn : 0 < w.nr) : sbs = k.bSums w oa ob n := by
    simp only [sbs, b, hwidth hn, List.map_map, Core.bSums, Core.bVals, Core.bRow, hf, if_true]
    rfl
  refine Cluster.Stepped.of_writes hlen hcol rfl rfl rfl rfl (fun i j x hx hj => ?_) (fun hn i x hx => ?_) (fun hn j hj => ?_)
    ⟨fun h => (hclamps h).elim, fun _ => rfl⟩
  · rw [hrow hx, hcolv hj, Cluster.stepEl, hf, if_pos rfl]
  · rw [hrow hx, hsbs hn, Cluster.stepCc, hf, if_pos rfl]
  · rw [hcolv hj, hsas hn, Cluster.stepCr, hf, if_pos rfl]

/-- An integer K-step. -/
theorem Cluster.stepI_steps (hf : w.f32w = false) (hlen : idx.length = w.nr) (hcol : w.col + w.nc ≤ 128) :
    g.Stepped (g.stepI k w oa ob idx ck n) k w oa ob idx ck n := by
  unfold Cluster.stepI
  extract_lets kb a b row col r clamped g' g'' width sas sbs
  have hrow {i x : Nat} (hx : idx[i]? = some x) : row i = k.aInts oa ob n x := by
    simp only [row, a, List.getElem?_map, hx, Option.map_some, Option.getD_some]
    rfl
  have hcolv {j : Nat} (hj : j < w.nc) : col j = k.bInts w oa ob n j := by
    simp only [col, b, List.getElem?_map, List.getElem?_range hj, Option.map_some, Option.getD_some, Core.bInts, Core.bRow, hf,
      Bool.false_eq_true, if_false]
    rfl
  have hwidth (hn : 0 < w.nr) : width = (k.aRow oa ob n 0).length := by
    obtain ⟨x, hx⟩ := exists_head (hlen ▸ hn)
    simp only [width, a, List.head?_map, hx, Option.map_some, Option.getD_some, List.length_map]
    exact Core.kRow_length _ _ _ _ _ _
  have hsas (hn : 0 < w.nr) : sas = k.aIntSums oa ob idx n := by
    simp only [sas, a, hwidth hn, List.map_map]
    rfl
  have hsbs (hn : 0 < w.nr) : sbs = k.bIntSums w oa ob n := by
    simp only [sbs, b, hwidth hn, List.map_map, Core.bIntSums, Core.bInts, Core.bRow, hf, Bool.false_eq_true, if_false]
    rfl
  have hclamped : clamped = true ↔ g.stepClamps k w oa ob idx n := by
    simp only [clamped, List.any_eq_true, List.mem_range]
    constructor
    · rintro ⟨i, hi, j, hj, h⟩
      obtain ⟨x, hx⟩ : ∃ x, idx[i]? = some x := ⟨_, List.getElem?_eq_getElem (hlen.symm ▸ hi)⟩
      refine ⟨hf, i, j, x, hx, hj, ?_⟩
      rw [← hrow hx, ← hcolv hj]
      exact h
    · rintro ⟨-, i, j, x, hx, hj, h⟩
      refine ⟨i, hlen ▸ (List.getElem?_eq_some_iff.1 hx).1, j, hj, ?_⟩
      rw [← hrow hx, ← hcolv hj] at h
      exact h
  refine Cluster.Stepped.of_writes (z := g'') (f := fun i j => (r i j).1) hlen hcol rfl ?_ ?_ ?_ (fun i j x hx hj => ?_) (fun hn i x hx => ?_) (fun hn j hj => ?_)
    ⟨fun h => ?_, fun h => ?_⟩
  · unfold g''; split <;> rfl
  · unfold g''; split <;> rfl
  · unfold g''; split <;> rfl
  · simp only [r, hrow hx, hcolv hj, Cluster.stepEl, hf, Bool.false_eq_true, if_false]
  · rw [hrow hx, hsbs hn, Cluster.stepCc, hf, if_neg Bool.false_ne_true]
    rfl
  · rw [hcolv hj, hsas hn, Cluster.stepCr, hf, if_neg Bool.false_ne_true]
    rfl
  · unfold g''; rw [if_pos (hclamped.2 h)]; rfl
  · unfold g''; rw [if_neg fun e => h (hclamped.1 e)]; rfl

/-- A K-step of an `mma` on a window of either kind. -/
def Cluster.kStep (g : Cluster) (k : Core) (w : Win) (oa ob : BitVec 128) (idx : List Nat) (ck : Bool) (n : Nat) : Cluster :=
  if w.f32w then g.stepF k w oa ob idx ck n else g.stepI k w oa ob idx ck n

theorem Cluster.kStep_steps (hlen : idx.length = w.nr) (hcol : w.col + w.nc ≤ 128) :
    g.Stepped (g.kStep k w oa ob idx ck n) k w oa ob idx ck n := by
  unfold Cluster.kStep
  split
  · next hf => exact Cluster.stepF_steps hf hlen hcol
  · next hf => exact Cluster.stepI_steps (Bool.eq_false_iff.2 hf) hlen hcol

end step

end Sys2Proof.Machine
end

section
/-! # K-steps of the matrix unit (R175, R176, R194) -/

namespace Sys2Proof.Machine

/-! ## Work of a task (R25, R398) -/

section credit
variable (s : State) (q n : Nat)

theorem State.cluster_credit (g : Nat) : (s.credit q n).cluster g = s.cluster g := by
  unfold State.credit
  split <;> rfl

theorem State.credit_ctx {c : Ctx} (h : s.ctx c.key = some c) : (s.credit c.key n).ctx c.key = some { c with rwc := c.rwc + n } ∧
    (s.credit c.key n).tenant c.tenant = (s.tenant c.tenant).addWork s.time n c.backup := by
  unfold State.credit
  rw [h]
  refine ⟨State.ctx_setCtx_same _ _, ?_⟩
  unfold State.tenant
  dsimp only [State.modTenant]
  rw [Map.getD, Map.find_put_same]
  rfl

/-- The state behind a K-step whose task, if it is there, is credited with it. -/
def State.creditStep (task : Option Ctx) : State :=
  match task with
  | some c => s.credit c.key 64
  | none => s

theorem State.cluster_creditStep (task : Option Ctx) (g : Nat) : (s.creditStep task).cluster g = s.cluster g := by
  unfold State.creditStep
  split
  · exact s.cluster_credit _ _ g
  · rfl

end credit

/-! ## Operand messages (R193) -/

theorem Core.read_messages {k : Core} {l : List (Nat × Nat)} {x : Nat} (hk : k.lm.wf = true) (h : ∃ p ∈ l, p.1 ≤ x ∧ x < p.1 + p.2) :
    (k.messages l).read x = k.lm.read x := by
  have hany : (l.any fun p => decide (p.1 ≤ x) && decide (x < p.1 + p.2)) = true := by simpa [List.any_eq_true] using h
  exact (Mem.read_filter k.lm (fun y => l.any fun p => decide (p.1 ≤ y) && decide (y < p.1 + p.2)) x hk).trans (if_pos hany)

/-! ## `K_STEP` (R175, R194) -/

/-- The cluster of the unit behind its K-step. -/
def Cluster.behindStep (y : Cluster) (r : Running) (ops : Mem) (oa ob : BitVec 128) : Cluster :=
  { y with
    running := if r.n + 1 < mmaSteps oa ob then some { r with n := r.n + 1, ops := if r.ops.isSome then none else some ops } else none
    stepped := true }

section exec
variable {s : State} {r : Running} {md : W64} {oa ob : BitVec 128} {idx : List Nat} {ck : Bool} {ops : Mem}

/-- An `mma` that may run makes one K-step, and its task is credited with it. -/
theorem exec_kStep (hr : (s.cluster s.item).running = some r) (hop : r.cmd.op = .mma md oa ob idx ck) (hpre : (s.cluster s.item).preempt = false)
    (hfail : (s.cluster s.item).failed = false) (htest : (s.cluster s.item).testing = none)
    (hadm : ((s.cluster s.item).admitted.find r.cmd.launch).isSome = true) (hstep : (s.cluster s.item).stepped = false)
    (hiss : (s.layer (s.item / 21)).issues = true)
    (hops : r.ops.getD ((s.core (coreOf s.item r.c)).messages (pairReads md oa ob idx r.n)) = ops)
    (hpois : r.ops = none → (s.core (coreOf s.item r.c)).poisonIn (pairReads md oa ob idx r.n) = none) :
    let g := s.cluster s.item
    let u := s.modCluster s.item fun _ =>
      (g.kStep { s.core (coreOf s.item r.c) with lm := ops } (g.win r.c md) oa ob idx ck r.n).behindStep r ops oa ob
    exec .kStep s = .next (u.creditStep (s.byUid r.cmd.uid)) := by
  intro g u
  have hidle : (g.preempt || g.failed || g.testing.isSome || (g.admitted.find r.cmd.launch).isNone || g.stepped ||
      !(s.layer (s.item / 21)).issues) = false := by
    simp [g, hpre, hfail, htest, hadm, hstep, hiss, Option.isNone_eq_false_iff]
  have hnone : (if r.ops.isSome then none else (s.core (coreOf s.item r.c)).poisonIn (pairReads md oa ob idx r.n)) = none := by
    split
    · rfl
    · next h => exact hpois (by simpa using h)
  show execKStep s = _
  unfold execKStep
  dsimp only
  rw [hr]
  dsimp only
  rw [hop]
  dsimp only
  rw [hidle, if_neg Bool.false_ne_true, hnone]
  subst hops
  rfl

end exec

/-- The steps that are left of an `mma` (R64). -/
theorem lt_mmaSteps {oa ob : BitVec 128} {n : Nat} : n < mmaSteps oa ob ↔ 64 * n < min (odKB oa) (odKB ob) := by
  unfold mmaSteps
  omega

/-- What remains in the unit behind a K-step. -/
theorem Cluster.behindStep_running (y : Cluster) (r : Running) (ops : Mem) (oa ob : BitVec 128) :
    (y.behindStep r ops oa ob).running = if 64 * (r.n + 1) < min (odKB oa) (odKB ob)
      then some { r with n := r.n + 1, ops := if r.ops = none then some ops else none } else none := by
  show (if r.n + 1 < mmaSteps oa ob then _ else _) = _
  by_cases h : 64 * (r.n + 1) < min (odKB oa) (odKB ob)
  · rw [if_pos h, if_pos (lt_mmaSteps.2 h)]
    cases r.ops <;> rfl
  · rw [if_neg h, if_neg fun e => h (lt_mmaSteps.1 e)]

/-- Sums and products of exact values (R63, R69). -/
theorem FVal.exact (a b : FVal) (h : ∀ x ∈ [a, b], x.sound) :
    (a = .nan ∨ b = .nan → a.add b = .nan ∧ a.times b = .nan) ∧
    (a.finite = true → b.finite = true → (a.add b).finite = true ∧ (a.add b).rat = a.rat + b.rat ∧ (a.times b).finite = true ∧
      (a.times b).rat = a.rat * b.rat) := by
  refine ⟨?_, fun ha hb => ?_⟩
  · rintro (rfl | rfl)
    · exact ⟨rfl, rfl⟩
    · cases a <;> exact ⟨rfl, rfl⟩
  · cases a with
    | nan => cases ha
    | inf => cases ha
    | fin s n d =>
      cases b with
      | nan => cases hb
      | inf => cases hb
      | fin t m e =>
        have hd := h _ (List.mem_cons_self ..) _ _ _ rfl
        have he := h _ (List.mem_cons_of_mem _ (List.mem_cons_self ..)) _ _ _ rfl
        exact ⟨rfl, FVal.add_rat hd he, rfl, FVal.times_rat ..⟩

/-- Settles O49. -/
theorem kStep : Obligations.KStep := by
  refine ⟨?_, fun v => ⟨matRound_ne v, fun h => by rw [h]; decide, matRound_of_ne⟩, fun c p _ => accumI_clamps c p, fun _ _ => rfl,
    fun f hf a b T ha hT h0 => stepValue_half hf ha hT h0, fun a b hsound => ?_, fun k l x hk h => Core.read_messages hk h⟩
  · intro s r md oa ob idx ck g hr hop hpre hfail htest hadm hstep hiss here pair ops k w kb hpois hlen hcol f row col
    have hexec := exec_kStep hr hop hpre hfail htest hadm hstep hiss rfl hpois
    have hy : g.Stepped (g.kStep k w oa ob idx ck r.n) k w oa ob idx ck r.n := Cluster.kStep_steps hlen hcol
    dsimp only at hexec
    generalize ht : State.creditStep _ _ = t at hexec
    have hcl : t.cluster s.item = (g.kStep k w oa ob idx ck r.n).behindStep r ops oa ob := by
      rw [← ht, State.cluster_creditStep]
      exact (s.cluster_modCluster _ _ _).trans (if_pos rfl)
    refine ⟨t, hexec, ?_, ?_, fun i j x hx hj => ?_, fun n hn => ?_, ?_⟩
    · rw [hcl]; exact Cluster.behindStep_running ..
    · rw [hcl]; rfl
    · rw [hcl]; exact hy.el i j x hx hj
    · rw [hcl]; exact hy.outside n hn
    · rw [hcl]
      refine ⟨hy.sums, hy.plain, hy.sat, fun c hc hctx => ?_⟩
      rw [← ht, hc]
      exact State.credit_ctx _ 64 hctx
  · obtain ⟨hnan, hfin⟩ := FVal.exact a b hsound
    refine ⟨hnan, hfin, ?_⟩
    rintro n rfl
    exact FVal.inf_cases n b

end Sys2Proof.Machine
end

section
/-! # Fields of numbers, and trees over positions some of which are absent -/

namespace Sys2Proof.Machine

/-! ## Fields of numbers (R3) -/

theorem testBit_bits (x lo n i : Nat) : (bits x lo n).testBit i = (decide (i < n) && x.testBit (lo + i)) := by
  rw [bits, Nat.testBit_mod_two_pow, Nat.testBit_div_two_pow, Nat.add_comm]

/-- The replaced field holds the new bits, every other bit stays. -/
theorem testBit_putBits (x lo n v i : Nat) :
    (putBits x lo n v).testBit i = if lo ≤ i ∧ i < lo + n then v.testBit (i - lo) else x.testBit i := by
  have hsplit : x = 2 ^ (lo + n) * (x / 2 ^ (lo + n)) + (2 ^ lo * bits x lo n + x % 2 ^ lo) := by
    rw [bits, pow_add, ← Nat.div_div_eq_div_mul, mul_assoc, ← add_assoc, ← mul_add, Nat.div_add_mod, Nat.div_add_mod]
  have hlow (y : Nat) : 2 ^ lo * (y % 2 ^ n) + x % 2 ^ lo < 2 ^ (lo + n) := by
    have hy := Nat.mod_lt y (Nat.two_pow_pos n)
    have hx := Nat.mod_lt x (Nat.two_pow_pos lo)
    calc 2 ^ lo * (y % 2 ^ n) + x % 2 ^ lo < 2 ^ lo * (y % 2 ^ n) + 2 ^ lo := Nat.add_lt_add_left hx _
      _ = 2 ^ lo * (y % 2 ^ n + 1) := by ring
      _ ≤ 2 ^ lo * 2 ^ n := Nat.mul_le_mul_left _ hy
      _ = 2 ^ (lo + n) := (pow_add ..).symm
  have hput : putBits x lo n v = 2 ^ (lo + n) * (x / 2 ^ (lo + n)) + (2 ^ lo * (v % 2 ^ n) + x % 2 ^ lo) := by
    have e : putBits x lo n v = x - 2 ^ lo * bits x lo n + 2 ^ lo * (v % 2 ^ n) := by rw [putBits, Nat.mul_comm, Nat.mul_comm (v % 2 ^ n)]
    omega
  rw [hput, Nat.testBit_two_pow_mul_add _ (hlow v), Nat.testBit_two_pow_mul_add _ (Nat.mod_lt x (Nat.two_pow_pos lo)),
    Nat.testBit_mod_two_pow, Nat.testBit_mod_two_pow, Nat.testBit_div_two_pow]
  by_cases h1 : i < lo + n
  · by_cases h2 : i < lo
    · simp [h1, h2]
    · simp [h1, Nat.not_lt.1 h2, Nat.sub_lt_left_of_lt_add (Nat.not_lt.1 h2) h1]
  · have h2 : ¬ i < lo := by omega
    simp [h1, Nat.sub_add_cancel (Nat.not_lt.1 h1)]

theorem bits_putBits_same (x lo n v : Nat) : bits (putBits x lo n v) lo n = v % 2 ^ n := by
  refine Nat.eq_of_testBit_eq fun i => ?_
  rw [testBit_bits, testBit_putBits, Nat.testBit_mod_two_pow]
  by_cases h : i < n <;> simp [h]

theorem bits_putBits_other (x v : Nat) {lo n lo' n' : Nat} (h : lo + n ≤ lo' ∨ lo' + n' ≤ lo) :
    bits (putBits x lo n v) lo' n' = bits x lo' n' := by
  refine Nat.eq_of_testBit_eq fun i => ?_
  rw [testBit_bits, testBit_bits, testBit_putBits]
  by_cases hi : i < n'
  · rw [if_neg (by omega)]
  · simp [hi]

/-- A field that lies within a register is that of the number the register was made from. -/
theorem elem_ofNat {w i : Nat} (n : Nat) (h : w * i + w ≤ 2048) : elem w (BitVec.ofNat 2048 n) i = bits n (w * i) w := by
  refine Nat.eq_of_testBit_eq fun j => ?_
  rw [elem, testBit_bits, testBit_bits, BitVec.toNat_ofNat, Nat.testBit_mod_two_pow]
  by_cases hj : j < w
  · simp [hj, show w * i + j < 2048 by omega]
  · simp [hj]

theorem elem_lt (w : Nat) (x : BitVec 2048) (i : Nat) : elem w x i < 2 ^ w := Nat.mod_lt _ (Nat.two_pow_pos w)

/-! ## Trees (R67, R74) -/

section tree
variable {α : Type} (f : α → α → α × Nat)

/-- The entry at a position of a level, absent behind its end. -/
def entry (l : List (Option α)) (i : Nat) : Option α := (l[i]?).getD none

@[simp] theorem entry_nil (i : Nat) : entry ([] : List (Option α)) i = none := rfl
@[simp] theorem entry_cons_zero (x : Option α) (l : List (Option α)) : entry (x :: l) 0 = x := rfl
@[simp] theorem entry_cons_succ (x : Option α) (l : List (Option α)) (i : Nat) : entry (x :: l) (i + 1) = entry l i := by
  simp [entry]

theorem joined_none_right (x : Option α) : joined f x none = x := by cases x <;> rfl

/-- The flags that a node raises. -/
def joinedFlags : Option α → Option α → Nat
  | some x, some y => (f x y).2
  | _, _ => 0

theorem testBit_joinedFlags (x y : Option α) (k : Nat) :
    (joinedFlags f x y).testBit k = true ↔ ∃ a b, x = some a ∧ y = some b ∧ (f a b).2.testBit k = true := by
  cases x <;> cases y <;> simp [joinedFlags]

@[simp] theorem treeLevel_nil : treeLevel f [] = ([], 0) := rfl
@[simp] theorem treeLevel_singleton (x : Option α) : treeLevel f [x] = ([x], 0) := rfl

theorem treeLevel_cons_cons (x y : Option α) (l : List (Option α)) :
    treeLevel f (x :: y :: l) = (joined f x y :: (treeLevel f l).1, joinedFlags f x y ||| (treeLevel f l).2) := by
  cases x <;> cases y <;> simp [treeLevel, joined, joinedFlags]

/-- A level of the tree joins neighbouring entries. -/
theorem entry_treeLevel (l : List (Option α)) (i : Nat) : entry (treeLevel f l).1 i = joined f (entry l (2 * i)) (entry l (2 * i + 1)) := by
  match l, i with
  | [], _ => rfl
  | [x], 0 => exact (joined_none_right f x).symm
  | [x], i + 1 => simp [Nat.mul_add, joined]
  | x :: y :: l, 0 => rw [treeLevel_cons_cons]; rfl
  | x :: y :: l, i + 1 =>
    rw [treeLevel_cons_cons, entry_cons_succ, entry_treeLevel l i, Nat.mul_add, Nat.mul_one]
    simp

/-- A level raises the flags of the nodes that have two children. -/
theorem treeLevel_flags (l : List (Option α)) (k : Nat) : (treeLevel f l).2.testBit k = true ↔
    ∃ i a b, entry l (2 * i) = some a ∧ entry l (2 * i + 1) = some b ∧ (f a b).2.testBit k = true := by
  match l with
  | [] => simp
  | [x] =>
    have hodd (i : Nat) : entry [x] (2 * i + 1) = none := rfl
    simp [hodd]
  | x :: y :: l =>
    rw [treeLevel_cons_cons, Nat.testBit_or, Bool.or_eq_true, testBit_joinedFlags, treeLevel_flags l k]
    conv_rhs => rw [← Nat.or_exists_add_one]
    simp [Nat.mul_add]

/-- The root of a tree and the flags of its nodes, for the tree `T` of all nodes above the leaves `l`. -/
theorem treeFold_eq {T : Nat → Nat → Option α} (hT : ∀ l i, T (l + 1) i = joined f (T l (2 * i)) (T l (2 * i + 1))) (n : Nat) :
    ∀ (m : Nat) (l : List (Option α)), (∀ i, T m i = entry l i) → (treeFold f n l).1 = T (m + n) 0 ∧
      ∀ k, (treeFold f n l).2.testBit k = true ↔
        ∃ j i a b, j < n ∧ T (m + j) (2 * i) = some a ∧ T (m + j) (2 * i + 1) = some b ∧ (f a b).2.testBit k = true := by
  induction n with
  | zero =>
    intro m l hl
    refine ⟨?_, fun k => by simp [treeFold]⟩
    rw [Nat.add_zero, hl]
    cases l <;> rfl
  | succ n ih =>
    intro m l hl
    obtain ⟨hroot, hflags⟩ := ih (m + 1) (treeLevel f l).1 fun i => by rw [hT, hl, hl, entry_treeLevel]
    rw [treeFold]
    refine ⟨hroot.trans (by rw [Nat.add_right_comm, Nat.add_assoc]), fun k => ?_⟩
    rw [Nat.testBit_or, Bool.or_eq_true, treeLevel_flags, hflags]
    constructor
    · rintro (⟨i, a, b, ha, hb, hk⟩ | ⟨j, i, a, b, hj, ha, hb, hk⟩)
      · exact ⟨0, i, a, b, by omega, (hl _).trans ha, (hl _).trans hb, hk⟩
      · rw [Nat.add_right_comm, Nat.add_assoc] at ha hb
        exact ⟨j + 1, i, a, b, by omega, ha, hb, hk⟩
    · rintro ⟨j, i, a, b, hj, ha, hb, hk⟩
      cases j with
      | zero => exact .inl ⟨i, a, b, (hl _).symm.trans ha, (hl _).symm.trans hb, hk⟩
      | succ j =>
        refine .inr ⟨j, i, a, b, by omega, ?_, ?_, hk⟩
        · rw [Nat.add_right_comm, Nat.add_assoc]; exact ha
        · rw [Nat.add_right_comm, Nat.add_assoc]; exact hb

end tree

end Sys2Proof.Machine
end

section
/-! # Exact values (R48, R63) -/

namespace Sys2Proof.Machine

theorem FVal.finite_iff {v : FVal} : v.finite = true ↔ ∃ s n d, v = .fin s n d := by
  cases v <;> simp [FVal.finite]

@[simp] theorem FVal.finite_fin (s : Bool) (n d : Nat) : (FVal.fin s n d).finite = true := rfl

theorem Fmt.value_nan {f : Fmt} {x : Nat} : f.value x = .nan ↔ f.isNaN x = true := by
  unfold Fmt.value Fmt.isNaN
  dsimp only
  by_cases hm : f.inf < f.mag x
  · simp [hm]
  · rw [if_neg hm]
    simp only [hm, decide_false, Bool.false_eq_true, iff_false]
    split
    · exact FVal.noConfusion
    · split
      · exact FVal.noConfusion
      · split <;> exact FVal.noConfusion

/-- The value of a pattern below infinity: a fraction whose denominator is a power of two. -/
theorem Fmt.value_lt_inf {f : Fmt} {x : Nat} (h : f.mag x < f.inf) : f.value x =
    if f.mag x / 2 ^ f.fw = 0 then .fin (f.neg x) (f.mag x % 2 ^ f.fw) (2 ^ (f.bias + f.fw - 1))
    else if f.bias + f.fw ≤ f.mag x / 2 ^ f.fw then
      .fin (f.neg x) ((2 ^ f.fw + f.mag x % 2 ^ f.fw) * 2 ^ (f.mag x / 2 ^ f.fw - f.bias - f.fw)) 1
    else .fin (f.neg x) (2 ^ f.fw + f.mag x % 2 ^ f.fw) (2 ^ (f.bias + f.fw - f.mag x / 2 ^ f.fw)) := by
  unfold Fmt.value
  dsimp only
  rw [if_neg (Nat.lt_asymm h), if_neg (by simpa using h.ne)]
  simp only [beq_iff_eq]

theorem Fmt.value_inf {f : Fmt} {x : Nat} (h : f.mag x = f.inf) : f.value x = .inf (f.neg x) := by
  simp [Fmt.value, h]

theorem Fmt.value_fin {f : Fmt} {x : Nat} (h : f.mag x < f.inf) : ∃ n k, f.value x = .fin (f.neg x) n (2 ^ k) := by
  rw [Fmt.value_lt_inf h]
  split
  · exact ⟨_, _, rfl⟩
  · split
    · exact ⟨_, 0, rfl⟩
    · exact ⟨_, _, rfl⟩

theorem Fmt.value_finite {f : Fmt} {x : Nat} : (f.value x).finite = true ↔ f.mag x < f.inf := by
  rcases Nat.lt_trichotomy (f.mag x) f.inf with h | h | h
  · obtain ⟨n, k, e⟩ := Fmt.value_fin h
    simp [e, h]
  · rw [Fmt.value_inf h]
    simp [FVal.finite, h]
  · rw [Fmt.value_nan.2 (decide_eq_true h)]
    simp [FVal.finite, h.le]

theorem Fmt.value_sound (f : Fmt) (x : Nat) : (f.value x).sound := by
  intro s n d e
  obtain ⟨m, k, e'⟩ := Fmt.value_fin (Fmt.value_finite.1 (e ▸ rfl : (f.value x).finite = true))
  obtain ⟨-, -, rfl⟩ := FVal.fin.inj (e.symm.trans e')
  exact Nat.two_pow_pos k

theorem FVal.sound_pair {a b : FVal} (ha : a.sound) (hb : b.sound) : ∀ x ∈ [a, b], x.sound := by simp [ha, hb]

theorem FVal.sound.add {a b : FVal} (ha : a.sound) (hb : b.sound) : (a.add b).sound := by
  intro s n d e
  cases a with
  | nan => cases e
  | inf u => cases b <;> simp only [FVal.add] at e <;> (try split at e) <;> cases e
  | fin u m k =>
    cases b with
    | nan => cases e
    | inf => cases e
    | fin v p l =>
      obtain ⟨z, -, e'⟩ := FVal.add_fin u v m p k l
      obtain ⟨-, -, rfl⟩ := FVal.fin.inj (e.symm.trans e')
      exact Nat.mul_pos (ha _ _ _ rfl) (hb _ _ _ rfl)

theorem FVal.sound.times {a b : FVal} (ha : a.sound) (hb : b.sound) : (a.times b).sound := by
  intro s n d e
  cases a with
  | nan => cases e
  | inf u => cases b <;> simp only [FVal.times, FVal.mul] at e <;> (try split at e) <;> cases e
  | fin u m k =>
    cases b with
    | nan => cases e
    | inf => simp only [FVal.times, FVal.mul] at e; split at e <;> cases e
    | fin v p l =>
      obtain ⟨-, -, rfl⟩ := FVal.fin.inj e
      exact Nat.mul_pos (ha _ _ _ rfl) (hb _ _ _ rfl)

theorem FVal.sound.negate {a : FVal} (ha : a.sound) : a.negate.sound := by
  intro s n d e
  cases a with
  | nan => cases e
  | inf => cases e
  | fin u m k =>
    obtain ⟨-, -, rfl⟩ := FVal.fin.inj e
    exact ha _ _ _ rfl

/-- The order of finite values is that of the numbers that they are. -/
theorem FVal.lt_rat {a b : FVal} (ha : a.finite = true) (hb : b.finite = true) (sa : a.sound) (sb : b.sound) : a.lt b = decide (a.rat < b.rat) := by
  obtain ⟨s, n, d, rfl⟩ := FVal.finite_iff.1 ha
  obtain ⟨t, m, k, rfl⟩ := FVal.finite_iff.1 hb
  exact FVal.lt_fin (sa _ _ _ rfl) (sb _ _ _ rfl)

theorem FVal.abs_rat_fin (s : Bool) (n d : Nat) : |(FVal.fin s n d).rat| = (n : ℚ) / d := by
  have h : (0 : ℚ) ≤ (n : ℚ) / d := by positivity
  cases s <;> simp [FVal.rat, abs_of_nonneg h]

/-- A value without its sign. -/
def FVal.magnitude (v : FVal) : FVal := if v.sign then v.negate else v

theorem FVal.magnitude_fin (s : Bool) (n d : Nat) : (FVal.fin s n d).magnitude = .fin false n d := by cases s <;> rfl

theorem FVal.magnitude_finite {v : FVal} (h : v.finite = true) : v.magnitude.finite = true := by
  obtain ⟨s, n, d, rfl⟩ := FVal.finite_iff.1 h
  rw [FVal.magnitude_fin]
  rfl

theorem FVal.magnitude_rat {v : FVal} (h : v.finite = true) : v.magnitude.rat = |v.rat| := by
  obtain ⟨s, n, d, rfl⟩ := FVal.finite_iff.1 h
  rw [FVal.magnitude_fin, FVal.abs_rat_fin]
  simp [FVal.rat]

theorem FVal.sound.magnitude {v : FVal} (h : v.sound) : v.magnitude.sound := by
  unfold FVal.magnitude
  split
  · exact h.negate
  · exact h

end Sys2Proof.Machine
end

section
/-! # The commands that the matrix unit performs whole (R71, R172, R173, R177 to R182) -/

namespace Sys2Proof.Machine

/-! ## Sums and residues (R74, R181) -/

theorem sumOf_lt (f : Bool) (l : List Nat) : sumOf f l < 2 ^ 32 := by
  unfold sumOf
  split
  · split
    · exact matRound_lt _
    · exact Nat.two_pow_pos 32
  · exact Nat.mod_lt _ (Nat.two_pow_pos 32)

theorem Cluster.rowSum_lt (g : Cluster) (w : Win) (i : Nat) : g.rowSum w i < 2 ^ 32 := sumOf_lt _ _

theorem Cluster.colSum_lt (g : Cluster) (w : Win) (j : Nat) : g.colSum w j < 2 ^ 32 := sumOf_lt _ _

/-- A sum of F32 elements is the root of the tree over them, rounded. -/
theorem sumOf_tree {n : Nat} {x : Nat → Nat} {T : Nat → Nat → Option FVal} (hT : IsMatTree T)
    (h0 : ∀ j, T 0 j = if j < n then some (f32.value (x j)) else none) :
    sumOf true ((List.range n).map x) = match T 5 0 with
      | some v => matRound v
      | none => 0 := by
  have hnode (l i : Nat) : T (l + 1) i = joined (fun x y : FVal => (matVal (x.add y), 0)) (T l (2 * i)) (T l (2 * i + 1)) := by
    rw [hT l i]
    cases T l (2 * i) <;> cases T l (2 * i + 1) <;> rfl
  have hleaf (j : Nat) : T 0 j = entry (((List.range n).map x).map fun x => some (f32.value x)) j := by
    rw [h0, entry, List.getElem?_map, List.getElem?_map]
    split
    · next h => simp [h]
    · next h => simp [Nat.not_lt.1 h]
  have hroot := (treeFold_eq _ hnode 5 0 _ hleaf).1
  rw [Nat.zero_add] at hroot
  rw [sumOf, if_pos rfl, hroot] <;> rfl

/-- What a sum leaves of a checksum (R181). -/
theorem residue_eq (f : Bool) (ck : Nat) {s : Nat} (hs : s < 2 ^ 32) :
    residue f ck s = if f then matRound ((f32.value ck).add (f32.value s).negate) else (ck + 2 ^ 32 - s) % 2 ^ 32 := by
  unfold residue wrap
  split
  · rfl
  · omega

theorem residue_lt (f : Bool) (ck s : Nat) : residue f ck s < 2 ^ 32 := by
  unfold residue
  split
  · exact matRound_lt _
  · exact wrap_lt _ _

/-! ## Checksums (R173, R178, R180) -/

/-- A cluster with the checksums of a window zeroed, where it keeps any. -/
def Cluster.clearSums (g : Cluster) (w : Win) : Cluster := if w.ckv then g.setSums w (fun _ => 0) (fun _ => 0) else g

section sums
variable (g : Cluster) (w : Win)

theorem Cluster.clearSums_acc : (g.clearSums w).acc = g.acc := by unfold Cluster.clearSums; split <;> rfl

theorem Cluster.clearSums_sat : (g.clearSums w).sat = g.sat := by unfold Cluster.clearSums; split <;> rfl

theorem Cluster.clearSums_none (h : w.ckv = false) : g.clearSums w = g := by simp [Cluster.clearSums, h]

theorem Cluster.clearSums_zero (h : w.ckv = true) : (∀ i, i < w.nr → getZero (g.clearSums w).cc (w.ccKey i) = 0) ∧
    ∀ j, j < w.nc → getZero (g.clearSums w).cr (w.crKey j) = 0 := by
  rw [Cluster.clearSums, if_pos h]
  exact ⟨fun i hi => g.setSums_cc w _ _ hi, fun j hj => g.setSums_cr w _ _ hj⟩

theorem Cluster.reform_acc : (g.reform w).acc = g.acc := by unfold Cluster.reform; split <;> rfl

/-- Checksums formed anew are the sums of the rows and columns. -/
theorem Cluster.reform_sums (h : w.ckv = true) : (∀ i, i < w.nr → getZero (g.reform w).cc (w.ccKey i) = (g.reform w).rowSum w i) ∧
    ∀ j, j < w.nc → getZero (g.reform w).cr (w.crKey j) = (g.reform w).colSum w j := by
  rw [Cluster.reform, if_pos h]
  exact ⟨fun i hi => (g.setSums_cc w _ _ hi).trans (Nat.mod_eq_of_lt (g.rowSum_lt w i)),
    fun j hj => (g.setSums_cr w _ _ hj).trans (Nat.mod_eq_of_lt (g.colSum_lt w j))⟩

end sums

theorem Cluster.el_congr {g y : Cluster} (h : g.acc = y.acc) (w : Win) (i j : Nat) : g.el w i j = y.el w i j := by
  unfold Cluster.el
  rw [h]

/-! ## Residues of a window (R181) -/

/-- The residue of row i. -/
def Cluster.rowLeft (g : Cluster) (w : Win) (i : Nat) : Nat := residue w.f32w (getZero g.cc (w.ccKey i)) (g.rowSum w i)

/-- The residue of column j. -/
def Cluster.colLeft (g : Cluster) (w : Win) (j : Nat) : Nat := residue w.f32w (getZero g.cr (w.crKey j)) (g.colSum w j)

theorem Cluster.residues_eq (g : Cluster) (w : Win) : g.residues w =
    ((List.range w.nr).map fun i => (g.rowLeft w i, getZero g.cc (w.ccKey i)),
     (List.range w.nc).map fun j => (g.colLeft w j, getZero g.cr (w.crKey j))) := rfl

/-- The lanes of some values, from lane `o` on. -/
def lanesFrom (o n : Nat) (x : Nat → Nat) (v : Nat) : Nat := (List.range n).foldl (fun acc i => putBits acc (32 * (o + i)) 32 (x i)) v

theorem lanesFrom_succ (o n : Nat) (x : Nat → Nat) (v : Nat) :
    lanesFrom o (n + 1) x v = putBits (lanesFrom o n x v) (32 * (o + n)) 32 (x n) := by simp [lanesFrom, List.range_succ]

theorem bits_lanesFrom (o n : Nat) (x : Nat → Nat) (v i : Nat) :
    bits (lanesFrom o n x v) (32 * i) 32 = if o ≤ i ∧ i < o + n then x (i - o) % 2 ^ 32 else bits v (32 * i) 32 := by
  induction n with
  | zero =>
    rw [if_neg (by omega)]
    rfl
  | succ n ih =>
    rw [lanesFrom_succ]
    by_cases h : i = o + n
    · subst h
      rw [bits_putBits_same, if_pos (by omega), Nat.add_sub_cancel_left]
    · rw [bits_putBits_other _ _ (by omega), ih]
      exact if_congr (by omega) rfl rfl

theorem zipIdx_range_map {α : Type} (n : Nat) (x : Nat → α) : ((List.range n).map x).zipIdx = (List.range n).map fun i => (x i, i) := by
  refine List.ext_getElem? fun i => ?_
  rw [List.getElem?_zipIdx, List.getElem?_map, List.getElem?_map]
  rcases Nat.lt_or_ge i n with h | h <;> simp [h]

/-- The lanes that `mres` writes. -/
theorem residue_lanes (g : Cluster) (w : Win) :
    List.foldl (fun acc (p : Nat × Nat) => putBits acc (32 * p.1) 32 p.2) 0
      ((g.residues w).1.zipIdx.map (fun p => (p.2, p.1.1)) ++ (g.residues w).2.zipIdx.map fun p => (32 + p.2, p.1.1)) = lanesFrom 32 w.nc (g.colLeft w) (lanesFrom 0 w.nr (g.rowLeft w) 0) := by
  simp only [Cluster.residues_eq, zipIdx_range_map, List.map_map, List.foldl_append, List.foldl_map, Function.comp_apply, lanesFrom, Nat.zero_add]

/-! ## Masks of failing residues (R182) -/

theorem failBits_map (f : Bool) (sb : W64) (n : Nat) (x : Nat → Nat × Nat) :
    failBits f sb ((List.range n).map x) = ((List.range n).map fun i => if resFails f sb (x i).1 (x i).2 then 2 ^ i else 0).sum := by
  simp only [failBits, zipIdx_range_map, List.map_map]
  rfl

/-- A sum of distinct powers of two has just their bits. -/
theorem testBit_sum_pow (b : Nat → Bool) (n : Nat) : ((List.range n).map fun i => if b i then 2 ^ i else 0).sum < 2 ^ n ∧
    ∀ i, ((List.range n).map fun i => if b i then 2 ^ i else 0).sum.testBit i = (decide (i < n) && b i) := by
  induction n with
  | zero => simp
  | succ n ih =>
    obtain ⟨hlt, hbit⟩ := ih
    have hsum : ((List.range (n + 1)).map fun i => if b i then 2 ^ i else 0).sum =
        2 ^ n * (b n).toNat + ((List.range n).map fun i => if b i then 2 ^ i else 0).sum := by
      rw [List.range_succ, List.map_append, List.sum_append, Nat.add_comm]
      cases hb : b n <;> simp [hb]
    rw [hsum]
    refine ⟨?_, fun i => ?_⟩
    · rw [pow_succ]
      cases b n <;> simp <;> omega
    · rw [Nat.testBit_two_pow_mul_add _ hlt, hbit]
      rcases Nat.lt_trichotomy i n with h | rfl | h
      · simp [h, Nat.lt_succ_of_lt h]
      · cases b i <;> simp
      · obtain ⟨k, rfl⟩ := Nat.exists_eq_add_of_lt h
        cases b n <;> simp [show ¬ n + k + 1 < n by omega, show n + k + 1 - n = k + 1 by omega, Nat.testBit_succ]

/-- The mask of the residues that fail. -/
theorem failBits_mask (f : Bool) (sb : W64) {n : Nat} (hn : n ≤ 32) (x : Nat → Nat × Nat) :
    failBits f sb ((List.range n).map x) < 2 ^ 32 ∧ ∀ i, i < 64 →
      ((BitVec.ofNat 64 (failBits f sb ((List.range n).map x))).getLsbD i = true ↔ i < n ∧ resFails f sb (x i).1 (x i).2 = true) := by
  obtain ⟨hlt, hbit⟩ := testBit_sum_pow (fun i => resFails f sb (x i).1 (x i).2) n
  rw [failBits_map]
  refine ⟨hlt.trans_le (Nat.pow_le_pow_right Nat.two_pos hn), fun i hi => ?_⟩
  rw [BitVec.getLsbD_ofNat, hbit]
  simp [hi]

/-! ## Tolerances (R182) -/

theorem resFails_int (sb : W64) (x ck : Nat) : resFails false sb x ck = true ↔ sb.toNat % 2 ^ 32 < (signed 32 x).natAbs := by
  simp [resFails]

/-- A residue fails when a number in question is a NaN. -/
theorem resFails_nan {sb : W64} {x ck : Nat} (h : f32.value x = .nan ∨ f32.value ck = .nan ∨ f32.value (sb.toNat % 2 ^ 32) = .nan ∨
    f32.value (sb.toNat / 2 ^ 32) = .nan) : resFails true sb x ck = true := by
  unfold resFails
  rw [if_pos rfl]
  generalize f32.value x = a at h ⊢
  generalize f32.value ck = b at h ⊢
  generalize f32.value (sb.toNat % 2 ^ 32) = t at h ⊢
  generalize f32.value (sb.toNat / 2 ^ 32) = u at h ⊢
  cases a <;> cases b <;> cases t <;> cases u <;> simp at h ⊢


/-- With numbers only, a residue fails when it exceeds the tolerance. -/
theorem resFails_finite {sb : W64} {x ck : Nat}
    (h : ∀ y ∈ [x, ck, sb.toNat % 2 ^ 32, sb.toNat / 2 ^ 32], (f32.value y).finite = true) :
    resFails true sb x ck = true ↔
      (f32.value (sb.toNat % 2 ^ 32)).rat + (f32.value (sb.toNat / 2 ^ 32)).rat * |(f32.value ck).rat| < |(f32.value x).rat| := by
  simp only [List.forall_mem_cons, List.not_mem_nil, false_implies, implies_true, and_true] at h
  obtain ⟨hx, hck, ht, hu⟩ := h
  have hlim : resFails true sb x ck =
      ((f32.value (sb.toNat % 2 ^ 32)).add ((f32.value (sb.toNat / 2 ^ 32)).times (f32.value ck).magnitude)).lt (f32.value x).magnitude := by
    obtain ⟨s, n, d, e⟩ := FVal.finite_iff.1 hx
    obtain ⟨s', n', d', e'⟩ := FVal.finite_iff.1 hck
    obtain ⟨t, m, k, et⟩ := FVal.finite_iff.1 ht
    obtain ⟨u, l, j, eu⟩ := FVal.finite_iff.1 hu
    unfold resFails
    rw [if_pos rfl, e, e', et, eu]
    cases s' <;> rfl
  have hm := FVal.magnitude_finite hck
  obtain ⟨-, hprod⟩ := FVal.exact _ _ (FVal.sound_pair (f32.value_sound (sb.toNat / 2 ^ 32)) (f32.value_sound ck).magnitude)
  obtain ⟨-, -, hpf, hpr⟩ := hprod hu hm
  have hps := FVal.sound.times (f32.value_sound (sb.toNat / 2 ^ 32)) (f32.value_sound ck).magnitude
  obtain ⟨-, hsum⟩ := FVal.exact _ _ (FVal.sound_pair (f32.value_sound (sb.toNat % 2 ^ 32)) hps)
  obtain ⟨hsf, hsr, -, -⟩ := hsum ht hpf
  rw [hlim, FVal.lt_rat hsf (FVal.magnitude_finite hx) (FVal.sound.add (f32.value_sound _) hps) (f32.value_sound x).magnitude, decide_eq_true_iff,
    hsr, hpr, FVal.magnitude_rat hck, FVal.magnitude_rat hx]


/-! ## What each command does to its cluster -/

/-- The cluster whose unit has let its command go. -/
def Cluster.letGo (g : Cluster) : Cluster := { g with running := none, preempted := g.preempt }

/-- The cluster of a unit that is written. -/
theorem State.cluster_written (u : State) (n : Nat) (g : Cluster) : (u.modCluster n fun _ => g).cluster n = g := by
  rw [State.cluster_modCluster, if_pos rfl]

/-- The local bytes that `mld` reads for a window (R178). -/
abbrev Win.loads (w : Win) (sa : Nat) : List (Nat × Nat) := [(sa, 4 * (w.nr * w.nc))]

/-- The value of entry `i` of a scale vector. -/
def scaleAt (l : List W32) (i : Nat) : FVal := f32.value ((l[i]?).getD 0).toNat

/-- An element under its row and column scale (R71). -/
def Cluster.scaledEl (g : Cluster) (w : Win) (p q : List W32) (i j : Nat) : Nat :=
  matRound ((f32.value (g.el w i j)).times (matVal ((scaleAt p i).times (scaleAt q j))))

section command
variable {u : State} {n c : Nat} {cmd : MCmd} {md : W64} {g : Cluster} (hu : u.cluster n = g.letGo)
include hu

theorem cluster_mwin (h : cmd.op = .mwin md) : (u.matrixCommand n c cmd).cluster n =
    ({ g.letGo with sat := NatSet.del g.sat (g.win c md).blk } : Cluster).clearSums (g.win c md) := by
  unfold State.matrixCommand
  rw [h]
  dsimp only
  rw [hu]
  exact u.cluster_written n _

theorem cluster_mzero (h : cmd.op = .mzero md) : (u.matrixCommand n c cmd).cluster n =
    ({ g.letGo.setWin (g.win c md) fun _ _ => 0 with sat := NatSet.del g.sat (g.win c md).blk } : Cluster).clearSums (g.win c md) := by
  unfold State.matrixCommand
  rw [h]
  dsimp only
  rw [hu]
  exact u.cluster_written n _

theorem cluster_mld {sa : Nat} (h : cmd.op = .mld md sa) (hp : (u.core (coreOf n c)).poisonIn ((g.win c md).loads sa) = none) :
    (u.matrixCommand n c cmd).cluster n = (g.letGo.setWin (g.win c md) fun i j =>
      (u.core (coreOf n c)).lm.readN (sa + 4 * ((g.win c md).nc * i + j)) 4).reform (g.win c md) := by
  have hp' : (u.core (coreOf n c)).poisonIn ((g.letGo.win c md).loads sa) = none := hp
  unfold State.matrixCommand
  rw [h]
  dsimp only
  rw [hu, hp']
  exact u.cluster_written n _

/-- Poison that `mld` meets is consumed (log 62). -/
theorem matrixCommand_mld_poison {sa a : Nat} {x : Ctx} (h : cmd.op = .mld md sa) (hx : u.byUid cmd.uid = some x)
    (hp : (u.core (coreOf n c)).poisonIn ((g.win c md).loads sa) = some a) : u.matrixCommand n c cmd = u.consumePoison x a := by
  have hp' : (u.core (coreOf n c)).poisonIn ((g.letGo.win c md).loads sa) = some a := hp
  unfold State.matrixCommand
  rw [h]
  dsimp only
  rw [hu, hp', hx]
  rfl

theorem cluster_mscale {p q : List W32} (h : cmd.op = .mscale md p q) :
    (u.matrixCommand n c cmd).cluster n = (g.letGo.setWin (g.win c md) (g.scaledEl (g.win c md) p q)).reform (g.win c md) := by
  unfold State.matrixCommand
  rw [h]
  dsimp only
  rw [hu]
  exact u.cluster_written n _

section elements
variable (hcol : (g.win c md).col + (g.win c md).nc ≤ 128) {i j : Nat} (hi : i < (g.win c md).nr) (hj : j < (g.win c md).nc)
include hcol hi hj

theorem el_mzero (h : cmd.op = .mzero md) : ((u.matrixCommand n c cmd).cluster n).el (g.win c md) i j = 0 := by
  rw [cluster_mzero hu h, Cluster.el_congr (Cluster.clearSums_acc _ _)]
  exact g.letGo.setWin_el hcol (fun _ _ => 0) hi hj

theorem el_mld {sa : Nat} (h : cmd.op = .mld md sa) (hp : (u.core (coreOf n c)).poisonIn ((g.win c md).loads sa) = none) :
    ((u.matrixCommand n c cmd).cluster n).el (g.win c md) i j =
      (u.core (coreOf n c)).lm.readN (sa + 4 * ((g.win c md).nc * i + j)) 4 := by
  rw [cluster_mld hu h hp, Cluster.el_congr (Cluster.reform_acc _ _), g.letGo.setWin_el hcol _ hi hj]
  exact Nat.mod_eq_of_lt (Mem.readN_lt_two_pow _ _ 4)

theorem el_mscale {p q : List W32} {a b : W32} (h : cmd.op = .mscale md p q) (ha : p[i]? = some a) (hb : q[j]? = some b) :
    ((u.matrixCommand n c cmd).cluster n).el (g.win c md) i j =
      matRound ((f32.value (g.el (g.win c md) i j)).times (matVal ((f32.value a.toNat).times (f32.value b.toNat)))) := by
  rw [cluster_mscale hu h, Cluster.el_congr (Cluster.reform_acc _ _), g.letGo.setWin_el hcol _ hi hj, Cluster.scaledEl, scaleAt, scaleAt, ha, hb]
  exact Nat.mod_eq_of_lt (matRound_lt _)

end elements

/-- The saturation bit and the checksums behind `mwin` and `mzero` (R173, R177). -/
theorem sums_cleared (h : cmd.op = .mwin md ∨ cmd.op = .mzero md) :
    let w := g.win c md
    let t := (u.matrixCommand n c cmd).cluster n
    t.sat = NatSet.del g.sat w.blk ∧ (w.ckv = false → t.cc = g.cc ∧ t.cr = g.cr) ∧
      (w.ckv = true → (∀ i, i < w.nr → getZero t.cc (w.ccKey i) = 0) ∧ ∀ j, j < w.nc → getZero t.cr (w.crKey j) = 0) := by
  obtain ⟨y, e, hcc, hcr, hsat⟩ : ∃ y : Cluster, (u.matrixCommand n c cmd).cluster n = y.clearSums (g.win c md) ∧ y.cc = g.cc ∧ y.cr = g.cr ∧
      y.sat = NatSet.del g.sat (g.win c md).blk := by
    rcases h with h | h
    · exact ⟨_, cluster_mwin hu h, rfl, rfl, rfl⟩
    · exact ⟨_, cluster_mzero hu h, rfl, rfl, rfl⟩
  dsimp only
  rw [e]
  exact ⟨(y.clearSums_sat _).trans hsat, fun hck => by rw [y.clearSums_none _ hck]; exact ⟨hcc, hcr⟩, y.clearSums_zero _⟩

theorem matrixCommand_mst {sa form : Nat} (h : cmd.op = .mst md sa form) (hx : cmd.heavy = true → (u.byUid cmd.uid).isSome = true) :
    u.matrixCommand n c cmd = u.deliver (coreOf n c) sa ((List.range (g.win c md).nr).flatMap fun i =>
      (List.range (g.win c md).nc).flatMap fun j =>
        bytesOf (mstBytes form) (storeElem (g.win c md).f32w form (g.el (g.win c md) i j))) := by
  have hgone : (cmd.heavy && (u.byUid cmd.uid).isNone) = false := by
    cases hh : cmd.heavy
    · rfl
    · simpa [Option.isNone_eq_false_iff] using hx hh
  unfold State.matrixCommand
  rw [h]
  dsimp only
  rw [hgone, if_neg Bool.false_ne_true, hu]
  rfl

end command

/-- The register that `mres` writes. -/
def Cluster.residueReg (g : Cluster) (w : Win) : BitVec 2048 :=
  BitVec.ofNat 2048 (if w.ckv then lanesFrom 32 w.nc (g.colLeft w) (lanesFrom 0 w.nr (g.rowLeft w) 0) else 0)

theorem matrixCommand_mres {u : State} {n c : Nat} {cmd : MCmd} {md : W64} {g : Cluster} (hu : u.cluster n = g.letGo) {vd : Nat} {x : Ctx}
    (h : cmd.op = .mres md vd) (hx : u.byUid cmd.uid = some x) (hs : x.slotOf vd = none) :
    u.matrixCommand n c cmd = u.setCtx (x.setV vd ⟨g.residueReg (g.win c md), wFmt md⟩) := by
  unfold State.matrixCommand
  rw [h]
  dsimp only
  unfold State.lateVector
  rw [hx]
  dsimp only
  rw [hs, hu, Cluster.residueReg, ← residue_lanes]
  cases hck : (g.win c md).ckv
  · rw [show (g.letGo.win c md).ckv = false from hck]
    rfl
  · rw [show (g.letGo.win c md).ckv = true from hck]
    rfl

/-- Each lane of the residues' register holds the residue of its row or column. -/
theorem elem_residueReg (g : Cluster) {w : Win} (hr : w.nr ≤ 32) {i : Nat} (hi : i < 32) :
    elem 32 (g.residueReg w) i = (if w.ckv ∧ i < w.nr then g.rowLeft w i else 0) ∧
    elem 32 (g.residueReg w) (32 + i) = (if w.ckv ∧ i < w.nc then g.colLeft w i else 0) := by
  have hrow : g.rowLeft w i % 2 ^ 32 = g.rowLeft w i := Nat.mod_eq_of_lt (residue_lt _ _ _)
  have hcol : g.colLeft w i % 2 ^ 32 = g.colLeft w i := Nat.mod_eq_of_lt (residue_lt _ _ _)
  have hzero (lo : Nat) : bits 0 lo 32 = 0 := by simp [bits]
  unfold Cluster.residueReg
  rw [elem_ofNat _ (by omega), elem_ofNat _ (by omega)]
  by_cases hck : w.ckv = true
  · rw [if_pos hck, bits_lanesFrom, bits_lanesFrom, bits_lanesFrom, bits_lanesFrom, if_neg (by omega), Nat.sub_zero,
      Nat.add_sub_cancel_left, hrow, hcol]
    simp [hck, hzero, show ¬ 32 + i < w.nr by omega]
  · simp [hck, hzero]

/-! ## `mchk` (R182) -/

/-- The mask of the rows whose residues fail. -/
def Cluster.rowMask (g : Cluster) (w : Win) (sb : W64) : W64 := BitVec.ofNat 64 (failBits w.f32w sb (g.residues w).1)

/-- The mask of the columns whose residues fail. -/
def Cluster.colMask (g : Cluster) (w : Win) (sb : W64) : W64 := BitVec.ofNat 64 (failBits w.f32w sb (g.residues w).2)

/-- A residue or a checksum of a window is a NaN. -/
def Cluster.sumsNaN (g : Cluster) (w : Win) : Prop :=
  w.f32w = true ∧ ((∃ i, i < w.nr ∧ (f32.isNaN (g.rowLeft w i) = true ∨ f32.isNaN (getZero g.cc (w.ccKey i)) = true)) ∨
    ∃ j, j < w.nc ∧ (f32.isNaN (g.colLeft w j) = true ∨ f32.isNaN (getZero g.cr (w.crKey j)) = true))

theorem Cluster.sumsNaN_iff (g : Cluster) (w : Win) : g.sumsNaN w ↔
    (w.f32w && ((g.residues w).1 ++ (g.residues w).2).any fun p => f32.isNaN p.1 || f32.isNaN p.2) = true := by
  simp [Cluster.sumsNaN, Cluster.residues_eq, List.any_append, List.any_map, List.any_eq_true]

section masks
variable (g : Cluster) {w : Win} (sb : W64) (hr : w.nr ≤ 32) (hc : w.nc ≤ 32)
include hr hc

theorem Cluster.getLsbD_masks {i : Nat} (hi : i < 64) :
    ((g.rowMask w sb).getLsbD i = true ↔ i < w.nr ∧ resFails w.f32w sb (g.rowLeft w i) (getZero g.cc (w.ccKey i)) = true) ∧
    ((g.colMask w sb).getLsbD i = true ↔ i < w.nc ∧ resFails w.f32w sb (g.colLeft w i) (getZero g.cr (w.crKey i)) = true) :=
  ⟨(failBits_mask w.f32w sb hr _).2 i hi, (failBits_mask w.f32w sb hc _).2 i hi⟩

theorem Cluster.toNat_masks : (g.rowMask w sb).toNat = failBits w.f32w sb (g.residues w).1 ∧
    (g.colMask w sb).toNat = failBits w.f32w sb (g.residues w).2 := by
  have h1 := (failBits_mask w.f32w sb hr fun i => (g.rowLeft w i, getZero g.cc (w.ccKey i))).1
  have h2 := (failBits_mask w.f32w sb hc fun j => (g.colLeft w j, getZero g.cr (w.crKey j))).1
  simp only [Cluster.rowMask, Cluster.colMask, BitVec.toNat_ofNat, Cluster.residues_eq]
  exact ⟨Nat.mod_eq_of_lt (by omega), Nat.mod_eq_of_lt (by omega)⟩

end masks

section check
variable {u : State} {uid : Nat} {x : Ctx} (g : Cluster) {w : Win} (man kd : Nat) (sb : W64) (hx : u.byUid uid = some x)
include hx

theorem finishCheck_unchecked (h : w.ckv = false) : u.finishCheck uid g w man kd sb = u.setCtx ((x.setK kd 0).setK (kd + 1) 0) := by
  simp [State.finishCheck, hx, h]

variable (hr : w.nr ≤ 32) (hc : w.nc ≤ 32) (h : w.ckv = true)
include hr hc h

theorem finishCheck_pass (hz : g.rowMask w sb = 0 ∧ g.colMask w sb = 0) :
    u.finishCheck uid g w man kd sb = u.setCtx ((x.setK kd (g.rowMask w sb)).setK (kd + 1) (g.colMask w sb)) := by
  obtain ⟨ha, hb⟩ := g.toNat_masks sb hr hc
  have hz' : (failBits w.f32w sb (g.residues w).1 == 0 && failBits w.f32w sb (g.residues w).2 == 0) = true := by
    rw [← ha, ← hb, hz.1, hz.2]
    rfl
  simp [State.finishCheck, hx, h, hz', Cluster.rowMask, Cluster.colMask]

theorem finishCheck_trap (hz : ¬ (g.rowMask w sb = 0 ∧ g.colMask w sb = 0)) {d : Nat} (h1 : g.sumsNaN w → d = 1) (h0 : ¬ g.sumsNaN w → d = 0) :
    let y := (x.setK kd (g.rowMask w sb)).setK (kd + 1) (g.colMask w sb)
    u.finishCheck uid g w man kd sb = (u.setCtx y).takeTrap y 0x18 (man + b2n (g.sat.contains w.blk) * 2 ^ 4 + d * 2 ^ 5)
      (BitVec.ofNat 64 ((g.rowMask w sb).toNat + (g.colMask w sb).toNat * 2 ^ 32)) x.parkPc x.pc := by
  obtain ⟨ha, hb⟩ := g.toNat_masks sb hr hc
  have hz' : (failBits w.f32w sb (g.residues w).1 == 0 && failBits w.f32w sb (g.residues w).2 == 0) = false := by
    rw [Bool.eq_false_iff]
    intro e
    rw [← ha, ← hb, Bool.and_eq_true, beq_iff_eq, beq_iff_eq] at e
    exact hz ⟨BitVec.eq_of_toNat_eq e.1, BitVec.eq_of_toNat_eq e.2⟩
  have hd : d = b2n (w.f32w && ((g.residues w).1 ++ (g.residues w).2).any fun p => f32.isNaN p.1 || f32.isNaN p.2) := by
    by_cases hn : g.sumsNaN w
    · rw [h1 hn, (g.sumsNaN_iff w).1 hn]
      rfl
    · rw [h0 hn, Bool.eq_false_iff.2 (mt (g.sumsNaN_iff w).2 hn)]
      rfl
  intro y
  rw [ha, hb, hd]
  unfold State.finishCheck
  rw [hx]
  dsimp only
  rw [h, hz', Ctx.setK_parkPc, Ctx.setK_parkPc, Ctx.setK_pc, Ctx.setK_pc]
  rfl

end check

theorem matrixCommand_mchk {u : State} {n c : Nat} {cmd : MCmd} {md : W64} {g : Cluster} (hu : u.cluster n = g.letGo) {man kd : Nat} {sb : W64}
    (h : cmd.op = .mchk md man kd sb) : u.matrixCommand n c cmd = u.finishCheck cmd.uid g.letGo (g.win c md) man kd sb := by
  unfold State.matrixCommand
  rw [h]
  dsimp only
  rw [hu]
  rfl

/-! ## `MATRIX_COMMAND_PERFORM` (R194) -/

/-- The state in which the unit `n` has let its command go. -/
def State.letGo (s : State) (n : Nat) : State := s.modCluster n Cluster.letGo

theorem exec_perform {s : State} {r : Running} (hr : (s.cluster s.item).running = some r) (hop : r.cmd.op.isMma = false)
    (hfail : (s.cluster s.item).failed = false) (htest : (s.cluster s.item).testing = none) :
    exec .matrixCommandPerform s = .next ((s.letGo s.item).matrixCommand s.item r.c r.cmd) := by
  have hidle : (r.cmd.op.isMma || (s.cluster s.item).failed || (s.cluster s.item).testing.isSome) = false := by simp [hop, hfail, htest]
  show execMatrixCommandPerform s = _
  unfold execMatrixCommandPerform
  dsimp only
  rw [hr]
  dsimp only
  rw [hidle]
  rfl

theorem State.cluster_letGo (s : State) (n : Nat) : (s.letGo n).cluster n = (s.cluster n).letGo :=
  (s.cluster_modCluster n n _).trans (if_pos rfl)

/-! ## Clearing of blocks (R172) -/

theorem Map.find_filter {α : Type} (m : Map α) (p : Nat → Bool) (k : Nat) :
    Map.find (m.filter fun x => p x.1) k = if p k then m.find k else none := by
  induction m with
  | nil => simp [Map.find]
  | cons x m ih =>
    obtain ⟨j, v⟩ := x
    by_cases hp : p j = true
    · rw [List.filter_cons_of_pos (by exact hp), Map.find, Map.find, ih]
      by_cases hj : j = k
      · subst hj; simp [hp]
      · simp [hj]
    · rw [List.filter_cons_of_neg (by exact hp), ih, Map.find]
      by_cases hj : j = k
      · subst hj; simp [hp]
      · simp [hj]

theorem getZero_filter (m : Map W32) (p : Nat → Bool) (k : Nat) : getZero (m.filter fun x => p x.1) k = if p k then getZero m k else 0 := by
  unfold getZero Map.getD
  rw [Map.find_filter]
  split <;> rfl

theorem exec_blockClear {s : State} {g k u : Nat} (h : (s.cluster g).claims.find k = some u) (hd : s.matrixDone g u = true) :
    exec (.blockClear g k) s = .next (s.modCluster g fun x => x.clearBlock k) := by
  show execBlockClear g k s = _
  unfold execBlockClear
  rw [h]
  exact if_pos hd

/-- A cleared block holds zeros, and no other element or side entry changes. -/
theorem Cluster.clearBlock_spec (g : Cluster) (k : Nat) :
    (∀ n, (n / 32 = k → getZero (g.clearBlock k).cc n = 0 ∧ getZero (g.clearBlock k).cr n = 0) ∧
      (n / 32 ≠ k → getZero (g.clearBlock k).cc n = getZero g.cc n ∧ getZero (g.clearBlock k).cr n = getZero g.cr n)) ∧
    (∀ n, n / 128 / 32 = k / 4 → n % 128 / 32 = k % 4 → getZero (g.clearBlock k).acc n = 0) ∧
    ∀ n, ¬ (n / 128 / 32 = k / 4 ∧ n % 128 / 32 = k % 4) → getZero (g.clearBlock k).acc n = getZero g.acc n := by
  have hacc (n : Nat) := getZero_filter g.acc (fun n => !(n / 128 / 32 == k / 4 && n % 128 / 32 == k % 4)) n
  have hcc (n : Nat) := getZero_filter g.cc (fun n => n / 32 != k) n
  have hcr (n : Nat) := getZero_filter g.cr (fun n => n / 32 != k) n
  refine ⟨fun n => ⟨fun e => ⟨(hcc n).trans ?_, (hcr n).trans ?_⟩, fun e => ⟨(hcc n).trans ?_, (hcr n).trans ?_⟩⟩,
    fun n h1 h2 => (hacc n).trans ?_, fun n h => (hacc n).trans ?_⟩
  · simp [e]
  · simp [e]
  · simp [e]
  · simp [e]
  · simp [h1, h2]
  · rw [if_pos (by simpa [imp_iff_not_or] using h)]


/-- `mres` and `mchk` of a window: the residues, and the masks of those that fail (R181, R182). -/
theorem residue_commands {u : State} {n i : Nat} {cmd : MCmd} {ma : W64} {g : Cluster} {c : Ctx} (hu : u.cluster n = g.letGo)
    (hc : u.byUid cmd.uid = some c) (hr : (g.win i ma).nr ≤ 32) (hn : (g.win i ma).nc ≤ 32) :
    let w := g.win i ma
    (∀ vd, cmd.op = .mres ma vd → c.slotOf vd = none →
      ∃ b, u.matrixCommand n i cmd = u.setCtx (c.setV vd ⟨b, wFmt ma⟩) ∧
        ∀ i, i < 32 → elem 32 b i = (if w.ckv ∧ i < w.nr then g.rowLeft w i else 0) ∧
          elem 32 b (32 + i) = (if w.ckv ∧ i < w.nc then g.colLeft w i else 0)) ∧
    (∀ man kd sb, cmd.op = .mchk ma man kd sb →
      (w.ckv = false → u.matrixCommand n i cmd = u.setCtx ((c.setK kd 0).setK (kd + 1) 0)) ∧
      (w.ckv = true → ∃ a b : W64,
        let y := (c.setK kd a).setK (kd + 1) b
        (∀ i, i < 64 → (a.getLsbD i = true ↔ i < w.nr ∧ resFails w.f32w sb (g.rowLeft w i) (getZero g.cc (w.ccKey i)) = true) ∧
          (b.getLsbD i = true ↔ i < w.nc ∧ resFails w.f32w sb (g.colLeft w i) (getZero g.cr (w.crKey i)) = true)) ∧
        (a = 0 ∧ b = 0 → u.matrixCommand n i cmd = u.setCtx y) ∧
        (∀ d, ¬ (a = 0 ∧ b = 0) → (g.sumsNaN w → d = 1) → (¬ g.sumsNaN w → d = 0) → u.matrixCommand n i cmd = (u.setCtx y).takeTrap y 0x18
          (man + b2n (g.sat.contains w.blk) * 2 ^ 4 + d * 2 ^ 5) (BitVec.ofNat 64 (a.toNat + b.toNat * 2 ^ 32)) c.parkPc c.pc))) := by
  refine ⟨fun vd h hs => ⟨_, matrixCommand_mres hu h hc hs, fun i hi => elem_residueReg g hr hi⟩, fun man kd sb h => ?_⟩
  rw [matrixCommand_mchk hu h]
  refine ⟨fun hck => finishCheck_unchecked _ man kd sb hc hck, fun hck => ⟨g.rowMask _ sb, g.colMask _ sb, fun i hi => g.getLsbD_masks sb hr hn hi,
    fun hz => ?_, fun d hz h1 h0 => ?_⟩⟩
  · exact finishCheck_pass g.letGo man kd sb hc hr hn hck hz
  · exact finishCheck_trap g.letGo man kd sb hc hr hn hck hz h1 h0

/-- Settles O50. -/
theorem matrixEvents : Obligations.MatrixEvents := by
  refine ⟨?_, fun g w i hf => ⟨?_, ?_⟩, fun g w i T hf hT p hp hn h0 => ?_, fun sb x ck => ⟨resFails_int sb x ck, ?_, resFails_finite⟩, ?_⟩
  · intro s r hr hop hfail htest g u
    have hu : u.cluster s.item = g.letGo := s.cluster_letGo s.item
    refine ⟨exec_perform hr hop hfail htest, fun md hcol i j hi hj => ⟨el_mzero hu hcol hi hj, fun sa h hp => el_mld hu hcol hi hj h hp,
      fun p q a b h ha hb => el_mscale hu hcol hi hj h ha hb⟩, fun md hcol hck h => ?_, fun md sa a c h hc hp => matrixCommand_mld_poison hu h hc hp,
      fun md h => ⟨fun h' => ?_, sums_cleared hu h⟩, fun ma c hc hr32 hc32 => ?_, fun md sa form h hc => ?_⟩
    · dsimp only
      rcases h with ⟨sa, h, hp⟩ | ⟨p, q, h⟩
      · rw [cluster_mld hu h hp]
        exact Cluster.reform_sums _ _ hck
      · rw [cluster_mscale hu h]
        exact Cluster.reform_sums _ _ hck
    · rw [cluster_mwin hu h']
      exact Cluster.clearSums_acc _ _
    · intro w left cc cr rows cols
      have hrows : g.rowLeft (g.win r.c ma) = rows := funext fun i => residue_eq w.f32w (cc i) (g.rowSum_lt w i)
      have hcols : g.colLeft (g.win r.c ma) = cols := funext fun j => residue_eq w.f32w (cr j) (g.colSum_lt w j)
      have h := residue_commands hu hc hr32 hc32
      simp only [Cluster.sumsNaN, hrows, hcols] at h
      exact h
    · exact (exec_perform hr hop hfail htest).trans (congrArg _ (matrixCommand_mst hu h hc))
  · rw [Cluster.rowSum, hf]
    rfl
  · rw [Cluster.colSum, hf]
    rfl
  · simp only [List.mem_cons, List.not_mem_nil, or_false] at hp
    rcases hp with rfl | rfl
    · exact (congrArg (sumOf · _) hf).trans (sumOf_tree hT h0)
    · exact (congrArg (sumOf · _) hf).trans (sumOf_tree hT h0)
  · rintro ⟨y, hy, hn⟩ hx hck
    have hlt : sb.toNat / 2 ^ 32 < 2 ^ 32 := by have := sb.isLt; omega
    refine resFails_nan ?_
    simp only [Fmt.value_nan]
    simp only [List.mem_cons, List.not_mem_nil, or_false] at hy
    rcases hy with rfl | rfl | rfl | rfl
    · rw [Nat.mod_eq_of_lt hx] at hn; exact .inl hn
    · rw [Nat.mod_eq_of_lt hck] at hn; exact .inr (.inl hn)
    · rw [Nat.mod_mod] at hn; exact .inr (.inr (.inl hn))
    · rw [Nat.mod_eq_of_lt hlt] at hn; exact .inr (.inr (.inr hn))
  · intro s g k u hu hd
    have hcl : (s.modCluster g fun x => x.clearBlock k).cluster g = (s.cluster g).clearBlock k :=
      (s.cluster_modCluster g g _).trans (if_pos rfl)
    refine ⟨_, exec_blockClear hu hd, ?_⟩
    rw [hcl]
    exact ⟨Map.find_del_same _ _, rfl, (s.cluster g).clearBlock_spec k⟩

end Sys2Proof.Machine
end

section
/-! # Rounding as a function of the exact number (R50, R51)

The model rounds a fraction by shifts and divisions of its numerator and denominator. Here the same results are given as functions of the
rational number alone, so that proofs can compare numbers instead of fractions. -/

namespace Sys2Proof.Machine

/-! ## Rounding to an integer (R50) -/

/-- Is `u`, the magnitude of a number of the given sign, rounded away from zero? -/
def roundsUp (rm : Nat) (neg : Bool) (u : ℚ) : Bool :=
  match rm with
  | 0 => decide (1 / 2 < u - ⌊u⌋₊) || (decide (u - ⌊u⌋₊ = 1 / 2) && decide (⌊u⌋₊ % 2 = 1))
  | 1 => false
  | 2 => decide (u ≠ ⌊u⌋₊) && !neg
  | _ => decide (u ≠ ⌊u⌋₊) && neg

/-- The magnitude `u` rounded to an integer. -/
def roundNat (rm : Nat) (neg : Bool) (u : ℚ) : Nat := if roundsUp rm neg u then ⌊u⌋₊ + 1 else ⌊u⌋₊

theorem roundNat_natCast (rm : Nat) (neg : Bool) (k : Nat) : roundNat rm neg k = k := by
  have h : roundsUp rm neg (k : ℚ) = false := by
    unfold roundsUp
    split <;> simp
  simp [roundNat, h]

theorem roundNat_eq_or (rm : Nat) (neg : Bool) (u : ℚ) : roundNat rm neg u = ⌊u⌋₊ ∨ roundNat rm neg u = ⌊u⌋₊ + 1 := by
  unfold roundNat
  split
  · exact .inr rfl
  · exact .inl rfl

/-- The fraction that `roundInt` divides is that of the number in units of 2^q. -/
theorem scaled_frac (num den : Nat) (q : Int) :
    (((if 0 ≤ q then num else num * 2 ^ (-q).toNat : Nat) : ℚ) / ((if 0 ≤ q then den * 2 ^ q.toNat else den : Nat) : ℚ)) = (num / den : ℚ) / 2 ^ q := by
  rcases le_or_gt 0 q with h | h
  · obtain ⟨k, rfl⟩ := Int.eq_ofNat_of_zero_le h
    rw [if_pos h, if_pos h, div_div]
    simp
  · obtain ⟨k, rfl⟩ : ∃ k : Nat, q = -k := ⟨(-q).toNat, by omega⟩
    rw [if_neg (by omega), if_neg (by omega), zpow_neg, div_inv_eq_mul, div_mul_eq_mul_div]
    simp

theorem floor_frac {n d : Nat} (hd : 0 < d) : ⌊(n : ℚ) / d⌋₊ = n / d ∧ (n : ℚ) / d - (n / d : Nat) = (n % d : Nat) / d := by
  have hd' : (d : ℚ) ≠ 0 := by positivity
  refine ⟨Nat.floor_div_eq_div n d, ?_⟩
  rw [sub_eq_iff_eq_add, eq_comm, div_add' _ _ _ hd']
  congr 1
  exact_mod_cast Nat.mod_add_div' n d

/-- `roundInt` rounds the number in units of 2^q. -/
theorem roundInt_eq (rm : Nat) (neg : Bool) (num : Nat) {den : Nat} (hd : 0 < den) (q : Int) : roundInt rm neg num den q =
    (roundNat rm neg ((num / den : ℚ) / 2 ^ q), decide ((num / den : ℚ) / 2 ^ q ≠ ⌊(num / den : ℚ) / 2 ^ q⌋₊)) := by
  rw [← scaled_frac]
  unfold roundInt
  extract_lets n d m r up
  have hdpos : 0 < d := by
    unfold d
    split
    · positivity
    · exact hd
  have hd' : (0 : ℚ) < d := by exact_mod_cast hdpos
  obtain ⟨hfloor, hfract⟩ := floor_frac (n := n) hdpos
  have hne : ((n : ℚ) / d ≠ (n / d : Nat)) ↔ r ≠ 0 := by
    rw [ne_eq, ← sub_eq_zero, hfract, div_eq_zero_iff, not_or]
    exact ⟨fun h => by exact_mod_cast h.1, fun h => ⟨by exact_mod_cast h, hd'.ne'⟩⟩
  have hup : roundsUp rm neg ((n : ℚ) / d) = up := by
    unfold roundsUp up
    rw [hfloor, hfract]
    have hhalf : (1 / 2 < ((n % d : Nat) : ℚ) / d) ↔ d < 2 * r := by
      rw [div_lt_div_iff₀ two_pos hd', one_mul, mul_comm _ (2 : ℚ)]
      exact_mod_cast Iff.rfl
    have htie : (((n % d : Nat) : ℚ) / d = 1 / 2) ↔ 2 * r = d := by
      rw [div_eq_div_iff hd'.ne' two_ne_zero, one_mul, mul_comm _ (2 : ℚ)]
      exact_mod_cast Iff.rfl
    simp only [hhalf, htie, hne]
    split <;> simp [bit, m, Bool.beq_eq_decide_eq, bne]
  unfold roundNat
  rw [hup, hfloor]
  have hinexact : (r != 0) = decide ((n : ℚ) / d ≠ (n / d : Nat)) := by
    rw [Bool.eq_iff_iff, decide_eq_true_iff, hne, bne_iff_ne]
  exact Prod.ext rfl hinexact

/-! ## Exponents (R48) -/

/-- The exponent of a fraction is that of the number. -/
theorem exponentOf_eq {num den : Nat} (hn : 0 < num) (hd : 0 < den) : exponentOf num den = Int.log 2 (num / den : ℚ) := by
  have hd' : (0 : ℚ) < den := by exact_mod_cast hd
  have hq : (0 : ℚ) < num / den := by positivity
  have hnl : (2 : ℚ) ^ Nat.log2 num ≤ num := by exact_mod_cast Nat.log2_self_le hn.ne'
  have hnu : (num : ℚ) < 2 ^ (Nat.log2 num + 1) := by exact_mod_cast Nat.lt_log2_self
  have hdl : (2 : ℚ) ^ Nat.log2 den ≤ den := by exact_mod_cast Nat.log2_self_le hd.ne'
  have hdu : (den : ℚ) < 2 ^ (Nat.log2 den + 1) := by exact_mod_cast Nat.lt_log2_self
  have hsplit (a b : Nat) : (2 : ℚ) ^ ((a : Int) - b) = 2 ^ a / 2 ^ b := by rw [zpow_sub₀ two_ne_zero, zpow_natCast, zpow_natCast]
  unfold exponentOf
  extract_lets k below
  have hlow : ((2 : Nat) : ℚ) ^ (k - 1) ≤ num / den := by
    have e : k - 1 = (Nat.log2 num : Int) - (Nat.log2 den + 1 : Nat) := by push_cast; omega
    rw [Nat.cast_ofNat, e, hsplit]
    exact div_le_div₀ (by positivity) hnl hd' hdu.le
  have hhigh : (num / den : ℚ) < ((2 : Nat) : ℚ) ^ (k + 1) := by
    have e : k + 1 = (Nat.log2 num + 1 : Nat) - (Nat.log2 den : Int) := by push_cast; omega
    rw [Nat.cast_ofNat, e, hsplit]
    exact div_lt_div₀ hnu hdl (by positivity) (by positivity)
  have hbelow : below = true ↔ (num / den : ℚ) < ((2 : Nat) : ℚ) ^ k := by
    rw [Nat.cast_ofNat, ← div_lt_one (by positivity), ← scaled_frac, div_lt_one (by split <;> positivity), Nat.cast_lt]
    unfold below
    split <;> simp
  have h1 := (Int.zpow_le_iff_le_log (b := 2) Nat.one_lt_two hq).1 hlow
  have h2 := (Int.lt_zpow_iff_log_lt (b := 2) Nat.one_lt_two hq).1 hhigh
  have h3 := Int.lt_zpow_iff_log_lt (b := 2) Nat.one_lt_two (x := k) hq
  split
  · next h => have := h3.1 (hbelow.1 h); omega
  · next h => have := mt h3.2 (mt hbelow.2 h); omega

/-! ## The magnitudes of a format (R48) -/

/-- A format with at least one fraction bit and two exponent bits, as all of R48 are. -/
def Fmt.Ok (f : Fmt) : Prop := 1 ≤ f.fw ∧ 2 ≤ f.ew

theorem Fmt.ok_of_mem {f : Fmt} (h : f ∈ [f32, bf16, f16]) : f.Ok := by
  simp only [List.mem_cons, List.not_mem_nil, or_false] at h
  rcases h with rfl | rfl | rfl <;> exact ⟨by decide, by decide⟩

/-- The least exponent of a normal number. -/
def Fmt.emin (f : Fmt) : Int := 1 - f.bias

theorem Fmt.Ok.bias_pos {f : Fmt} (hf : f.Ok) : 1 ≤ f.bias := by
  obtain ⟨-, hew⟩ := hf
  have : 2 ^ 1 ≤ 2 ^ (f.ew - 1) := Nat.pow_le_pow_right Nat.two_pos (by omega)
  unfold Fmt.bias
  omega

theorem Fmt.Ok.two_pow_ew {f : Fmt} (hf : f.Ok) : 2 ^ f.ew = 2 * f.bias + 2 := by
  obtain ⟨-, hew⟩ := hf
  have hpos := Nat.two_pow_pos (f.ew - 1)
  have : 2 ^ f.ew = 2 * 2 ^ (f.ew - 1) := by rw [← pow_succ']; congr 1; omega
  unfold Fmt.bias
  omega

theorem Fmt.Ok.inf_eq {f : Fmt} (hf : f.Ok) : f.inf = (2 * f.bias + 1) * 2 ^ f.fw := by
  rw [Fmt.inf, hf.two_pow_ew]
  rfl

theorem Fmt.Ok.signBit_eq {f : Fmt} (hf : f.Ok) : f.signBit = (2 * f.bias + 2) * 2 ^ f.fw := by
  rw [Fmt.signBit, pow_add, hf.two_pow_ew]

/-- The number of magnitude pattern `m`, as if exponents had no upper bound. -/
def Fmt.at (f : Fmt) (m : Nat) : ℚ :=
  if m < 2 ^ f.fw then m * 2 ^ (f.emin - f.fw) else ((2 ^ f.fw + m % 2 ^ f.fw : Nat) : ℚ) * 2 ^ (((m / 2 ^ f.fw : Nat) : Int) - 1 + f.emin - f.fw)

/-- A significand `k` in units of 2^(t + emin − fw) stands at pattern t · 2^fw + k. -/
theorem Fmt.at_scaled (f : Fmt) {t k : Nat} (hk : k ≤ 2 * 2 ^ f.fw) (ht : t = 0 ∨ 2 ^ f.fw ≤ k) :
    f.at (t * 2 ^ f.fw + k) = k * 2 ^ (t + f.emin - f.fw) := by
  have hw : 0 < 2 ^ f.fw := Nat.two_pow_pos _
  rcases Nat.lt_or_ge k (2 ^ f.fw) with h | h
  · obtain rfl := ht.resolve_right (Nat.not_le.2 h)
    simp [Fmt.at, h]
  · have hge : ¬ t * 2 ^ f.fw + k < 2 ^ f.fw := by omega
    rw [Fmt.at, if_neg hge]
    rcases hk.lt_or_eq with h2 | rfl
    · obtain ⟨hdiv, hmod⟩ : (t * 2 ^ f.fw + k) / 2 ^ f.fw = t + 1 ∧ (t * 2 ^ f.fw + k) % 2 ^ f.fw = k - 2 ^ f.fw :=
        (Nat.div_mod_unique hw).2 ⟨by rw [Nat.mul_add, Nat.mul_comm]; omega, by omega⟩
      rw [hdiv, hmod, Nat.add_sub_cancel' h, Nat.cast_add, Nat.cast_one, add_sub_cancel_right]
    · obtain ⟨hdiv, hmod⟩ : (t * 2 ^ f.fw + 2 * 2 ^ f.fw) / 2 ^ f.fw = t + 2 ∧ (t * 2 ^ f.fw + 2 * 2 ^ f.fw) % 2 ^ f.fw = 0 :=
        (Nat.div_mod_unique hw).2 ⟨by ring, hw⟩
      have hexp : ((t + 2 : Nat) : Int) - 1 + f.emin - f.fw = (t + f.emin - f.fw) + 1 := by push_cast; ring
      rw [hdiv, hmod, hexp, zpow_add_one₀ two_ne_zero]
      push_cast
      ring

/-- Every pattern is a significand in some such units. -/
theorem Fmt.exists_scaled (f : Fmt) (m : Nat) : ∃ t k, m = t * 2 ^ f.fw + k ∧ k < 2 * 2 ^ f.fw ∧ (t = 0 ∨ 2 ^ f.fw ≤ k) := by
  have hw : 0 < 2 ^ f.fw := Nat.two_pow_pos _
  rcases Nat.lt_or_ge m (2 ^ f.fw) with h | h
  · exact ⟨0, m, by simp, by omega, .inl rfl⟩
  · have hdm := Nat.div_add_mod m (2 ^ f.fw)
    have hmod := Nat.mod_lt m hw
    obtain ⟨t, ht⟩ := Nat.exists_eq_add_of_le (Nat.div_pos h hw)
    refine ⟨t, 2 ^ f.fw + m % 2 ^ f.fw, ?_, by omega, .inr (by omega)⟩
    rw [ht, Nat.mul_add, Nat.mul_one, Nat.mul_comm] at hdm
    omega

theorem Fmt.at_strictMono (f : Fmt) : StrictMono f.at := by
  refine strictMono_nat_of_lt_succ fun m => ?_
  obtain ⟨t, k, rfl, hk, ht⟩ := f.exists_scaled m
  rw [f.at_scaled hk.le ht, Nat.add_assoc, f.at_scaled hk (ht.imp_right fun h => h.trans (Nat.le_succ k))]
  gcongr
  exact_mod_cast Nat.lt_succ_self k

@[simp] theorem Fmt.at_zero (f : Fmt) : f.at 0 = 0 := by simp [Fmt.at]

theorem Fmt.at_nonneg (f : Fmt) (m : Nat) : 0 ≤ f.at m := by
  rw [← f.at_zero]
  exact f.at_strictMono.monotone (Nat.zero_le m)

/-- The pattern of infinity stands behind the greatest finite magnitude, at 2^(bias + 1). -/
theorem Fmt.Ok.at_inf {f : Fmt} (hf : f.Ok) : f.at f.inf = 2 ^ (f.bias + 1) := by
  have h : f.inf = (2 * f.bias) * 2 ^ f.fw + 2 ^ f.fw := by rw [hf.inf_eq]; ring
  have hw : 0 < 2 ^ f.fw := Nat.two_pow_pos _
  have hexp : ((2 * f.bias : Nat) : Int) + f.emin - f.fw = (f.bias + 1 : Nat) - (f.fw : Int) := by unfold Fmt.emin; push_cast; ring
  rw [h, f.at_scaled (by omega) (.inr le_rfl), hexp, zpow_sub₀ two_ne_zero, zpow_natCast, zpow_natCast]
  push_cast
  rw [mul_div_cancel₀ _ (by positivity)]

/-! ## Patterns (R48) -/

section patterns
variable {f : Fmt} {x : Nat}

theorem Fmt.mag_lt (f : Fmt) (x : Nat) : f.mag x < f.signBit := Nat.mod_lt _ (Nat.two_pow_pos _)

theorem Fmt.mag_withSign {s : Bool} {m : Nat} (h : m < f.signBit) : f.mag (f.withSign s m) = m := by
  cases s
  · exact Nat.mod_eq_of_lt h
  · exact (Nat.add_mod_right m f.signBit).trans (Nat.mod_eq_of_lt h)

theorem Fmt.neg_withSign {s : Bool} {m : Nat} (h : m < f.signBit) : f.neg (f.withSign s m) = s := by
  have hdiv : (m + f.signBit) / f.signBit = 1 := by rw [Nat.add_div_right _ (show 0 < f.signBit from Nat.two_pow_pos _), Nat.div_eq_of_lt h]
  have hzero : m / f.signBit = 0 := Nat.div_eq_of_lt h
  unfold Fmt.signBit at hdiv hzero
  cases s <;> simp [Fmt.neg, Fmt.withSign, bit, Fmt.signBit, hdiv, hzero]

/-- A pattern is its sign and its magnitude. -/
theorem Fmt.withSign_neg_mag (h : x < 2 * f.signBit) : f.withSign (f.neg x) (f.mag x) = x := by
  have hpos : 0 < f.signBit := Nat.two_pow_pos _
  have hdm := Nat.div_add_mod x f.signBit
  have hneg : f.neg x = decide (x / f.signBit = 1) := by
    have hlt : x / f.signBit < 2 := Nat.div_lt_of_lt_mul (by omega)
    have : x / f.signBit % 2 = x / f.signBit := Nat.mod_eq_of_lt hlt
    rw [Fmt.neg, bit, ← Fmt.signBit, this]
    rfl
  rw [hneg]
  unfold Fmt.withSign Fmt.mag
  rcases Nat.lt_or_ge x f.signBit with hlt | hge
  · simp [Nat.div_eq_of_lt hlt, Nat.mod_eq_of_lt hlt]
  · have hdiv : x / f.signBit = 1 := (Nat.div_eq_iff hpos).2 ⟨by omega, by omega⟩
    rw [hdiv, Nat.mul_one] at hdm
    simp [hdiv]
    omega

/-- The number of a pattern below infinity. -/
theorem Fmt.value_rat (hf : f.Ok) (h : f.mag x < f.inf) : (f.value x).rat = (if f.neg x then -1 else 1) * f.at (f.mag x) := by
  have hw : 0 < 2 ^ f.fw := Nat.two_pow_pos _
  have hb := hf.bias_pos
  obtain ⟨hfw, -⟩ := hf
  rw [Fmt.value_lt_inf h]
  have hdiv : f.mag x / 2 ^ f.fw = 0 ↔ f.mag x < 2 ^ f.fw := by simp [Nat.div_eq_zero_iff]
  unfold Fmt.at
  split
  · next he =>
    have hlt := hdiv.1 he
    have hexp : f.emin - f.fw = -((f.bias + f.fw - 1 : Nat) : Int) := by unfold Fmt.emin; omega
    rw [if_pos hlt, FVal.rat, Nat.mod_eq_of_lt hlt, hexp, zpow_neg, zpow_natCast, div_eq_mul_inv]
    push_cast
    rfl
  · next he =>
    rw [if_neg (mt hdiv.2 he)]
    have hexp : ((f.mag x / 2 ^ f.fw : Nat) : Int) - 1 + f.emin - f.fw = ((f.mag x / 2 ^ f.fw : Nat) : Int) - (f.bias + f.fw : Nat) := by
      unfold Fmt.emin; push_cast; ring
    rw [hexp]
    generalize f.mag x / 2 ^ f.fw = e
    split
    · next hle =>
      obtain ⟨j, rfl⟩ := Nat.exists_eq_add_of_le hle
      rw [FVal.rat, Nat.sub_sub, Nat.add_sub_cancel_left, Nat.cast_add _ j, add_sub_cancel_left, zpow_natCast]
      push_cast
      rw [div_one]
    · next hlt =>
      obtain ⟨j, hj⟩ := Nat.exists_eq_add_of_le (Nat.not_le.1 hlt).le
      rw [FVal.rat, hj, Nat.add_sub_cancel_left, Nat.cast_add e, sub_add_cancel_left, zpow_neg, zpow_natCast, div_eq_mul_inv]
      push_cast
      rfl

end patterns

/-! ## Rounding to a format (R50, R51) -/

/-- The exponent of the units in which a number of magnitude `q` is rounded. -/
def Fmt.unit (f : Fmt) (q : ℚ) : Int := max (Int.log 2 q) f.emin - f.fw

/-- The greatest pattern whose number does not exceed `q`, as if exponents had no upper bound. -/
def Fmt.under (f : Fmt) (q : ℚ) : Nat := (max (Int.log 2 q) f.emin - f.emin).toNat * 2 ^ f.fw + ⌊q / 2 ^ f.unit q⌋₊

/-- The pattern that `q` is rounded to, as if exponents had no upper bound. -/
def Fmt.near (f : Fmt) (rm : Nat) (neg : Bool) (q : ℚ) : Nat :=
  (max (Int.log 2 q) f.emin - f.emin).toNat * 2 ^ f.fw + roundNat rm neg (q / 2 ^ f.unit q)

/-- Is `q` tiny after rounding, as if exponents had no lower bound? -/
def Fmt.tiny (f : Fmt) (rm : Nat) (neg : Bool) (q : ℚ) : Bool :=
  decide (Int.log 2 q < f.emin) && !(Int.log 2 q == f.emin - 1 && roundNat rm neg (q / 2 ^ (Int.log 2 q - f.fw)) == 2 ^ (f.fw + 1))

/-- Does overflow give an infinity (R51)? -/
def toInfinity (rm : Nat) (neg : Bool) : Bool :=
  match rm with
  | 0 => true
  | 1 => false
  | 2 => !neg
  | _ => neg

/-- The result of rounding a positive magnitude `q` with a sign. -/
def Fmt.roundMag (f : Fmt) (rm : Nat) (neg : Bool) (q : ℚ) : Res :=
  if f.inf ≤ f.near rm neg q then ⟨f.withSign neg (if toInfinity rm neg then f.inf else f.inf - 1), 4 + 16⟩
  else ⟨f.withSign neg (f.near rm neg q), if f.at (f.under q) = q then 0 else if f.tiny rm neg q then 8 + 16 else 16⟩

section round
variable {f : Fmt} {q : ℚ}

theorem log_bounds (hq : 0 < q) : (2 : ℚ) ^ Int.log 2 q ≤ q ∧ q < 2 ^ (Int.log 2 q + 1) := by
  have h1 := Int.zpow_log_le_self (b := 2) (r := q) Nat.one_lt_two hq
  have h2 := Int.lt_zpow_succ_log_self (b := 2) Nat.one_lt_two q
  exact ⟨by exact_mod_cast h1, by exact_mod_cast h2⟩

theorem log_lt_iff (hq : 0 < q) (k : Int) : Int.log 2 q < k ↔ q < 2 ^ k := by
  have h := Int.lt_zpow_iff_log_lt (b := 2) (x := k) Nat.one_lt_two hq
  rw [← h, Nat.cast_ofNat]

theorem log_eq_iff (hq : 0 < q) (k : Int) : Int.log 2 q = k ↔ 2 ^ k ≤ q ∧ q < 2 ^ (k + 1) := by
  rw [← log_lt_iff hq, ← not_lt, ← log_lt_iff hq]
  omega

/-- The significand of a number fits, and is full above the least exponent. -/
theorem Fmt.significand_bounds (hq : 0 < q) : ⌊q / 2 ^ f.unit q⌋₊ < 2 * 2 ^ f.fw ∧
    ((max (Int.log 2 q) f.emin - f.emin).toNat = 0 ∨ 2 ^ f.fw ≤ ⌊q / 2 ^ f.unit q⌋₊) := by
  obtain ⟨hlow, hhigh⟩ := log_bounds hq
  have hpos : (0 : ℚ) < 2 ^ f.unit q := by positivity
  constructor
  · rw [Nat.floor_lt (by positivity), div_lt_iff₀ hpos]
    calc q < 2 ^ (Int.log 2 q + 1) := hhigh
      _ ≤ 2 ^ ((f.fw + 1 : Nat) + f.unit q) := zpow_le_zpow_right₀ one_le_two (by unfold Fmt.unit; push_cast; omega)
      _ = _ := by rw [zpow_add₀ two_ne_zero, zpow_natCast, pow_succ']; push_cast; rfl
  · rcases le_or_gt (Int.log 2 q) f.emin with h | h
    · exact .inl (by omega)
    · refine .inr (Nat.le_floor ?_)
      rw [le_div_iff₀ hpos]
      calc ((2 ^ f.fw : Nat) : ℚ) * 2 ^ f.unit q = 2 ^ (f.fw + f.unit q) := by rw [zpow_add₀ two_ne_zero, zpow_natCast]; push_cast; rfl
        _ ≤ 2 ^ Int.log 2 q := zpow_le_zpow_right₀ one_le_two (by unfold Fmt.unit; omega)
        _ ≤ q := hlow

theorem Fmt.unit_eq (f : Fmt) (q : ℚ) : ((max (Int.log 2 q) f.emin - f.emin).toNat : Int) + f.emin - f.fw = f.unit q := by
  unfold Fmt.unit
  omega

theorem Fmt.at_under (hq : 0 < q) : f.at (f.under q) = ⌊q / 2 ^ f.unit q⌋₊ * 2 ^ f.unit q := by
  obtain ⟨hlt, hfull⟩ := f.significand_bounds hq
  rw [Fmt.under, f.at_scaled hlt.le hfull, f.unit_eq]

theorem Fmt.at_under_succ (hq : 0 < q) : f.at (f.under q + 1) = (⌊q / 2 ^ f.unit q⌋₊ + 1 : Nat) * 2 ^ f.unit q := by
  obtain ⟨hlt, hfull⟩ := f.significand_bounds hq
  rw [Fmt.under, Nat.add_assoc, f.at_scaled hlt (hfull.imp_right fun h => h.trans (Nat.le_succ _)), f.unit_eq]

theorem Fmt.at_under_le (hq : 0 < q) : f.at (f.under q) ≤ q := by
  rw [Fmt.at_under hq, ← le_div_iff₀ (by positivity)]
  exact Nat.floor_le (by positivity)

theorem Fmt.lt_at_under_succ (hq : 0 < q) : q < f.at (f.under q + 1) := by
  rw [Fmt.at_under_succ hq, ← div_lt_iff₀ (by positivity)]
  exact_mod_cast Nat.lt_floor_add_one _

/-- A pattern stands at or below `q` when it does not exceed the greatest such pattern. -/
theorem Fmt.at_le_iff (hq : 0 < q) (m : Nat) : f.at m ≤ q ↔ m ≤ f.under q := by
  constructor
  · intro h
    exact Nat.lt_succ_iff.1 (f.at_strictMono.lt_iff_lt.1 (h.trans_lt (Fmt.lt_at_under_succ hq)))
  · intro h
    exact (f.at_strictMono.monotone h).trans (Fmt.at_under_le hq)

theorem Fmt.lt_at_iff (hq : 0 < q) (m : Nat) : q < f.at m ↔ f.under q < m := by
  rw [← not_le, Fmt.at_le_iff hq, not_le]

theorem Fmt.under_eq {m : Nat} (hq : 0 < q) (h1 : f.at m ≤ q) (h2 : q < f.at (m + 1)) : f.under q = m := by
  rw [Fmt.at_le_iff hq] at h1
  rw [Fmt.lt_at_iff hq] at h2
  omega

theorem Fmt.Ok.under_lt_inf (hf : f.Ok) (hq : 0 < q) : f.under q < f.inf ↔ q < 2 ^ (f.bias + 1) := by
  rw [← hf.at_inf, Fmt.lt_at_iff hq]

/-- The place of `q` between the two patterns around it. -/
theorem Fmt.fract_unit (hq : 0 < q) : q / 2 ^ f.unit q - ⌊q / 2 ^ f.unit q⌋₊ = (q - f.at (f.under q)) / 2 ^ f.unit q ∧
    1 - (q / 2 ^ f.unit q - ⌊q / 2 ^ f.unit q⌋₊) = (f.at (f.under q + 1) - q) / 2 ^ f.unit q := by
  have hpos : (2 : ℚ) ^ f.unit q ≠ 0 := by positivity
  rw [Fmt.at_under_succ hq, Fmt.at_under hq]
  constructor
  · rw [sub_div, mul_div_cancel_right₀ _ hpos]
  · rw [sub_div, mul_div_cancel_right₀ _ hpos]
    push_cast
    ring

theorem Fmt.under_parity (hf : f.Ok) : f.under q % 2 = ⌊q / 2 ^ f.unit q⌋₊ % 2 := by
  obtain ⟨k, hk⟩ := Nat.exists_eq_add_of_le hf.1
  rw [Fmt.under, hk, pow_add, pow_one, mul_left_comm]
  omega

theorem Fmt.near_eq (rm : Nat) (neg : Bool) : f.near rm neg q =
    if roundsUp rm neg (q / 2 ^ f.unit q) then f.under q + 1 else f.under q := by
  unfold Fmt.near roundNat Fmt.under
  split <;> rfl

theorem Fmt.unit_exact (hq : 0 < q) : q / 2 ^ f.unit q = ⌊q / 2 ^ f.unit q⌋₊ ↔ f.at (f.under q) = q := by
  rw [← sub_eq_zero, (f.fract_unit hq).1, div_eq_zero_iff, or_iff_left (by positivity), sub_eq_zero, eq_comm]

/-- To nearest, the nearer of the two patterns around `q` is taken, in a tie the even one (R50). -/
theorem Fmt.near_nearest (hf : f.Ok) (hq : 0 < q) (neg : Bool) : f.near 0 neg q =
    if q - f.at (f.under q) < f.at (f.under q + 1) - q ∨ q - f.at (f.under q) = f.at (f.under q + 1) - q ∧ f.under q % 2 = 0
    then f.under q else f.under q + 1 := by
  obtain ⟨hlo, hhi⟩ := f.fract_unit hq
  have hpos : (0 : ℚ) < 2 ^ f.unit q := by positivity
  have hhalf : 1 / 2 < q / 2 ^ f.unit q - ⌊q / 2 ^ f.unit q⌋₊ ↔ f.at (f.under q + 1) - q < q - f.at (f.under q) := by
    refine Iff.trans ?_ (div_lt_div_iff_of_pos_right hpos)
    rw [← hlo, ← hhi]
    constructor <;> intro h <;> linarith
  have htie : q / 2 ^ f.unit q - ⌊q / 2 ^ f.unit q⌋₊ = 1 / 2 ↔ q - f.at (f.under q) = f.at (f.under q + 1) - q := by
    refine Iff.trans ?_ (div_left_inj' hpos.ne')
    rw [← hlo, ← hhi]
    constructor <;> intro h <;> linarith
  have hup : roundsUp 0 neg (q / 2 ^ f.unit q) = true ↔
      ¬ (q - f.at (f.under q) < f.at (f.under q + 1) - q ∨ q - f.at (f.under q) = f.at (f.under q + 1) - q ∧ f.under q % 2 = 0) := by
    have hodd : ⌊q / 2 ^ f.unit q⌋₊ % 2 = 1 ↔ ¬ f.under q % 2 = 0 := by rw [← Fmt.under_parity hf]; omega
    simp only [roundsUp, hhalf, htie, hodd, Bool.or_eq_true, Bool.and_eq_true, decide_eq_true_iff]
    rcases lt_trichotomy (q - f.at (f.under q)) (f.at (f.under q + 1) - q) with h | h | h
    · simp [h, h.not_gt, h.ne]
    · simp [h]
    · simp [h, h.not_gt, h.ne']
  rw [Fmt.near_eq, if_congr hup rfl rfl, ite_not]

theorem Fmt.near_toZero (neg : Bool) : f.near 1 neg q = f.under q := by rw [Fmt.near_eq]; rfl

/-- Upwards, a positive number that is none of the format's goes to the next pattern. -/
theorem Fmt.near_up (hq : 0 < q) (neg : Bool) : f.near 2 neg q = if f.at (f.under q) ≠ q ∧ neg = false then f.under q + 1 else f.under q := by
  rw [Fmt.near_eq]
  simp [roundsUp, Fmt.unit_exact hq]

/-- Downwards, a negative one does. -/
theorem Fmt.near_down (hq : 0 < q) (neg : Bool) : f.near 3 neg q = if f.at (f.under q) ≠ q ∧ neg = true then f.under q + 1 else f.under q := by
  rw [Fmt.near_eq]
  simp [roundsUp, Fmt.unit_exact hq]

theorem Fmt.near_eq_or (rm : Nat) (neg : Bool) : f.near rm neg q = f.under q ∨ f.near rm neg q = f.under q + 1 := by
  rw [Fmt.near_eq]
  split
  · exact .inr rfl
  · exact .inl rfl

/-- A number of the format is rounded to itself. -/
theorem Fmt.near_exact (hq : 0 < q) (h : f.at (f.under q) = q) (rm : Nat) (neg : Bool) : f.near rm neg q = f.under q := by
  rw [Fmt.near, (Fmt.unit_exact hq).2 h, roundNat_natCast]
  rfl

/-- The model's rounding of a fraction depends on the number alone (R50, R51). -/
theorem Fmt.round_eq (rm : Nat) (neg : Bool) {num den : Nat} (hn : 0 < num) (hd : 0 < den) :
    f.round rm neg num den = f.roundMag rm neg (num / den : ℚ) := by
  have hd' : (0 : ℚ) < den := by exact_mod_cast hd
  have hq : (0 : ℚ) < num / den := by positivity
  unfold Fmt.round
  rw [if_neg (by simpa using hn.ne')]
  extract_lets e emin top mi p toInf free tiny
  have he : e = Int.log 2 (num / den : ℚ) := exponentOf_eq hn hd
  have hmi : mi = (roundNat rm neg ((num / den : ℚ) / 2 ^ f.unit (num / den)),
      decide ((num / den : ℚ) / 2 ^ f.unit (num / den) ≠ ⌊(num / den : ℚ) / 2 ^ f.unit (num / den)⌋₊)) := by
    unfold mi top
    rw [roundInt_eq rm neg num hd, he]
    rfl
  have hp : p = f.near rm neg (num / den) := by
    unfold p Fmt.near
    rw [hmi]
    unfold top
    rw [he]
    rfl
  have hfree : free = roundNat rm neg ((num / den : ℚ) / 2 ^ (Int.log 2 (num / den : ℚ) - f.fw)) := by
    unfold free
    rw [roundInt_eq rm neg num hd, he]
  have htiny : tiny = f.tiny rm neg (num / den) := by
    unfold tiny Fmt.tiny
    rw [hfree, he]
    rfl
  have hexact : mi.2 = decide (f.at (f.under (num / den)) ≠ (num / den : ℚ)) := by
    rw [hmi, decide_eq_decide, Fmt.at_under hq, ne_eq, ne_eq, div_eq_iff (by positivity), eq_comm]
  unfold Fmt.roundMag
  rw [hp, htiny, hexact]
  split
  · rfl
  · by_cases hx : f.at (f.under (num / den)) = (num / den : ℚ)
    · simp [hx]
    · cases f.tiny rm neg (num / den) <;> simp [hx, flagNX, flagUF]

end round

end Sys2Proof.Machine
end

section
/-! # Results of rounding (R50, R51) -/

namespace Sys2Proof.Machine

section round
variable {f : Fmt} {q : ℚ} {rm : Nat} {neg : Bool}

/-- What is rounded away from zero may become infinite. -/
theorem toInfinity_of_roundsUp {u : ℚ} (h : roundsUp rm neg u = true) : toInfinity rm neg = true := by
  match rm with
  | 0 => rfl
  | 1 => cases h
  | 2 => exact (Bool.and_eq_true _ _ ▸ h).2
  | _ + 3 => exact (Bool.and_eq_true _ _ ▸ h).2

theorem Fmt.Ok.inf_pos (hf : f.Ok) : 2 * 2 ^ f.fw < f.inf := by
  have hw : 0 < 2 ^ f.fw := Nat.two_pow_pos _
  have hb := hf.bias_pos
  rw [hf.inf_eq]
  exact Nat.mul_lt_mul_of_pos_right (by omega) hw

theorem Fmt.near_le_inf (h : f.under q < f.inf) : f.near rm neg q ≤ f.inf := by
  have := Fmt.near_eq_or (f := f) (q := q) rm neg
  omega

/-- Below overflow the rounded pattern is the result. -/
theorem Fmt.roundMag_val (h : f.under q < f.inf) : (f.roundMag rm neg q).val = f.withSign neg (f.near rm neg q) := by
  unfold Fmt.roundMag
  split
  · next hinf =>
    have hnear : f.near rm neg q = f.inf := le_antisymm (Fmt.near_le_inf h) hinf
    have hup : roundsUp rm neg (q / 2 ^ f.unit q) = true := by
      by_contra hup
      rw [Fmt.near_eq, if_neg hup] at hnear
      omega
    rw [hnear, toInfinity_of_roundsUp hup]
    rfl
  · rfl

theorem Fmt.roundMag_overflow (h : f.inf ≤ f.under q) :
    f.roundMag rm neg q = ⟨f.withSign neg (if toInfinity rm neg then f.inf else f.inf - 1), 4 + 16⟩ := by
  have := Fmt.near_eq_or (f := f) (q := q) rm neg
  rw [Fmt.roundMag, if_pos (by omega)]

theorem Fmt.roundMag_flags (h : f.near rm neg q < f.inf) :
    (f.roundMag rm neg q).flags = if f.at (f.under q) = q then 0 else if f.tiny rm neg q then 8 + 16 else 16 := by
  rw [Fmt.roundMag, if_neg (by omega)]

theorem Fmt.roundMag_flags_inf (h : f.inf ≤ f.near rm neg q) : (f.roundMag rm neg q).flags = 4 + 16 := by
  rw [Fmt.roundMag, if_pos h]

/-- A number of the format is rounded to itself, without a flag. -/
theorem Fmt.roundMag_at {m : Nat} (h0 : 0 < m) (hm : m < f.inf) : f.roundMag rm neg (f.at m) = ⟨f.withSign neg m, 0⟩ := by
  have hq : 0 < f.at m := by rw [← f.at_zero]; exact f.at_strictMono h0
  have hu : f.under (f.at m) = m := Fmt.under_eq hq le_rfl (f.at_strictMono (Nat.lt_succ_self m))
  have hnear := Fmt.near_exact hq (by rw [hu]) rm neg
  rw [hu] at hnear
  rw [Fmt.roundMag, hnear, hu, if_neg (by omega), if_pos rfl]

/-- All that overflows is rounded alike. -/
theorem Fmt.Ok.roundMag_overflow (hf : f.Ok) (h : 2 ^ (f.bias + 1) ≤ q) :
    f.roundMag rm neg q = ⟨f.withSign neg (if toInfinity rm neg then f.inf else f.inf - 1), 4 + 16⟩ := by
  have hq : 0 < q := lt_of_lt_of_le (by positivity) h
  exact Fmt.roundMag_overflow (Nat.not_lt.1 fun hlt => absurd ((hf.under_lt_inf hq).1 hlt) (not_lt.2 h))

theorem Fmt.at_full (f : Fmt) : f.at (2 ^ f.fw) = 2 ^ f.emin := by
  have h := f.at_scaled (t := 0) (k := 2 ^ f.fw) (by omega) (.inl rfl)
  rw [Nat.zero_mul, Nat.zero_add] at h
  rw [h, Nat.cast_zero, zero_add, zpow_sub₀ two_ne_zero, zpow_natCast]
  push_cast
  rw [mul_div_cancel₀ _ (by positivity)]

theorem log_two_mul (hq : 0 < q) : Int.log 2 (2 * q) = Int.log 2 q + 1 := by
  obtain ⟨h1, h2⟩ := log_bounds hq
  rw [log_eq_iff (by positivity), zpow_add_one₀ two_ne_zero, zpow_add_one₀ two_ne_zero, mul_comm _ (2 : ℚ), mul_comm _ (2 : ℚ)]
  constructor <;> linarith

/-- Tiny is judged as if exponents had no lower bound: by the significand of twice the number, which is rounded one place lower. -/
theorem Fmt.tiny_iff (hq : 0 < q) : f.tiny rm neg q = true ↔ q < 2 ^ f.emin ∧ f.near rm neg (2 * q) < 2 * 2 ^ f.fw := by
  have hq2 : 0 < 2 * q := by positivity
  have hlog := log_two_mul hq
  unfold Fmt.tiny
  rw [Bool.and_eq_true, decide_eq_true_iff, log_lt_iff hq]
  refine and_congr_right fun hlt => ?_
  have hlt' := (log_lt_iff hq f.emin).2 hlt
  by_cases he : Int.log 2 q = f.emin - 1
  · have hmax : max (Int.log 2 (2 * q)) f.emin = f.emin := by omega
    have hunit : f.unit (2 * q) = Int.log 2 q + 1 - f.fw := by unfold Fmt.unit; omega
    have hsame : 2 * q / 2 ^ (Int.log 2 q + 1 - f.fw) = q / 2 ^ (Int.log 2 q - f.fw) := by
      rw [add_sub_right_comm, zpow_add_one₀ two_ne_zero, mul_comm, mul_div_mul_right _ _ two_ne_zero]
    have hnear : f.near rm neg (2 * q) = roundNat rm neg (q / 2 ^ (Int.log 2 q - f.fw)) := by
      rw [Fmt.near, hmax, hunit, hsame]
      simp
    have hle : f.near rm neg (2 * q) ≤ 2 * 2 ^ f.fw := by
      have hs := (f.significand_bounds hq2).1
      rw [hunit, hsame] at hs
      rw [hnear]
      have := roundNat_eq_or rm neg (q / 2 ^ (Int.log 2 q - f.fw))
      omega
    rw [← hnear, pow_succ', ← he]
    simp
    omega
  · have hle : f.under (2 * q) < 2 ^ f.fw := by
      rw [← Fmt.lt_at_iff hq2, f.at_full, ← log_lt_iff hq2]
      omega
    have := Fmt.near_eq_or (f := f) (q := 2 * q) rm neg
    simp [he]
    omega

end round

/-! ## Rounding of a rational number with a sign -/

/-- The number `z` rounded once; a zero takes the sign `zs` (R51, R54). -/
def Fmt.roundQ (f : Fmt) (rm : Nat) (zs : Bool) (z : ℚ) : Res :=
  if z = 0 then ⟨f.withSign zs 0, 0⟩ else f.roundMag rm (decide (z < 0)) |z|

theorem Fmt.roundsTo_iff {f : Fmt} {rm : Nat} {zs : Bool} {z : ℚ} {r : Res} : f.roundsTo rm z zs r ↔ r = f.roundQ rm zs z := by
  unfold Fmt.roundsTo Fmt.roundQ
  split
  · rfl
  · next hz =>
    constructor
    · rintro ⟨n, d, hn, hd, e, rfl⟩
      rw [Fmt.round_eq rm _ hn hd, e]
    · rintro rfl
      refine ⟨z.num.natAbs, z.den, Int.natAbs_pos.2 (Rat.num_ne_zero.2 hz), z.den_pos, ?_, ?_⟩
      · rw [Nat.cast_natAbs, Int.cast_abs, ← Nat.abs_cast z.den, ← abs_div, Rat.num_div_den]
      · rw [Fmt.round_eq rm _ (Int.natAbs_pos.2 (Rat.num_ne_zero.2 hz)) z.den_pos]
        rw [Nat.cast_natAbs, Int.cast_abs, ← Nat.abs_cast z.den, ← abs_div, Rat.num_div_den]

theorem FVal.rat_neg_iff {s : Bool} {n d : Nat} (hn : 0 < n) (hd : 0 < d) : (FVal.fin s n d).rat < 0 ↔ s = true := by
  have h : (0 : ℚ) < n / d := by positivity
  cases s <;> simp [FVal.rat, h, h.le]

theorem FVal.rat_eq_zero {s : Bool} {n d : Nat} (hd : 0 < d) : (FVal.fin s n d).rat = 0 ↔ n = 0 := by
  have hd' : (d : ℚ) ≠ 0 := by positivity
  cases s <;> simp [FVal.rat, hd.ne']

/-- The model rounds a value as the number that it is. -/
theorem Fmt.round_fin (f : Fmt) (rm : Nat) (s : Bool) (n : Nat) {d : Nat} (hd : 0 < d) : f.round rm s n d = f.roundQ rm s (FVal.fin s n d).rat := by
  rcases Nat.eq_zero_or_pos n with rfl | hn
  · rw [Fmt.roundQ, if_pos ((FVal.rat_eq_zero hd).2 rfl)]
    rfl
  · rw [Fmt.roundQ, if_neg (mt (FVal.rat_eq_zero hd).1 hn.ne'), FVal.abs_rat_fin, Fmt.round_eq rm s hn hd]
    congr 1
    rw [Bool.eq_iff_iff, decide_eq_true_iff, FVal.rat_neg_iff hn hd]

theorem Fmt.roundVal_eq {f : Fmt} (rm : Nat) {v : FVal} (h : v.finite = true) (hs : v.sound) : f.roundVal rm v = f.roundQ rm v.sign v.rat := by
  obtain ⟨s, n, d, rfl⟩ := FVal.finite_iff.1 h
  exact f.round_fin rm s n (hs _ _ _ rfl)

/-! ## The results of the four modes (R50, R51) -/

section modes
variable {f : Fmt} {q : ℚ} (sg : Bool)

/-- Towards zero, the greatest finite magnitude that does not exceed the number is taken. -/
theorem Fmt.roundMag_toZero : (f.roundMag 1 sg q).val = f.withSign sg (min (f.under q) (f.inf - 1)) := by
  rcases Nat.lt_or_ge (f.under q) f.inf with h | h
  · rw [Fmt.roundMag_val h, Fmt.near_toZero, Nat.min_eq_left (by omega)]
  · rw [Fmt.roundMag_overflow h, Nat.min_eq_right (by omega)]
    rfl

variable (hf : f.Ok) (hq : 0 < q) (hne : f.at (min (f.under q) (f.inf - 1)) ≠ q)
include hf hq hne

theorem Fmt.roundMag_modes : let m := min (f.under q) (f.inf - 1)
    (f.roundMag 2 sg q).val = f.withSign sg (if sg then m else m + 1) ∧
    (f.roundMag 3 sg q).val = f.withSign sg (if sg then m + 1 else m) ∧
    (f.roundMag 0 sg q).val = f.withSign sg (if q - f.at m < f.at (m + 1) - q ∨ q - f.at m = f.at (m + 1) - q ∧ m % 2 = 0 then m else m + 1) := by
  have hpos := hf.inf_pos
  rcases Nat.lt_or_ge (f.under q) f.inf with h | h
  · rw [Nat.min_eq_left (by omega)] at hne ⊢
    rw [Fmt.roundMag_val h, Fmt.roundMag_val h, Fmt.roundMag_val h, Fmt.near_up hq, Fmt.near_down hq, Fmt.near_nearest hf hq]
    refine ⟨?_, ?_, rfl⟩
    · cases sg <;> simp [hne]
    · cases sg <;> simp [hne]
  · have hm : f.inf - 1 + 1 = f.inf := by omega
    have hge : f.at f.inf ≤ q := (Fmt.at_le_iff hq _).2 h
    have hlo : f.at (f.inf - 1) < q := (f.at_strictMono (by omega)).trans_le hge
    rw [Nat.min_eq_right (by omega)]
    dsimp only
    rw [hm, Fmt.roundMag_overflow h, Fmt.roundMag_overflow h, Fmt.roundMag_overflow h]
    refine ⟨?_, ?_, ?_⟩
    · cases sg <;> rfl
    · cases sg <;> rfl
    · rw [show toInfinity 0 sg = true from rfl, if_pos rfl, if_neg]
      rintro (h' | ⟨h', -⟩) <;> linarith

end modes

/-! ## Flags (R51) -/

section flags
variable {f : Fmt} (hf : f.Ok) {q : ℚ} (hq : 0 < q) (rm : Nat) (sg : Bool)
include hf

theorem Fmt.emin_pow : (2 : ℚ) ^ f.emin = 1 / 2 ^ (f.bias - 1) := by
  have hb := hf.bias_pos
  have h : f.emin = -((f.bias - 1 : Nat) : Int) := by unfold Fmt.emin; omega
  rw [h, zpow_neg, zpow_natCast, one_div]

include hq

/-- The magnitude pattern of a result that does not overflow before rounding. -/
theorem Fmt.mag_roundMag (h : q < 2 ^ (f.bias + 1)) : f.mag (f.roundMag rm sg q).val = f.near rm sg q := by
  have hu := (hf.under_lt_inf hq).2 h
  rw [Fmt.roundMag_val hu]
  exact Fmt.mag_withSign ((Fmt.near_le_inf hu).trans_lt f.inf_lt_signBit)

theorem Fmt.roundMag_tiny_iff : f.tiny rm sg q = true ↔
    q < 1 / 2 ^ (f.bias - 1) ∧ f.mag (f.roundMag rm sg (2 * q)).val < 2 * 2 ^ f.fw := by
  rw [Fmt.tiny_iff hq, Fmt.emin_pow hf]
  refine and_congr_right fun hlt => ?_
  have hone : (1 : ℚ) / 2 ^ (f.bias - 1) ≤ 1 := (div_le_one (by positivity)).2 (one_le_pow₀ one_le_two)
  have htwo : (2 : ℚ) ^ 1 ≤ 2 ^ (f.bias + 1) := pow_le_pow_right₀ one_le_two (by omega)
  rw [Fmt.mag_roundMag hf (by positivity) rm sg (by linarith)]

/-- The flags of a rounded number. -/
theorem Fmt.roundMag_all_flags :
    let k := f.mag (f.roundMag rm sg q).val
    let inexact := k = f.inf ∨ f.at k ≠ q
    let tiny := q < 1 / 2 ^ (f.bias - 1) ∧ f.mag (f.roundMag rm sg (2 * q)).val < 2 * 2 ^ f.fw
    (k = f.inf ∨ 2 ^ (f.bias + 1) ≤ q → (f.roundMag rm sg q).flags = 4 + 16) ∧
    (k ≠ f.inf → q < 2 ^ (f.bias + 1) → (¬ inexact → (f.roundMag rm sg q).flags = 0) ∧
      (inexact → (tiny → (f.roundMag rm sg q).flags = 8 + 16) ∧ (¬ tiny → (f.roundMag rm sg q).flags = 16))) := by
  intro k inexact tiny
  rcases lt_or_ge q (2 ^ (f.bias + 1)) with h | h
  · have hk : k = f.near rm sg q := Fmt.mag_roundMag hf hq rm sg h
    have hu := (hf.under_lt_inf hq).2 h
    refine ⟨fun hinf => Fmt.roundMag_flags_inf ?_, fun hinf _ => ?_⟩
    · rw [← hk]
      exact (hinf.resolve_right (not_le.2 h)).ge
    · have hlt : f.near rm sg q < f.inf := lt_of_le_of_ne (Fmt.near_le_inf hu) (hk ▸ hinf)
      have hexact : f.at k = q ↔ f.at (f.under q) = q := by
        constructor
        · intro e
          have : f.under q = k := Fmt.under_eq hq e.le (e ▸ f.at_strictMono (Nat.lt_succ_self k))
          rw [this, e]
        · intro e
          rw [hk, Fmt.near_exact hq e, e]
      have hflags := Fmt.roundMag_flags hlt
      rw [if_congr hexact.symm rfl rfl] at hflags
      rw [hflags]
      refine ⟨fun hx => if_pos (not_not.1 fun e => hx (.inr e)), fun hx => ?_⟩
      rw [if_neg (hx.resolve_left hinf)]
      unfold tiny
      rw [← Fmt.roundMag_tiny_iff hf hq]
      exact ⟨fun ht => if_pos ht, fun ht => if_neg ht⟩
  · rw [hf.roundMag_overflow h]
    exact ⟨fun _ => rfl, fun _ hlt => absurd h (not_le.2 hlt)⟩

end flags

end Sys2Proof.Machine
end

section
/-! # Arithmetic of the binary formats (R48, R52 to R54, R121, R122) -/

namespace Sys2Proof.Machine

/-! ## NaNs (R52, R56) -/

theorem or_two_pow (x k : Nat) : x ||| 2 ^ k = if bit x k then x else x + 2 ^ k := by
  have hput : x ||| 2 ^ k = putBits x k 1 1 := by
    refine Nat.eq_of_testBit_eq fun i => ?_
    rw [Nat.testBit_or, testBit_putBits, Nat.testBit_two_pow]
    by_cases h : k = i
    · subst h; simp
    · rw [if_neg (by omega)]; simp [h]
  have hbits : bits x k 1 = if bit x k then 1 else 0 := by
    have := Nat.mod_two_eq_zero_or_one (x / 2 ^ k)
    rcases this with h | h <;> simp [bits, bit, h]
  have hle : bits x k 1 * 2 ^ k ≤ x := by
    have h1 : bits x k 1 ≤ x / 2 ^ k := Nat.mod_le _ _
    exact (Nat.mul_le_mul_right _ h1).trans (Nat.div_mul_le_self _ _)
  rw [hput, putBits]
  rw [hbits] at hle ⊢
  split at hle <;> simp_all

theorem Fmt.quieted_eq (f : Fmt) (x : Nat) : f.quieted x = if bit x (f.fw - 1) then x else x + 2 ^ (f.fw - 1) := or_two_pow x _

section nan
variable {f : Fmt} {x : Nat}

theorem bit_add_mul (hf : f.Ok) (k p : Nat) : bit (k * 2 ^ f.fw + p) (f.fw - 1) = bit p (f.fw - 1) := by
  obtain ⟨j, hj⟩ := Nat.exists_eq_add_of_le hf.1
  rw [bit, bit, hj, Nat.add_sub_cancel_left, pow_add, pow_one, ← mul_assoc, Nat.add_comm (_ * _), Nat.add_mul_div_right _ _ (Nat.two_pow_pos j)]
  congr 1
  omega

/-- A NaN's pattern: its sign, all ones, and its payload. -/
theorem Fmt.nan_pattern (hf : f.Ok) (h : f.isNaN x = true) (hx : x < 2 * f.signBit) : x = f.withSign (f.neg x) (f.inf + x % 2 ^ f.fw) := by
  have hinf : f.inf < f.mag x := of_decide_eq_true h
  have hlt := f.mag_lt x
  have hmod : x % 2 ^ f.fw = f.mag x % 2 ^ f.fw := by
    rw [Fmt.mag, hf.signBit_eq, Nat.mod_mul_left_mod]
  have hmag : f.mag x = f.inf + x % 2 ^ f.fw := by
    rw [hf.inf_eq] at hinf ⊢
    rw [hf.signBit_eq] at hlt
    obtain ⟨j, hj⟩ := Nat.exists_eq_add_of_le hinf.le
    have hjlt : j < 2 ^ f.fw := by
      have : (2 * f.bias + 2) * 2 ^ f.fw = (2 * f.bias + 1) * 2 ^ f.fw + 2 ^ f.fw := by ring
      omega
    rw [hmod, hj, Nat.mul_add_mod_self_right, Nat.mod_eq_of_lt hjlt]
  rw [← hmag, Fmt.withSign_neg_mag hx]

theorem Fmt.quieted_pattern (hf : f.Ok) (s : Bool) (p : Nat) : f.quieted (f.withSign s (f.inf + p)) = f.withSign s (f.inf + f.quieted p) := by
  have hbit : bit (f.withSign s (f.inf + p)) (f.fw - 1) = bit p (f.fw - 1) := by
    cases s
    · rw [Fmt.withSign, hf.inf_eq]
      exact bit_add_mul hf _ p
    · rw [Fmt.withSign, if_pos rfl, hf.inf_eq, hf.signBit_eq, Nat.add_right_comm, ← Nat.add_mul]
      exact bit_add_mul hf _ p
  rw [Fmt.quieted_eq, Fmt.quieted_eq, hbit]
  unfold Fmt.withSign
  cases s <;> split <;> simp <;> omega

/-- A NaN carried to a format. -/
theorem nanTo_eq (f g : Fmt) (x : Nat) : nanTo f g x = g.withSign (f.neg x) (g.inf +
    g.quieted (if f.fw ≤ g.fw then x % 2 ^ f.fw * 2 ^ (g.fw - f.fw) else x % 2 ^ f.fw / 2 ^ (f.fw - g.fw))) := by
  rw [Fmt.quieted_eq]
  rfl

theorem nanTo_same (hf : f.Ok) (h : f.isNaN x = true) (hx : x < 2 * f.signBit) : nanTo f f x = f.quieted x := by
  conv_rhs => rw [Fmt.nan_pattern hf h hx, Fmt.quieted_pattern hf]
  rw [nanTo_eq]
  simp

/-- Without a NaN among the operands none is chosen. -/
theorem pickNaN_none {g : Fmt} {ops : List (Fmt × Nat)} (h : ∀ o ∈ ops, o.1.isNaN o.2 = false) : pickNaN g ops = none := by
  have hfind : ops.find? (fun o => o.1.isNaN o.2) = none := List.find?_eq_none.2 fun o ho => by simp [h o ho]
  simp [pickNaN, hfind]

/-- The first NaN of the operands is chosen. -/
theorem pickNaN_first {g : Fmt} {l m : List (Fmt × Nat)} {o : Fmt × Nat} (hl : ∀ p ∈ l, p.1.isNaN p.2 = false) (ho : o.1.isNaN o.2 = true) :
    pickNaN g (l ++ o :: m) = some ⟨nanTo o.1 g o.2, if (l ++ o :: m).any fun p => p.1.isSNaN p.2 then 1 else 0⟩ := by
  have hfind : (l ++ o :: m).find? (fun o => o.1.isNaN o.2) = some o := by
    rw [List.find?_append, List.find?_eq_none.2 fun p hp => by simp [hl p hp], List.find?_cons_of_pos (by exact ho)]
    rfl
  simp only [pickNaN, hfind]
  rfl

end nan

/-! ## Values by sign and magnitude -/

section values
variable {f : Fmt} {a b : Nat}

theorem Fmt.isNaN_iff : f.isNaN a = true ↔ f.inf < f.mag a := decide_eq_true_iff

/-- A pattern that is no NaN is an infinity or finite. -/
theorem Fmt.inf_or_lt (h : f.isNaN a = false) : f.mag a = f.inf ∨ f.mag a < f.inf := by
  have : ¬ f.inf < f.mag a := of_decide_eq_false h
  omega

theorem Fmt.value_sign (h : f.isNaN a = false) : (f.value a).sign = f.neg a := by
  rcases Fmt.inf_or_lt h with h | h
  · rw [Fmt.value_inf h]; rfl
  · obtain ⟨n, k, e⟩ := Fmt.value_fin h
    rw [e]; rfl

theorem Fmt.value_eq_inf {s : Bool} : f.value a = .inf s ↔ f.mag a = f.inf ∧ f.neg a = s := by
  constructor
  · intro e
    have hn : ¬ f.isNaN a = true := fun h => by rw [Fmt.value_nan.2 h] at e; cases e
    rcases Fmt.inf_or_lt (Bool.eq_false_iff.2 hn) with h | h
    · rw [Fmt.value_inf h] at e
      exact ⟨h, FVal.inf.inj e⟩
    · obtain ⟨n, k, e'⟩ := Fmt.value_fin h
      rw [e'] at e; cases e
  · rintro ⟨h, rfl⟩
    exact Fmt.value_inf h

theorem Fmt.Ok.at_eq_zero (_ : f.Ok) {m : Nat} : f.at m = 0 ↔ m = 0 := by
  rw [← f.at_zero, f.at_strictMono.injective.eq_iff]

theorem Fmt.value_isZero (hf : f.Ok) : (f.value a).isZero = true ↔ f.mag a = 0 := by
  rcases Nat.lt_trichotomy (f.mag a) f.inf with h | h | h
  · have hr := Fmt.value_rat hf h
    have hs := f.value_sound a
    obtain ⟨n, k, e⟩ := Fmt.value_fin h
    rw [e] at hr hs ⊢
    have hz : (FVal.fin (f.neg a) n (2 ^ k)).rat = 0 ↔ f.mag a = 0 := by
      rw [hr, mul_eq_zero, hf.at_eq_zero]
      constructor
      · rintro (h' | h')
        · split at h' <;> norm_num at h'
        · exact h'
      · exact .inr
    rw [← hz, FVal.rat_eq_zero (hs _ _ _ rfl)]
    exact beq_iff_eq
  · have := hf.inf_pos
    rw [Fmt.value_inf h]
    simp [FVal.isZero]
    omega
  · rw [Fmt.value_nan.2 (decide_eq_true h)]
    simp [FVal.isZero]
    omega

theorem Fmt.negate_eq (f : Fmt) (a : Nat) : f.negate a = f.withSign (!f.neg a) (f.mag a) := by
  unfold Fmt.negate Fmt.withSign
  cases f.neg a <;> rfl

theorem Fmt.value_negate (f : Fmt) (a : Nat) : f.value (f.negate a) = (f.value a).negate := by
  have hm : f.mag (f.negate a) = f.mag a := by rw [Fmt.negate_eq, Fmt.mag_withSign (f.mag_lt a)]
  have hn : f.neg (f.negate a) = !f.neg a := by rw [Fmt.negate_eq, Fmt.neg_withSign (f.mag_lt a)]
  rcases Nat.lt_trichotomy (f.mag a) f.inf with h | h | h
  · rw [Fmt.value_lt_inf h, Fmt.value_lt_inf (hm ▸ h), hm, hn]
    split
    · rfl
    · split <;> rfl
  · rw [Fmt.value_inf h, Fmt.value_inf (hm ▸ h), hn]
    rfl
  · rw [Fmt.value_nan.2 (decide_eq_true h), Fmt.value_nan.2 (decide_eq_true (hm ▸ h))]
    rfl

/-! ## The order of the values (R54, R121, R122) -/

theorem Fmt.rank_inj (ha : a < 2 * f.signBit) (hb : b < 2 * f.signBit) (h : f.rank a = f.rank b) : a = b := by
  have hs : f.neg a = f.neg b ∧ f.mag a = f.mag b := by
    unfold Fmt.rank at h
    cases hna : f.neg a <;> cases hnb : f.neg b <;> rw [hna, hnb] at h <;> simp at h ⊢ <;> omega
  rw [← Fmt.withSign_neg_mag ha, ← Fmt.withSign_neg_mag hb, hs.1, hs.2]

/-- The order of the values is that of the places of their patterns, but for the two zeros, which are equal. -/
theorem Fmt.lt_iff (hf : f.Ok) (ha : f.isNaN a = false) (hb : f.isNaN b = false) :
    (f.value a).lt (f.value b) = true ↔ f.rank a < f.rank b ∧ ¬ (f.mag a = 0 ∧ f.mag b = 0) := by
  have hpos := hf.inf_pos
  rcases Fmt.inf_or_lt ha with h | h <;> rcases Fmt.inf_or_lt hb with h' | h'
  · rw [Fmt.value_inf h, Fmt.value_inf h', Fmt.rank, Fmt.rank, h, h']
    cases f.neg a <;> cases f.neg b <;> simp [FVal.lt] <;> omega
  · obtain ⟨n, k, e⟩ := Fmt.value_fin h'
    rw [Fmt.value_inf h, e, Fmt.rank, Fmt.rank, h]
    cases f.neg a <;> cases f.neg b <;> simp [FVal.lt] <;> omega
  · obtain ⟨n, k, e⟩ := Fmt.value_fin h
    rw [Fmt.value_inf h', e, Fmt.rank, Fmt.rank, h']
    cases f.neg a <;> cases f.neg b <;> simp [FVal.lt] <;> omega
  · rw [FVal.lt_rat (Fmt.value_finite.2 h) (Fmt.value_finite.2 h') (f.value_sound a) (f.value_sound b), decide_eq_true_iff,
      Fmt.value_rat hf h, Fmt.value_rat hf h', Fmt.rank, Fmt.rank]
    have h0 := f.at_nonneg (f.mag a)
    have h0' := f.at_nonneg (f.mag b)
    have hz := hf.at_eq_zero (m := f.mag a)
    have hz' := hf.at_eq_zero (m := f.mag b)
    have hmono (m n : Nat) : f.at m < f.at n ↔ m < n := f.at_strictMono.lt_iff_lt
    have hsum : 0 < f.at (f.mag a) + f.at (f.mag b) ↔ ¬ (f.mag a = 0 ∧ f.mag b = 0) := by
      rw [← hz, ← hz', ← add_eq_zero_iff_of_nonneg h0 h0']
      exact ⟨fun h => h.ne', fun h => lt_of_le_of_ne (add_nonneg h0 h0') (Ne.symm h)⟩
    cases f.neg a <;> cases f.neg b
    · simp [hmono]
      omega
    · have : ¬ f.at (f.mag a) < -f.at (f.mag b) := by linarith
      simp [this]
      omega
    · simp only [if_true, Bool.false_eq_true, if_false, neg_one_mul, one_mul, ← hsum]
      constructor
      · exact fun h => ⟨by omega, by linarith⟩
      · rintro ⟨-, h⟩
        linarith
    · simp [hmono]
      omega

theorem Fmt.before_iff (hf : f.Ok) (ha : f.isNaN a = false) (hb : f.isNaN b = false) :
    (f.value a).before (f.value b) = true ↔ f.rank a < f.rank b := by
  rw [FVal.before, Bool.or_eq_true, Fmt.lt_iff hf ha hb]
  simp only [Bool.and_eq_true, Bool.not_eq_true', Fmt.value_isZero hf, Fmt.value_sign ha, Fmt.value_sign hb]
  unfold Fmt.rank
  cases f.neg a <;> cases f.neg b <;> simp <;> omega

/-- The smaller and the larger operand, −0 below +0 (R54). -/
theorem Fmt.minmax_eq (hf : f.Ok) (ha : a < 2 * f.signBit) (hb : b < 2 * f.signBit) (hna : f.isNaN a = false) (hnb : f.isNaN b = false) :
    f.minmax false a b = ⟨if f.rank a ≤ f.rank b then a else b, 0⟩ ∧ f.minmax true a b = ⟨if f.rank a ≤ f.rank b then b else a, 0⟩ := by
  have hnone : pickNaN f [(f, a), (f, b)] = none := pickNaN_none (by simp [hna, hnb])
  have hab := Fmt.before_iff hf hna hnb
  have hba := Fmt.before_iff hf hnb hna
  unfold Fmt.minmax
  rw [hnone]
  dsimp only
  rcases lt_trichotomy (f.rank a) (f.rank b) with h | h | h
  · simp [Bool.eq_false_iff.2 (mt hba.1 h.not_gt), hab.2 h, h.le]
  · obtain rfl := Fmt.rank_inj ha hb h
    simp
  · simp [Bool.eq_false_iff.2 (mt hab.1 h.not_gt), hba.2 h, h]

/-- A comparison raises `NV` for a signalling NaN, and in the ordering forms for any NaN (R122). -/
theorem Fmt.cmp_flags (f : Fmt) (cc a b : Nat) :
    ((f.cmp cc a b).flags = 1 ↔ f.isSNaN a = true ∨ f.isSNaN b = true ∨ (f.isNaN a = true ∨ f.isNaN b = true) ∧ 2 ≤ cc ∧ cc ≤ 5) ∧
    ((f.cmp cc a b).flags = 0 ∨ (f.cmp cc a b).flags = 1) := by
  have hcc : (cc == 2 || cc == 3 || cc == 4 || cc == 5) = true ↔ 2 ≤ cc ∧ cc ≤ 5 := by simp; omega
  have hcond : (f.isSNaN a || f.isSNaN b || ((f.isNaN a || f.isNaN b) && (cc == 2 || cc == 3 || cc == 4 || cc == 5))) = true ↔
      f.isSNaN a = true ∨ f.isSNaN b = true ∨ (f.isNaN a = true ∨ f.isNaN b = true) ∧ 2 ≤ cc ∧ cc ≤ 5 := by
    simp only [Bool.or_eq_true, Bool.and_eq_true, ← hcc, or_assoc]
  rw [← hcond]
  unfold Fmt.cmp
  dsimp only
  split
  · next h => simp [h, flagNV]
  · next h => simp [h]

/-- Where neither operand is a NaN, one of three holds: the first is less, both are the same, or the first is greater. -/
theorem Fmt.lt_cases (hf : f.Ok) (ha : f.isNaN a = false) (hb : f.isNaN b = false) :
    let same := f.rank a = f.rank b ∨ f.mag a = 0 ∧ f.mag b = 0
    let less := f.rank a < f.rank b ∧ ¬ same
    ((f.value a).lt (f.value b) = true ↔ less) ∧ ((f.value b).lt (f.value a) = true ↔ ¬ less ∧ ¬ same) := by
  dsimp only
  rw [Fmt.lt_iff hf ha hb, Fmt.lt_iff hf hb ha]
  omega

/-- The eight comparisons (R122). -/
theorem Fmt.cmp_val (hf : f.Ok) (a b : Nat) :
    let same := f.rank a = f.rank b ∨ f.mag a = 0 ∧ f.mag b = 0
    let less := f.rank a < f.rank b ∧ ¬ same
    let un := f.isNaN a = true ∨ f.isNaN b = true
    ∀ p ∈ ([(0, ¬ un ∧ same), (1, un ∨ ¬ same), (2, ¬ un ∧ less), (3, ¬ un ∧ (less ∨ same)), (4, ¬ un ∧ ¬ less ∧ ¬ same),
        (5, ¬ un ∧ ¬ less), (6, un), (7, ¬ un)] : List (Nat × Prop)),
      ((f.cmp p.1 a b).val = 1 ↔ p.2) ∧ ((f.cmp p.1 a b).val = 0 ↔ ¬ p.2) := by
  intro same less un p hp
  simp only [List.mem_cons, List.not_mem_nil, or_false] at hp
  by_cases h : un
  · have hu : (f.isNaN a || f.isNaN b) = true := by simpa [un] using h
    rcases hp with rfl | rfl | rfl | rfl | rfl | rfl | rfl | rfl <;> simp [Fmt.cmp, b2n, hu, h]
  · have hna : f.isNaN a = false := Bool.eq_false_iff.2 fun e => h (.inl e)
    have hnb : f.isNaN b = false := Bool.eq_false_iff.2 fun e => h (.inr e)
    obtain ⟨hlt, hgt⟩ := Fmt.lt_cases hf hna hnb
    have hless : less → ¬ same := fun h => h.2
    change _ ↔ less at hlt
    change _ ↔ ¬ less ∧ ¬ same at hgt
    generalize less = P at *
    generalize same = Q at *
    generalize hl : (f.value a).lt (f.value b) = l at *
    generalize hg : (f.value b).lt (f.value a) = g at *
    by_cases hP : P <;> by_cases hQ : Q
    · exact absurd hQ (hless hP)
    all_goals
      simp only [hP, hQ, not_true, not_false_iff, and_true, and_false, iff_true, iff_false, Bool.not_eq_true] at hlt hgt
      rcases hp with rfl | rfl | rfl | rfl | rfl | rfl | rfl | rfl <;> simp [Fmt.cmp, b2n, hna, hnb, hl, hg, hlt, hgt, h, hP, hQ]

end values

/-! ## Sums and products (R53, R54) -/

/-- The zero that an exact sum gives is negative when every addend is, and downwards when any is (R54). -/
def zeroSign (rm : Nat) (l : List Bool) : Bool := l.all id || rm == 3 && l.any id

section sums
variable {f : Fmt} {rm : Nat}

theorem FVal.frac_rat {v : FVal} : v.rat = (v.frac.1 : ℚ) / v.frac.2 := by
  cases v with
  | fin s n d => exact FVal.rat_fin s n d
  | nan => simp [FVal.rat, FVal.frac]
  | inf s => simp [FVal.rat, FVal.frac]

theorem FVal.sound.frac_pos {v : FVal} (h : v.sound) : 0 < v.frac.2 := by
  cases v with
  | fin s n d => exact h _ _ _ rfl
  | nan => exact Nat.one_pos
  | inf s => exact Nat.one_pos

/-- The fraction that the addends sum up to. -/
theorem foldl_addFrac {l : List FVal} (hl : ∀ v ∈ l, v.sound) {t : Int × Nat} (ht : 0 < t.2) :
    0 < (l.foldl (fun a v => addFrac a v.frac) t).2 ∧ (((l.foldl (fun a v => addFrac a v.frac) t).1 : ℚ) /
      (l.foldl (fun a v => addFrac a v.frac) t).2) = t.1 / t.2 + (l.map FVal.rat).sum := by
  induction l generalizing t with
  | nil => simpa using ht
  | cons v l ih =>
    rw [List.forall_mem_cons] at hl
    have hv := hl.1.frac_pos
    have hpos : 0 < (addFrac t v.frac).2 := Nat.mul_pos ht hv
    obtain ⟨h1, h2⟩ := ih hl.2 hpos
    refine ⟨h1, h2.trans ?_⟩
    have hsum : ((addFrac t v.frac).1 : ℚ) / (addFrac t v.frac).2 = t.1 / t.2 + v.rat := by
      have ht' : (t.2 : ℚ) ≠ 0 := by positivity
      have hv' : (v.frac.2 : ℚ) ≠ 0 := by positivity
      rw [FVal.frac_rat, div_add_div _ _ ht' hv', addFrac]
      push_cast
      ring
    rw [hsum, List.map_cons, List.sum_cons, add_assoc]

theorem sum_all_zero {l : List ℚ} (h : ∀ x ∈ l, 0 ≤ x) (hs : l.sum = 0) : ∀ x ∈ l, x = 0 :=
  fun x hx => le_antisymm (hs ▸ List.single_le_sum h x hx) (h x hx)

theorem FVal.rat_nonneg {v : FVal} (h : v.sign = false) : 0 ≤ v.rat := by
  cases v with
  | fin s n d =>
    obtain rfl : s = false := h
    simp only [FVal.rat, Bool.false_eq_true, if_false, one_mul]
    positivity
  | nan => exact le_rfl
  | inf s => exact le_rfl

theorem FVal.rat_nonpos {v : FVal} (h : v.sign = true) : v.rat ≤ 0 := by
  cases v with
  | fin s n d =>
    obtain rfl : s = true := h
    simp only [FVal.rat, if_true, neg_one_mul, Left.neg_nonpos_iff]
    positivity
  | nan => exact le_rfl
  | inf s => exact le_rfl

theorem FVal.isZero_of_rat {v : FVal} (hf : v.finite = true) (hs : v.sound) (h : v.rat = 0) : v.isZero = true := by
  obtain ⟨s, n, d, rfl⟩ := FVal.finite_iff.1 hf
  exact beq_iff_eq.2 ((FVal.rat_eq_zero (hs _ _ _ rfl)).1 h)

/-- Where the exact sum is zero, addends of one sign are all zeros. -/
theorem zeroSign_eq {l : List FVal} (hf : ∀ v ∈ l, v.finite = true) (hs : ∀ v ∈ l, v.sound) (h0 : (l.map FVal.rat).sum = 0) :
    ((l.all fun v => v.isZero && v.sign) || (rm == 3 && !l.all fun v => v.isZero && !v.sign)) = zeroSign rm (l.map FVal.sign) := by
  have hzero (hall : ∀ x ∈ l.map FVal.rat, x = 0) : ∀ v ∈ l, v.isZero = true := fun v hv =>
    FVal.isZero_of_rat (hf v hv) (hs v hv) (hall _ (List.mem_map_of_mem hv))
  have hneg : (l.all fun v => v.isZero && v.sign) = l.all FVal.sign := by
    rw [Bool.eq_iff_iff, List.all_eq_true, List.all_eq_true]
    refine ⟨fun h v hv => (Bool.and_eq_true _ _ ▸ h v hv).2, fun h v hv => ?_⟩
    have hall : ∀ x ∈ (l.map FVal.rat).map (-·), x = 0 := by
      refine sum_all_zero ?_ (by rw [← List.sum_neg, h0, neg_zero])
      simp only [List.map_map, List.forall_mem_map]
      exact fun u hu => neg_nonneg.2 (FVal.rat_nonpos (h u hu))
    rw [hzero (fun x hx => neg_eq_zero.1 (hall _ (List.mem_map_of_mem hx))) v hv, h v hv]
    rfl
  have hpos : (l.all fun v => v.isZero && !v.sign) = l.all fun v => !v.sign := by
    rw [Bool.eq_iff_iff, List.all_eq_true, List.all_eq_true]
    refine ⟨fun h v hv => (Bool.and_eq_true _ _ ▸ h v hv).2, fun h v hv => ?_⟩
    have hall : ∀ x ∈ l.map FVal.rat, x = 0 := by
      refine sum_all_zero ?_ h0
      simp only [List.forall_mem_map]
      exact fun u hu => FVal.rat_nonneg (by simpa using h u hu)
    rw [hzero hall v hv, h v hv]
    rfl
  rw [hneg, hpos, zeroSign, List.all_map, List.any_map, List.not_all_eq_any_not]
  simp

/-- The sum of finite addends is their exact sum, rounded once (R54). -/
theorem Fmt.sum_finite {l : List FVal} (hf : ∀ v ∈ l, v.finite = true) (hs : ∀ v ∈ l, v.sound) :
    f.sum rm l = f.roundQ rm (zeroSign rm (l.map FVal.sign)) (l.map FVal.rat).sum := by
  have hany (s : Bool) : (l.any fun v => v == .inf s) = false := by
    rw [List.any_eq_false]
    intro v hv e
    have := hf v hv
    rw [eq_of_beq e] at this
    cases this
  obtain ⟨hpos, hval⟩ := foldl_addFrac hs (t := (0, 1)) Nat.one_pos
  unfold Fmt.sum
  simp only [hany, Bool.and_self, Bool.false_eq_true, if_false]
  generalize ht : l.foldl (fun a v => addFrac a v.frac) (0, 1) = t at hpos hval
  have hval : (t.1 : ℚ) / t.2 = (l.map FVal.rat).sum := by rw [hval]; simp
  have hpos' : (0 : ℚ) < t.2 := by exact_mod_cast hpos
  have hz : t.1 = 0 ↔ (l.map FVal.rat).sum = 0 := by
    rw [← hval, div_eq_zero_iff, or_iff_left hpos'.ne', Int.cast_eq_zero]
  by_cases h0 : t.1 = 0
  · rw [if_pos (by simpa using h0), Fmt.roundQ, if_pos (hz.1 h0), zeroSign_eq hf hs (hz.1 h0)]
  · have hn : 0 < t.1.natAbs := Int.natAbs_pos.2 h0
    have habs : ((t.1.natAbs : ℚ) / t.2) = |(l.map FVal.rat).sum| := by
      rw [← hval, abs_div, Nat.abs_cast, Nat.cast_natAbs, Int.cast_abs]
    have hsign : (t.1 < 0) ↔ (l.map FVal.rat).sum < 0 := by
      rw [← hval, div_lt_iff₀ hpos', zero_mul, Int.cast_lt_zero]
    rw [if_neg (by simpa using h0), Fmt.roundQ, if_neg (mt hz.2 h0), Fmt.round_eq rm _ hn hpos, habs, decide_eq_decide.2 hsign]

/-- A sum with an infinity among its addends (R53). -/
theorem Fmt.sum_inf {l : List FVal} :
    (.inf true ∈ l → .inf false ∈ l → f.sum rm l = ⟨f.nan, 1⟩) ∧
    ∀ s, .inf s ∈ l → .inf (!s) ∉ l → f.sum rm l = ⟨f.withSign s f.inf, 0⟩ := by
  have hany (s : Bool) : (l.any fun v => v == .inf s) = decide (.inf s ∈ l) := by
    rw [Bool.eq_iff_iff, List.any_eq_true, decide_eq_true_iff]
    exact ⟨fun ⟨v, hv, e⟩ => eq_of_beq e ▸ hv, fun h => ⟨_, h, beq_self_eq_true _⟩⟩
  unfold Fmt.sum
  simp only [hany]
  refine ⟨fun h1 h2 => by simp [h1, h2, flagNV], fun s h1 h2 => ?_⟩
  cases s <;> simp_all [Fmt.withSign]

/-- The exact product of finite values. -/
theorem FVal.mul_finite {a b : FVal} (ha : a.finite = true) (hb : b.finite = true) : a.mul b = some (a.times b) := by
  obtain ⟨s, n, d, rfl⟩ := FVal.finite_iff.1 ha
  obtain ⟨t, m, e, rfl⟩ := FVal.finite_iff.1 hb
  rfl

theorem FVal.times_sign {a b : FVal} (ha : a.finite = true) (hb : b.finite = true) : (a.times b).sign = (a.sign != b.sign) := by
  obtain ⟨s, n, d, rfl⟩ := FVal.finite_iff.1 ha
  obtain ⟨t, m, e, rfl⟩ := FVal.finite_iff.1 hb
  rfl

theorem FVal.times_finite {a b : FVal} (ha : a.finite = true) (hb : b.finite = true) :
    (a.times b).finite = true ∧ (a.times b).rat = a.rat * b.rat := by
  obtain ⟨s, n, d, rfl⟩ := FVal.finite_iff.1 ha
  obtain ⟨t, m, e, rfl⟩ := FVal.finite_iff.1 hb
  exact ⟨rfl, FVal.times_rat ..⟩

end sums

end Sys2Proof.Machine
end

section
/-! # Rounding, arithmetic, NaNs and comparisons of the binary formats (R48, R50 to R54, R121, R122) -/

namespace Sys2Proof.Machine

/-- A value, negated where `p` says so. -/
def FVal.flip (p : Bool) (v : FVal) : FVal := if p then v.negate else v

section flip
variable {v : FVal}

theorem FVal.flip_finite {p : Bool} (h : v.finite = true) : (v.flip p).finite = true := by
  obtain ⟨s, n, d, rfl⟩ := FVal.finite_iff.1 h
  cases p <;> rfl

theorem FVal.sound.flip {p : Bool} (h : v.sound) : (v.flip p).sound := by
  cases p
  · exact h
  · exact h.negate

theorem FVal.flip_sign {p : Bool} (h : v ≠ .nan) : (v.flip p).sign = xor v.sign p := by
  cases v with
  | nan => exact absurd rfl h
  | inf s => cases p <;> simp [FVal.flip, FVal.sign, FVal.negate]
  | fin s n d => cases p <;> simp [FVal.flip, FVal.sign, FVal.negate]

theorem FVal.flip_rat (p : Bool) (v : FVal) : (v.flip p).rat = if p then -v.rat else v.rat := by
  cases p
  · rfl
  · cases v with
    | nan => simp [FVal.flip, FVal.rat, FVal.negate]
    | inf s => simp [FVal.flip, FVal.rat, FVal.negate]
    | fin s n d => cases s <;> simp [FVal.flip, FVal.rat, FVal.negate]

theorem FVal.flip_inf (p s : Bool) : (FVal.inf s).flip p = .inf (xor s p) := by cases p <;> cases s <;> rfl

theorem FVal.ne_nan_of_finite (h : v.finite = true) : v ≠ .nan := by rintro rfl; cases h

end flip

section ops
variable {f : Fmt} {rm a b c : Nat}

theorem zeroSign_pair (rm : Nat) (s t : Bool) : zeroSign rm [s, t] = if s = t then s else rm == 3 := by
  cases s <;> cases t <;> simp [zeroSign]

/-- The operands of an operation without a NaN among them. -/
theorem pickNaN_pair (ha : f.isNaN a = false) (hb : f.isNaN b = false) : pickNaN f [(f, a), (f, b)] = none := pickNaN_none (by simp [ha, hb])

theorem Fmt.isNaN_of_finite (h : (f.value a).finite = true) : f.isNaN a = false :=
  Bool.eq_false_iff.2 fun e => by rw [Fmt.value_nan.2 e] at h; cases h

theorem Fmt.isNaN_of_inf (h : f.mag a = f.inf) : f.isNaN a = false := by simp [Fmt.isNaN, h]

/-! ## Results of finite operands (R54) -/

section finite
variable (ha : (f.value a).finite = true) (hb : (f.value b).finite = true)
include ha hb

theorem Fmt.add_finite : f.add rm a b = f.roundQ rm (if f.neg a = f.neg b then f.neg a else rm == 3) ((f.value a).rat + (f.value b).rat) := by
  have hna := Fmt.isNaN_of_finite ha
  have hnb := Fmt.isNaN_of_finite hb
  rw [Fmt.add, pickNaN_pair hna hnb]
  refine (Fmt.sum_finite (by simp [ha, hb]) (by simp [Fmt.value_sound])).trans ?_
  simp only [List.map_cons, List.map_nil, Fmt.value_sign hna, Fmt.value_sign hnb, zeroSign_pair, List.sum_cons, List.sum_nil, add_zero]

theorem Fmt.mul_finite : f.mul rm a b = f.roundQ rm (f.neg a != f.neg b) ((f.value a).rat * (f.value b).rat) := by
  have hna := Fmt.isNaN_of_finite ha
  have hnb := Fmt.isNaN_of_finite hb
  obtain ⟨hfin, hrat⟩ := FVal.times_finite ha hb
  rw [Fmt.mul, pickNaN_pair hna hnb, FVal.mul_finite ha hb]
  refine (Fmt.roundVal_eq rm hfin ((f.value_sound a).times (f.value_sound b))).trans ?_
  rw [hrat, FVal.times_sign ha hb, Fmt.value_sign hna, Fmt.value_sign hnb]

theorem Fmt.fma_finite (hc : (f.value c).finite = true) (p q : Bool) : f.fma rm p q a b c =
    f.roundQ rm (if xor (xor (f.neg a) (f.neg b)) p = xor (f.neg c) q then xor (f.neg c) q else rm == 3)
      ((if p then -((f.value a).rat * (f.value b).rat) else (f.value a).rat * (f.value b).rat) + if q then -(f.value c).rat else (f.value c).rat) := by
  have hna := Fmt.isNaN_of_finite ha
  have hnb := Fmt.isNaN_of_finite hb
  have hnc := Fmt.isNaN_of_finite hc
  obtain ⟨hfin, hrat⟩ := FVal.times_finite ha hb
  have hnone : pickNaN f [(f, a), (f, b), (f, c)] = none := pickNaN_none (by simp [hna, hnb, hnc])
  have hs := (f.value_sound a).times (f.value_sound b)
  have hsum := Fmt.sum_finite (f := f) (rm := rm) (l := [((f.value a).times (f.value b)).flip p, (f.value c).flip q])
    (by simp [FVal.flip_finite hfin, FVal.flip_finite hc]) (by simp [hs.flip, (f.value_sound c).flip])
  rw [Fmt.fma, hnone, hna, hnb, Bool.or_self, if_neg Bool.false_ne_true, FVal.mul_finite ha hb]
  refine hsum.trans ?_
  have hsign : (f.neg a != f.neg b) = xor (f.neg a) (f.neg b) := rfl
  simp only [List.map_cons, List.map_nil, FVal.flip_sign (FVal.ne_nan_of_finite hfin), FVal.flip_sign (FVal.ne_nan_of_finite hc),
    FVal.times_sign ha hb, Fmt.value_sign hna, Fmt.value_sign hnb, Fmt.value_sign hnc, zeroSign_pair, List.sum_cons, List.sum_nil, add_zero,
    FVal.flip_rat, hrat, hsign]
  refine congrArg (fun z => f.roundQ rm z _) ?_
  split
  · next h => exact h
  · rfl

end finite

/-! ## Infinities and invalid operations (R53) -/

theorem Fmt.sub_eq (hna : f.isNaN a = false) (hnb : f.isNaN b = false) : f.sub rm a b = f.add rm a (f.negate b) := by
  have hnb' : f.isNaN (f.negate b) = false := by
    rw [Bool.eq_false_iff, ne_eq, ← Fmt.value_nan, Fmt.value_negate]
    intro e
    have : f.value b ≠ .nan := fun h => Bool.false_ne_true (hnb.symm.trans (Fmt.value_nan.1 h))
    cases hv : f.value b <;> simp_all [FVal.negate]
  rw [Fmt.sub, Fmt.add, pickNaN_pair hna hnb, pickNaN_pair hna hnb', Fmt.value_negate]

section infinite
variable (ha : f.mag a = f.inf)
include ha

theorem Fmt.add_inf_inf (hb : f.mag b = f.inf) : f.add rm a b = if f.neg a = f.neg b then ⟨f.withSign (f.neg a) f.inf, 0⟩ else ⟨f.nan, 1⟩ := by
  obtain ⟨h1, h2⟩ := Fmt.sum_inf (f := f) (rm := rm) (l := [.inf (f.neg a), .inf (f.neg b)])
  rw [Fmt.add, pickNaN_pair (Fmt.isNaN_of_inf ha) (Fmt.isNaN_of_inf hb), Fmt.value_inf ha, Fmt.value_inf hb]
  dsimp only
  generalize f.neg a = s at *
  generalize f.neg b = t at *
  cases s <;> cases t
  · exact h2 false (by simp) (by simp)
  · exact h1 (by simp) (by simp)
  · exact h1 (by simp) (by simp)
  · exact h2 true (by simp) (by simp)

theorem Fmt.add_inf_finite (hb : (f.value b).finite = true) : f.add rm a b = ⟨f.withSign (f.neg a) f.inf, 0⟩ ∧
    f.add rm b a = ⟨f.withSign (f.neg a) f.inf, 0⟩ := by
  have hna := Fmt.isNaN_of_inf ha
  have hnb := Fmt.isNaN_of_finite hb
  obtain ⟨s, n, d, e⟩ := FVal.finite_iff.1 hb
  rw [Fmt.add, Fmt.add, pickNaN_pair hna hnb, pickNaN_pair hnb hna, Fmt.value_inf ha, e]
  exact ⟨Fmt.sum_inf.2 _ (by simp) (by simp), Fmt.sum_inf.2 _ (by simp) (by simp)⟩

omit ha in
/-- A product with an infinity among its factors. -/
theorem FVal.inf_mul (s : Bool) {v : FVal} (hv : v ≠ .nan) :
    (v.isZero = true → (FVal.inf s).mul v = none ∧ v.mul (.inf s) = none) ∧
    (v.isZero = false → (FVal.inf s).mul v = some (.inf (s != v.sign)) ∧ v.mul (.inf s) = some (.inf (s != v.sign))) := by
  cases v with
  | nan => exact absurd rfl hv
  | inf t => simp [FVal.isZero, FVal.mul, FVal.sign, Bool.xor_comm]
  | fin t n d =>
    refine ⟨fun h => ?_, fun h => ?_⟩
    · obtain rfl : n = 0 := eq_of_beq h
      exact ⟨rfl, rfl⟩
    · have hn : (n == 0) = false := h
      simp [FVal.mul, FVal.sign, hn, Bool.xor_comm]

theorem Fmt.inf_mul (hf : f.Ok) (hnb : f.isNaN b = false) :
    (f.mag b = 0 → (f.value a).mul (f.value b) = none ∧ (f.value b).mul (f.value a) = none) ∧
    (f.mag b ≠ 0 → (f.value a).mul (f.value b) = some (.inf (f.neg a != f.neg b)) ∧
      (f.value b).mul (f.value a) = some (.inf (f.neg a != f.neg b))) := by
  have hv : f.value b ≠ .nan := fun e => Bool.false_ne_true (hnb.symm.trans (Fmt.value_nan.1 e))
  obtain ⟨h1, h2⟩ := FVal.inf_mul (f.neg a) hv
  rw [Fmt.value_inf ha]
  refine ⟨fun h => h1 ((Fmt.value_isZero hf).2 h), fun h => ?_⟩
  rw [Fmt.value_sign hnb] at h2
  exact h2 (Bool.eq_false_iff.2 (mt (Fmt.value_isZero hf).1 h))

theorem Fmt.mul_inf (hf : f.Ok) (hnb : f.isNaN b = false) :
    (f.mag b = 0 → f.mul rm a b = ⟨f.nan, 1⟩ ∧ f.mul rm b a = ⟨f.nan, 1⟩) ∧
    (f.mag b ≠ 0 → f.mul rm a b = ⟨f.withSign (f.neg a != f.neg b) f.inf, 0⟩ ∧ f.mul rm b a = ⟨f.withSign (f.neg a != f.neg b) f.inf, 0⟩) := by
  have hna := Fmt.isNaN_of_inf ha
  obtain ⟨h1, h2⟩ := Fmt.inf_mul ha hf hnb
  rw [Fmt.mul, Fmt.mul, pickNaN_pair hna hnb, pickNaN_pair hnb hna]
  refine ⟨fun h => ?_, fun h => ?_⟩
  · rw [(h1 h).1, (h1 h).2]
    exact ⟨rfl, rfl⟩
  · rw [(h2 h).1, (h2 h).2]
    exact ⟨rfl, rfl⟩

end infinite

section fused
variable (hf : f.Ok) (hna : f.isNaN a = false) (hnb : f.isNaN b = false)
include hf hna hnb

/-- The product of the fused form is invalid for an infinity and a zero, and infinite for an infinity and another value. -/
theorem Fmt.product_inf :
    (f.mag a = f.inf ∧ f.mag b = 0 ∨ f.mag a = 0 ∧ f.mag b = f.inf → (f.value a).mul (f.value b) = none) ∧
    (f.mag a = f.inf ∧ f.mag b ≠ 0 ∨ f.mag a ≠ 0 ∧ f.mag b = f.inf → (f.value a).mul (f.value b) = some (.inf (xor (f.neg a) (f.neg b)))) := by
  refine ⟨?_, ?_⟩
  · rintro (⟨ha, hb⟩ | ⟨ha, hb⟩)
    · exact ((Fmt.inf_mul ha hf hnb).1 hb).1
    · exact ((Fmt.inf_mul hb hf hna).1 ha).2
  · rintro (⟨ha, hb⟩ | ⟨ha, hb⟩)
    · exact ((Fmt.inf_mul ha hf hnb).2 hb).1
    · rw [((Fmt.inf_mul hb hf hna).2 ha).2]
      cases f.neg a <;> cases f.neg b <;> rfl

theorem Fmt.fma_inf (hnc : f.isNaN c = false) (p q : Bool) :
    (f.mag a = f.inf ∧ f.mag b = 0 ∨ f.mag a = 0 ∧ f.mag b = f.inf → f.fma rm p q a b c = ⟨f.nan, 1⟩) ∧
    (f.mag a = f.inf ∧ f.mag b ≠ 0 ∨ f.mag a ≠ 0 ∧ f.mag b = f.inf → f.fma rm p q a b c =
      if f.mag c = f.inf ∧ xor (f.neg c) q ≠ xor (xor (f.neg a) (f.neg b)) p then ⟨f.nan, 1⟩
      else ⟨f.withSign (xor (xor (f.neg a) (f.neg b)) p) f.inf, 0⟩) ∧
    ((f.value a).finite = true → (f.value b).finite = true → f.mag c = f.inf →
      f.fma rm p q a b c = ⟨f.withSign (xor (f.neg c) q) f.inf, 0⟩) := by
  have hnone : pickNaN f [(f, a), (f, b), (f, c)] = none := pickNaN_none (by simp [hna, hnb, hnc])
  obtain ⟨h1, h2⟩ := Fmt.product_inf hf hna hnb
  rw [Fmt.fma, hnone, hna, hnb, Bool.or_self, if_neg Bool.false_ne_true]
  refine ⟨fun h => by rw [h1 h]; rfl, fun h => ?_, fun ha hb hc => ?_⟩
  · rw [h2 h]
    show f.sum rm [(FVal.inf _).flip p, (f.value c).flip q] = _
    rw [FVal.flip_inf]
    obtain ⟨h3, h4⟩ := Fmt.sum_inf (f := f) (rm := rm) (l := [.inf (xor (xor (f.neg a) (f.neg b)) p), (f.value c).flip q])
    generalize xor (xor (f.neg a) (f.neg b)) p = s at *
    rcases Fmt.inf_or_lt hnc with hc | hc
    · rw [Fmt.value_inf hc, FVal.flip_inf] at *
      generalize xor (f.neg c) q = t at *
      by_cases hst : t = s
      · subst hst
        simpa using h4 t
      · obtain rfl : t = !s := by cases s <;> cases t <;> simp at hst ⊢
        rw [if_pos ⟨hc, hst⟩]
        cases s <;> exact h3 (by simp) (by simp)
    · obtain ⟨u, n, d, e⟩ := FVal.finite_iff.1 (FVal.flip_finite (p := q) (Fmt.value_finite.2 hc))
      rw [if_neg fun h => hc.ne h.1]
      exact h4 s (by simp) (by simp [e])
  · obtain ⟨hfin, -⟩ := FVal.times_finite ha hb
    obtain ⟨u, n, d, e⟩ := FVal.finite_iff.1 (FVal.flip_finite (p := p) hfin)
    rw [FVal.mul_finite ha hb, Fmt.value_inf hc]
    show f.sum rm [((f.value a).times (f.value b)).flip p, (FVal.inf _).flip q] = _
    rw [FVal.flip_inf, e]
    exact Fmt.sum_inf.2 _ (by simp) (by simp)

end fused

/-! ## NaN operands (R52) -/

theorem Fmt.pick_pair (hf : f.Ok) (ha : a < 2 * f.signBit) (hb : b < 2 * f.signBit) (h : f.isNaN a = true ∨ f.isNaN b = true) :
    pickNaN f [(f, a), (f, b)] = some ⟨f.quieted (if f.isNaN a then a else b), if f.isSNaN a || f.isSNaN b then 1 else 0⟩ := by
  by_cases hna : f.isNaN a = true
  · rw [if_pos hna, ← nanTo_same hf hna ha]
    refine (pickNaN_first (l := []) (o := (f, a)) (by simp) hna).trans ?_
    simp
  · have hnb := h.resolve_left hna
    rw [if_neg hna, ← nanTo_same hf hnb hb]
    refine (pickNaN_first (l := [(f, a)]) (o := (f, b)) (m := []) (by simpa using hna) hnb).trans ?_
    simp

theorem Fmt.pick_triple (hf : f.Ok) (ha : a < 2 * f.signBit) (hb : b < 2 * f.signBit) (hc : c < 2 * f.signBit)
    (h : f.isNaN a = true ∨ f.isNaN b = true ∨ f.isNaN c = true) : pickNaN f [(f, a), (f, b), (f, c)] =
      some ⟨f.quieted (if f.isNaN a then a else if f.isNaN b then b else c), if f.isSNaN a || f.isSNaN b || f.isSNaN c then 1 else 0⟩ := by
  by_cases hna : f.isNaN a = true
  · rw [if_pos hna, ← nanTo_same hf hna ha]
    refine (pickNaN_first (l := []) (o := (f, a)) (by simp) hna).trans ?_
    simp [Bool.or_assoc]
  · rw [if_neg hna]
    by_cases hnb : f.isNaN b = true
    · rw [if_pos hnb, ← nanTo_same hf hnb hb]
      refine (pickNaN_first (l := [(f, a)]) (o := (f, b)) (m := [(f, c)]) (by simpa using hna) hnb).trans ?_
      simp [Bool.or_assoc]
    · have hnc := (h.resolve_left hna).resolve_left hnb
      rw [if_neg hnb, ← nanTo_same hf hnc hc]
      refine (pickNaN_first (l := [(f, a), (f, b)]) (o := (f, c)) (m := []) (by simpa using And.intro hna hnb) hnc).trans ?_
      simp [Bool.or_assoc]

/-- The product of the fused form is invalid just for an infinity and a zero. -/
theorem Fmt.product_invalid (hf : f.Ok) : ((if f.isNaN a || f.isNaN b then some FVal.nan else (f.value a).mul (f.value b)) == none) =
    decide (f.mag a = f.inf ∧ f.mag b = 0 ∨ f.mag a = 0 ∧ f.mag b = f.inf) := by
  have hpos := hf.inf_pos
  rw [Bool.eq_iff_iff, beq_iff_eq, decide_eq_true_iff]
  by_cases hn : (f.isNaN a || f.isNaN b) = true
  · rw [if_pos hn]
    have hn' : f.inf < f.mag a ∨ f.inf < f.mag b := by simpa [Fmt.isNaN] using hn
    simp
    omega
  · rw [if_neg hn]
    obtain ⟨hna, hnb⟩ : f.isNaN a = false ∧ f.isNaN b = false := by simpa using hn
    obtain ⟨h1, h2⟩ := Fmt.product_inf hf hna hnb
    refine ⟨fun e => ?_, h1⟩
    rcases Fmt.inf_or_lt hna with ha | ha
    · by_contra hno
      rw [h2 (.inl ⟨ha, fun hb => hno (.inl ⟨ha, hb⟩)⟩)] at e
      cases e
    · rcases Fmt.inf_or_lt hnb with hb | hb
      · by_contra hno
        rw [h2 (.inr ⟨fun ha => hno (.inr ⟨ha, hb⟩), hb⟩)] at e
        cases e
      · rw [FVal.mul_finite (Fmt.value_finite.2 ha) (Fmt.value_finite.2 hb)] at e
        cases e

end ops

theorem invalid_flags (s e : Bool) : ((if s then 1 else 0) ||| if e then flagNV else 0) = if s || e then 1 else 0 := by
  cases s <;> cases e <;> rfl

/-- A finite pattern is rounded to itself in every mode, without a flag. -/
theorem Fmt.round_value {f : Fmt} (hf : f.Ok) {rm x n d : Nat} {sg : Bool} (hx : x < 2 * f.signBit) (e : f.value x = .fin sg n d) :
    f.round rm sg n d = ⟨x, 0⟩ := by
  have hfin : (f.value x).finite = true := by rw [e]; rfl
  have hlt := Fmt.value_finite.1 hfin
  have hsg : f.neg x = sg := by
    rw [← Fmt.value_sign (Fmt.isNaN_of_finite hfin), e]
    rfl
  have hrat := Fmt.value_rat hf hlt
  rw [f.round_fin rm sg n (f.value_sound x _ _ _ e), ← e, Fmt.roundQ, hrat, hsg]
  by_cases hm : f.mag x = 0
  · rw [if_pos (by rw [hm, Fmt.at_zero, mul_zero]), ← hsg, ← hm, Fmt.withSign_neg_mag hx]
  · have hpos : 0 < f.at (f.mag x) := lt_of_le_of_ne (f.at_nonneg _) (Ne.symm (mt hf.at_eq_zero.1 hm))
    have habs : |(if sg = true then -1 else 1) * f.at (f.mag x)| = f.at (f.mag x) := by
      cases sg <;> simp [abs_of_pos hpos]
    have hneg : decide ((if sg = true then -1 else 1) * f.at (f.mag x) < 0) = sg := by
      cases sg
      · simpa using hpos.le
      · simpa using hpos
    rw [if_neg (by cases sg <;> simp [hpos.ne']), habs, hneg, Fmt.roundMag_at (Nat.pos_of_ne_zero hm) hlt, ← hsg, Fmt.withSign_neg_mag hx]

/-- Settles O15. -/
theorem rounding : Obligations.Rounding := by
  intro f hmem
  have hf := Fmt.ok_of_mem hmem
  have hpos := hf.inf_pos
  have hsb := f.inf_lt_signBit
  have hval {x : Nat} (hx : x < f.inf) : (f.value x).rat = f.at x := by
    have hmag : f.mag x = x := Nat.mod_eq_of_lt (by omega)
    have hneg : f.neg x = false := Fmt.neg_withSign (s := false) (by omega)
    rw [Fmt.value_rat hf (by omega), hmag, hneg]
    simp
  refine ⟨fun rm x n d sg hx e => Fmt.round_value hf hx e, ?_, ?_⟩
  · intro n d sg hn hd q z m r up lo
    have hd' : (0 : ℚ) < d := by exact_mod_cast hd
    have hq : 0 < q := by positivity
    have hround (rm : Nat) : r rm = f.roundMag rm sg q := Fmt.round_eq rm sg hn hd
    have hz : z = f.withSign sg (min (f.under q) (f.inf - 1)) := (congrArg Res.val (hround 1)).trans (Fmt.roundMag_toZero sg)
    have hminf : min (f.under q) (f.inf - 1) < f.inf := by omega
    have hm : m = min (f.under q) (f.inf - 1) := by
      unfold m
      rw [hz, Fmt.mag_withSign (by omega)]
    have hlo : lo = f.at m := hval (by omega)
    have hup : up = f.at (m + 1) := by
      unfold up
      split
      · next h => exact hval h
      · rw [← hf.at_inf, show m + 1 = f.inf by omega]
    refine ⟨by omega, ?_, ?_, fun x hx => ?_, fun e rm => ?_, fun hne => ?_, fun rm _ => ?_⟩
    · rw [hz, Fmt.neg_withSign (by omega)]
    · rw [hz]
      exact Fmt.withSign_lt (by omega)
    · rw [hval hx, Fmt.at_le_iff hq]
      omega
    · rw [hlo] at e
      have hm0 : 0 < m := Nat.pos_of_ne_zero fun h => hq.ne (by rw [← e, h, Fmt.at_zero])
      rw [hround, ← e, Fmt.roundMag_at hm0 (by omega), hz, hm]
    · rw [hlo, hup, hround, hround, hround, hm]
      rw [hlo, hm] at hne
      exact Fmt.roundMag_modes sg hf hq hne
    · intro k inexact
      have hk : k = f.mag (f.roundMag rm sg q).val := by unfold k; rw [hround]
      have htwice : f.round rm sg (2 * n) d = f.roundMag rm sg (2 * q) := by
        rw [Fmt.round_eq rm sg (by omega) hd, Nat.cast_mul, Nat.cast_ofNat, mul_div_assoc]
      obtain ⟨hinf, hflags⟩ := Fmt.roundMag_all_flags hf hq rm sg
      rw [hround, htwice]
      rw [← hk] at hinf hflags
      refine ⟨hinf, fun hne hlt => ?_⟩
      have hklt : k < f.inf := by
        refine lt_of_le_of_ne ?_ hne
        rw [hk, Fmt.mag_roundMag hf hq rm sg hlt]
        exact Fmt.near_le_inf ((hf.under_lt_inf hq).2 hlt)
      unfold inexact
      rw [hval hklt]
      exact hflags hne hlt
  · intro rm a b c hrm ha hb hc v fin isNaN isInf zero sgn inf invalid minusIf
    have hfalse {x : Nat} (h : ¬ isNaN x) : f.isNaN x = false := Bool.eq_false_iff.2 h
    refine ⟨fun x => Fmt.isNaN_iff, fun ha hb => ⟨?_, ?_, fun hc p q => ?_⟩, fun ha' hb' => ⟨Fmt.sub_eq (hfalse ha') (hfalse hb'), ?_, ?_, ?_, ?_⟩,
      fun h => ?_, fun h p q => ?_, fun ha' hb' => Fmt.minmax_eq hf ha hb (hfalse ha') (hfalse hb'), fun p hp => ?_⟩
    · rw [Fmt.roundsTo_iff]
      exact Fmt.add_finite ha hb
    · rw [Fmt.roundsTo_iff]
      exact Fmt.mul_finite ha hb
    · rw [Fmt.roundsTo_iff]
      exact Fmt.fma_finite ha hb hc p q
    · exact fun h1 h2 => Fmt.add_inf_inf h1 h2
    · exact fun h1 h2 => Fmt.add_inf_finite h1 h2
    · exact fun h1 => Fmt.mul_inf h1 hf (hfalse hb')
    · exact fun hc' p q => Fmt.fma_inf hf (hfalse ha') (hfalse hb') (hfalse hc') p q
    · intro x nv r hr
      have hpick := Fmt.pick_pair hf ha hb h
      simp only [List.mem_cons, List.not_mem_nil, or_false] at hr
      rcases hr with rfl | rfl | rfl | rfl | rfl
      · rw [Fmt.add, hpick]
      · rw [Fmt.sub, hpick]
      · rw [Fmt.mul, hpick]
      · rw [Fmt.minmax, hpick]
      · rw [Fmt.minmax, hpick]
    · dsimp only
      rw [Fmt.fma, Fmt.pick_triple hf ha hb hc h]
      dsimp only
      rw [Fmt.product_invalid hf]
      exact congrArg (Res.mk _) (invalid_flags _ _)
    · exact ⟨(Fmt.cmp_val hf a b p hp).1, (Fmt.cmp_val hf a b p hp).2, f.cmp_flags p.1 a b⟩

end Sys2Proof.Machine
end

section
/-! # Conversions and the scalar FP32 forms (R56, R57, R120 to R123) -/

namespace Sys2Proof.Machine

/-! ## Conversions to a binary format -/

theorem Fmt.ofInt_eq (f : Fmt) (rm : Nat) (z : Int) : f.ofInt rm z = f.roundQ rm false z := by
  have hrat : (FVal.fin (decide (z < 0)) z.natAbs 1).rat = z := by
    rcases lt_or_ge z 0 with h | h
    · simp [FVal.rat, h, abs_of_neg (show (z : ℚ) < 0 by exact_mod_cast h)]
    · simp [FVal.rat, not_lt.2 h, abs_of_nonneg (show (0 : ℚ) ≤ z by exact_mod_cast h)]
  rw [Fmt.ofInt, f.round_fin rm _ _ Nat.one_pos, hrat, Fmt.roundQ, Fmt.roundQ]
  rcases eq_or_ne z 0 with rfl | h
  · simp
  · rw [if_neg (by exact_mod_cast h), if_neg (by exact_mod_cast h)]

section conv
variable {f g : Fmt} {x : Nat} (rm : Nat)

/-- A NaN keeps its sign and the payload bits that fit, quieted (R56). -/
theorem convFmt_nan (h : f.isNaN x = true) : convFmt f g rm x = ⟨g.withSign (f.neg x) (g.inf +
    g.quieted (if f.fw ≤ g.fw then x % 2 ^ f.fw * 2 ^ (g.fw - f.fw) else x % 2 ^ f.fw / 2 ^ (f.fw - g.fw))), if f.isSNaN x then 1 else 0⟩ := by
  have hpick := pickNaN_first (g := g) (l := []) (m := []) (o := (f, x)) (by simp) h
  rw [convFmt, show [(f, x)] = [] ++ (f, x) :: [] from rfl, hpick, ← nanTo_eq]
  simp

theorem convFmt_number (h : f.isNaN x = false) : convFmt f g rm x = g.roundVal rm (f.value x) := by
  rw [convFmt, pickNaN_none (by simpa using h)]

theorem convFmt_inf (h : f.mag x = f.inf) : convFmt f g rm x = ⟨g.withSign (f.neg x) g.inf, 0⟩ := by
  rw [convFmt_number rm (Fmt.isNaN_of_inf h), Fmt.value_eq_inf.2 ⟨h, rfl⟩]
  rfl

theorem convFmt_finite (h : f.mag x < f.inf) : convFmt f g rm x = g.roundQ rm (f.neg x) (f.value x).rat := by
  have hfin : (f.value x).finite = true := Fmt.value_finite.2 h
  have hnan := Fmt.isNaN_of_finite hfin
  rw [convFmt_number rm hnan, Fmt.roundVal_eq rm hfin (f.value_sound x), Fmt.value_sign hnan]

end conv

/-! ## Conversion to an integer (R57) -/

section toInt
variable {u : ℚ} (hu : 0 ≤ u) (s : Bool)
include hu

/-- The nearest integer, an even one in a tie. -/
theorem roundNat_nearest : |(roundNat 0 s u : ℚ) - u| ≤ 1 / 2 ∧ (|(roundNat 0 s u : ℚ) - u| = 1 / 2 → roundNat 0 s u % 2 = 0) := by
  have hlo := Nat.floor_le hu
  have hhi := Nat.lt_floor_add_one u
  unfold roundNat roundsUp
  by_cases h : 1 / 2 < u - ⌊u⌋₊ ∨ u - ⌊u⌋₊ = 1 / 2 ∧ ⌊u⌋₊ % 2 = 1
  · rw [if_pos (by simpa using h), Nat.cast_add_one, abs_of_nonneg (by linarith)]
    refine ⟨by rcases h with h | ⟨h, -⟩ <;> linarith, fun e => ?_⟩
    rcases h with h | ⟨-, h⟩
    · linarith
    · omega
  · rw [not_or, not_and, not_lt] at h
    rw [if_neg (by simpa using h), abs_of_nonpos (by linarith)]
    refine ⟨by linarith [h.1], fun e => ?_⟩
    have := h.2 (by linarith)
    omega

theorem ceil_eq_floor_add : ⌈u⌉₊ = if u = ⌊u⌋₊ then ⌊u⌋₊ else ⌊u⌋₊ + 1 := by
  split
  · next h => rw [h, Nat.ceil_natCast, Nat.floor_natCast]
  · next h =>
    refine le_antisymm (Nat.ceil_le_floor_add_one u) (Nat.lt_ceil.2 (lt_of_le_of_ne (Nat.floor_le hu) (Ne.symm h)))

theorem roundNat_up : roundNat 2 s u = if s then ⌊u⌋₊ else ⌈u⌉₊ := by
  rw [ceil_eq_floor_add hu, roundNat, roundsUp]
  generalize ⌊u⌋₊ = k
  cases s <;> simp [ite_not]

theorem roundNat_down : roundNat 3 s u = if s then ⌈u⌉₊ else ⌊u⌋₊ := by
  rw [ceil_eq_floor_add hu, roundNat, roundsUp.eq_4 _ _ _ (by decide) (by decide) (by decide)]
  generalize ⌊u⌋₊ = k
  cases s <;> simp [ite_not]

end toInt

/-- Rounding keeps exactly the integers. -/
theorem roundNat_exact {rm : Nat} {s : Bool} {u : ℚ} : (roundNat rm s u : ℚ) = u ↔ u = ⌊u⌋₊ := by
  constructor
  · intro h
    rw [← h, Nat.floor_natCast]
  · intro h
    rw [h, roundNat_natCast]

section intOf
variable {n d : Nat} (rm : Nat) (s : Bool)

/-- The integer that a finite value is rounded to. -/
def FVal.toInteger (rm : Nat) (v : FVal) : Int := if v.sign then -(roundNat rm true |v.rat| : Int) else (roundNat rm false |v.rat| : Int)

theorem intOf_fin (lo hi : Int) (hd : 0 < d) : let v := FVal.fin s n d
    let z := v.toInteger rm
    intOf rm lo hi v = if z < lo then (lo, 1) else if hi < z then (hi, 1) else (z, if (z : ℚ) = v.rat then 0 else 16) := by
  intro v z
  have hround := roundInt_eq rm s n hd 0
  rw [zpow_zero, div_one] at hround
  have habs : |v.rat| = (n / d : ℚ) := FVal.abs_rat_fin ..
  have hz : z = if s then -((roundInt rm s n d 0).1 : Int) else ((roundInt rm s n d 0).1 : Int) := by
    rw [hround]
    unfold z FVal.toInteger
    rw [habs]
    cases s <;> rfl
  have hexact : (z : ℚ) = v.rat ↔ (n / d : ℚ) = ⌊(n / d : ℚ)⌋₊ := by
    refine Iff.trans ?_ (roundNat_exact (rm := rm) (s := s))
    rw [hz, hround]
    cases s <;> simp [v, FVal.rat]
  have hflag : (if (roundInt rm s n d 0).2 then flagNX else 0) = if (z : ℚ) = v.rat then 0 else 16 := by
    rw [hround]
    simp [hexact, flagNX]
  rw [← hflag]
  unfold v intOf
  dsimp only
  rw [hz]
  rfl

end intOf

/-- Every mode rounds a finite value to the integer that it asks for (R50). -/
theorem FVal.toInteger_modes (v : FVal) : let q := v.rat
    let z := fun rm => v.toInteger rm
    (|(z 0 : ℚ) - q| ≤ 1 / 2 ∧ (|(z 0 : ℚ) - q| = 1 / 2 → z 0 % 2 = 0)) ∧ (z 1 = if 0 ≤ q then ⌊q⌋ else ⌈q⌉) ∧ z 2 = ⌈q⌉ ∧ z 3 = ⌊q⌋ := by
  intro q z
  have hu : 0 ≤ |v.rat| := abs_nonneg v.rat
  cases hs : v.sign
  · have hq : q = |v.rat| := (abs_of_nonneg (FVal.rat_nonneg hs)).symm
    obtain ⟨h1, h2⟩ := roundNat_nearest hu false
    simp only [z, FVal.toInteger, hs, roundNat_up hu, roundNat_down hu, hq, Bool.false_eq_true, if_false]
    generalize |v.rat| = u at *
    refine ⟨⟨h1, fun e => ?_⟩, ?_, Int.natCast_ceil_eq_ceil hu, Int.natCast_floor_eq_floor hu⟩
    · exact_mod_cast h2 e
    · exact (Int.natCast_floor_eq_floor hu).trans (if_pos hu).symm
  · have hq : q = -|v.rat| := by rw [abs_of_nonpos (FVal.rat_nonpos hs), neg_neg]
    obtain ⟨h1, h2⟩ := roundNat_nearest hu true
    simp only [z, FVal.toInteger, hs, roundNat_up hu, roundNat_down hu, hq, Int.floor_neg, Int.ceil_neg, if_true]
    generalize |v.rat| = u at *
    have habs : |((-(roundNat 0 true u : Int) : Int) : ℚ) - -u| = |(roundNat 0 true u : ℚ) - u| := by
      rw [← abs_neg]
      push_cast
      ring_nf
    refine ⟨⟨habs.trans_le h1, fun e => ?_⟩, ?_, congrArg Neg.neg (Int.natCast_floor_eq_floor hu), congrArg Neg.neg (Int.natCast_ceil_eq_ceil hu)⟩
    · have := h2 (habs.symm.trans e)
      omega
    · split
      · next h =>
        obtain rfl : u = 0 := by linarith
        simp [roundNat, roundsUp]
      · exact congrArg Neg.neg (Int.natCast_floor_eq_floor hu)

/-! ## The scalar FP32 forms (R120 to R123) -/

/-- The context with a result in a register and its flags raised. -/
theorem Ctx.wrRes_eq (c : Ctx) (d : R5) (r : Res) :
    c.wrRes d r = { c.wr d (BitVec.ofNat 64 r.val) with fpflags := c.fpflags ||| BitVec.ofNat 6 r.flags } := by
  have hflags : (c.wr d (BitVec.ofNat 64 r.val)).fpflags = c.fpflags := c.setS_fpflags _ _
  rw [Ctx.wrRes, Ctx.raise, hflags]

section forms
variable {s : State} {c : Ctx} {e : List Ext} {x : List Nat} (h : Runs s c e x [])
include h

/-- A form on scalar registers leaves the context as its function says and goes on. -/
theorem scalarOp_completes {named : List R5} (hn : named.map BitVec.toNat ⊆ x) (i : Instr) (f : Ctx → Ctx) :
    scalarOp i e named f s = .next (s.past c e (f c)) := by
  rw [scalarOp, issue_runs (h.mono hn), settle_done]
  rfl

/-- An FP32 form writes its value and raises its flags (R121). -/
theorem fp2_completes {d a b : R5} (hn : [d.toNat, a.toNat, b.toNat] ⊆ x) (i : Instr) (f : Nat → Nat → Res) :
    fp2 i e d a b f s = .next (s.past c e (c.wrRes d (f (c.fp a) (c.fp b)))) :=
  scalarOp_completes (named := [d, a, b]) h hn i _

/-- `fcvt` of a pair of types that exists writes its value and raises its flags (R123). -/
theorem execFcvt_completes {d a : R5} (hn : [d.toNat, a.toNat] ⊆ x) {t u : BitVec 4} {r : BitVec 2} {v : Res}
    (hv : fcvtValue u.toNat t.toNat r.toNat (c.rs a) = some v) : execFcvt e d a t u r s = .next (s.past c e (c.wrRes d v)) := by
  rw [execFcvt, issue_runs (h.mono hn)]
  simp only [hv, settle_done]
  rfl

end forms

/-- Settles O14. -/
theorem floatForms : Obligations.FloatForms := by
  refine ⟨fun f hf rm _ => ⟨fun z => ?_, fun g hg x hx => ?_⟩, fun rm lo hi v _ hv => ?_, fun s c e d a b z r k h => ?_⟩
  · rw [Fmt.roundsTo_iff]
    exact f.ofInt_eq rm z
  · refine ⟨convFmt_nan rm, convFmt_inf rm, fun h => ?_⟩
    rw [Fmt.roundsTo_iff]
    exact convFmt_finite rm h
  · refine ⟨?_, ?_, fun h => ?_⟩
    · rintro rfl
      rfl
    · rintro n rfl
      rfl
    · obtain ⟨h0, h1, h2, h3⟩ := v.toInteger_modes
      refine ⟨v.toInteger rm, ?_, ?_, ?_, ?_, ?_⟩
      · rintro rfl
        exact h0
      · rintro rfl
        exact h1
      · rintro rfl
        exact h2
      · rintro rfl
        exact h3
      · obtain ⟨n, m, d, rfl⟩ := FVal.finite_iff.1 h
        exact intOf_fin rm n lo hi (hv _ _ _ rfl)
  · have h16 : (c.rs a).toNat % 2 ^ 32 % 2 ^ 16 = (c.rs a).toNat % 2 ^ 16 := Nat.mod_mod_of_dvd _ (by decide)
    have h8 : (c.rs a).toNat % 2 ^ 32 % 2 ^ 8 = (c.rs a).toNat % 2 ^ 8 := Nat.mod_mod_of_dvd _ (by decide)
    have h2 : [d.toNat, a.toNat] ⊆ [d.toNat, a.toNat, b.toNat, z.toNat] := by simp
    have h3 : [d.toNat, a.toNat, b.toNat] ⊆ [d.toNat, a.toNat, b.toNat, z.toNat] := by simp
    intro w x y m toInt p hp
    rw [← Ctx.wrRes_eq]
    simp only [List.mem_cons, List.not_mem_nil, or_false] at hp
    rcases hp with rfl | rfl | rfl | rfl | rfl | rfl | rfl | rfl | rfl | rfl | rfl | rfl | rfl | rfl | rfl | rfl | rfl | rfl | rfl
    · exact fp2_completes h h3 (.fadd e d a b r) (f32.add m)
    · exact fp2_completes h h3 (.fsub e d a b r) (f32.sub m)
    · exact fp2_completes h h3 (.fmul e d a b r) (f32.mul m)
    · exact fp2_completes h h3 (.fmin e d a b) (f32.minmax false)
    · exact fp2_completes h h3 (.fmax e d a b) (f32.minmax true)
    · exact fp2_completes h h3 (.fcmp e d a b k) (f32.cmp k.toNat)
    · exact scalarOp_completes h (named := [d, a, b, z]) (by simp) (.ffma e d a b z r) fun u => u.wrRes d (f32.fma m false false (u.fp a) (u.fp b) (u.fp z))
    iterate 3 exact execFcvt_completes h h2 rfl
    iterate 2 exact execFcvt_completes h h2 (h16 ▸ rfl)
    · exact execFcvt_completes h h2 (h8 ▸ rfl)
    iterate 6 exact execFcvt_completes h h2 rfl

end Sys2Proof.Machine
end

section
/-! # Elements of the vector forms: which are written, comparisons and reductions (R55, R74, R140, R148, R155) -/

namespace Sys2Proof.Machine

/-! ## Which lanes are written -/

/-- Packed elements are read back. -/
theorem bits_packElems (w : Nat) : ∀ (l : List Nat) (i : Nat) (h : i < l.length), bits (packElems w l) (w * i) w = l[i] % 2 ^ w
  | v :: l, 0, _ => by simp [packElems, bits]
  | v :: l, i + 1, h => by
    have hdiv : packElems w (v :: l) / 2 ^ w = packElems w l := by
      rw [packElems, Nat.add_mul_div_right _ _ (Nat.two_pow_pos w), Nat.div_eq_of_lt (Nat.mod_lt _ (Nat.two_pow_pos w)), Nat.zero_add]
    have ih := bits_packElems w l i (Nat.lt_of_succ_lt_succ h)
    rw [bits, Nat.mul_add, Nat.mul_one, Nat.add_comm, Nat.pow_add, ← Nat.div_div_eq_div_mul, hdiv]
    exact ih

/-- An element of an active lane is the low bits of its value, any other is as before. -/
theorem elem_lanewise {w i : Nat} (hw : w * i + w ≤ 2048) (m : W64) (old : BitVec 2048) (f : Nat → Res) (hi : i < 2048 / w) :
    elem w (lanewise w m old f).1 i = if m.getLsbD (i * w / 32) then (f i).val % 2 ^ w else elem w old i := by
  rw [lanewise, elem_ofNat _ hw, bits_packElems w _ i (by simpa using hi)]
  simp only [List.getElem_map, List.getElem_range, laneOn]
  split
  · rfl
  · exact Nat.mod_eq_of_lt (elem_lt w old i)

/-- Marks set one after the other. -/
theorem getLsbD_foldl_marks {α : Type} {p : Nat → Prop} [DecidablePred p] {g : W64 × α → Nat → W64 × α}
    (hg : ∀ a l, (g a l).1 = if p l then a.1 ||| 1#64 <<< l else a.1) {k : Nat} (hk : k < 64) :
    ∀ (L : List Nat) (a : W64 × α), (L.foldl g a).1.getLsbD k = true ↔ a.1.getLsbD k = true ∨ k ∈ L ∧ p k
  | [], a => by simp
  | l :: L, a => by
    have hbit : (1#64 <<< l).getLsbD k = decide (k = l) := by
      rw [BitVec.getLsbD_shiftLeft, BitVec.getLsbD_one]
      by_cases h : k = l <;> simp [h, hk] <;> omega
    rw [List.foldl_cons, getLsbD_foldl_marks hg hk L, hg]
    by_cases hp : p l <;> by_cases h : k = l
    · subst h; simp [hp, hk]
    · simp [hp, hbit, h]
    · subst h; simp [hp]
    · simp [hp, h]

/-- `vcmp` sets the bit of a lane exactly when the lane is active and its condition holds for each element (R148). -/
theorem cmpLanes_getLsbD (cc : Nat) (x y : VReg) (m : W64) {l : Nat} (hl : l < 64) : (cmpLanes cc x y m).1.getLsbD l = true ↔
    m.getLsbD l = true ∧ ∀ i, i < 32 / tagWidth x.tag → (cmpElem cc x.tag (elem (tagWidth x.tag) x.bits (l * (32 / tagWidth x.tag) + i))
      (elem (tagWidth x.tag) y.bits (l * (32 / tagWidth x.tag) + i))).val = 1 := by
  rw [cmpLanes, getLsbD_foldl_marks (p := fun l => m.getLsbD l = true ∧ ∀ i, i < 32 / tagWidth x.tag →
    (cmpElem cc x.tag (elem (tagWidth x.tag) x.bits (l * (32 / tagWidth x.tag) + i))
      (elem (tagWidth x.tag) y.bits (l * (32 / tagWidth x.tag) + i))).val = 1) _ hl]
  · simp [hl]
  · intro a l
    by_cases hm : m.getLsbD l = true <;> simp [hm]

/-! ## Formats of elements -/

theorem tagFmt_mem {t : Nat} {f : Fmt} (h : tagFmt t = some f) : f ∈ [f32, bf16, f16] := by
  unfold tagFmt at h
  split at h <;> cases h <;> simp

theorem tagWidth_of_tagFmt {t : Nat} {f : Fmt} (h : tagFmt t = some f) : 2 ^ tagWidth t = 2 * f.signBit ∧ 2048 / tagWidth t ≤ 128 := by
  unfold tagFmt at h
  split at h <;> cases h <;> decide

theorem activeElems_lt {w : Nat} {m : W64} {x : BitVec 2048} : ∀ u ∈ activeElems w m x, u < 2 ^ w := by
  intro u hu
  obtain ⟨i, -, rfl⟩ := List.mem_map.1 hu
  exact elem_lt w x i

/-! ## The tree of a sum (R74) -/

section sum
variable {f : Fmt} (hf : f.Ok)
include hf

theorem Fmt.Ok.quieted_payload {p : Nat} (hp : p < 2 ^ f.fw) : 0 < f.quieted p ∧ f.inf + f.quieted p < f.signBit := by
  have hfw := hf.1
  have hlt : f.quieted p < 2 ^ f.fw := Nat.or_lt_two_pow hp (Nat.pow_lt_pow_right (by decide) (by omega))
  have hge : 2 ^ (f.fw - 1) ≤ f.quieted p := Nat.right_le_or
  have hsb : f.signBit = f.inf + 2 ^ f.fw := by
    rw [hf.inf_eq, hf.signBit_eq]
    ring
  exact ⟨lt_of_lt_of_le (Nat.two_pow_pos _) hge, by omega⟩

theorem Fmt.quieted_lt {x : Nat} (h : f.isNaN x = true) (hx : x < 2 * f.signBit) : f.quieted x < 2 * f.signBit ∧ f.isNaN (f.quieted x) = true := by
  obtain ⟨hpos, hlt⟩ := hf.quieted_payload (Nat.mod_lt x (Nat.two_pow_pos f.fw))
  rw [Fmt.nan_pattern hf h hx, Fmt.quieted_pattern hf]
  refine ⟨Fmt.withSign_lt hlt, ?_⟩
  rw [Fmt.isNaN_iff, Fmt.mag_withSign hlt]
  omega

theorem Fmt.sum_lt (rm : Nat) (l : List FVal) : (f.sum rm l).val < 2 * f.signBit := by
  have hnan : f.nan < 2 * f.signBit := by
    have := (hf.quieted_payload (p := 0) (Nat.two_pow_pos _)).2
    rw [Fmt.quieted, Nat.zero_or] at this
    unfold Fmt.nan
    omega
  have hinf := f.inf_lt_signBit
  unfold Fmt.sum
  dsimp only
  split
  · exact hnan
  · split
    · exact lt_of_lt_of_le hinf (by omega)
    · split
      · exact Fmt.withSign_lt (neg := true) hinf
      · split
        · exact Fmt.withSign_lt (m := 0) (Nat.two_pow_pos _)
        · exact f.round_lt _ _ _ _

theorem Fmt.add_lt (rm : Nat) {a b : Nat} (ha : a < 2 * f.signBit) (hb : b < 2 * f.signBit) : (f.add rm a b).val < 2 * f.signBit := by
  by_cases h : f.isNaN a = true ∨ f.isNaN b = true
  · rw [Fmt.add, Fmt.pick_pair hf ha hb h]
    dsimp only
    by_cases h' : f.isNaN a = true
    · rw [if_pos h']
      exact (Fmt.quieted_lt hf h' ha).1
    · rw [if_neg h']
      exact (Fmt.quieted_lt hf (h.resolve_left h') hb).1
  · rw [not_or, Bool.not_eq_true, Bool.not_eq_true] at h
    rw [Fmt.add, pickNaN_pair h.1 h.2]
    exact Fmt.sum_lt hf rm _

/-- One operand that may be a NaN is quieted (R52). -/
theorem pickNaN_one {y : Nat} (hy : y < 2 * f.signBit) : pickNaN f [(f, y)] =
    if f.isNaN y then some ⟨f.quieted y, if f.isSNaN y then 1 else 0⟩ else none := by
  split
  · next h =>
    have hpick := pickNaN_first (g := f) (l := []) (m := []) (o := (f, y)) (by simp) h
    rw [show [(f, y)] = [] ++ (f, y) :: [] from rfl, hpick, nanTo_same hf h hy]
    simp
  · next h => exact pickNaN_none (by simpa using h)

end sum

theorem Fmt.isNaN_of_isSNaN {f : Fmt} {y : Nat} (h : f.isSNaN y = true) : f.isNaN y = true := by
  unfold Fmt.isSNaN at h
  simp_all

section tree
variable {f : Fmt} {rm : Nat} {m : W64} {x : VReg} {T : Nat → Nat → Option Nat}
  (hx : tagFmt x.tag = some f)
  (h0 : ∀ i, T 0 i = if i < 2048 / tagWidth x.tag ∧ m.getLsbD (i * tagWidth x.tag / 32) = true then some (elem (tagWidth x.tag) x.bits i) else none)
  (hT : ∀ l i, T (l + 1) i = joined (fun a b => ((f.add rm a b).val, (f.add rm a b).flags)) (T l (2 * i)) (T l (2 * i + 1)))
include hx h0 hT

/-- The nodes of the tree are patterns of the format. -/
theorem tree_lt : ∀ (l i : Nat) {y : Nat}, T l i = some y → y < 2 * f.signBit := by
  have hf := Fmt.ok_of_mem (tagFmt_mem hx)
  intro l
  induction l with
  | zero =>
    intro i y hy
    rw [h0] at hy
    split at hy
    · cases hy
      rw [← (tagWidth_of_tagFmt hx).1]
      exact elem_lt _ _ _
    · cases hy
  | succ l ih =>
    intro i y hy
    rw [hT] at hy
    cases ha : T l (2 * i) with
    | none => exact ih (2 * i + 1) (by rwa [ha] at hy)
    | some a =>
      cases hb : T l (2 * i + 1) with
      | none =>
        rw [ha, hb] at hy
        exact ih _ (ha.trans hy)
      | some b =>
        rw [ha, hb] at hy
        cases hy
        exact Fmt.add_lt hf rm (ih _ ha) (ih _ hb)

/-- A floating-point sum is the root of its tree, quieted, with the flags of the nodes (R52, R74). -/
theorem redSum_tree : (redSum rm m x).2 = x.tag ∧
    (redSum rm m x).1.val = ((T 8 0).map fun y => if f.isNaN y then f.quieted y else y).getD 0 ∧
    ∀ k, (redSum rm m x).1.flags.testBit k = true ↔ (k = 0 ∧ ∃ y, T 8 0 = some y ∧ f.isSNaN y = true) ∨
      ∃ l i a b, l < 8 ∧ T l (2 * i) = some a ∧ T l (2 * i + 1) = some b ∧ (f.add rm a b).flags.testBit k = true := by
  have hf := Fmt.ok_of_mem (tagFmt_mem hx)
  have hleaves : ∀ i, T 0 i = entry (leaves (tagWidth x.tag) m x.bits) i := by
    intro i
    rw [h0, entry, leaves, List.getElem?_map]
    by_cases hi : i < 2048 / tagWidth x.tag
    · rw [List.getElem?_range hi]
      by_cases hm : m.getLsbD (i * tagWidth x.tag / 32) = true <;> simp [hi, laneOn, hm]
    · simp [hi]
  obtain ⟨hroot, hflags⟩ := treeFold_eq _ hT 8 0 _ hleaves
  rw [Nat.zero_add] at hroot
  simp only [Nat.zero_add] at hflags
  unfold redSum
  rw [hx]
  dsimp only
  rw [hroot]
  cases hy : T 8 0 with
  | none =>
    have hnan : f.isNaN 0 = false := by simp [Fmt.isNaN, Fmt.mag]
    rw [Option.getD_none, pickNaN_none (by simpa using hnan)]
    exact ⟨rfl, rfl, fun k => by simpa using hflags k⟩
  | some y =>
    have hlt := tree_lt hx h0 hT 8 0 hy
    rw [Option.getD_some, pickNaN_one hf hlt]
    by_cases hn : f.isNaN y = true
    · rw [if_pos hn]
      refine ⟨rfl, by simp [hn], fun k => ?_⟩
      dsimp only
      rw [Nat.testBit_or, Bool.or_eq_true, hflags, or_comm]
      refine or_congr_left ?_
      cases hs : f.isSNaN y
      · simp [hs]
      · simp [hs, Nat.testBit_one_eq_true_iff_self_eq_zero]
    · have hs : f.isSNaN y = false := Bool.eq_false_iff.2 fun h => hn (Fmt.isNaN_of_isSNaN h)
      rw [if_neg hn]
      exact ⟨rfl, by simp [hn], fun k => by simpa [hs] using hflags k⟩

end tree

/-! ## Extremes (R155) -/

/-- One more element in the extreme of some. -/
def extremeStep (larger : Bool) (t : Nat) (r : Res) (v : Nat) : Res :=
  ⟨(minmaxElem larger t r.val v).val, r.flags ||| (minmaxElem larger t r.val v).flags⟩

/-- The extreme starts with the first active element. -/
theorem redExtreme_cons {larger : Bool} {m : W64} {x : VReg} {a : Nat} {l : List Nat} (h : activeElems (tagWidth x.tag) m x.bits = a :: l) :
    redExtreme larger m x = (activeElems (tagWidth x.tag) m x.bits).foldl (extremeStep larger x.tag) ⟨a, 0⟩ := by
  rw [redExtreme, h, List.foldl_cons, extremeStep, Nat.zero_or]
  rfl

section step
variable {larger : Bool} {t : Nat}

/-- Where each step keeps a greatest one of two elements without a flag, the fold does so of all of them. -/
theorem foldl_extreme {R : Nat → Nat → Prop} {p : Nat → Prop} (hrefl : ∀ a, R a a) (htrans : ∀ a b c, R a b → R b c → R a c)
    (hstep : ∀ a b, p a → p b → ∃ c, minmaxElem larger t a b = ⟨c, 0⟩ ∧ (c = a ∨ c = b) ∧ R a c ∧ R b c) :
    ∀ (l : List Nat) (a : Nat), p a → (∀ u ∈ l, p u) → ∃ c, l.foldl (extremeStep larger t) ⟨a, 0⟩ = ⟨c, 0⟩ ∧ (c = a ∨ c ∈ l) ∧
      R a c ∧ ∀ u ∈ l, R u c
  | [], a, _, _ => ⟨a, rfl, .inl rfl, hrefl a, by simp⟩
  | b :: l, a, ha, hl => by
    obtain ⟨c, hc, hmem, hac, hbc⟩ := hstep a b ha (hl b List.mem_cons_self)
    have hpc : p c := by
      rcases hmem with rfl | rfl
      · exact ha
      · exact hl _ List.mem_cons_self
    obtain ⟨d, hd, hdmem, hcd, hld⟩ := foldl_extreme hrefl htrans hstep l c hpc fun u hu => hl u (List.mem_cons_of_mem _ hu)
    refine ⟨d, ?_, ?_, htrans _ _ _ hac hcd, fun u hu => ?_⟩
    · rw [List.foldl_cons, extremeStep, hc, Nat.zero_or]
      exact hd
    · rcases hdmem with rfl | h
      · rcases hmem with rfl | rfl
        · exact .inl rfl
        · exact .inr List.mem_cons_self
      · exact .inr (List.mem_cons_of_mem _ h)
    · rcases List.mem_cons.1 hu with rfl | h
      · exact htrans _ _ _ hbc hcd
      · exact hld u h

/-- A value that no element replaces stays. -/
theorem foldl_absorbed {z : Nat} {p : Nat → Prop} (hstep : ∀ b, p b → (minmaxElem larger t z b).val = z) :
    ∀ (l : List Nat) (r : Res), (∀ u ∈ l, p u) → r.val = z → (l.foldl (extremeStep larger t) r).val = z
  | [], _, _, hr => hr
  | b :: l, r, hl, hr => foldl_absorbed hstep l _ (fun u hu => hl u (List.mem_cons_of_mem _ hu))
      (by rw [extremeStep, hr]; exact hstep b (hl b List.mem_cons_self))

/-- Steps without flags raise none. -/
theorem foldl_flags (hstep : ∀ a b, (minmaxElem larger t a b).flags = 0) :
    ∀ (l : List Nat) (r : Res), (l.foldl (extremeStep larger t) r).flags = r.flags
  | [], _ => rfl
  | b :: l, r => (foldl_flags hstep l _).trans (by rw [extremeStep, hstep, Nat.or_zero])

end step

section float
variable {larger : Bool} {m : W64} {x : VReg} {f : Fmt} (hx : tagFmt x.tag = some f)
include hx

theorem minmaxElem_float (a b : Nat) : minmaxElem larger x.tag a b = f.minmax larger a b := by
  rw [minmaxElem, hx]

theorem activeElems_float : ∀ u ∈ activeElems (tagWidth x.tag) m x.bits, u < 2 * f.signBit := by
  intro u hu
  rw [← (tagWidth_of_tagFmt hx).1]
  exact activeElems_lt u hu

theorem minmax_number {a b : Nat} (ha : a < 2 * f.signBit ∧ f.isNaN a = false) (hb : b < 2 * f.signBit ∧ f.isNaN b = false) :
    ∃ c, minmaxElem larger x.tag a b = ⟨c, 0⟩ ∧ (c = a ∨ c = b) ∧
      (if larger then f.rank a ≤ f.rank c else f.rank c ≤ f.rank a) ∧ (if larger then f.rank b ≤ f.rank c else f.rank c ≤ f.rank b) := by
  obtain ⟨hmin, hmax⟩ := Fmt.minmax_eq (Fmt.ok_of_mem (tagFmt_mem hx)) ha.1 hb.1 ha.2 hb.2
  rw [minmaxElem_float hx]
  cases larger
  · rw [hmin]
    by_cases h : f.rank a ≤ f.rank b
    · exact ⟨a, by simp [h]⟩
    · exact ⟨b, by simp [h, le_of_not_ge h]⟩
  · rw [hmax]
    by_cases h : f.rank a ≤ f.rank b
    · exact ⟨b, by simp [h]⟩
    · exact ⟨a, by simp [h, le_of_not_ge h]⟩

/-- The extreme of numbers is a greatest or least one of them. -/
theorem redExtreme_numbers (hne : activeElems (tagWidth x.tag) m x.bits ≠ []) (hnum : ∀ u ∈ activeElems (tagWidth x.tag) m x.bits, f.isNaN u = false) :
    (redExtreme larger m x).val ∈ activeElems (tagWidth x.tag) m x.bits ∧ (redExtreme larger m x).flags = 0 ∧
      ∀ u ∈ activeElems (tagWidth x.tag) m x.bits, if larger then f.rank u ≤ f.rank (redExtreme larger m x).val
        else f.rank (redExtreme larger m x).val ≤ f.rank u := by
  have hlt := activeElems_float (m := m) hx
  obtain ⟨a, l, e⟩ := List.exists_cons_of_ne_nil hne
  rw [redExtreme_cons e, e]
  rw [e] at hnum hlt
  obtain ⟨c, hc, hmem, -, hall⟩ := foldl_extreme (larger := larger) (t := x.tag) (R := fun a c => if larger then f.rank a ≤ f.rank c else f.rank c ≤ f.rank a)
    (p := fun u => u < 2 * f.signBit ∧ f.isNaN u = false) (by intro a; split <;> rfl) (by intro a b c; split <;> omega)
    (fun a b => minmax_number hx) (a :: l) a ⟨hlt a List.mem_cons_self, hnum a List.mem_cons_self⟩ (fun u hu => ⟨hlt u hu, hnum u hu⟩)
  rw [hc]
  exact ⟨by rcases hmem with rfl | h; exacts [List.mem_cons_self, h], rfl, hall⟩

/-- The first NaN among the elements is the extreme, quieted (R52). -/
theorem redExtreme_nan {l z : List Nat} {y : Nat} (e : activeElems (tagWidth x.tag) m x.bits = l ++ y :: z) (hl : ∀ u ∈ l, f.isNaN u = false)
    (hy : f.isNaN y = true) : (redExtreme larger m x).val = f.quieted y := by
  have hf := Fmt.ok_of_mem (tagFmt_mem hx)
  have hlt := activeElems_float (m := m) hx
  rw [e] at hlt
  have hylt := hlt y (by simp)
  obtain ⟨hqlt, hqnan⟩ := Fmt.quieted_lt hf hy hylt
  have hstart {r : Res} (hr : r.val < 2 * f.signBit) (h : f.isNaN r.val = false ∨ r.val = y) :
      ((y :: z).foldl (extremeStep larger x.tag) r).val = f.quieted y := by
    refine foldl_absorbed (p := fun u => u < 2 * f.signBit) (fun b hb => ?_) z _ (fun u hu => hlt u (by simp [hu])) ?_
    · rw [minmaxElem_float hx, Fmt.minmax, Fmt.pick_pair hf hqlt hb (.inl hqnan)]
      rw [hqnan, if_pos rfl, Fmt.quieted, Fmt.quieted, Nat.or_assoc, Nat.or_self]
    · rw [extremeStep, minmaxElem_float hx, Fmt.minmax, Fmt.pick_pair hf hr hylt (.inr hy)]
      rcases h with h | h
      · simp [h]
      · simp [h]
  cases l with
  | nil =>
    rw [redExtreme_cons e, e]
    exact hstart hylt (.inr rfl)
  | cons a l =>
    rw [redExtreme_cons e, e, List.foldl_append]
    have hmem : ∀ u ∈ a :: l, u < 2 * f.signBit ∧ f.isNaN u = false := fun u hu => ⟨hlt u (List.mem_append_left _ hu), hl u hu⟩
    obtain ⟨c, hc, hcmem, -⟩ := foldl_extreme (larger := larger) (t := x.tag) (R := fun a c => if larger then f.rank a ≤ f.rank c else f.rank c ≤ f.rank a)
      (p := fun u => u < 2 * f.signBit ∧ f.isNaN u = false) (by intro a; split <;> rfl) (by intro a b c; split <;> omega)
      (fun a b => minmax_number hx) (a :: l) a (hmem a List.mem_cons_self) hmem
    have hcnum : c < 2 * f.signBit ∧ f.isNaN c = false := hmem c (by rcases hcmem with rfl | h; exacts [List.mem_cons_self, h])
    rw [hc]
    exact hstart hcnum.1 (.inl hcnum.2)

end float

section td8
variable {larger : Bool} {m : W64} {x : VReg} (hx : x.tag = 5)
include hx

theorem minmax_td8 {a b : Nat} (ha : a < 256 ∧ a ≠ 0x80) (hb : b < 256 ∧ b ≠ 0x80) : ∃ c, minmaxElem larger x.tag a b = ⟨c, 0⟩ ∧
    (c = a ∨ c = b) ∧ (if larger then (td8Value a).rat ≤ (td8Value c).rat else (td8Value c).rat ≤ (td8Value a).rat) ∧
      (if larger then (td8Value b).rat ≤ (td8Value c).rat else (td8Value c).rat ≤ (td8Value b).rat) := by
  rw [hx, minmaxElem_td8 larger ha.1 ha.2 hb.1 hb.2]
  by_cases h : (td8Value b).rat < (td8Value a).rat
  · cases larger
    · exact ⟨b, by simp [h, h.le]⟩
    · exact ⟨a, by simp [h, h.le]⟩
  · cases larger
    · exact ⟨a, by simp [h, not_lt.1 h]⟩
    · exact ⟨b, by simp [h, not_lt.1 h]⟩

/-- The extreme of TD8 numbers is a greatest or least one of them. -/
theorem redExtreme_td8 (hne : activeElems (tagWidth x.tag) m x.bits ≠ []) (hnum : 0x80 ∉ activeElems (tagWidth x.tag) m x.bits) :
    (redExtreme larger m x).val ∈ activeElems (tagWidth x.tag) m x.bits ∧ (redExtreme larger m x).flags = 0 ∧
      ∀ u ∈ activeElems (tagWidth x.tag) m x.bits, if larger then (td8Value u).rat ≤ (td8Value (redExtreme larger m x).val).rat
        else (td8Value (redExtreme larger m x).val).rat ≤ (td8Value u).rat := by
  have hlt : ∀ u ∈ activeElems (tagWidth x.tag) m x.bits, u < 256 ∧ u ≠ 0x80 := by
    intro u hu
    have := activeElems_lt u hu
    rw [hx] at this
    exact ⟨this, fun e => hnum (e ▸ hu)⟩
  obtain ⟨a, l, e⟩ := List.exists_cons_of_ne_nil hne
  rw [redExtreme_cons e, e]
  rw [e] at hlt
  obtain ⟨c, hc, hmem, -, hall⟩ := foldl_extreme (larger := larger) (t := x.tag)
    (R := fun a c => if larger then (td8Value a).rat ≤ (td8Value c).rat else (td8Value c).rat ≤ (td8Value a).rat)
    (p := fun u => u < 256 ∧ u ≠ 0x80) (by intro a; split <;> rfl) (by intro a b c; split <;> intro h1 h2 <;> linarith)
    (fun a b => minmax_td8 hx) (a :: l) a (hlt a List.mem_cons_self) hlt
  rw [hc]
  exact ⟨by rcases hmem with rfl | h; exacts [List.mem_cons_self, h], rfl, hall⟩

/-- `0x80` of any element gives `0x80` (R59, R155). -/
theorem redExtreme_td8_nan (h : activeElems (tagWidth x.tag) m x.bits = [] ∨ 0x80 ∈ activeElems (tagWidth x.tag) m x.bits) :
    redExtreme larger m x = ⟨0x80, 0⟩ := by
  rcases h with h | h
  · rw [redExtreme, h]
    simp [hx, tagFmt]
  · obtain ⟨a, l, e⟩ := List.exists_cons_of_ne_nil (List.ne_nil_of_mem h)
    rw [redExtreme_cons e]
    obtain ⟨u, v, e'⟩ := List.append_of_mem h
    have hval : ((activeElems (tagWidth x.tag) m x.bits).foldl (extremeStep larger x.tag) ⟨a, 0⟩).val = 0x80 := by
      rw [e', List.foldl_append, List.foldl_cons]
      refine foldl_absorbed (p := fun _ => True) (fun b _ => ?_) v _ (fun _ _ => trivial) ?_
      · rw [hx, minmaxElem_td8_nan larger (.inl rfl)]
      · rw [extremeStep, hx, minmaxElem_td8_nan larger (.inr rfl)]
    have hflags : ((activeElems (tagWidth x.tag) m x.bits).foldl (extremeStep larger x.tag) ⟨a, 0⟩).flags = 0 :=
      foldl_flags (fun a b => by simp only [hx, minmaxElem, tagFmt, beq_self_eq_true, if_true]; split <;> rfl) _ _
    exact congrArg₂ Res.mk hval hflags

end td8

end Sys2Proof.Machine
end

section
/-! # TD8 and dot products (R58 to R62, R72) -/

namespace Sys2Proof.Machine

/-! ## Values of TD8 codes (R58 to R60) -/

/-- The fields of the codes of a decade. -/
theorem td8Fields_decade : ∀ p ∈ ([(0x40, 0, 5), (0x60, -1, 5), (0x20, 1, 4), (0x30, -2, 4), (0x10, 2, 3), (0x18, -3, 3), (0x08, 3, 2),
    (0x0C, -4, 2), (0x04, 4, 1), (0x06, -5, 1), (0x02, 5, 0), (0x03, -6, 0), (0x01, -7, 0)] : List (Nat × Int × Nat)), ∀ k, k < 2 ^ p.2.2 →
    ∀ neg : Bool, ((if neg then 128 else 0) + p.1 + k) % 128 ≠ 0 ∧
      td8Fields ((if neg then 128 else 0) + p.1 + k) = (neg, 2 ^ p.2.2 + 9 * k, p.2.2, p.2.1) := by decide +kernel

/-- The value that the fields of a code give. -/
theorem td8Value_of_fields {c M F : Nat} {E : Int} {neg : Bool} (hc : c % 128 ≠ 0) (h : td8Fields c = (neg, M, F, E)) :
    (td8Value c).finite = true ∧ (td8Value c).sign = neg ∧ (td8Value c).rat = (if neg then -1 else 1) * (M / 2 ^ F) * 10 ^ E := by
  have hne : (c % 128 == 0) = false := by simpa using hc
  rw [td8Value, hne, h]
  dsimp only
  rw [if_neg Bool.false_ne_true]
  rcases le_or_gt 0 E with hE | hE
  · obtain ⟨e, rfl⟩ := Int.eq_ofNat_of_zero_le hE
    rw [if_pos hE]
    refine ⟨rfl, rfl, ?_⟩
    rw [FVal.rat]
    push_cast
    rw [mul_assoc, Int.toNat_natCast, zpow_natCast]
    ring
  · obtain ⟨e, rfl⟩ : ∃ e : Nat, E = -e := ⟨(-E).toNat, by omega⟩
    rw [if_neg (by omega)]
    refine ⟨rfl, rfl, ?_⟩
    rw [FVal.rat, neg_neg, Int.toNat_natCast, zpow_neg, zpow_natCast]
    push_cast
    rw [mul_assoc, div_mul_eq_div_div]
    rfl

theorem td8Value_sound (c : Nat) : (td8Value c).sound := by
  intro s n d h
  unfold td8Value at h
  split at h
  · split at h <;> cases h
    exact Nat.one_pos
  · dsimp only at h
    split at h <;> cases h <;> positivity

/-- Decoding rounds the value of a code once to nearest (R60). -/
theorem td8To_roundsTo {c : Nat} (hc : c < 256) (hc' : c ≠ 0x80) : ∃ flags, f32.roundsTo 0 (td8Value c).rat false ⟨td8To f32 c, flags⟩ := by
  obtain ⟨s, n, d, e, hd⟩ := td8Value_fin hc hc'
  have hround := Fmt.roundVal_eq (f := f32) 0 (v := td8Value c) (by rw [e]; rfl) (td8Value_sound c)
  refine ⟨(f32.roundVal 0 (td8Value c)).flags, ?_⟩
  rw [Fmt.roundsTo_iff]
  refine Eq.trans (b := f32.roundVal 0 (td8Value c)) rfl (hround.trans ?_)
  by_cases hz : (td8Value c).rat = 0
  · have hzero : ∀ c < 256, (td8Value c).isZero = true → c = 0 := by decide +kernel
    obtain rfl := hzero c hc (FVal.isZero_of_rat (by rw [e]; rfl) (td8Value_sound c) hz)
    rfl
  · rw [Fmt.roundQ, Fmt.roundQ, if_neg hz, if_neg hz]

/-! ## Encoding (R61, R62) -/

/-- Numerator and denominator of the value of a TD8 magnitude. -/
def td8Top (c : Nat) : Nat := (td8Value c).frac.1.toNat

def td8Bot (c : Nat) : Nat := (td8Value c).frac.2

theorem td8_magnitudes : ∀ c < 128, 0 ≤ (td8Value c).frac.1 ∧ (c ≠ 0 → td8Value (128 + c) = (td8Value c).negate) ∧ c ∈ td8Rising := by
  decide +kernel

theorem td8_bot_pos (c : Nat) : 0 < td8Bot c := (td8Value_sound c).frac_pos

theorem td8_near {c : Nat} (hc : c < 128) : (td8Value c).rat = (td8Top c : ℚ) / td8Bot c := by
  have h := (td8_magnitudes c hc).1
  rw [FVal.frac_rat, td8Top, td8Bot]
  congr 1
  exact_mod_cast (Int.toNat_of_nonneg h).symm

theorem td8Rising_lt : ∀ c ∈ td8Rising, c < 128 := by decide +kernel

/-- The magnitudes rise (R59). -/
theorem td8Rising_rises : td8Rising.Pairwise fun a b => (td8Value a).rat < (td8Value b).rat := by
  have hchain : td8Rising.IsChain fun a b => a < 128 ∧ b < 128 ∧ td8Top a * td8Bot b < td8Top b * td8Bot a := by decide +kernel
  have hrat : td8Rising.IsChain fun a b => (td8Value a).rat < (td8Value b).rat := by
    refine hchain.imp fun a b h => ?_
    have ha : (0 : ℚ) < td8Bot a := by exact_mod_cast td8_bot_pos a
    have hb : (0 : ℚ) < td8Bot b := by exact_mod_cast td8_bot_pos b
    rw [td8_near h.1, td8_near h.2.1, div_lt_div_iff₀ ha hb]
    exact_mod_cast h.2.2
  have : IsTrans Nat fun a b => (td8Value a).rat < (td8Value b).rat := ⟨fun _ _ _ => lt_trans⟩
  exact hrat.pairwise

section nearest
variable {n d : Nat} (hd : 0 < d)
include hd

/-- Comparisons of a magnitude with the encoded one, as of fractions. -/
theorem td8_lt_frac {c : Nat} (hc : c < 128) : ((td8Value c).rat < (n / d : ℚ) ↔ td8Top c * d < n * td8Bot c) ∧
    ((td8Value c).rat = (n / d : ℚ) ↔ td8Top c * d = n * td8Bot c) := by
  have hb : (0 : ℚ) < td8Bot c := by exact_mod_cast td8_bot_pos c
  have hd' : (0 : ℚ) < d := by exact_mod_cast hd
  rw [td8_near hc, div_lt_div_iff₀ hb hd', div_eq_div_iff hb.ne' hd'.ne']
  exact ⟨by exact_mod_cast Iff.rfl, by exact_mod_cast Iff.rfl⟩

/-- The code `k` is nearest to `q` among some magnitudes, by the tie rule of R61. -/
def td8Closest (q : ℚ) (k : Nat) (l : List Nat) : Prop := ∀ c ∈ l, |q - (td8Value k).rat| ≤ |q - (td8Value c).rat| ∧
  (|q - (td8Value k).rat| = |q - (td8Value c).rat| →
    ((td8Value k).rat < (td8Value c).rat → k % 2 = 0) ∧ ((td8Value c).rat < (td8Value k).rat → c % 2 = 1))

/-- The distances of two neighbours that the search compares. -/
theorem td8_distances {lo c : Nat} (hlo : lo < 128) (hc : c < 128) (h1 : (td8Value lo).rat < (n / d : ℚ)) (h2 : (n / d : ℚ) < (td8Value c).rat) :
    let below := (n * td8Bot lo - td8Top lo * d) * td8Bot c
    let above := (td8Top c * d - n * td8Bot c) * td8Bot lo
    ((below < above ↔ (n / d : ℚ) - (td8Value lo).rat < (td8Value c).rat - (n / d : ℚ)) ∧
      (above < below ↔ (td8Value c).rat - (n / d : ℚ) < (n / d : ℚ) - (td8Value lo).rat)) := by
  intro below above
  have hd' : (0 : ℚ) < d := by exact_mod_cast hd
  have hbl : (0 : ℚ) < td8Bot lo := by exact_mod_cast td8_bot_pos lo
  have hbc : (0 : ℚ) < td8Bot c := by exact_mod_cast td8_bot_pos c
  have hD : (0 : ℚ) < d * td8Bot lo * td8Bot c := by positivity
  have hle1 : td8Top lo * d ≤ n * td8Bot lo := (((td8_lt_frac hd hlo).1).1 h1).le
  have hle2 : n * td8Bot c ≤ td8Top c * d := not_lt.1 fun h => absurd (((td8_lt_frac hd hc).1).2 h) (not_lt.2 h2.le)
  have hbelow : (below : ℚ) = ((n / d : ℚ) - (td8Value lo).rat) * (d * td8Bot lo * td8Bot c) := by
    rw [td8_near hlo]
    unfold below
    push_cast [Nat.cast_sub hle1]
    field_simp
  have habove : (above : ℚ) = ((td8Value c).rat - (n / d : ℚ)) * (d * td8Bot lo * td8Bot c) := by
    rw [td8_near hc]
    unfold above
    push_cast [Nat.cast_sub hle2]
    field_simp
  rw [← Nat.cast_lt (α := ℚ), ← Nat.cast_lt (α := ℚ), hbelow, habove]
  exact ⟨mul_lt_mul_iff_left₀ hD, mul_lt_mul_iff_left₀ hD⟩

/-- One step of the search, by the numbers that it compares. -/
theorem td8Nearest_cons {lo c : Nat} (hlo : lo < 128) (hc : c < 128) (h : (td8Value lo).rat < (n / d : ℚ)) (l : List Nat) :
    td8Nearest n d lo (c :: l) =
      if (td8Value c).rat < (n / d : ℚ) then td8Nearest n d c l
      else if (td8Value c).rat = (n / d : ℚ) then c
      else if (n / d : ℚ) - (td8Value lo).rat < (td8Value c).rat - (n / d : ℚ) then lo
      else if (td8Value c).rat - (n / d : ℚ) < (n / d : ℚ) - (td8Value lo).rat then c
      else if lo % 2 = 0 then lo else c := by
  obtain ⟨hlt_iff, heq_iff⟩ := td8_lt_frac (n := n) hd hc
  have hodd : (!bit lo 0) = decide (lo % 2 = 0) := by
    rw [bit]
    rcases Nat.mod_two_eq_zero_or_one lo with h | h <;> simp [h]
  unfold td8Top td8Bot at hlt_iff heq_iff
  simp only [td8Nearest, hodd, beq_iff_eq, ← hlt_iff, ← heq_iff]
  by_cases h1 : (td8Value c).rat < (n / d : ℚ)
  · simp only [if_pos h1]
  · by_cases h2 : (td8Value c).rat = (n / d : ℚ)
    · simp only [if_neg h1, if_pos h2]
    · obtain ⟨hbelow, habove⟩ := td8_distances hd hlo hc h (lt_of_le_of_ne (not_lt.1 h1) (Ne.symm h2))
      unfold td8Top td8Bot at hbelow habove
      simp only [if_neg h1, if_neg h2, hbelow, habove, decide_eq_true_iff]

theorem td8Nearest_closest : ∀ (l : List Nat) (lo : Nat), (∀ c ∈ lo :: l, c < 128) → (lo :: l).Pairwise (fun a b => (td8Value a).rat < (td8Value b).rat) →
    (td8Value lo).rat < (n / d : ℚ) → td8Nearest n d lo l ∈ lo :: l ∧ td8Closest (n / d : ℚ) (td8Nearest n d lo l) (lo :: l)
  | [], lo, _, _, _ => ⟨by simp [td8Nearest], by simp [td8Nearest, td8Closest]⟩
  | c :: l, lo, hlt, hrise, hlo => by
    have hlo128 : lo < 128 := hlt lo (by simp)
    have hc128 : c < 128 := hlt c (by simp)
    obtain ⟨hloc, hrise'⟩ := List.pairwise_cons.1 hrise
    have hloc := hloc c (by simp)
    have hcl := (List.pairwise_cons.1 hrise').1
    rw [td8Nearest_cons hd hlo128 hc128 hlo]
    generalize hq : (n / d : ℚ) = q at *
    rcases lt_trichotomy (td8Value c).rat q with h | h | h
    · obtain ⟨hmem, hclose⟩ := td8Nearest_closest l c (fun u hu => hlt u (List.mem_cons_of_mem _ hu)) hrise' (hq ▸ h)
      rw [hq] at hclose
      rw [if_pos h]
      refine ⟨List.mem_cons_of_mem _ hmem, List.forall_mem_cons.2 ⟨?_, hclose⟩⟩
      have hc := (hclose c (by simp)).1
      have hfar : |q - (td8Value (td8Nearest n d c l)).rat| < |q - (td8Value lo).rat| := by
        refine lt_of_le_of_lt hc ?_
        rw [abs_of_pos (by linarith), abs_of_pos (by linarith)]
        linarith
      exact ⟨hfar.le, fun e => absurd e hfar.ne⟩
    · rw [if_neg h.not_lt, if_pos h]
      refine ⟨by simp, fun u _ => ?_⟩
      rw [h, sub_self, abs_zero]
      refine ⟨abs_nonneg _, fun e => ?_⟩
      have : (td8Value u).rat = q := by
        have := abs_eq_zero.1 e.symm
        linarith
      rw [this]
      exact ⟨fun h => absurd h (lt_irrefl _), fun h => absurd h (lt_irrefl _)⟩
    · rw [if_neg h.not_gt, if_neg h.ne']
      have hdlo : |q - (td8Value lo).rat| = q - (td8Value lo).rat := abs_of_pos (by linarith)
      have hdc : |q - (td8Value c).rat| = (td8Value c).rat - q := by rw [abs_sub_comm]; exact abs_of_pos (by linarith)
      have hfar : ∀ u ∈ l, (td8Value c).rat - q < |q - (td8Value u).rat| := fun u hu => by
        rw [abs_sub_comm, abs_of_pos (by linarith [hcl u hu])]
        linarith [hcl u hu]
      split
      · next hb =>
        refine ⟨by simp, ?_⟩
        unfold td8Closest
        simp only [List.forall_mem_cons, hdlo, hdc]
        refine ⟨by simp, ⟨hb.le, fun e => absurd e hb.ne⟩, fun u hu => ?_⟩
        have := hb.trans (hfar u hu)
        exact ⟨this.le, fun e => absurd e this.ne⟩
      · next hb =>
        split
        · next ha =>
          refine ⟨by simp, ?_⟩
          unfold td8Closest
          simp only [List.forall_mem_cons, hdlo, hdc]
          exact ⟨⟨ha.le, fun e => absurd e ha.ne⟩, by simp, fun u hu => ⟨(hfar u hu).le, fun e => absurd e (hfar u hu).ne⟩⟩
        · next ha =>
          have htie : |q - (td8Value lo).rat| = (td8Value c).rat - q := hdlo.trans (le_antisymm (not_lt.1 ha) (not_lt.1 hb))
          split
          · next heven =>
            refine ⟨by simp, ?_⟩
            unfold td8Closest
            simp only [List.forall_mem_cons, hdc, htie]
            exact ⟨by simp, ⟨le_rfl, fun _ => ⟨fun _ => heven, fun h => absurd h hloc.not_gt⟩⟩,
              fun u hu => ⟨(hfar u hu).le, fun e => absurd e (hfar u hu).ne⟩⟩
          · next hodd =>
            refine ⟨by simp, ?_⟩
            unfold td8Closest
            simp only [List.forall_mem_cons, hdc, htie]
            exact ⟨⟨le_rfl, fun _ => ⟨fun h => absurd h hloc.not_gt, fun _ => by omega⟩⟩, by simp,
              fun u hu => ⟨(hfar u hu).le, fun e => absurd e (hfar u hu).ne⟩⟩

omit hd in
theorem td8Value_zero : (td8Value 0).rat = 0 := by
  rw [show td8Value 0 = .fin false 0 1 from rfl]
  simp [FVal.rat]

/-- The code of a positive number is nearest among all magnitudes (R61). -/
theorem td8Nearest_all (hn : 0 < n) : td8Nearest n d 0 td8Rising < 128 ∧
    ∀ c < 128, c ∈ td8Rising ∧ td8Closest (n / d : ℚ) (td8Nearest n d 0 td8Rising) td8Rising := by
  have hq : (td8Value 0).rat < (n / d : ℚ) := by rw [td8Value_zero]; positivity
  have hcons : td8Rising = 0 :: td8Rising.tail := rfl
  have hskip : td8Nearest n d 0 td8Rising = td8Nearest n d 0 td8Rising.tail := by
    conv_lhs => rw [hcons]
    rw [td8Nearest_cons hd (by decide) (by decide) hq, if_pos hq]
  obtain ⟨hmem, hclose⟩ := td8Nearest_closest hd td8Rising.tail 0 (hcons ▸ td8Rising_lt) (hcons ▸ td8Rising_rises) hq
  rw [← hcons] at hmem hclose
  rw [hskip]
  exact ⟨td8Rising_lt _ hmem, fun c hc => ⟨(td8_magnitudes c hc).2.2, hclose⟩⟩

end nearest

theorem FVal.rat_negate (v : FVal) : v.negate.rat = -v.rat := FVal.flip_rat true v

/-- Encoding a finite value takes the nearest code, with the flags of R62. -/
theorem td8Of_fin (s : Bool) (n : Nat) {d : Nat} (hd : 0 < d) (sn : Bool) :
    let v := FVal.fin s n d
    let r := td8Of v sn
    let near := fun c => (td8Value c).rat
    (100000 < |v.rat| → r = ⟨if s then 0x82 else 0x02, 4 + 16⟩) ∧
    (|v.rat| ≤ 100000 →
      let k := r.val % 128
      r.val = k + (if s = true ∧ k ≠ 0 then 128 else 0) ∧
      (∀ c, c < 128 → |(|v.rat| - near k)| ≤ |(|v.rat| - near c)| ∧
        (|(|v.rat| - near k)| = |(|v.rat| - near c)| → (near k < near c → k % 2 = 0) ∧ (near c < near k → c % 2 = 1))) ∧
      r.flags = if near r.val = v.rat then 0 else 16 + (if |v.rat| < 1 / 10 ^ 7 then 8 else 0)) := by
  intro v r near
  have hd' : (0 : ℚ) < d := by exact_mod_cast hd
  have habs : |v.rat| = (n / d : ℚ) := FVal.abs_rat_fin ..
  have hlarge : 100000 < |v.rat| ↔ 100000 * d < n := by
    rw [habs, lt_div_iff₀ hd']
    exact_mod_cast Iff.rfl
  rcases Nat.eq_zero_or_pos n with rfl | hn
  · have hz : v.rat = 0 := (FVal.rat_eq_zero hd).2 rfl
    have hr : r = ⟨0, 0⟩ := rfl
    refine ⟨fun h => ?_, fun _ => ?_⟩
    · rw [hz, abs_zero] at h
      norm_num at h
    · rw [hr, hz]
      refine ⟨by simp, fun c hc => ?_, by simp [near, td8Value_zero]⟩
      simp only [near, Nat.zero_mod, td8Value_zero, abs_zero, sub_zero, zero_sub, abs_neg]
      refine ⟨abs_nonneg _, fun e => ?_⟩
      rw [abs_eq_zero.1 e.symm]
      exact ⟨fun h => absurd h (lt_irrefl _), fun h => absurd h (lt_irrefl _)⟩
  · have hn0 : (n == 0) = false := by simpa using hn.ne'
    refine ⟨fun h => ?_, fun h => ?_⟩
    · have hr : r = ⟨b2n s * 128 + 2, flagOF ||| flagNX⟩ := by
        simp only [r, v, td8Of, hn0, if_pos (hlarge.1 h), Bool.false_eq_true, if_false]
      rw [hr]
      cases s <;> rfl
    · obtain ⟨hlt, hclose⟩ := td8Nearest_all hd hn
      have htiny : (n / d : ℚ) < 1 / 10 ^ 7 ↔ n * 10 ^ 7 < d := by
        rw [div_lt_div_iff₀ hd' (by positivity), one_mul]
        exact_mod_cast Iff.rfl
      have hexact := (td8_lt_frac (n := n) hd hlt).2
      have hr : r = ⟨if td8Nearest n d 0 td8Rising = 0 then 0 else b2n s * 128 + td8Nearest n d 0 td8Rising,
          if near (td8Nearest n d 0 td8Rising) = (n / d : ℚ) then 0 else flagNX ||| (if (n / d : ℚ) < 1 / 10 ^ 7 then flagUF else 0)⟩ := by
        simp only [r, v, td8Of, hn0, if_neg (mt hlarge.2 (not_lt.2 h)), Bool.false_eq_true, if_false, beq_iff_eq, near, hexact, htiny]
        rfl
      rw [hr, habs]
      clear hexact hr
      generalize td8Nearest n d 0 td8Rising = k at *
      have hmod : (if k = 0 then 0 else b2n s * 128 + k) % 128 = k := by
        split <;> omega
      dsimp only
      rw [hmod]
      refine ⟨?_, fun c hc => (hclose c hc).2 c (hclose c hc).1, ?_⟩
      · cases s <;> by_cases hk : k = 0 <;> simp [hk, b2n, Nat.add_comm]
      · have hq : (0 : ℚ) < n / d := by positivity
        have hnear : near (if k = 0 then 0 else b2n s * 128 + k) = v.rat ↔ near k = (n / d : ℚ) := by
          have hv : v.rat = if s then -(n / d : ℚ) else (n / d : ℚ) := by cases s <;> simp [v, FVal.rat]
          rw [hv]
          by_cases hk : k = 0
          · subst hk
            simp only [if_true, near, td8Value_zero]
            cases s
            · simp
            · simp only [if_true]
              exact ⟨fun e => absurd e (by linarith), fun e => absurd e hq.ne⟩
          · cases s
            · simp [hk, b2n]
            · simp only [hk, if_false, if_true, b2n, one_mul, near, (td8_magnitudes k hlt).2.1 hk, FVal.rat_negate, neg_inj]
        simp only [hnear]
        split
        · rfl
        · split <;> rfl

/-! ## Dot products (R72) -/

/-- A BF16 or FP32 NaN carried to FP32. -/
theorem nanTo_f32 {o : Fmt × Nat} (hmem : o.1 ∈ [f32, bf16]) (hn : o.1.isNaN o.2 = true) (ho : o.2 < 2 * o.1.signBit) :
    nanTo o.1 f32 o.2 = f32.quieted (if o.1 = f32 then o.2 else o.2 * 2 ^ 16) := by
  obtain ⟨g, x⟩ := o
  simp only [List.mem_cons, List.not_mem_nil, or_false] at hmem
  have hf : f32.Ok := Fmt.ok_of_mem (by simp)
  rcases hmem with rfl | rfl
  · exact nanTo_same hf hn ho
  · have hx : x * 2 ^ 16 = f32.withSign (bf16.neg x) (f32.inf + x % 2 ^ bf16.fw * 2 ^ 16) := by
      have hg : bf16.Ok := Fmt.ok_of_mem (by simp)
      have hpat : x = bf16.withSign (bf16.neg x) (bf16.inf + x % 2 ^ bf16.fw) := Fmt.nan_pattern hg hn ho
      have hinf : f32.inf = bf16.inf * 2 ^ 16 ∧ f32.signBit = bf16.signBit * 2 ^ 16 := by decide
      conv_lhs => rw [hpat]
      rw [Fmt.withSign, Fmt.withSign, hinf.1, hinf.2]
      split <;> ring
    rw [if_neg (show ¬ bf16 = f32 by decide), nanTo_eq]
    dsimp only
    rw [hx, Fmt.quieted_pattern hf]
    rfl

/-- A NaN among the operands of a dot product (R52, R72). -/
theorem dotSum_nan (rm c : Nat) (fs : List (FVal × FVal)) {l m : List (Fmt × Nat)} {o : Fmt × Nat} (hl : ∀ p ∈ l, p.1.isNaN p.2 = false)
    (hn : o.1.isNaN o.2 = true) (hmem : o.1 ∈ [f32, bf16]) (ho : o.2 < 2 * o.1.signBit) : dotSum rm (l ++ o :: m) fs c =
      ⟨f32.quieted (if o.1 = f32 then o.2 else o.2 * 2 ^ 16), if (l ++ o :: m).any fun p => p.1.isSNaN p.2 then 1 else 0⟩ := by
  rw [dotSum, pickNaN_first hl hn, nanTo_f32 hmem hn ho]

def FVal.isInf (v : FVal) : Prop := v = .inf true ∨ v = .inf false

/-- The product of two numbers: none for an infinity and a zero, else infinite when a factor is. -/
theorem FVal.mul_cases {a b : FVal} (ha : a ≠ .nan) (hb : b ≠ .nan) :
    (a.mul b = none ↔ a.isInf ∧ b.isZero = true ∨ a.isZero = true ∧ b.isInf) ∧
    (a.mul b ≠ none → a.mul b = some (a.times b) ∧ ∀ s, a.times b = .inf s ↔ (a.isInf ∨ b.isInf) ∧ (a.sign != b.sign) = s) := by
  cases a with
  | nan => exact absurd rfl ha
  | inf s =>
    obtain ⟨h1, h2⟩ := FVal.inf_mul s hb
    cases hz : b.isZero
    · have e := (h2 hz).1
      simp [FVal.times, e, FVal.isInf, FVal.isZero, FVal.sign]
    · simp [(h1 hz).1, FVal.isInf]
  | fin s n d =>
    cases b with
    | nan => exact absurd rfl hb
    | inf t =>
      obtain ⟨h1, h2⟩ := FVal.inf_mul t ha
      cases hz : (FVal.fin s n d).isZero
      · have e := (h2 hz).2
        simp [FVal.times, e, FVal.isInf, FVal.sign, Bool.xor_comm]
      · simp [(h1 hz).2, FVal.isInf]
    | fin t m e => simp [FVal.mul, FVal.times, FVal.isInf]

section dot
variable {l : List (FVal × FVal)} (hl : ∀ p ∈ l, p.1 ≠ .nan ∧ p.2 ≠ .nan) {nans : List (Fmt × Nat)}
  (hnans : ∀ o ∈ nans, o.1.isNaN o.2 = false) (rm c : Nat)
include hl hnans

/-- A product of an infinity and a zero makes a dot product invalid (R72). -/
theorem dotSum_invalid (h : ∃ p ∈ l, p.1.isInf ∧ p.2.isZero = true ∨ p.1.isZero = true ∧ p.2.isInf) : dotSum rm nans l c = ⟨f32.nan, 1⟩ := by
  obtain ⟨p, hp, h⟩ := h
  have hnone := (FVal.mul_cases (hl p hp).1 (hl p hp).2).1.2 h
  have hany : ((l.map fun x => x.1.mul x.2).any fun x => x == none) = true := List.any_eq_true.2 ⟨none, List.mem_map.2 ⟨p, hp, hnone⟩, rfl⟩
  rw [dotSum, pickNaN_none hnans]
  simp only [hany, if_true, flagNV]

/-- Else it is the sum of the products and the accumulator. -/
theorem dotSum_products (h : ¬ ∃ p ∈ l, p.1.isInf ∧ p.2.isZero = true ∨ p.1.isZero = true ∧ p.2.isInf) :
    dotSum rm nans l c = f32.sum rm (f32.value c :: l.map fun p => p.1.times p.2) ∧
      ∀ s, .inf s ∈ (f32.value c :: l.map fun p => p.1.times p.2) ↔
        f32.value c = .inf s ∨ ∃ p ∈ l, (p.1.isInf ∨ p.2.isInf) ∧ (p.1.sign != p.2.sign) = s := by
  have hsome : ∀ p ∈ l, p.1.mul p.2 ≠ none := fun p hp e => h ⟨p, hp, (FVal.mul_cases (hl p hp).1 (hl p hp).2).1.1 e⟩
  have hcases : ∀ p ∈ l, _ := fun p hp => (FVal.mul_cases (hl p hp).1 (hl p hp).2).2 (hsome p hp)
  have hmap : (l.map fun x => x.1.mul x.2) = (l.map fun p => p.1.times p.2).map some := by
    rw [List.map_map]
    exact List.map_congr_left fun p hp => (hcases p hp).1
  refine ⟨?_, fun s => ?_⟩
  · rw [dotSum, pickNaN_none hnans]
    simp only [hmap, List.any_map]
    simp [List.filterMap_map, Function.comp_def]
  · rw [List.mem_cons, List.mem_map, eq_comm]
    refine or_congr_right (exists_congr fun p => and_congr_right fun hp => ?_)
    exact (hcases p hp).2 s

/-- Without an infinity the exact sum is rounded once (R54, R72). -/
theorem dotSum_finite (hfin : ∀ p ∈ l, p.1.finite = true ∧ p.2.finite = true) (hs : ∀ p ∈ l, p.1.sound ∧ p.2.sound)
    (hc : (f32.value c).finite = true) : dotSum rm nans l c =
      f32.roundQ rm (zeroSign rm (f32.neg c :: l.map fun p => p.1.sign != p.2.sign)) ((f32.value c).rat + (l.map fun p => p.1.rat * p.2.rat).sum) := by
  have hinf : ∀ v : FVal, v.finite = true → ¬ v.isInf := by
    rintro v hv (rfl | rfl) <;> cases hv
  have hnone : ¬ ∃ p ∈ l, p.1.isInf ∧ p.2.isZero = true ∨ p.1.isZero = true ∧ p.2.isInf := by
    rintro ⟨p, hp, ⟨h, -⟩ | ⟨-, h⟩⟩
    · exact hinf _ (hfin p hp).1 h
    · exact hinf _ (hfin p hp).2 h
  have hsign : ((f32.value c :: l.map fun p => p.1.times p.2).map FVal.sign) = f32.neg c :: l.map fun p => p.1.sign != p.2.sign := by
    rw [List.map_cons, List.map_map, Fmt.value_sign (Fmt.isNaN_of_finite hc)]
    exact congrArg _ (List.map_congr_left fun p hp => FVal.times_sign (hfin p hp).1 (hfin p hp).2)
  have hrat : ((f32.value c :: l.map fun p => p.1.times p.2).map FVal.rat).sum = (f32.value c).rat + (l.map fun p => p.1.rat * p.2.rat).sum := by
    rw [List.map_cons, List.sum_cons, List.map_map]
    exact congrArg _ (congrArg _ (List.map_congr_left fun p hp => (FVal.times_finite (hfin p hp).1 (hfin p hp).2).2))
  rw [(dotSum_products hl hnans rm c hnone).1, Fmt.sum_finite, hsign, hrat]
  · simp only [List.forall_mem_cons, List.forall_mem_map]
    exact ⟨hc, fun p hp => (FVal.times_finite (hfin p hp).1 (hfin p hp).2).1⟩
  · simp only [List.forall_mem_cons, List.forall_mem_map]
    exact ⟨f32.value_sound c, fun p hp => (hs p hp).1.times (hs p hp).2⟩

end dot

end Sys2Proof.Machine
end

section
/-! # Reciprocal and reciprocal square root (R73) -/

namespace Sys2Proof.Machine

/-! ## Positive FP32 results -/

theorem f32_ok : f32.Ok := Fmt.ok_of_mem (by simp)

theorem f32_emin : f32.emin = -126 := by decide

/-- The value of an FP32 number: a significand of at most 24 bits, or an integer. -/
theorem f32_value {x : Nat} (h : f32.mag x < f32.inf) : ∃ n k, f32.value x = .fin (f32.neg x) n (2 ^ k) ∧ k ≤ 149 ∧ (k = 0 ∨ n < 2 ^ 24) := by
  have hlt : f32.mag x % 2 ^ f32.fw < 2 ^ 23 := Nat.mod_lt _ (by decide)
  rw [Fmt.value_lt_inf h]
  split
  · exact ⟨_, _, rfl, by decide, .inr (by omega)⟩
  · split
    · exact ⟨_, 0, rfl, by decide, .inl rfl⟩
    · next he hb =>
      refine ⟨_, _, rfl, ?_, .inr ?_⟩
      · have hsum : f32.bias + f32.fw = 150 := by decide
        have hpos : 0 < f32.mag x / 2 ^ f32.fw := Nat.pos_of_ne_zero he
        rw [hsum]
        omega
      · change 2 ^ 23 + _ < _
        omega

/-- The patterns below infinity stand for their numbers. -/
theorem f32_at {m : Nat} (hm : m < f32.inf) : (f32.value m).rat = f32.at m ∧ f32.neg m = false ∧ (f32.value m).finite = true := by
  have hsb := f32.inf_lt_signBit
  have hmag : f32.mag m = m := Nat.mod_eq_of_lt (by omega)
  have hneg : f32.neg m = false := Fmt.neg_withSign (s := false) (by omega)
  refine ⟨?_, hneg, Fmt.value_finite.2 (by omega)⟩
  rw [Fmt.value_rat f32_ok (by omega), hmag, hneg]
  simp

/-- Every FP32 number is a multiple of 2^−149. -/
theorem f32_at_multiple (m : Nat) : ∃ k : Nat, f32.at m = k / 2 ^ 149 := by
  obtain ⟨t, k, rfl, hk, ht⟩ := f32.exists_scaled m
  refine ⟨k * 2 ^ t, ?_⟩
  have hexp : (t : Int) + f32.emin - f32.fw = (t : Int) - (149 : Nat) := by
    have : f32.emin - f32.fw = -149 := by decide
    omega
  rw [f32.at_scaled hk.le ht, hexp, zpow_sub₀ two_ne_zero, zpow_natCast, zpow_natCast]
  push_cast
  ring

/-- A number that is not below `2^e` stands behind the pattern of `2^e`. -/
theorem f32_at_pow (t : Nat) : f32.at ((t + 1) * 2 ^ 23) = 2 ^ ((t : Int) - 126) := by
  have h := f32.at_scaled (t := t) (k := 2 ^ 23) (by decide) (.inr le_rfl)
  have hexp : (t : Int) + f32.emin - f32.fw = ((t : Int) - 126) - (23 : Nat) := by
    rw [f32_emin]
    change (t : Int) + -126 - 23 = _
    push_cast
    ring
  have hfw : (2 : Nat) ^ f32.fw = 2 ^ 23 := rfl
  rw [hfw, hexp, zpow_sub₀ two_ne_zero, zpow_natCast] at h
  rw [Nat.add_mul, Nat.one_mul, h]
  rw [Nat.cast_pow, Nat.cast_ofNat, mul_div_cancel₀ _ (by positivity)]

section normal
variable {A : ℚ} {rm : Nat} {neg : Bool} (hlo : 2 ^ (-126 : Int) ≤ A) (hhi : A < (2 ^ 24 - 1) * 2 ^ 104)
include hlo hhi

theorem f32_near_lt : f32.under A + 1 < f32.inf ∧ f32.near rm neg A < f32.inf := by
  have hpos : 0 < A := lt_of_lt_of_le (by positivity) hlo
  have htop : f32.at (f32.inf - 1) = (2 ^ 24 - 1) * 2 ^ 104 := by
    have h := f32.at_scaled (t := 253) (k := 2 ^ 24 - 1) (by decide) (.inr (by decide))
    have hexp : ((253 : Nat) : Int) + f32.emin - f32.fw = (104 : Nat) := by decide
    rw [hexp, zpow_natCast] at h
    rw [show f32.inf - 1 = 253 * 2 ^ f32.fw + (2 ^ 24 - 1) by decide, h]
    norm_num
  have hlt : f32.under A < f32.inf - 1 := by
    rw [← Fmt.lt_at_iff hpos, htop]
    exact hhi
  have := Fmt.near_eq_or (f := f32) (q := A) rm neg
  omega

/-- A result between the least normal number and overflow. -/
theorem f32_normal : f32.roundMag rm neg A = ⟨f32.withSign neg (f32.near rm neg A), if f32.at (f32.under A) = A then 0 else 16⟩ := by
  have hpos : 0 < A := lt_of_lt_of_le (by positivity) hlo
  have htiny : f32.tiny rm neg A = false := by
    rw [← Bool.not_eq_true, Fmt.tiny_iff hpos, f32_emin]
    exact fun h => absurd h.1 (not_lt.2 hlo)
  rw [Fmt.roundMag, if_neg (not_le.2 (f32_near_lt hlo hhi).2), htiny]
  rfl

end normal

/-! ## Reciprocal -/

/-- The sign of a zero is of no account for other numbers. -/
theorem Fmt.roundQ_ne_zero (f : Fmt) (rm : Nat) (zs : Bool) {z : ℚ} (h : z ≠ 0) : f.roundQ rm zs z = f.roundMag rm (decide (z < 0)) |z| := if_neg h

theorem frcp_roundsTo (rm : Nat) {x : Nat} (h0 : 0 < f32.mag x) (h : f32.mag x < f32.inf) : f32.roundsTo rm (1 / (f32.value x).rat) false (frcp rm x) := by
  have hfin : (f32.value x).finite = true := Fmt.value_finite.2 h
  obtain ⟨n, k, e, -, -⟩ := f32_value h
  have hd : 0 < 2 ^ k := Nat.two_pow_pos k
  have hn : 0 < n := Nat.pos_of_ne_zero fun hn => h0.ne' ((Fmt.value_isZero f32_ok).1 (by rw [e, hn]; rfl))
  have hn0 : (n == 0) = false := by simpa using hn.ne'
  have hrcp : frcp rm x = f32.round rm (f32.neg x) (2 ^ k) n := by
    rw [frcp, pickNaN_none (by simpa using Fmt.isNaN_of_finite hfin), e]
    simp only [hn0, Bool.false_eq_true, if_false]
  have hrat : (FVal.fin (f32.neg x) (2 ^ k) n).rat = 1 / (f32.value x).rat := by
    rw [e, FVal.rat, FVal.rat]
    cases f32.neg x <;> simp
  rw [Fmt.roundsTo_iff, hrcp, Fmt.round_fin _ _ _ _ hn, hrat]
  have hne : 1 / (f32.value x).rat ≠ 0 := by
    rw [← hrat]
    exact mt (FVal.rat_eq_zero hn).1 hd.ne'
  rw [Fmt.roundQ_ne_zero _ _ _ hne, Fmt.roundQ_ne_zero _ _ _ hne]

/-! ## Reciprocal square root -/

/-- The bits found so far, and those still to be found. -/
theorem isqrtGo_spec (n : Nat) : ∀ k r, r * r ≤ n → n < (r + 2 ^ k) * (r + 2 ^ k) →
    isqrtGo n k r * isqrtGo n k r ≤ n ∧ n < (isqrtGo n k r + 1) * (isqrtGo n k r + 1)
  | 0, r, h1, h2 => ⟨h1, by rwa [pow_zero] at h2⟩
  | k + 1, r, h1, h2 => by
    rw [isqrtGo]
    split
    · next h => exact isqrtGo_spec n k _ h (by rw [pow_succ, Nat.mul_two, ← Nat.add_assoc] at h2; exact h2)
    · next h => exact isqrtGo_spec n k r h1 (Nat.not_le.1 h)

theorem isqrt_spec (n : Nat) : isqrt n * isqrt n ≤ n ∧ n < (isqrt n + 1) * (isqrt n + 1) := by
  refine isqrtGo_spec n _ 0 (Nat.zero_le n) ?_
  have h : n < 2 ^ (n.log2 + 1) := Nat.lt_log2_self
  refine h.trans_le ?_
  rw [Nat.zero_add, ← pow_add]
  exact Nat.pow_le_pow_right Nat.two_pos (by omega)

section rsqrt
variable {n t r : Nat} (hn : 0 < n) (h1 : r * r * n ≤ t) (h2 : t < (r + 1) * (r + 1) * n) (G : Nat)
include hn h1 h2

omit hn in
theorem root_below : G * G * n ≤ t ↔ G ≤ r := by
  constructor
  · intro h
    by_contra hG
    have : (r + 1) * (r + 1) * n ≤ G * G * n := Nat.mul_le_mul_right n (Nat.mul_self_le_mul_self (by omega))
    omega
  · intro h
    exact (Nat.mul_le_mul_right n (Nat.mul_self_le_mul_self h)).trans h1

theorem root_above : t ≤ G * G * n ↔ if r * r * n = t then r ≤ G else r + 1 ≤ G := by
  split
  · next h =>
    rw [← h]
    exact ⟨fun hG => Nat.mul_self_le_mul_self_iff.1 (Nat.le_of_mul_le_mul_right hG hn), fun hG => Nat.mul_le_mul_right n (Nat.mul_self_le_mul_self hG)⟩
  · next h =>
    constructor
    · intro hG
      by_contra hlt
      have : G * G * n ≤ r * r * n := Nat.mul_le_mul_right n (Nat.mul_self_le_mul_self (by omega))
      omega
    · intro hG
      exact h2.le.trans (Nat.mul_le_mul_right n (Nat.mul_self_le_mul_self hG))

end rsqrt

/-- The number that is rounded for 1/√(n/d): the root in units of 1/p, or the middle of the interval that holds it. -/
def rsqrtIn (p n d : Nat) : ℚ :=
  let r := isqrt (d * (p * p) / n)
  if r * r * n = d * (p * p) then r / p else (2 * r + 1 : Nat) / (p * 2 : Nat)

/-- A multiple of 1/p compares with that number as with the root. -/
theorem rsqrtIn_cell {p n d : Nat} (hp : 0 < p) (hn : 0 < n) (hd : 0 < d) (G : Nat) :
    ((G / p : ℚ) ≤ rsqrtIn p n d ↔ (G / p : ℚ) ^ 2 * (n / d) ≤ 1) ∧ (rsqrtIn p n d ≤ (G / p : ℚ) ↔ 1 ≤ (G / p : ℚ) ^ 2 * (n / d)) := by
  have hp' : (0 : ℚ) < p := by exact_mod_cast hp
  have hd' : (0 : ℚ) < d := by exact_mod_cast hd
  have hsq : (G / p : ℚ) ^ 2 * (n / d) = (G * G * n : Nat) / (d * (p * p) : Nat) := by
    push_cast
    field_simp
  have hden : (0 : ℚ) < (d * (p * p) : Nat) := by push_cast; positivity
  obtain ⟨hr1, hr2⟩ := isqrt_spec (d * (p * p) / n)
  rw [Nat.le_div_iff_mul_le hn] at hr1
  rw [Nat.div_lt_iff_lt_mul hn] at hr2
  rw [hsq, div_le_one hden, one_le_div hden, Nat.cast_le, Nat.cast_le, root_below hr1 hr2, root_above hn hr1 hr2]
  unfold rsqrtIn
  dsimp only
  split
  · rw [div_le_div_iff_of_pos_right hp', div_le_div_iff_of_pos_right hp', Nat.cast_le, Nat.cast_le]
    exact ⟨Iff.rfl, Iff.rfl⟩
  · have h2 : (G / p : ℚ) = (2 * G : Nat) / (p * 2 : Nat) := by
      push_cast
      field_simp
    have hp2 : (0 : ℚ) < (p * 2 : Nat) := by push_cast; positivity
    rw [h2, div_le_div_iff_of_pos_right hp2, div_le_div_iff_of_pos_right hp2, Nat.cast_le, Nat.cast_le]
    omega

/-- The model's result is that number rounded. -/
theorem frsqrt_eq (rm : Nat) {x n d : Nat} (h : f32.isNaN x = false) (e : f32.value x = .fin false n d) (hn : 0 < n) :
    frsqrt rm x = f32.roundQ rm false (rsqrtIn (2 ^ 320) n d) := by
  have hn0 : (n == 0) = false := by simpa using hn.ne'
  have hpow : (2 : Nat) ^ (2 * funcBits) = 2 ^ 320 * 2 ^ 320 := by rw [← pow_add, funcBits]
  have hpow1 : (2 : Nat) ^ (funcBits + 1) = 2 ^ 320 * 2 := pow_succ 2 320
  have hbits : (2 : Nat) ^ funcBits = 2 ^ 320 := rfl
  have hp : 0 < (2 : Nat) ^ 320 := Nat.two_pow_pos 320
  rw [frsqrt, pickNaN_none (by simpa using h), e]
  simp only [hn0, Bool.false_eq_true, if_false, hpow, hpow1, hbits, rsqrtIn]
  generalize (2 : Nat) ^ 320 = p at hp ⊢
  generalize isqrt (d * (p * p) / n) = r
  have hfin (m q : Nat) : (FVal.fin false m q).rat = (m : ℚ) / q := by simp [FVal.rat]
  simp only [beq_iff_eq]
  split
  · rw [Fmt.round_fin _ _ _ _ hp, hfin]
  · rw [Fmt.round_fin _ _ _ _ (Nat.mul_pos hp Nat.two_pos), hfin]

/-- The greatest FP32 magnitudes lie below 2^128, the least positive one is 2^−149. -/
theorem f32_range {x : Nat} (h0 : 0 < f32.mag x) (h : f32.mag x < f32.inf) (hs : f32.neg x = false) :
    1 / 2 ^ 149 ≤ (f32.value x).rat ∧ (f32.value x).rat < 2 ^ 128 := by
  have hval : (f32.value x).rat = f32.at (f32.mag x) := by
    rw [Fmt.value_rat f32_ok h, hs]
    simp
  obtain ⟨k, hk⟩ := f32_at_multiple (f32.mag x)
  have hpos : 0 < f32.at (f32.mag x) := by
    rw [← f32.at_zero]
    exact f32.at_strictMono h0
  have hk1 : 1 ≤ k := Nat.one_le_iff_ne_zero.2 fun hk0 => by
    rw [hk, hk0] at hpos
    norm_num at hpos
  rw [hval]
  refine ⟨?_, ?_⟩
  · rw [hk, div_le_div_iff_of_pos_right (by positivity)]
    exact_mod_cast hk1
  · calc f32.at (f32.mag x) < f32.at f32.inf := f32.at_strictMono h
      _ = 2 ^ 128 := f32_ok.at_inf

section bounds
variable {x : Nat} (h0 : 0 < f32.mag x) (h : f32.mag x < f32.inf) (hs : f32.neg x = false) (rm : Nat)
include h0 h hs

/-- What `frsqrt` rounds compares with the multiples of 2^−150 as the root does. -/
theorem frsqrt_cell : ∃ A : ℚ, frsqrt rm x = f32.roundMag rm false A ∧ 2 ^ (-70 : Int) ≤ A ∧ A ≤ 2 ^ 80 ∧ ∀ g : ℚ, (∃ K : Nat, g = K / 2 ^ 150) →
    ((g ≤ A ↔ g ^ 2 * (f32.value x).rat ≤ 1) ∧ (A ≤ g ↔ 1 ≤ g ^ 2 * (f32.value x).rat)) := by
  obtain ⟨hlow, hhigh⟩ := f32_range h0 h hs
  obtain ⟨n, k, e, -, -⟩ := f32_value h
  rw [hs] at e
  have hn : 0 < n := Nat.pos_of_ne_zero fun hn => h0.ne' ((Fmt.value_isZero f32_ok).1 (by rw [e, hn]; rfl))
  have hd : 0 < 2 ^ k := Nat.two_pow_pos k
  have hq : (f32.value x).rat = (n : ℚ) / (2 ^ k : Nat) := by rw [e]; simp [FVal.rat]
  have hcell (g : ℚ) (hg : ∃ K : Nat, g = K / 2 ^ 150) : (g ≤ rsqrtIn (2 ^ 320) n (2 ^ k) ↔ g ^ 2 * (f32.value x).rat ≤ 1) ∧
      (rsqrtIn (2 ^ 320) n (2 ^ k) ≤ g ↔ 1 ≤ g ^ 2 * (f32.value x).rat) := by
    obtain ⟨K, rfl⟩ := hg
    have hK : (K / 2 ^ 150 : ℚ) = ((K * 2 ^ 170 : Nat) : ℚ) / (2 ^ 320 : Nat) := by
      rw [Nat.cast_mul, Nat.cast_pow, Nat.cast_pow, Nat.cast_ofNat, show (320 : Nat) = 150 + 170 from rfl, pow_add (2 : ℚ),
        mul_div_mul_right _ _ (by positivity)]
    rw [hK, hq]
    exact rsqrtIn_cell (Nat.two_pow_pos 320) hn hd _
  have hlo : 2 ^ (-70 : Int) ≤ rsqrtIn (2 ^ 320) n (2 ^ k) := by
    refine (hcell _ ⟨2 ^ 80, by norm_num⟩).1.2 ?_
    calc ((2 : ℚ) ^ (-70 : Int)) ^ 2 * (f32.value x).rat ≤ (2 ^ (-70 : Int)) ^ 2 * 2 ^ 128 := by gcongr
      _ ≤ 1 := by norm_num
  refine ⟨rsqrtIn (2 ^ 320) n (2 ^ k), ?_, hlo, ?_, hcell⟩
  · have hpos : 0 < rsqrtIn (2 ^ 320) n (2 ^ k) := lt_of_lt_of_le (by positivity) hlo
    rw [frsqrt_eq rm (Fmt.isNaN_of_finite (Fmt.value_finite.2 h)) e hn, Fmt.roundQ_ne_zero _ _ _ hpos.ne', abs_of_pos hpos,
      decide_eq_false (not_lt.2 hpos.le)]
  · refine (hcell _ ⟨2 ^ 230, by norm_num⟩).2.2 ?_
    calc (1 : ℚ) ≤ (2 ^ 80) ^ 2 * (1 / 2 ^ 149) := by norm_num
      _ ≤ (2 ^ 80) ^ 2 * (f32.value x).rat := by gcongr

/-- The reciprocal square root is the real one rounded once (R73). -/
theorem frsqrt_bounds (hrm : rm < 4) : let y := (frsqrt rm x).val
    let q := (f32.value x).rat
    let v := fun y => (f32.value y).rat
    (rm = 1 ∨ rm = 3 → v y ^ 2 * q ≤ 1 ∧ 1 < v (y + 1) ^ 2 * q) ∧
    (rm = 2 → v (y - 1) ^ 2 * q < 1 ∧ 1 ≤ v y ^ 2 * q) ∧
    (rm = 0 → ((v (y - 1) + v y) / 2) ^ 2 * q ≤ 1 ∧ 1 ≤ ((v y + v (y + 1)) / 2) ^ 2 * q) ∧
    f32.neg y = false ∧ (f32.value y).finite = true ∧ (frsqrt rm x).flags = (if v y ^ 2 * q = 1 then 0 else 16) := by
  obtain ⟨A, hA, hlo, hhi, hcell⟩ := frsqrt_cell h0 h hs rm
  have hpos : 0 < A := lt_of_lt_of_le (by positivity) hlo
  have hround := f32_normal (A := A) (rm := rm) (neg := false) (le_trans (zpow_le_zpow_right₀ one_le_two (by decide)) hlo)
    (hhi.trans_lt (by norm_num))
  rw [hA, hround]
  have hu1 : f32.under A < 208 * 2 ^ 23 := by
    rw [← Fmt.lt_at_iff hpos, show 208 = 207 + 1 from rfl, f32_at_pow]
    exact hhi.trans_lt (by norm_num)
  have hu2 : 57 * 2 ^ 23 ≤ f32.under A := by
    rw [← Fmt.at_le_iff hpos, show 57 = 56 + 1 from rfl, f32_at_pow]
    exact hlo
  have hinf : f32.inf = 255 * 2 ^ 23 := by decide
  have hv {m : Nat} (hm : m ≤ f32.under A + 2) : (f32.value m).rat = f32.at m := (f32_at (by omega)).1
  have hat (m : Nat) : ∃ K : Nat, f32.at m = K / 2 ^ 150 := by
    obtain ⟨K, hK⟩ := f32_at_multiple m
    exact ⟨K * 2, by rw [hK]; push_cast; ring⟩
  have hmid (m : Nat) : ∃ K : Nat, (f32.at m + f32.at (m + 1)) / 2 = K / 2 ^ 150 := by
    obtain ⟨K, hK⟩ := f32_at_multiple m
    obtain ⟨K', hK'⟩ := f32_at_multiple (m + 1)
    exact ⟨K + K', by rw [hK, hK']; push_cast; ring⟩
  have hbelow := Fmt.at_under_le (f := f32) hpos
  have habove := Fmt.lt_at_under_succ (f := f32) hpos
  have hmono {a b : Nat} (hab : a < b) : f32.at a < f32.at b := f32.at_strictMono hab
  have hle (m : Nat) := (hcell _ (hat m)).1
  have hge (m : Nat) := (hcell _ (hat m)).2
  have hnear := Fmt.near_eq_or (f := f32) (q := A) rm false
  have hnear_lt : f32.near rm false A ≤ f32.under A + 1 := by omega
  have hexact : f32.at (f32.under A) = A ↔ f32.at (f32.near rm false A) ^ 2 * (f32.value x).rat = 1 := by
    rw [le_antisymm_iff (a := _ ^ 2 * _), ← hle, ← hge, ← le_antisymm_iff]
    constructor
    · intro e
      rw [Fmt.near_exact hpos e, e]
    · intro e
      rw [Fmt.under_eq hpos e.le (e.symm.trans_lt (hmono (Nat.lt_succ_self _))), e]
  obtain ⟨hynum, hyneg, hyfin⟩ := f32_at (m := f32.near rm false A) (by omega)
  dsimp only [Fmt.withSign]
  simp only [Bool.false_eq_true, if_false]
  rw [hynum, hv (m := f32.near rm false A + 1) (by omega), hv (m := f32.near rm false A - 1) (by omega)]
  refine ⟨?_, ?_, ?_, hyneg, hyfin, if_congr hexact rfl rfl⟩
  · intro hmode
    have hy : f32.near rm false A = f32.under A := by
      rcases hmode with rfl | rfl
      · exact Fmt.near_toZero false
      · rw [Fmt.near_down hpos, if_neg (by simp)]
    rw [hy, ← hle, ← not_le, ← hle]
    exact ⟨hbelow, not_le.2 habove⟩
  · rintro rfl
    rw [Fmt.near_up hpos, ← hge, ← not_le, ← hge]
    by_cases e : f32.at (f32.under A) = A
    · rw [if_neg (by simp [e])]
      exact ⟨not_le.2 ((hmono (by omega)).trans_le e.le), e.ge⟩
    · rw [if_pos ⟨e, rfl⟩, Nat.add_sub_cancel]
      exact ⟨not_le.2 (lt_of_le_of_ne hbelow e), habove.le⟩
  · rintro rfl
    have hmle (m : Nat) := (hcell _ (hmid m)).1
    have hmge (m : Nat) := (hcell _ (hmid m)).2
    have hprev : f32.near 0 false A - 1 + 1 = f32.near 0 false A := by omega
    have hmprev := hmle (f32.near 0 false A - 1)
    rw [hprev] at hmprev
    rw [← hmprev, ← hmge, Fmt.near_nearest f32_ok hpos]
    split
    · next hc =>
      have h1 : f32.at (f32.under A - 1) < f32.at (f32.under A) := hmono (by omega)
      exact ⟨by linarith, by rcases hc with hc | ⟨hc, -⟩ <;> linarith⟩
    · next hc =>
      rw [not_or, not_lt] at hc
      have h1 : f32.at (f32.under A + 1) < f32.at (f32.under A + 1 + 1) := hmono (by omega)
      rw [Nat.add_sub_cancel]
      exact ⟨by linarith [hc.1], by linarith⟩

end bounds

end Sys2Proof.Machine
end

section
/-! # The powers of two (R73)

`exp2Go` multiplies rounded-down roots of two. Its error is bounded relatively, and from one side: the product never exceeds the power. -/

namespace Sys2Proof.Machine

/-! ## The product of the roots -/

section errors
variable {P ρ : ℝ} (hP : 100 ≤ P)
include hP

/-- A square root of scaled numbers that is rounded down never exceeds the root, and keeps the bound of its relative error. -/
theorem root_error {root r : ℝ} (hρ : 0 ≤ ρ) (hr : P ≤ r) (h1 : r * r ≤ root * P) (h2 : root * P < (r + 1) * (r + 1)) (hle : root ≤ P * ρ)
    (hge : P * ρ ≤ root * (1 + 4 / P)) : r ≤ P * √ρ ∧ P * √ρ ≤ r * (1 + 4 / P) := by
  have hsq : (P * √ρ) * (P * √ρ) = P * ρ * P := by
    rw [mul_mul_mul_comm, Real.mul_self_sqrt hρ]
    ring
  have hpos : 0 ≤ P * √ρ := by positivity
  have ha : 0 < 1 / P := by positivity
  have ha1 : 1 / P ≤ 1 := by rw [div_le_one (by linarith)]; linarith
  have hra : 1 ≤ r * (1 / P) := by rw [mul_one_div, one_le_div (by linarith)]; exact hr
  have h4 : 4 / P = 4 * (1 / P) := by ring
  have hr0 : 0 ≤ r := by linarith
  rw [h4] at hge ⊢
  generalize 1 / P = a at *
  constructor
  · rw [mul_self_le_mul_self_iff hr0 hpos, hsq]
    exact h1.trans (mul_le_mul_of_nonneg_right hle (by linarith))
  · rw [mul_self_le_mul_self_iff hpos (by positivity), hsq]
    calc P * ρ * P ≤ root * (1 + 4 * a) * P := mul_le_mul_of_nonneg_right hge (by linarith)
      _ = root * P * (1 + 4 * a) := by ring
      _ ≤ (r + 1) * (r + 1) * (1 + 4 * a) := mul_le_mul_of_nonneg_right h2.le (by linarith)
      _ ≤ (r * (1 + a)) * (r * (1 + a)) * (1 + 4 * a) := by
        have : r + 1 ≤ r * (1 + a) := by linarith
        gcongr
      _ = r * r * (1 + 4 * a) * ((1 + a) * (1 + a)) := by ring
      _ ≤ r * r * (1 + 4 * a) * (1 + 4 * a) := by
        gcongr
        nlinarith
      _ = r * (1 + 4 * a) * (r * (1 + 4 * a)) := by ring

/-- A product of scaled numbers that is rounded down. -/
theorem product_error {acc r acc' : ℝ} (hacc : 0 ≤ acc) (hacc' : P ≤ acc') (h1 : acc' * P ≤ acc * r) (h2 : acc * r < (acc' + 1) * P)
    (hle : r ≤ P * ρ) (hge : P * ρ ≤ r * (1 + 4 / P)) : acc' ≤ acc * ρ ∧ acc * ρ ≤ acc' * (1 + 6 / P) := by
  have hP0 : 0 < P := by linarith
  have ha : 0 < 1 / P := by positivity
  have ha1 : 1 / P ≤ 1 / 4 := one_div_le_one_div_of_le (by norm_num) (by linarith)
  have hacca : 1 ≤ acc' * (1 / P) := by rw [mul_one_div, one_le_div hP0]; exact hacc'
  have h4 : 4 / P = 4 * (1 / P) := by ring
  have h6 : 6 / P = 6 * (1 / P) := by ring
  rw [h4] at hge
  rw [h6]
  generalize 1 / P = a at *
  constructor
  · refine le_of_mul_le_mul_right (h1.trans ?_) hP0
    calc acc * r ≤ acc * (P * ρ) := mul_le_mul_of_nonneg_left hle hacc
      _ = acc * ρ * P := by ring
  · refine le_of_mul_le_mul_right ?_ hP0
    calc acc * ρ * P = acc * (P * ρ) := by ring
      _ ≤ acc * (r * (1 + 4 * a)) := mul_le_mul_of_nonneg_left hge hacc
      _ = acc * r * (1 + 4 * a) := by ring
      _ ≤ (acc' + 1) * P * (1 + 4 * a) := mul_le_mul_of_nonneg_right h2.le (by linarith)
      _ ≤ (acc' * (1 + a)) * P * (1 + 4 * a) := by
        have : acc' + 1 ≤ acc' * (1 + a) := by linarith
        gcongr
      _ = acc' * P * ((1 + a) * (1 + 4 * a)) := by ring
      _ ≤ acc' * P * (1 + 6 * a) := by
        have : 0 ≤ acc' := by linarith
        gcongr
        nlinarith
      _ = acc' * (1 + 6 * a) * P := by ring

end errors

/-- A small relative error is at most doubled by its repetition. -/
theorem one_add_pow_le {a : ℝ} (ha : 0 ≤ a) : ∀ k : Nat, 2 * k * a ≤ 1 → (1 + a) ^ k ≤ 1 + 2 * k * a
  | 0, _ => by simp
  | k + 1, h => by
    push_cast at h ⊢
    have hk : 2 * k * a ≤ 1 := by linarith
    calc (1 + a) ^ (k + 1) = (1 + a) ^ k * (1 + a) := pow_succ _ _
      _ ≤ (1 + 2 * k * a) * (1 + a) := mul_le_mul_of_nonneg_right (one_add_pow_le ha k hk) (by linarith)
      _ = 1 + 2 * k * a + a + (2 * k * a) * a := by ring
      _ ≤ 1 + 2 * k * a + a + 1 * a := by gcongr
      _ = 1 + 2 * (k + 1) * a := by ring

/-- The working precision as a number. -/
def expScale : ℝ := 2 ^ 320

theorem expScale_large : 2 ^ 12 ≤ expScale := pow_le_pow_right₀ one_le_two (by decide)

theorem expScale_pos : 0 < expScale := pow_pos two_pos _

theorem expScale_ge : 100 ≤ expScale := le_trans (by norm_num) expScale_large

theorem expScale_cast : (((2 : Nat) ^ funcBits : Nat) : ℝ) = expScale := Nat.cast_pow 2 funcBits

/-- The part of a power that the low `k + 1` bits of a fraction give. -/
theorem rpow_bits {ρ : ℝ} (hρ : 0 ≤ ρ) (frac k : Nat) : ρ ^ (((frac % 2 ^ (k + 1) : Nat) : ℝ) / 2 ^ (k + 1)) =
    (if bit frac k then √ρ else 1) * √ρ ^ (((frac % 2 ^ k : Nat) : ℝ) / 2 ^ k) := by
  have hk : (0 : ℝ) < 2 ^ k := by positivity
  have hmod : frac % 2 ^ (k + 1) = frac % 2 ^ k + 2 ^ k * (frac / 2 ^ k % 2) := by rw [pow_succ, Nat.mod_mul]
  have hroot (y : ℝ) : √ρ ^ y = ρ ^ (y / 2) := by
    rw [Real.sqrt_eq_rpow, ← Real.rpow_mul hρ]
    ring_nf
  have hexp : ((frac % 2 ^ (k + 1) : Nat) : ℝ) / 2 ^ (k + 1) = ((frac / 2 ^ k % 2 : Nat) : ℝ) / 2 + ((frac % 2 ^ k : Nat) : ℝ) / 2 ^ k / 2 := by
    rw [hmod, pow_succ]
    push_cast
    field_simp
    ring
  rw [hexp, hroot]
  unfold bit
  rcases Nat.mod_two_eq_zero_or_one (frac / 2 ^ k) with h | h
  · simp [h]
  · rw [h, Nat.cast_one, Real.rpow_add_of_nonneg hρ (by norm_num) (by positivity), ← Real.sqrt_eq_rpow]
    simp

/-- The product of the roots never exceeds the power, and keeps a bound of its relative error. -/
theorem exp2Go_error (frac : Nat) : ∀ (k : Nat) {root acc : Nat} {ρ : ℝ}, 1 ≤ ρ → 2 ^ funcBits ≤ root → (root : ℝ) ≤ expScale * ρ →
    expScale * ρ ≤ root * (1 + 4 / expScale) → 2 ^ funcBits ≤ acc →
    2 ^ funcBits ≤ exp2Go frac k root acc ∧ (exp2Go frac k root acc : ℝ) ≤ acc * ρ ^ (((frac % 2 ^ k : Nat) : ℝ) / 2 ^ k) ∧
      acc * ρ ^ (((frac % 2 ^ k : Nat) : ℝ) / 2 ^ k) ≤ exp2Go frac k root acc * (1 + 6 / expScale) ^ k := by
  intro k
  induction k with
  | zero =>
    intro root acc ρ _ _ _ _ hacc
    simp [exp2Go, Nat.mod_one, hacc]
  | succ k ih =>
    intro root acc ρ hρ hlo hle hge hacc
    obtain ⟨h1, h2⟩ := isqrt_spec (root * 2 ^ funcBits)
    rw [exp2Go, rpow_bits (by linarith)]
    have hcast := expScale_cast
    have hP := expScale_ge
    generalize (2 : Nat) ^ funcBits = p at *
    generalize isqrt (root * p) = r at *
    rw [← hcast] at hP hle hge ih ⊢
    have hr : p ≤ r := by
      by_contra h
      have h3 : (r + 1) * (r + 1) ≤ p * p := Nat.mul_self_le_mul_self (by omega)
      exact absurd (Nat.lt_of_mul_lt_mul_right (h2.trans_le h3)) (Nat.not_lt.2 hlo)
    obtain ⟨hrle, hrge⟩ := root_error (r := r) (root := root) hP (by linarith) (by exact_mod_cast hr) (by exact_mod_cast h1) (by exact_mod_cast h2) hle hge
    have hρ' : 1 ≤ √ρ := by rwa [Real.one_le_sqrt]
    have hY : 0 ≤ √ρ ^ (((frac % 2 ^ k : Nat) : ℝ) / 2 ^ k) := by positivity
    have hE : (1 : ℝ) ≤ 1 + 6 / p := by
      have : (0 : ℝ) ≤ 6 / p := by positivity
      linarith
    split
    · have hp : 0 < p := by
        have : (0 : ℝ) < p := by linarith
        exact_mod_cast this
      have hm1 : acc * r / p * p ≤ acc * r := Nat.div_mul_le_self _ _
      have hm2 : acc * r < (acc * r / p + 1) * p := by
        rw [Nat.add_mul, Nat.one_mul]
        exact Nat.lt_div_mul_add hp
      have hm3 : p ≤ acc * r / p := by
        rw [Nat.le_div_iff_mul_le hp]
        exact Nat.mul_le_mul hacc hr
      generalize acc * r / p = acc' at *
      obtain ⟨hale, hage⟩ := product_error (acc' := acc') (r := r) hP (Nat.cast_nonneg acc) (by exact_mod_cast hm3) (by exact_mod_cast hm1) (by exact_mod_cast hm2) hrle hrge
      obtain ⟨g1, g2, g3⟩ := ih hρ' hr hrle hrge hm3
      refine ⟨g1, ?_, ?_⟩
      · calc _ ≤ _ := g2
          _ ≤ acc * √ρ * _ := mul_le_mul_of_nonneg_right hale hY
          _ = _ := mul_assoc ..
      · calc _ = acc * √ρ * _ := (mul_assoc ..).symm
          _ ≤ acc' * (1 + 6 / p) * _ := mul_le_mul_of_nonneg_right hage hY
          _ = acc' * √ρ ^ (((frac % 2 ^ k : Nat) : ℝ) / 2 ^ k) * (1 + 6 / p) := by ring
          _ ≤ exp2Go frac k r acc' * (1 + 6 / p) ^ k * (1 + 6 / p) := mul_le_mul_of_nonneg_right g3 (by linarith)
          _ = _ := by rw [pow_succ]; ring
    · obtain ⟨g1, g2, g3⟩ := ih hρ' hr hrle hrge hacc
      rw [one_mul]
      refine ⟨g1, g2, g3.trans ?_⟩
      exact mul_le_mul_of_nonneg_left (pow_le_pow_right₀ hE (Nat.le_succ k)) (Nat.cast_nonneg _)

/-- The mantissa of a power, in units of 2^−320. -/
def expMant (k fr : Nat) : Nat := exp2Go fr k (2 * 2 ^ funcBits) (2 ^ funcBits)

/-- It lies below the power by less than 2^12 units. -/
theorem expMant_bounds {k fr : Nat} (hk : k ≤ 149) (hfr : fr < 2 ^ k) : expScale ≤ expMant k fr ∧
    (expMant k fr : ℝ) ≤ expScale * 2 ^ ((fr : ℝ) / 2 ^ k) ∧ expScale * 2 ^ ((fr : ℝ) / 2 ^ k) ≤ expMant k fr + 2 ^ 12 := by
  have hP := expScale_ge
  have hcast := expScale_cast
  obtain ⟨h1, h2, h3⟩ := exp2Go_error fr k (root := 2 * 2 ^ funcBits) (acc := 2 ^ funcBits) (ρ := 2) (by norm_num) (by omega)
    (by rw [Nat.cast_mul, hcast, mul_comm]; rfl)
    (by
      rw [Nat.cast_mul, hcast, mul_comm expScale]
      exact le_mul_of_one_le_right (by positivity) (by have : 0 ≤ 4 / expScale := by positivity
                                                       linarith))
    le_rfl
  rw [← expMant, Nat.mod_eq_of_lt hfr, hcast] at h2 h3
  rw [← expMant] at h1
  have h1' : expScale ≤ expMant k fr := by
    rw [← hcast]
    exact_mod_cast h1
  have hfr' : (fr : ℝ) / 2 ^ k ≤ 1 := by
    rw [div_le_one (by positivity)]
    exact_mod_cast hfr.le
  have h2P : (expMant k fr : ℝ) ≤ expScale * 2 := by
    refine h2.trans (mul_le_mul_of_nonneg_left ?_ (by linarith))
    calc (2 : ℝ) ^ ((fr : ℝ) / 2 ^ k) ≤ 2 ^ (1 : ℝ) := Real.rpow_le_rpow_of_exponent_le one_le_two hfr'
      _ = 2 := Real.rpow_one 2
  have hk' : (k : ℝ) ≤ 149 := by exact_mod_cast hk
  have hsmall : 2 * k * (6 / expScale) ≤ 1 := by
    rw [mul_div_assoc', div_le_one (by linarith)]
    linarith [expScale_large]
  refine ⟨h1', h2, h3.trans ?_⟩
  calc (expMant k fr : ℝ) * (1 + 6 / expScale) ^ k ≤ expMant k fr * (1 + 2 * k * (6 / expScale)) :=
        mul_le_mul_of_nonneg_left (one_add_pow_le (by positivity) k hsmall) (Nat.cast_nonneg _)
    _ = expMant k fr + expMant k fr * (12 * k) / expScale := by ring
    _ ≤ expMant k fr + expScale * 2 * (12 * 149) / expScale := by gcongr
    _ = expMant k fr + 3576 := by field_simp; ring
    _ ≤ expMant k fr + 2 ^ 12 := by norm_num

/-! ## What `fexp2` rounds -/

/-- The number that is rounded for 2^(i + fr / 2^k): a power of two, or the middle of a unit of the mantissa. -/
def exp2In (k : Nat) (i : Int) (fr : Nat) : ℚ := (if fr = 0 then 1 else ((2 * expMant k fr + 1 : Nat) : ℚ) / 2 ^ 321) * 2 ^ i

theorem f32_round_positive (rm : Nat) {n d : Nat} (hn : 0 < n) (hd : 0 < d) : f32.round rm false n d = f32.roundMag rm false (n / d : ℚ) :=
  Fmt.round_eq rm false hn hd

theorem round_exp2In (rm k : Nat) (i : Int) (fr : Nat) :
    (if fr = 0 then (if 0 ≤ i then f32.round rm false (2 ^ i.toNat) 1 else f32.round rm false 1 (2 ^ (-i).toNat))
    else if 0 ≤ i then f32.round rm false ((2 * expMant k fr + 1) * 2 ^ i.toNat) (2 ^ (funcBits + 1))
      else f32.round rm false (2 * expMant k fr + 1) (2 ^ (funcBits + 1 + (-i).toNat))) = f32.roundMag rm false (exp2In k i fr) := by
  have hbits : funcBits + 1 = 321 := rfl
  rw [hbits, exp2In]
  rcases le_or_gt 0 i with hi | hi
  · obtain ⟨j, rfl⟩ := Int.eq_ofNat_of_zero_le hi
    rw [if_pos hi, if_pos hi, Int.toNat_natCast, zpow_natCast]
    split
    · rw [f32_round_positive rm (by positivity) Nat.one_pos, Nat.cast_one, div_one, one_mul, Nat.cast_pow, Nat.cast_ofNat]
    · rw [f32_round_positive rm (by positivity) (by positivity), Nat.cast_mul _ (2 ^ j), Nat.cast_pow 2 j, Nat.cast_pow 2 321, Nat.cast_ofNat,
        div_mul_eq_mul_div]
  · obtain ⟨j, rfl⟩ : ∃ j : Nat, i = -j := ⟨(-i).toNat, by omega⟩
    rw [if_neg (not_le.2 hi), if_neg (not_le.2 hi), neg_neg, Int.toNat_natCast, zpow_neg, zpow_natCast]
    split
    · rw [f32_round_positive rm Nat.one_pos (by positivity), Nat.cast_one, one_mul, Nat.cast_pow, Nat.cast_ofNat, one_div]
    · rw [f32_round_positive rm (by positivity) (by positivity), Nat.cast_pow 2 (321 + j), Nat.cast_ofNat, pow_add, ← div_div, div_eq_mul_inv _ (2 ^ j)]

/-- The exact operand as a fraction of a power of two, and what is rounded for it. -/
theorem fexp2_eq (rm : Nat) {x : Nat} (h : f32.mag x < f32.inf) : ∃ (z : Int) (k : Nat), (f32.value x).rat = z / 2 ^ k ∧ k ≤ 149 ∧
    (k = 0 ∨ z.natAbs < 2 ^ 24) ∧ fexp2 rm x =
      if 200 ≤ (f32.value x).rat then f32.roundMag rm false (2 ^ 200)
      else if (f32.value x).rat ≤ -400 then f32.roundMag rm false (1 / 2 ^ 400)
      else f32.roundMag rm false (exp2In k (z / 2 ^ k) (z % 2 ^ k).toNat) := by
  obtain ⟨n, k, e, hk, hn⟩ := f32_value h
  generalize f32.neg x = s at e
  have hd : 0 < 2 ^ k := Nat.two_pow_pos k
  have hq : (f32.value x).rat = ((if s then -(n : Int) else n : Int) : ℚ) / 2 ^ k := by
    rw [e, FVal.rat]
    cases s
    · simp
    · simp [neg_div]
  refine ⟨if s then -(n : Int) else n, k, hq, hk, by cases s <;> simpa using hn, ?_⟩
  have h200 : 200 ≤ (f32.value x).rat ↔ s = false ∧ 200 * 2 ^ k ≤ n := by
    rw [hq, le_div_iff₀ (by positivity)]
    cases s
    · simp only [Bool.false_eq_true, if_false, true_and]
      exact_mod_cast Iff.rfl
    · have hneg : ((-(n : Int) : Int) : ℚ) ≤ 0 := by simp
      have hpos : (0 : ℚ) < 200 * 2 ^ k := by positivity
      simp only [if_true, Bool.true_eq_false, false_and, iff_false, not_le]
      exact hneg.trans_lt hpos
  have h400 : (f32.value x).rat ≤ -400 ↔ s = true ∧ 400 * 2 ^ k ≤ n := by
    rw [hq, div_le_iff₀ (by positivity)]
    cases s
    · have hnn : (0 : ℚ) ≤ ((n : Int) : ℚ) := by simp
      have hpos : (0 : ℚ) < 400 * 2 ^ k := by positivity
      simp only [Bool.false_eq_true, if_false, false_and, iff_false, not_le]
      linarith
    · simp only [if_true, true_and, Int.cast_neg, neg_mul, neg_le_neg_iff]
      exact_mod_cast Iff.rfl
  rw [fexp2, pickNaN_none (by simpa using Fmt.isNaN_of_finite (Fmt.value_finite.2 h)), if_congr h200 rfl rfl, if_congr h400 rfl rfl, e]
  have hlog : Nat.log2 (2 ^ k) = k := Nat.log2_two_pow
  have hcast : ((2 ^ k : Nat) : Int) = 2 ^ k := Nat.cast_pow 2 k
  dsimp only
  rw [hlog, hcast]
  simp only [Bool.and_eq_true, Bool.not_eq_true', decide_eq_true_iff]
  refine if_congr Iff.rfl ?_ (if_congr Iff.rfl ?_ ?_)
  · rw [f32_round_positive rm (by positivity) Nat.one_pos, Nat.cast_one, div_one, Nat.cast_pow, Nat.cast_ofNat]
  · rw [f32_round_positive rm Nat.one_pos (by positivity), Nat.cast_one, Nat.cast_pow, Nat.cast_ofNat]
  · generalize (if s then -(n : Int) else n) / 2 ^ k = i
    generalize ((if s then -(n : Int) else n) % 2 ^ k).toNat = fr
    simp only [beq_iff_eq]
    exact round_exp2In rm k i fr

/-- Whole part and fraction of the operand. -/
theorem operand_parts (z : Int) (k : Nat) : (z % 2 ^ k).toNat < 2 ^ k ∧ (z / 2 ^ k : ℚ) = ((z / 2 ^ k : Int) : ℚ) + ((z % 2 ^ k).toNat : ℚ) / 2 ^ k := by
  have hpos : (0 : Int) < 2 ^ k := by positivity
  have hnn := Int.emod_nonneg z hpos.ne'
  have hlt := Int.emod_lt_of_pos z hpos
  have hcast : ((z % 2 ^ k).toNat : ℚ) = ((z % 2 ^ k : Int) : ℚ) := by exact_mod_cast Int.toNat_of_nonneg hnn
  refine ⟨?_, ?_⟩
  · zify
    rwa [Int.toNat_of_nonneg hnn]
  · rw [hcast, ← sub_eq_iff_eq_add', div_sub' (by positivity), div_left_inj' (by positivity), sub_eq_iff_eq_add']
    exact_mod_cast (Int.mul_ediv_add_emod z (2 ^ k)).symm

theorem two_pow_400_lt : (1 : ℚ) / 2 ^ 400 < 1 / 2 ^ 150 :=
  one_div_lt_one_div_of_lt (by positivity) (pow_lt_pow_right₀ one_lt_two (by decide))

/-- Numbers below half the least FP32 number are all rounded alike. -/
theorem f32_roundMag_small {rm : Nat} (hrm : rm < 4) {q : ℚ} (hq : 0 < q) (h : q < 1 / 2 ^ 150) :
    f32.roundMag rm false q = ⟨if rm = 2 then 1 else 0, 8 + 16⟩ := by
  have h1 : f32.at 1 = 1 / 2 ^ 149 := by
    have h := f32.at_scaled (t := 0) (k := 1) (by decide) (.inl rfl)
    rw [show 0 * 2 ^ f32.fw + 1 = 1 by decide, show ((0 : Nat) : Int) + f32.emin - f32.fw = -149 by decide] at h
    rw [h]
    norm_num
  have hu : f32.under q = 0 := by
    refine Nat.lt_one_iff.1 ((Fmt.lt_at_iff hq 1).1 ?_)
    rw [h1]
    exact h.trans (by norm_num)
  have hu2 : f32.under (2 * q) = 0 := by
    refine Nat.lt_one_iff.1 ((Fmt.lt_at_iff (by positivity) 1).1 ?_)
    rw [h1]
    linarith
  have htiny : f32.tiny rm false q = true := by
    rw [Fmt.tiny_iff hq, f32_emin]
    have := Fmt.near_eq_or (f := f32) (q := 2 * q) rm false
    refine ⟨h.trans (by norm_num), ?_⟩
    have : (2 : Nat) ^ f32.fw = 2 ^ 23 := rfl
    omega
  have hne : f32.at (f32.under q) ≠ q := by
    rw [hu, f32.at_zero]
    exact hq.ne
  have hnear : f32.near rm false q = if rm = 2 then 1 else 0 := by
    interval_cases rm
    · have hhalf : q - f32.at 0 < f32.at (0 + 1) - q := by
        rw [f32.at_zero, zero_add, h1]
        linarith
      rw [Fmt.near_nearest f32_ok hq, hu, if_pos (.inl hhalf)]
      rfl
    · rw [Fmt.near_toZero, hu]
      rfl
    · rw [Fmt.near_up hq, if_pos ⟨hne, rfl⟩, hu]
      rfl
    · rw [Fmt.near_down hq, if_neg (by simp), hu]
      rfl
  rw [Fmt.roundMag, hnear, if_neg (by split <;> decide), if_neg hne, if_pos htiny]
  rfl

/-- A power of two with a whole exponent is rounded exactly as it is (R73). -/
theorem fexp2_whole {rm : Nat} (hrm : rm < 4) {x : Nat} (h : f32.mag x < f32.inf) {j : Int} (hj : (f32.value x).rat = j) :
    f32.roundsTo rm (2 ^ j) false (fexp2 rm x) := by
  obtain ⟨z, k, hq, -, -, e⟩ := fexp2_eq rm h
  have hpos : (0 : ℚ) < 2 ^ j := by positivity
  rw [Fmt.roundsTo_iff, Fmt.roundQ_ne_zero _ _ _ hpos.ne', abs_of_pos hpos, decide_eq_false (not_lt.2 hpos.le), e]
  split
  · next h200 =>
    have hj200 : 200 ≤ j := by
      rw [hj] at h200
      exact_mod_cast h200
    have hover : (2 : ℚ) ^ (f32.bias + 1) ≤ 2 ^ j := by
      rw [← zpow_natCast]
      exact zpow_le_zpow_right₀ one_le_two (le_trans (by decide) hj200)
    rw [f32_ok.roundMag_overflow hover, f32_ok.roundMag_overflow (pow_le_pow_right₀ one_le_two (by decide))]
  · split
    · next h400 =>
      have hj400 : j ≤ -400 := by
        rw [hj] at h400
        exact_mod_cast h400
      have hsmall : (2 : ℚ) ^ j < 1 / 2 ^ 150 := by
        refine lt_of_le_of_lt (zpow_le_zpow_right₀ one_le_two hj400) ?_
        rw [show (-400 : Int) = -((400 : Nat) : Int) from rfl, zpow_neg, zpow_natCast, ← one_div]
        exact two_pow_400_lt
      rw [f32_roundMag_small hrm (by positivity) two_pow_400_lt, f32_roundMag_small hrm hpos hsmall]
    · obtain ⟨hlt, hparts⟩ := operand_parts z k
      have hz : z = j * 2 ^ k := by
        rw [hq, div_eq_iff (by positivity)] at hj
        exact_mod_cast hj
      have hfr : z % 2 ^ k = 0 := by rw [hz, Int.mul_emod_left]
      have hi : z / 2 ^ k = j := by rw [hz, Int.mul_ediv_cancel _ (by positivity)]
      rw [hfr, hi, exp2In, Int.toNat_zero, if_pos rfl, one_mul]

/-! ## Rounding of a number that is no FP32 number -/

/-- An odd number of small units is no multiple of larger ones. -/
theorem odd_ne_multiple {n K a b : Nat} {i : Int} (h : i + b < a) : ((2 * n + 1 : Nat) : ℚ) / 2 ^ a * 2 ^ i ≠ K / 2 ^ b := by
  intro e
  obtain ⟨j, hj⟩ : ∃ j : Nat, (a : Int) = i + b + (j + 1 : Nat) := ⟨(a - i - b - 1).toNat, by omega⟩
  have ha : (2 : ℚ) ^ a = 2 ^ i * 2 ^ b * 2 ^ (j + 1) := by
    rw [← zpow_natCast, hj, zpow_add₀ two_ne_zero, zpow_add₀ two_ne_zero, zpow_natCast, zpow_natCast]
  rw [ha, eq_div_iff (by positivity)] at e
  have e' : ((2 * n + 1 : Nat) : ℚ) = (K * 2 ^ (j + 1) : Nat) := by
    rw [Nat.cast_mul K, ← e, Nat.cast_pow, Nat.cast_ofNat]
    field_simp
  have e'' : 2 * n + 1 = K * 2 ^ (j + 1) := by exact_mod_cast e'
  rw [pow_succ, ← Nat.mul_assoc] at e''
  omega

section close
variable {A : ℚ} {rm : Nat} {neg : Bool} (hlo : 2 ^ (-126 : Int) ≤ A)
include hlo

/-- A normal result lies within 2^−23 of the number, relatively. -/
theorem f32_near_error : |f32.at (f32.near rm neg A) - A| ≤ A / 2 ^ 23 := by
  have hpos : 0 < A := lt_of_lt_of_le (by positivity) hlo
  have hbelow := Fmt.at_under_le (f := f32) hpos
  have habove := Fmt.lt_at_under_succ (f := f32) hpos
  have hstep : f32.at (f32.under A + 1) - f32.at (f32.under A) ≤ A / 2 ^ 23 := by
    have hlog : f32.emin ≤ Int.log 2 A := by
      rw [← not_lt, log_lt_iff hpos, f32_emin]
      exact not_lt.2 hlo
    have hunit : f32.unit A = Int.log 2 A - (23 : Nat) := by
      rw [Fmt.unit, max_eq_left hlog]
      rfl
    rw [Fmt.at_under hpos, Fmt.at_under_succ hpos, Nat.cast_add_one, add_one_mul, add_sub_cancel_left, hunit, zpow_sub₀ two_ne_zero, zpow_natCast]
    exact div_le_div_of_nonneg_right (log_bounds hpos).1 (by positivity)
  rcases Fmt.near_eq_or (f := f32) (q := A) rm neg with h | h
  · rw [h, abs_of_nonpos (by linarith)]
    linarith
  · rw [h, abs_of_nonneg (by linarith)]
    linarith

/-- So it does of a real number close by. -/
theorem f32_near_real {L : ℝ} (hL : |(A : ℝ) - L| ≤ A / 2 ^ 60) : |(f32.at (f32.near rm neg A) : ℝ) - L| ≤ L / 2 ^ 22 := by
  have hpos : (0 : ℝ) < A := by exact_mod_cast lt_of_lt_of_le (by positivity) hlo
  have hnear : |(f32.at (f32.near rm neg A) : ℝ) - A| ≤ A / 2 ^ 23 := by exact_mod_cast f32_near_error (rm := rm) (neg := neg) hlo
  have htri := abs_sub_le (f32.at (f32.near rm neg A) : ℝ) A L
  have hL' := (abs_le.1 hL).2
  linarith

end close

/-! ## Bounds of the number that is rounded -/

section inexact
variable {k fr : Nat} (i : Int) (hk : k ≤ 149) (hfr : fr < 2 ^ k) (h0 : fr ≠ 0)
include hk hfr h0

/-- It stands in the unit of the mantissa above which the power lies by less than 2^12 units. -/
theorem exp2In_real : let c : ℝ := 2 ^ i / expScale
    ((exp2In k i fr : ℚ) : ℝ) = (expMant k fr + 1 / 2) * c ∧ expMant k fr * c ≤ 2 ^ (i + fr / 2 ^ k : ℝ) ∧
      2 ^ (i + fr / 2 ^ k : ℝ) ≤ (expMant k fr + 2 ^ 12) * c := by
  intro c
  obtain ⟨h1, h2, h3⟩ := expMant_bounds hk hfr
  have hP := expScale_pos
  have hc : 0 < c := div_pos (zpow_pos two_pos i) hP
  have hpow : (2 : ℝ) ^ (i + fr / 2 ^ k : ℝ) = expScale * 2 ^ ((fr : ℝ) / 2 ^ k) * c := by
    rw [Real.rpow_add two_pos (i : ℝ), Real.rpow_intCast (2 : ℝ) i]
    unfold c
    field_simp
  refine ⟨?_, ?_, ?_⟩
  · rw [exp2In, if_neg h0]
    unfold c expScale
    rw [show (321 : Nat) = 320 + 1 from rfl, pow_succ]
    push_cast
    generalize (2 : ℝ) ^ 320 = p
    generalize (2 : ℝ) ^ i = p'
    ring
  · rw [hpow]
    exact mul_le_mul_of_nonneg_right h2 hc.le
  · rw [hpow]
    exact mul_le_mul_of_nonneg_right h3 hc.le

/-- The number that is rounded is close to the power. -/
theorem exp2In_close : |((exp2In k i fr : ℚ) : ℝ) - 2 ^ (i + fr / 2 ^ k : ℝ)| ≤ (exp2In k i fr : ℚ) / 2 ^ 60 := by
  obtain ⟨hA, hlo, hhi⟩ := exp2In_real i hk hfr h0
  obtain ⟨h1, -, -⟩ := expMant_bounds hk hfr
  have hlarge : (2 : ℝ) ^ 72 ≤ expScale := pow_le_pow_right₀ one_le_two (by decide)
  have hc : (0 : ℝ) < 2 ^ i / expScale := div_pos (zpow_pos two_pos i) expScale_pos
  generalize (2 : ℝ) ^ i / expScale = c at *
  have hM : (2 : ℝ) ^ 72 * c ≤ expMant k fr * c := mul_le_mul_of_nonneg_right (hlarge.trans h1) hc.le
  rw [hA, abs_le]
  constructor <;> linarith

omit hk hfr in
/-- It is no FP32 number, unless the power is beyond them all. -/
theorem exp2In_inexact (hi : i ≤ 127) (m : Nat) : f32.at m ≠ exp2In k i fr := by
  obtain ⟨K, hK⟩ := f32_at_multiple m
  rw [hK, exp2In, if_neg h0]
  exact (odd_ne_multiple (by omega)).symm

/-- It stands at or above the power of two below. -/
theorem exp2In_ge : 2 ^ i ≤ exp2In k i fr := by
  obtain ⟨hA, -, -⟩ := exp2In_real i hk hfr h0
  obtain ⟨h1, -, -⟩ := expMant_bounds hk hfr
  have hreal : (2 : ℝ) ^ i ≤ (exp2In k i fr : ℚ) := by
    rw [hA, mul_div_assoc', le_div_iff₀ expScale_pos, mul_comm]
    exact mul_le_mul_of_nonneg_right (by linarith) (zpow_nonneg zero_le_two i)
  rw [← Rat.cast_le (K := ℝ), Rat.cast_zpow, Rat.cast_ofNat]
  exact hreal

/-- It stays away from the power of two above. -/
theorem exp2In_le : exp2In k i fr ≤ (2 - 1 / 2 ^ (k + 1)) * 2 ^ i := by
  obtain ⟨hA, -, -⟩ := exp2In_real i hk hfr h0
  obtain ⟨-, h2, -⟩ := expMant_bounds hk hfr
  have hpos : (0 : ℝ) < 2 ^ k := by positivity
  have hf : (fr : ℝ) / 2 ^ k ≤ 1 - 1 / 2 ^ k := by
    rw [div_le_iff₀ hpos, sub_mul, one_mul, one_div_mul_cancel hpos.ne']
    have : (fr : ℝ) + 1 ≤ 2 ^ k := by exact_mod_cast hfr
    linarith
  have hpow : (2 : ℝ) ^ ((fr : ℝ) / 2 ^ k) ≤ 2 - 1 / 2 ^ k := by
    have := rpow_one_add_le_one_add_mul_self (s := 1) (p := (fr : ℝ) / 2 ^ k) (by norm_num) (by positivity)
      (hf.trans (by have : (0 : ℝ) ≤ 1 / 2 ^ k := by positivity
                    linarith))
    rw [one_add_one_eq_two, mul_one] at this
    linarith
  have hM := h2.trans (mul_le_mul_of_nonneg_left hpow expScale_pos.le)
  have hsmall : (1 : ℝ) / 2 ≤ expScale * (1 / 2 ^ (k + 1)) := by
    rw [mul_one_div, div_le_div_iff₀ two_pos (by positivity), one_mul]
    calc (2 : ℝ) ^ (k + 1) ≤ 2 ^ 320 := pow_le_pow_right₀ one_le_two (by omega)
      _ ≤ expScale * 2 := by
        have := expScale_pos
        change expScale ≤ _
        linarith
  have hhalf : (1 : ℝ) / 2 ^ k = 2 * (1 / 2 ^ (k + 1)) := by rw [pow_succ]; field_simp
  rw [hhalf] at hM
  have hreal : ((exp2In k i fr : ℚ) : ℝ) ≤ (2 - 1 / 2 ^ (k + 1)) * 2 ^ i := by
    rw [hA, mul_div_assoc', div_le_iff₀ expScale_pos, mul_right_comm]
    refine mul_le_mul_of_nonneg_right ?_ (zpow_nonneg zero_le_two i)
    linarith
  rw [← Rat.cast_le (K := ℝ)]
  push_cast
  exact hreal

end inexact

end Sys2Proof.Machine
end

section
/-! # The powers of two near and below the least normal number (R73)

Below 2^−126 the units of a result are 2^−149, so that the place of a power between two of them has to be known exactly: no power whose
exponent has at most 17 fractional bits lies closely above a multiple of 2^−22, which is computed for all of them. -/

namespace Sys2Proof.Machine

/-! ## The operands -/

theorem small_fraction {z k : Nat} (h : z < 2 ^ 24) (hz : 64 * 2 ^ k ≤ z) : k ≤ 17 := by
  by_contra hk
  have : 2 ^ 18 ≤ 2 ^ k := Nat.pow_le_pow_right Nat.two_pos (by omega)
  omega

/-- What is rounded for an operand that is no integer. -/
theorem fexp2_fraction (rm : Nat) {x : Nat} (h : f32.mag x < f32.inf) (hni : ∀ i : Int, (f32.value x).rat ≠ i) (hlo : -400 < (f32.value x).rat)
    (hhi : (f32.value x).rat < 200) : ∃ (k fr : Nat) (i : Int), k ≤ 149 ∧ fr < 2 ^ k ∧ fr ≠ 0 ∧ (f32.value x).rat = i + fr / 2 ^ k ∧
      (64 ≤ |(f32.value x).rat| → k ≤ 17) ∧ fexp2 rm x = f32.roundMag rm false (exp2In k i fr) := by
  obtain ⟨z, k, hq, hk, hz, e⟩ := fexp2_eq rm h
  obtain ⟨hlt, hparts⟩ := operand_parts z k
  rw [if_neg (not_le.2 hhi), if_neg (not_le.2 hlo)] at e
  have hpos : (0 : ℚ) < 2 ^ k := by positivity
  have hfr : (z % 2 ^ k).toNat ≠ 0 := fun h0 => hni (z / 2 ^ k) (by rw [hq, hparts, h0]; simp)
  refine ⟨k, _, _, hk, hlt, hfr, hq.trans hparts, fun h64 => ?_, e⟩
  rcases hz with rfl | hz
  · exact Nat.zero_le _
  · refine small_fraction hz ?_
    rw [hq, abs_div, abs_of_pos hpos, le_div_iff₀ hpos, ← Int.cast_abs, Int.abs_eq_natAbs, Int.cast_natCast] at h64
    exact_mod_cast h64

theorem fexp2_bounds {q : ℚ} {k fr : Nat} {i : Int} (hfr : fr < 2 ^ k) (h0 : fr ≠ 0) (hq : q = i + fr / 2 ^ k) : (i : ℚ) < q ∧ q < (i + 1 : Int) := by
  have hpos : (0 : ℚ) < 2 ^ k := by positivity
  have h1 : (0 : ℚ) < fr / 2 ^ k := div_pos (by exact_mod_cast Nat.pos_of_ne_zero h0) hpos
  have h2 : (fr : ℚ) / 2 ^ k < 1 := (div_lt_one hpos).2 (by exact_mod_cast hfr)
  rw [hq]
  push_cast
  constructor <;> linarith

/-- Beyond 128 every power overflows. -/
theorem fexp2_large (rm : Nat) {x : Nat} (h : f32.mag x < f32.inf) (hni : ∀ i : Int, (f32.value x).rat ≠ i) (hlo : 128 < (f32.value x).rat) :
    fexp2 rm x = f32.round rm false (2 ^ 128) 1 := by
  rw [f32_round_positive rm (by positivity) Nat.one_pos, Nat.cast_one, div_one, Nat.cast_pow, Nat.cast_ofNat]
  rcases lt_or_ge (f32.value x).rat 200 with hhi | hhi
  · obtain ⟨k, fr, i, hk, hfr, h0, hq, -, e⟩ := fexp2_fraction rm h hni (by linarith) hhi
    have hi : 128 ≤ i := by
      have := hlo.trans (fexp2_bounds hfr h0 hq).2
      have : 128 < i + 1 := by exact_mod_cast this
      omega
    have hge : (2 : ℚ) ^ (f32.bias + 1) ≤ exp2In k i fr := by
      refine le_trans ?_ (exp2In_ge i hk hfr h0)
      rw [← zpow_natCast]
      exact zpow_le_zpow_right₀ one_le_two (le_trans (by decide) hi)
    rw [e, f32_ok.roundMag_overflow hge, f32_ok.roundMag_overflow (pow_le_pow_right₀ one_le_two (by decide))]
  · obtain ⟨z, k, -, -, -, e⟩ := fexp2_eq rm h
    rw [e, if_pos hhi, f32_ok.roundMag_overflow (pow_le_pow_right₀ one_le_two (by decide)),
      f32_ok.roundMag_overflow (pow_le_pow_right₀ one_le_two (by decide))]

/-- In the normal range a power is inexact and within 2^−22 of the real one. -/
theorem fexp2_normal (rm : Nat) {x : Nat} (h : f32.mag x < f32.inf) (hni : ∀ i : Int, (f32.value x).rat ≠ i) (hlo : -126 < (f32.value x).rat)
    (hhi : (f32.value x).rat < 128) : (fexp2 rm x).flags = 16 ∧
      |((f32.value (fexp2 rm x).val).rat : ℝ) - 2 ^ ((f32.value x).rat : ℝ)| ≤ 2 ^ ((f32.value x).rat : ℝ) / 2 ^ 22 := by
  obtain ⟨k, fr, i, hk, hfr, h0, hq, hk17, e⟩ := fexp2_fraction rm h hni (by linarith) (by linarith)
  obtain ⟨hb1, hb2⟩ := fexp2_bounds hfr h0 hq
  have hi1 : -126 ≤ i := by
    have : -126 < i + 1 := by exact_mod_cast hlo.trans hb2
    omega
  have hi2 : i ≤ 127 := by
    have : i < 128 := by exact_mod_cast hb1.trans hhi
    omega
  have hA1 : 2 ^ (-126 : Int) ≤ exp2In k i fr := (zpow_le_zpow_right₀ one_le_two hi1).trans (exp2In_ge i hk hfr h0)
  have hA2 : exp2In k i fr < (2 ^ 24 - 1) * 2 ^ 104 := by
    refine (exp2In_le i hk hfr h0).trans_lt ?_
    rcases hi2.lt_or_eq with hi2 | rfl
    · have hpos : (0 : ℚ) < 1 / 2 ^ (k + 1) := by positivity
      calc (2 - 1 / 2 ^ (k + 1) : ℚ) * 2 ^ i ≤ 2 * 2 ^ (126 : Int) :=
            mul_le_mul (by linarith) (zpow_le_zpow_right₀ one_le_two (by omega)) (by positivity) zero_le_two
        _ < _ := by norm_num
    · have h17 : k ≤ 17 := hk17 (by rw [abs_of_pos (by push_cast at hb1; linarith)]; push_cast at hb1; linarith)
      have hp : (1 : ℚ) / 2 ^ 18 ≤ 1 / 2 ^ (k + 1) := one_div_le_one_div_of_le (by positivity) (pow_le_pow_right₀ one_le_two (by omega))
      calc (2 - 1 / 2 ^ (k + 1) : ℚ) * 2 ^ (127 : Int) ≤ (2 - 1 / 2 ^ 18) * 2 ^ (127 : Int) := by gcongr
        _ < _ := by norm_num
  have hround := f32_normal (rm := rm) (neg := false) hA1 hA2
  rw [if_neg (exp2In_inexact i h0 hi2 _)] at hround
  have hval := (f32_at (f32_near_lt (rm := rm) (neg := false) hA1 hA2).2).1
  have hreal : ((f32.value x).rat : ℝ) = i + fr / 2 ^ k := by rw [hq]; push_cast; rfl
  rw [e, hround, hreal]
  refine ⟨rfl, ?_⟩
  change |((f32.value (f32.near rm false (exp2In k i fr))).rat : ℝ) - _| ≤ _
  rw [hval]
  exact f32_near_real hA1 (exp2In_close i hk hfr h0)

/-! ## Powers with 17 fractional bits keep away from multiples of 2^−22 -/

/-- The next roots of two, scaled. -/
def scaledRoots : Nat → Nat → List Nat
  | 0, _ => []
  | k + 1, root => isqrt (root * 2 ^ funcBits) :: scaledRoots k (isqrt (root * 2 ^ funcBits))

/-- Is each product of `acc` with some of the roots below the next multiple of 2^298 by more than 2^240? The bits [297:240] are not all ones.
(Written with the recursor and the operations on `Nat`, which the kernel evaluates fastest.) -/
noncomputable def keepsBelow (l : List Nat) : Nat → Bool :=
  List.rec (fun acc => Nat.blt (Nat.mod (Nat.shiftRight acc 240) 0x400000000000000) 0x3FFFFFFFFFFFFFF)
    (fun r _ f acc => (f acc).and (f (Nat.shiftRight (Nat.mul acc r) 320))) l

theorem keepsBelow_nil {acc : Nat} (h : keepsBelow [] acc = true) : acc % 2 ^ 298 + 2 ^ 240 < 2 ^ 298 := by
  have h1 : acc >>> 240 % 2 ^ 58 < 2 ^ 58 - 1 := of_eq_true (Nat.blt_eq.symm.trans (eq_true h))
  rw [Nat.shiftRight_eq_div_pow] at h1
  have h3 : acc % 2 ^ 240 < 2 ^ 240 := Nat.mod_lt _ (Nat.two_pow_pos _)
  rw [show (298 : Nat) = 240 + 58 from rfl, pow_add, Nat.mod_mul]
  generalize (2 : Nat) ^ 240 = p at *
  have h4 : p * (acc / p % 2 ^ 58 + 2) ≤ p * 2 ^ 58 := Nat.mul_le_mul_left p (by omega)
  rw [Nat.mul_add] at h4
  omega

theorem keepsBelow_cons {r acc : Nat} {l : List Nat} (h : keepsBelow (r :: l) acc = true) :
    keepsBelow l acc = true ∧ keepsBelow l (acc * r / 2 ^ funcBits) = true := by
  obtain ⟨h1, h2⟩ := Bool.and_eq_true_iff.1 h
  refine ⟨h1, ?_⟩
  rw [funcBits, ← Nat.shiftRight_eq_div_pow]
  exact h2

theorem exp2Go_keepsBelow (frac : Nat) : ∀ (k root acc : Nat), keepsBelow (scaledRoots k root) acc = true →
    exp2Go frac k root acc % 2 ^ 298 + 2 ^ 240 < 2 ^ 298
  | 0, _, _, h => keepsBelow_nil h
  | k + 1, root, acc, h => by
    obtain ⟨h1, h2⟩ := keepsBelow_cons h
    rw [exp2Go]
    split
    · exact exp2Go_keepsBelow frac k _ _ h2
    · exact exp2Go_keepsBelow frac k _ _ h1

/-- A last bit that is 0 changes nothing. -/
theorem exp2Go_double (frac : Nat) : ∀ (k root acc : Nat), exp2Go (2 * frac) (k + 1) root acc = exp2Go frac k root acc
  | 0, root, acc => by
    have hbit : bit (2 * frac) 0 = false := by simp [bit]
    simp [exp2Go, hbit]
  | k + 1, root, acc => by
    have hbit : bit (2 * frac) (k + 1) = bit frac k := by
      rw [bit, bit, pow_succ', Nat.mul_div_mul_left _ _ Nat.two_pos]
    rw [exp2Go, hbit, exp2Go_double frac k, exp2Go]

/-- The first 17 roots of two. -/
def roots17 : List Nat := [
  3020741835252458385312263531300103196517637280126050339706955449755840325450114710955880172569991,
  2540130980670719010491851856061344258685571714501895358366553876549645897423239373361942549012816,
  2329310379544495920941793876451696443054447912737325959033504530152708099066925870871238905468840,
  2230555261217049046525471274274537220328680059867584107117089739323071023200848224988436338862776,
  2182759061569736311452416592843812450668091644839961631438984828317699167971838334877849101739477,
  2159246409757776658017247285428695883468820308707576090149145553641518411747341828589413590770514,
  2147585234304189431994187081615741493943535674631857375168709133956871070984070438615555505702030,
  2141778284278958405929748210953828823148473051251337153431472837054664766058435849978719047911283,
  2138880700047757384181158944545182070457266059485751103306176274100301339873494240103317453127714,
  2137433378302923961136628378833254813431579018361053251523235018337516217132619906656540267501750,
  2136710084732994335315781822979159001139219922000583094048810698544500817988806486388174145610111,
  2136348529737398723297206752811143494144440350956964242297885497918090689179589882372455465990717,
  2136167775182413083892734708178949521862063463777853672832599224670861607010899458789208700831718,
  2136077403640057128972025780163017911861564170952048831229123999994428812849419339631509799428658,
  2136032219302592601212144148708664679640057974227615679884518452009973227553178155158668123459664,
  2136009627492279854296297457217347527527300754922205260596026257622550991676767363142317715156236,
  2135998331676727254418696383962716601486825027767524835545410647823499422040813320323339627017826]

theorem scaledRoots_17 : scaledRoots 17 (2 * 2 ^ funcBits) = roots17 := by decide +kernel

theorem keepsBelow_17 : keepsBelow roots17 (2 ^ funcBits) = true := by decide +kernel

/-- A mantissa with at most 17 fractional bits in its exponent is below the next multiple of 2^298 by more than 2^240. -/
theorem expMant_keepsBelow {k : Nat} (hk : k ≤ 17) (fr : Nat) : expMant k fr % 2 ^ 298 + 2 ^ 240 < 2 ^ 298 := by
  have hbits : ∀ j k fr, j + k = 17 → expMant k fr = expMant 17 (2 ^ j * fr) := by
    intro j
    induction j with
    | zero =>
      intro k fr hj
      rw [pow_zero, Nat.one_mul, show k = 17 by omega]
    | succ j ih =>
      intro k fr hj
      rw [expMant, ← exp2Go_double, ← expMant, ih (k + 1) (2 * fr) (by omega), pow_succ, Nat.mul_assoc]
  rw [hbits (17 - k) k fr (by omega)]
  refine exp2Go_keepsBelow _ 17 _ _ ?_
  rw [scaledRoots_17]
  exact keepsBelow_17

end Sys2Proof.Machine
end

section
/-! # Powers of two below the least normal number (R73) -/

namespace Sys2Proof.Machine

/-- A power of two with a fraction in its exponent is irrational. -/
theorem irrational_power {k fr : Nat} (hfr : fr < 2 ^ k) (h0 : fr ≠ 0) (i : Int) : Irrational ((2 : ℝ) ^ (i + fr / 2 ^ k : ℝ)) := by
  have hroot : Irrational ((2 : ℝ) ^ ((fr : ℝ) / 2 ^ k)) := by
    refine irrational_nrt_of_n_not_dvd_multiplicity (2 ^ k) (m := 2 ^ fr) (by positivity) 2 ?_ ?_
    · rw [← Real.rpow_natCast, ← Real.rpow_mul zero_le_two]
      push_cast
      rw [div_mul_cancel₀ _ (by positivity), Real.rpow_natCast]
    · rw [Nat.cast_ofNat, multiplicity_pow_self_of_prime Int.prime_two]
      rwa [Nat.mod_eq_of_lt hfr]
  have hne : (2 : ℚ) ^ i ≠ 0 := by positivity
  rw [Real.rpow_add two_pos (i : ℝ), Real.rpow_intCast (2 : ℝ) i]
  have := hroot.ratCast_mul hne
  rwa [Rat.cast_zpow, Rat.cast_ofNat] at this

/-- The units below the least normal number. -/
theorem f32_at_subnormal {g : Nat} (hg : g ≤ 2 ^ 24) : f32.at g = g / 2 ^ 149 := by
  have h := f32.at_scaled (t := 0) (k := g) hg (.inl rfl)
  rw [Nat.zero_mul, Nat.zero_add, show ((0 : Nat) : Int) + f32.emin - f32.fw = -149 by decide] at h
  rw [h]
  norm_num
  ring

theorem rpow_lt_unit {y : ℝ} (h : y < -149) : (2 : ℝ) ^ y < 1 / 2 ^ 149 := by
  calc (2 : ℝ) ^ y < 2 ^ (-(149 : Nat) : ℝ) := Real.rpow_lt_rpow_of_exponent_lt one_lt_two (by push_cast; exact h)
    _ = 1 / 2 ^ 149 := by rw [Real.rpow_neg zero_le_two, Real.rpow_natCast, one_div]

section subnormal
variable {k fr : Nat} {i : Int} (hk : k ≤ 149) (hfr : fr < 2 ^ k) (h0 : fr ≠ 0) (hi : i ≤ -127) (hk17 : -150 < i → k ≤ 17)
include hk hfr h0 hi hk17

theorem exp2In_subnormal : exp2In k i fr ≤ (2 - 1 / 2 ^ 18) * 2 ^ (-127 : Int) := by
  refine (exp2In_le i hk hfr h0).trans ?_
  rcases hi.lt_or_eq with hi | rfl
  · have hpos : (0 : ℚ) < 1 / 2 ^ (k + 1) := by positivity
    calc (2 - 1 / 2 ^ (k + 1) : ℚ) * 2 ^ i ≤ 2 * 2 ^ (-128 : Int) :=
          mul_le_mul (by linarith) (zpow_le_zpow_right₀ one_le_two (by omega)) (by positivity) zero_le_two
      _ ≤ _ := by norm_num
  · have hp : (1 : ℚ) / 2 ^ 18 ≤ 1 / 2 ^ (k + 1) :=
      one_div_le_one_div_of_le (by positivity) (pow_le_pow_right₀ one_le_two (by have := hk17 (by decide); omega))
    gcongr

/-- The power stands between the same two FP32 numbers as the number that is rounded. -/
theorem power_between {g : Nat} (h1 : g / 2 ^ 149 ≤ exp2In k i fr) (h2 : exp2In k i fr < (g + 1 : Nat) / 2 ^ 149) :
    (g : ℝ) / 2 ^ 149 < 2 ^ (i + fr / 2 ^ k : ℝ) ∧ (2 : ℝ) ^ (i + fr / 2 ^ k : ℝ) < ((g + 1 : Nat) : ℝ) / 2 ^ 149 := by
  obtain ⟨hA, hlo, hhi⟩ := exp2In_real i hk hfr h0
  have hc : (0 : ℝ) < 2 ^ i / expScale := div_pos (zpow_pos two_pos i) expScale_pos
  obtain ⟨s, hs⟩ : ∃ s : Nat, (s : Int) = 171 - i := ⟨(171 - i).toNat, by omega⟩
  have hunit (m : Nat) : (m : ℝ) / 2 ^ 149 = ((m * 2 ^ s : Nat) : ℝ) * (2 ^ i / expScale) := by
    have hpow : (2 : ℝ) ^ s * 2 ^ i = 2 ^ 171 := by
      rw [← zpow_natCast, hs, ← zpow_add₀ two_ne_zero, sub_add_cancel]
      rfl
    rw [Nat.cast_mul, Nat.cast_pow, Nat.cast_ofNat, mul_assoc, mul_div_assoc', hpow, expScale, show (320 : Nat) = 171 + 149 from rfl, pow_add,
      ← div_div, div_self (by positivity), mul_one_div]
  have hirr := irrational_power hfr h0 i
  have h1' : ((g : ℚ) / 2 ^ 149 : ℚ) ≤ ((exp2In k i fr : ℚ) : ℝ) := by exact_mod_cast h1
  have h2' : ((exp2In k i fr : ℚ) : ℝ) < (((g + 1 : Nat) : ℚ) / 2 ^ 149 : ℚ) := by exact_mod_cast h2
  rw [Rat.cast_div, Rat.cast_pow, Rat.cast_ofNat, Rat.cast_natCast, hunit] at h1' h2'
  generalize hT : (2 : ℝ) ^ (i + fr / 2 ^ k : ℝ) = T at *
  rw [hA] at h1' h2'
  generalize (2 : ℝ) ^ i / expScale = c at *
  have hbelow : g * 2 ^ s ≤ expMant k fr := by
    have h := le_of_mul_le_mul_right h1' hc
    have : ((g * 2 ^ s : Nat) : ℝ) < (expMant k fr + 1 : Nat) := by push_cast at h ⊢; linarith
    exact Nat.lt_succ_iff.1 (by exact_mod_cast this)
  have habove : expMant k fr < (g + 1) * 2 ^ s := by
    have h := lt_of_mul_lt_mul_right h2' hc.le
    have : (expMant k fr : ℝ) < ((g + 1) * 2 ^ s : Nat) := by push_cast at h ⊢; linarith
    exact_mod_cast this
  constructor
  · refine lt_of_le_of_ne ?_ fun e => hirr ⟨(g : ℚ) / 2 ^ 149, by push_cast; exact e⟩
    rw [hunit]
    exact le_trans (mul_le_mul_of_nonneg_right (by exact_mod_cast hbelow) hc.le) hlo
  · rcases lt_or_ge (-150) i with hi' | hi'
    · have hkeep := expMant_keepsBelow (hk17 hi') fr
      have hnext : expMant k fr + 2 ^ 240 < (g + 1) * 2 ^ s := by
        obtain ⟨j, rfl⟩ : ∃ j, s = 298 + j := ⟨s - 298, by omega⟩
        rw [pow_add, mul_left_comm] at habove ⊢
        generalize (g + 1) * 2 ^ j = m at *
        have hdm := Nat.div_add_mod (expMant k fr) (2 ^ 298)
        have hdiv := Nat.div_lt_of_lt_mul habove
        generalize (2 : Nat) ^ 298 = p at *
        have hle := Nat.mul_le_mul_left p hdiv
        rw [Nat.mul_succ] at hle
        omega
      rw [hunit]
      refine hhi.trans_lt (mul_lt_mul_of_pos_right ?_ hc)
      have h12 : (2 : Nat) ^ 12 ≤ 2 ^ 240 := Nat.pow_le_pow_right Nat.two_pos (by decide)
      have : expMant k fr + 2 ^ 12 < (g + 1) * 2 ^ s := by omega
      exact_mod_cast this
    · have hfr' : (fr : ℝ) / 2 ^ k < 1 := by
        rw [div_lt_one (by positivity)]
        exact_mod_cast hfr
      have hi'' : (i : ℝ) ≤ -150 := by exact_mod_cast hi'
      have hpow : T < 1 / 2 ^ 149 := by
        rw [← hT]
        exact rpow_lt_unit (by linarith)
      refine hpow.trans_le (div_le_div_of_nonneg_right ?_ (by positivity))
      exact_mod_cast Nat.le_add_left 1 g

/-- A result below the normal range is tiny, and within 2^−149 of the power. -/
theorem exp2In_tiny (rm : Nat) : (f32.roundMag rm false (exp2In k i fr)).flags = 8 + 16 ∧
    |((f32.value (f32.roundMag rm false (exp2In k i fr)).val).rat : ℝ) - 2 ^ (i + fr / 2 ^ k : ℝ)| < 1 / 2 ^ 149 := by
  have hpos : 0 < exp2In k i fr := lt_of_lt_of_le (by positivity) (exp2In_ge i hk hfr h0)
  have hsub := exp2In_subnormal hk hfr h0 hi hk17
  have hbetween := @power_between k fr i hk hfr h0 hi hk17
  have hinexact := exp2In_inexact (k := k) i h0 (hi.trans (by decide))
  generalize exp2In k i fr = A at *
  have hinf : f32.inf = 255 * 2 ^ 23 := by decide
  have hu : f32.under A < 2 ^ 23 := by
    rw [← Fmt.lt_at_iff hpos, f32_at_subnormal (by norm_num)]
    exact hsub.trans_lt (by norm_num)
  have hu2 : f32.under (2 * A) < 2 ^ 24 - 1 := by
    rw [← Fmt.lt_at_iff (by positivity), f32_at_subnormal (by norm_num)]
    refine lt_of_le_of_lt (mul_le_mul_of_nonneg_left hsub zero_le_two) ?_
    norm_num
  have hnear := Fmt.near_eq_or (f := f32) (q := A) rm false
  have hnear2 := Fmt.near_eq_or (f := f32) (q := 2 * A) rm false
  have htiny : f32.tiny rm false A = true := by
    rw [Fmt.tiny_iff hpos, f32_emin]
    refine ⟨hsub.trans_lt (by norm_num), ?_⟩
    have : (2 : Nat) ^ f32.fw = 2 ^ 23 := rfl
    omega
  obtain ⟨hlt1, hlt2⟩ := hbetween (g := f32.under A) (by rw [← f32_at_subnormal (by omega)]; exact Fmt.at_under_le hpos)
    (by rw [← f32_at_subnormal (by omega)]; exact Fmt.lt_at_under_succ hpos)
  have hval := (f32_at (m := f32.near rm false A) (by omega)).1
  have hflags := Fmt.roundMag_flags (f := f32) (rm := rm) (neg := false) (q := A) (by omega)
  rw [if_neg (hinexact _), if_pos htiny] at hflags
  refine ⟨hflags, ?_⟩
  rw [Fmt.roundMag_val (by omega)]
  change |((f32.value (f32.near rm false A)).rat : ℝ) - _| < _
  rw [hval, f32_at_subnormal (by omega), abs_lt]
  push_cast at hlt2 ⊢
  rcases hnear with h | h
  · rw [h]
    constructor <;> linarith
  · rw [h]
    push_cast
    constructor <;> linarith

end subnormal

theorem fexp2_tiny {rm : Nat} (hrm : rm < 4) {x : Nat} (h : f32.mag x < f32.inf) (hni : ∀ i : Int, (f32.value x).rat ≠ i) (hhi : (f32.value x).rat < -126) :
    (fexp2 rm x).flags = 8 + 16 ∧ |((f32.value (fexp2 rm x).val).rat : ℝ) - 2 ^ ((f32.value x).rat : ℝ)| < 1 / 2 ^ 149 := by
  rcases lt_or_ge (-400) (f32.value x).rat with hlo | hlo
  · obtain ⟨k, fr, i, hk, hfr, h0, hq, hk17, e⟩ := fexp2_fraction rm h hni hlo (by linarith)
    obtain ⟨hb1, -⟩ := fexp2_bounds hfr h0 hq
    have hi : i ≤ -127 := by
      have : i < -126 := by exact_mod_cast hb1.trans hhi
      omega
    have hreal : ((f32.value x).rat : ℝ) = i + fr / 2 ^ k := by rw [hq]; push_cast; rfl
    rw [e, hreal]
    exact exp2In_tiny hk hfr h0 hi (fun _ => hk17 (by rw [abs_of_neg (by linarith)]; linarith)) rm
  · obtain ⟨z, k, -, -, -, e⟩ := fexp2_eq rm h
    rw [e, if_neg (by linarith), if_pos hlo, f32_roundMag_small hrm (by positivity) two_pow_400_lt]
    refine ⟨rfl, ?_⟩
    have hq : ((f32.value x).rat : ℝ) ≤ -400 := by exact_mod_cast hlo
    have hlt := rpow_lt_unit (y := ((f32.value x).rat : ℝ)) (by linarith)
    have hpos : (0 : ℝ) < 2 ^ ((f32.value x).rat : ℝ) := by positivity
    dsimp only
    split
    · rw [(f32_at (by decide)).1, f32_at_subnormal (by norm_num), abs_lt]
      push_cast
      constructor <;> linarith
    · rw [(f32_at (by decide)).1, f32_at_subnormal (by norm_num), abs_lt]
      push_cast
      constructor <;> linarith

end Sys2Proof.Machine
end

section
/-! # The logarithm (R73) -/

namespace Sys2Proof.Machine

/-! ## Integers are FP32 numbers -/

/-- A positive integer of at most 24 bits is an FP32 number. -/
theorem f32_at_integer {j : Nat} (h0 : 0 < j) (h : j < 2 ^ 24) : ∃ m, 0 < m ∧ m < f32.inf ∧ f32.at m = j := by
  have hlo := Nat.log2_self_le h0.ne'
  have hhi := Nat.lt_log2_self (n := j)
  have hlog : j.log2 ≤ 23 := Nat.lt_succ_iff.1 ((Nat.log2_lt h0.ne').2 h)
  obtain ⟨a, ha⟩ := Nat.exists_eq_add_of_le hlog
  have hfull : 2 ^ 23 ≤ j * 2 ^ a := by
    calc 2 ^ 23 = 2 ^ j.log2 * 2 ^ a := by rw [← pow_add, ← ha]
      _ ≤ j * 2 ^ a := Nat.mul_le_mul_right _ hlo
  have hsmall : j * 2 ^ a < 2 * 2 ^ 23 := by
    calc j * 2 ^ a < 2 ^ (j.log2 + 1) * 2 ^ a := Nat.mul_lt_mul_of_pos_right hhi (Nat.two_pow_pos a)
      _ = 2 * 2 ^ 23 := by rw [← pow_add, ha]; ring
  have hinf : f32.inf = 255 * 2 ^ 23 := by decide
  have hat := f32.at_scaled (t := 126 + j.log2) (k := j * 2 ^ a) hsmall.le (.inr hfull)
  refine ⟨(126 + j.log2) * 2 ^ 23 + j * 2 ^ a, by omega, by omega, hat.trans ?_⟩
  have hexp : ((126 + j.log2 : Nat) : Int) + f32.emin - f32.fw = -(a : Int) := by
    have : f32.emin - f32.fw = -149 := by decide
    omega
  rw [hexp, zpow_neg, zpow_natCast]
  push_cast
  field_simp

/-- A small integer is converted without rounding. -/
theorem f32_ofInt_exact (rm : Nat) {z : Int} (h : z.natAbs < 2 ^ 24) : (f32.value (f32.ofInt rm z).val).rat = z ∧ (f32.ofInt rm z).flags = 0 ∧
    (z = 0 → (f32.ofInt rm z).val = 0) := by
  rw [f32.ofInt_eq]
  rcases eq_or_ne z 0 with rfl | hz
  · rw [Fmt.roundQ, if_pos (by simp)]
    refine ⟨?_, rfl, fun _ => rfl⟩
    change (f32.value 0).rat = _
    rw [(f32_at (by decide)).1]
    simp
  · obtain ⟨m, hm0, hm, hat⟩ := f32_at_integer (Int.natAbs_pos.2 hz) h
    have habs : |(z : ℚ)| = f32.at m := by rw [hat, ← Int.cast_abs, Int.abs_eq_natAbs, Int.cast_natCast]
    have hsb := f32.inf_lt_signBit
    rw [Fmt.roundQ_ne_zero _ _ _ (by exact_mod_cast hz), habs, Fmt.roundMag_at hm0 hm]
    refine ⟨?_, rfl, fun e => absurd e hz⟩
    dsimp only
    rw [Fmt.value_rat f32_ok (by rwa [Fmt.mag_withSign (by omega)]), Fmt.mag_withSign (by omega), Fmt.neg_withSign (by omega), ← habs]
    rcases lt_or_ge (z : ℚ) 0 with hneg | hpos
    · simp [hneg, abs_of_neg hneg]
    · simp [not_lt.2 hpos, abs_of_nonneg hpos]

/-! ## Bits of the logarithm -/

/-- Rounding a large number down changes its logarithm little. -/
theorem logb_floor {y : Nat} {x : ℝ} (hy : 2 ^ 512 ≤ y) (h1 : (y : ℝ) ≤ x) (h2 : x ≤ y + 1) : Real.logb 2 y ≤ Real.logb 2 x ∧
    Real.logb 2 x ≤ Real.logb 2 y + 2 / 2 ^ 512 := by
  have hy' : (2 : ℝ) ^ 512 ≤ y := by exact_mod_cast hy
  have hpos : (0 : ℝ) < y := lt_of_lt_of_le (by positivity) hy'
  refine ⟨Real.logb_le_logb_of_le one_lt_two hpos h1, ?_⟩
  have hlog2 : (1 : ℝ) / 2 ≤ Real.log 2 := by linarith [Real.log_two_gt_d9]
  have hquot : Real.log (x / y) ≤ 1 / 2 ^ 512 := by
    calc Real.log (x / y) ≤ x / y - 1 := Real.log_le_sub_one_of_pos (by have := hpos.trans_le h1; positivity)
      _ = (x - y) / y := by rw [sub_div, div_self hpos.ne']
      _ ≤ 1 / 2 ^ 512 := div_le_div₀ zero_le_one (by linarith) (by positivity) hy'
  have hsub : Real.logb 2 x - Real.logb 2 y = Real.log (x / y) / Real.log 2 := by
    rw [Real.log_div (hpos.trans_le h1).ne' hpos.ne', Real.logb, Real.logb, sub_div]
  have hle : Real.log (x / y) / Real.log 2 ≤ 2 / 2 ^ 512 := by
    rw [div_le_iff₀ (by linarith)]
    calc Real.log (x / y) ≤ 1 / 2 ^ 512 := hquot
      _ = 2 / 2 ^ 512 * (1 / 2) := by ring
      _ ≤ 2 / 2 ^ 512 * Real.log 2 := mul_le_mul_of_nonneg_left hlog2 (by positivity)
  linarith

/-- The logarithm of a scaled square. -/
theorem logb_square {y : ℝ} (hy : 0 < y) (j : Nat) : Real.logb 2 (y * y / 2 ^ j) = 2 * Real.logb 2 y - j := by
  rw [Real.logb_div (by positivity) (by positivity), Real.logb_mul hy.ne' hy.ne', Real.logb_pow, Real.logb_self_eq_one one_lt_two]
  ring

/-- The bit that squaring gives, and the number that stays. -/
def squareBit (y : Nat) : Nat := if 2 ^ 513 ≤ y * y / 2 ^ 512 then 1 else 0

def squareRest (y : Nat) : Nat := if 2 ^ 513 ≤ y * y / 2 ^ 512 then y * y / 2 ^ 512 / 2 else y * y / 2 ^ 512

theorem log2Go_succ (k y acc : Nat) : log2Go (k + 1) y acc = log2Go k (squareRest y) (2 * acc + squareBit y) := by
  rw [log2Go, squareRest, squareBit]
  generalize (2 : Nat) ^ 512 = p
  generalize (2 : Nat) ^ 513 = p'
  by_cases h : p' ≤ y * y / p
  · simp only [if_pos h]
  · simp only [if_neg h, Nat.add_zero]

theorem square_quotient {y p : Nat} (hp : 0 < p) (h1 : p ≤ y) (h2 : y < 2 * p) :
    y * y / p * p ≤ y * y ∧ y * y < (y * y / p + 1) * p ∧ p ≤ y * y / p ∧ y * y / p < 4 * p := by
  refine ⟨Nat.div_mul_le_self _ _, ?_, (Nat.le_div_iff_mul_le hp).2 (Nat.mul_le_mul h1 h1), (Nat.div_lt_iff_lt_mul hp).2 ?_⟩
  · rw [Nat.add_mul, Nat.one_mul]
    exact Nat.lt_div_mul_add hp
  · calc y * y < 2 * p * (2 * p) := Nat.mul_lt_mul'' h2 h2
      _ = 4 * p * p := by ring

/-- One squaring: the next bit, and what stays. -/
theorem square_spec {y : Nat} (h1 : 2 ^ 512 ≤ y) (h2 : y < 2 ^ 513) : 2 ^ 512 ≤ squareRest y ∧ squareRest y < 2 ^ 513 ∧
    Real.logb 2 (squareRest y) - 512 ≤ 2 * (Real.logb 2 y - 512) - squareBit y ∧
      2 * (Real.logb 2 y - 512) - squareBit y ≤ Real.logb 2 (squareRest y) - 512 + 2 / 2 ^ 512 := by
  have hpos : (0 : ℝ) < y := by exact_mod_cast lt_of_lt_of_le (Nat.two_pow_pos 512) h1
  have h513 : (2 : Nat) ^ 513 = 2 * 2 ^ 512 := by rw [show (513 : Nat) = 512 + 1 from rfl, pow_succ']
  obtain ⟨hz1, hz2, hz3, hz4⟩ := square_quotient (p := 2 ^ 512) (by positivity) h1 (by rw [← h513]; exact h2)
  have hp : (0 : ℝ) < 2 ^ 512 := by positivity
  rw [squareRest, squareBit]
  obtain ⟨z, hz⟩ : ∃ z, y * y / 2 ^ 512 = z := ⟨_, rfl⟩
  rw [hz] at hz1 hz2 hz3 hz4 ⊢
  have hz1' : (z : ℝ) * 2 ^ 512 ≤ y * y := by exact_mod_cast hz1
  have hz2' : (y : ℝ) * y < (z + 1) * 2 ^ 512 := by exact_mod_cast hz2
  by_cases hb : 2 ^ 513 ≤ z
  · have hw : 2 ^ 512 ≤ z / 2 := by omega
    have hsq := logb_square hpos 513
    have hhalf1 : ((z / 2 : Nat) : ℝ) * 2 ≤ z := by exact_mod_cast Nat.div_mul_le_self z 2
    have hhalf2 : (z : ℝ) + 1 ≤ ((z / 2 : Nat) + 1) * 2 := by exact_mod_cast (show z + 1 ≤ (z / 2 + 1) * 2 by omega)
    have hpow : (2 : ℝ) ^ 513 = 2 ^ 512 * 2 := by rw [show (513 : Nat) = 512 + 1 from rfl, pow_succ]
    have hx1 : ((z / 2 : Nat) : ℝ) ≤ (y : ℝ) * y / 2 ^ 513 := by
      rw [le_div_iff₀ (by positivity), hpow, mul_left_comm, mul_comm]
      exact (mul_le_mul_of_nonneg_right hhalf1 hp.le).trans hz1'
    have hx2 : (y : ℝ) * y / 2 ^ 513 ≤ ((z / 2 : Nat) : ℝ) + 1 := by
      rw [div_le_iff₀ (by positivity), hpow, mul_left_comm, mul_comm]
      exact hz2'.le.trans ((mul_le_mul_of_nonneg_right hhalf2 hp.le).trans_eq (mul_comm _ _))
    obtain ⟨g1, g2⟩ := logb_floor hw hx1 hx2
    rw [if_pos hb, if_pos hb]
    rw [hsq] at g1 g2
    refine ⟨hw, by omega, ?_, ?_⟩
    · push_cast at g1 ⊢
      linarith
    · push_cast at g2 ⊢
      linarith
  · have hsq := logb_square hpos 512
    obtain ⟨g1, g2⟩ := logb_floor (x := (y : ℝ) * y / 2 ^ 512) hz3 (by rwa [le_div_iff₀ hp]) (by rw [div_le_iff₀ hp]; exact hz2'.le)
    rw [if_neg hb, if_neg hb]
    rw [hsq] at g1 g2
    refine ⟨hz3, by omega, ?_, ?_⟩
    · push_cast at g1 ⊢
      linarith
    · push_cast at g2 ⊢
      linarith

/-- The bits that repeated squaring gives enclose the logarithm. -/
theorem log2Go_spec : ∀ (k y acc : Nat), 2 ^ 512 ≤ y → y < 2 ^ 513 → (log2Go k y acc : ℝ) ≤ 2 ^ k * (acc + (Real.logb 2 y - 512)) ∧
    2 ^ k * (acc + (Real.logb 2 y - 512)) ≤ log2Go k y acc + 1 + 2 ^ k * (2 / 2 ^ 512) := by
  intro k
  induction k with
  | zero =>
    intro y acc h1 h2
    have hpos : (0 : ℝ) < y := by exact_mod_cast lt_of_lt_of_le (Nat.two_pow_pos 512) h1
    have hpow (j : Nat) : Real.logb 2 ((2 : ℝ) ^ j) = j := by rw [Real.logb_pow, Real.logb_self_eq_one one_lt_two, mul_one]
    have g1 : (512 : ℝ) ≤ Real.logb 2 y := by
      have := Real.logb_le_logb_of_le one_lt_two (by positivity) (show (2 : ℝ) ^ 512 ≤ y by exact_mod_cast h1)
      rw [hpow] at this
      exact_mod_cast this
    have g2 : Real.logb 2 y ≤ 513 := by
      have := Real.logb_le_logb_of_le one_lt_two hpos (show (y : ℝ) ≤ 2 ^ 513 by exact_mod_cast h2.le)
      rw [hpow] at this
      exact_mod_cast this
    have hsmall : (0 : ℝ) ≤ 2 / 2 ^ 512 := by positivity
    rw [log2Go, pow_zero, one_mul, one_mul]
    constructor <;> linarith
  | succ k ih =>
    intro y acc h1 h2
    obtain ⟨g1, g2, g3, g4⟩ := square_spec h1 h2
    obtain ⟨i1, i2⟩ := ih (squareRest y) (2 * acc + squareBit y) g1 g2
    rw [log2Go_succ]
    have hk : (0 : ℝ) ≤ 2 ^ k := by positivity
    clear ih h1 h2 g1 g2
    push_cast at i1 i2
    generalize Real.logb 2 (squareRest y) - 512 = l' at *
    generalize Real.logb 2 y - 512 = l at *
    generalize (2 : ℝ) / 2 ^ 512 = δ at *
    generalize (log2Go k (squareRest y) (2 * acc + squareBit y) : ℝ) = r at *
    generalize (squareBit y : ℝ) = b at *
    rw [pow_succ]
    generalize (2 : ℝ) ^ k = p at *
    have hlo := mul_le_mul_of_nonneg_left g3 hk
    have hhi := mul_le_mul_of_nonneg_left g4 hk
    constructor <;> linarith

/-! ## What `flog2` rounds -/

/-- The significand of a fraction, scaled by 2^512 (the model's division). -/
def scaledSig (n d : Nat) (e : Int) : Nat :=
  if 0 ≤ e then n * 2 ^ 512 / (d * 2 ^ e.toNat) else n * 2 ^ (-e).toNat * 2 ^ 512 / d

/-- It is exact where the denominator is a small power of two. -/
theorem scaledSig_eq {n k : Nat} {e : Int} (h : k + e ≤ 512) (hk : k ≤ 512) : (scaledSig n (2 ^ k) e : ℚ) = (n : ℚ) / (2 ^ k : Nat) / 2 ^ e * 2 ^ 512 := by
  unfold scaledSig
  split
  · next he =>
    obtain ⟨j, rfl⟩ := Int.eq_ofNat_of_zero_le he
    obtain ⟨a, ha⟩ : ∃ a, 512 = a + (k + j) := ⟨512 - (k + j), by omega⟩
    rw [Int.toNat_natCast, ← pow_add, ha, pow_add 2 a, ← Nat.mul_assoc, Nat.mul_div_cancel _ (Nat.two_pow_pos _)]
    rw [pow_add (2 : ℚ), pow_add (2 : ℚ), zpow_natCast, Nat.cast_mul, Nat.cast_pow, Nat.cast_pow, Nat.cast_ofNat]
    field_simp
  · next he =>
    obtain ⟨j, rfl⟩ : ∃ j : Nat, e = -j := ⟨(-e).toNat, by omega⟩
    obtain ⟨a, ha⟩ : ∃ a, 512 = a + k := ⟨512 - k, by omega⟩
    rw [neg_neg, Int.toNat_natCast, ha, pow_add 2 a, ← Nat.mul_assoc, Nat.mul_div_cancel _ (Nat.two_pow_pos _)]
    rw [pow_add (2 : ℚ), zpow_neg, zpow_natCast, Nat.cast_mul, Nat.cast_mul, Nat.cast_pow, Nat.cast_pow, Nat.cast_pow, Nat.cast_ofNat]
    field_simp

/-- A fraction of an integer is rounded as the number that it is. -/
theorem f32_round_integer (rm : Nat) {z : Int} (hz : z ≠ 0) (j : Nat) :
    f32.round rm (decide (z < 0)) z.natAbs (2 ^ j) = f32.roundQ rm false ((z : ℚ) / 2 ^ j) := by
  have hrat : (FVal.fin (decide (z < 0)) z.natAbs (2 ^ j)).rat = (z : ℚ) / 2 ^ j := by
    rcases lt_or_ge z 0 with h | h
    · simp [FVal.rat, h, abs_of_neg (show (z : ℚ) < 0 by exact_mod_cast h), neg_div]
    · simp [FVal.rat, not_lt.2 h, abs_of_nonneg (show (0 : ℚ) ≤ z by exact_mod_cast h)]
  have hne : (z : ℚ) / 2 ^ j ≠ 0 := div_ne_zero (by exact_mod_cast hz) (by positivity)
  rw [Fmt.round_fin _ _ _ _ (Nat.two_pow_pos j), hrat, Fmt.roundQ_ne_zero _ _ _ hne, Fmt.roundQ_ne_zero _ _ _ hne]

/-- An odd number of small units near a real number that is not too small is inexact, and rounded close to that number. -/
theorem f32_round_real (rm : Nat) {z : Int} {b : Nat} {L : ℝ} (hb : z.natAbs = 2 * b + 1) (hclose : |((z / 2 ^ 221 : ℚ) : ℝ) - L| ≤ 1 / 2 ^ 220)
    (hlow : 1 / 2 ^ 24 ≤ |L|) (hhigh : |L| ≤ 2 ^ 10) : (f32.roundQ rm false (z / 2 ^ 221)).flags = 16 ∧
      |((f32.value (f32.roundQ rm false (z / 2 ^ 221)).val).rat : ℝ) - L| ≤ |L| / 2 ^ 22 := by
  have habs : |(z / 2 ^ 221 : ℚ)| = ((2 * b + 1 : Nat) : ℚ) / 2 ^ 221 := by
    rw [abs_div, abs_of_pos (show (0 : ℚ) < 2 ^ 221 by positivity), ← Int.cast_abs, Int.abs_eq_natAbs, hb, Int.cast_natCast]
  have hinexact (m : Nat) : f32.at m ≠ |(z / 2 ^ 221 : ℚ)| := by
    obtain ⟨K, hK⟩ := f32_at_multiple m
    have := odd_ne_multiple (n := b) (K := K) (a := 221) (b := 149) (i := 0) (by decide)
    rw [zpow_zero, mul_one] at this
    rw [hK, habs]
    exact this.symm
  generalize (z / 2 ^ 221 : ℚ) = w at *
  have hw : w ≠ 0 := fun e => hinexact 0 (by rw [e, f32.at_zero, abs_zero])
  have hunit : (1 : ℝ) / 2 ^ 220 ≤ 1 / 2 ^ 100 := one_div_le_one_div_of_le (by positivity) (pow_le_pow_right₀ one_le_two (by decide))
  have hclose' := hclose.trans hunit
  have hwL : |((|w| : ℚ) : ℝ) - (|L|)| ≤ 1 / 2 ^ 100 := by
    rw [Rat.cast_abs]
    exact (abs_abs_sub_abs_le _ _).trans hclose'
  obtain ⟨hw1, hw2⟩ := abs_le.1 hwL
  have hwlow : (1 : ℝ) / 2 ^ 25 ≤ (|w| : ℚ) := by
    have : (1 : ℝ) / 2 ^ 25 ≤ 1 / 2 ^ 24 - 1 / 2 ^ 100 := by norm_num
    linarith
  have hA1 : 2 ^ (-126 : Int) ≤ |w| := by
    have h25 : (1 / 2 ^ 25 : ℚ) ≤ |w| := by
      rw [← Rat.cast_le (K := ℝ)]
      push_cast at hwlow ⊢
      exact hwlow
    exact le_trans (by norm_num) h25
  have hA2 : |w| < (2 ^ 24 - 1) * 2 ^ 104 := by
    have h11 : |w| ≤ 2 ^ 11 := by
      rw [← Rat.cast_le (K := ℝ), Rat.cast_pow, Rat.cast_ofNat]
      have : (1 : ℝ) / 2 ^ 100 ≤ 1 := by norm_num
      linarith
    exact h11.trans_lt (by norm_num)
  have hround := f32_normal (rm := rm) (neg := decide (w < 0)) hA1 hA2
  rw [if_neg (hinexact _)] at hround
  have hlt := (f32_near_lt (rm := rm) (neg := decide (w < 0)) hA1 hA2).2
  have hsb := f32.inf_lt_signBit
  have hval := Fmt.value_rat f32_ok (x := f32.withSign (decide (w < 0)) (f32.near rm (decide (w < 0)) |w|))
    (lt_of_eq_of_lt (Fmt.mag_withSign (by omega)) hlt)
  rw [Fmt.mag_withSign (by omega), Fmt.neg_withSign (by omega)] at hval
  rw [Fmt.roundQ_ne_zero _ _ _ hw, hround]
  refine ⟨rfl, ?_⟩
  dsimp only
  rw [hval]
  have hsmall : (1 : ℝ) / 2 ^ 100 ≤ (|w| : ℚ) / 2 ^ 60 := by
    refine le_trans (by norm_num) (div_le_div_of_nonneg_right hwlow (by positivity))
  rcases lt_or_ge w 0 with hneg | hnn
  · have hnear := f32_near_real (rm := rm) (neg := decide (w < 0)) (L := -L) hA1 (by
      rw [abs_of_neg hneg, Rat.cast_neg, neg_sub_neg, abs_sub_comm, ← Rat.cast_neg, ← abs_of_neg hneg]
      exact hclose'.trans hsmall)
    rw [decide_eq_true hneg] at hnear ⊢
    simp only [if_true, neg_one_mul, Rat.cast_neg]
    rw [← abs_neg, neg_sub', neg_neg]
    exact hnear.trans (div_le_div_of_nonneg_right (neg_le_abs L) (by positivity))
  · have hnear := f32_near_real (rm := rm) (neg := decide (w < 0)) (L := L) hA1 (by
      rw [abs_of_nonneg hnn] at hsmall ⊢
      exact hclose'.trans hsmall)
    rw [decide_eq_false (not_lt.2 hnn)] at hnear ⊢
    simp only [Bool.false_eq_true, if_false, one_mul]
    exact hnear.trans (div_le_div_of_nonneg_right (le_abs_self L) (by positivity))

section log
variable {x : Nat} (h0 : 0 < f32.mag x) (h : f32.mag x < f32.inf) (hs : f32.neg x = false) (rm : Nat)
include h0 h hs

/-- The exponent and the significand of the operand, and what is rounded. -/
theorem flog2_eq : ∃ (e : Int) (m : Nat), e.natAbs ≤ 149 ∧ (m : ℚ) = (f32.value x).rat / 2 ^ e * 2 ^ 512 ∧ 2 ^ 512 ≤ m ∧ m < 2 ^ 513 ∧
    flog2 rm x = if m = 2 ^ 512 then f32.ofInt rm e
      else f32.roundQ rm false (((e * 2 ^ 221 + (2 * log2Go 220 m 0 + 1 : Nat) : Int) : ℚ) / 2 ^ 221) := by
  obtain ⟨hlow, hhigh⟩ := f32_range h0 h hs
  obtain ⟨n, k, ev, hk, -⟩ := f32_value h
  rw [hs] at ev
  have hn : 0 < n := Nat.pos_of_ne_zero fun hn => h0.ne' ((Fmt.value_isZero f32_ok).1 (by rw [ev, hn]; rfl))
  have hd : 0 < 2 ^ k := Nat.two_pow_pos k
  have hq : (f32.value x).rat = (n : ℚ) / (2 ^ k : Nat) := by rw [ev]; simp [FVal.rat]
  have hpos : 0 < (f32.value x).rat := lt_of_lt_of_le (by positivity) hlow
  obtain ⟨hl1, hl2⟩ := log_bounds hpos
  have he1 : -149 ≤ Int.log 2 (f32.value x).rat := by
    rw [← not_lt, log_lt_iff hpos, not_lt]
    exact le_trans (by norm_num) hlow
  have he2 : Int.log 2 (f32.value x).rat < 128 := by
    rw [log_lt_iff hpos]
    exact hhigh.trans_le (by norm_num)
  have hexp : exponentOf n (2 ^ k) = Int.log 2 (f32.value x).rat := by rw [exponentOf_eq hn hd, hq]
  generalize Int.log 2 (f32.value x).rat = E at *
  have hsig : ((scaledSig n (2 ^ k) E : Nat) : ℚ) = (f32.value x).rat / 2 ^ E * 2 ^ 512 := by
    rw [scaledSig_eq (by omega) (by omega), ← hq]
  have hE : (0 : ℚ) < 2 ^ E := by positivity
  have h512 : (0 : ℚ) < 2 ^ 512 := by positivity
  refine ⟨E, scaledSig n (2 ^ k) E, by omega, hsig, ?_, ?_, ?_⟩
  · have : (2 ^ 512 : ℚ) ≤ (scaledSig n (2 ^ k) E : Nat) := by
      rw [hsig]
      exact le_mul_of_one_le_left h512.le ((one_le_div hE).2 hl1)
    exact_mod_cast this
  · have : ((scaledSig n (2 ^ k) E : Nat) : ℚ) < 2 ^ 513 := by
      rw [hsig, pow_succ' (2 : ℚ) 512, mul_lt_mul_iff_left₀ h512, div_lt_iff₀ hE, ← zpow_one_add₀ two_ne_zero, add_comm]
      exact hl2
    exact_mod_cast this
  · have hn0 : (n == 0) = false := by simpa using hn.ne'
    have hcast : ((2 ^ 221 : Nat) : Int) = 2 ^ 221 := Nat.cast_pow 2 221
    have hdef : (if 0 ≤ E then n * 2 ^ 512 / (2 ^ k * 2 ^ E.toNat) else n * 2 ^ (-E).toNat * 2 ^ 512 / 2 ^ k) = scaledSig n (2 ^ k) E := rfl
    rw [flog2, pickNaN_none (by simpa using Fmt.isNaN_of_finite (Fmt.value_finite.2 h)), ev]
    simp only [hn0, Bool.false_eq_true, if_false, hexp, hdef, beq_iff_eq, hcast]
    refine if_congr Iff.rfl rfl ?_
    have hne : E * 2 ^ 221 + (2 * log2Go 220 (scaledSig n (2 ^ k) E) 0 + 1 : Nat) ≠ 0 := by omega
    generalize E * 2 ^ 221 + (2 * log2Go 220 (scaledSig n (2 ^ k) E) 0 + 1 : Nat) = z at hne ⊢
    exact f32_round_integer rm hne 221

/-- The logarithm of a power of two is exact. -/
theorem flog2_power {i : Int} (hi : (f32.value x).rat = 2 ^ i) : (f32.value (flog2 rm x).val).rat = i ∧ (flog2 rm x).flags = 0 ∧
    (i = 0 → (flog2 rm x).val = 0) := by
  obtain ⟨e, m, he, hm, h1, h2, heq⟩ := flog2_eq h0 h hs rm
  have hie : i = e := by
    rw [hi, ← zpow_sub₀ two_ne_zero] at hm
    have hlo : (2 : ℚ) ^ (0 : Int) ≤ 2 ^ (i - e) := by
      have : (2 : ℚ) ^ 512 ≤ m := by exact_mod_cast h1
      rw [hm] at this
      rw [zpow_zero]
      exact (le_mul_iff_one_le_left (by positivity)).1 this
    have hhi : (2 : ℚ) ^ (i - e) < 2 ^ (1 : Int) := by
      have : (m : ℚ) < 2 ^ 513 := by exact_mod_cast h2
      rw [hm, pow_succ' (2 : ℚ) 512] at this
      rw [zpow_one]
      exact lt_of_mul_lt_mul_right this (by positivity)
    rw [zpow_le_zpow_iff_right₀ one_lt_two] at hlo
    rw [zpow_lt_zpow_iff_right₀ one_lt_two] at hhi
    omega
  subst hie
  have hm512 : m = 2 ^ 512 := by
    rw [hi, div_self (by positivity), one_mul] at hm
    exact_mod_cast hm
  rw [heq, if_pos hm512]
  exact f32_ofInt_exact rm (by omega)

omit h0 in
/-- A number other than 1 is at least 2^−24 away from it. -/
theorem f32_not_one (h1 : (f32.value x).rat ≠ 1) : 1 + 1 / 2 ^ 23 ≤ (f32.value x).rat ∨ (f32.value x).rat ≤ 1 - 1 / 2 ^ 24 := by
  obtain ⟨n, k, ev, -, hn⟩ := f32_value h
  rw [hs] at ev
  have hd : (0 : ℚ) < 2 ^ k := by positivity
  have hq : (f32.value x).rat = (n : ℚ) / 2 ^ k := by rw [ev]; simp [FVal.rat]
  rw [hq] at h1 ⊢
  rcases lt_or_gt_of_ne h1 with hlt | hgt
  · right
    rw [div_lt_one hd] at hlt
    have hlt' : n + 1 ≤ 2 ^ k := by exact_mod_cast hlt
    have hsum : (n : ℚ) + 1 ≤ 2 ^ k := by exact_mod_cast hlt'
    rw [div_le_iff₀ hd, sub_mul, one_mul, one_div_mul_eq_div]
    rcases Nat.lt_or_ge 24 k with hk | hk
    · have h24 : (n : ℚ) < 2 ^ 24 := by exact_mod_cast hn.resolve_left (by omega)
      have h25 : (2 : ℚ) ^ 25 ≤ 2 ^ k := pow_le_pow_right₀ one_le_two hk
      rw [le_sub_iff_add_le, ← le_sub_iff_add_le', div_le_iff₀ (by positivity)]
      linarith
    · have hk' : (2 : ℚ) ^ k / 2 ^ 24 ≤ 1 := (div_le_one (by positivity)).2 (pow_le_pow_right₀ one_le_two hk)
      linarith
  · left
    rw [one_lt_div hd] at hgt
    have hgt' : 2 ^ k + 1 ≤ n := by exact_mod_cast hgt
    have hsum : (2 : ℚ) ^ k + 1 ≤ n := by exact_mod_cast hgt'
    have hk : k ≤ 23 := by
      rcases hn with rfl | hn
      · exact Nat.zero_le _
      · by_contra hk
        have : 2 ^ 24 ≤ 2 ^ k := Nat.pow_le_pow_right Nat.two_pos (by omega)
        omega
    have hk' : (2 : ℚ) ^ k / 2 ^ 23 ≤ 1 := (div_le_one (by positivity)).2 (pow_le_pow_right₀ one_le_two hk)
    rw [le_div_iff₀ hd, add_mul, one_mul, one_div_mul_eq_div]
    linarith

/-- The logarithm of a number other than 1 is at least 2^−24. -/
theorem logb_large (h1 : (f32.value x).rat ≠ 1) : 1 / 2 ^ 24 ≤ |Real.logb 2 (f32.value x).rat| := by
  have hpos : (0 : ℝ) < (f32.value x).rat := by exact_mod_cast lt_of_lt_of_le (by positivity) (f32_range h0 h hs).1
  have hlog : 1 / 2 ^ 24 ≤ |Real.log (f32.value x).rat| := by
    rcases f32_not_one h hs h1 with h | h
    · have hq : ((1 + 1 / 2 ^ 23 : ℚ) : ℝ) ≤ (f32.value x).rat := Rat.cast_le.2 h
      push_cast at hq
      have hinv : ((f32.value x).rat : ℝ)⁻¹ ≤ (1 + 1 / 2 ^ 23)⁻¹ := inv_anti₀ (by positivity) hq
      refine le_trans ?_ (le_abs_self _)
      refine le_trans ?_ (Real.one_sub_inv_le_log_of_pos hpos)
      calc (1 / 2 ^ 24 : ℝ) ≤ 1 - (1 + 1 / 2 ^ 23)⁻¹ := by norm_num
        _ ≤ _ := by linarith
    · have hq : ((f32.value x).rat : ℝ) ≤ ((1 - 1 / 2 ^ 24 : ℚ) : ℝ) := Rat.cast_le.2 h
      push_cast at hq
      refine le_trans ?_ (neg_le_abs _)
      linarith [Real.log_le_sub_one_of_pos hpos]
  rw [Real.logb, abs_div, abs_of_pos (Real.log_pos one_lt_two)]
  exact hlog.trans (le_div_self (abs_nonneg _) (Real.log_pos one_lt_two) (by linarith [Real.log_two_lt_d9]))

/-- The number that is rounded is within 2^−220 of the logarithm. -/
theorem log2_close {e : Int} {m : Nat} (hm : (m : ℚ) = (f32.value x).rat / 2 ^ e * 2 ^ 512) (h1 : 2 ^ 512 ≤ m) (h2 : m < 2 ^ 513) :
    |(((e * 2 ^ 221 + (2 * log2Go 220 m 0 + 1 : Nat) : Int) : ℚ) / 2 ^ 221 : ℚ) - Real.logb 2 (f32.value x).rat| ≤ 1 / 2 ^ 220 := by
  have hpos : (0 : ℝ) < (f32.value x).rat := by exact_mod_cast lt_of_lt_of_le (by positivity) (f32_range h0 h hs).1
  have hlog : Real.logb 2 (f32.value x).rat = e + (Real.logb 2 m - 512) := by
    have hm' : (m : ℝ) = (f32.value x).rat / 2 ^ e * 2 ^ 512 := by
      have := congrArg (Rat.cast (K := ℝ)) hm
      simpa only [Rat.cast_natCast, Rat.cast_mul, Rat.cast_div, Rat.cast_zpow, Rat.cast_pow, Rat.cast_ofNat] using this
    rw [hm', Real.logb_mul (by positivity) (by positivity), Real.logb_div hpos.ne' (by positivity), Real.logb_pow,
      ← Real.rpow_intCast, Real.logb_rpow two_pos (by norm_num), Real.logb_self_eq_one one_lt_two]
    push_cast
    ring
  obtain ⟨g1, g2⟩ := log2Go_spec 220 m 0 h1 h2
  have hz : ((((e * 2 ^ 221 + (2 * log2Go 220 m 0 + 1 : Nat) : Int) : ℚ) / 2 ^ 221 : ℚ) : ℝ) = e + (2 * log2Go 220 m 0 + 1) / 2 ^ 221 := by
    simp only [Rat.cast_div, Rat.cast_pow, Rat.cast_ofNat, Rat.cast_add, Rat.cast_mul, Rat.cast_one, Rat.cast_intCast, Rat.cast_natCast, Int.cast_one, Int.cast_add, Int.cast_mul, Int.cast_pow, Int.cast_ofNat,
      Int.cast_natCast, Nat.cast_add, Nat.cast_mul, Nat.cast_ofNat, Nat.cast_one]
    rw [add_div, mul_div_cancel_right₀ _ (by positivity : (2 : ℝ) ^ 221 ≠ 0)]
  rw [hz, hlog, add_sub_add_left_eq_sub]
  have hδ : (2 : ℝ) / 2 ^ 512 ≤ 1 / 2 ^ 221 := by
    rw [div_le_div_iff₀ (by positivity) (by positivity), one_mul, ← pow_succ']
    exact pow_le_pow_right₀ one_le_two (by decide)
  clear h1 h2 hm hlog hz
  have h221 : (2 : ℝ) ^ 221 = 2 ^ 220 * 2 := pow_succ 2 220
  rw [h221] at hδ ⊢
  rw [Nat.cast_zero, zero_add] at g1 g2
  generalize Real.logb 2 m - 512 = l at *
  generalize (log2Go 220 m 0 : ℝ) = r at *
  generalize (2 : ℝ) / 2 ^ 512 = δ at *
  have hp : (0 : ℝ) < 2 ^ 220 := by positivity
  generalize (2 : ℝ) ^ 220 = p at *
  have hl1 : r / p ≤ l := by rwa [div_le_iff₀' hp]
  have hl2 : l ≤ r / p + 1 / p + δ := by
    rw [← add_div, div_add' _ _ _ hp.ne', le_div_iff₀' hp]
    linarith
  have hhalf : (2 * r + 1) / (p * 2) = r / p + 1 / (p * 2) := by field_simp
  have hone : 1 / p = 2 * (1 / (p * 2)) := by field_simp
  have hnn : 0 ≤ 1 / (p * 2) := by positivity
  rw [abs_le, hhalf]
  constructor <;> linarith

/-- Any other logarithm is inexact and within 2^−22 of the real one. -/
theorem flog2_close (hi : ∀ i : Int, (f32.value x).rat ≠ 2 ^ i) : (flog2 rm x).flags = 16 ∧
    |((f32.value (flog2 rm x).val).rat : ℝ) - Real.logb 2 (f32.value x).rat| ≤ |Real.logb 2 (f32.value x).rat| / 2 ^ 22 := by
  obtain ⟨e, m, he, hm, h1, h2, heq⟩ := flog2_eq h0 h hs rm
  have hne : m ≠ 2 ^ 512 := by
    intro hm512
    refine hi e ?_
    rw [hm512, Nat.cast_pow, Nat.cast_ofNat, eq_comm, mul_eq_right₀ (by positivity), div_eq_one_iff_eq (by positivity)] at hm
    exact hm
  have hclose := log2_close h0 h hs hm h1 h2
  have hlarge := logb_large h0 h hs (by have := hi 0; rwa [zpow_zero] at this)
  rw [heq, if_neg hne]
  obtain ⟨z, hz⟩ : ∃ z, e * 2 ^ 221 + (2 * log2Go 220 m 0 + 1 : Nat) = z := ⟨_, rfl⟩
  obtain ⟨b, hb⟩ : ∃ b, z.natAbs = 2 * b + 1 := ⟨z.natAbs / 2, by omega⟩
  rw [hz] at hclose ⊢
  refine f32_round_real rm hb hclose hlarge ?_
  obtain ⟨hlow, hhigh⟩ := f32_range h0 h hs
  have hlow' : ((2 : ℝ) ^ 149)⁻¹ ≤ (f32.value x).rat := by
    have := (Rat.cast_le (K := ℝ)).2 hlow
    push_cast at this
    rwa [one_div] at this
  have hhigh' : ((f32.value x).rat : ℝ) ≤ 2 ^ 128 := by exact_mod_cast hhigh.le
  have hpow (j : Nat) : Real.logb 2 ((2 : ℝ) ^ j) = j := by rw [Real.logb_pow, Real.logb_self_eq_one one_lt_two, mul_one]
  have g1 := Real.logb_le_logb_of_le one_lt_two (by positivity) hlow'
  have g2 := Real.logb_le_logb_of_le one_lt_two (lt_of_lt_of_le (by positivity) hlow') hhigh'
  rw [Real.logb_inv, hpow] at g1
  rw [hpow] at g2
  push_cast at g1 g2
  rw [abs_le]
  constructor <;> linarith

end log

end Sys2Proof.Machine
end

section
/-! # Values of the elements: the statement (R55, R58 to R62, R72 to R74, R140, R148, R155) -/

namespace Sys2Proof.Machine

/-! ## The functions at NaNs, infinities, zeros and negative numbers (R73) -/

section special
variable (rm : Nat) {x : Nat}

theorem functions_nan (hx : x < 2 * f32.signBit) (h : f32.isNaN x = true) : ∀ r ∈ [frcp rm x, frsqrt rm x, fexp2 rm x, flog2 rm x],
    r = ⟨f32.quieted x, if f32.isSNaN x then 1 else 0⟩ := by
  have e := pickNaN_one f32_ok hx
  rw [if_pos h] at e
  simp only [frcp, frsqrt, fexp2, flog2, e, List.forall_mem_cons, List.not_mem_nil, false_imp_iff, implies_true, and_self]

/-- No operand of a function is a NaN: none is chosen. -/
theorem pickNaN_number (h : f32.mag x ≤ f32.inf) : pickNaN f32 [(f32, x)] = none := by
  refine pickNaN_none (List.forall_mem_singleton.2 ?_)
  rw [Bool.eq_false_iff, Ne, Fmt.isNaN_iff]
  exact Nat.not_lt.2 h

theorem functions_inf (h : f32.mag x = f32.inf) : frcp rm x = ⟨f32.withSign (f32.neg x) 0, 0⟩ ∧
    fexp2 rm x = (if f32.neg x then ⟨0, 0⟩ else ⟨f32.inf, 0⟩) ∧ frsqrt rm x = (if f32.neg x then ⟨f32.nan, 1⟩ else ⟨0, 0⟩) ∧
    flog2 rm x = (if f32.neg x then ⟨f32.nan, 1⟩ else ⟨f32.inf, 0⟩) := by
  have e := pickNaN_number h.le
  have hv := Fmt.value_inf h
  refine ⟨?_, ?_, ?_, ?_⟩
  · simp only [frcp, e, hv]
  · simp only [fexp2, e, hv]
  · simp only [frsqrt, e, hv, flagNV]
  · simp only [flog2, e, hv, flagNV]

theorem functions_zero (h : f32.mag x = 0) : frcp rm x = ⟨f32.withSign (f32.neg x) f32.inf, 2⟩ ∧
    frsqrt rm x = ⟨f32.withSign (f32.neg x) f32.inf, 2⟩ ∧ flog2 rm x = ⟨f32.withSign true f32.inf, 2⟩ := by
  have hlt : f32.mag x < f32.inf := h ▸ Nat.zero_lt_of_lt f32_ok.inf_pos
  have e := pickNaN_number hlt.le
  obtain ⟨n, k, hv⟩ := Fmt.value_fin hlt
  have hn : (n == 0) = true := by
    have := (Fmt.value_isZero f32_ok).2 h
    rwa [hv] at this
  refine ⟨?_, ?_, ?_⟩
  · simp only [frcp, e, hv, hn, if_true, flagDZ]
  · simp only [frsqrt, e, hv, hn, if_true, flagDZ]
  · simp only [flog2, e, hv, hn, if_true, flagDZ]

theorem functions_negative (h0 : 0 < f32.mag x) (h : f32.mag x < f32.inf) (hs : f32.neg x = true) :
    frsqrt rm x = ⟨f32.nan, 1⟩ ∧ flog2 rm x = ⟨f32.nan, 1⟩ := by
  have e := pickNaN_number h.le
  obtain ⟨n, k, hv⟩ := Fmt.value_fin h
  have hn : (n == 0) = false := by
    have := mt (Fmt.value_isZero f32_ok).1 h0.ne'
    rwa [hv, Bool.not_eq_true] at this
  constructor
  · simp only [frsqrt, e, hv, hn, hs, Bool.false_eq_true, if_false, if_true, flagNV]
  · simp only [flog2, e, hv, hn, hs, Bool.false_eq_true, if_false, if_true, flagNV]

end special

/-! ## Dot products of decoded elements (R72) -/

theorem exists_mem_map_iff {α β : Type} {f : α → β} {l : List α} {p : β → Prop} : (∃ b ∈ l.map f, p b) ↔ ∃ a ∈ l, p (f a) := by
  simp only [List.mem_map, exists_exists_and_eq_and]

theorem FVal.finite_or_isInf {v : FVal} (h : v ≠ .nan) : v.finite = true ∨ v.isInf := by
  cases v with
  | nan => exact absurd rfl h
  | inf s => cases s <;> simp [FVal.isInf]
  | fin s n d => exact .inl rfl

section dot
variable {l : List (FVal × FVal)} (hl : ∀ p ∈ l, p.1 ≠ .nan ∧ p.2 ≠ .nan) {nans : List (Fmt × Nat)}
  (hnans : ∀ o ∈ nans, o.1.isNaN o.2 = false) (rm : Nat) {c : Nat}

/-- An addend of the dot product is the infinity of sign `s`. -/
def dotInf (c : Nat) (l : List (FVal × FVal)) (s : Bool) : Prop :=
  f32.value c = .inf s ∨ ∃ p ∈ l, (p.1.isInf ∨ p.2.isInf) ∧ (p.1.sign != p.2.sign) = s

/-- The dot product multiplies a zero by an infinity. -/
def dotBad (l : List (FVal × FVal)) : Prop := ∃ p ∈ l, p.1.isInf ∧ p.2.isZero = true ∨ p.1.isZero = true ∧ p.2.isInf

include hl hnans

theorem dotSum_bad (h : dotInf c l true ∧ dotInf c l false ∨ dotBad l) : dotSum rm nans l c = ⟨f32.nan, 1⟩ := by
  by_cases hb : dotBad l
  · exact dotSum_invalid hl hnans rm c hb
  · obtain ⟨hsum, hinf⟩ := dotSum_products hl hnans rm c hb
    obtain ⟨h1, h2⟩ := h.resolve_right hb
    rw [hsum]
    exact Fmt.sum_inf.1 ((hinf _).2 h1) ((hinf _).2 h2)

theorem dotSum_isInf (h : ¬ (dotInf c l true ∧ dotInf c l false ∨ dotBad l)) {s : Bool} (hs : dotInf c l s) :
    dotSum rm nans l c = ⟨f32.withSign s f32.inf, 0⟩ := by
  obtain ⟨hboth, hb⟩ := not_or.1 h
  obtain ⟨hsum, hinf⟩ := dotSum_products hl hnans rm c hb
  have hother : ¬ dotInf c l (!s) := by
    cases s
    · exact fun h' => hboth ⟨h', hs⟩
    · exact fun h' => hboth ⟨hs, h'⟩
  rw [hsum]
  exact Fmt.sum_inf.2 s ((hinf s).2 hs) (mt (hinf _).1 hother)

theorem dotSum_roundsTo (hs : ∀ p ∈ l, p.1.sound ∧ p.2.sound) (hc : f32.isNaN c = false) (h1 : ¬ dotInf c l true) (h2 : ¬ dotInf c l false) :
    f32.roundsTo rm ((f32.value c).rat + (l.map fun p => p.1.rat * p.2.rat).sum)
      (zeroSign rm (f32.neg c :: l.map fun p => p.1.sign != p.2.sign)) (dotSum rm nans l c) := by
  have hno (s : Bool) : ¬ dotInf c l s := by cases s <;> assumption
  have hfin : ∀ p ∈ l, p.1.finite = true ∧ p.2.finite = true := fun p hp =>
    ⟨(FVal.finite_or_isInf (hl p hp).1).resolve_right fun h => hno _ (.inr ⟨p, hp, .inl h, rfl⟩),
      (FVal.finite_or_isInf (hl p hp).2).resolve_right fun h => hno _ (.inr ⟨p, hp, .inr h, rfl⟩)⟩
  have hcfin : (f32.value c).finite = true := Fmt.value_finite.2
    ((Fmt.inf_or_lt hc).resolve_left fun h => hno _ (.inl (Fmt.value_inf h)))
  rw [Fmt.roundsTo_iff]
  exact dotSum_finite hl hnans rm c hfin hs hcfin

end dot

/-- A TD8 code has the value of its decade (R58). -/
theorem td8Value_decade {p : Nat × Int × Nat} (hp : p ∈ ([(0x40, 0, 5), (0x60, -1, 5), (0x20, 1, 4), (0x30, -2, 4), (0x10, 2, 3), (0x18, -3, 3),
    (0x08, 3, 2), (0x0C, -4, 2), (0x04, 4, 1), (0x06, -5, 1), (0x02, 5, 0), (0x03, -6, 0), (0x01, -7, 0)] : List (Nat × Int × Nat)))
    {k : Nat} (hk : k < 2 ^ p.2.2) (neg : Bool) : let v := td8Value ((if neg then 128 else 0) + p.1 + k)
    v.finite = true ∧ v.sign = neg ∧ v.rat = (if neg then -1 else 1) * (1 + 9 * (k : ℚ) / 2 ^ p.2.2) * 10 ^ p.2.1 := by
  obtain ⟨hc, hfields⟩ := td8Fields_decade p hp k hk neg
  have h := td8Value_of_fields hc hfields
  rwa [Nat.cast_add, Nat.cast_pow, Nat.cast_mul, Nat.cast_ofNat, Nat.cast_ofNat, add_div, div_self (by positivity)] at h

/-! ## The statement -/

/-- Settles O22: each group of clauses is the lemma about its function; the elementary functions are bounded by the error of their scaled
integer computations. -/
theorem laneWriting : Obligations.LaneWriting := by
  unfold Obligations.LaneWriting
  refine ⟨?_, fun cc x y m l hl _ => cmpLanes_getLsbD cc x y m hl, fun p hp k hk neg => td8Value_decade hp hk neg, rfl, rfl, rfl,
    fun c hc hc' => td8To_roundsTo hc hc', ?_, ?_, ?_, ?_, ?_, ?_⟩
  · intro w _ m old f i hi
    refine elem_lanewise ?_ m old f hi
    have := Nat.mul_le_of_le_div w (i + 1) 2048 hi
    rwa [Nat.mul_comm, Nat.mul_succ] at this
  · intro v sn r near
    refine ⟨?_, ?_, ?_⟩
    · rintro rfl
      rfl
    · rintro (_ | _) rfl <;> rfl
    · rintro s n d rfl hd
      exact td8Of_fin s n hd sn
  · intro rm x hrm hx q v sg rsq ex lg
    refine ⟨functions_nan rm hx, functions_inf rm, functions_zero rm, fun h => ⟨fun i hi => fexp2_whole hrm h hi, fun hni =>
      ⟨fexp2_large rm h hni, fexp2_normal rm h hni, fexp2_tiny hrm h hni⟩⟩, fun h0 h => ⟨frcp_roundsTo rm h0 h, functions_negative rm h0 h, fun hs => ?_⟩⟩
    obtain ⟨hdown, hup, hnear, hneg, hfin, hflags⟩ := frsqrt_bounds h0 h hs rm hrm
    exact ⟨hdown, hup, hnear, hneg, hfin, hflags, fun i hi => flog2_power h0 h hs rm hi, flog2_close h0 h hs rm⟩
  · rintro rm c _ l m o fs _ rfl hl hn hmem ho
    exact dotSum_nan rm c fs hl hn hmem ho
  · intro val hval rm c nans l _ _ hnans hc hl r isInf sign infs bad signs
    have hsound : ∀ x, (val x).sound := by
      rcases List.mem_pair.1 hval with rfl | rfl
      · exact bf16.value_sound
      · exact td8Value_sound
    have hl' : ∀ p ∈ l.map fun p => (val p.1, val p.2), p.1 ≠ .nan ∧ p.2 ≠ .nan := List.forall_mem_map.2 hl
    have hinfs (s : Bool) : dotInf c (l.map fun p => (val p.1, val p.2)) s ↔ infs s := or_congr_right exists_mem_map_iff
    have hbad : (dotInf c (l.map fun p => (val p.1, val p.2)) true ∧ dotInf c (l.map fun p => (val p.1, val p.2)) false ∨
        dotBad (l.map fun p => (val p.1, val p.2))) ↔ bad := or_congr (and_congr (hinfs _) (hinfs _)) exists_mem_map_iff
    refine ⟨fun h => dotSum_bad hl' hnans rm (hbad.2 h), fun h s hs => dotSum_isInf hl' hnans rm (mt hbad.1 h) ((hinfs s).2 hs), fun h1 h2 => ?_⟩
    have hr := dotSum_roundsTo hl' hnans rm (List.forall_mem_map.2 fun p _ => ⟨hsound _, hsound _⟩) hc (mt (hinfs _).1 h1) (mt (hinfs _).1 h2)
    rwa [List.map_map, List.map_map] at hr
  · intro rm m x f T _ hx h0 hT r
    obtain ⟨htag, hval, hflags⟩ := redSum_tree (rm := rm) hx h0 fun l i =>
      (hT l i).trans (by cases T l (2 * i) <;> cases T l (2 * i + 1) <;> rfl)
    exact ⟨htag, hval.trans (by cases T 8 0 <;> rfl), hflags⟩
  · intro larger m x act r
    refine ⟨fun f hx => ⟨fun h => ?_, fun l y z e hl hy => redExtreme_nan hx e hl hy, redExtreme_numbers hx⟩,
      fun hx => ⟨redExtreme_td8_nan hx, redExtreme_td8 hx⟩⟩
    unfold r redExtreme
    simp only [show activeElems (tagWidth x.tag) m x.bits = [] from h, hx]

end Sys2Proof.Machine
end
